-- ==== Sys2Proof/Word.lean ====
section
/-! DEFINITION. The words of the part: bytes and the 16-, 32- and 64-bit words of its registers and structures,
and the sparse maps and byte lists the state is made of (plain data). -/

namespace Sys2Proof

/-- One byte. -/
abbrev Byte := BitVec 8
/-- A 16-bit word: BF16 codes and halves of table words. -/
abbrev W16 := BitVec 16
/-- A 32-bit word: every control-window register (02 R62 on), FP32 codes. -/
abbrev W32 := BitVec 32
/-- A 64-bit word: global memory addresses, steps, rack times, generators. -/
abbrev W64 := BitVec 64

/-- A list of bytes in ascending address order (00 R8: multi-byte fields are little-endian). -/
abbrev Bytes := List Byte

/-- A sparse table: (key, value) pairs, keys strictly rising. What a key that is not listed holds is said by
the accessor that reads the table. -/
abbrev SMap (α : Type) := List (Nat × α)

end Sys2Proof
end

