-- ==== Sys2Proof/Syntax.lean ====
section
/-! DEFINITION. The commands of the part, one constructor per row of the spec's opcode table, and the plain data
their operands are made of. A row that is a mailbox command names the mailbox that holds its request; its fields
are the bytes of that request (15 R365, 16 R383). Data a row reads from outside the part (host memory by DMA,
packets, converter readings, measured values) is an operand: the environment's. -/

namespace Sys2Proof

/-- A mailbox: function 0 (PF0, mailboxes 0-63) or 1 (PF1, mailboxes 0-7); 15 R363, R365. -/
structure MbxId where
  pf  : Nat
  idx : Nat
deriving DecidableEq, Repr

/-- An IFP packet as it lies on a link: 32 header bytes (10 Table 10.4) and the payload. -/
structure IfpPacket where
  hdr     : Bytes
  payload : Bytes
deriving DecidableEq, Repr

/-- Destination of a mesh packet by its MODE (08 Table 08.2). -/
inductive MeshDest where
  | site    (n : Nat)                 -- MODE 0
  | logical (col row : Nat)           -- MODE 1
  | port    (n : Nat)                 -- MODE 2: 0-23 stack link, 24-41 fabric port, 42 PCIe, 43 Kettle
deriving DecidableEq, Repr

/-- Types of mesh packets (08 Table 08.2, byte 3). -/
inductive MeshType where
  | read | readResp | write | writeAck | msg | atomic | atomicResp | errorResp
deriving DecidableEq, Repr

/-- A mesh packet (08 Table 08.2). `arg` holds the class fields from byte 24 on. -/
structure MeshPacket where
  dest    : MeshDest
  vc      : Nat
  type    : MeshType
  src     : Nat                       -- source site, or 0x400 + external port
  tag     : Nat
  secure  : Bool                      -- WORLD, the world of the sending block
  gma     : W64
  arg     : Bytes
  payload : Bytes
deriving DecidableEq, Repr

/-- A flit error that a router finds: corrected, or uncorrectable in the header or in a payload flit (08 R202). -/
inductive FlitError where
  | corrected | header | payload
deriving DecidableEq, Repr

/-- The two sets of readings of one converter at zero, +48 LSB and -48 LSB, means in 1/64 LSB (07 R169, R170). -/
structure AdcSets where
  zeroA : Int
  plusA : Int
  minusA : Int
  zeroB : Int
  plusB : Int
  minusB : Int
deriving DecidableEq, Repr

/-- The readings of K4, twice each, in 1/64 LSB (07 R172). -/
structure RefReads where
  tiPlus  : Int × Int
  tiMinus : Int × Int
  ref0 : Int × Int
  ref1 : Int × Int
  ref2 : Int × Int
  ref3 : Int × Int
deriving DecidableEq, Repr

/-- What a timed stage of a whole-tile run measures (07 Table 07.2). -/
inductive CalMeasure where
  | settled                          -- K2
  | trims   (adc : List AdcSets)     -- K3: the sets of converters 0-520
  | refs    (r : RefReads)           -- K4
  | columns (codes : List (List Int))  -- K6: of physical columns 0-519, the codes of the two halves before clamping
deriving DecidableEq, Repr

/-- A cell that program-verify could not place, with its measured range (06 R157). -/
structure Defect where
  row : Nat
  cell : Nat        -- cell column 0-1047
  lo  : Nat
  hi  : Nat
deriving DecidableEq, Repr

/-- Operand modes of the MAC array (05 Table 05.1). For the FP8 modes the flags say E5M2. -/
inductive MacMode where
  | i8
  | f8  (aE5 bE5 : Bool)
  | i4
  | w4i (fp4 : Bool)
  | w4f (fp4 mx bE5 : Bool)
deriving DecidableEq, Repr

/-- Operations of one lane of the vector unit (05 R121). -/
inductive VecOp where
  | add | sub | mul | fma | min | max | cmpLt | select
  | toBf16 | fromBf16 | toE4m3 | fromE4m3 | toE5m2 | fromE5m2
  | toInt4 | fromInt4 | toInt8 | fromInt8 | toInt32 | fromInt32
  | exp2 | log2 | recip | rsqrt | div | sqrt
deriving DecidableEq, Repr

/-- Reductions of the vector unit (05 R122). -/
inductive RedOp where
  | sum | max | min
deriving DecidableEq, Repr

/-- A place in a Stockpot object: its handle and a byte offset (09 R217). -/
structure ObjPlace where
  handle : Nat
  off    : Nat
deriving DecidableEq, Repr

/-- Rows of a context cache: row j lies at `first.off + stride * j` (05 R138). -/
structure CacheRows where
  first  : ObjPlace
  stride : Nat
deriving DecidableEq, Repr

/-- One chunk of a class 5 program (05 R118-R123, R138-R140). Addresses are byte offsets in the core's store, but for
context caches and weights, which lie in Stockpot objects. `far` is what other parts answer to the reads of pages that lie
there, by address (09 R228); a read that has no answer in it fails. -/
inductive EngineItem where
  | mac    (mode : MacMode) (a b acc n : Nat) (scale : Nat)      -- n products added to the accumulator at acc
  | vec    (op : VecOp) (a b c dst n : Nat)                      -- n lanes of FP32
  | vecBf16 (op : VecOp) (a b c dst n : Nat)                     -- n lanes of BF16
  | reduce (op : RedOp) (src dst n : Nat)
  | rope   (pos : Nat) (freq : W32) (dst : Nat)                  -- angle, sine, cosine at dst, dst + 4, dst + 8
  | toMx   (src dst n : Nat)                                     -- a vector in MXFP4 (R68)
  | toE4m3 (src dst n : Nat)                                     -- a vector in FP8 E4M3
  | stage  (src : ObjPlace) (dst n : Nat) (far : List (W64 × Bytes))       -- weights read into program space (R140)
  | cacheRow (mx : Bool) (src d : Nat) (dst : ObjPlace)          -- a new key or value in cache format (R138)
  | attend (q dst d len : Nat) (kMx : Bool) (k v : CacheRows) (smScale : W32) (mask : List Bool) (far : List (W64 × Bytes))
deriving DecidableEq, Repr

/-- One sequence as it travels with its frame (12 Table 12.2, R293). -/
structure SeqMsg where
  hostTag : W64
  ctx     : Nat
  pfx     : Nat
  delta   : Nat
  version : Nat       -- captured delta version (object handle), 0 for none
  gen     : Nat
  k       : Nat
  kUsed   : Nat
  inLen   : Nat
  outCap  : Nat
  inAddr  : W64
  outAddr : W64
  temp    : W16
  topK    : Nat
  drafts  : List W32  -- draft tokens d_1 ... of a token input, those run
deriving DecidableEq, Repr

/-- One layer's entry of a frame's quality tally (04 R108). -/
structure TallyRow where
  layer   : Nat
  refused : Nat
  clipped : Nat
deriving DecidableEq, Repr

/-- How a frame ends (15 Table 15.6). -/
inductive FrameEnd where
  | completed
  | aborted
  | refused (status index : Nat)
  | failed  (status index : Nat)
deriving DecidableEq, Repr

/-- What a frame finds on a part beside its pool: the frames that peers grant, as (part, frame), each peer's in the order of
its answers (09 R228), and the pages of activation spill that its pass takes there (09 R219). -/
structure FrameSupply where
  granted : List (Nat × Nat) := []
  spill   : Nat := 0
deriving DecidableEq, Repr

/-- A frame as it travels through the stages (12 R293), or the marker it has become (12 R292, R295). -/
structure FrameMsg where
  tag      : W64
  step     : W64
  gen      : Nat
  qrecAddr : W64
  qrecCap  : Nat
  seqs     : List SeqMsg
  tally    : List TallyRow
  clipped  : Bool
  crossGen : Bool
  replayed : Bool
  marker   : Option FrameEnd     -- none: a live frame
deriving DecidableEq, Repr

/-- The outcome the exit part sends to every part (12 R294): the frame, how it ended, and for each sequence the
accepted count a. -/
structure OutcomeMsg where
  step     : W64
  tag      : W64
  outcome  : FrameEnd
  accepted : List Nat
deriving DecidableEq, Repr

/-- What a sequence's pass yields at the exit part: the FP32 logits of every input position, or the output rows. -/
inductive SeqResult where
  | logits (perPos : List (List W32))
  | rows   (data : List Bytes)
deriving DecidableEq, Repr

/-- The configuration of one tile in a LAYER_CFG section (13 Table 13.3): the register images and the tables. -/
structure TileCfg where
  row     : Nat
  col     : Nat           -- logical core column
  slot    : Nat
  block   : Nat
  ctrl    : W32
  fs0     : W32
  fs1     : W32
  act     : W32
  peri    : W32
  edge    : W32
  sieve   : W32
  fb      : W32
  table   : List W32      -- 64 entries of the activation table
  scale   : List W16      -- 512
  bias    : List W16      -- 512
deriving DecidableEq, Repr

/-- A LAYER_CFG section: the tiles, the layer's WHISK_SEED, its output dimension and the cache bytes of one position. -/
structure LayerCfg where
  whiskSeed  : W64
  outDim     : Nat
  cacheBytes : Nat
  tiles      : List TileCfg
deriving DecidableEq, Repr

/-- An array record (13 R315): header and the two levels of each cell, byte 512 r + c as in the section. -/
structure ArrayRec where
  row   : Nat
  col   : Nat
  slot  : Nat
  block : Nat
  fp4   : Bool
  cells : SMap Byte        -- 512 r + c to the byte; an unlisted byte is 0
deriving DecidableEq, Repr

/-- A shadow block (13 R316): the 4-bit codes, byte 256 r + b as in the section; an unlisted byte is 0. -/
structure ShadowRec where
  cells : SMap Byte
deriving DecidableEq, Repr

/-- The content of a section (13 Table 13.3). -/
inductive Section where
  | layerCfg (c : LayerCfg)
  | arrays   (a : List ArrayRec)
  | shadow   (b : List ShadowRec)
  | program  (code : Bytes)
deriving DecidableEq, Repr

/-- Header, manifest entries and signature block of a layout image as the reader's DMA returns them (13 R311-R313). -/
structure ImageHead where
  header  : Bytes
  entries : List Bytes
  sig     : Bytes
deriving DecidableEq, Repr

/-- What a DMA read that ends in an error was for (15 R381). -/
inductive DmaUser where
  | frame   (slot : Nat) (step : W64)
  | command (m : MbxId)
  | tail    (slot : Nat)
deriving DecidableEq, Repr

/-- A context's attributes (12 R304-R306, 09 R218). -/
structure Ctx where
  len     : Nat := 0
  busy    : Bool := false
  acc16   : Int := 16
  zeroRun : Nat := 0
  probe   : Nat := 0                  -- passes since the advised value became 0
  gen     : Nat := 0
deriving DecidableEq, Repr

/-- A prefix's attributes (12 R296). -/
structure Pfx where
  len : Nat
  gen : Nat
deriving DecidableEq, Repr

/-- One delta entry (05 Table 05.5). -/
structure DeltaEntry where
  row : Nat
  col : Nat
  slot : Nat
  val : Int
deriving DecidableEq, Repr

/-- A delta block of one layer on one core of this part (05 R134). -/
structure DeltaBlock where
  site    : Nat
  layer   : Nat
  dexp    : Nat
  entries : List DeltaEntry
deriving DecidableEq, Repr

/-- One version of a delta set (12 R299). -/
structure DeltaVer where
  gen    : Nat
  refs   : Nat                        -- references of admitted frames, and of the handle
  blocks : List DeltaBlock
deriving DecidableEq, Repr

/-- A record read back from a recording (14 Table 14.4). -/
inductive ReplayRec where
  | start   (step : W64) (seedDigest : Bytes) (imageId gen grade ordinal : Nat)
  | frame   (step : W64) (desc : Bytes) (seqs : List Bytes) (gen : Nat) (vers : List Nat) (inputs : List Bytes)
  | outcome (tag : W64) (outcome : FrameEnd)
  | command (step : W64) (request : Bytes)
  | fabric  (step : W64) (pkt : IfpPacket)
  | stop    (step : W64)
deriving DecidableEq, Repr

/-- A page of a saved object. Pages of one key were one shared frame; a byte that is not listed is 0. -/
structure SavedPage where
  key    : Nat
  shared : Bool
  fill   : Nat
  data   : SMap Byte
deriving DecidableEq, Repr

/-- What the entry part's save holds beside its objects (14 R357). -/
structure SavedHead where
  step       : W64
  seedDigest : Bytes
  imageId    : Nat
  gen        : Nat
  grade      : Nat
deriving DecidableEq, Repr

/-- A part's saved state as its DMA read returns it (14 R357, R358): objects by handle, contexts, prefixes, the current
version of each delta set, and the versions. -/
structure SavedState where
  head : Option SavedHead
  objs : SMap (List SavedPage)
  ctxs : SMap Ctx
  pfxs : SMap Pfx
  sets : SMap Nat
  vers : SMap DeltaVer
deriving DecidableEq, Repr

/-- A command or event of the part: one constructor per row of the spec's table, in the table's order. -/
inductive Instr where
  | getInfo (m : MbxId)
  | regRead (m : MbxId)
  | regWrite (m : MbxId)
  | faultRead (m : MbxId)
  | resetWarm (m : MbxId)
  | resetFabricPort (m : MbxId)
  | resetDrainEnd
  | instanceCreate (m : MbxId)
  | instanceRemove (m : MbxId)
  | instanceRemoveDrained (slot : Nat)
  | contextCreate (m : MbxId)
  | contextRelease (m : MbxId)
  | prefixCreate (m : MbxId)
  | prefixRelease (m : MbxId)
  | deltaCreate (m : MbxId) (src : Bytes)
  | deltaReplace (m : MbxId) (src : Bytes)
  | deltaSwitch (slot handle : Nat)
  | deltaRelease (m : MbxId)
  | frameSubmit (m : MbxId) (descs : List Bytes) (seqs : List (List Bytes))
  | frameAdmit (slot : Nat) (inputs : List Bytes) (supply : FrameSupply)
  | frameStageArrival (slot : Nat) (frame : FrameMsg) (supply : FrameSupply)
  | frameCommit (slot : Nat) (results : List SeqResult)
  | frameOutcome (slot : Nat) (out : OutcomeMsg)
  | abort (m : MbxId)
  | abortNotice (slot : Nat) (step : W64)
  | passBoundary (slot : Nat) (step : W64)
  | edgeSliceConvert (site head vec : Nat) (members : List Bytes)
  | tilePass (site slot : Nat)
  | chainPromotion (site head : Nat)
  | sieveAddback (site head : Nat)
  | shadowRowArrival (site slot row : Nat)
  | columnClose (site head : Nat)
  | adcDwellComplete (site slot : Nat) (sets : AdcSets)
  | fbWindowEnd
  | fallbackPass (site head : Nat)
  | standinPass (site head : Nat) (members : List Bytes)
  | deltaItem (site head : Nat)
  | compiledProgramItem (site slot : Nat) (item : EngineItem) (upsets : List (Nat × Nat))
  | engineRoundEnd (site : Nat)
  | spoonRecompute (site : Nat)
  | spoonCaptureExpiry (site : Nat)
  | spoonRun (m : MbxId)
  | spoonRead (m : MbxId)
  | spoonRingSizeWrite (value : W32)
  | residualRead (m : MbxId)
  | calRun (m : MbxId)
  | calRunStart (site slot : Nat)
  | calStageComplete (site slot : Nat) (meas : CalMeasure)
  | calRunEnd (site slot : Nat)
  | refreshDue (site slot : Nat)
  | refreshStart (site slot : Nat)
  | arrayProgramStart (site slot : Nat)
  | arrayWriteComplete (site slot : Nat) (found : List Defect) (misread : List Nat)
  | coreStoreScrub (site : Nat) (upsets : List (Nat × Nat))
  | meshPacketInject (pkt : MeshPacket)
  | meshPacketDeliver (n : Nat) (errs : List (Nat × FlitError))
  | stackRead (stack : Nat) (pkt : MeshPacket) (upsets : List (Nat × Nat))
  | stackWrite (stack : Nat) (pkt : MeshPacket)
  | stackAtomic (stack : Nat) (pkt : MeshPacket)
  | stackScrub (stack : Nat) (upsets : List (Nat × Nat))
  | stackLinkReplay (stack : Nat) (failed : Bool)
  | stackLinkRetrain (stack : Nat)
  | stackRetrainComplete (stack : Nat) (ok : Bool)
  | stackOccSample (stack : Nat)
  | stockpotWindowEnd
  | copyOnWrite (slot handle page : Nat)
  | pageMigrateRound (handle page : Nat)
  | remotePageRequest (peer : Nat) (secure : Bool) (frames : Nat)
  | remoteKeepalive (peer : Nat)
  | remoteHoldExpiry (peer : Nat)
  | signalDetect (port : Nat)
  | trainingComplete (port : Nat) (ok : Bool)
  | lossOfSignal (port : Nat)
  | hello (port : Nat) (pkt : IfpPacket)
  | helloTimeout (port : Nat)
  | confirm (port : Nat) (pkt : IfpPacket)
  | leave (port : Nat) (pkt : IfpPacket)
  | planeRemapDecision
  | drainComplete (port : Nat)
  | fpReset (port : Nat)
  | fpDrain (port : Nat)
  | fpDisable (port : Nat) (on : Bool)
  | portPolicyWrite (value : W32)
  | coordCommit (coord : Nat)
  | coordTakeover (coord : Nat)
  | rackTick
  | rackTickMissing
  | rackRefclkLost
  | discTime (port : Nat) (pkt : IfpPacket)
  | ifpWrite (port : Nat) (pkt : IfpPacket)
  | ifpRead (port : Nat) (pkt : IfpPacket)
  | ifpAtomic (port : Nat) (pkt : IfpPacket)
  | readResp (port : Nat) (pkt : IfpPacket)
  | planeWaitTimeout
  | fabricLinkReplay (port : Nat) (failed : Bool) (fecCe fecUe : Nat)
  | linkDeath (port : Nat)
  | faultNoticePath (port : Nat) (pkt : IfpPacket)
  | reqTmoExpiry (tag : Nat)
  | groupDefine (m : MbxId) (list : Bytes)
  | groupDelete (m : MbxId)
  | multicast (m : MbxId)
  | allReduce (m : MbxId)
  | reduceScatter (m : MbxId)
  | allGather (m : MbxId)
  | barrier (m : MbxId)
  | ladleFirstTransmission
  | data (port : Nat) (pkt : IfpPacket)
  | ack (port : Nat) (pkt : IfpPacket)
  | ackHoldExpiry (group opId phase block src : Nat)
  | nobuf (port : Nat) (pkt : IfpPacket)
  | ladleRetry (group opId phase block target : Nat) (timedOut : Bool)
  | reject (port : Nat) (pkt : IfpPacket)
  | targetUnresponsive (group opId phase block target : Nat)
  | probe (port : Nat) (pkt : IfpPacket)
  | opTmoExpiry (group opId : Nat)
  | arrive (port : Nat) (pkt : IfpPacket)
  | release (port : Nat) (pkt : IfpPacket)
  | barrierTmoExpiry (group opId : Nat)
  | fail (port : Nat) (pkt : IfpPacket)
  | report (port : Nat) (pkt : IfpPacket)
  | echo (port : Nat) (pkt : IfpPacket)
  | collectorRecordExpiry (suspect : Nat)
  | echoWaitExpiry (suspect : Nat)
  | faultEpochEnd
  | imageLoadPlace (m : MbxId) (head : ImageHead)
  | imageLoadStage (m : MbxId) (head : ImageHead)
  | imageManifest (slot : Nat) (head : ImageHead) (seedDigest : Bytes)
  | imageSection (slot index : Nat) (body : Section)
  | imageVerdict (slot index : Nat) (pass : Bool)
  | imageRejection (slot reason detail : Nat)
  | layerWrite (slot layer : Nat)
  | imageStatus (m : MbxId)
  | genBegin (m : MbxId) (fails : List (Nat × Nat × Nat))
  | genCommit (m : MbxId)
  | genAbort (m : MbxId)
  | genLayerRewrite (slot layer : Nat)
  | genBarrierOpen (slot : Nat)
  | recordStart (m : MbxId)
  | recordStop (m : MbxId)
  | recordRelease (m : MbxId)
  | replayStart (m : MbxId) (recs : List ReplayRec)
  | stateSave (m : MbxId)
  | stateSaveDrained (slot : Nat)
  | stateRestore (m : MbxId) (saved : SavedState)
  | resume (m : MbxId)
  | mbxCtlWrite (m : MbxId) (value : W32) (lowBytes : Bool)
  | mbxRequestWrite (m : MbxId) (offset : Nat) (bytes : Bytes)
  | functionLevelReset (pf : Nat)
  | busMasterEnableSet (pf : Nat)
  | dmaReadError (user : DmaUser) (addr : W64)
  | ringTailRead (slot : Nat) (tail : W64)
  | ringHoldoffEnd (slot : Nat)
  | heartbeatTick
  | powerSet (m : MbxId)
  | hksConversion (channel code : Nat) (value : Int)
  | slowRoundEnd
  | hkiWindowEnd (vin iin iib : Nat)
  | rateBlockEnd
  | arithClockStep
  | hksSliceDwellEnd (setA setB : List Int)
  | nearLimitRecord
  | nearLimitEpisodeEnd
  | inputOvercurrentShutdown
  | overvoltageShutdown
  | trivetRestart
  | tripClear
  | sledCapWrite (value : Nat)
  | hkEventsClear (value : W32)
  | hkTdacWrite (value : W32)
  | vinRemoved
  | coldReset
  | perstNAssert
  | railInRegulation (rail : Nat)
  | fwLoad (m : MbxId) (image : Bytes)
  | startupStageComplete
  | discoveryTimeout
  | testRun (m : MbxId)
  | bistSliceStart (unit : Nat) (covered : Bool)
  | bistSliceComplete (unit : Nat) (failed : Bool)
  | bistBudgetExpiry (unit : Nat)
  | worldAssign (m : MbxId)
  | unitClearingComplete (kind unit : Nat)
  | keyRegister (m : MbxId)
  | keyRevoke (m : MbxId)
  | attestQuote (m : MbxId)
  | lifecycleSet (m : MbxId)
  | setPolicyLock
  | peerCommit
  | certCommit
  | spdmRequest (message : Bytes)
  | fence (host : Bool) (cause : Nat)
  | coreFailed (site : Nat)
  | standinBlocksLoaded (site : Nat)
  | spareSiteSettled (row : Nat)
  | routerFail (site : Nat)
  | tileCntClr (site slot : Nat) (value : W32)
  | edgeCntClr (site slot : Nat) (value : W32)
  | sfbCntClr (site : Nat) (value : W32)
  | spoonCntClr (value : W32)
  | engCntClr (site : Nat) (value : W32)
  | chCntClr (value : W32)
  | calCntClr (value : W32)
  | meshCntClr (value : W32)
  | meshRtCntClr (site : Nat) (value : W32)
  | spCntClr (value : W32)
  | skCntClr (stack : Nat) (value : W32)
  | fabCntClr (value : W32)
  | fpCntClr (port : Nat) (value : W32)
  | ldCntClr (value : W32)
  | lfCntClr (value : W32)
  | svCntClr (slot : Nat) (value : W32)
  | imgCntClr (value : W32)
  | hkCntClr (value : W32)
  | secCntClr (value : W32)
  | btCntClr (value : W32)
  | fltCntClr (value : W32)
  | perstNDeassert
  | busMasterEnableClear (pf : Nat)
  | msixUnmask (pf vector : Nat)
  | remotePageRelease (peer : Nat) (frames : List Nat)
  | pageMigrateStart
  | imageMismatch (slot : Nat)
  | mbxSubmission (m : MbxId) (value : W32) (lowBytes : Bool)
deriving DecidableEq, Repr

end Sys2Proof
end

