-- ==== Sys2Proof/Decode.lean ====
section
/-! DEFINITION. The commands of this block have no encoding: every row of the opcode table gives no bits, so no word
spells a command. -/

namespace Sys2Proof

/-- The command a word of the table's bits spells: none, since no row gives any. -/
def decodeTableWord (_nbits _w : Nat) : Option Instr := none

end Sys2Proof
end

