-- ==== Sys2Proof/Config.lean ====
section
/-! DEFINITION. What an implementation fixes and what the spec leaves open: free values, as constants with no body.
A claim that holds holds for every value of them. Each is named in a row of the assumption log. -/

namespace Sys2Proof

/-- A free whole number; applied to the next number of `State.freeNo`. -/
opaque Config.freeInt : Nat → Int
/-- A free natural number. -/
opaque Config.freeNat : Nat → Nat
/-- A free 32-bit word. -/
opaque Config.freeW32 : Nat → W32
/-- A draw of 64 bits from the on-die entropy source (09 R224). -/
opaque Config.entropy64 : Nat → W64
/-- A draw of 57 bytes from the on-die entropy source (18 R426) or 16 (10 R248). -/
opaque Config.entropyBytes : Nat → Bytes

/-- The sign of a NaN that an operation makes (02 R55, 05 R119 state no sign); its payload is the quiet bit. -/
opaque Config.nanSign : Bool
/-- Minimum and maximum of the vector unit where the order of the operands is not stated: a NaN, zeros of either
sign (05 R121). -/
opaque Config.minOpen : W32 → W32 → W32
opaque Config.maxOpen : W32 → W32 → W32
/-- Deviation in ulp, taken modulo 5 less 2, of exp2, log2, reciprocal, reciprocal square root, sine and cosine from the
rounded value (05 R121, R123: within 2 ulp, identical on every part). -/
opaque Config.exp2Ulp : W32 → Nat
opaque Config.log2Ulp : W32 → Nat
opaque Config.recipUlp : W32 → Nat
opaque Config.rsqrtUlp : W32 → Nat
opaque Config.sinUlp : W32 → Nat
opaque Config.cosUlp : W32 → Nat

/-- Segment of the activation table, modulo 64, for a value y whose distance from X_LO is NaN (02 R55). -/
opaque Config.nanSegment : W32 → Nat

/-- Entries of the built-in GELU and SiLU tables (02 R56): slope and intercept of segment i. -/
opaque Config.geluEntry : Nat → W32
opaque Config.siluEntry : Nat → W32

/-- Ed448 (RFC 8032): verify key message signature; sign private-key message; public key of a private key. -/
opaque Config.ed448Verify : Bytes → Bytes → Bytes → Bool
opaque Config.ed448Sign : Bytes → Bytes → Bytes
opaque Config.ed448Public : Bytes → Bytes
/-- A response of the SPDM 1.2 responder, and what a message does: 1 a session is established, 2 the session ends, 3 the
link IDE stream is programmed (18 R432). -/
opaque Config.spdmAnswer : Nat → Bytes → Bytes
opaque Config.spdmEffect : Nat → Bytes → Nat
/-- The vendor's firmware keys 0-3 and life-cycle keys in the boot ROM (18 R429, R434). -/
opaque Config.vendorFwKey : Nat → Bytes
opaque Config.vendorLcKeys : List Bytes
/-- Whether the equivalent age of a slow round at a temperature, which is no whole number of ns, is rounded up (06 R148). -/
opaque Config.ageRound : Int → Bool
/-- The capabilities a part announces beside SECURED (10 Table 10.9). -/
opaque Config.discCaps : Nat
/-- UNIT of a fault record whose cause names no unit (20 Table 20.2). -/
opaque Config.noUnit : Nat
/-- Step of the test DAC, modulo 9, at the n-th conversion of channel 152 in a slow round (17 R409). -/
opaque Config.dacStep : Nat → Nat
/-- The dynamic I3C address that the sled management controller assigns (10 R241). -/
opaque Config.i3cAddress : Nat
/-- SLOT_STRAP[1:0] as the sled wires it (10 R241, 21 R482). -/
opaque Config.slotStrap : Nat
/-- The security minimum that a firmware image carries (18 R429). -/
opaque Config.imageMin : Bytes → Nat
/-- HK_REDUCE.TEST_ZONES where the zones do not fit its four bits (17 Table 17.8, 19 Table 19.7). -/
opaque Config.zonesShown : Nat → Nat
/-- The serial-number digest, 32 bytes (10 R248). -/
opaque Config.serialByte : Nat → Byte
/-- The bytes that hold a saved state in its buffer (14 R357 names what is saved and gives no layout). -/
opaque Config.savedBytes : SavedState → Bytes

end Sys2Proof
end

