-- ==== Sys2Proof/Machine/State.lean ====
section
/-! DEFINITION. The state of one part, as plain data: everything the spec gives the machine, and the queue of the
commands that wait. Every control-window register lives in `cw` (the copy that reads return) and, where it is
staged, in `act` (the copy in force); a word that is not listed there holds its reset value (Machine/Regs.lean).
What the registers do not show lives in the structures below, each beside the rule that names it. -/

namespace Sys2Proof.Machine

/-- The reasons a command faults. -/
inductive Fault where
  /-- An operand names a unit the part does not have (a site from 800 on, a port from 18 on ...): raised by any
  meaning of a command that names a unit by number. Safe: the hardware has no such unit to act on. -/
  | noSuchUnit
deriving DecidableEq, Repr

/-- The reasons a command is refused by the model. -/
inductive Refusal where
  /-- The command has no meaning yet: raised by an arm of `exec` alone. Safe. -/
  | notModelled (mnemonic : String)
deriving DecidableEq, Repr

/-- The two grades (00 R1). -/
inductive Grade where
  | g8200 | g8170
deriving DecidableEq, Repr

/-- A mailbox as a long command remembers it: after a function-level reset the epoch differs and the final response
is not posted (15 R371). -/
structure MbxRef where
  id    : MbxId
  epoch : Nat
  op    : Nat          -- opcode echoed in the final response
deriving DecidableEq, Repr

/-- One mailbox (15 Tables 15.3 and 15.4). A byte of an area that is not listed reads 0. -/
structure Mailbox where
  own    : Bool := false
  async  : Bool := false
  viol   : Bool := false
  intEn  : Bool := true
  seq    : Byte := 0
  rspSeq : Byte := 0
  final  : Bool := false
  done   : W32 := 0
  req    : SMap Byte := []
  rsp    : SMap Byte := []
  epoch  : Nat := 1                   -- function-level resets so far, from 1; 0 is no mailbox's
deriving DecidableEq, Repr

/-- One cell array (02 R31) with what the ledger keeps of it (06 R156). -/
structure ArraySt where
  levels  : SMap Nat := []          -- 1048 * row + cell column, rows 0-511; unlisted cells are at level 0
  commit  : BitVec 1048 := 0        -- row 512 as its comparator reads it (02 R33)
  cycles  : Nat := 0                -- program count
  defects : List Defect := []       -- defect map, at most 256
  age     : Nat := 0                -- equivalent age, ns (06 R148)
  cellCycles : SMap Nat := []       -- cycles of a cell beyond the program count, 1048 * row + cell (06 R157)
deriving DecidableEq, Repr

/-- The layer a tile is placed with (13 R314, R315). -/
structure Owner where
  slot   : Nat
  layer  : Nat
  block  : Nat
  fp4    : Bool
  outDim : Nat
deriving DecidableEq, Repr

/-- What one tile holds for the input vector in work (02 R38-R50, 04 R93, R101, 05 R135). -/
structure TileWork where
  planes  : List (BitVec 4) := []   -- bit b of entry r is plane b of row r
  shift   : Nat := 0
  latched : Bool := false
  removed : List (Nat × Int) := []  -- (row, 2 * x8) of each element the Sieve removed
  x8      : List Int := []          -- 8-bit slice of fall-back
  s8      : Nat := 0
  fbReady : Bool := false
  xd      : List Int := []          -- 8-bit slice for delta terms
  s8d     : Nat := 0
  deltaDue : Bool := false
  run     : List Int := []          -- narrow adder, per logical column
  satCols : List Nat := []          -- logical columns with a saturated phase
  runDone : Bool := false
  rowsDue : List Nat := []          -- shadow rows requested and not arrived
  sieveDue : Bool := false
  promoted : Bool := false
  vec      : Nat := 0               -- input vector of the pass (02 R47)
  rot      : Nat := 0               -- TILE_ROTPOS.COLUMN while the tile pass ran (04 R109)
deriving DecidableEq, Repr

/-- Stages of a whole-tile calibration run (07 Table 07.2): the last event passed. -/
inductive CalStage where
  | k1 | k2 | k3 | k4 | k6
deriving DecidableEq, Repr

/-- How a run covers the tile's passes (07 R177). -/
inductive CalCover where
  | none | grant | spare | hold
deriving DecidableEq, Repr

/-- The sums of K6 for one physical column, of each half: 16 times Σ measured × ideal, and Σ ideal², in units² (07 R172). -/
structure ColFit where
  col  : Nat
  num1 : Int
  den1 : Nat
  num2 : Int
  den2 : Nat
deriving DecidableEq, Repr

/-- A whole-tile run in progress (07 R172, R173). -/
structure CalRun where
  cls   : Nat                       -- 1 reference, 2 column
  row   : Nat                       -- row of Table 07.3 that asked for it
  temp  : Int                       -- tile temperature at K1, 1/256 °C
  time  : W64                       -- rack time at K1
  stage : CalStage := .k1
  cover : CalCover := .none
  prior : Nat := 1                  -- STATE before K1
  adc   : List AdcSets := []          -- of converters 0-520
  refs  : Option RefReads := none
  cols  : List ColFit := []
deriving DecidableEq, Repr

/-- Why a tile is programmed. -/
inductive ProgFor where
  | load | rewrite | refresh | cover | retire | rebuild | clear | test
deriving DecidableEq, Repr

/-- What an array is being written to (13 R326): the contents and the commit fields. -/
structure ProgJob where
  why     : ProgFor
  target  : SMap Int                -- 512 * row + column, signed units; unlisted weights are 0
  levels  : SMap Byte               -- the levels as an image gives them (13 R315); empty: nominal placement
  fp4     : Bool
  gen     : Nat
  imageId : Nat
  layer   : Nat
  block   : Nat
  slot    : Nat
  blank   : Bool                    -- commit fields at level 0 (18 R422)
  started : Bool := false
deriving DecidableEq, Repr

/-- Steps of a refresh (06 Table 06.3). -/
inductive RefreshStage where
  | h1 | h2 | h3 | h4 | h5 | h6 | inPlace
deriving DecidableEq, Repr

/-- An on-demand Spoon run waiting on a tile (04 R112). -/
structure SpoonReq where
  mbx  : MbxRef
  tile : Nat                          -- key of the tile it names
  seed : W64
deriving DecidableEq, Repr

/-- What the part holds of one tile beside its registers. -/
structure TileSt where
  owner      : Option Owner := none
  serves     : Option Nat := none     -- spare tile: key of the tile it serves in place of
  lastServed : Option Nat := none
  covered    : Bool := false          -- its spare tile serves in its place
  work       : TileWork := {}
  next       : TileWork := {}         -- the second run of the double-buffered narrow adder (02 R42)
  wide       : List Int := []         -- wide accumulators by logical column; a missing entry is 0
  outBuf     : List W16 := []         -- output codes of the last column close
  outScales  : List Byte := []        -- MXFP4 block scales of the last column close
  outSeg     : Bytes := []            -- the output buffer as it is packed (03 R70-R72)
  inBuf      : List (Nat × List Bytes) := []   -- edge slices ahead of their turn (02 R47)
  nextVec    : Nat := 0               -- vectors of the pass whose columns have closed
  dither     : W64 := 0
  dwell      : Nat := 0               -- tile passes of converter 520's dwell
  dwellFails : Nat := 0
  alarmRun   : Nat := 0               -- consecutive reports above THR (04 R114)
  overCols   : List Nat := []         -- columns above COL_THR in the last report
  handed     : List Nat := []         -- columns handed on and not yet judged again (06 R161)
  driftDone  : Option W64 := none     -- when a run asked for by a drift alarm last completed
  driftAgain : Bool := false          -- early refresh asked for by a second alarm (06 R150, R161)
  prevRef    : Option (Nat × Int) := none      -- last measured reference scale and its temperature (07 R168)
  lastK5     : Option W64 := none     -- K5 of the latest run (04 R114)
  passK5     : Option W64 := none     -- K5 of the latest run that passed
  coverRun   : Bool := false          -- the spare tile is placed to cover a column run (07 R177 step 3)
  holdFrom   : Option W64 := none     -- when passes that need the tile began to wait (06 R154, 07 R177)
  early      : Bool := false          -- due for an early refresh (06 R150)
  driftRef   : Bool := false          -- refreshed after a second drift alarm, and calibrated (06 R161)
  driftArm   : Bool := false          -- of those, refreshed in place and not yet calibrated
  noSpare    : Bool := false          -- its spare tile cannot hold its values (06 R152)
  calRun     : Option CalRun := none
  calWait    : List MbxRef := []      -- CAL_RUN commands that wait for the tile's run
  calTries   : Nat := 0
  calFirst   : Bool := false          -- column run after an in-place rewrite (07 R179)
  spoonReq   : Option SpoonReq := none
  shadow     : SMap Int := []         -- shadow copy: 512 * row + logical column, placed value in units
  shadowIn   : Bool := false          -- a shadow copy of the array's contents is resident
  lostRows   : List Nat := []         -- shadow rows lost (20 R458)
  shadowNext : SMap Int := []         -- placed values that enter the shadow copy at the next boundary (06 R159)
  shadowSeen : Bool := false          -- a shadow copy has been resident since start-up (07 Table 07.3)
  zeroed     : Bool := false          -- last written with level 0 in every cell (04 R112)
  lastStep   : W64 := 0
  deltaShare : Option (Nat × Nat) := none      -- delta version of the item under way, and the vectors it still takes (05 R137)
  tempNow    : Int := 0               -- T of the temperature term in force, 1/256 °C (07 R167)
  tempNext   : Int := 0               -- T as last recomputed (07 R167, R176)
  due        : Bool := false          -- due for refresh (06 R150)
  refresh    : Option RefreshStage := none
  prog       : Option ProgJob := none
  standin    : Option Nat := none     -- site of the core that stands in for it (05 R141)
  cfgCopy    : Option (SMap W32) := none       -- configuration its spare tile held in force as the core failed (05 R143)
  retireNext : Bool := false          -- retired at the next boundary
deriving DecidableEq, Repr

/-- A captured Spoon sample of one chain and input vector (04 R109). -/
structure Capture where
  head     : Nat
  vec      : Nat                      -- input vector of the pass
  members  : List Nat
  phys     : List Nat                 -- tiles that ran the pass, one per member
  work     : List TileWork            -- as captured, one per member
  wides    : List Int                 -- the head's accumulators at the column close
  outs     : List W16
  closed   : Bool
  regs     : SMap W32                 -- active configuration of the members' registers at the pass
  onDemand : Option SpoonReq
  test     : Bool                     -- test vector
  raised   : Bool                     -- recomputed at class 5 priority (04 R112)
  time     : W64
  step     : W64
  inst     : Nat
  layer    : Nat
  outDim   : Nat
  zero     : Bool                     -- test vector on an array of zero weights
deriving DecidableEq, Repr

/-- What the part holds of one core beside its registers. -/
structure CoreSt where
  failed    : Bool := false
  blocksIn  : Bool := false           -- failed core: stand-in slot blocks loaded
  srcCache  : List (Nat × Nat) := []  -- shadow row cache, (slot, row), most recently used first (05 R129)
  capture   : Option Capture := none
  sampleGen : W64 := 0
  sampled   : List Nat := []          -- tile slots drawn for the pass and not yet run
  grants    : List Nat := []          -- head slots that hold a fall-back grant, made last first (04 R104)
  winCount  : SMap Nat := []          -- running window counts by head slot (04 R98)
  escal     : List Nat := []          -- head slots of escalated slices (04 R99)
  back      : List Nat := []          -- of those, the ones that return to ARRAY at the next boundary
  covers    : List Nat := []          -- head slots granted as cover of a refresh or a run (06 R154, 07 R177)
  coverEnds : List Nat := []          -- of those, the ones whose cover ends at the next boundary
  grantEnds : List Nat := []          -- granted slices whose slot a stand-in takes at the next boundary (05 R142)
  fbOff     : List Nat := []          -- head slots that have met no boundary since FB_EN was 0 (04 R99)
  blocks    : List (Nat × Nat) := []  -- slot blocks: tile key of the member and place 0-2 (05 Table 05.2)
  lastUe    : Option W64 := none      -- the last uncorrectable core store error (20 R463)
  ueFatal   : Bool := false           -- a second one within 1 ms
  srcPlace  : SMap Nat := []          -- line of the shadow row cache a row lies in, by 512 * slot + row
  programs  : List (Nat × Nat × Nat) := []    -- compiled programs in program space: (home site, instance slot, layer)
  standIn   : Option (Nat × Nat) := none      -- (site, tile slot) served
  tested    : Bool := false           -- under self-test: its members move to stand-in (19 Table 19.6)
  busyRem   : SMap Nat := []          -- engine clocks of a class beyond the last unit of 16 (05 Table 05.7)
deriving DecidableEq, Repr

/-- A page-table entry (09 Table 09.6) with the mark of a lost page (09 R208). -/
structure Page where
  frame     : Nat
  shared    : Bool := false
  pinned    : Bool := false
  migrating : Bool := false
  remote    : Option Nat := none      -- part that holds the frame
  fill      : Nat := 0
  lost      : Bool := false
deriving DecidableEq, Repr

/-- A Stockpot object (09 R216). -/
structure Obj where
  inst   : Nat                        -- instance slot; 64 for the firmware's own
  secure : Bool
  pages  : List Page := []
deriving DecidableEq, Repr

/-- A migration in progress (09 R226). -/
structure Migration where
  handle : Nat
  page   : Nat
  dest   : Nat
  rounds : Nat
  dirty  : List Nat := []             -- 4 KiB blocks written since the round began
deriving DecidableEq, Repr

/-- Stockpot's own state (09). -/
structure Stockpot where
  formed   : Bool := false            -- the pool is formed (19 P9)
  objs     : SMap Obj := []
  refs     : SMap Nat := []           -- reference counts above 1 of shared frames
  used     : List Nat := []           -- frames out of the pool, rising
  key      : W64 := 0
  lowArmed : Bool := true
  occ      : SMap (Nat × Nat × Nat) := []     -- samples, sum and peak of the window per stack
  tracker  : SMap Nat := []           -- accesses of the window by page key (handle * 65536 + page)
  migs     : List Migration := []
  migPlan  : List (Nat × Nat × Nat) := []     -- (handle, page, stack) still to start
  rekeyAt  : Option W64 := none
  seen     : SMap W64 := []           -- by requesting part: its last access to the pages held for it (09 R229)
  lapsed   : List (Nat × Nat) := []   -- frames that were held for a part and are not any more: (part, frame)
  draining : List (Nat × Bool) := []  -- frames let go with accesses to complete, and whether a page was freed (09 R222, R226)
  badLines : List Nat := []           -- lines stored uncorrectable, 64-byte line numbers of the part
  softLines : List Nat := []          -- lines with one bad symbol
  retrain  : List Nat := []           -- stacks whose link retrains
  replays  : SMap Nat := []           -- consecutive failed replays per stack
  outReads : SMap W64 := []           -- last access of this part to a peer's pages
deriving DecidableEq, Repr

/-- A fabric port beside its registers (10). -/
structure PortSt where
  fails    : Nat := 0                 -- consecutive failed trainings
  hellos   : Nat := 0                 -- HELLOs sent in this exchange
  nonce    : Bytes := []
  helloRx  : Option Bytes := none
  confirmTx : Bool := false
  held     : Bool := false            -- its CONFIRM failed only check 7 and is held (10 R252)
  passed   : Bool := false            -- its CONFIRM passed checks 1-6
  replayFails : Nat := 0
  secured  : Bool := false            -- its DISC was signed and checked (18 R423)
  oldPeers : Option (SMap Byte) := none   -- the peer list its exchange began with, where a commit has come since (18 R428)
deriving DecidableEq, Repr

/-- A request kept until its answer (11 R273), or waiting for a path (10 R239). -/
structure FabReq where
  tag    : Nat
  pkt    : IfpPacket
  atomic : Bool
  src    : Option MeshPacket          -- the mesh request it carries; none: the firmware's own
  port   : Option Nat                 -- none: waiting for a path
  resent : Bool
deriving DecidableEq, Repr

/-- The fabric's state beside its registers (10, 11 R272-R276). -/
structure Fabric where
  ports    : SMap PortSt := []
  coord    : BitVec 13 := 0           -- the COORD register
  idCoord  : BitVec 13 := 0           -- the COORD of the offer that was accepted
  i3cAddr  : Option Nat := none       -- dynamic I3C address, once the controller has assigned one (10 R241)
  accepted : Bool := false
  mismatch : Bool := false
  busy     : Bool := false
  waiting  : Bool := true
  running  : Bool := false            -- the first tick has been seen
  goodTicks : Nat := 0
  nextTick : Option W64 := none       -- rack time of the next tick from a DISC TIME frame
  decided  : Bool := false            -- the plane decision has been made
  resets   : List Nat := []           -- plane ports reset since the decision
  reqs     : List FabReq := []
  waits    : List IfpPacket := []     -- other packets that wait at their source, oldest first (10 R238, R239)
  flows    : List ((Nat × Nat) × Nat) := []       -- (destination, stream) and the port its packets went out on, not yet acknowledged by the link
  nextTag  : Nat := 0
  excluded : List (Nat × Nat × Nat × Nat) := []   -- (first and last destination, plane, fault epoch) excluded
deriving DecidableEq, Repr

/-- A Ladle group (11 R257). -/
structure Group where
  stream : Nat
  ids    : List Nat
  tag    : W32
  nextOp : W32 := 0
  secure : Bool := false
deriving DecidableEq, Repr

/-- What a sender keeps for one delivery to one target (11 R260, R261, R267). -/
structure Sending where
  phase   : Nat
  block   : Nat
  target  : Nat                       -- rank
  count   : Nat
  acked   : Nat := 0                  -- the target's NEXT
  due     : Nat := 0                  -- segments that have fallen due: sent, or held
  sent    : Nat := 0                  -- segments sent for the first time
  probing : Bool := false             -- adopted, and PROBEd for its NEXT (11 R268)
  noPath  : Bool := false             -- what is unanswered waits for a path
  backoff : Nat := 0                  -- µs; 0: none pending
  since   : Option W64 := none        -- first NOBUF or timeout of the run
  dead    : Bool := false
deriving DecidableEq, Repr

/-- What a receiver keeps for one delivery from one source (11 R260). -/
structure Receiving where
  phase : Nat
  block : Nat
  src   : Nat                         -- rank
  count : Nat := 0                    -- 0: not yet known
  next  : Nat := 0
  acked : Nat := 0                    -- NEXT of the last ACK sent
  bytes : Bytes := []                 -- a reduction's partial as received
deriving DecidableEq, Repr

/-- A Ladle operation in flight (11 R258). -/
structure LOp where
  group   : Nat
  opId    : W32
  op      : Nat                       -- Table 11.1
  fmtRed  : Nat                       -- byte 2 of Table 11.2
  root    : Nat
  src     : W64
  dst     : W64
  len     : Nat
  targets : List Nat                  -- ranks named
  mbx     : Option MbxRef
  sends   : List Sending := []
  recvs   : List Receiving := []
  done    : Bool := false             -- completed: kept to acknowledge duplicates
  arrived : List Nat := []            -- barrier: ranks that have arrived
  leadersIn : List Nat := []
  firstAt : Option W64 := none        -- barrier: first ARRIVE at the root
  dead    : List Nat := []            -- unresponsive ranks, or ranks not delivered to
  kept    : List (Nat × Nat × Nat × Bytes) := []  -- segments retained: phase, block, number, data (11 R261)
deriving DecidableEq, Repr

/-- A suspect open at the collector (11 R281). -/
structure Suspect where
  key       : Nat
  epoch     : Nat
  cause     : Nat
  reporters : List Nat
  time      : W64
  record    : Option W32              -- SEQ of its fault record once written
deriving DecidableEq, Repr

/-- Ladle and the fault notices beside their registers (11). -/
structure Ladle where
  groups   : SMap Group := []
  ops      : List LOp := []
  retH     : Option Nat := none       -- class 6 retention object (11 R261)
  heldTx   : List (Nat × W32 × Nat × Nat × Nat × Nat) := []   -- first transmissions held: group, OP_ID, phase, block, target, segment
  reported : List (Nat × Nat) := []   -- (suspect, epoch) this part has reported
  heard    : List (Nat × Nat) := []   -- (suspect, epoch) it has received a notice about
  signalled : List (Nat × Nat) := []  -- of those reported, signalled locally
  echoWait : List (Nat × Nat) := []   -- of those reported, no ECHO received yet
  suspects : List Suspect := []
  failedBars : List (W32 × W32) := [] -- (GROUP_TAG, OP_ID) of barriers that have failed
  early    : List (W32 × W32 × Nat) := []         -- ARRIVEs before the barrier is posted here: tag, OP_ID, rank
deriving DecidableEq, Repr

/-- A frame waiting for admission (12 R288): its descriptor and sequence entries as read. -/
structure Waiting where
  desc   : Bytes
  seqs   : List Bytes
  submit : Nat                        -- number of its FRAME_SUBMIT
deriving DecidableEq, Repr

/-- A FRAME_SUBMIT that has not completed (12 R288, 16 R392). -/
structure Submit where
  id       : Nat
  mbx      : MbxRef
  left     : Nat
  admitted : Nat := 0
  refused  : Nat := 0
  aborted  : Nat := 0
deriving DecidableEq, Repr

/-- A frame this part holds. -/
structure Flight where
  msg      : FrameMsg
  pages    : List (Nat × List Page) := []      -- reserved pages by context handle (0: ephemeral)
  cow      : List (Nat × Page) := []  -- pages reserved for copies under R221, by context handle
  spill    : Option Nat := none       -- class 4 object of its activation spill (09 R219)
  aborting : List MbxRef := []        -- ABORT commands that wait for its outcome
  abortSeen : Bool := false
  atExit   : Bool := false
  counted  : Bool := false            -- it takes a place among the frames in flight
  passed   : Bool := false            -- its pass on this part has ended
deriving DecidableEq, Repr

/-- A delta set (12 R299, R300, 13 R340): its current version, one that loads and one that waits for a generation. -/
structure DeltaSet where
  cur     : Nat
  loading : Option (Nat × MbxRef) := none
  pending : Option (Nat × MbxRef) := none
deriving DecidableEq, Repr

/-- A completion ring (15 R372). -/
structure Ring where
  addr     : W64 := 0
  sizeLog2 : Nat := 9
  vector   : Nat := 0
  holdoff  : Nat := 0
  head     : W64 := 0
  tail     : W64 := 0                 -- last valid TAIL read
  tailErr  : W32 := 0
  quiet    : Bool := false            -- within a holdoff
  unsignalled : Bool := false
deriving DecidableEq, Repr

/-- States of a layer record (13 Table 13.7). -/
inductive RecState where
  | writing | committed | failed
deriving DecidableEq, Repr

/-- A layer record of the ledger (13 Table 13.7). -/
structure LayerRec where
  seq     : Nat
  inst    : Nat
  slot    : Nat
  state   : RecState
  layer   : Nat
  imageId : Nat
  gen     : Nat
  prevId  : Nat
  prevGen : Nat
  arrays  : List (Nat × Nat)          -- array list: tile key and input block
deriving DecidableEq, Repr

/-- The two copies of a layer record; none is a copy whose CRC fails. -/
structure LedgerPair where
  a : Option LayerRec
  b : Option LayerRec
  torn : Bool := false                -- as the last scan judged it (13 R329)
deriving DecidableEq, Repr

/-- Layer states (13 Table 13.8, 16 Table 16.6). -/
inductive LayerState where
  | none | committed | torn | failed | writing | staged
deriving DecidableEq, Repr

/-- A layer of an instance on this part: its state and its sections. -/
structure LayerSt where
  layer : Nat
  state : LayerState
  cfg   : Option LayerCfg := Option.none
  arrs  : List ArrayRec := []
  shad  : List ShadowRec := []
  prog  : Bytes := []
  repairDue : Bool := false           -- rewritten shadow blocks wait for the boundary (13 R321)
deriving DecidableEq, Repr

/-- A section of a load on this part. -/
structure SecSt where
  index   : Nat
  kind    : Nat
  layer   : Nat
  len     : Nat := 0                  -- bytes of it
  body    : Option Section := none
  verdict : Option Bool := none
deriving DecidableEq, Repr

/-- An IMAGE_LOAD in progress (13 R318-R322, R333). -/
structure Load where
  stage   : Bool
  skip    : Bool
  mbx     : MbxRef
  group   : Nat
  reader  : Bool
  imageId : Nat
  imageLen : W64
  repair  : Bool
  gen     : Nat := 0
  digest  : Bytes := []               -- manifest digest M
  ownerKey : Bytes := []
  secs    : List SecSt := []
  manifest : Bool := false
  done    : Nat := 0
  newFrames : List Nat := []          -- replacement frames of a repair load
  skey    : Bool := false             -- signed by a secure-world owner key (18 R424)
  stageH  : Option Nat := none        -- class 6 staging object
  shadH   : Option Nat := none        -- class 5 object of the load
  shadSecH : Option Nat := none       -- class 5 object of its secure layers
deriving DecidableEq, Repr

/-- A recording (14 R350-R353), with what the BAR2 page shows (15 Table 15.9). -/
structure Recording where
  on      : Bool := false
  overrun : Bool := false
  pf      : Nat := 0                  -- function whose mailbox started it
  addr    : W64 := 0
  sizeLog2 : Nat := 20
  wr      : W64 := 0
  rd      : W64 := 0
  seq     : W32 := 0
deriving DecidableEq, Repr

/-- A replay in progress (14 R355). -/
structure Replay where
  mbx    : MbxRef
  recs   : List ReplayRec
  frames : Nat := 0
  openTags : List W64 := []           -- frames admitted whose OUTCOME record is still ahead
deriving DecidableEq, Repr

/-- A STATE_SAVE in progress (14 R357). -/
structure Save where
  mbx   : MbxRef
  pause : Bool
  addr  : W64
  cap   : W64
deriving DecidableEq, Repr

/-- An instance in its slot (12 R283, R284). -/
structure Instance where
  number  : Nat
  secure  : Bool := false
  inVec   : Bool := false
  outVec  : Bool := false
  entry   : Nat := 0
  exit    : Nat := 0
  step    : W64 := 0
  seed    : Bytes := []
  ring    : Ring := {}
  inRow   : Nat := 0
  outRow  : Nat := 0
  placed  : Bool := false
  group   : Nat := 0                  -- the Ladle group of its image
  ordinal : Nat := 0
  imageId : Nat := 0
  manifest : Bytes := []              -- manifest digest of the current image
  ownerKey : Bytes := []
  cacheBytes : Nat := 0               -- cache bytes of one position on this part
  skey    : Bool := false             -- the image is signed by a secure-world owner key
  program : Bytes := []               -- engine program of no layer
  layers  : List LayerSt := []
  load    : Option Load := none
  staged  : List LayerSt := []        -- sections of the next generation
  stagedId : Nat := 0
  stagedDigest : Bytes := []
  stagedKey : Bytes := []             -- owner key of the staged image
  stagedSkey : Bool := false
  stagedProgram : Bytes := []
  stagedH : Option Nat := none        -- class 6 object of the staged sections
  prepared : List Nat := []           -- layers of the change under way that this part has rewritten
  genJob  : Option MbxRef := none     -- GEN_COMMIT in progress
  pause   : Bool := false             -- PAUSE barrier
  save    : Option Save := none
  restoring : Bool := false
  removing : Option MbxRef := none
  waiting : List Waiting := []
  submits : List Submit := []
  nextSubmit : Nat := 0
  flight  : List Flight := []         -- in step order
  markers : List FrameMsg := []       -- frames decided without running, to be reported in their place
  passStep : Option W64 := none       -- step of the frame whose pass runs
  ctxs    : SMap Ctx := []
  pfxs    : SMap Pfx := []
  sets    : SMap DeltaSet := []
  vers    : SMap DeltaVer := []
  shadowH : Option Nat := none        -- class 5 object
  shadowSecH : Option Nat := none     -- class 5 object of the secure layers (18 R424)
  nextShadowH : Option Nat := none
  nextShadowSecH : Option Nat := none
  tokenGen : W64 := 0                 -- token generator of the frame at the exit part (14 Table 14.3)
  holdAt  : Option W64 := none        -- when holds last started (07 R178)
  record  : Recording := {}
  replay  : Option Replay := none
deriving DecidableEq, Repr

/-- A housekeeping channel beside its register (17 R404, R410-R413). -/
structure ChanSt where
  sum    : Int := 0                   -- of the round's conversions that count
  count  : Nat := 0
  mean   : Option Int := none         -- last slow-round mean
  bad    : Nat := 0                   -- consecutive conversions that give no temperature
  prev   : Option Int := none         -- last conversion, where it gave a temperature
  last5  : List Int := []             -- last conversions that gave one, latest first
  bsum   : Int := 0                   -- of the 100 µs block under way
  bcount : Nat := 0
  blocks : List (Option (Int × Nat)) := []    -- sums and counts of the last blocks, latest first
  anchor : Option (Int × Int) := none -- own mean; 840 times the neighbours' mean
deriving DecidableEq, Repr

/-- Housekeeping, power and Trivet beside their registers (17). -/
structure Hk where
  vinOn    : Bool := true
  chans    : SMap ChanSt := []
  corrNum  : Nat := 1                 -- correction factor of P_EST
  corrDen  : Nat := 1
  rawSum   : Nat := 0                 -- rail sums of the HK-I window's rounds, 1/16 mW, and their number
  rawCount : Nat := 0
  capQuiet : Nat := 0                 -- consecutive rounds below 97 % of the cap
  at12     : Nat := 0                 -- rounds since the clock reached 1.2 GHz
  clampQuiet : Nat := 0               -- 100 µs blocks with every rate below 2 °C/ms
  dwellFails : Nat := 0
  dacIndex : Nat := 0                 -- conversions of channel 152 in the round
  dacBad   : Bool := false            -- one of them was off
  dacFails : Nat := 0
  hkiFails : Nat := 0
  trips    : List Nat := []           -- housekeeping times of the trips, ms
  ms       : Nat := 0                 -- housekeeping time, slow rounds
  cool     : Nat := 0                 -- consecutive cool rounds while tripped
  tripped  : Bool := false
  sledCap  : Nat := 0                 -- as written
  sledEff  : Nat := 0                 -- sled limit in force; 0: none
  nlSeq    : W32 := 0
  nlIndex  : Nat := 0
  varith   : Nat := 12                -- clock step VARITH is set for
  hkiWin   : Nat := 0                 -- window length in use
  progEff  : Nat := 0                 -- programming concurrency as reduced; 0: not reduced (R403)
  zonesEff : Nat := 0                 -- self-test zones as reduced; 0: not reduced
deriving DecidableEq, Repr

/-- The world map, keys and identity (18), kept in the ledger but for the sessions. -/
structure Sec where
  cores    : List Nat := []           -- secure core sites, rising
  regions  : List Nat := [0]          -- secure stack regions, rising
  mbxs     : List Nat := []           -- secure PF0 mailboxes, rising
  ranges   : List (Nat × Nat) := []   -- secure stream ranges, (first, count)
  clearing : List (Nat × Nat × Nat) := []     -- (kind, unit, number of the command)
  assignNo : Nat := 0
  idKey    : Bytes := []              -- private identity key; empty: none
  idPub    : Bytes := []
  keys     : SMap Bytes := []         -- owner keys by 16 * world + slot
  peers    : SMap Byte := []          -- fabric peer list, byte by byte
  cert     : SMap W32 := []           -- certificate area of the ledger, by register offset
  intent   : Option (Nat × Nat) := none       -- (target, LC_COUNT)
  spdm     : Bool := false
  ide      : Bool := false
  doeOut   : List Bytes := []         -- responses of the DOE mailbox
deriving DecidableEq, Repr

/-- The firmware image that runs (19 R438-R440). -/
structure Firmware where
  release : Nat
  mbxIf   : Nat
  build   : W32
  secVer  : Nat
  measure : Bytes                     -- firmware measurement (18 R430)
  minVer  : Nat                       -- the minimum that it carries (18 R429)
deriving DecidableEq, Repr

/-- Start-up and resets (19). -/
structure Life where
  rails    : Nat := 0                 -- rails in regulation, in the order of 19 R441
  partState : Nat := 0                -- BAR2 PART_STATE[7:0]
  stage    : Nat := 0
  perst    : Bool := false            -- PERST_N is asserted
  linkUp   : Bool := false            -- the endpoint answers (P5)
  fw       : Option Firmware := none
  heartbeat : W32 := 0
  drainReset : Bool := false          -- a warm reset waits for the ports
  lcReset  : Bool := false            -- a life-cycle transition's cold reset is due (18 R435 step 6)
  discOver : Bool := false            -- 600 ms have passed since P8 (19 R444)
  lcState  : Nat := 2                 -- fuses
  lcCount  : Nat := 2
  secMin   : Nat := 0
  strap    : Nat := 0                 -- SLOT_STRAP[1:0] as sampled
deriving DecidableEq, Repr

/-- A fault record (20 Table 20.2). -/
structure FaultRec where
  seq    : W32
  cls    : Nat
  cause  : Nat
  secure : Bool
  coalesced : Bool
  collector : Bool
  unit   : Nat
  slot   : Nat
  inst   : Nat
  time   : W64
  epoch  : Nat
  count  : Nat
  reporters : Nat
  step   : W64
  detail : W64
deriving DecidableEq, Repr

/-- A residual record (06 Table 06.5). -/
structure ResidualRec where
  seq   : W32
  inst  : Nat
  layer : Nat
  site  : Nat
  slot  : Nat
  cause : Nat
  block : Nat
  row   : Nat
  col   : Nat
  target : Int
  placed : Int
  gPlus : Nat
  gMinus : Nat
  rotated : Bool
deriving DecidableEq, Repr

/-- A self-test run (19 R450-R453): its slices by unit, still to start and under way. -/
structure Bist where
  test    : Nat
  mbx     : MbxRef
  todo    : List Nat
  covering : List Nat := []           -- units whose cover is being placed
  running : List Nat := []
  restoring : List (Nat × Nat) := []  -- units being restored, with their results: 0 passed, 1 failed, 2 aborted
  missed  : Nat := 0
  failed  : Option Nat := none
  copies  : SMap Nat := []            -- class 6 objects that hold the saved core stores, by unit
deriving DecidableEq, Repr

/-- A rebuild of a failed core on its row's spare site (20 R465): the failed site, and the arrays still to program. -/
structure Rebuild where
  site   : Nat
  settled : Bool := false
  left   : List Nat := []
deriving DecidableEq, Repr

/-- The whole part. -/
structure State where
  grade    : Grade
  cw       : SMap W32                  -- control-window words, the copy reads return
  act      : SMap W32                  -- staged registers: the copy in force
  stagedAt : List Nat                  -- offsets of staged words that wait for a boundary
  stepLatch : SMap W32                 -- SV_STEP_HI latched by a read of LO, per slot
  timeLatch : W32                      -- FAB_TIME_HI latched by a read of LO
  mbx      : SMap Mailbox              -- key 64 * pf + index
  dmaWait  : List (MbxRef × SMap Byte) -- accepted commands whose host reads are held, with their requests (15 R381)
  order    : List MbxId                -- submissions not yet taken, oldest first (15 R368)
  bme0     : Bool                      -- Bus Master Enable of PF0
  bme1     : Bool
  heldDma  : List (Nat × W64 × Bytes)  -- host writes held, (pf, address, bytes), oldest first
  hostMem  : List Host.Cell            -- what the part has written to host memory
  unmasked : List Nat                  -- MSI-X vectors that are not masked, key 128 * pf + vector
  msixPend : List Nat                  -- pending bits
  msixSent : List Nat                  -- messages sent, latest first
  vecCount : SMap W32                  -- event counters of 15 R377, same key
  arrays   : SMap ArraySt              -- key 32 * site + slot
  tiles    : SMap TileSt
  cores    : SMap CoreSt               -- key site
  fbWinAt  : Option W64                -- boundary at which the last fall-back window ended (04 R98)
  potWinAt : Option W64                -- boundary at which Stockpot's last window ended (09 R224)
  remapNow : SMap Nat                  -- remaps in force: mesh row to logical column (08 R189)
  store    : List Host.Cell            -- core stores, key site * 0x10_0000 + byte
  storeBad : SMap Nat                  -- core store words with wrong bits: 1 single-bit, 2 double-bit; key byte / 8
  stackMem : List Host.Cell           -- stack memory, key OFFSET of the GMA
  meshQ    : List MeshPacket           -- packets under way, with physical destinations, oldest first
  meshOut  : List MeshPacket           -- packets ejected at their destinations, latest first
  stackQ   : List (Nat × MeshPacket)   -- requests in the base dies' queues, (stack, packet), oldest first (09 R209, R210)
  pot      : Stockpot
  fab      : Fabric
  rackTime : W64                       -- rack-time counter (10 R253)
  ifpOut   : List (Nat × IfpPacket)    -- IFP packets sent, (port, packet), latest first
  ladle    : Ladle
  insts    : SMap Instance             -- key slot
  slotWorld : List Nat                 -- slots whose last instance was secure (16 Table 16.2)
  ledger   : List LedgerPair           -- layer records (13 R327)
  ledgerSeq : Nat
  retiredTiles : List Nat              -- retirements in the ledger, by tile key (19 P8)
  spoonSeq : W32                       -- SEQ of the next report (04 R115)
  ringH    : Option Nat                -- class 6 objects of the firmware: the report ring (04 R115)
  faultH   : Option Nat                -- the fault store (20 R459)
  residH   : Option Nat                -- the residual store (06 R162)
  resids   : List ResidualRec          -- residual records kept, oldest first
  residSeq : W32
  faults   : List FaultRec             -- fault records kept, oldest first
  rebuilds : List Rebuild
  bist     : Option Bist
  hk       : Hk
  sec      : Sec
  life     : Life
  freeNo   : Nat                       -- the model's own: number of the next free value
  pending  : List Instr                -- commands that wait, first in, first out
deriving DecidableEq, Repr

/-- The part right after a cold reset: registers at their reset values, nothing placed, the queue empty. The values
the spec gives to no field are named in the assumption log. -/
def State.reset : State where
  grade := .g8200
  cw := []
  act := []
  stagedAt := []
  stepLatch := []
  timeLatch := 0
  mbx := []
  dmaWait := []
  order := []
  bme0 := false
  bme1 := false
  heldDma := []
  hostMem := []
  unmasked := []
  msixPend := []
  msixSent := []
  vecCount := []
  arrays := []
  tiles := []
  cores := []
  fbWinAt := none
  potWinAt := none
  remapNow := []
  store := []
  storeBad := []
  stackMem := []
  meshQ := []
  meshOut := []
  stackQ := []
  pot := {}
  fab := {}
  rackTime := 0
  ifpOut := []
  ladle := {}
  insts := []
  slotWorld := []
  ledger := []
  ledgerSeq := 0
  retiredTiles := []
  spoonSeq := 0
  ringH := none
  faultH := none
  residH := none
  resids := []
  residSeq := 0
  faults := []
  rebuilds := []
  bist := none
  hk := {}
  sec := {}
  life := {}
  freeNo := 0
  pending := []

end Sys2Proof.Machine
end

