-- ==== Sys2Proof/WellFormed.lean ====
section
/-! DEFINITION. Well-formed commands: every unit an operand names by number is one the part has (01 Tables 01.1-01.3,
02 R62, 15 R363, 17 Table 17.2, 19 R441). -/

namespace Sys2Proof

/-- A mailbox of the part: 64 on PF0, 8 on PF1 (15 R363). -/
def mbxWf (m : MbxId) : Bool := (m.pf == 0 && decide (m.idx < 64)) || (m.pf == 1 && decide (m.idx < 8))

/-- The sites of a pair's lower number carry its spare tile (01 R15). -/
def spareColWf (c : Nat) : Bool := if c < 12 then c % 2 == 0 else c != 12 && c % 2 == 1 && decide (c < 24)

/-- A tile of the part: slots 0-15 of every site, slot 16 at the lower-numbered site of a pair (02 R62). -/
def tileWf (site slot : Nat) : Bool :=
  decide (site < 800) && (decide (slot < 16) || (slot == 16 && spareColWf (site % 25)))

/-- A vector of the part: 80 on PF0, 16 on PF1 (15 Table 15.1). -/
def vecWf (pf vector : Nat) : Bool := (pf == 0 && decide (vector < 80)) || (pf == 1 && decide (vector < 16))

/-- A destination of the mesh (08 Table 08.2). -/
def meshDestWf : MeshDest → Bool
  | .site n => decide (n < 800)
  | .logical col row => decide (col < 24) && decide (row < 32)
  | .port n => decide (n < 44)

/-- A mesh packet: a source and a destination the part has, one of four VCs, at most 64 payload flits, and on VC0 at
most 2 flits in all; a 16-bit tag and 40 bytes of class fields (08 Table 08.2, R196). -/
def meshWf (p : MeshPacket) : Bool :=
  meshDestWf p.dest && decide (p.vc < 4) && (decide (p.src < 800) || (decide (0x400 ≤ p.src) && decide (p.src < 0x400 + 44))) &&
  decide (p.payload.length ≤ (if p.vc = 0 then 64 else 4096)) && decide (p.tag < 0x10000) && decide (p.arg.length ≤ 40)

/-- A well-formed command. -/
def Instr.wf : Instr → Bool
  | .getInfo m => mbxWf m
  | .regRead m => mbxWf m
  | .regWrite m => mbxWf m
  | .faultRead m => mbxWf m
  | .resetWarm m => mbxWf m
  | .resetFabricPort m => mbxWf m
  | .resetDrainEnd => true
  | .instanceCreate m => mbxWf m
  | .instanceRemove m => mbxWf m
  | .instanceRemoveDrained slot => decide (slot < 64)
  | .contextCreate m => mbxWf m
  | .contextRelease m => mbxWf m
  | .prefixCreate m => mbxWf m
  | .prefixRelease m => mbxWf m
  | .deltaCreate m _ => mbxWf m
  | .deltaReplace m _ => mbxWf m
  | .deltaSwitch slot _ => decide (slot < 64)
  | .deltaRelease m => mbxWf m
  | .frameSubmit m _ _ => mbxWf m
  | .frameAdmit slot _ _ => decide (slot < 64)
  | .frameStageArrival slot _ _ => decide (slot < 64)
  | .frameCommit slot _ => decide (slot < 64)
  | .frameOutcome slot _ => decide (slot < 64)
  | .abort m => mbxWf m
  | .abortNotice slot _ => decide (slot < 64)
  | .passBoundary slot _ => decide (slot < 64)
  | .edgeSliceConvert site head _ _ => decide (site < 800) && decide (head < 16)
  | .tilePass site slot => tileWf site slot
  | .chainPromotion site head => decide (site < 800) && decide (head < 16)
  | .sieveAddback site head => decide (site < 800) && decide (head < 16)
  | .shadowRowArrival site slot _ => tileWf site slot
  | .columnClose site head => decide (site < 800) && decide (head < 16)
  | .adcDwellComplete site slot _ => tileWf site slot
  | .fbWindowEnd => true
  | .fallbackPass site head => decide (site < 800) && decide (head < 16)
  | .standinPass site head _ => decide (site < 800) && decide (head < 16)
  | .deltaItem site head => decide (site < 800) && decide (head < 16)
  | .compiledProgramItem site slot _ _ => decide (site < 800) && decide (slot < 64)
  | .engineRoundEnd site => decide (site < 800)
  | .spoonRecompute site => decide (site < 800)
  | .spoonCaptureExpiry site => decide (site < 800)
  | .spoonRun m => mbxWf m
  | .spoonRead m => mbxWf m
  | .spoonRingSizeWrite _ => true
  | .residualRead m => mbxWf m
  | .calRun m => mbxWf m
  | .calRunStart site slot => tileWf site slot
  | .calStageComplete site slot _ => tileWf site slot
  | .calRunEnd site slot => tileWf site slot
  | .refreshDue site slot => tileWf site slot
  | .refreshStart site slot => tileWf site slot
  | .arrayProgramStart site slot => tileWf site slot
  | .arrayWriteComplete site slot _ _ => tileWf site slot
  | .coreStoreScrub site _ => decide (site < 800)
  | .meshPacketInject pkt => meshWf pkt
  | .meshPacketDeliver _ errs => errs.all (fun e => decide (e.1 < 800))
  | .stackRead stack _ _ => decide (stack < 24)
  | .stackWrite stack _ => decide (stack < 24)
  | .stackAtomic stack _ => decide (stack < 24)
  | .stackScrub stack _ => decide (stack < 24)
  | .stackLinkReplay stack _ => decide (stack < 24)
  | .stackLinkRetrain stack => decide (stack < 24)
  | .stackRetrainComplete stack _ => decide (stack < 24)
  | .stackOccSample stack => decide (stack < 24)
  | .stockpotWindowEnd => true
  | .copyOnWrite slot _ _ => decide (slot < 64)
  | .pageMigrateRound _ _ => true
  | .remotePageRequest _ _ _ => true
  | .remoteKeepalive _ => true
  | .remoteHoldExpiry _ => true
  | .signalDetect port => decide (port < 18)
  | .trainingComplete port _ => decide (port < 18)
  | .lossOfSignal port => decide (port < 18)
  | .hello port _ => decide (port < 18)
  | .helloTimeout port => decide (port < 18)
  | .confirm port _ => decide (port < 18)
  | .leave port _ => decide (port < 18)
  | .planeRemapDecision => true
  | .drainComplete port => decide (port < 18)
  | .fpReset port => decide (port < 18)
  | .fpDrain port => decide (port < 18)
  | .fpDisable port _ => decide (port < 18)
  | .portPolicyWrite _ => true
  | .coordCommit _ => true
  | .coordTakeover _ => true
  | .rackTick => true
  | .rackTickMissing => true
  | .rackRefclkLost => true
  | .discTime port _ => decide (port < 18)
  | .ifpWrite port _ => decide (port < 18)
  | .ifpRead port _ => decide (port < 18)
  | .ifpAtomic port _ => decide (port < 18)
  | .readResp port _ => decide (port < 18)
  | .planeWaitTimeout => true
  | .fabricLinkReplay port _ _ _ => decide (port < 18)
  | .linkDeath port => decide (port < 18)
  | .faultNoticePath port _ => decide (port < 18)
  | .reqTmoExpiry _ => true
  | .groupDefine m _ => mbxWf m
  | .groupDelete m => mbxWf m
  | .multicast m => mbxWf m
  | .allReduce m => mbxWf m
  | .reduceScatter m => mbxWf m
  | .allGather m => mbxWf m
  | .barrier m => mbxWf m
  | .ladleFirstTransmission => true
  | .data port _ => decide (port < 18)
  | .ack port _ => decide (port < 18)
  | .ackHoldExpiry _ _ _ _ _ => true
  | .nobuf port _ => decide (port < 18)
  | .ladleRetry _ _ _ _ _ _ => true
  | .reject port _ => decide (port < 18)
  | .targetUnresponsive _ _ _ _ _ => true
  | .probe port _ => decide (port < 18)
  | .opTmoExpiry _ _ => true
  | .arrive port _ => decide (port < 18)
  | .release port _ => decide (port < 18)
  | .barrierTmoExpiry _ _ => true
  | .fail port _ => decide (port < 18)
  | .report port _ => decide (port < 18)
  | .echo port _ => decide (port < 18)
  | .collectorRecordExpiry _ => true
  | .echoWaitExpiry _ => true
  | .faultEpochEnd => true
  | .imageLoadPlace m _ => mbxWf m
  | .imageLoadStage m _ => mbxWf m
  | .imageManifest slot _ _ => decide (slot < 64)
  | .imageSection slot _ _ => decide (slot < 64)
  | .imageVerdict slot _ _ => decide (slot < 64)
  | .imageRejection slot _ _ => decide (slot < 64)
  | .layerWrite slot _ => decide (slot < 64)
  | .imageStatus m => mbxWf m
  | .genBegin m _ => mbxWf m
  | .genCommit m => mbxWf m
  | .genAbort m => mbxWf m
  | .genLayerRewrite slot _ => decide (slot < 64)
  | .genBarrierOpen slot => decide (slot < 64)
  | .recordStart m => mbxWf m
  | .recordStop m => mbxWf m
  | .recordRelease m => mbxWf m
  | .replayStart m _ => mbxWf m
  | .stateSave m => mbxWf m
  | .stateSaveDrained slot => decide (slot < 64)
  | .stateRestore m _ => mbxWf m
  | .resume m => mbxWf m
  | .mbxCtlWrite m _ _ => mbxWf m
  | .mbxRequestWrite m _ _ => mbxWf m
  | .functionLevelReset pf => decide (pf < 2)
  | .busMasterEnableSet pf => decide (pf < 2)
  | .dmaReadError (.command m) _ => mbxWf m
  | .dmaReadError (.frame slot _) _ => decide (slot < 64)
  | .dmaReadError (.tail slot) _ => decide (slot < 64)
  | .ringTailRead slot _ => decide (slot < 64)
  | .ringHoldoffEnd slot => decide (slot < 64)
  | .heartbeatTick => true
  | .powerSet m => mbxWf m
  | .hksConversion channel _ _ => decide (channel < 160)
  | .slowRoundEnd => true
  | .hkiWindowEnd _ _ _ => true
  | .rateBlockEnd => true
  | .arithClockStep => true
  | .hksSliceDwellEnd _ _ => true
  | .nearLimitRecord => true
  | .nearLimitEpisodeEnd => true
  | .inputOvercurrentShutdown => true
  | .overvoltageShutdown => true
  | .trivetRestart => true
  | .tripClear => true
  | .sledCapWrite _ => true
  | .hkEventsClear _ => true
  | .hkTdacWrite _ => true
  | .vinRemoved => true
  | .coldReset => true
  | .perstNAssert => true
  | .railInRegulation rail => decide (rail < 7)
  | .fwLoad m _ => mbxWf m
  | .startupStageComplete => true
  | .discoveryTimeout => true
  | .testRun m => mbxWf m
  | .bistSliceStart _ _ => true
  | .bistSliceComplete _ _ => true
  | .bistBudgetExpiry _ => true
  | .worldAssign m => mbxWf m
  | .unitClearingComplete _ _ => true
  | .keyRegister m => mbxWf m
  | .keyRevoke m => mbxWf m
  | .attestQuote m => mbxWf m
  | .lifecycleSet m => mbxWf m
  | .setPolicyLock => true
  | .peerCommit => true
  | .certCommit => true
  | .spdmRequest _ => true
  | .fence _ _ => true
  | .coreFailed site => decide (site < 800)
  | .standinBlocksLoaded site => decide (site < 800)
  | .spareSiteSettled row => decide (row < 32)
  | .routerFail site => decide (site < 800)
  | .tileCntClr site slot _ => tileWf site slot
  | .edgeCntClr site slot _ => decide (site < 800) && decide (slot < 16)
  | .sfbCntClr site _ => decide (site < 800)
  | .spoonCntClr _ => true
  | .engCntClr site _ => decide (site < 800)
  | .chCntClr _ => true
  | .calCntClr _ => true
  | .meshCntClr _ => true
  | .meshRtCntClr site _ => decide (site < 800)
  | .spCntClr _ => true
  | .skCntClr stack _ => decide (stack < 24)
  | .fabCntClr _ => true
  | .fpCntClr port _ => decide (port < 18)
  | .ldCntClr _ => true
  | .lfCntClr _ => true
  | .svCntClr slot _ => decide (slot < 64)
  | .imgCntClr _ => true
  | .hkCntClr _ => true
  | .secCntClr _ => true
  | .btCntClr _ => true
  | .fltCntClr _ => true
  | .perstNDeassert => true
  | .busMasterEnableClear pf => decide (pf < 2)
  | .msixUnmask pf vector => vecWf pf vector
  | .remotePageRelease _ _ => true
  | .pageMigrateStart => true
  | .imageMismatch slot => decide (slot < 64)
  | .mbxSubmission m _ _ => mbxWf m

end Sys2Proof
end

