-- ==== Sys2Proof/Machine/Ops.lean ====
section
/-! DEFINITION. The named operations the meanings are written in: sparse tables, byte memories, byte and bit fields,
the registers of the control window, free values, and the guard on an operand that names no unit. -/

namespace Sys2Proof.Machine

/-- What a meaning answers. -/
abbrev Answer := Host.Outcome State Fault Refusal

/-! ### Sparse tables -/

/-- The value listed under a key. -/
def mapFind {α : Type} : SMap α → Nat → Option α
  | [], _ => none
  | (k, v) :: m, i => if i = k then some v else mapFind m i

/-- The value under a key, `d` where none is listed. -/
def mapGet {α : Type} (d : α) (m : SMap α) (i : Nat) : α := (mapFind m i).getD d

/-- List a value under a key, in its place. -/
def mapSet {α : Type} : SMap α → Nat → α → SMap α
  | [], i, v => [(i, v)]
  | (k, w) :: m, i, v =>
    if i = k then (i, v) :: m
    else if i < k then (i, v) :: (k, w) :: m
    else (k, w) :: mapSet m i v

/-- Take a key out. -/
def mapDel {α : Type} : SMap α → Nat → SMap α
  | [], _ => []
  | (k, w) :: m, i => if i = k then mapDel m i else (k, w) :: mapDel m i

/-- Store a value under a key, where an unlisted key holds `d`: the canonical form lists no `d`. -/
def mapPut {α : Type} [DecidableEq α] (d : α) (m : SMap α) (i : Nat) (v : α) : SMap α :=
  if v = d then mapDel m i else mapSet m i v

/-- Keys strictly rising, all above a bound. -/
def mapAbove {α : Type} : Nat → SMap α → Bool
  | _, [] => true
  | b, (k, _) :: m => decide (b < k) && mapAbove k m

/-- Keys strictly rising. -/
def mapRising {α : Type} : SMap α → Bool
  | [] => true
  | (k, _) :: m => mapAbove k m

/-- No entry equal to what an unlisted key holds. -/
def mapNoDefault {α : Type} [DecidableEq α] (d : α) : SMap α → Bool
  | [] => true
  | (_, v) :: m => decide (v ≠ d) && mapNoDefault d m

/-- The canonical form of a table. -/
def mapWf {α : Type} [DecidableEq α] (d : α) (m : SMap α) : Bool := mapRising m && mapNoDefault d m

/-! ### Byte memories: an unlisted byte reads 0 -/

/-- The canonical form of a memory. -/
def memWf (m : List Host.Cell) : Bool := mapWf (0 : Byte) m

def memByte (m : List Host.Cell) (a : Nat) : Byte := mapGet 0 m a

def memRead (m : List Host.Cell) (a : Nat) : Nat → Bytes
  | 0 => []
  | n + 1 => memByte m a :: memRead m (a + 1) n

def memSet (m : List Host.Cell) (a : Nat) (b : Byte) : List Host.Cell := mapPut 0 m a b

def memWrite (m : List Host.Cell) (a : Nat) : Bytes → List Host.Cell
  | [] => m
  | b :: bs => memWrite (memSet m a b) (a + 1) bs

/-- `n` bytes from `a` on set to zero: the entries there are taken out. -/
def memZero (m : List Host.Cell) (a n : Nat) : List Host.Cell := m.filter (fun c => decide (c.1 < a ∨ a + n ≤ c.1))

/-! ### Bytes and bit fields (00 R8) -/

/-- Little-endian value of a byte list. -/
def leNat : Bytes → Nat
  | [] => 0
  | b :: bs => b.toNat + 256 * leNat bs

/-- Little-endian bytes of a value. -/
def leBytes : Nat → Nat → Bytes
  | 0, _ => []
  | n + 1, v => BitVec.ofNat 8 v :: leBytes n (v / 256)

def byteAt (bs : Bytes) (i : Nat) : Byte := bs.getD i 0

/-- Little-endian field of `n` bytes at offset `i`; bytes past the end read 0. -/
def leAt (bs : Bytes) (i n : Nat) : Nat :=
  match n with
  | 0 => 0
  | n + 1 => (byteAt bs i).toNat + 256 * leAt bs (i + 1) n

def zeros (n : Nat) : Bytes := List.replicate n 0

/-- The bytes at offsets `i` to `i + n - 1`. -/
def slice (bs : Bytes) (i n : Nat) : Bytes := (List.range n).map (fun j => byteAt bs (i + j))

/-- Bits [hi:lo] of a number. -/
def nbits (v hi lo : Nat) : Nat := v / 2 ^ lo % 2 ^ (hi + 1 - lo)

/-- Bits [hi:lo] of a register word. -/
def fld (w : W32) (hi lo : Nat) : Nat := nbits w.toNat hi lo

/-- Mask of bits [hi:lo]. -/
def fmask (hi lo : Nat) : W32 := BitVec.ofNat 32 ((2 ^ (hi + 1 - lo) - 1) * 2 ^ lo)

/-- A register word with bits [hi:lo] replaced. -/
def setFld (w : W32) (hi lo v : Nat) : W32 :=
  (w &&& ~~~ fmask hi lo) ||| BitVec.ofNat 32 (v % 2 ^ (hi + 1 - lo) * 2 ^ lo)

/-- The signed value of an n-bit field. -/
def sgn (n v : Nat) : Int := if 2 * v < 2 ^ n then (v : Int) else (v : Int) - 2 ^ n

/-- An integer as an n-bit two's complement field. -/
def unsgn (n : Nat) (v : Int) : Nat := (v % (2 ^ n : Nat)).toNat

/-- Clamp to a range. -/
def clampI (lo hi v : Int) : Int := if v < lo then lo else if hi < v then hi else v

def clampN (lo hi v : Nat) : Nat := if v < lo then lo else if hi < v then hi else v

/-- floor(a / b + 1/2), b > 0: the nearest integer, ties up. -/
def roundHalfUp (a : Int) (b : Nat) : Int := (2 * a + b) / (2 * b : Nat)

/-- The nearest integer to a / b, ties to even. -/
def roundEven (a : Int) (b : Nat) : Int :=
  let q := a / (b : Int)
  let r := a % (b : Int)
  if 2 * r < b then q else if (b : Int) < 2 * r then q + 1 else if q % 2 = 0 then q else q + 1

def ceilDiv (a b : Nat) : Nat := (a + b - 1) / b

/-- The number of binary digits of a number; 0 for 0. -/
def bitLen (n : Nat) : Nat := if n = 0 then 0 else Nat.log2 n + 1

/-- A list with an element put at an index. -/
def listSet {α : Type} (d : α) (l : List α) (i : Nat) (v : α) : List α :=
  if i < l.length then l.set i v else l ++ List.replicate (i - l.length) d ++ [v]

/-- Add a number to a rising list without repeats. -/
def setAdd : List Nat → Nat → List Nat
  | [], x => [x]
  | y :: l, x => if x = y then y :: l else if x < y then x :: y :: l else y :: setAdd l x

def setDel (l : List Nat) (x : Nat) : List Nat := l.filter (fun y => y != x)

/-! ### Guards -/

/-- A command that names a unit by number acts only where the part has the unit. -/
def onUnit (ok : Bool) (s : State) : Answer := if ok then .next s else .fault .noSuchUnit

/-! ### Free values -/

/-- The number of the next free value, and the state that has used it. -/
def useFree (s : State) : State := { s with freeNo := s.freeNo + 1 }

/-! ### Idling -/

/-- One cycle of rack time passes: the counter counts once the first tick has been seen (10 R253, R254). -/
def idleTick (s : State) : State := if s.fab.running then { s with rackTime := s.rackTime + 1 } else s

def useFreeN (n : Nat) (s : State) : State := { s with freeNo := s.freeNo + n }

end Sys2Proof.Machine
end

