-- ==== Sys2Proof/Machine/Regs.lean ====
section
/-! DEFINITION. The control window: which register lies at which offset, its reset value, the bits a write sets, and
the bits a written 1 clears (00 R5-R7 and the register tables of every chapter). -/

namespace Sys2Proof.Machine

/-- What the map says of one register word. Bits neither `rw` nor `w1c` are RO, WO or reserved: a write leaves them. -/
structure RegDesc where
  reset  : W32 := 0
  rw     : W32 := 0
  w1c    : W32 := 0
  staged : Bool := false

/-- The blocks of the control window, with the offset inside the block. -/
inductive RegBlock where
  | tile (key off : Nat)             -- 02 R62; key 32 * site + slot
  | edge (site slot off : Nat)       -- 03 R88
  | eng (site off : Nat)             -- 05 R144
  | sfb (site off : Nat)             -- 04 R116, core registers
  | sfbSlot (site slot off : Nat)    -- 04 R116, slot sets
  | spoon (off : Nat) | ch (off : Nat) | cal (off : Nat) | mesh (off : Nat)
  | router (site off : Nat)
  | sp (off : Nat)
  | sk (n off : Nat)
  | fab (off : Nat)
  | fp (p off : Nat)
  | ld (off : Nat)
  | sv (slot off : Nat)
  | img (off : Nat)
  | imgSlot (slot off : Nat)
  | hk (off : Nat) | sec (off : Nat) | peer (off : Nat) | bt (off : Nat) | flt (off : Nat)
  | unmapped
deriving DecidableEq, Repr

/-- The key of a tile: 32 * site + slot. -/
def tkey (site slot : Nat) : Nat := 32 * site + slot

/-- The block a control-window offset lies in. -/
def regBlock (o : Nat) : RegBlock :=
  if o % 4 ≠ 0 then .unmapped
  else if o < 0x01000000 then .unmapped
  else if o < 0x01000000 + 800 * 0x40000 then
    let site := (o - 0x01000000) / 0x40000
    let w := o % 0x40000
    if w < 0x22000 then
      if tileWf site (w / 0x2000) then .tile (tkey site (w / 0x2000)) (w % 0x2000) else .unmapped
    else if w < 0x23000 then .edge site ((w - 0x22000) / 0x100) (w % 0x100)
    else if w < 0x23100 then .eng site (w - 0x23000)
    else .unmapped
  else if o < 0x0E000000 then .unmapped
  else if o < 0x0E000000 + 800 * 0x400 then
    let site := (o - 0x0E000000) / 0x400
    let w := o % 0x400
    if w < 0x100 then .sfb site w
    else .sfbSlot site ((w - 0x100) / 0x30) ((w - 0x100) % 0x30)
  else if 0x0E100000 ≤ o ∧ o < 0x0E100100 then .spoon (o - 0x0E100000)
  else if 0x0E200000 ≤ o ∧ o < 0x0E200100 then .ch (o - 0x0E200000)
  else if 0x0E300000 ≤ o ∧ o < 0x0E300100 then .cal (o - 0x0E300000)
  else if 0x0E400000 ≤ o ∧ o < 0x0E400100 then .mesh (o - 0x0E400000)
  else if 0x0E500000 ≤ o ∧ o < 0x0E500000 + 800 * 0x40 then .router ((o - 0x0E500000) / 0x40) (o % 0x40)
  else if 0x0E600000 ≤ o ∧ o < 0x0E600100 then .sp (o - 0x0E600000)
  else if 0x0E700000 ≤ o ∧ o < 0x0E700000 + 24 * 0x40 then .sk ((o - 0x0E700000) / 0x40) (o % 0x40)
  else if 0x0E800000 ≤ o ∧ o < 0x0E800100 then .fab (o - 0x0E800000)
  else if 0x0E900000 ≤ o ∧ o < 0x0E900000 + 18 * 0x40 then .fp ((o - 0x0E900000) / 0x40) (o % 0x40)
  else if 0x0EA00000 ≤ o ∧ o < 0x0EA00100 then .ld (o - 0x0EA00000)
  else if 0x0EB00000 ≤ o ∧ o < 0x0EB00000 + 64 * 0x40 then .sv ((o - 0x0EB00000) / 0x40) (o % 0x40)
  else if 0x0EC00000 ≤ o ∧ o < 0x0EC01000 then .img (o - 0x0EC00000)
  else if 0x0EC01000 ≤ o ∧ o < 0x0EC01000 + 64 * 0x10 then .imgSlot ((o - 0x0EC01000) / 0x10) (o % 0x10)
  else if 0x0ED00000 ≤ o ∧ o < 0x0ED01000 then .hk (o - 0x0ED00000)
  else if 0x0EE00000 ≤ o ∧ o < 0x0EE10000 then .sec (o - 0x0EE00000)
  else if 0x0EE10000 ≤ o ∧ o < 0x0EE50000 then .peer (o - 0x0EE10000)
  else if 0x0EF00000 ≤ o ∧ o < 0x0EF00100 then .bt (o - 0x0EF00000)
  else if 0x0F000000 ≤ o ∧ o < 0x0F000100 then .flt (o - 0x0F000000)
  else .unmapped

/-- A register that software writes whole words of. -/
def rwReg (reset rw : W32) : Option RegDesc := some { reset := reset, rw := rw }
/-- A staged register (02 R60). -/
def stReg (reset rw : W32) : Option RegDesc := some { reset := reset, rw := rw, staged := true }
/-- A register of RO and WO fields alone. -/
def roReg (reset : W32) : Option RegDesc := some { reset := reset }

/-- 02 Tables 02.6-02.13 and 07 Tables 07.6, 07.7. -/
def tileDesc (o : Nat) : Option RegDesc :=
  if o = 0x00 then stReg 0x3000 0x37F1
  else if o = 0x04 then roReg 0
  else if o = 0x08 ∨ o = 0x0C then stReg 0x00DB6DB6 0x00FFFFFF
  else if o = 0x10 then stReg 0 0xFFFF00FF
  else if o = 0x14 then stReg 0x08 0x003F073F
  else if o = 0x18 ∨ o = 0x1C then roReg 0
  else if 0x20 ≤ o ∧ o < 0x40 then rwReg 0 0x81FF
  else if 0x40 ≤ o ∧ o < 0x90 then roReg 0
  else if 0x100 ≤ o ∧ o < 0x200 then stReg 0 0xFFFFFFFF
  else if 0x400 ≤ o ∧ o < 0x800 then stReg 0x3F803F80 0xFFFFFFFF
  else if 0x800 ≤ o ∧ o < 0xC00 then stReg 0 0xFFFFFFFF
  else if o = 0x1000 then roReg 0
  else if o = 0x1004 then stReg 0 0xFFFF
  else if o = 0x1008 then stReg 0x05DC 0xFFFF
  else if o = 0x100C ∨ o = 0x1010 then stReg 0x8000 0xFFFF
  else if o = 0x1014 then stReg 0 0x1FFFF
  else if o = 0x1018 ∨ o = 0x101C then roReg 0
  else if 0x1200 ≤ o ∧ o < 0x1A24 then stReg 0 0x03FF03FF
  else if 0x1B00 ≤ o ∧ o < 0x1F10 then stReg 0x80008000 0xFFFFFFFF
  else none

/-- 03 Tables 03.5-03.8. -/
def edgeDesc (o : Nat) : Option RegDesc :=
  if o = 0x00 then stReg 0x06 0x003F0FF7
  else if o < 0x1C then roReg 0
  else if 0x40 ≤ o ∧ o < 0x80 then stReg 0 0xFFFFFFFF
  else none

/-- 05 Tables 05.6, 05.7. -/
def engDesc (o : Nat) : Option RegDesc :=
  if o = 0x00 then rwReg 7 7
  else if o = 0x3C then rwReg 16 0xFF
  else if o = 0x0C ∨ 0x4C ≤ o then none
  else roReg 0

/-- 04 Table 04.5. -/
def sfbDesc (o : Nat) : Option RegDesc :=
  if o = 0 then rwReg 0xD 0xF else if o = 4 ∨ o = 8 then roReg 0 else none

def sfbSlotDesc (o : Nat) : Option RegDesc :=
  if o = 0 then stReg 0x220 0x77F
  else if o = 4 then stReg 0x00080400 0x003FFFFF
  else if o < 0x24 then roReg 0 else none

/-- 04 Tables 04.6, 04.7. -/
def spoonDesc (o : Nat) : Option RegDesc :=
  if o = 0 then rwReg 0x19 0x3F
  else if o = 4 then rwReg 0x08020133 0xFF0FFFFF
  else if o < 0x1C then roReg 0
  else if o = 0x20 ∨ o = 0x24 ∨ o = 0x2C then roReg 0
  else if o = 0x28 ∨ o = 0x30 then rwReg 0 0xFFFF
  else none

/-- 06 Tables 06.6, 06.7. -/
def chDesc (o : Nat) : Option RegDesc :=
  if o = 0 then rwReg 0x1F 0x1F
  else if o = 4 then rwReg 0x004002D0 0x00FFFFFF
  else if o = 8 then rwReg 0x5A004004 0xFFFFFFFF
  else if o < 0x3C then roReg 0 else none

/-- 07 Table 07.8. -/
def calDesc (o : Nat) : Option RegDesc :=
  if o = 0 then rwReg 0x00322030 0x00FFFFFF
  else if o = 4 then rwReg 0x000A0D18 0x00FF0FFF
  else if o < 0x28 then roReg 0 else none

/-- 08 Tables 08.6, 08.7. -/
def meshDesc (o : Nat) : Option RegDesc :=
  if o < 0x80 then rwReg 0 0x9F else if o < 0x8C then roReg 0 else none

/-- The external port of a router: kind and index as MESH_RT_STATUS.EXT and EXT_INDEX show them (01 Table 01.3). -/
def routerExt (site : Nat) : Nat × Nat :=
  let r := site / 25
  let c := site % 25
  if r = 0 ∧ c % 2 = 1 then (1, (c - 1) / 2)
  else if r = 31 ∧ c % 2 = 1 then (1, 12 + (c - 1) / 2)
  else if c = 0 ∧ r % 3 = 1 ∧ r ≤ 25 then (2, (r - 1) / 3)
  else if c = 24 ∧ r % 3 = 1 ∧ r ≤ 25 then (2, 9 + (r - 1) / 3)
  else if r = 31 ∧ c = 0 then (3, 0)
  else if r = 30 ∧ c = 0 then (4, 0)
  else (0, 0)

def routerDesc (site o : Nat) : Option RegDesc :=
  if o = 0 then roReg (BitVec.ofNat 32 ((routerExt site).1 * 4 + (routerExt site).2 * 32))
  else if o < 0x28 then roReg 0 else none

/-- 09 Tables 09.8-09.10. -/
def spDesc (o : Nat) : Option RegDesc :=
  if o = 0 then rwReg 3 7
  else if o = 4 then rwReg 0x100A2018 0xFFFFFFFF
  else if o = 8 then rwReg 0x4000 0xFFFFF
  else if o < 0x3C then roReg 0
  else if 0x40 ≤ o ∧ o < 0x60 then rwReg 0 0x80001FFF
  else none

def skDesc (o : Nat) : Option RegDesc :=
  if o = 0x20 then rwReg 24 0xFF else if o < 0x28 then roReg 0 else none

/-- 10 Tables 10.12, 10.13. -/
def fabDesc (o : Nat) : Option RegDesc :=
  if o = 0 then rwReg 4 7
  else if o = 8 then roReg 0x76543210
  else if o = 0x0C then roReg 0xFEDCBA98
  else if o = 0x10 then roReg 0x043
  else if o < 0x28 then roReg 0 else none

def fpDesc (p o : Nat) : Option RegDesc :=
  if o = 0 then roReg (BitVec.ofNat 32 (p % 16 * 0x1000))
  else if o = 0x0C then rwReg 0 4
  else if o < 0x2C then roReg 0 else none

/-- 11 Tables 11.7, 11.8. -/
def ldDesc (o : Nat) : Option RegDesc :=
  if o = 0 then rwReg 0x2440 0x3FFF
  else if o = 4 then rwReg 0x0A0A0A14 0xFFFFFFFF
  else if o < 0x38 then roReg 0
  else if o = 0x40 then rwReg 0 0x007F3FFF
  else if o = 0x44 then rwReg 256 0x3FF
  else if 0x48 ≤ o ∧ o < 0x68 then roReg 0
  else none

/-- 12 Tables 12.5, 12.6. -/
def svDesc (o : Nat) : Option RegDesc :=
  if o = 0 then rwReg 0 0x000C0000
  else if o = 4 then rwReg 64 0x1FF
  else if o < 0x34 then roReg 0 else none

/-- 13 Tables 13.11, 13.12. -/
def imgDesc (o : Nat) : Option RegDesc :=
  if o = 0 then rwReg 0x00600600 0x00FF07FF else if o < 0x28 then roReg 0 else none

def imgSlotDesc (o : Nat) : Option RegDesc := if o = 8 then rwReg 0 4 else roReg 0

/-- 17 Tables 17.7-17.10. -/
def hkDesc (o : Nat) : Option RegDesc :=
  if o = 0 then rwReg 0 1
  else if o = 4 then roReg 0
  else if o = 8 then some { w1c := 0x7FF }
  else if o = 0x0C then roReg 0x2121210C
  else if o = 0x14 then roReg 0x06400640
  else if o = 0x18 then roReg 0x00080600
  else if o = 0x20 then rwReg 0 0x801F03FF
  else if o = 0x34 ∨ o = 0x38 then rwReg 0 0xFFFFFFFF
  else if o = 0x3C then rwReg 0 0xFFFF
  else if o < 0x54 then roReg 0
  else if 0x60 ≤ o ∧ o < 0x70 then roReg 0
  else if 0x100 ≤ o ∧ o < 0x380 then roReg 0
  else none

/-- 18 Tables 18.6, 18.7. -/
def secDesc (o : Nat) : Option RegDesc :=
  if o = 0x1C then none
  else if o < 0x15C then roReg 0
  else if 0x200 ≤ o ∧ o < 0x400 then roReg 0
  else if 0x2000 ≤ o ∧ o < 0x4000 then rwReg 0 0xFFFFFFFF
  else none

/-- 19 Table 19.7. -/
def btDesc (o : Nat) : Option RegDesc :=
  if o = 0 then rwReg 0x508 0x1F7F else if o < 0x18 then roReg 0 else none

/-- 20 Tables 20.6, 20.7. -/
def fltDesc (o : Nat) : Option RegDesc :=
  if o = 0 then rwReg 2 2 else if o = 4 then roReg 0x00200000 else if o < 0x20 then roReg 0 else none

def blockDesc : RegBlock → Option RegDesc
  | .tile _ o => tileDesc o
  | .edge _ _ o => edgeDesc o
  | .eng _ o => engDesc o
  | .sfb _ o => sfbDesc o
  | .sfbSlot _ _ o => sfbSlotDesc o
  | .spoon o => spoonDesc o
  | .ch o => chDesc o
  | .cal o => calDesc o
  | .mesh o => meshDesc o
  | .router site o => routerDesc site o
  | .sp o => spDesc o
  | .sk _ o => skDesc o
  | .fab o => fabDesc o
  | .fp p o => fpDesc p o
  | .ld o => ldDesc o
  | .sv _ o => svDesc o
  | .img o => imgDesc o
  | .imgSlot _ o => imgSlotDesc o
  | .hk o => hkDesc o
  | .sec o => secDesc o
  | .peer _ => rwReg 0 0xFFFFFFFF
  | .bt o => btDesc o
  | .flt o => fltDesc o
  | .unmapped => none

def regDesc (o : Nat) : Option RegDesc := blockDesc (regBlock o)

/-- The reset value of a control-window word; 0 where no register lies (00 R7). -/
def regReset (o : Nat) : W32 :=
  match regDesc o with
  | some d => d.reset
  | none => 0

/-! ### Reading and writing -/

/-- The word software reads: the staging copy of a staged register (02 R60). -/
def rd (s : State) (o : Nat) : W32 := mapGet (regReset o) s.cw o

/-- The word in force of a staged register. -/
def rdA (s : State) (o : Nat) : W32 := mapGet (regReset o) s.act o

def wr (s : State) (o : Nat) (v : W32) : State := { s with cw := mapPut (regReset o) s.cw o v }

def wrA (s : State) (o : Nat) (v : W32) : State := { s with act := mapPut (regReset o) s.act o v }

/-- A field of a register, and of the copy in force. -/
def rdF (s : State) (o hi lo : Nat) : Nat := fld (rd s o) hi lo
def rdFA (s : State) (o hi lo : Nat) : Nat := fld (rdA s o) hi lo

def wrF (s : State) (o hi lo v : Nat) : State := wr s o (setFld (rd s o) hi lo v)

/-- A flag bit. -/
def rbit (s : State) (o i : Nat) : Bool := rdF s o i i == 1
def rbitA (s : State) (o i : Nat) : Bool := rdFA s o i i == 1
def wbit (s : State) (o i : Nat) (b : Bool) : State := wrF s o i i (if b then 1 else 0)

/-- What a write of a whole word leaves in a register (00 R5): RW bits set, W1C bits cleared by a 1, others kept. -/
def regNew (d : RegDesc) (old w : W32) : W32 :=
  ((old &&& ~~~ d.rw) ||| (w &&& d.rw)) &&& ~~~ (w &&& d.w1c)

/-- The firmware writes both copies of a staged register where no frame of an instance uses it. -/
def wrBoth (s : State) (o : Nat) (v : W32) : State := wrA (wr s o v) o v

/-- Write the staging copy; the word waits for its boundary (02 R60). -/
def wrStage (s : State) (o : Nat) (v : W32) : State :=
  let s := wr s o v
  { s with stagedAt := setAdd s.stagedAt o }

/-! ### Offsets of the registers: a unit number past the last one wraps, so that no register of another block is named -/

def tileReg (k o : Nat) : Nat := 0x01000000 + k / 32 % 800 * 0x40000 + k % 32 % 17 * 0x2000 + o
def edgeReg (site slot o : Nat) : Nat := 0x01000000 + site % 800 * 0x40000 + 0x22000 + slot % 16 * 0x100 + o
def engReg (site o : Nat) : Nat := 0x01000000 + site % 800 * 0x40000 + 0x23000 + o
def sfbReg (site o : Nat) : Nat := 0x0E000000 + site % 800 * 0x400 + o
def sfbSlotReg (site slot o : Nat) : Nat := 0x0E000000 + site % 800 * 0x400 + 0x100 + slot % 16 * 0x30 + o
def spoonReg (o : Nat) : Nat := 0x0E100000 + o
def chReg (o : Nat) : Nat := 0x0E200000 + o
def calReg (o : Nat) : Nat := 0x0E300000 + o
def meshReg (o : Nat) : Nat := 0x0E400000 + o
def remapReg (row : Nat) : Nat := meshReg (4 * (row % 32))
def routerReg (site o : Nat) : Nat := 0x0E500000 + site % 800 * 0x40 + o
def spReg (o : Nat) : Nat := 0x0E600000 + o
def skReg (n o : Nat) : Nat := 0x0E700000 + n % 24 * 0x40 + o
def fabReg (o : Nat) : Nat := 0x0E800000 + o
def fpReg (p o : Nat) : Nat := 0x0E900000 + p % 18 * 0x40 + o
def ldReg (o : Nat) : Nat := 0x0EA00000 + o
def svReg (slot o : Nat) : Nat := 0x0EB00000 + slot % 64 * 0x40 + o
def imgReg (o : Nat) : Nat := 0x0EC00000 + o
def imgSlotReg (slot o : Nat) : Nat := 0x0EC01000 + slot % 64 * 0x10 + o
def hkReg (o : Nat) : Nat := 0x0ED00000 + o
def secReg (o : Nat) : Nat := 0x0EE00000 + o
def btReg (o : Nat) : Nat := 0x0EF00000 + o
def fltReg (o : Nat) : Nat := 0x0F000000 + o

end Sys2Proof.Machine
end

