-- ==== Sys2Proof/Machine/Flags.lean ====
section
/-! DEFINITION. Counters and status flags: how a counter advances (it holds at its greatest value or wraps), how a
clear register clears, and the status fields the firmware keeps (02 R64 and the counter rows of every chapter). -/

namespace Sys2Proof.Machine

/-- Advance a counter of `n` bits that holds at its greatest value. -/
def incHold (s : State) (o n by_ : Nat) : State :=
  wr s o (BitVec.ofNat 32 (Nat.min ((rd s o).toNat + by_) (2 ^ n - 1)))

/-- Advance a counter of 32 bits that wraps. -/
def incWrap (s : State) (o by_ : Nat) : State := wr s o (rd s o + BitVec.ofNat 32 by_)

/-- Clear the registers of a list. -/
def clearRegs (s : State) : List Nat → State
  | [] => s
  | o :: os => clearRegs (wr s o 0) os

/-- A clear bit: a written 1 clears its registers. -/
def clearIf (w : W32) (bit : Nat) (os : List Nat) (s : State) : State :=
  if fld w bit bit = 1 then clearRegs s os else s

/-- `n` registers a word apart from `o` on. -/
def words (o n : Nat) : List Nat := (List.range n).map (fun i => o + 4 * i)

end Sys2Proof.Machine
end

