-- ==== Sys2Proof/Machine/Report.lean ====
section
/-! DEFINITION. What the part tells its host: MSI-X messages (15 R377), host writes by DMA (15 R380, R381), and
fault records (20 R459-R461). -/

namespace Sys2Proof.Machine

/-! ### MSI-X (15 R377, Table 15.8) -/

def vecKey (pf v : Nat) : Nat := 128 * pf + v

/-- Vectors with an event counter in BAR2: 64-69 of PF0, 8-12 of PF1. -/
def vecCounted (pf v : Nat) : Bool := if pf = 0 then 64 ≤ v && v ≤ 69 else 8 ≤ v && v ≤ 12

/-- An event on a vector: its counter advances, masked or not; the message goes out, or the pending bit is set. -/
def signal (s : State) (pf v : Nat) : State :=
  let k := vecKey pf v
  let s := if vecCounted pf v then { s with vecCount := mapPut 0 s.vecCount k (mapGet 0 s.vecCount k + 1) } else s
  if s.unmasked.contains k then { s with msixSent := k :: s.msixSent }
  else { s with msixPend := setAdd s.msixPend k }

/-! ### Host memory (15 R380, R381) -/

def busMaster (s : State) (pf : Nat) : Bool := if pf = 0 then s.bme0 else s.bme1

/-- A host write: held, in order, while Bus Master Enable of the function is clear. -/
def dmaWrite (s : State) (pf : Nat) (a : W64) (bs : Bytes) : State :=
  if busMaster s pf then { s with hostMem := memWrite s.hostMem a.toNat bs }
  else { s with heldDma := s.heldDma ++ [(pf, a, bs)] }

/-- The held writes of a function go out, oldest first. -/
def flushDma (pf : Nat) : List (Nat × W64 × Bytes) → List Host.Cell → List Host.Cell
  | [], m => m
  | (p, a, bs) :: q, m => if p = pf then flushDma pf q (memWrite m a.toNat bs) else flushDma pf q m

/-! ### Rack time -/

/-- Cycles of rack time in a millisecond (10 R253: 6.4 ns). -/
def msCycles : Nat := 156250

def elapsed (s : State) (t : W64) : Nat := (s.rackTime - t).toNat

/-! ### Worlds and instances -/

/-- The world map of core sites (18 Table 18.1): secure sites are listed. -/
def siteSecure (s : State) (site : Nat) : Bool := s.sec.cores.contains site

/-- `MBX_INFO`.WORLD (18 Table 18.1): PF1 mailboxes are secure. -/
def mbxSecure (s : State) (m : MbxId) : Bool := m.pf == 1 || s.sec.mbxs.contains m.idx

/-- The world of the tile a tile key names (18 R420): the spare tile takes that of the tile it serves or last served. -/
def tileSecure (s : State) (k : Nat) : Bool :=
  if k % 32 < 16 then siteSecure s (k / 32)
  else
    let t := mapGet {} s.tiles k
    match t.serves, t.lastServed with
    | some j, _ => siteSecure s (j / 32)
    | none, some j => siteSecure s (j / 32)
    | none, none => siteSecure s (k / 32)

/-- The secure streams lie in the ranges (18 R420). -/
def streamSecure (s : State) (n : Nat) : Bool := s.sec.ranges.any (fun r => r.1 ≤ n && n < r.1 + r.2)

/-- The slot an instance number is created in. -/
def instSlot (s : State) (number : Nat) : Option Nat :=
  (s.insts.find? (fun p => p.2.number == number)).map Prod.fst

def instOf (s : State) (slot : Nat) : Option Instance := mapFind s.insts slot

def setInst (s : State) (slot : Nat) (i : Instance) : State := { s with insts := mapSet s.insts slot i }

def modInst (s : State) (slot : Nat) (f : Instance → Instance) : State :=
  match instOf s slot with
  | some i => setInst s slot (f i)
  | none => s

/-- The instance number of a slot, 0xFFFF for none. -/
def instNumber (s : State) (slot : Nat) : Nat :=
  match instOf s slot with
  | some i => i.number
  | none => 0xFFFF

/-! ### Fault records (20 Table 20.2, R459, R460) -/

/-- Rack-time cycles of a fault epoch (11 R279); EPOCH_TICKS 0 is taken as 1. -/
def epochCycles (s : State) : Nat := Nat.max 1 (rdF s (ldReg 0x44) 9 0) * 65536

/-- The current fault epoch (11 R279). -/
def faultEpoch (s : State) : Nat := s.rackTime.toNat / epochCycles s

/-- What a fault says of itself. -/
structure FaultInfo where
  cls    : Nat
  cause  : Nat
  unit   : Nat
  slot   : Nat := 0xFFFF
  inst   : Nat := 0xFFFF
  secure : Bool := false
  step   : W64 := 0
  detail : W64 := 0
  collector : Bool := false
  reporters : Nat := 1

/-- The same CAUSE, UNIT and SLOT in the same epoch (20 R460). -/
def sameFault (e : Nat) (f : FaultInfo) (r : FaultRec) : Bool :=
  r.epoch == e && r.cause == f.cause && r.unit == f.unit && r.slot == f.slot

/-- Count one more occurrence in the newest record of the fault. -/
def coalesce (e : Nat) (f : FaultInfo) : List FaultRec → List FaultRec
  | [] => []
  | r :: rs => if sameFault e f r then { r with coalesced := true, count := r.count + 1 } :: rs
               else r :: coalesce e f rs

/-- TIME is the rack-time counter as it stands: the uncertainty of up to one destination cycle that 01 R23 leaves to a
timestamp is taken as none (DESIGN CHOICE, log 141). -/
def newFault (s : State) (f : FaultInfo) : FaultRec :=
  { seq := rd s (fltReg 8), cls := f.cls, cause := f.cause, secure := f.secure, coalesced := false,
    collector := f.collector, unit := f.unit, slot := f.slot, inst := f.inst, time := s.rackTime,
    epoch := faultEpoch s, count := 1, reporters := f.reporters, step := f.step, detail := f.detail }

/-- Keep at most 4,096 records: the oldest goes and FLT_LOST advances. -/
def keepFault (s : State) (r : FaultRec) : State :=
  if s.faults.length < 4096 then { s with faults := s.faults ++ [r] }
  else incHold { s with faults := s.faults.drop 1 ++ [r] } (fltReg 0x1C) 32 1

/-- A fault record is written or coalesced; each new record signals PF0 vector 64 and PF1 vector 8 (20 R459, R460). -/
def faultRecord (s : State) (f : FaultInfo) : State :=
  let e := faultEpoch s
  if s.faults.any (sameFault e f) then { s with faults := coalesce e f s.faults }
  else
    let s := keepFault s (newFault s f)
    let s := incWrap s (fltReg 8) 1
    let s := if f.cls = 1 then incHold s (fltReg 0x10) 32 1 else s
    let s := if f.cls = 2 then incHold s (fltReg 0x14) 32 1 else s
    signal (signal s 0 64) 1 8

/-- The 64 bytes of a fault record (20 Table 20.2); `hide` zeroes DETAIL (20 R461). -/
def faultBytes (r : FaultRec) (hide : Bool) : Bytes :=
  leBytes 4 r.seq.toNat ++ leBytes 1 r.cls ++ leBytes 1 r.cause ++
  leBytes 1 ((if r.secure then 1 else 0) + (if r.coalesced then 2 else 0) + (if r.collector then 4 else 0)) ++ leBytes 1 0 ++
  leBytes 4 r.unit ++ leBytes 2 r.slot ++ leBytes 2 r.inst ++ leBytes 8 r.time.toNat ++ leBytes 8 r.epoch ++
  leBytes 4 r.count ++ leBytes 4 r.reporters ++ leBytes 8 r.step.toNat ++
  leBytes 8 (if hide then 0 else r.detail.toNat) ++ leBytes 8 0

/-! ### Tiles, cores and Stockpot objects -/

def tileAt (s : State) (k : Nat) : TileSt := mapGet {} s.tiles k
def setTile (s : State) (k : Nat) (t : TileSt) : State := { s with tiles := mapPut {} s.tiles k t }
def modTile (s : State) (k : Nat) (f : TileSt → TileSt) : State := setTile s k (f (tileAt s k))
def coreAt (s : State) (c : Nat) : CoreSt := mapGet {} s.cores c
def setCore (s : State) (c : Nat) (x : CoreSt) : State := { s with cores := mapPut {} s.cores c x }
def modCore (s : State) (c : Nat) (f : CoreSt → CoreSt) : State := setCore s c (f (coreAt s c))
def arrayAt (s : State) (k : Nat) : ArraySt := mapGet {} s.arrays k
def setArray (s : State) (k : Nat) (a : ArraySt) : State := { s with arrays := mapPut {} s.arrays k a }

/-- TILE_STATUS.STATE (02 Table 02.5): 0 OFF, 1 IDLE, 2 SERVING, 3 PROGRAMMING, 4 CALIBRATING, 5 RETIRED. -/
def tileState (s : State) (k : Nat) : Nat := rdF s (tileReg k 4) 2 0
def setTileState (s : State) (k v : Nat) : State := wrF s (tileReg k 4) 2 0 v

/-- The instance number a tile is placed with, 0xFFFF for none. -/
def tileInst (s : State) (k : Nat) : Nat :=
  match (tileAt s k).owner with
  | some o => instNumber s o.slot
  | none => 0xFFFF

/-- A fault record about a tile. -/
def tileFault (s : State) (cls cause k : Nat) : State :=
  faultRecord s { cls := cls, cause := cause, unit := k / 32, slot := k % 32, inst := tileInst s k,
                  secure := tileSecure s k }

end Sys2Proof.Machine
end

