-- ==== Sys2Proof/Machine/Counters.lean ====
section
/-! DEFINITION. The clear registers that no other file holds (02 R63, 03 R88, 04 R116, 05 R144, 11 R282, 12 R310, 19 R454,
20 R469). -/

namespace Sys2Proof.Machine

/-- 02 Table 02.13. -/
def tileClr (s : State) (k : Nat) (v : W32) : State :=
  clearIf v 3 [tileReg k 0x4C] (clearIf v 2 [tileReg k 0x48] (clearIf v 1 [tileReg k 0x44]
    (clearIf v 0 (tileReg k 0x40 :: words (tileReg k 0x50) 16) s)))

def execTileCntClr (site slot : Nat) (value : W32) (s : State) : Answer :=
  onUnit (tileWf site slot) (tileClr s (tkey site slot) value)

/-- 03 Table 03.8. -/
def edgeClr (s : State) (site slot : Nat) (v : W32) : State :=
  clearIf v 2 [edgeReg site slot 0x18] (clearIf v 1 [edgeReg site slot 0x14] (clearIf v 0 [edgeReg site slot 0x10] s))

def execEdgeCntClr (site slot : Nat) (value : W32) (s : State) : Answer :=
  onUnit (decide (site < 800) && decide (slot < 16)) (edgeClr s site slot value)

/-- 04 Table 04.5: the counters of every slot. -/
def sfbClr (s : State) (site : Nat) (v : W32) : State :=
  let all (l : List Nat) : List Nat := ((List.range 16).map (fun t => l.map (fun o => sfbSlotReg site t o))).flatten
  clearIf v 1 (all [0x18, 0x1C, 0x20]) (clearIf v 0 (all [0x10, 0x14]) s)

def execSfbCntClr (site : Nat) (value : W32) (s : State) : Answer := onUnit (decide (site < 800)) (sfbClr s site value)

/-- 05 Table 05.7: BUSY drops the clocks beyond the last unit too; ECC clears VALID and not WORD. -/
def engClr (s : State) (site : Nat) (v : W32) : State :=
  let s := clearIf v 0 (words (engReg site 0x10) 7) s
  let s := if fld v 0 0 = 1 then modCore s site (fun c => { c with busyRem := [] }) else s
  let s := clearIf v 1 [engReg site 0x2C] s
  let s := clearIf v 2 [engReg site 0x30, engReg site 0x34] s
  let s := if fld v 2 2 = 1 then wbit s (engReg site 0x38) 31 false else s
  clearIf v 4 [engReg site 0x44, engReg site 0x48] (clearIf v 3 [engReg site 0x40] s)

def execEngCntClr (site : Nat) (value : W32) (s : State) : Answer := onUnit (decide (site < 800)) (engClr s site value)

/-- 11 Table 11.8. -/
def ldClr (s : State) (v : W32) : State := clearIf v 0 (words (ldReg 0x10) 10) s
def execLdCntClr (value : W32) (s : State) : Answer := .next (ldClr s value)

def lfClr (s : State) (v : W32) : State := clearIf v 0 (words (ldReg 0x50) 5) s
def execLfCntClr (value : W32) (s : State) : Answer := .next (lfClr s value)

/-- 12 Table 12.6. -/
def svClr (s : State) (slot : Nat) (v : W32) : State := clearIf v 0 (words (svReg slot 0x1C) 6) s
def execSvCntClr (slot : Nat) (value : W32) (s : State) : Answer := onUnit (decide (slot < 64)) (svClr s slot value)

/-- 19 Table 19.7. -/
def btClr (s : State) (v : W32) : State := clearIf v 0 (words (btReg 8) 3) s
def execBtCntClr (value : W32) (s : State) : Answer := .next (btClr s value)

/-- 20 Table 20.7: FLT_CORES_FAILED stands. -/
def fltClr (s : State) (v : W32) : State := clearIf v 0 [fltReg 0x10, fltReg 0x14, fltReg 0x1C] s
def execFltCntClr (value : W32) (s : State) : Answer := .next (fltClr s value)

end Sys2Proof.Machine
end

