-- ==== Sys2Proof/Machine/Hash.lean ====
section
/-! DEFINITION. The codes and generators the spec names: CRC-32 (09 R207), CRC-16 (10 R244), SHAKE256 (the named
standard, FIPS 202), and the 64-bit Fibonacci LFSR of every generator (14 R346-R349). -/

namespace Sys2Proof.Machine

/-! ### CRC-32 of 09 R207: reflected, polynomial 0x04C1_1DB7 -/

def crc32Bit (c : Nat) : Nat := if c % 2 = 1 then c / 2 ^^^ 0xEDB88320 else c / 2

def iter {α : Type} (f : α → α) : Nat → α → α
  | 0, x => x
  | n + 1, x => iter f n (f x)

def crc32Go : Nat → Bytes → Nat
  | c, [] => c
  | c, b :: bs => crc32Go (iter crc32Bit 8 (c ^^^ b.toNat)) bs

def crc32 (bs : Bytes) : Nat := crc32Go 0xFFFFFFFF bs ^^^ 0xFFFFFFFF

/-! ### CRC-16 of 10 R244: not reflected, polynomial 0x1021, initial value 0xFFFF, no final XOR -/

def crc16Bit (c : Nat) : Nat := if 0x8000 ≤ c then (c * 2 % 0x10000) ^^^ 0x1021 else c * 2

def crc16Go : Nat → Bytes → Nat
  | c, [] => c
  | c, b :: bs => crc16Go (iter crc16Bit 8 (c ^^^ (b.toNat * 256))) bs

def crc16 (bs : Bytes) : Nat := crc16Go 0xFFFF bs

/-! ### SHAKE256 -/

/-- The generator of the round constants' bits, of polynomial x^8 + x^6 + x^5 + x^4 + 1. -/
def keccakBits : Nat → Nat → List Bool
  | 0, _ => []
  | n + 1, r => (r % 2 == 1) :: keccakBits n (if 128 ≤ r then 2 * r % 256 ^^^ 0x71 else 2 * r)

/-- Seven bits of it make a round constant: bit j stands at place 2^j - 1. -/
def keccakConst (bits : List Bool) : W64 :=
  BitVec.ofNat 64 ((bits.zipIdx.map (fun b => if b.1 then 2 ^ (2 ^ b.2 - 1) else 0)).sum)

/-- The constants of the rounds, each from the next seven bits. -/
def keccakConsts : Nat → List Bool → List W64
  | 0, _ => []
  | n + 1, bits => keccakConst (bits.take 7) :: keccakConsts n (bits.drop 7)

/-- The walk of rho over the lanes from (1, 0): lane (x, y), step t, is turned by (t + 1)(t + 2) / 2 and goes to
(y, 2 x + 3 y), where pi puts it. An entry: where to, where from, turned by. -/
def keccakWalk : Nat → Nat → Nat → Nat → List (Nat × Nat × Nat)
  | 0, _, _, _ => []
  | n + 1, t, x, y =>
    let z := (2 * x + 3 * y) % 5
    (y + 5 * z, x + 5 * y, (t + 1) * (t + 2) / 2 % 64) :: keccakWalk n (t + 1) y z

/-- By the lane of the result: the lane it comes from, and its turn; lane 0 stays. -/
def keccakMoves : List (Nat × Nat) :=
  (List.range 25).map (fun i => ((keccakWalk 24 0 1 0).find? (fun m => m.1 == i)).elim (i, 0) (fun m => m.2))

def lane (a : List W64) (i : Nat) : W64 := a.getD i 0

/-- theta: each lane gets the parity of two columns. -/
def keccakTheta (a : List W64) : List W64 :=
  let c := (List.range 5).map (fun x => lane a x ^^^ lane a (x + 5) ^^^ lane a (x + 10) ^^^ lane a (x + 15) ^^^ lane a (x + 20))
  let d := (List.range 5).map (fun x => lane c ((x + 4) % 5) ^^^ (lane c ((x + 1) % 5)).rotateLeft 1)
  (List.range 25).map (fun i => lane a i ^^^ lane d (i % 5))

def keccakRhoPi (moves : List (Nat × Nat)) (a : List W64) : List W64 := moves.map (fun m => (lane a m.1).rotateLeft m.2)

def keccakChi (a : List W64) : List W64 :=
  (List.range 25).map (fun i =>
    let y := i / 5 * 5
    lane a i ^^^ (~~~ lane a (y + (i + 1) % 5) &&& lane a (y + (i + 2) % 5)))

def keccakRound (a : List W64) (rc : W64) : List W64 :=
  let b := keccakChi (keccakRhoPi keccakMoves (keccakTheta a))
  (lane b 0 ^^^ rc) :: b.drop 1

def keccakF (a : List W64) : List W64 := (keccakConsts 24 (keccakBits 168 1)).foldl keccakRound a

/-- Absorb one block of 136 bytes. -/
def keccakAbsorb (a : List W64) (blk : Bytes) : List W64 :=
  keccakF ((List.range 25).map (fun i => if i < 17 then lane a i ^^^ BitVec.ofNat 64 (leAt blk (8 * i) 8) else lane a i))

def keccakBlocks : Nat → List W64 → Bytes → List W64
  | 0, a, _ => a
  | n + 1, a, bs => keccakBlocks n (keccakAbsorb a (bs.take 136)) (bs.drop 136)

/-- The message padded to whole blocks: 0x1F, zeros, and bit 7 of the last byte. -/
def shakePad (bs : Bytes) : Bytes :=
  let n := 136 - bs.length % 136
  if n = 1 then bs ++ [0x9F] else bs ++ [0x1F] ++ zeros (n - 2) ++ [0x80]

def keccakSqueeze : Nat → List W64 → Bytes
  | 0, _ => []
  | n + 1, a => ((a.take 17).map (fun l => leBytes 8 l.toNat)).flatten ++ keccakSqueeze n (keccakF a)

/-- The first `n` bytes of SHAKE256. -/
def shake256 (n : Nat) (bs : Bytes) : Bytes :=
  let a := keccakBlocks (bs.length / 136 + 1) (List.replicate 25 0) (shakePad bs)
  (keccakSqueeze (ceilDiv n 136) a).take n

/-! ### Generators (14 R346-R349) -/

/-- One step of the LFSR: feedback from bits 63, 62, 60 and 59. -/
def lfsrStep (s : W64) : W64 :=
  let fb := s.getLsbD 63 ^^ s.getLsbD 62 ^^ s.getLsbD 60 ^^ s.getLsbD 59
  (s <<< 1) ||| (if fb then 1 else 0)

/-- `w` steps: the value of the output bits, the first the most significant, and the state after. -/
def lfsrDraw : Nat → W64 → Nat → Nat × W64
  | 0, s, acc => (acc, s)
  | w + 1, s, acc => lfsrDraw w (lfsrStep s) (2 * acc + (if s.getLsbD 63 then 1 else 0))

/-- The generator after `n` steps. -/
def lfsrSkip (n : Nat) (s : W64) : W64 := iter lfsrStep n s

/-- A seed of zero is replaced by 1 (14 R346, R349). -/
def nonZeroSeed (s : W64) : W64 := if s = 0 then 1 else s

/-- The seed of a per-pass generator (14 R346). -/
def passSeed (root : Bytes) (n : W64) (unitId : Nat) : W64 :=
  nonZeroSeed (BitVec.ofNat 64 (leAt (shake256 8 (root ++ leBytes 8 n.toNat ++ leBytes 4 unitId)) 0 8))

/-- unit_id (14 Table 14.2). -/
def unitId (kind ordinal row col slot : Nat) : Nat :=
  kind * 0x10000000 + ordinal * 0x8000 + row * 0x400 + col * 0x20 + slot

end Sys2Proof.Machine
end

