-- ==== Sys2Proof/Machine/Record.lean ====
section
/-! DEFINITION. Record rings: the form of a record, the room a ring has, and the writing of one (14 R350-R353). -/

namespace Sys2Proof.Machine

/-- The part's ID: `FAB_ID`.PART_ID, 0 until an offer is accepted (10 R242, 09 R214). -/
def partId (s : State) : Nat := rdF s (fabReg 4) 12 0

def entryHere (s : State) (i : Instance) : Bool := i.entry == partId s
def exitHere (s : State) (i : Instance) : Bool := i.exit == partId s

/-- The header of 14 Table 14.5. -/
def recHeader (kind flags len : Nat) (step time : W64) (seq : W32) : Bytes :=
  leBytes 1 kind ++ leBytes 1 flags ++ zeros 2 ++ leBytes 4 len ++ leBytes 8 step.toNat ++ leBytes 8 time.toNat ++
  leBytes 4 seq.toNat ++ zeros 4

/-- Bytes a record of a payload takes in a ring: a multiple of 64. -/
def recSize (n : Nat) : Nat := ceilDiv (32 + n) 64 * 64

def recSpan (r : Recording) : Nat := 2 ^ r.sizeLog2

/-- Free bytes of a ring. -/
def recRoom (r : Recording) : Nat := recSpan r - (r.wr - r.rd).toNat

/-- Put bytes at the write offset; the ring's end wraps. -/
def recPutBytes (s : State) (r : Recording) (bs : Bytes) : State :=
  let off := r.wr.toNat % recSpan r
  let n := Nat.min bs.length (recSpan r - off)
  let s := dmaWrite s r.pf (r.addr + BitVec.ofNat 64 off) (bs.take n)
  if n < bs.length then dmaWrite s r.pf r.addr (bs.drop n) else s

/-- Write a record; the room is there. -/
def recWrite (s : State) (slot : Nat) (i : Instance) (kind flags : Nat) (step : W64) (payload : Bytes) : State :=
  let r := i.record
  let bs := recHeader kind flags payload.length step s.rackTime r.seq ++ payload ++ zeros (recSize payload.length - 32 - payload.length)
  setInst (recPutBytes s r bs) slot { i with record := { r with wr := r.wr + BitVec.ofNat 64 bs.length, seq := r.seq + 1 } }

/-- Room kept for the OUTCOME records of frames admitted here (R353). -/
def recReserved (i : Instance) : Nat := 64 * (i.flight.filter (fun f => f.counted)).length

/-- The payload of a STOP: next step, records written. -/
def stopPayload (i : Instance) : Bytes := leBytes 8 i.step.toNat ++ leBytes 4 i.record.seq.toNat

/-- A recording ends. -/
def recEnd (s : State) (slot flags : Nat) (overrun : Bool) : State :=
  match instOf s slot with
  | none => s
  | some i =>
    let s := if recSize 12 ≤ recRoom i.record then recWrite s slot i 5 flags i.step (stopPayload i) else s
    modInst s slot (fun i => { i with record := { i.record with on := false, overrun := overrun } })

/-- R353: a record that finds no room ends the recording. -/
def recordAny (s : State) (slot kind : Nat) (step : W64) (payload : Bytes) : State :=
  match instOf s slot with
  | none => s
  | some i =>
    if !i.record.on then s
    else if recSize payload.length + recReserved i ≤ recRoom i.record then recWrite s slot i kind 0 step payload
    else recEnd s slot 1 true

/-- A FRAME or OUTCOME record, whose room was kept. -/
def recordFrame (s : State) (slot kind : Nat) (step : W64) (payload : Bytes) : State :=
  match instOf s slot with
  | none => s
  | some i => if i.record.on then recWrite s slot i kind 0 step payload else s

/-- The OUTCOME payload: tag, outcome, status and failing index. -/
def outcomePayload (tag : W64) (o st idx : Nat) : Bytes := leBytes 8 tag.toNat ++ leBytes 1 o ++ zeros 1 ++ leBytes 2 st ++ leBytes 2 idx

/-! ### COMMAND records -/

/-- The slots whose instance owns a register, beside the tile, core or slot it belongs to. -/
def regSlots (s : State) (o : Nat) : List Nat :=
  let siteSlots (site : Nat) : List Nat :=
    ((List.range 16).filterMap (fun t => (tileAt s (tkey site t)).owner.map (fun o => o.slot))).dedup
  match regBlock o with
  | .tile k _ =>
    let m := if k % 32 = 16 then (tileAt s k).serves.getD k else k
    ((tileAt s m).owner.map (fun o => o.slot)).toList
  | .edge site slot _ => ((tileAt s (tkey site slot)).owner.map (fun o => o.slot)).toList
  | .sfbSlot site slot _ => ((tileAt s (tkey site slot)).owner.map (fun o => o.slot)).toList
  | .eng site _ => siteSlots site
  | .sfb site _ => siteSlots site
  | .sv slot _ => [slot]
  | .imgSlot slot _ => [slot]
  | _ => []

end Sys2Proof.Machine
end

