-- ==== Sys2Proof/Machine/Mailbox.lean ====
section
/-! DEFINITION. The mailbox protocol: the request and response areas, the order of checks of a request, refusals,
acceptance and completion (15 R365-R371, 16 R383-R387, R395, 19 R442). -/

namespace Sys2Proof.Machine

/-! ### Status codes (16 Table 16.10) -/

abbrev stOk := 0x0000
abbrev stAccepted := 0x0001
abbrev stBadOpcode := 0x0010
abbrev stBadLength := 0x0011
abbrev stBadParam := 0x0012
abbrev stNotReady := 0x0013
abbrev stBusy := 0x0014
abbrev stWorldDenied := 0x0015
abbrev stRegDenied := 0x0016
abbrev stShareLimit := 0x0017
abbrev stLifecycle := 0x0018
abbrev stDmaError := 0x0019
abbrev stAuthFailed := 0x001A
abbrev stNoInstance := 0x0020
abbrev stBadDescriptor := 0x0021
abbrev stBadHandle := 0x0022
abbrev stContextBusy := 0x0023
abbrev stPrefixConflict := 0x0024
abbrev stContextFull := 0x0025
abbrev stStockpotFull := 0x0026
abbrev stGenMismatch := 0x0027
abbrev stGenRetired := 0x0028
abbrev stAlreadyComplete := 0x0029
abbrev stImageRejected := 0x0030
abbrev stGradeMismatch := 0x0031
abbrev stLayerFailed := 0x0032
abbrev stGenNotReady := 0x0033
abbrev stGenIncomplete := 0x0034
abbrev stCollFailed := 0x0040
abbrev stPartialDelivery := 0x0041
abbrev stBarrierTimeout := 0x0042
abbrev stTileUnavailable := 0x0050
abbrev stRecordOverrun := 0x0060
abbrev stStateMismatch := 0x0061

/-- A refusal: status, DETAIL0, DETAIL1. -/
structure Err where
  st : Nat
  d0 : Nat := 0
  d1 : Nat := 0
deriving DecidableEq, Repr

/-- A check that passes, or refuses. -/
def need (ok : Bool) (st : Nat) (d0 : Nat := 0) (d1 : Nat := 0) : Option Err :=
  if ok then none else some { st := st, d0 := d0, d1 := d1 }

/-- The first failing check of a list decides (16 R384). -/
def firstErr : List (Option Err) → Option Err
  | [] => none
  | some e :: _ => some e
  | none :: l => firstErr l

/-- Check 5: the first field found wrong gives its byte offset in DETAIL0 (16 R384, R385). -/
def fieldsOk : List (Nat × Bool) → Option Err
  | [] => none
  | (off, ok) :: l => if ok then fieldsOk l else some { st := stBadParam, d0 := off }

/-! ### Areas -/

def mbxKey (m : MbxId) : Nat := 64 * m.pf + m.idx

def mbxAt (s : State) (m : MbxId) : Mailbox := mapGet {} s.mbx (mbxKey m)
def setMbx (s : State) (m : MbxId) (b : Mailbox) : State := { s with mbx := mapPut {} s.mbx (mbxKey m) b }

/-- A byte of the request area, by its offset in the area (16 R383). -/
def reqByte (s : State) (m : MbxId) (i : Nat) : Byte := mapGet 0 (mbxAt s m).req i

/-- A little-endian field of `n` bytes of the request area. -/
def reqN (s : State) (m : MbxId) (i : Nat) : Nat → Nat
  | 0 => 0
  | n + 1 => (reqByte s m i).toNat + 256 * reqN s m (i + 1) n

def reqBytes (s : State) (m : MbxId) (i n : Nat) : Bytes := (List.range n).map (fun j => reqByte s m (i + j))

/-- A reserved field of the request is zero. -/
def reqZero (s : State) (m : MbxId) (i n : Nat) : Nat × Bool := (i, reqN s m i n == 0)

def reqOp (s : State) (m : MbxId) : Nat := reqN s m 0 2
def reqLen (s : State) (m : MbxId) : Nat := reqN s m 2 2

/-! ### Responses -/

/-- The 480 bytes of the response area: header and fields, the rest zero (15 R366 step 3, 16 R383). -/
def rspBytes (st op : Nat) (payload : Bytes) : Bytes :=
  leBytes 2 st ++ leBytes 2 op ++ leBytes 2 payload.length ++ leBytes 2 0 ++ payload

/-- What a response leaves in its mailbox. -/
def postedBox (b : Mailbox) (st op : Nat) (payload : Bytes) (final : Bool) : Mailbox :=
  { b with own := false, async := !final, rspSeq := b.seq, final := final,
           done := if final then b.done + 1 else b.done,
           rsp := memWrite [] 0 (rspBytes st op payload) }

/-- The instance slots a command names, or whose registers it writes (14 Table 14.4, COMMAND). -/
def cmdSlots (s : State) (m : MbxId) (op : Nat) : List Nat :=
  if op = 0x0003 then
    let stride := Nat.max 1 (reqN s m 18 2)
    ((List.range (Nat.min 114 (reqN s m 16 2))).map (fun i => regSlots s (reqN s m 8 8 + 4 * i * stride))).flatten.dedup
  else if op = 0x0301 ∨ op = 0x0302 then [reqN s m 8 1]
  else if (0x0102 ≤ op ∧ op ≤ 0x0305) ∨ (0x0601 ≤ op ∧ op ≤ 0x0607) then (instSlot s (reqN s m 8 2)).toList
  else []

/-- Every recording of those instances takes the request area and the final status. -/
def recordCommand (s : State) (m : MbxId) (op st : Nat) : State :=
  (cmdSlots s m op).foldl (fun s slot =>
    match instOf s slot with
    | some i => recordAny s slot 3 i.step (reqBytes s m 0 480 ++ leBytes 2 st)
    | none => s) s

/-- Post a response: the area, then `MBX_CTL`, then the vector when INT_EN is 1 (15 R366). -/
def post (s : State) (m : MbxId) (st op : Nat) (payload : Bytes) (final : Bool) : State :=
  let s := if final then recordCommand s m op st else s
  let s := setMbx s m (postedBox (mbxAt s m) st op payload final)
  let s := { s with order := s.order.filter (fun x => x != m) }
  if (mbxAt s m).intEn then signal s m.pf m.idx else s

/-- DETAIL0 and DETAIL1 (16 R385). -/
def errBytes (d0 d1 : Nat) : Bytes := leBytes 4 d0 ++ leBytes 4 d1

/-- A refusal is final at once and changes nothing else (16 R384). -/
def refuse (s : State) (m : MbxId) (e : Err) : State := post s m e.st (reqOp s m) (errBytes e.d0 e.d1) true

/-- The final ST_OK response of a command of kind I. -/
def reply (s : State) (m : MbxId) (payload : Bytes) : State := post s m stOk (reqOp s m) payload true

/-- ST_ACCEPTED of a long command (15 R366 step 3, R368). -/
def accept (s : State) (m : MbxId) : State := post s m stAccepted (reqOp s m) [] false

/-- What a long command remembers of its mailbox. -/
def mref (s : State) (m : MbxId) : MbxRef := { id := m, epoch := (mbxAt s m).epoch, op := reqOp s m }

/-- The final response of a long command; not posted after a function-level reset (15 R371). -/
def finish (s : State) (r : MbxRef) (st : Nat) (payload : Bytes) : State :=
  if (mbxAt s r.id).epoch = r.epoch then post s r.id st r.op payload true else s

def finishOk (s : State) (r : MbxRef) (payload : Bytes) : State := finish s r stOk payload
def finishErr (s : State) (r : MbxRef) (e : Err) : State := finish s r e.st (errBytes e.d0 e.d1)

/-! ### The checks of 16 R384, in order -/

/-- Who may send a command (16 Table 16.1, column From). -/
inductive CmdFrom where
  | any | secure | pf1
deriving DecidableEq, Repr

/-- The life-cycle states in which a command is allowed (16 R387). -/
inductive CmdStates where
  | all | serving | provisionDeployed | beforeReady
deriving DecidableEq, Repr

/-- One row of 16 Table 16.1. -/
structure CmdRow where
  op     : Nat
  source : CmdFrom
  states : CmdStates
deriving DecidableEq, Repr

/-- 16 Table 16.1. -/
def cmdTable : List CmdRow := [
  ⟨0x0001, .any, .all⟩, ⟨0x0002, .any, .all⟩, ⟨0x0003, .any, .all⟩, ⟨0x0004, .any, .all⟩, ⟨0x0005, .secure, .all⟩,
  ⟨0x0101, .any, .serving⟩, ⟨0x0102, .any, .serving⟩, ⟨0x0110, .any, .serving⟩, ⟨0x0111, .any, .serving⟩,
  ⟨0x0112, .any, .serving⟩, ⟨0x0113, .any, .serving⟩, ⟨0x0114, .any, .serving⟩, ⟨0x0115, .any, .serving⟩,
  ⟨0x0116, .any, .serving⟩, ⟨0x0201, .any, .serving⟩, ⟨0x0202, .any, .serving⟩,
  ⟨0x0301, .any, .serving⟩, ⟨0x0302, .any, .serving⟩, ⟨0x0303, .any, .serving⟩, ⟨0x0304, .any, .serving⟩,
  ⟨0x0305, .any, .serving⟩, ⟨0x0401, .any, .serving⟩, ⟨0x0402, .any, .serving⟩, ⟨0x0403, .any, .serving⟩,
  ⟨0x0501, .any, .all⟩, ⟨0x0502, .any, .all⟩, ⟨0x0503, .any, .all⟩, ⟨0x0504, .any, .all⟩,
  ⟨0x0601, .any, .serving⟩, ⟨0x0602, .any, .serving⟩, ⟨0x0603, .any, .serving⟩, ⟨0x0604, .any, .serving⟩,
  ⟨0x0605, .any, .serving⟩, ⟨0x0606, .any, .serving⟩, ⟨0x0607, .any, .serving⟩,
  ⟨0x0701, .secure, .all⟩, ⟨0x0702, .secure, .all⟩,
  ⟨0x0801, .pf1, .all⟩, ⟨0x0802, .pf1, .provisionDeployed⟩, ⟨0x0803, .pf1, .all⟩, ⟨0x0804, .pf1, .all⟩,
  ⟨0x0805, .pf1, .all⟩, ⟨0x0806, .pf1, .beforeReady⟩]

def cmdRow (op : Nat) : Option CmdRow := cmdTable.find? (fun r => r.op == op)

/-- PART_STATE[7:0] (15 Table 15.9). -/
abbrev psBoot := 0
abbrev psStarting := 1
abbrev psReady := 2
abbrev psFenced := 3

/-- PART_STATE as BAR2 shows it: the state and the start-up stage. -/
def partStateWord (s : State) : Nat := s.life.partState + 256 * s.life.stage

/-- Check 1: READY, or served before READY on PF1 (19 Table 19.2, R462 step 4); in SCRAPPED the boot ROM answers
every PF1 command (18 R433). -/
def servedNow (s : State) (m : MbxId) (op : Nat) : Bool :=
  if s.life.partState = psReady then true
  else if m.pf = 0 then false
  else if s.life.lcState = 4 then true
  else if s.life.partState = psFenced ∨ (3 ≤ s.life.stage ∧ s.life.stage ≤ 8) then
    op == 0x0001 || op == 0x0002 || op == 0x0004 || op == 0x0005
  else if s.life.stage = 1 then op == 0x0001 || op == 0x0806
  else if s.life.stage = 2 then op == 0x0001
  else false

/-- Check 3, the mailbox's world. -/
def sourceOk (s : State) (m : MbxId) : CmdFrom → Bool
  | .any => true
  | .secure => mbxSecure s m
  | .pf1 => m.pf == 1

/-- Check 3, the life-cycle state: DEPLOYED is 2, PROVISION 1, SCRAPPED 4 (18 Table 18.4). -/
def stateOk (s : State) (op : Nat) : CmdStates → Bool
  | .all => s.life.lcState != 4 || op == 0x0001
  | .serving => s.life.lcState == 2
  | .provisionDeployed => s.life.lcState == 1 || s.life.lcState == 2
  | .beforeReady => s.life.partState != psReady && s.life.lcState != 4

/-- Checks 1 to 4 of 16 R384; `len` is the LEN the command must carry. -/
def preCheck (s : State) (m : MbxId) (len : Nat) : Option Err :=
  let op := reqOp s m
  firstErr [
    need (servedNow s m op) stNotReady (partStateWord s),
    need (cmdRow op).isSome stBadOpcode op,
    match cmdRow op with
    | some r => firstErr [need (sourceOk s m r.source) stWorldDenied, need (stateOk s op r.states) stLifecycle s.life.lcState]
    | none => none,
    need (reqLen s m == len) stBadLength len]

/-- The header's four zero bytes and the reserved fields and ranges of a command (check 5). -/
def fieldCheck (s : State) (m : MbxId) (fs : List (Nat × Bool)) : Option Err := fieldsOk (reqZero s m 4 4 :: fs)

/-- A command is taken when its mailbox is first in the order of submissions (15 R368) and holds its opcode. -/
def taken (s : State) (m : MbxId) (op : Nat) : Bool := s.order.head? == some m && reqOp s m == op

/-- Take a command: the first failing check refuses it, and otherwise it has its effect, which posts its response. -/
def runCmd (s : State) (m : MbxId) (op len : Nat) (chk : Option Err) (eff : State) : State :=
  if taken s m op then
    match firstErr [preCheck s m len, chk] with
    | some e => refuse s m e
    | none => eff
  else s

/-- The guard of a mailbox command: the part has the mailbox. -/
def onMbx (m : MbxId) (s : State) : Answer := onUnit (mbxWf m) s

end Sys2Proof.Machine
end

