-- ==== Sys2Proof/Machine/Float.lean ====
section
/-! DEFINITION. Floating-point arithmetic: exact on dyadic numbers, then rounded once to nearest with ties to even
(02 R55), for FP32, BF16, FP8 E4M3 and E5M2 and E2M1 (03 R65-R67), and the conversions between them (02 R59, 03 R68). -/

namespace Sys2Proof.Machine

/-- A floating-point value: a NaN, an infinity, or (-1)^neg * m * 2^e. -/
inductive Fp where
  | nan
  | inf (neg : Bool)
  | num (neg : Bool) (m : Nat) (e : Int)
deriving DecidableEq, Repr

/-- A format: precision with the hidden bit, exponent of the least subnormal, code of infinity (of the first code that
is no finite number), place of the sign bit. -/
structure Fmt where
  p    : Nat
  emin : Int
  top  : Nat
  sign : Nat

def f32 : Fmt := { p := 24, emin := -149, top := 0x7F800000, sign := 31 }
def bf16 : Fmt := { p := 8, emin := -133, top := 0x7F80, sign := 15 }
def e4m3 : Fmt := { p := 4, emin := -9, top := 0x7F, sign := 7 }
def e5m2 : Fmt := { p := 3, emin := -16, top := 0x7C, sign := 7 }
def e2m1 : Fmt := { p := 2, emin := -1, top := 8, sign := 3 }

/-- n / 2^k rounded to nearest, ties to even. -/
def rneShift (n k : Nat) : Nat := (roundEven (n : Int) (2 ^ k)).toNat

/-- The code of m * 2^e, rounded to nearest with ties to even, without regard to the format's largest number. -/
def encPos (f : Fmt) (m : Nat) (e : Int) : Nat :=
  if m = 0 then 0
  else
    let q := max ((bitLen m : Int) + e - f.p) f.emin
    let mant := if q ≤ e then m * 2 ^ (e - q).toNat else rneShift m (q - e).toNat
    (q - f.emin).toNat * 2 ^ (f.p - 1) + mant

/-- The magnitude a code stands for. -/
def decPos (f : Fmt) (c : Nat) : Nat × Int :=
  let x := c / 2 ^ (f.p - 1)
  let m := c % 2 ^ (f.p - 1)
  if x = 0 then (m, f.emin) else (m + 2 ^ (f.p - 1), f.emin + x - 1)

/-- Read a code of a format with infinities (FP32, BF16, E5M2). -/
def fpOf (f : Fmt) (c : Nat) : Fp :=
  let neg := c / 2 ^ f.sign % 2 == 1
  let a := c % 2 ^ f.sign
  if a = f.top then .inf neg
  else if f.top < a then .nan
  else .num neg (decPos f a).1 (decPos f a).2

/-- Round to a format with infinities; a result beyond the largest number becomes an infinity. -/
def fpTo (f : Fmt) (x : Fp) : Nat :=
  match x with
  | .nan => (if Config.nanSign then 2 ^ f.sign else 0) + f.top + 2 ^ (f.p - 2)
  | .inf neg => (if neg then 2 ^ f.sign else 0) + f.top
  | .num neg m e => (if neg then 2 ^ f.sign else 0) + Nat.min (encPos f m e) f.top

/-- E4M3: codes 0x7F and 0xFF are NaN and there is no infinity (03 R67). -/
def ofE4m3 (b : Byte) : Fp :=
  if b.toNat % 128 = 127 then .nan
  else .num (128 ≤ b.toNat) (decPos e4m3 (b.toNat % 128)).1 (decPos e4m3 (b.toNat % 128)).2

/-- E4M3 of a value, and whether it counts as saturated or NaN (02 R59); the sign of a NaN is kept from the word. -/
def toE4m3 (neg : Bool) (x : Fp) : Byte × Bool :=
  let s := if neg then 128 else 0
  match x with
  | .nan => (BitVec.ofNat 8 (s + 0x7F), true)
  | .inf _ => (BitVec.ofNat 8 (s + 0x7E), true)
  | .num _ m e =>
    let c := encPos e4m3 m e
    if 0x7E < c then (BitVec.ofNat 8 (s + 0x7E), true) else (BitVec.ofNat 8 (s + c), false)

/-- E2M1 of a value, a magnitude above 6 becoming 6 (03 R68 step 5). -/
def toE2m1 (x : Fp) : Nat :=
  match x with
  | .nan => 0
  | .inf neg => (if neg then 8 else 0) + 7
  | .num neg m e => (if neg then 8 else 0) + Nat.min (encPos e2m1 m e) 7

def ofE2m1 (c : Nat) : Fp := .num (8 ≤ c) (decPos e2m1 (c % 8)).1 (decPos e2m1 (c % 8)).2

/-- An INT4 or E2M1 code in units of Table 02.1. -/
def unitsOf (fp4 : Bool) (c : Nat) : Int :=
  if fp4 then
    let m := [0, 1, 2, 3, 4, 6, 8, 12].getD (c % 8) 0
    if 8 ≤ c % 16 then -(m : Int) else m
  else sgn 4 (c % 16)

/-! ### Exact dyadic numbers -/

/-- m * 2^e. -/
structure Dy where
  m : Int
  e : Int
deriving DecidableEq, Repr

def dyZero : Dy := ⟨0, 0⟩

def dyAlign (x : Dy) (e : Int) : Int := x.m * 2 ^ (x.e - e).toNat

def dyAdd (x y : Dy) : Dy :=
  let e := min x.e y.e
  ⟨dyAlign x e + dyAlign y e, e⟩

def dyMul (x y : Dy) : Dy := ⟨x.m * y.m, x.e + y.e⟩

def dyLt (x y : Dy) : Bool :=
  let e := min x.e y.e
  dyAlign x e < dyAlign y e

def dyLe (x y : Dy) : Bool := !dyLt y x

def dyScale (x : Dy) (k : Int) : Dy := ⟨x.m, x.e + k⟩

def dyAbs (x : Dy) : Dy := ⟨x.m.natAbs, x.e⟩

/-- Nearest integer, ties to even. -/
def dyRne (x : Dy) : Int := if 0 ≤ x.e then x.m * 2 ^ x.e.toNat else roundEven x.m (2 ^ (-x.e).toNat)

def dyFloor (x : Dy) : Int := if 0 ≤ x.e then x.m * 2 ^ x.e.toNat else x.m / (2 ^ (-x.e).toNat : Nat)

def dyOfInt (n : Int) : Dy := ⟨n, 0⟩

/-- floor(log2 |x|), for x other than 0. -/
def dyLog2 (x : Dy) : Int := (Nat.log2 x.m.natAbs : Int) + x.e

/-- The finite value, none for a NaN or an infinity. -/
def fpDy : Fp → Option Dy
  | .num neg m e => some ⟨if neg then -(m : Int) else m, e⟩
  | _ => none

/-- A dyadic number as a value; an exact zero takes the sign given. -/
def dyFp (negZero : Bool) (x : Dy) : Fp :=
  if x.m = 0 then .num negZero 0 0 else .num (x.m < 0) x.m.natAbs x.e

def fpNeg : Fp → Fp
  | .nan => .nan
  | .inf s => .inf (!s)
  | .num s m e => .num (!s) m e

def fpSign : Fp → Bool
  | .nan => false
  | .inf s => s
  | .num s _ _ => s

def fpAdd (a b : Fp) : Fp :=
  match a, b with
  | .nan, _ => .nan
  | _, .nan => .nan
  | .inf s, .inf t => if s = t then .inf s else .nan
  | .inf s, _ => .inf s
  | _, .inf t => .inf t
  | .num s m e, .num t n f =>
    dyFp (s && t) (dyAdd ⟨if s then -(m : Int) else m, e⟩ ⟨if t then -(n : Int) else n, f⟩)

def fpMul (a b : Fp) : Fp :=
  match a, b with
  | .nan, _ => .nan
  | _, .nan => .nan
  | .inf s, .inf t => .inf (s != t)
  | .inf s, .num t n _ => if n = 0 then .nan else .inf (s != t)
  | .num s m _, .inf t => if m = 0 then .nan else .inf (s != t)
  | .num s m e, .num t n f => .num (s != t) (m * n) (e + f)

/-- a * b + c, exact before the one rounding. -/
def fpFma (a b c : Fp) : Fp := fpAdd (fpMul a b) c

/-- a / b to 70 bits and a sticky bit, which rounds as the exact quotient does. -/
def fpDiv (a b : Fp) : Fp :=
  match a, b with
  | .nan, _ => .nan
  | _, .nan => .nan
  | .inf _, .inf _ => .nan
  | .inf s, .num t _ _ => .inf (s != t)
  | .num s _ _, .inf t => .num (s != t) 0 0
  | .num s m e, .num t n f =>
    if n = 0 then (if m = 0 then .nan else .inf (s != t))
    else
      let k := 70 + bitLen n
      let q := m * 2 ^ k / n
      .num (s != t) (2 * q + (if m * 2 ^ k % n = 0 then 0 else 1)) (e - f - k - 1)

/-- Square root to more than 30 bits and a sticky bit. -/
def fpSqrt (a : Fp) : Fp :=
  match a with
  | .nan => .nan
  | .inf s => if s then .nan else .inf false
  | .num s m e =>
    if m = 0 then .num s 0 0
    else if s then .nan
    else
      let k : Nat := if e % 2 = 0 then 64 else 65
      let n := m * 2 ^ k
      let r := Nat.sqrt n
      .num false (2 * r + (if r * r = n then 0 else 1)) ((e - k) / 2 - 1)

/-! ### FP32 words -/

def fp (w : W32) : Fp := fpOf f32 w.toNat
def toF32 (x : Fp) : W32 := BitVec.ofNat 32 (fpTo f32 x)

/-- BF16 widens to FP32 exactly. -/
def fpB (w : W16) : Fp := fpOf bf16 w.toNat
def widenB (w : W16) : W32 := BitVec.ofNat 32 (w.toNat * 65536)

def fAdd (a b : W32) : W32 := toF32 (fpAdd (fp a) (fp b))
def fSub (a b : W32) : W32 := toF32 (fpAdd (fp a) (fpNeg (fp b)))
def fMul (a b : W32) : W32 := toF32 (fpMul (fp a) (fp b))
def fFma (a b c : W32) : W32 := toF32 (fpFma (fp a) (fp b) (fp c))
def fDiv (a b : W32) : W32 := toF32 (fpDiv (fp a) (fp b))
def fSqrt (a : W32) : W32 := toF32 (fpSqrt (fp a))
def fNeg (a : W32) : W32 := a ^^^ 0x80000000
def fOfInt (n : Int) : W32 := toF32 (dyFp false (dyOfInt n))
/-- a * 2^k, rounded where it is subnormal. -/
def fScale (a : W32) (k : Int) : W32 := toF32 (fpMul (fp a) (.num false 1 k))

def fIsNan (a : W32) : Bool := fp a == .nan
def fFinite (a : W32) : Bool := (fpDy (fp a)).isSome

/-- a < b; false where either is a NaN. -/
def fpLt (a b : Fp) : Bool :=
  match a, b with
  | .nan, _ => false
  | _, .nan => false
  | .inf s, .inf t => s && !t
  | .inf s, _ => s
  | _, .inf t => !t
  | .num s m e, .num t n f => dyLt ⟨if s then -(m : Int) else m, e⟩ ⟨if t then -(n : Int) else n, f⟩

def fLt (a b : W32) : Bool := fpLt (fp a) (fp b)

/-- Whether the order of two words is stated: neither is a NaN, and they are no two zeros of different sign. -/
def fOrdered (a b : W32) : Bool := !fIsNan a && !fIsNan b && (fLt a b || fLt b a || a == b)

def fMin (a b : W32) : W32 := if fOrdered a b then (if fLt b a then b else a) else Config.minOpen a b
def fMax (a b : W32) : W32 := if fOrdered a b then (if fLt a b then b else a) else Config.maxOpen a b

/-- clamp(rne(v * 2^k), lo, hi); NaN gives 0; the flag says clamped or NaN (02 R59). An infinity is clamped. -/
def quantInt (x : Fp) (k lo hi : Int) : Int × Bool :=
  match x with
  | .nan => (0, true)
  | .inf s => (if s then lo else hi, true)
  | .num s m e =>
    let v := dyRne (dyScale ⟨if s then -(m : Int) else m, e⟩ k)
    (clampI lo hi v, v < lo || hi < v)

/-! ### MXFP4 blocks (03 R68) -/

/-- The scale code and element codes of one block of at most 32 values. -/
def mxBlock (xs : List Fp) : Nat × List Nat :=
  if xs.any (fun x => (fpDy x).isNone) then (0xFF, xs.map (fun _ => 0))
  else
    let ds := xs.map (fun x => (fpDy x).getD dyZero)
    let amax := ds.foldl (fun a d => if dyLt a (dyAbs d) then dyAbs d else a) dyZero
    if amax.m = 0 then (0, xs.map (fun x => if fpSign x then 8 else 0))
    else
      let c := (clampI 0 254 (dyLog2 amax - 2 + 127)).toNat
      (c, xs.map (fun x => toE2m1 (fpMul x (.num false 1 (127 - (c : Int))))))

/-- The value of an MXFP4 element; a product beyond the FP32 range is an infinity (03 R75). -/
def mxElem (scale code : Nat) : Fp :=
  if scale = 0xFF then .nan else fp (toF32 (fpMul (ofE2m1 code) (.num false 1 ((scale : Int) - 127))))

/-- Byte `i` of a packed vector of 4-bit codes: element 2i in bits [3:0] (03 Table 03.2). -/
def nibble (bs : Bytes) (i : Nat) : Nat :=
  let b := (byteAt bs (i / 2)).toNat
  if i % 2 = 0 then b % 16 else b / 16

def packNibbles : List Nat → Bytes
  | [] => []
  | [a] => [BitVec.ofNat 8 (a % 16)]
  | a :: b :: l => BitVec.ofNat 8 (a % 16 + b % 16 * 16) :: packNibbles l

/-- A list of a given length, `d` after its end. -/
def padWith {α : Type} (d : α) (n : Nat) (l : List α) : List α := (l ++ List.replicate (n - l.length) d).take n

/-- Split into blocks of `n`. -/
def chunk {α : Type} (n : Nat) : Nat → List α → List (List α)
  | 0, _ => []
  | k + 1, l => l.take n :: chunk n k (l.drop n)

/-- One MX segment: 256 bytes of codes and 16 block scales; positions past the vector's end hold code 0x0, blocks without
elements scale 0x00 (03 R70, R71). -/
def mxSegment (codes : List Nat) (scales : List Nat) : Bytes :=
  packNibbles (padWith 0 512 codes) ++ (padWith 0 16 scales).map (fun c => (BitVec.ofNat 8 c : Byte))

/-- A vector in MXFP4: MX segments back to back (03 R68, R70, R71). -/
def mxVector (l : List Fp) : Bytes :=
  ((chunk 512 (ceilDiv l.length 512) l).map (fun seg =>
    let bl := (chunk 32 (ceilDiv seg.length 32) seg).map mxBlock
    mxSegment ((bl.map Prod.snd).flatten) (bl.map Prod.fst))).flatten

/-- Reduction of 2^j elements: element i pairs with element i + 2^(j-1), each step rounded (05 R122). -/
def treeReduce (op : W32 → W32 → W32) : Nat → List W32 → W32
  | 0, l => l.headD 0
  | j + 1, l => treeReduce op j ((List.range (2 ^ j)).map (fun i => op (l.getD i 0) (l.getD (i + 2 ^ j) 0)))

/-- The least j with 2^j at least n. -/
def log2Up (n : Nat) : Nat := if n ≤ 1 then 0 else Nat.log2 (n - 1) + 1

/-- Reduction padded with the identity of the operation (05 R122). -/
def vReduce (op : W32 → W32 → W32) (unit : W32) (l : List W32) : W32 :=
  let j := log2Up l.length
  treeReduce op j (l ++ List.replicate (2 ^ j - l.length) unit)

end Sys2Proof.Machine
end

