-- ==== Sys2Proof/Machine/Tile.lean ====
section
/-! DEFINITION. The tile data path: which tile serves a slot, the array edge with the Whisk and the Sieve, the 16
phases of a tile pass, promotion, the add-backs, fall-back, and the periphery (02, 03, 04, 05 R134-R143). -/

namespace Sys2Proof.Machine

/-! ### Sites, pairs and chains -/

/-- Physical column of a logical core column before any remap (08 R189). -/
def physCol (s : State) (l : Nat) : Nat :=
  match s.grade with
  | .g8200 => if l ≤ 11 then l else l + 1
  | .g8170 => if l ≤ 10 then l + 1 else l + 2

/-- Logical columns of a grade: 24 or 22 (00 Table 00.1). -/
def gradeCols (s : State) : Nat := match s.grade with | .g8200 => 24 | .g8170 => 22

/-- The site that carries logical column `l` of a row: column 12 where a remap in force names it (08 R189). -/
def siteOf (s : State) (row l : Nat) : Nat :=
  if mapFind s.remapNow row = some l then row * 25 + 12 else row * 25 + physCol s l

/-- The site a core's logical column had before any remap: its place in unit ids and delta blocks (14 R347). -/
def homeSite (s : State) (site : Nat) : Nat :=
  if site % 25 = 12 then
    match mapFind s.remapNow (site / 25) with
    | some l => site / 25 * 25 + physCol s l
    | none => site
  else site

/-- The logical column of a site's home. -/
def logCol (s : State) (site : Nat) : Nat :=
  ((List.range (gradeCols s)).find? (fun l => physCol s l == homeSite s site % 25)).getD 0

/-- The spare tile wired to a site's pair: tile 16 of the lower-numbered site; that of (10, 11) for column 12 (01 R15). -/
def spareKey (k : Nat) : Nat :=
  let site := k / 32
  let c := site % 25
  let lower := if c < 12 then c - c % 2 else if c = 12 then 10 else c - (c - 13) % 2
  tkey (site / 25 * 25 + lower) 16

/-- The tile that runs a slot's passes: its pair's spare tile while that serves in its place. -/
def physTile (s : State) (k : Nat) : Nat := if (tileAt s k).covered then spareKey k else k

/-- The slot a physical tile runs passes for. -/
def memberOf (s : State) (k : Nat) : Option Nat := if k % 32 = 16 then (tileAt s k).serves else if (tileAt s k).covered then none else some k

/-- A slot is served: its tile, or the spare in its place, is SERVING. -/
def slotServing (s : State) (k : Nat) : Bool := tileState s (physTile s k) == 2

/-- CHAIN_ID and CHAIN_N in force. -/
def chainId (s : State) (k : Nat) : Nat := rdFA s (tileReg (physTile s k) 0) 7 4
def chainN (s : State) (k : Nat) : Nat := rdFA s (tileReg (physTile s k) 0) 10 8

/-- The instance slot a tile slot is placed with. -/
def ownerSlot (s : State) (k : Nat) : Option Nat := (tileAt s k).owner.map (fun o => o.slot)

/-- The members of the chain whose head is `head`, in slot order; a tile with CHAIN_N 0 is alone (02 R51). Tiles of other
instances that use the same CHAIN_ID form chains of their own (DESIGN CHOICE, log 137). -/
def chainMembers (s : State) (site head : Nat) : List Nat :=
  let h := tkey site head
  if chainN s h = 0 then [head]
  else (List.range 16).filter (fun t =>
    ownerSlot s (tkey site t) == ownerSlot s h && chainN s (tkey site t) != 0 && chainId s (tkey site t) == chainId s h)

/-- A core whose members run on stand-in: it has failed, or is under self-test (05 R141, 19 Table 19.6). -/
def coreAway (s : State) (site : Nat) : Bool := (coreAt s site).failed || (coreAt s site).tested

/-- A placed slot of a core that runs its own passes heads its chain: no lower member. -/
def isHead (s : State) (site head : Nat) : Bool :=
  (ownerSlot s (tkey site head)).isSome && !coreAway s site && (chainMembers s site head).head? == some head

/-- The head of the chain a slot is in. -/
def headOf (s : State) (site slot : Nat) : Nat := (chainMembers s site slot).headD slot

/-- The chain check of 02 R52, over the configuration in force. -/
def chainOk (s : State) (site head : Nat) : Bool :=
  let ms := chainMembers s site head
  let h := physTile s (tkey site head)
  ms.length == chainN s (tkey site head) + 1 &&
  ms.all (fun t =>
    let k := physTile s (tkey site t)
    chainN s (tkey site t) == chainN s (tkey site head) &&
    rdA s (tileReg k 0x08) == rdA s (tileReg h 0x08) && rdA s (tileReg k 0x0C) == rdA s (tileReg h 0x0C))

/-- TILE_STATUS.CFG_ERR is 1: the chain is invalid and its runs are not promoted (02 R52). -/
def chainInvalid (s : State) (site head : Nat) : Bool :=
  (chainMembers s site head).any (fun t => rdF s (tileReg (physTile s (tkey site t)) 4) 6 4 == 1)

/-- FB_STATUS.STATE of a slice: 0 ARRAY, 1 granted, 2 refused (04 Table 04.5). -/
def fbState (s : State) (site head : Nat) : Nat := rdF s (sfbSlotReg site head 8) 1 0

def modWork (s : State) (k : Nat) (f : TileWork → TileWork) : State := modTile s k (fun t => { t with work := f t.work })

def workOf (s : State) (k : Nat) : TileWork := (tileAt s k).work

/-! ### Engine time -/

/-- ENG_BUSYn counts the clocks of class n + 1 in units of 16 (05 Table 05.7). -/
def engBusy (s : State) (site cls clocks : Nat) : State :=
  let c := coreAt s site
  let t := mapGet 0 c.busyRem cls + clocks
  let s := setCore s site { c with busyRem := mapPut 0 c.busyRem cls (t % 16) }
  incWrap s (engReg site (0x10 + 4 * (cls - 1))) (t / 16)

/-! ### The frame in work -/

/-- The frame whose pass runs on this part for an instance. -/
def passFlight (s : State) (slot : Nat) : Option Flight :=
  match instOf s slot with
  | some i =>
    match i.passStep with
    | some n => i.flight.find? (fun f => f.msg.step == n)
    | none => none
  | none => none

/-- Step of the frame in work; 0 where there is none. -/
def passStepOf (s : State) (slot : Nat) : W64 :=
  match passFlight s slot with
  | some f => f.msg.step
  | none => 0

def addTally (l r c : Nat) : List TallyRow → List TallyRow
  | [] => [{ layer := l, refused := r, clipped := c }]
  | t :: ts =>
    if t.layer = l then { t with refused := t.refused + r, clipped := t.clipped + c } :: ts
    else if l < t.layer then { layer := l, refused := r, clipped := c } :: t :: ts
    else t :: addTally l r c ts

/-- Change the frame in work of an instance. -/
def modPass (s : State) (slot : Nat) (f : FrameMsg → FrameMsg) : State :=
  modInst s slot (fun i =>
    match i.passStep with
    | some n => { i with flight := i.flight.map (fun x => if x.msg.step == n then { x with msg := f x.msg } else x) }
    | none => i)

/-- The quality tally of the frame in work (04 R108); a refused pass also sets QUALITY_CLIPPED (04 R106). -/
def tally (s : State) (o : Owner) (refused clipped : Nat) : State :=
  if refused = 0 ∧ clipped = 0 then s
  else modPass s o.slot (fun m =>
    { m with tally := addTally o.layer refused clipped m.tally, clipped := m.clipped || refused != 0 })

/-- The sequence of the frame that owns input vector `v` of the pass, in the order of 02 R47. -/
def seqOfVec : List SeqMsg → Nat → Option SeqMsg
  | [], _ => none
  | q :: qs, v => if v < q.inLen then some q else seqOfVec qs (v - q.inLen)

/-- The delta block active on a slice for an input vector: that of the sequence's captured version (12 R299). -/
def activeDelta (s : State) (site : Nat) (o : Owner) (vec : Nat) : Option DeltaBlock :=
  match passFlight s o.slot, instOf s o.slot with
  | some f, some i =>
    match seqOfVec f.msg.seqs vec with
    | some q =>
      if q.version = 0 ∨ rdF s (engReg site 0) 1 1 = 0 then none
      else match mapFind i.vers q.version with
        | some v => v.blocks.find? (fun b => b.site == homeSite s site && b.layer == o.layer)
        | none => none
    | none => none
  | _, _ => none

/-! ### The array edge (03 R74-R79) -/

/-- Bytes of one tile slice in an arrival format (03 R70, R72). -/
def sliceBytes (fmt : Nat) : Nat := if fmt = 1 then 256 else if fmt = 3 then 272 else 512

/-- Widen element `r` of a slice to FP32 (03 R75). An IN_FMT of 4-7 comes into force only where the copy of a member that
was not checked (03 R80) heads a chain later: it is read as MXFP4 (DESIGN CHOICE, log 136). -/
def widenElem (fmt : Nat) (bs : Bytes) (r : Nat) : W32 :=
  if fmt = 0 then fOfInt (sgn 8 (byteAt bs r).toNat)
  else if fmt = 1 then fOfInt (sgn 4 (nibble bs r))
  else if fmt = 2 then toF32 (ofE4m3 (byteAt bs r))
  else toF32 (mxElem (byteAt bs (256 + r / 32)).toNat (nibble bs r))

def widenSlice (fmt : Nat) (bs : Bytes) : List W32 := (List.range 512).map (widenElem fmt bs)

/-- One butterfly stage of a rotation of n rows (03 R82). -/
def whiskStage (half : Nat) (v : List W32) : List W32 :=
  (List.range v.length).map (fun i =>
    if i / half % 2 = 0 then fAdd (v.getD i 0) (v.getD (i + half) 0) else fSub (v.getD (i - half) 0) (v.getD i 0))

def whiskStages : Nat → Nat → List W32 → List W32
  | _, 0, v => v
  | half, m + 1, v => whiskStages (2 * half) m (whiskStage half v)

/-- Rotation of one segment: m stages, then the scale 2^-h with h = ceil(m / 2) (03 R81, R82). -/
def whiskSegment (m : Nat) (v : List W32) : List W32 := (whiskStages 1 m v).map (fun x => fScale x (-(((m + 1) / 2 : Nat) : Int)))

/-- The Whisk: the rows of the rotated span, signed and rotated by segments; the other rows pass (03 R81, R82). -/
def whisk (rotSize rotSegs : Nat) (sign : Nat → Bool) (v : List W32) : List W32 :=
  let m := 6 + rotSize
  let n := 2 ^ m
  let segs := if rotSegs = 0 then 512 / n else rotSegs
  let span := segs * n
  let w := (List.range v.length).map (fun i => if i < span && sign i then fNeg (v.getD i 0) else v.getD i 0)
  ((chunk n segs (w.take span)).map (whiskSegment m)).flatten ++ w.drop span

/-- The sign bit of a row in an edge set (03 R83). -/
def edgeSign (s : State) (site slot row : Nat) : Bool :=
  (rdA s (edgeReg site slot (0x40 + 4 * (row / 32)))).getLsbD (row % 32)

/-- IN_EXP of a head's edge set. -/
def inExp (s : State) (site head : Nat) : Int := sgn 6 (rdFA s (edgeReg site head 0) 21 16)

/-- Steps 1 and 2 of 03 R74 on one member: widened values, and after the rotation where the Whisk is on. -/
def edgeWiden (s : State) (site head : Nat) (bs : Bytes) : List W32 :=
  widenSlice (rdFA s (edgeReg site head 0) 11 9) bs

def edgeRotate (s : State) (site head slot : Nat) (v : List W32) : List W32 :=
  if rdFA s (edgeReg site head 0) 0 0 = 1 then
    whisk (rdFA s (edgeReg site head 0) 2 1) (rdFA s (edgeReg site head 0) 7 4) (edgeSign s site slot) v
  else v

/-! ### The Sieve (04 R89-R93) -/

/-- A candidate: v * 2^-e' at least 7.5, or below -8.5 (04 R90). -/
def sieveCandidate (e' : Int) (v : W32) : Bool :=
  match fpDy (fp v) with
  | some d =>
    let x := dyScale d (1 - e')          -- 2 v 2^-e'
    !dyLt x (dyOfInt 15) || dyLt x (dyOfInt (-17))
  | none => false

/-- Insert a (row, magnitude) in descending order of magnitude, the lower row first among equals. -/
def sieveInsert (r : Nat) (m : Dy) : List (Nat × Dy) → List (Nat × Dy)
  | [] => [(r, m)]
  | (q, n) :: l => if dyLt n m then (r, m) :: (q, n) :: l else (q, n) :: sieveInsert r m l

def sieveOrder (e' : Int) : Nat → List W32 → List (Nat × Dy) → List (Nat × Dy)
  | _, [], acc => acc
  | r, v :: vs, acc =>
    sieveOrder e' (r + 1) vs
      (if sieveCandidate e' v then sieveInsert r (dyAbs ((fpDy (fp v)).getD dyZero)) acc else acc)

/-- What the Sieve does to one tile slice. -/
structure Sieved where
  vals    : List W32                  -- the slice that goes on, removed elements as 0
  removed : List (Nat × Int)          -- (row, 2 * x8), in the order of removal
  clips   : Nat                       -- clamped candidates and E4M3 saturations

/-- x8 of a removed element, doubled, and whether it saturated (04 R93). -/
def sieveX8 (e' : Int) (v : W32) : Int × Bool :=
  let x := fpMul (fp v) (.num false 1 (-e'))
  let c := toE4m3 (fpSign x) x
  (dyRne (dyScale ((fpDy (ofE4m3 c.1)).getD dyZero) 1), c.2)

/-- Remove up to `slots` candidates, largest first, and clamp the others (04 R91); one that would be removed from a lost
shadow row is clamped instead (20 R458). -/
def sieveSlice (e' : Int) (slots : Nat) (lost : List Nat) (v : List W32) : Sieved :=
  let cs := (sieveOrder e' 0 v []).map Prod.fst
  let out := (cs.take slots).filter (fun r => !lost.contains r)
  let clamp := cs.filter (fun r => !out.contains r)
  let lo := toF32 (.num true 8 e')
  let hi := toF32 (.num false 7 e')
  { vals := (List.range v.length).map (fun r =>
      if out.contains r then 0
      else if clamp.contains r then (if fpSign (fp (v.getD r 0)) then lo else hi) else v.getD r 0)
    removed := out.map (fun r => (r, (sieveX8 e' (v.getD r 0)).1))
    clips := clamp.length + (out.filter (fun r => (sieveX8 e' (v.getD r 0)).2)).length }

/-! ### Shift and quantisation (03 R76-R78, 04 R101) -/

/-- p, the largest finite value, and q, the largest magnitude among negative values (03 R77); none: no finite non-zero
element. -/
def edgeExtremes (v : List W32) : Option (Dy × Dy) :=
  let ds := v.filterMap (fun w => fpDy (fp w))
  if ds.all (fun d => d.m == 0) then none
  else
    some (ds.foldl (fun a d => if dyLt a d then d else a) (ds.headD dyZero),
          ds.foldl (fun a d => if d.m < 0 && dyLt a (dyAbs d) then dyAbs d else a) dyZero)

/-- The smallest s in 0-7 with 2 p 2^-e < hi and 2 q 2^-e <= lo at e = base + s, else 7. -/
def edgeShiftGo (p q : Dy) (base : Int) (hi lo : Int) : Nat → Nat → Nat
  | 0, sh => sh
  | n + 1, sh =>
    if dyLt (dyScale p (1 - (base + sh))) (dyOfInt hi) && dyLe (dyScale q (1 - (base + sh))) (dyOfInt lo) then sh
    else edgeShiftGo p q base hi lo n (sh + 1)

def edgeShift (v : List W32) (base hi lo : Int) : Nat :=
  match edgeExtremes v with
  | some (p, q) => edgeShiftGo p q base hi lo 7 0
  | none => 0

/-- The input shift of the array path: limits 7.5 and 8.5 (03 R77). -/
def shift4 (v : List W32) (inexp : Int) : Nat := edgeShift v inexp 15 17
/-- The shift of the 8-bit slice: limits 127.5 and 128.5 at e8 = IN_EXP + s8 - 4 (04 R101). -/
def shift8 (v : List W32) (inexp : Int) : Nat := edgeShift v (inexp - 4) 255 257

/-- clamp(rne(v * 2^-e), lo, hi); a non-finite element gives 0. The flags: non-finite, clamped (03 R78). -/
def quantElem (e lo hi : Int) (v : W32) : Int × Bool × Bool :=
  match fpDy (fp v) with
  | some d =>
    let x := dyRne (dyScale d (-e))
    (clampI lo hi x, false, x < lo || hi < x)
  | none => (0, true, false)

def quant4 (inexp : Int) (sh : Nat) (v : W32) : Int × Bool × Bool := quantElem (inexp + sh) (-8) 7 v
def quant8 (inexp : Int) (s8 : Nat) (v : W32) : Int × Bool × Bool := quantElem (inexp + s8 - 4) (-128) 127 v

def countNan (l : List (Int × Bool × Bool)) : Nat := (l.filter (fun x => x.2.1)).length
def countClip (l : List (Int × Bool × Bool)) : Nat := (l.filter (fun x => x.2.2)).length

/-- The four bit-planes of an activation in -8 ... +7 (02 R38). -/
def planesOf (x : Int) : BitVec 4 := BitVec.ofInt 4 x

/-! ### Window counts and the shadow row cache -/

/-- Add to a slice's window count (04 R97). -/
def windowAdd (s : State) (site head n : Nat) : State :=
  modCore s site (fun c => { c with winCount := mapPut 0 c.winCount head (mapGet 0 c.winCount head + n) })

/-- Use a row of the shadow row cache: most recently used first (05 R129). -/
def cacheTouch (l : List (Nat × Nat)) (x : Nat × Nat) : List (Nat × Nat) := x :: l.filter (fun y => y != x)

/-- A row arrives: 512 rows are kept, the least recently used goes (05 R129). -/
def cacheInsert (l : List (Nat × Nat)) (x : Nat × Nat) : List (Nat × Nat) := (cacheTouch l x).take 512

/-- The placed value of a weight in the shadow copy, in units; a lost row reads as nothing (04 R94, 20 R458). -/
def shadowW (t : TileSt) (row col : Nat) : Int := mapGet 0 t.shadow (512 * row + col)

/-! ### One edge slice (EDGE_SLICE_CONVERT) -/

/-- The edge configuration of a slice. -/
structure EdgeCfg where
  inexp : Int
  mode  : Nat
  tgt   : Nat
  slots : Nat

/-- SLOTS counts only with SIEVE_EN (04 R92); TGT is taken as 0 under MODE 0 (04 R90). -/
def edgeCfg (s : State) (site head : Nat) : EdgeCfg :=
  let mode := rdFA s (edgeReg site head 0) 8 8
  { inexp := inExp s site head
    mode := mode
    tgt := if mode = 0 then 0 else rdFA s (sfbSlotReg site head 0) 10 8
    slots := if rdF s (sfbReg site 0) 2 2 = 1 then rdFA s (sfbSlotReg site head 0) 6 0 else 0 }

/-- The Sieve on one member, or the slice unchanged where it is off (04 R92). -/
def sieveMember (c : EdgeCfg) (lost : List Nat) (v : List W32) : Sieved :=
  if c.slots = 0 then { vals := v, removed := [], clips := 0 } else sieveSlice (c.inexp + c.tgt) c.slots lost v

/-- Latch what the edge made of one member. -/
def latchMember (s : State) (site slot vec : Nat) (planes : List (BitVec 4)) (sh : Nat) (removed : List (Nat × Int)) : State :=
  let core := coreAt s site
  let src := rdF s (engReg site 0) 2 2 = 1
  let hit := (removed.map Prod.fst).filter (fun r => src && core.srcCache.contains (slot, r))
  let miss := (removed.map Prod.fst).filter (fun r => !(src && core.srcCache.contains (slot, r)))
  let s := setCore s site { core with srcCache := hit.foldl (fun l r => cacheTouch l (slot, r)) core.srcCache }
  let s := incWrap s (engReg site 0x44) hit.length
  let s := incWrap s (engReg site 0x48) miss.length
  modWork s (tkey site slot) (fun w =>
    { w with planes := planes, shift := sh, latched := true, removed := removed, rowsDue := miss,
             sieveDue := !removed.isEmpty, run := [], satCols := [], runDone := false, promoted := false,
             fbReady := false, x8 := [], vec := vec })

/-- Latch the members one after the other. -/
def latchAll (s : State) (site vec sh : Nat) : List (Nat × Sieved × List (Int × Bool × Bool)) → State
  | [] => s
  | (t, z, q) :: l => latchAll (latchMember s site t vec (q.map (fun x => planesOf x.1)) sh z.removed) site vec sh l

/-- The delta slice of one member (05 R135). -/
def setDelta (s : State) (site : Nat) (sh : Nat) : List (Nat × List (Int × Bool × Bool)) → State
  | [] => s
  | (t, q) :: l =>
    setDelta (modWork s (tkey site t) (fun w => { w with xd := q.map Prod.fst, s8d := sh, deltaDue := true })) site sh l

/-- The 8-bit slice of one member (04 R101). -/
def setSlice8 (s : State) (site vec : Nat) (s8 : Nat) : List (Nat × List (Int × Bool × Bool)) → State
  | [] => s
  | (t, q) :: l =>
    setSlice8 (modWork s (tkey site t) (fun w =>
      { w with x8 := q.map Prod.fst, s8 := s8, fbReady := true, latched := false, removed := [], rowsDue := [],
               sieveDue := false, run := [], satCols := [], runDone := false, promoted := false, vec := vec })) site vec s8 l

/-- Convert one edge slice of the chain headed by `head`: quantise the delta slice where one is active, then the
array's bit-planes, or, under a fall-back grant, the 8-bit slice (03 R74-R80, 04 R89-R101, 05 R135). -/
def convertSlice (s : State) (site head vec : Nat) (o : Owner) (members : List Bytes) : State :=
  let ts := chainMembers s site head
  let c := edgeCfg s site head
  let wide := (List.range ts.length).map (fun i => (ts.getD i 0, edgeWiden s site head (members.getD i [])))
  let rot := wide.map (fun x => (x.1, edgeRotate s site head x.1 x.2))
  let siev := rot.map (fun x => (x.1, sieveMember c (tileAt s (tkey site x.1)).lostRows x.2))
  let left := (siev.map (fun x => x.2.vals)).flatten
  let sh := if c.mode = 1 then shift4 left c.inexp else 0
  let q4 := siev.map (fun x => (x.1, x.2, x.2.vals.map (quant4 c.inexp sh)))
  let clip4 := (q4.map (fun x => countClip x.2.2)).sum
  let nan4 := (q4.map (fun x => countNan x.2.2)).sum
  let sclip := (siev.map (fun x => x.2.clips)).sum
  let taken := (siev.map (fun x => x.2.removed.length)).sum
  let er := edgeReg site head
  let sr := sfbSlotReg site head
  -- 05 R135
  let s := match activeDelta s site o vec with
    | some _ =>
      let sd := shift8 (wide.map Prod.snd).flatten c.inexp
      let qd := wide.map (fun x => (x.1, x.2.map (quant8 c.inexp sd)))
      incHold (setDelta s site sd qd) (engReg site 0x40) 32 ((qd.map (fun x => countClip x.2)).sum)
    | none => s
  let s := incWrap s (er 0x18) 1
  if fbState s site head = 1 then
    -- 04 R100, R101
    let s8 := shift8 (rot.map Prod.snd).flatten c.inexp
    let q8 := rot.map (fun x => (x.1, x.2.map (quant8 c.inexp s8)))
    let clip8 := (q8.map (fun x => countClip x.2)).sum
    let s := setSlice8 s site vec s8 q8
    let s := incHold s (er 0x14) 32 ((q8.map (fun x => countNan x.2)).sum)
    let s := incHold s (sr 0x20) 32 clip8
    let s := wr s (er 0x08) (BitVec.ofNat 32 s8)
    let s := windowAdd s site head (clip4 + sclip + clip8)
    tally s o 0 clip8
  else
    let s := latchAll s site vec sh q4
    let s := incHold s (er 0x10) 32 clip4
    let s := incHold s (er 0x14) 32 nan4
    let s := wr s (er 0x08) (BitVec.ofNat 32 sh)
    let s := incHold s (sr 0x10) 32 taken
    let s := incHold s (sr 0x14) 32 sclip
    let s := windowAdd s site head (clip4 + sclip)
    tally s o 0 (clip4 + sclip)

/-- A run of the narrow adder is taken: its bit-planes, or its 8-bit slice, are latched. -/
def workBusy (w : TileWork) : Bool := w.latched || w.fbReady

/-- The chain holds an input vector that has not closed. -/
def chainBusy (s : State) (site head : Nat) : Bool :=
  (chainMembers s site head).any (fun t => workBusy (workOf s (tkey site t)))

/-- Both runs of the chain's double-buffered narrow adders are taken (02 R42). -/
def chainFull (s : State) (site head : Nat) : Bool :=
  (chainMembers s site head).any (fun t => workBusy (tileAt s (tkey site t)).next)

/-- The input vector whose turn it is (02 R47): those before it have closed, or are in work. -/
def turnVec (s : State) (site head : Nat) : Nat :=
  (tileAt s (tkey site head)).nextVec + (if chainBusy s site head then 1 else 0)

/-- The two runs of a tile change places. -/
def swapWork (s : State) (k : Nat) : State := modTile s k (fun t => { t with work := t.next, next := t.work })

def swapAll (site : Nat) : List Nat → State → State
  | [], s => s
  | t :: ts, s => swapAll site ts (swapWork s (tkey site t))

/-! ### The array (02 R27-R50) -/

/-- Levels of the reference columns 520-523, the same in every weight row, G+ before G- (02 R34). -/
def refLevels : List Nat := [0, 0, 8, 0, 0, 8, 15, 15]

/-- Level of a cell (02 R25, R34). -/
def cellLevel (a : ArraySt) (row cell : Nat) : Nat :=
  if cell < 1040 then mapGet 0 a.levels (1048 * row + cell) else refLevels.getD (cell - 1040) 0

/-- The signed weight of a signed column, G+ - G-, in units (02 R27, R32). -/
def cellWeight (a : ArraySt) (row j : Nat) : Int := (cellLevel a row (2 * j) : Int) - cellLevel a row (2 * j + 1)

/-- A TILE_COLMAP entry in force (02 R36): VALID as it stood before a write of it that is PENDING. -/
def colMapOn (s : State) (k n : Nat) : Bool :=
  rdF s (tileReg k (0x20 + 4 * n)) 15 15 != rdF s (tileReg k (0x20 + 4 * n)) 16 16

/-- The physical signed column that carries logical column c (02 R36). -/
def physColumn (s : State) (k c : Nat) : Nat :=
  match (List.range 8).find? (fun n => colMapOn s k n && rdF s (tileReg k (0x20 + 4 * n)) 8 0 == c) with
  | some n => 512 + n
  | none => c

/-- The full-scale step in force of a logical column (02 R44). -/
def colStep (s : State) (k c : Nat) : Nat :=
  let g := c / 32
  if g < 8 then rdFA s (tileReg k 0x08) (3 * g + 2) (3 * g) else rdFA s (tileReg k 0x0C) (3 * (g - 8) + 2) (3 * (g - 8))

/-- The dither values of one phase: value i is -2 bit(2i) + bit(2i + 1) (02 R47). -/
def ditherGo : Nat → W64 → List Int → List Int × W64
  | 0, g, acc => (acc.reverse, g)
  | n + 1, g, acc =>
    let a : Int := if g.getLsbD 63 then -2 else 0
    let g := lfsrStep g
    let b : Int := if g.getLsbD 63 then 1 else 0
    ditherGo n (lfsrStep g) ((a + b) :: acc)

def phaseDither (g : W64) : List Int × W64 := ditherGo 512 g []

/-- S of one signed column in a phase: the weights of the driven rows (02 R38, R40). -/
def phaseSum (a : ArraySt) (planes : List (BitVec 4)) (j g b : Nat) : Int :=
  ((List.range 128).map (fun i =>
    let r := 128 * g + i
    if (planes.getD r 0).getLsbD b then cellWeight a r j else 0)).sum

/-- The ideal value before clamping: floor(S / LSB + d / 4 + 1/2), with LSB = 2^(k-2) (02 R43, R44). -/
def idealCode (S : Int) (k : Nat) (d : Int) : Int := (16 * S + 2 ^ k * d + 2 * 2 ^ k) / (4 * 2 ^ k : Nat)

/-- What calibration has set for one converter and column (07 R167): the LSB current over its nominal value as a fraction,
and the offset in 1/256 unit. -/
structure ConvCal where
  num : Int
  den : Nat
  off : Int
deriving DecidableEq, Repr

/-- The corrections in force of the converter that converts physical column `j`: converter 520's own trims where it
stands in, with the column's scale (07 R167). -/
def convCal (s : State) (k j : Nat) : ConvCal :=
  let i := if rdF s (tileReg k 0x18) 31 31 = 1 ∧ rdF s (tileReg k 0x18) 9 0 = j then 520 else j
  let adc := rdA s (tileReg k (0x1200 + 4 * i))
  let col := rdFA s (tileReg k (0x1B00 + 4 * (j / 2))) (16 * (j % 2) + 15) (16 * (j % 2))
  let dT := (tileAt s k).tempNow - sgn 16 (rdFA s (tileReg k 0x1004) 15 0)
  let num : Int := (4096 + sgn 10 (fld adc 25 16)) * rdFA s (tileReg k 0x100C) 15 0 * col *
    (256000000 + (rdFA s (tileReg k 0x1008) 15 0 : Int) * dT)
  let den : Nat := 4096 * 32768 * 32768 * 256000000
  let g := Nat.gcd num.natAbs den
  { num := num / g, den := den / g, off := sgn 10 (fld adc 9 0) }

/-- The converter's value before clamping (02 R43 with the LSB current and the offset of 07 R167). The analog sum is S and
a deviation that the spec leaves open (06 R145, R147), in 1/65536 unit: the free value `n`. An LSB current of no positive
value gives a free code. -/
def convCode (S : Int) (k : Nat) (d : Int) (c : ConvCal) (n : Nat) : Int :=
  let a := 65536 * S + Config.freeInt n - 256 * c.off
  if c.num ≤ 0 then Config.freeInt n
  else (16 * a * c.den + 65536 * 2 ^ k * c.num * (d + 2)) / (4 * 65536 * 2 ^ k * c.num)

def planeWeight (b : Nat) : Int := if b = 3 then -8 else 2 ^ b

/-- What the 16 phases gather. -/
structure PassSum where
  run  : List Int
  sats : List (Nat × Nat)              -- (logical column, saturated conversions)
  gen  : W64

/-- One phase over every logical column (02 R39, R43, R45, R50). The dither value is the physical column's, so a spare
column reuses values 0-7 as 02 R47 says; R36 says that it follows the logical column (DESIGN CHOICE, log 140). -/
def phaseStep (s : State) (k : Nat) (a : ArraySt) (w : TileWork) (cals : List ConvCal) (dither : Bool) (base : Nat) (test : Bool)
    (acc : PassSum) (p : Nat) : PassSum :=
  let b := p / 4
  let g := p % 4
  let ds := if test then ([], acc.gen) else phaseDither acc.gen
  let cols := (List.range 512).map (fun c =>
    let j := physColumn s k c
    let d := if dither && !test then ds.1.getD (j % 512) 0 else 0
    let v := convCode (phaseSum a w.planes j g b) (colStep s k c) d (cals.getD c { num := 1, den := 1, off := 0 }) (base + 512 * p + c)
    (4 * clampI (-64) 63 v - d, v < -64 || 63 < v))
  { run := (List.range 512).map (fun c => acc.run.getD c 0 + (cols.getD c (0, false)).1 * planeWeight b)
    sats := (List.range 512).filterMap (fun c =>
      let n := ((acc.sats.find? (fun x => x.1 == c)).map Prod.snd).getD 0 + (if (cols.getD c (0, false)).2 then 1 else 0)
      if n = 0 then none else some (c, n))
    gen := ds.2 }

/-- The corrections of the 512 logical columns. -/
def colCals (s : State) (k : Nat) : List ConvCal := (List.range 512).map (fun c => convCal s k (physColumn s k c))

/-- The 16 phases of a tile pass (02 R39). -/
def passPhases (s : State) (k : Nat) (a : ArraySt) (w : TileWork) (gen : W64) (test : Bool) : PassSum :=
  (List.range 16).foldl (phaseStep s k a w (colCals s k) (rdFA s (tileReg k 0) 12 12 == 1) s.freeNo test) { run := [], sats := [], gen := gen }

/-- TILE_SAT_GRPn and TILE_SAT_TOTAL count each saturating conversion (02 R45). -/
def countSats (s : State) (k : Nat) : List (Nat × Nat) → State
  | [] => s
  | (c, n) :: l => countSats (incHold (incHold s (tileReg k (0x50 + 4 * (c / 32))) 16 n) (tileReg k 0x40) 32 n) k l

/-! ### The rotating spare converter (02 R48, R49) -/

def rotPos (s : State) (k : Nat) : Nat := rdF s (tileReg k 0x18) 9 0
def rotActive (s : State) (k : Nat) : Bool := rbit s (tileReg k 0x18) 31

/-- A converter the rotation visits: not stopped under 02 R37 (a spare column that carries no column) or 07 R170. -/
def convServed (s : State) (k i : Nat) : Bool :=
  (decide (i < 512) || (decide (i < 520) && physColumn s k (rdF s (tileReg k (0x20 + 4 * (i - 512))) 8 0) == i)) &&
  !rbit s (tileReg k (0x1200 + 4 * i)) 30

/-- The next position of the rotation from a converter on: a served converter, or 520 itself. -/
def rotNext (s : State) (k i : Nat) : Nat → Nat
  | 0 => 520
  | n + 1 => if 520 ≤ i then 520 else if convServed s k i then i else rotNext s k (i + 1) n

def setRot (s : State) (k i : Nat) : State :=
  let s := wr s (tileReg k 0x18) (BitVec.ofNat 32 (if i = 520 then 520 else i + 0x80000000))
  modTile s k (fun t => { t with dwell := 0, dwellFails := 0 })

/-- The rotation has not started since the reset (02 Table 02.13), and it is in use. -/
def rotIdle (s : State) (k : Nat) : Bool := rdFA s (tileReg k 0) 13 13 == 1 && rd s (tileReg k 0x18) == 0

/-- It starts at the first converter that it visits. -/
def rotStart (s : State) (k : Nat) : State := if rotIdle s k then setRot s k (rotNext s k 0 521) else s

/-! ### Wide accumulators (02 R53) -/

def sat32 (x : Int) : Int := clampI (-2147483648) 2147483647 x

def wideAt (t : TileSt) (c : Nat) : Int := t.wide.getD c 0

/-- Add a term to every wide accumulator of a head, saturating; the number of saturations. -/
def wideAdd (t : TileSt) (f : Nat → Int) : TileSt × Nat :=
  let xs := (List.range 512).map (fun c => wideAt t c + f c)
  ({ t with wide := xs.map sat32 }, (xs.filter (fun x => sat32 x != x)).length)

/-- Add a term to the head's accumulators and count its saturations in the head's TILE_WIDE_SAT (02 R53). -/
def wideAddCount (s : State) (site head : Nat) (f : Nat → Int) : State :=
  let k := tkey site head
  let r := wideAdd (tileAt s k) f
  incHold (setTile s k r.1) (tileReg (physTile s k) 0x44) 16 r.2

/-! ### The periphery (02 R55-R59) -/

/-- The configuration the periphery applies. -/
structure PeriCfg where
  act   : W32
  peri  : W32
  table : Nat → W32
  scale : Nat → W16
  bias  : Nat → W16

/-- The halfword of logical column c in a table of two columns a word. -/
def halfAt (w : W32) (c : Nat) : W16 := BitVec.ofNat 16 (if c % 2 = 0 then w.toNat % 65536 else w.toNat / 65536)

/-- The periphery of a tile's configuration words, given by their offsets in its block. -/
def periOf (w : Nat → W32) : PeriCfg :=
  { act := w 0x10
    peri := w 0x14
    table := fun i => w (0x100 + 4 * i)
    scale := fun c => halfAt (w (0x400 + 4 * (c / 2))) c
    bias := fun c => halfAt (w (0x800 + 4 * (c / 2))) c }

/-- The configuration in force on a tile. -/
def periCfg (s : State) (k : Nat) : PeriCfg := periOf (fun o => rdA s (tileReg k o))

/-- act(y) of 02 R55: identity, ReLU, or the table of 64 segments. Where y - X_LO is NaN no segment is stated: a free
one (log 138). -/
def actFn (p : PeriCfg) (y : W32) : W32 :=
  let preset := fld p.act 2 0
  if preset = 0 then y
  else if preset = 1 then (if fLt 0 y then y else 0)
  else
    let lo := BitVec.ofNat 16 (fld p.act 31 16)
    let z := fpAdd (fp y) (fpNeg (fpB lo))
    let i := match fpDy z with
      | some d => (clampI 0 63 (dyFloor (dyScale d (-(sgn 5 (fld p.act 7 3)))))).toNat
      | none => match z with
        | .inf neg => if neg then 0 else 63
        | _ => Config.nanSegment y % 64
    fFma y (widenB (halfAt (p.table i) 0)) (widenB (halfAt (p.table i) 1))

/-- z[c] of 02 R55. -/
def periOut (p : PeriCfg) (a : Int) (c : Nat) : W32 :=
  actFn p (fFma (fScale (fOfInt a) (-4)) (widenB (p.scale c)) (widenB (p.bias c)))

/-- Max pooling of one group: NaN members are ignored, an all-NaN group gives NaN (02 R58). Of zeros of both signs the
earlier stays, and an all-NaN group gives its last member (DESIGN CHOICE, log 139). -/
def poolMax : List W32 → W32
  | [] => 0
  | [x] => x
  | x :: l =>
    let y := poolMax l
    if fIsNan x then y else if fIsNan y then x else if fLt x y then y else x

/-- Average pooling: members added in order, each addition rounded, one rounding in the division (02 R58). -/
def poolAvg (l : List W32) : W32 := fDiv (l.tail.foldl fAdd (l.headD 0)) (fOfInt l.length)

/-- Pooling (02 R58). -/
def pool (p : PeriCfg) (z : List W32) : List W32 :=
  let mode := fld p.peri 1 0
  let n := fld p.peri 5 2
  if mode = 1 then (chunk n (ceilDiv 512 n) z).map poolMax
  else if mode = 2 then (chunk n (ceilDiv 512 n) z).map poolAvg
  else z

/-- Output conversion (02 R59, R69): codes, MXFP4 scales, and the elements counted in TILE_OUT_SAT. -/
def outConvert (p : PeriCfg) (o : List W32) : List W16 × List Byte × Nat :=
  let f := fld p.peri 10 8
  let ex := sgn 6 (fld p.peri 21 16)
  if f = 0 then
    let q := o.map (fun x => quantInt (fp x) ex (-128) 127)
    (q.map (fun x => BitVec.ofNat 16 (unsgn 8 x.1)), [], (q.filter (fun x => x.2)).length)
  else if f = 1 then
    let q := o.map (fun x => quantInt (fp x) ex (-8) 7)
    (q.map (fun x => BitVec.ofNat 16 (unsgn 4 x.1)), [], (q.filter (fun x => x.2)).length)
  else if f = 2 then
    let q := o.map (fun x => toE4m3 (x.getLsbD 31) (fp x))
    (q.map (fun x => BitVec.ofNat 16 x.1.toNat), [], (q.filter (fun x => x.2)).length)
  else
    let bl := (chunk 32 (ceilDiv o.length 32) o).map (fun b => mxBlock (b.map fp))
    ((bl.map (fun b => b.2.map (fun c => (BitVec.ofNat 16 c : W16)))).flatten, bl.map (fun b => BitVec.ofNat 8 b.1),
     (o.filter (fun x => !fFinite x)).length)

/-- An output vector as it is packed: one byte for each INT8 or E4M3 element, two INT4 elements in a byte, or one MX
segment (03 R70-R72). -/
def packedOut (p : PeriCfg) (codes : List W16) (scales : List Byte) : Bytes :=
  let f := fld p.peri 10 8
  let cs := codes.map (fun c => c.toNat)
  if f = 1 then packNibbles cs
  else if f = 0 ∨ f = 2 then cs.map (fun c => (BitVec.ofNat 8 c : Byte))
  else mxSegment cs (scales.map (fun b => b.toNat))

/-- The periphery on the 512 accumulators of a head. -/
def periphery (p : PeriCfg) (wide : Nat → Int) : List W16 × List Byte × Nat :=
  outConvert p (pool p ((List.range 512).map (fun c => periOut p (wide c) c)))

end Sys2Proof.Machine
end

