-- ==== Sys2Proof/Machine/Stock.lean ====
section
/-! DEFINITION. Stockpot: frames, regions, the pool, placement by keyed hash, page tables, reference counts and the
loss of a stack (09 R208, R211-R229), and the checks of an access to a global memory address (09 R212-R214, 18 R423). -/

namespace Sys2Proof.Machine

/-! ### Frames, stacks and regions (09 R212, 18 Table 18.1) -/

abbrev frameBytes := 0x200000
abbrev frameCount := 589824
abbrev stackFrames := 24576

/-- The fields of a global memory address (09 Table 09.3). -/
def gmaOffset (a : W64) : Nat := a.toNat % 2 ^ 41
def gmaPart (a : W64) : Nat := a.toNat / 2 ^ 41 % 2 ^ 13
def gmaSpace (a : W64) : Nat := a.toNat / 2 ^ 54 % 4
def gmaHigh (a : W64) : Nat := a.toNat / 2 ^ 56

def stackGma (part f off : Nat) : W64 := BitVec.ofNat 64 (part * 2 ^ 41 + f * frameBytes + off)

def stackOf (f : Nat) : Nat := f % 24
def regionOf (f : Nat) : Nat := 48 * (f % 24) + f / 24 / 512
def regionSecure (s : State) (r : Nat) : Bool := s.sec.regions.contains r

/-- A unit is being cleared after it left the secure world (18 R422). -/
def unitClearing (s : State) (kind u : Nat) : Bool := s.sec.clearing.any (fun c => c.1 == kind && c.2.1 == u)

def skUp (s : State) (n : Nat) : Bool := rbit s (skReg n 0) 0
def skDown (s : State) (n : Nat) : Bool := rbit s (skReg n 0) 1

/-- New allocations in a region under self-test wait (19 Table 19.6). -/
def regionTested (s : State) (r : Nat) : Bool := s.bist.any (fun b => b.test == 6 && b.running.contains r)

/-- A frame of the pool that a page of the given world may take (09 R215, R223, 18 R422). -/
def frameFree (s : State) (secure : Bool) (f : Nat) : Bool :=
  decide (f < frameCount) && regionOf f != 0 && skUp s (stackOf f) && regionSecure s (regionOf f) == secure &&
  !unitClearing s 2 (regionOf f) && !regionTested s (regionOf f) && !s.pot.used.contains f

/-- The first free frame of a stack from a local frame on, wrapping. -/
def findFrame (s : State) (secure : Bool) (n start : Nat) : Nat → Option Nat
  | 0 => none
  | k + 1 =>
    let f := n + 24 * (start % stackFrames)
    if frameFree s secure f then some f else findFrame s secure n (start + 1) k

/-- Free frames of a stack, as SK_STATUS.FREE shows them: region 0 is Stockpot's own. -/
def skFree (s : State) (n : Nat) : Nat :=
  if !s.pot.formed || !skUp s n then 0
  else stackFrames - (if n = 0 then 512 else 0) - (s.pot.used.filter (fun f => stackOf f == n)).length

/-- Free frames of the pool, as SP_STATUS.FREE shows them. -/
def spFree (s : State) : Nat := ((List.range 24).map (skFree s)).sum

def spLow (s : State) : Nat := rdF s (spReg 8) 19 0

/-- R219: vector 69 is signalled when the free count falls below LOW, and again only after it has risen above
2 x LOW. -/
def lowCheck (s : State) : State :=
  if spFree s < spLow s then
    if s.pot.lowArmed then signal { s with pot := { s.pot with lowArmed := false } } 0 69 else s
  else if 2 * spLow s < spFree s then { s with pot := { s.pot with lowArmed := true } }
  else s

/-! ### Placement (09 R223) -/

def placeHash (s : State) (handle i : Nat) : Nat :=
  leAt (shake256 8 (leBytes 8 s.pot.key.toNat ++ leBytes 4 handle ++ leBytes 4 i)) 0 8 % 24

/-- The stack h, else the next in ascending order modulo 24; which free frame of it is taken the spec leaves open. -/
def placeOn (s : State) (secure : Bool) (h : Nat) : Nat → Option Nat
  | 0 => none
  | k + 1 =>
    match findFrame s secure (h % 24) (Config.freeNat s.freeNo % stackFrames) stackFrames with
    | some f => some f
    | none => placeOn s secure (h + 1) k

def takeFrame (s : State) (f : Nat) : State := { s with pot := { s.pot with used := setAdd s.pot.used f } }

/-- Allocate a page of an object. -/
def allocPage (s : State) (secure : Bool) (handle i : Nat) : Option (Page × State) :=
  match placeOn s secure (placeHash s handle i) 24 with
  | some f => some ({ frame := f }, lowCheck (incWrap (useFree (takeFrame s f)) (spReg 0x18) 1))
  | none => none

/-- Allocate pages `i` to `i + n - 1` of an object; none where the pool cannot supply them all. -/
def allocPages (s : State) (secure : Bool) (handle i : Nat) : Nat → Option (List Page × State)
  | 0 => some ([], s)
  | n + 1 =>
    match allocPage s secure handle i with
    | some (p, s1) =>
      match allocPages s1 secure handle (i + 1) n with
      | some (ps, s2) => some (p :: ps, s2)
      | none => none
    | none => none

/-- A frame is in the pool again; `page`: a page was freed. -/
def toPool (s : State) (f : Nat) (page : Bool) : State :=
  let s := { s with pot := { s.pot with used := setDel s.pot.used f } }
  lowCheck (if page then incWrap s (spReg 0x1C) 1 else s)

/-- A base die still has accesses to the frame in its queue. -/
def frameQueued (s : State) (f : Nat) : Bool := s.stackQ.any (fun q => gmaOffset q.2.gma / frameBytes == f)

/-- A frame is let go: it goes to the pool once its outstanding accesses have completed (09 R222, R226). -/
def leaveFrame (s : State) (f : Nat) (page : Bool) : State :=
  let s := { s with pot := { s.pot with refs := mapDel s.pot.refs f } }
  if frameQueued s f then { s with pot := { s.pot with draining := s.pot.draining ++ [(f, page)] } } else toPool s f page

/-- A page is freed. -/
def freeFrame (s : State) (f : Nat) : State := leaveFrame s f true

/-- Accesses have completed: the frames that waited for them go to the pool. -/
def drained (s : State) : State :=
  let out := s.pot.draining.filter (fun d => !frameQueued s d.1)
  out.foldl (fun s d => toPool s d.1 d.2) { s with pot := { s.pot with draining := s.pot.draining.filter (fun d => frameQueued s d.1) } }

/-- Holders of a shared frame (09 R220). -/
def refCount (s : State) (f : Nat) : Nat := mapGet 1 s.pot.refs f

/-- The greatest count (09 R222). -/
abbrev refMax := 0xFFFFFF

def setRef (s : State) (f n : Nat) : State := { s with pot := { s.pot with refs := mapPut 1 s.pot.refs f n } }

/-- SP_REMOTE_OUT falls as pages held on peers are released (09 R228). -/
def remoteOut (s : State) (d : Int) : State :=
  wrF s (spReg 0x34) 19 0 (((rdF s (spReg 0x34) 19 0 : Nat) : Int) + d).toNat

def remoteIn (s : State) (d : Int) : State :=
  wrF s (spReg 0x38) 19 0 (((rdF s (spReg 0x38) 19 0 : Nat) : Int) + d).toNat

/-- The key under which the holders of a page's frame are counted: a frame of a peer has a key of its own. -/
def refKey (p : Page) : Nat :=
  match p.remote with
  | some q => 0x100000 * (q + 1) + p.frame
  | none => p.frame

/-- One holder lets a page go: a shared page with more holders loses one, a remote page goes back to its peer, and
any other frame returns to the pool (09 R222, R228). -/
def dropPage (s : State) (p : Page) : State :=
  if p.shared && decide (1 < refCount s (refKey p)) then setRef s (refKey p) (refCount s (refKey p) - 1)
  else match p.remote with
    | some _ => remoteOut (setRef s (refKey p) 1) (-1)
    | none => freeFrame s p.frame

def dropPages (s : State) (ps : List Page) : State := ps.foldl dropPage s

/-! ### Objects (09 R216) -/

def objClass (h : Nat) : Nat := h / 0x10000000
def objAt (s : State) (h : Nat) : Option Obj := mapFind s.pot.objs h
def setObj (s : State) (h : Nat) (o : Obj) : State := { s with pot := { s.pot with objs := mapSet s.pot.objs h o } }
def delObj (s : State) (h : Nat) : State := { s with pot := { s.pot with objs := mapDel s.pot.objs h } }
def classCount (s : State) (c : Nat) : Nat := (s.pot.objs.filter (fun p => objClass p.1 == c)).length

/-- A handle of a class that no object has: its index, below 2^28, is open but for that. -/
def freshFrom (s : State) (c start : Nat) : Nat → Option Nat
  | 0 => none
  | k + 1 =>
    let h := c * 0x10000000 + start % 0x10000000
    if (objAt s h).isSome then freshFrom s c (start + 1) k else some h

/-- A new object without pages; none where the class is full (09 R216: 2^20 objects of each class). -/
def newObj (s : State) (c inst : Nat) (secure : Bool) : Option (Nat × State) :=
  if classCount s c < 0x100000 then
    match freshFrom s c (Config.freeNat s.freeNo) (s.pot.objs.length + 1) with
    | some h => some (h, useFree (setObj s h { inst := inst, secure := secure }))
    | none => none
  else none

/-- An object goes: its pages are let go, and every migration of it ends. -/
def freeObj (s : State) (h : Nat) : State :=
  match objAt s h with
  | some o =>
    let s := dropPages (delObj s h) o.pages
    { s with pot := { s.pot with migs := s.pot.migs.filter (fun m => m.handle != h)
                                 migPlan := s.pot.migPlan.filter (fun m => m.1 != h) } }
  | none => s

/-- An object has at most 65,536 pages (09 R216). -/
abbrev maxPages := 65536

/-- A new object with `n` pages; none where the pool or the class cannot supply it. -/
def newObjPages (s : State) (c inst : Nat) (secure pinned : Bool) (n : Nat) : Option (Nat × State) :=
  if maxPages < n then none
  else
    match newObj s c inst secure with
    | none => none
    | some (h, s1) =>
      match allocPages s1 secure h 0 n with
      | none => none
      | some (ps, s2) => some (h, setObj s2 h { inst := inst, secure := secure, pages := ps.map (fun p => { p with pinned := pinned }) })

def freeObjOpt (s : State) : Option Nat → State
  | some h => freeObj s h
  | none => s

/-- The frames of an object, in order. -/
def objFrames (s : State) (h : Option Nat) : List Nat := (h.bind (objAt s)).elim [] (fun o => o.pages.map (fun p => p.frame))

/-- An object holds a lost page (09 R208). -/
def objLost (s : State) (h : Nat) : Bool :=
  match objAt s h with
  | some o => o.pages.any (fun p => p.lost)
  | none => false

def setPage (o : Obj) (i : Nat) (p : Page) : Obj := { o with pages := o.pages.set i p }

/-- The page of an object that holds an offset: entry floor(offset / 2 MiB) of its page table (09 R217). -/
def pageAt (s : State) (h off : Nat) : Option Page := (objAt s h).bind (fun o => o.pages[off / frameBytes]?)

/-- The GMA of an offset in an object, and whether the page is lost; none: the object has no such page. -/
def translate (s : State) (h off : Nat) : Option (W64 × Bool) :=
  (pageAt s h off).map (fun p => (stackGma (p.remote.getD (rdF s (fabReg 4) 12 0)) p.frame (off % frameBytes), p.lost))

/-- A page-table entry as Stockpot's tables hold it (09 Table 09.6); how a lost page is marked there is not stated. -/
def pageEntry (part : Nat) (p : Page) : W64 :=
  let bit (b : Bool) (i : Nat) : Nat := if b then 2 ^ i else 0
  BitVec.ofNat 64 (1 + bit p.shared 1 + bit p.pinned 2 + bit p.migrating 3 + bit p.remote.isSome 4 + p.fill % 1024 * 2 ^ 8 +
    p.frame % 2 ^ 20 * 2 ^ 21 + p.remote.getD part % 2 ^ 13 * 2 ^ 41)

/-- The page that an entry names; none where VALID is 0. -/
def entryPage (w : W64) : Option Page :=
  let f (hi lo : Nat) : Nat := nbits w.toNat hi lo
  if f 0 0 = 0 then none
  else some { frame := f 40 21, shared := f 1 1 == 1, pinned := f 2 2 == 1, migrating := f 3 3 == 1, fill := f 17 8
              remote := if f 4 4 = 1 then some (f 53 41) else none }

/-! ### Shadow blocks in class 5 objects (13 R316, R320, 18 R424) -/

/-- The tiles whose shadow blocks an instance's shadow object holds, in the order of the blocks. -/
def shadowTiles (s : State) (i : Instance) (secure : Bool) : List Nat :=
  (i.layers.map (fun l => l.arrs.filterMap (fun a =>
    let k := tkey (siteOf s a.row a.col) a.slot
    if siteSecure s (k / 32) == secure then some k else none))).flatten

/-- A shadow row is lost for its tile (20 R458). -/
def loseRow (s : State) (k row : Nat) : State := modTile s k (fun t => { t with lostRows := setAdd t.lostRows row })

/-- Where a byte of a page of a shadow object lies: tile and row (13 R316: blocks of 128 KiB, rows of 256 bytes). -/
def shadowPlace (tiles : List Nat) (page off : Nat) : Option (Nat × Nat) :=
  match tiles[16 * page + off / 0x20000]? with
  | some k => some (k, off % 0x20000 / 256)
  | none => none

/-- The shadow rows that a range of a frame holds. -/
def shadowRowAt (s : State) (f off : Nat) : Option (Nat × Nat) :=
  (s.insts.filterMap (fun p =>
    let find (h : Option Nat) (secure : Bool) : Option (Nat × Nat) :=
      match h with
      | some h =>
        match objAt s h with
        | some o =>
          match o.pages.findIdx? (fun q => q.frame == f && q.remote.isNone) with
          | some i => shadowPlace (shadowTiles s p.2 secure) i off
          | none => none
        | none => none
      | none => none
    match find p.2.shadowH p.2.secure with
    | some x => some x
    | none => find p.2.shadowSecH true)).head?

/-- All the rows of the blocks a page holds. -/
def losePageRows (s : State) (tiles : List Nat) (page : Nat) : State :=
  ((tiles.drop (16 * page)).take 16).foldl (fun s k => modTile s k (fun t => { t with lostRows := List.range 512 })) s

/-! ### Checks of an access (09 R212, R213) -/

/-- A core that is retired or disabled by grade: its router forwards only (08 R192, MESH_RT_STATUS.CORE_OFF). -/
def coreOff (s : State) (site : Nat) : Bool := rbit s (routerReg site 0) 1

/-- Who makes an access. -/
inductive Source where
  | kettle
  | inside
  | peer (id : Nat)
deriving DecidableEq, Repr

/-- The class 7 object of the pages held for a part, in one world. -/
def heldHandle (peer : Nat) (secure : Bool) : Nat := 0x70000000 + 2 * peer + (if secure then 1 else 0)

/-- The part that a class 7 object is held for. -/
def heldPeer (h : Nat) : Nat := h % 0x10000000 / 2

/-- The frames held for a part. -/
def heldFrames (s : State) (peer : Nat) : List Nat :=
  objFrames s (some (heldHandle peer false)) ++ objFrames s (some (heldHandle peer true))

/-- The part a frame is held for (09 R229). -/
def holder (s : State) (f : Nat) : Option Nat :=
  (s.pot.objs.find? (fun o => objClass o.1 == 7 && o.2.pages.any (fun p => p.frame == f))).map (fun o => heldPeer o.1)

/-- A held frame accepts IFP accesses only from the part it is held for, and one that is held for it no more accepts none
from that part (09 R229). -/
def holderOk (s : State) (f : Nat) (src : Source) : Bool :=
  match holder s f, src with
  | some p, src => src == .peer p
  | none, .peer p => !s.pot.lapsed.contains (p, f)
  | none, _ => true

/-- The target's world, and whether it is being cleared. -/
def targetDenied (s : State) (secure : Bool) (kind u : Nat) : Bool :=
  unitClearing s kind u || (!secure && (if kind = 1 then siteSecure s u else regionSecure s u))

/-- The checks of 09 Table 09.4 but for code 0x04, in the table's order; none: the access is served. -/
def accessCode (s : State) (src : Source) (secure : Bool) (a : W64) (len : Nat) : Option Nat :=
  let off := gmaOffset a
  let f := off / frameBytes
  let site := off / 0x100000
  let cross := 4096 < off % 4096 + len
  if gmaHigh a ≠ 0 ∨ gmaSpace a = 3 then some 1
  else if gmaSpace a = 2 then (if src ≠ .kettle then some 1 else if cross then some 6 else none)
  else if gmaSpace a = 0 then
    if frameCount ≤ f then some 1
    else if holderOk s f src = false then some 1
    else if targetDenied s secure 2 (regionOf f) then some 3
    else if skDown s (stackOf f) then some 5
    else if cross then some 6
    else none
  else
    if 800 ≤ site then some 1
    else if coreOff s site then some 2
    else if targetDenied s secure 1 site then some 3
    else if cross then some 6
    else none

/-- SP_BAD_GMA advances for codes 0x01, 0x02 and 0x06 (09 R213), SEC_DENIED for 0x03 (18 R423). -/
def countCode (s : State) (code : Nat) : State :=
  if code = 1 ∨ code = 2 ∨ code = 6 then incHold s (spReg 0x2C) 32 1
  else if code = 3 then incHold s (secReg 0x0C) 32 1
  else s

/-! ### Lines (09 R205) -/

/-- The 64-byte lines of a byte range. -/
def linesOf (off len : Nat) : List Nat :=
  if len = 0 then [] else (List.range ((off + len - 1) / 64 - off / 64 + 1)).map (fun i => off / 64 + i)

/-- The index of a line in its stack: local frame times lines of a frame, and the line in the frame. -/
def stackLine (line : Nat) : Nat := line / 32768 / 24 * 32768 + line % 32768

/-- Upsets that have come to lines: 1 a single bad symbol, 2 more than the code corrects; a second bad symbol of a line is
taken to be another symbol. -/
def addLineUpsets (s : State) (us : List (Nat × Nat)) : State :=
  us.foldl (fun s u =>
    if u.2 = 1 ∧ s.pot.softLines.contains u.1 = false then { s with pot := { s.pot with softLines := setAdd s.pot.softLines u.1 } }
    else { s with pot := { s.pot with badLines := setAdd s.pot.badLines u.1 } }) s

/-- A line is written: its upsets are gone. -/
def cleanLine (s : State) (l : Nat) : State :=
  { s with pot := { s.pot with badLines := setDel s.pot.badLines l, softLines := setDel s.pot.softLines l } }

/-- An uncorrectable line is recorded; a line of a shadow copy loses its row (09 R205, 20 R458, R467 cause 5). -/
def badLine (s : State) (l : Nat) : State :=
  let f := l / 32768
  let n := stackOf f
  let s := incHold s (skReg n 0x0C) 16 1
  let s := wr s (skReg n 0x10) (BitVec.ofNat 32 (stackLine l + 0x80000000))
  let s := faultRecord s { cls := 2, cause := 5, unit := n, secure := regionSecure s (regionOf f),
                           detail := BitVec.ofNat 64 (stackLine l) }
  match shadowRowAt s f (l % 32768 * 64) with
  | some (k, r) => loseRow s k r
  | none => s

/-- A line is read: a single bad symbol is corrected and written back, an uncorrectable line is recorded. -/
def readLine (s : State) (l : Nat) : State :=
  if s.pot.badLines.contains l then badLine s l
  else if s.pot.softLines.contains l then
    incHold { s with pot := { s.pot with softLines := setDel s.pot.softLines l } } (skReg (stackOf (l / 32768)) 8) 16 1
  else s

def readLines (s : State) (ls : List Nat) : State := ls.foldl readLine s

def linesBad (s : State) (ls : List Nat) : Bool := ls.any (fun l => s.pot.badLines.contains l)

/-- A 4 KiB block of a frame is written: FILL of the entries that name the frame reaches it, and a migration copies it
again (09 Table 09.6, R226). -/
def noteBlock (s : State) (f b : Nat) : State :=
  let here (p : Page) : Bool := p.frame == f && p.remote.isNone
  let hit (m : Migration) : Bool := (pageAt s m.handle (m.page * frameBytes)).any here
  { s with pot := { s.pot with
      objs := s.pot.objs.map (fun o => (o.1, { o.2 with pages := o.2.pages.map (fun p => if here p then { p with fill := Nat.max p.fill (b + 1) } else p) }))
      migs := s.pot.migs.map (fun m => if hit m then { m with dirty := setAdd m.dirty b } else m) } }

def noteWrite (s : State) (off n : Nat) : State :=
  if n = 0 then s
  else (List.range ((off + n - 1) / 4096 - off / 4096 + 1)).foldl (fun s i => noteBlock s ((off / 4096 + i) / 512) ((off / 4096 + i) % 512)) s

/-- Write bytes at a stack offset; lines that lie whole in the range are good again. -/
def stackPut (s : State) (off : Nat) (bs : Bytes) : State :=
  let whole := (linesOf off bs.length).filter (fun l => off ≤ 64 * l && 64 * l + 64 ≤ off + bs.length)
  noteWrite (whole.foldl cleanLine { s with stackMem := memWrite s.stackMem off bs }) off bs.length

/-- Copy bytes inside the stacks. -/
def memCopy (m : List Host.Cell) (src dst n : Nat) : List Host.Cell :=
  (m.filter (fun c => src ≤ c.1 && c.1 < src + n)).foldl (fun m c => memSet m (dst + c.1 - src) c.2) (memZero m dst n)

/-- Whether a line lies in a range of whole lines. -/
def lineIn (off n l : Nat) : Bool := decide (off ≤ 64 * l) && decide (64 * l < off + n)

/-- A copy reads every line of its source and writes every line of its destination; an uncorrectable line ends it, with
nothing copied (09 R205). -/
def copyLines (s : State) (src dst n : Nat) : Bool × State :=
  let bad := s.pot.badLines.filter (lineIn src n)
  let s1 := readLines s (bad ++ s.pot.softLines.filter (fun l => lineIn src n l && !bad.contains l))
  if bad.isEmpty then
    (true, { s1 with
      stackMem := memCopy s1.stackMem src dst n
      pot := { s1.pot with badLines := s1.pot.badLines.filter (fun l => !lineIn dst n l)
                           softLines := s1.pot.softLines.filter (fun l => !lineIn dst n l) } })
  else (false, s1)

/-! ### A stack goes DOWN (09 R208) -/

/-- Mark the entries of an object that name a frame on the stack. -/
def loseStack (n : Nat) (o : Obj) : Obj :=
  { o with pages := o.pages.map (fun p => if p.remote.isNone && stackOf p.frame == n then { p with lost := true } else p) }

/-- The shadow rows of an object's pages that the stack held. -/
def loseShadow (s : State) (n : Nat) (tiles : List Nat) (o : Obj) : State :=
  o.pages.zipIdx.foldl (fun s q => if q.1.remote.isNone && stackOf q.1.frame == n then losePageRows s tiles q.2 else s) s

def loseShadows (s : State) (n : Nat) : State :=
  s.insts.foldl (fun s p =>
    let go (s : State) (h : Option Nat) (secure : Bool) : State :=
      match h with
      | some h => match objAt s h with
        | some o => loseShadow s n (shadowTiles s p.2 secure) o
        | none => s
      | none => s
    go (go s p.2.shadowH p.2.secure) p.2.shadowSecH true) s

/-- An object has a page on a stack. -/
def objOn (n : Nat) (o : Obj) : Bool := o.pages.any (fun p => p.remote.isNone && stackOf p.frame == n)

/-- The pages of an object that lie on a stack are placed again, as pages of the same object and index; one that finds no
frame stays lost. -/
def placeAgain (n h : Nat) (secure : Bool) : Nat → List Page → State → List Page × State
  | _, [], s => ([], s)
  | i, p :: ps, s =>
    let r := if p.remote.isNone && stackOf p.frame == n then
        match allocPage s secure h i with
        | some (q, s1) => ({ q with pinned := p.pinned }, s1)
        | none => (p, s)
      else (p, s)
    let l := placeAgain n h secure (i + 1) ps r.2
    (r.1 :: l.1, l.2)

def moveObj (n : Nat) (s : State) (h : Nat) : State :=
  match objAt s h with
  | some o =>
    let r := placeAgain n h o.secure 0 o.pages s
    setObj r.2 h { o with pages := r.1 }
  | none => s

/-- The firmware moves its own class 6 objects to other stacks; their contents are lost (09 R208): the reports not yet
read, the residual records and the fault records. -/
def moveFirmware (s : State) (n : Nat) : State :=
  let on (h : Option Nat) : Bool := (h.bind (objAt s)).any (objOn n)
  let s1 := (s.pot.objs.filterMap (fun o => if objClass o.1 = 6 ∧ objOn n o.2 = true then some o.1 else none)).foldl (moveObj n) s
  let s1 := if on s.ringH then wr s1 (spoonReg 0x30) (rd s1 (spoonReg 0x2C)) else s1
  { s1 with resids := if on s.residH then [] else s1.resids, faults := if on s.faultH then [] else s1.faults }

def stackDown (s : State) (n : Nat) : State :=
  let s := wrF s (skReg n 0) 1 0 2
  let s := { s with pot := { s.pot with
    retrain := setDel s.pot.retrain n
    replays := mapDel s.pot.replays n
    migs := s.pot.migs.filter (fun m => stackOf m.dest != n) } }
  let s := loseShadows s n
  let s := { s with pot := { s.pot with objs := s.pot.objs.map (fun p => (p.1, loseStack n p.2)) } }
  let s := moveFirmware s n
  lowCheck (faultRecord s { cls := 2, cause := 4, unit := n })

end Sys2Proof.Machine
end

