-- ==== Sys2Proof/Machine/Store.lean ====
section
/-! DEFINITION. The core store: its regions, the shadow blocks and shadow rows the firmware keeps in it, and its error
correction (05 R124-R129, 04 R103). `State.store` holds the bytes that were written; in the slot blocks and the shadow
row cache it holds how they differ from the shadow copy that was loaded there. -/

namespace Sys2Proof.Machine

/-! ### Regions (05 Table 05.2, in the table's order from offset 0) -/

def storeAddr (site a : Nat) : Nat := site * 0x100000 + a

/-- First bytes of the shadow row cache, the slot blocks, delta staging, the Spoon capture and program space. -/
abbrev rowRegion := 0x20000
abbrev slotRegion := 0x40000
abbrev deltaRegion := 0xA0000
abbrev spoonRegion := 0xB0000
abbrev progRegion := 0xB8000

/-- The 4-bit code of a placed value: INT4, or E2M1 by its units (02 Table 02.1). -/
def shadowCode (fp4 : Bool) (w : Int) : Nat :=
  if fp4 then ((List.range 16).find? (fun c => unitsOf true c == w)).getD 0 else unsgn 4 w

/-- Byte `b` of row `r` of a tile's shadow block (13 R316). -/
def shadowByte (s : State) (m r b : Nat) : Byte :=
  let t := tileAt s m
  let fp4 := (t.owner.map (fun o => o.fp4)).getD false
  BitVec.ofNat 8 (shadowCode fp4 (shadowW t r (2 * b)) + 16 * shadowCode fp4 (shadowW t r (2 * b + 1)))

/-- What the firmware has loaded at a byte of a core's store: a cached row, or a slot block. -/
def loadedByte (s : State) (site a : Nat) : Byte :=
  if a < rowRegion ∨ deltaRegion ≤ a then 0
  else if a < slotRegion then
    match (coreAt s site).srcPlace.find? (fun p => p.2 == (a - rowRegion) / 256) with
    | some p => shadowByte s (tkey site (p.1 / 512)) (p.1 % 512) (a % 256)
    | none => 0
  else
    match (coreAt s site).blocks.find? (fun p => p.2 == (a - slotRegion) / 0x20000) with
    | some p => shadowByte s p.1 ((a - slotRegion) % 0x20000 / 256) (a % 256)
    | none => 0

def storeByte (s : State) (site a : Nat) : Byte := memByte s.store (storeAddr site a) ^^^ loadedByte s site a

/-- The bytes of a range of a core's store. -/
def storeRead (s : State) (site a n : Nat) : Bytes := (List.range n).map (fun i => storeByte s site (a + i))

/-- What is written, as `State.store` keeps it. -/
def storeDiff (s : State) (site : Nat) : Nat → Bytes → Bytes
  | _, [] => []
  | a, b :: bs => (b ^^^ loadedByte s site a) :: storeDiff s site (a + 1) bs

/-- A write; a word it covers whole is good again. -/
def storeWrite (s : State) (site a : Nat) (bs : Bytes) : State :=
  let lo := storeAddr site a
  { s with store := memWrite s.store lo (storeDiff s site a bs)
           storeBad := s.storeBad.filter (fun w => decide (8 * w.1 < lo) || decide (lo + bs.length < 8 * w.1 + 8)) }

def store32 (s : State) (site a : Nat) : W32 := BitVec.ofNat 32 (leAt (storeRead s site a 4) 0 4)
def store16 (s : State) (site a : Nat) : W16 := BitVec.ofNat 16 (leAt (storeRead s site a 2) 0 2)

/-! ### Slot blocks (04 R103, 05 Table 05.2) -/

/-- A range is loaded from the stacks: no byte differs, and no word is bad. -/
def storeLoaded (s : State) (site a n : Nat) : State :=
  let lo := storeAddr site a
  { s with store := memZero s.store lo n
           storeBad := s.storeBad.filter (fun w => decide (8 * w.1 < lo) || decide (lo + n ≤ 8 * w.1)) }

/-- The lowest of the three slot blocks that is free. -/
def freeBlock (s : State) (site : Nat) : Option Nat :=
  (List.range 3).find? (fun p => !(coreAt s site).blocks.any (fun b => b.2 == p))

/-- A member's shadow block is loaded into a slot block of a core; one that has its block keeps it. -/
def loadBlock (s : State) (site m : Nat) : State :=
  if (coreAt s site).blocks.any (fun b => b.1 == m) then s
  else
    match freeBlock s site with
    | some p => modCore (storeLoaded s site (slotRegion + p * 0x20000) 0x20000) site (fun c => { c with blocks := c.blocks ++ [(m, p)] })
    | none => s

/-- The blocks of a list of members are given up. -/
def dropBlocks (s : State) (site : Nat) (ms : List Nat) : State :=
  modCore s site (fun c => { c with blocks := c.blocks.filter (fun b => !ms.contains b.1) })

/-- First byte of a member's slot block on a core. -/
def blockAt (s : State) (site m : Nat) : Option Nat :=
  ((coreAt s site).blocks.find? (fun b => b.1 == m)).map (fun b => slotRegion + b.2 * 0x20000)

/-! ### The shadow row cache (05 R129) -/

def rowKey (slot row : Nat) : Nat := 512 * slot + row

/-- A line for a row: the one it has, or the lowest free. -/
def rowLine (p : SMap Nat) (key : Nat) : Nat :=
  (mapFind p key).getD (((List.range 512).find? (fun l => !p.any (fun x => x.2 == l))).getD 0)

/-- A row is placed in the cache. -/
def cacheRowIn (s : State) (site slot row : Nat) : State :=
  let c := coreAt s site
  let l := cacheInsert c.srcCache (slot, row)
  let kept := c.srcPlace.filter (fun p => l.any (fun x => rowKey x.1 x.2 == p.1))
  let line := rowLine kept (rowKey slot row)
  let s := storeLoaded s site (rowRegion + 256 * line) 256
  modCore s site (fun c => { c with srcCache := l, srcPlace := mapSet kept (rowKey slot row) line })

/-- Rows are discarded from the cache. -/
def cacheDrop (c : CoreSt) (gone : Nat → Nat → Bool) : CoreSt :=
  { c with srcCache := c.srcCache.filter (fun x => !gone x.1 x.2), srcPlace := c.srcPlace.filter (fun p => !gone (p.1 / 512) (p.1 % 512)) }

/-! ### Errors (05 R126, 20 R463) -/

/-- The word lies in a slot block or in the shadow row cache, which the firmware discards and reloads. -/
def storeReloaded (a : Nat) : Bool := rowRegion ≤ a && a < deltaRegion

/-- The block or row of a word is discarded: a block is loaded again, a row when it is next needed. -/
def storeReload (s : State) (site a : Nat) : State :=
  if a < rowRegion ∨ deltaRegion ≤ a then s
  else if a < slotRegion then
    let line := (a - rowRegion) / 256
    let c := coreAt s site
    let key := (c.srcPlace.find? (fun p => p.2 == line)).map Prod.fst
    storeLoaded (setCore s site (cacheDrop c (fun slot row => key == some (rowKey slot row)))) site (rowRegion + 256 * line) 256
  else storeLoaded s site (slotRegion + (a - slotRegion) / 0x20000 * 0x20000) 0x20000

/-- A second uncorrectable error within 1 ms: the core is to be declared failed (20 R463). -/
def ueSeen (s : State) (site : Nat) : State :=
  modCore s site (fun c => { c with
    ueFatal := c.ueFatal || (match c.lastUe with | some t => decide (elapsed s t ≤ msCycles) | none => false)
    lastUe := some s.rackTime })

/-- A double-bit error: CS_ECC_UE, CS_ECC_ADDR, a record of cause 6, which names the instance whose frame fails by it; a
slot block or a cached row is loaded again. -/
def storeUe (s : State) (site : Nat) (who : Option Nat) (word : Nat) : State :=
  let s := incHold s (engReg site 0x34) 16 1
  let s := wr s (engReg site 0x38) (BitVec.ofNat 32 (0x80000000 + word))
  let s := faultRecord s { cls := 2, cause := 6, unit := site, inst := who.elim 0xFFFF (instNumber s), step := who.elim 0 (passStepOf s)
                           secure := siteSecure s site, detail := BitVec.ofNat 64 word }
  storeReload (ueSeen s site) site (8 * word)

/-- A single-bit error is corrected, written back and counted. -/
def storeCe (s : State) (site word : Nat) : State :=
  incHold { s with storeBad := mapDel s.storeBad (storeAddr site (8 * word) / 8) } (engReg site 0x30) 16 1

/-- Check the words of a list as a read of them does; `who` is the instance slot whose frame the read serves. -/
def storeCheck (site : Nat) (who : Option Nat) : List Nat → State → State
  | [], s => s
  | w :: ws, s =>
    let k := mapGet 0 s.storeBad (storeAddr site (8 * w) / 8)
    storeCheck site who ws (if k = 0 then s else if k = 1 then storeCe s site w else storeUe s site who w)

/-- The bad words of a core's store. -/
def badWords (s : State) (site : Nat) : List Nat :=
  (s.storeBad.map Prod.fst).filterMap (fun k => if k * 8 / 0x100000 = site then some (k - site * 0x20000) else none)

/-- Those of a byte range. -/
def badIn (s : State) (site a n : Nat) : List Nat := (badWords s site).filter (fun w => decide (a < 8 * w + 8) && decide (8 * w < a + n))

/-- A range holds a double-bit error: the work item that reads it fails. -/
def storeBadRange (s : State) (site a n : Nat) : Bool := (badIn s site a n).any (fun w => mapGet 0 s.storeBad (storeAddr site (8 * w) / 8) == 2)

/-- The ranges a work item reads: whether one holds a double-bit error, and the state after its words were checked. -/
def itemCheck (s : State) (site : Nat) (who : Option Nat) (rs : List (Nat × Nat)) : Bool × State :=
  (rs.any (fun r => storeBadRange s site r.1 r.2), storeCheck site who ((rs.map (fun r => badIn s site r.1 r.2)).flatten.dedup) s)

/-- Upsets that have come to words of a core's store: 1 a single bit, 2 more (05 R126). -/
def addUpsets (s : State) (site : Nat) (us : List (Nat × Nat)) : State :=
  us.foldl (fun s u => if u.1 < 0x20000 then
    { s with storeBad := mapSet s.storeBad (storeAddr site (8 * u.1) / 8) (if u.2 = 1 then 1 else 2) } else s) s

end Sys2Proof.Machine
end

