-- ==== Sys2Proof/Machine/Pass.lean ====
section
/-! DEFINITION. The commands of the tile data path: an edge slice, the tile pass, promotion, the add-backs, fall-back,
the column close, stand-in passes and delta items (02, 03, 04, 05). -/

namespace Sys2Proof.Machine

/-- The owner of the layer slice a head holds. -/
def sliceOwner (s : State) (site head : Nat) : Option Owner := (tileAt s (tkey site head)).owner

/-- The tile keys an instance's slot owns, in ascending order. -/
def ownedKeys (s : State) (slot : Nat) : List Nat :=
  s.tiles.filterMap (fun t => if t.2.owner.any (fun o => o.slot == slot) then some t.1 else none)

def keySites (ks : List Nat) : List Nat := (ks.map (fun k => k / 32)).dedup

def setCapture (s : State) (site : Nat) (c : Option Capture) : State := modCore s site (fun x => { x with capture := c })

/-- A capture is given up: a live one is dropped, an on-demand run waits again (04 R110, R112). -/
def dropCapture (s : State) (site : Nat) : State :=
  match (coreAt s site).capture with
  | none => s
  | some c =>
    let s := setCapture s site none
    match c.onDemand with
    | some r => modTile s r.tile (fun t => { t with spoonReq := some r })
    | none => incHold s (spoonReg 0x14) 32 1

/-- A vector in work ends without a result: a core keeps no capture of it. -/
def endCapture (s : State) (site : Nat) (ks : List Nat) : State :=
  if (coreAt s site).capture.any (fun c => !c.closed && ks.contains (tkey site c.head)) then dropCapture s site else s

/-- What a tile holds for the vectors in work is given up. -/
def dropWork (s : State) (k : Nat) : State := modTile s k (fun t => { t with work := {}, next := {}, inBuf := [], wide := [] })

/-- This part does no more work on the frame in work (20 R457, 12 R309). -/
def stopPass (s : State) (slot : Nat) : State :=
  let ks := ownedKeys s slot
  ks.foldl dropWork ((keySites ks).foldl (fun s site => endCapture s site ks) s)

/-- The frame in work fails here as a contained fault and goes on as a marker (20 R457, 12 R292); the index of the stage is
taken to be the part's ordinal (DESIGN CHOICE, log 171). -/
def failPass (s : State) (slot st : Nat) : State :=
  match instOf s slot with
  | some i =>
    stopPass (modPass s slot (fun m => if m.marker.isSome then m else { m with marker := some (.failed st i.ordinal) })) slot
  | none => s

/-- The frame in work has failed or been aborted: this part does nothing more for it. -/
def passStopped (s : State) (slot : Nat) : Bool := (passFlight s slot).any (fun f => f.msg.marker.isSome)

/-! ### EDGE_SLICE_CONVERT -/

/-- A slice ahead of its turn waits in the input buffer (02 R47). -/
def bufferSlice (s : State) (site head vec : Nat) (members : List Bytes) : State :=
  modTile s (tkey site head) (fun t => { t with inBuf := mapSet t.inBuf vec members })

/-- The data of a slice: what waits in the buffer, else what arrives. -/
def sliceData (s : State) (site head vec : Nat) (members : List Bytes) : List Bytes :=
  (mapFind (tileAt s (tkey site head)).inBuf vec).getD members

def takeBuffered (s : State) (site head vec : Nat) : State :=
  modTile s (tkey site head) (fun t => { t with inBuf := mapDel t.inBuf vec })

/-- A slice is converted into the free run of the chain's narrow adders (02 R42). -/
def convertFree (s : State) (site head vec : Nat) (o : Owner) (members : List Bytes) : State :=
  if chainBusy s site head then
    let ts := chainMembers s site head
    swapAll site ts (convertSlice (swapAll site ts s) site head vec o members)
  else convertSlice s site head vec o members

/-- 03 R74, 02 R42, R47: in its turn, with a run of the narrow adder free, the slice is converted; ahead of it, it waits.
A chain that is invalid fails the frame (02 R52). -/
def edgeSlice (s : State) (site head vec : Nat) (members : List Bytes) : State :=
  match sliceOwner s site head with
  | none => s
  | some o =>
    if isHead s site head = false ∨ passStopped s o.slot = true then s
    else if chainInvalid s site head then failPass s o.slot stCollFailed
    else if vec = turnVec s site head ∧ chainFull s site head = false then
      convertFree (takeBuffered s site head vec) site head vec o (sliceData s site head vec members)
    else if turnVec s site head ≤ vec then bufferSlice s site head vec members
    else s

/-- R74: one edge slice of the chain headed by slot `head`, for input vector `vec` of the pass. -/
def execEdgeSliceConvert (site head vec : Nat) (members : List Bytes) (s : State) : Answer :=
  onUnit (decide (site < 800) && decide (head < 16)) (edgeSlice s site head vec members)

/-! ### TILE_PASS -/

/-- The Spoon samples this pass: the slot was drawn and this is the pass's first vector (04 R111). -/
def sampledNow (s : State) (site slot : Nat) : Bool :=
  (coreAt s site).sampled.contains slot && (workOf s (tkey site slot)).vec == 0

/-- A capture that has begun, before its column close (04 R109). -/
def newCapture (s : State) (site head vec : Nat) (req : Option SpoonReq) (o : Owner) : Capture :=
  { head := head, vec := vec, members := chainMembers s site head
    phys := (chainMembers s site head).map (fun t => physTile s (tkey site t))
    work := [], wides := [], outs := [], closed := false, regs := [],
    onDemand := req, test := false, raised := false, time := s.rackTime, step := passStepOf s o.slot,
    inst := instNumber s o.slot, layer := o.layer, outDim := o.outDim, zero := false }

/-- The buffer already holds this chain's vector in work. -/
def sameCapture (c : Capture) (head vec : Nat) : Bool := c.head == head && c.vec == vec && !c.closed && !c.test

/-- The core whose capture buffer a tile's runs use. -/
def spoonSite (s : State) (k : Nat) : Nat := match memberOf s k with | some m => m / 32 | none => k / 32

/-- The slice the tile serves holds a fall-back grant. -/
def holdsGrant (s : State) (k : Nat) : Bool :=
  match memberOf s k with
  | some m => fbState s (m / 32) (headOf s (m / 32) (m % 32)) == 1
  | none => false

/-- An on-demand run waits to sample a pass of a chain of the core other than `head`'s: the free buffer is kept for it
(04 R112). -/
def runWaits (s : State) (site head : Nat) : Bool :=
  s.tiles.any (fun t => t.2.spoonReq.isSome && tileState s t.1 == 2 && !holdsGrant s t.1 && spoonSite s t.1 == site &&
    (memberOf s t.1).any (fun m => headOf s site (m % 32) != head))

/-- The Spoon at a tile pass of a slot on tile `k`: an on-demand run takes a free buffer first; a live sample that finds
the buffer occupied or kept for a run that waits, or the chain with lost rows, is dropped (04 R110, R112, 20 R458). Two
drawn slots of one chain count two drops (DESIGN CHOICE, log 143). -/
def spoonAtPass (s : State) (k site slot : Nat) (o : Owner) : State :=
  let head := headOf s site slot
  let vec := (workOf s (tkey site slot)).vec
  let live := sampledNow s site slot
  let req := (tileAt s k).spoonReq
  let s := modCore s site (fun c => { c with sampled := setDel c.sampled slot })
  let lost := (chainMembers s site head).any (fun t => !(tileAt s (tkey site t)).lostRows.isEmpty)
  if req.isNone && !live then s
  else if lost then (if live then incHold s (spoonReg 0x14) 32 1 else s)
  else
    match (coreAt s site).capture with
    | none =>
      if req.isNone && runWaits s site head then incHold s (spoonReg 0x14) 32 1
      else modTile (setCapture s site (some (newCapture s site head vec req o))) k (fun t => { t with spoonReq := none })
    | some c =>
      if sameCapture c head vec then
        if req.isSome && c.onDemand.isNone then
          modTile (setCapture s site (some { c with onDemand := req })) k (fun t => { t with spoonReq := none })
        else s
      else if live then incHold s (spoonReg 0x14) 32 1 else s

/-- Converter 520 moves on when its dwell of 8 tile passes has ended (02 R48, 07 R169): the passes are counted here. -/
def dwellCount (s : State) (k : Nat) : State :=
  if rdFA s (tileReg k 0) 13 13 = 1 then modTile s k (fun t => { t with dwell := Nat.min (t.dwell + 1) 8 }) else s

/-- The 16 phases of one tile pass on tile `k` for member `slot` of `site` (02 R39-R50). -/
def tilePassRun (s : State) (k site slot : Nat) (o : Owner) : State :=
  let m := tkey site slot
  let head := headOf s site slot
  let s := rotStart s k
  let t := tileAt s m
  let rot := rdF s (tileReg k 0x18) 9 0
  let r := passPhases s k (arrayAt s k) t.work t.dither false
  let s := spoonAtPass s k site slot o
  let s := useFreeN 8192 s
  let s := modTile s m (fun t => { t with
    dither := r.gen
    work := { t.work with run := r.run, satCols := r.sats.map Prod.fst, runDone := true, rot := rot } })
  let s := countSats s k r.sats
  let s := incWrap s (tileReg k 0x4C) 1
  let s := dwellCount s k
  if fbState s site head = 2 then tally (incHold s (sfbSlotReg site head 0x1C) 32 1) o 1 0 else s

/-- Bit-planes that wait for their pass. -/
def passDue (w : TileWork) : Bool := w.latched && !w.runDone

/-- The pass of the run in work, or, once that has its sum, of the other run of the narrow adder (02 R42). -/
def tilePassNext (s : State) (k m : Nat) (o : Owner) : State :=
  let t := tileAt s m
  if passDue t.work then tilePassRun s k (m / 32) (m % 32) o
  else if passDue t.next then swapWork (tilePassRun (swapWork s m) k (m / 32) (m % 32) o) m
  else s

/-- R41: a tile runs its pass when its planes are latched, it is SERVING with ENABLE set, and its slice holds no grant
(02 R61, 04 R103). -/
def tilePassEff (s : State) (site slot : Nat) : State :=
  let k := tkey site slot
  match memberOf s k with
  | none => s
  | some m =>
    match sliceOwner s (m / 32) (headOf s (m / 32) (m % 32)) with
    | none => s
    | some o =>
      if tileState s k = 2 ∧ rdFA s (tileReg k 0) 0 0 = 1 ∧ fbState s (m / 32) (headOf s (m / 32) (m % 32)) ≠ 1 then tilePassNext s k m o
      else s

def execTilePass (site slot : Nat) (s : State) : Answer := onUnit (tileWf site slot) (tilePassEff s site slot)

/-! ### CHAIN_PROMOTION -/

/-- V of the chain for a logical column: the sum of the members' runs (02 R51). -/
def chainSum (s : State) (site : Nat) (ms : List Nat) (c : Nat) : Int :=
  (ms.map (fun t => (workOf s (tkey site t)).run.getD c 0)).sum

/-- All members have run, and the run has not been promoted. -/
def promotable (s : State) (site head : Nat) : Bool :=
  isHead s site head && (chainMembers s site head).all (fun t => (workOf s (tkey site t)).runDone) &&
  !(workOf s (tkey site head)).promoted

def markPromoted (s : State) (site head : Nat) : State := modWork s (tkey site head) (fun w => { w with promoted := true })

/-- R53: wide[c] := sat32(wide[c] + V * 2^(k + s)); an invalid chain promotes nothing (02 R52). -/
def chainPromote (s : State) (site head : Nat) : State :=
  if promotable s site head && !chainInvalid s site head then
    let ms := chainMembers s site head
    let sh := (workOf s (tkey site head)).shift
    let k := physTile s (tkey site head)
    markPromoted (wideAddCount s site head (fun c => chainSum s site ms c * 2 ^ (colStep s k c + sh))) site head
  else s

def execChainPromotion (site head : Nat) (s : State) : Answer :=
  onUnit (decide (site < 800) && decide (head < 16)) (chainPromote s site head)

/-! ### SIEVE_ADDBACK and the shadow rows -/

/-- A_c of one member: sum of 16 * 2^TGT * w * x8; x8 is held doubled (04 R94). -/
def addbackTerm (s : State) (site slot tgt c : Nat) : Int :=
  let t := tileAt s (tkey site slot)
  (t.work.removed.map (fun x => 8 * 2 ^ tgt * shadowW t x.1 c * x.2)).sum

/-- Some member's Sieve products are due, and every row they need is there. -/
def sieveReady (s : State) (site head : Nat) : Bool :=
  let ms := chainMembers s site head
  isHead s site head && (workOf s (tkey site head)).promoted &&
  ms.any (fun t => (workOf s (tkey site t)).sieveDue) && ms.all (fun t => (workOf s (tkey site t)).rowsDue.isEmpty)

def clearSieveDue (site : Nat) : List Nat → State → State
  | [], s => s
  | t :: ts, s => clearSieveDue site ts (modWork s (tkey site t) (fun w => { w with sieveDue := false }))

/-- Engine clocks of a member's products: ceil(R / 4), class 1 (05 Table 05.3). -/
def sieveClocks (s : State) (site : Nat) (ms : List Nat) : Nat :=
  (ms.map (fun t => ceilDiv (workOf s (tkey site t)).removed.length 4)).sum

/-- The lines of the shadow row cache that a member's removed rows lie in. -/
def sieveLines (s : State) (site t : Nat) : List (Nat × Nat) :=
  (workOf s (tkey site t)).removed.filterMap (fun x =>
    (mapFind (coreAt s site).srcPlace (rowKey t x.1)).map (fun l => (rowRegion + 256 * l, 256)))

/-- A work item of a slice reads ranges of a core's store: it runs, or a double-bit error fails it, and with it the
frame in work (05 R126, 20 Table 20.1). -/
def sliceItem (s : State) (store : Nat) (slot : Nat) (rs : List (Nat × Nat)) (run : State → State) : State :=
  let r := itemCheck s store (some slot) rs
  if r.1 then failPass r.2 slot stCollFailed else run r.2

/-- R95: A_c of every member is added after the promotion and before the column close. -/
def sieveAdd (s : State) (site head : Nat) : State :=
  match sliceOwner s site head with
  | none => s
  | some o =>
    if sieveReady s site head then
      let ms := chainMembers s site head
      let tgt := (edgeCfg s site head).tgt
      sliceItem (engBusy s site 1 (sieveClocks s site ms)) site o.slot ((ms.map (sieveLines s site)).flatten) (fun s =>
        clearSieveDue site ms (wideAddCount s site head (fun c => (ms.map (fun t => addbackTerm s site t tgt c)).sum)))
    else s

/-- R129: a row read from the stacks is placed in the shadow row cache, and no longer waited for. With SRC_EN clear
nothing is cached. -/
def shadowRow (s : State) (site slot row : Nat) : State :=
  let k := tkey site slot
  if (workOf s k).rowsDue.contains row then
    let s := modWork s k (fun w => { w with rowsDue := w.rowsDue.filter (fun r => r != row) })
    if rdF s (engReg site 0) 2 2 = 1 then cacheRowIn s site slot row else s
  else s

def execShadowRowArrival (site slot row : Nat) (s : State) : Answer := onUnit (tileWf site slot) (shadowRow s site slot row)

/-! ### FALLBACK_PASS -/

/-- The exact sum of a member's products with its 8-bit slice (04 R102). -/
def digitalSum (t : TileSt) (x : List Int) (c : Nat) : Int :=
  ((List.range 512).map (fun r => shadowW t r c * x.getD r 0)).sum

/-- A vector that began on the fall-back path ends on it, though its grant has ended (04 R99). -/
def fallbackReady (s : State) (site head : Nat) : Bool :=
  isHead s site head && !(workOf s (tkey site head)).promoted &&
  (chainMembers s site head).all (fun t => (workOf s (tkey site t)).fbReady)

/-- The slot blocks of members on a core. -/
def blockRanges (s : State) (site : Nat) (ms : List Nat) : List (Nat × Nat) :=
  ms.filterMap (fun m => (blockAt s site m).map (fun a => (a, 0x20000)))

/-- R102: one update of the accumulators per input vector, each member's pass counted in FB_PASSES. -/
def fallbackRun (s : State) (site head : Nat) : State :=
  match sliceOwner s site head with
  | none => s
  | some o =>
    if fallbackReady s site head then
      let ms := chainMembers s site head
      let s8 := (workOf s (tkey site head)).s8
      let s := engBusy s site 3 (128 * ms.length)
      sliceItem s site o.slot (blockRanges s site (ms.map (tkey site))) (fun s =>
        let s := wideAddCount s site head (fun c =>
          2 ^ s8 * (ms.map (fun t => digitalSum (tileAt s (tkey site t)) (workOf s (tkey site t)).x8 c)).sum)
        markPromoted (incWrap s (sfbSlotReg site head 0x18) ms.length) site head)
    else s

/-! ### DELTA_ITEM (05 R134-R137) -/

/-- T_c = rne(2^-DEXP * sum of delta * 2^s8d * x) (05 R136). -/
def deltaTerm (b : DeltaBlock) (s8d : Nat) (ms : List Nat) (x : Nat → List Int) (c : Nat) : Int :=
  let es := b.entries.filter (fun e => e.col == c && ms.contains e.slot)
  roundEven ((es.map (fun e => e.val * (x e.slot).getD e.row 0)).sum * 2 ^ s8d) (2 ^ b.dexp)

def clearDeltaDue (site : Nat) : List Nat → State → State
  | [], s => s
  | t :: ts, s => clearDeltaDue site ts (modWork s (tkey site t) (fun w => { w with deltaDue := false }))

/-- The slice's delta terms are due, and the pass's own sum is in the accumulators. -/
def deltaReady (s : State) (site head : Nat) : Bool :=
  isHead s site head && (workOf s (tkey site head)).promoted &&
  (chainMembers s site head).any (fun t => (workOf s (tkey site t)).deltaDue)

/-- The member slices of the vector, as the delta item takes them. -/
def deltaX (s : State) (site t : Nat) : List Int := (workOf s (tkey site t)).xd

/-! ### The order of the engine's items (05 R130) -/

/-- Some slice of the core has an item of a class ready: 1 Sieve, 3 fall-back, 4 delta. A stand-in item is ready only as
its edge slice arrives, and a program item as the engine takes it. -/
def classReady (s : State) (site cls : Nat) : Bool :=
  (List.range 16).any (fun h =>
    (cls == 1 && sieveReady s site h) || (cls == 3 && fallbackReady s site h) || (cls == 4 && deltaReady s site h))

/-- An item of a higher class is ready: the engine starts that one. -/
def higherReady (s : State) (site cls : Nat) : Bool := (List.range cls).any (fun c => classReady s site c)

/-- The version whose block is active for an input vector. -/
def activeVersion (s : State) (o : Owner) (vec : Nat) : Nat :=
  match passFlight s o.slot with
  | some f => ((seqOfVec f.msg.seqs vec).map (fun q => q.version)).getD 0
  | none => 0

/-- One item takes up to four input vectors of one version that follow one another: its clocks fall on the first of them
(05 R137, DESIGN CHOICE, log 146). -/
def deltaShared (t : TileSt) (ver : Nat) : Bool := t.deltaShare.any (fun d => d.1 == ver && d.2 != 0)

/-- The vectors that the item under way still takes after this one. -/
def deltaLeft (t : TileSt) (ver : Nat) : Nat := if deltaShared t ver then (t.deltaShare.map Prod.snd).getD 0 - 1 else 3

/-- Engine clocks: ceil(E / 256) for the entries of each tile (05 Table 05.3). -/
def deltaClocks (b : DeltaBlock) (ms : List Nat) : Nat :=
  (ms.map (fun t => ceilDiv (b.entries.filter (fun e => e.slot == t)).length 256)).sum

/-- The staged entries of the item, in delta staging from its first byte on, as far as the region reaches. -/
def deltaRange (b : DeltaBlock) (ms : List Nat) : Nat × Nat :=
  (deltaRegion, Nat.min 0x10000 (4 * (b.entries.filter (fun e => ms.contains e.slot)).length))

def deltaRun (s : State) (site head : Nat) : State :=
  if deltaReady s site head && !higherReady s site 4 then
    let ms := chainMembers s site head
    let h := tkey site head
    match sliceOwner s site head with
    | none => s
    | some o =>
      match activeDelta s site o (workOf s h).vec with
      | none => clearDeltaDue site ms s
      | some b =>
        let s8d := (workOf s h).s8d
        let ver := activeVersion s o (workOf s h).vec
        if objLost s ver then failPass s o.slot stCollFailed else
        let t := tileAt s h
        let s := if deltaShared t ver then s else engBusy s site 4 (deltaClocks b ms)
        let s := modTile s h (fun t => { t with deltaShare := some (ver, deltaLeft t ver) })
        sliceItem s site o.slot [deltaRange b ms] (fun s =>
          clearDeltaDue site ms (wideAddCount s site head (deltaTerm b s8d ms (deltaX s site))))
  else s

/-! ### COLUMN_CLOSE -/

/-- After the last promotion and every add-back (02 R41, R55, 04 R95). -/
def closable (s : State) (site head : Nat) : Bool :=
  isHead s site head && (workOf s (tkey site head)).promoted &&
  (chainMembers s site head).all (fun t => !(workOf s (tkey site t)).sieveDue && !(workOf s (tkey site t)).deltaDue)

/-- The configuration words a capture keeps of a member's tile: its register block in force. TILE_ROTPOS is kept as each
pass ran (`TileWork.rot`). -/
def captureRegs (s : State) (k : Nat) : SMap W32 :=
  ((List.range 0x300).filter (fun i => i != 6)).filterMap (fun i =>
    let o := tileReg k (4 * i)
    let v := if (regDesc o).any (fun d => d.staged) then rdA s o else rd s o
    if v = regReset o then none else some (o, v))

/-- The column close fills the capture of this chain (04 R109). -/
def closeCapture (s : State) (site head : Nat) (outs : List W16) : State :=
  match (coreAt s site).capture with
  | some c =>
    if sameCapture c head (workOf s (tkey site head)).vec then
      let t := tileAt s (tkey site head)
      modCore s site (fun x => { x with capture := some { c with
        work := c.members.map (fun m => workOf s (tkey site m))
        wides := (List.range 512).map (wideAt t)
        outs := outs
        closed := true
        regs := (c.members.map (fun m => captureRegs s (physTile s (tkey site m)))).flatten } })
    else s
  | none => s

/-- The members go on to the next vector; the step of the frame stays (04 Table 04.4). -/
def clearWork (site : Nat) (step : W64) : List Nat → State → State
  | [], s => s
  | t :: ts, s => clearWork site step ts (modTile s (tkey site t) (fun x => { x with work := x.next, next := {}, lastStep := step }))

/-- Step of the frame whose pass a slot's slice runs. -/
def stepAt (s : State) (k : Nat) : W64 :=
  match (tileAt s k).owner with
  | some o => passStepOf s o.slot
  | none => 0

/-- R55-R59: the periphery forms every output of the chain and clears its accumulators. -/
def columnClose (s : State) (site head : Nat) : State :=
  if closable s site head then
    let k := tkey site head
    let p := physTile s k
    let r := periphery (periCfg s p) (wideAt (tileAt s k))
    let s := closeCapture s site head r.1
    let ms := chainMembers s site head
    let s := modTile s k (fun t => { t with
      wide := []
      outBuf := r.1
      outScales := r.2.1
      outSeg := packedOut (periCfg s p) r.1 r.2.1
      nextVec := t.nextVec + 1 })
    clearWork site (stepAt s k) ms (incHold s (tileReg p 0x48) 16 r.2.2)
  else s

def execColumnClose (site head : Nat) (s : State) : Answer :=
  onUnit (decide (site < 800) && decide (head < 16)) (columnClose s site head)

/-! ### STANDIN_PASS (05 R141-R143) -/

/-- Insert by ascending site. -/
def insSite (x : Nat × Bytes) : List (Nat × Bytes) → List (Nat × Bytes)
  | [] => [x]
  | y :: l => if x.1 ≤ y.1 then x :: y :: l else y :: insSite x l

def sortSites (l : List (Nat × Bytes)) : List (Nat × Bytes) := l.foldr insSite []

/-- A multicast: its source sends one unicast copy per destination, in ascending order of site (08 R194). -/
def meshMulticast (s : State) (src vc : Nat) (secure : Bool) (arg : Bytes) (dests : List (Nat × Bytes)) : State :=
  { s with meshQ := s.meshQ ++ (sortSites dests).map (fun x =>
      { dest := .site x.1, vc := vc, type := .msg, src := src, tag := 0, secure := secure, gma := 0, arg := arg, payload := x.2 }) }

/-- The core that stands in for a member of a failed core. -/
def standinOf (s : State) (site slot : Nat) : Option Nat := (tileAt s (tkey site slot)).standin

/-- A configuration word of a slot of a failed core: its register keeps it, unless its spare tile carried it as the core
failed. -/
def heldCfg (s : State) (m o : Nat) : W32 :=
  match (tileAt s m).cfgCopy with
  | some c => mapGet 0 c o
  | none => rdA s (tileReg m o)

/-- The chain of a failed core by the configuration in force as it failed. -/
def standinMembers (s : State) (site head : Nat) : List Nat :=
  let h := heldCfg s (tkey site head) 0
  if fld h 10 8 = 0 then [head]
  else (List.range 16).filter (fun t =>
    let w := heldCfg s (tkey site t) 0
    (tileAt s (tkey site t)).owner.isSome && fld w 10 8 != 0 && fld w 7 4 == fld h 7 4)

/-- The periphery of a failed slot, as its stand-in has it. -/
def standinPeri (s : State) (m : Nat) : PeriCfg := periOf (heldCfg s m)

/-- The shadow block of a member lies in a slot block of its stand-in core. -/
def standinBlock (s : State) (site t : Nat) : Bool := (standinOf s site t).any (fun c => (blockAt s c (tkey site t)).isSome)

/-- Every member has its stand-in core, with the member's shadow block loaded there (20 R464). -/
def standinReady (s : State) (site head : Nat) : Bool :=
  coreAway s site && (coreAt s site).blocksIn && (standinMembers s site head).head? == some head &&
  (tileAt s (tkey site head)).owner.isSome &&
  (standinMembers s site head).all (fun t => standinBlock s site t && (tileAt s (tkey site t)).lostRows.isEmpty)

/-- The slot blocks of the members are read, each on its stand-in core: whether one holds a double-bit error, and the
state after. -/
def standinCheck (site : Nat) (slot : Nat) : List Nat → State → Bool × State
  | [], s => (false, s)
  | t :: ts, s =>
    match standinOf s site t with
    | some c =>
      let r := itemCheck s c (some slot) (blockRanges s c [tkey site t])
      let q := standinCheck site slot ts r.2
      (r.1 || q.1, q.2)
    | none => standinCheck site slot ts s

/-- Each helper core's engine gives 128 clocks of class 2 (05 Table 05.3, R143). -/
def standinBusy (site : Nat) : List Nat → State → State
  | [], s => s
  | t :: ts, s => standinBusy site ts (match standinOf s site t with | some c => engBusy s c 2 128 | none => s)

/-- What the stand-in cores make of one input vector. -/
structure StandinOut where
  slices : List (Nat × List Int)       -- the 8-bit slice of each member
  s8     : Nat
  codes  : List W16
  scales : List Byte
  sats   : Nat
  clips  : Nat

/-- R143: steps 1 and 2 of the edge, the 8-bit slice, the exact sums, the delta terms and the periphery. -/
def standinOut (s : State) (site head : Nat) (members : List Bytes) (blk : Option DeltaBlock) : StandinOut :=
  let ms := standinMembers s site head
  let c := edgeCfg s site head
  let wide := (List.range ms.length).map (fun i => (ms.getD i 0, edgeWiden s site head (members.getD i [])))
  let rot := wide.map (fun x => (x.1, edgeRotate s site head x.1 x.2))
  let s8 := shift8 (rot.map Prod.snd).flatten c.inexp
  let q := rot.map (fun x => (x.1, (x.2.map (quant8 c.inexp s8)).map Prod.fst))
  let sum (col : Nat) : Int := 2 ^ s8 * (q.map (fun x => digitalSum (tileAt s (tkey site x.1)) x.2 col)).sum
  let sd := shift8 (wide.map Prod.snd).flatten c.inexp
  let qd := wide.map (fun x => (x.1, x.2.map (quant8 c.inexp sd)))
  let xd (m : Nat) : List Int := (((qd.find? (fun x => x.1 == m)).map Prod.snd).getD []).map Prod.fst
  let add (col : Nat) : Int := match blk with | some b => deltaTerm b sd ms xd col | none => 0
  let w1 := (List.range 512).map (fun col => sat32 (sum col))
  let w2 := (List.range 512).map (fun col => sat32 (w1.getD col 0 + add col))
  let r := periphery (standinPeri s (tkey site head)) (fun col => w2.getD col 0)
  { slices := q, s8 := s8, codes := r.1, scales := r.2.1
    sats := ((List.range 512).filter (fun col => sum col != w1.getD col 0)).length +
            ((List.range 512).filter (fun col => w1.getD col 0 + add col != w2.getD col 0)).length + r.2.2
    clips := if blk.isSome then (qd.map (fun x => countClip x.2)).sum else 0 }

/-- The head's core sends each other member core its part of the 8-bit slice, with s8 after it, and each returns its exact
sums, all on VC2 (05 R143; the packets' layout is a DESIGN CHOICE, log 155). -/
def standinPackets (s : State) (site head : Nat) (r : StandinOut) : State :=
  match standinOf s site head with
  | none => s
  | some h =>
    let others := r.slices.filterMap (fun x => if x.1 = head then none else (standinOf s site x.1).map (fun c => (c, x)))
    let s := meshMulticast s h 2 (siteSecure s h) (zeros 40)
      (others.map (fun o => (o.1, (o.2.2.map (fun v => (BitVec.ofInt 8 v : Byte))) ++ leBytes 1 r.s8)))
    others.foldl (fun s o => meshMulticast s o.1 2 (siteSecure s o.1) (zeros 40)
      [(h, ((List.range 512).map (fun c => leBytes 4 (unsgn 32 (digitalSum (tileAt s (tkey site o.2.1)) o.2.2 c)))).flatten)]) s

/-- The vector closes on the stand-in cores; the failed core's own counters do not advance. -/
def standinClose (s : State) (site head : Nat) (r : StandinOut) : State :=
  let k := tkey site head
  let ms := standinMembers s site head
  let s := standinPackets s site head r
  let s := clearWork site (stepAt s k) ms (standinBusy site ms s)
  let s := match standinOf s site head with
    | some h => incHold (incHold s (engReg h 0x2C) 16 r.sats) (engReg h 0x40) 32 r.clips
    | none => s
  modTile s k (fun t => { t with
    outBuf := r.codes, outScales := r.scales, outSeg := packedOut (standinPeri s k) r.codes r.scales, nextVec := t.nextVec + 1 })

def standinRun (s : State) (site head : Nat) (members : List Bytes) : State :=
  match sliceOwner s site head with
  | none => s
  | some o =>
    if standinReady s site head && !passStopped s o.slot then
      let c := standinCheck site o.slot (standinMembers s site head) s
      if c.1 || objLost s (activeVersion s o (tileAt s (tkey site head)).nextVec) then failPass c.2 o.slot stCollFailed
      else standinClose c.2 site head (standinOut c.2 site head members (activeDelta c.2 site o (tileAt s (tkey site head)).nextVec))
    else s

end Sys2Proof.Machine
end

