-- ==== Sys2Proof/Machine/Stage.lean ====
section
/-! DEFINITION. Staged configuration: which words wait, the checks made when they become active, and what is discarded
(02 R52, R60, Tables 02.8-02.12, 03 R80, Table 03.7, 04 R116); and the temperature of a tile (06 R146, 17 R413). -/

namespace Sys2Proof.Machine

/-! ### Temperature of a tile -/

/-- The die sensor of a site: the grid of 8 rows and 12 columns (17 Table 17.3). -/
def dieSensor (site : Nat) : Nat := 12 * (site / 25 / 4) + Nat.min (site % 25 / 2) 11

def chanValue (s : State) (c : Nat) : Int := sgn 16 (rdF s (hkReg (0x100 + 4 * c)) 15 0)
def chanBroken (s : State) (c : Nat) : Bool := rbit s (hkReg (0x100 + 4 * c)) 16

/-- Distance in the grid of die sensors, a diagonal step counted as one. -/
def dieDist (a b : Nat) : Nat := Nat.max (Nat.dist (a / 12) (b / 12)) (Nat.dist (a % 12) (b % 12))

/-- 97 °C, what a broken sensor is taken at. -/
abbrev brokenTemp : Int := 97 * 256

/-- The mean of the unbroken die sensors nearest to a broken one, from distance `d` outward (17 R413). -/
def nearestMean (s : State) (c d : Nat) : Nat → Int
  | 0 => brokenTemp
  | n + 1 =>
    let l := (List.range 96).filter (fun x => dieDist x c == d && !chanBroken s x)
    if l.isEmpty then nearestMean s c (d + 1) n
    else roundHalfUp ((l.map (chanValue s)).sum) l.length

def siteTemp (s : State) (site : Nat) : Int :=
  let c := dieSensor site
  if chanBroken s c then nearestMean s c 1 11 else chanValue s c

/-- The tile temperature, 1/256 °C. -/
def tileTemp (s : State) (k : Nat) : Int := siteTemp s (k / 32)

/-! ### Requests for whole-tile runs (07 Table 07.3, R174) -/

def calStatus (s : State) (k hi lo : Nat) : Nat := rdF s (tileReg k 0x1000) hi lo
def setCalStatus (s : State) (k hi lo v : Nat) : State := wrF s (tileReg k 0x1000) hi lo v

/-- The counter of a row of 07 Table 07.3. -/
def trigCounter (row : Nat) : Nat :=
  if row = 2 then calReg 0x14 else if row = 3 then calReg 0x18 else if row = 4 then calReg 0x10 else calReg 0x1C

/-- The tile takes no request: PROGRAMMING or in a run (R174), or OFF or RETIRED. -/
def calDeaf (s : State) (k : Nat) : Bool :=
  tileState s k == 3 || tileState s k == 4 || (tileAt s k).calRun.isSome || tileState s k == 0 || tileState s k == 5

/-- The pending request already has the class, or a higher one, and a row no later. -/
def calCovered (s : State) (k row cls : Nat) : Bool :=
  calStatus s k 4 3 != 0 && decide (cls ≤ calStatus s k 4 3) && decide (calStatus s k 12 10 ≤ row)

/-- R174: a trigger of a row and class (1 reference, 2 column): counted once, and merged with what is pending. -/
def calTrigger (s : State) (k row cls : Nat) : State :=
  if calDeaf s k || calCovered s k row cls then s
  else
    let r := calStatus s k 12 10
    let s := incWrap s (trigCounter row) 1
    let s := setCalStatus s k 4 3 (Nat.max (calStatus s k 4 3) cls)
    setCalStatus s k 12 10 (if r = 0 then row else Nat.min r row)

/-- The pending request goes. -/
def calClear (s : State) (k : Nat) : State := setCalStatus (setCalStatus s k 4 3 0) k 12 10 0

/-- CAL_DT in 1/256 °C; 0 taken as 1. -/
def calDt (s : State) : Nat := 16 * Nat.max 1 (rdF s (calReg 0) 7 0)

/-- The scale 1.0. -/
abbrev scaleOne := 0x8000

/-- Every CAL_COL word of a tile. -/
def calColWords (k : Nat) : List Nat := words (tileReg k 0x1B00) 260

/-- Every COL_SCALE 1.0, in both copies. -/
def resetCols (s : State) (k : Nat) : State := (calColWords k).foldl (fun s o => wrBoth s o 0x80008000) s

/-- R182: a restored copy whose CAL_STAMP is not the array's program count loses its column scales, and a column
request is raised, in the host's row. A stamp and a scale are checked against each other whichever becomes active
later. -/
def stampCheck (s : State) (k : Nat) (ws : List Nat) : State :=
  if (ws.contains (tileReg k 0x1014) || (calColWords k).any (fun o => ws.contains o)) && rdF s (tileReg k 0x1014) 16 0 != (arrayAt s k).cycles then
    calTrigger (resetCols s k) k 3 2
  else s

/-! ### Staged words -/

/-- A word of a staged register block waits. -/
def stagedIn (s : State) (lo n : Nat) : List Nat := s.stagedAt.filter (fun o => lo ≤ o && o < lo + n)

def unstage (s : State) (os : List Nat) : State := { s with stagedAt := s.stagedAt.filter (fun o => !os.contains o) }

/-- The staging copies become the ones in force. -/
def takeWords : List Nat → State → State
  | [], s => s
  | o :: os, s => takeWords os (wrA s o (rd s o))

/-- A field that the checks discard: the staging copy takes the active one's bits. -/
def discardField (s : State) (o hi lo : Nat) : State := wrF s o hi lo (rdFA s o hi lo)

/-- CFG_ERR codes 2 to 4 of a tile's staging copy (02 Table 02.8), the ones that apply. -/
def tileCfgErrs (s : State) (k : Nat) : List Nat :=
  let pm := rdF s (tileReg k 0x14) 1 0
  let ps := rdF s (tileReg k 0x14) 5 2
  (if pm = 3 ∨ (pm ≠ 0 ∧ (ps < 2 ∨ 8 < ps)) then [2] else []) ++
  (if 3 < rdF s (tileReg k 0x14) 10 8 then [3] else []) ++
  (if 4 < rdF s (tileReg k 0x10) 2 0 then [4] else [])

/-- Discard what is invalid (02 Table 02.8). -/
def discardTile (s : State) (k : Nat) (errs : List Nat) : State :=
  let s := if errs.contains 2 then discardField s (tileReg k 0x14) 5 0 else s
  let s := if errs.contains 3 then discardField s (tileReg k 0x14) 10 8 else s
  if errs.contains 4 then discardField s (tileReg k 0x10) 2 0 else s

def setCfgErr (s : State) (k e : Nat) : State := wrF s (tileReg k 4) 6 4 e

/-- ENABLE in both copies (02 R61). -/
def enableTile (s : State) (k : Nat) : State :=
  let s := wrF s (tileReg k 0) 0 0 1
  wrA s (tileReg k 0) (setFld (rdA s (tileReg k 0)) 0 0 1)

/-- A tile enters SERVING, with ENABLE set (02 R61). -/
def serveTile (s : State) (k : Nat) : State := setTileState (enableTile s k) k 2

/-- ROT_EN comes into force: cleared, converter 520 is idle (02 R49); set again, the rotation starts once more, at the
first converter it visits (DESIGN CHOICE, log 150). -/
def rotSwitch (s : State) (k : Nat) (was : Bool) : State :=
  let on := rdFA s (tileReg k 0) 13 13 == 1
  if was == on || rd s (tileReg k 0x18) == 0 then s
  else if on then setRot s k (rotNext s k 0 521)
  else setCalStatus (setRot s k 520) k 9 9 0

/-- R60: a tile's staged words become active; the invalid fields are discarded and CFG_ERR shows the lowest code. -/
def activateTile (s : State) (k : Nat) : State :=
  let ws := stagedIn s (tileReg k 0) 0x2000
  if ws.isEmpty then s
  else
    let errs := tileCfgErrs s k
    let was := rdFA s (tileReg k 0) 13 13 == 1
    let s := rotSwitch (stampCheck (unstage (takeWords ws (discardTile s k errs)) ws) k ws) k was
    if ws.any (fun o => o < tileReg k 0x1000) then setCfgErr s k (errs.headD 0) else s

/-- CFG_ERR of an edge set's staging copy (03 Table 03.7). -/
def edgeCfgErr (w : W32) : Nat :=
  let fmt := fld w 11 9
  if 3 < fmt then 1
  else if fld w 8 8 = 1 ∧ fmt = 1 then 2
  else if 512 / 2 ^ (6 + fld w 2 1) < fld w 7 4 then 3
  else 0

/-- A slot heads its chain, placed or not. -/
def headsChain (s : State) (site slot : Nat) : Bool := (chainMembers s site slot).head? == some slot

/-- R85, Table 03.7: an edge set's staged words become active; an invalid EDGE_CFG of a head is discarded. -/
def activateEdge (s : State) (site slot : Nat) : State :=
  let ws := stagedIn s (edgeReg site slot 0) 0x100
  if ws.isEmpty then s
  else
    let e := if headsChain s site slot then edgeCfgErr (rd s (edgeReg site slot 0)) else 0
    let s := if e = 0 then s else wr s (edgeReg site slot 0) (rdA s (edgeReg site slot 0))
    wrF (unstage (takeWords ws s) ws) (edgeReg site slot 4) 3 1 e

/-- CFG_ERR of a slot set's staging copy (04 Table 04.5), the ones that apply. -/
def sfbCfgErrs (s : State) (site slot : Nat) : List Nat :=
  (if 64 < rdF s (sfbSlotReg site slot 0) 6 0 then [1] else []) ++
  (if rdF s (sfbSlotReg site slot 4) 19 16 = 0 then [2] else []) ++
  (if rdF s (sfbSlotReg site slot 4) 21 20 = 3 then [3] else [])

def discardSfb (s : State) (site slot : Nat) (errs : List Nat) : State :=
  let s := if errs.contains 1 then wr s (sfbSlotReg site slot 0) (rdA s (sfbSlotReg site slot 0)) else s
  if errs.contains 2 || errs.contains 3 then wr s (sfbSlotReg site slot 4) (rdA s (sfbSlotReg site slot 4)) else s

/-- R116: a slot set's staged words become active; an invalid value of a head's is discarded. -/
def activateSfb (s : State) (site slot : Nat) : State :=
  let ws := stagedIn s (sfbSlotReg site slot 0) 0x30
  if ws.isEmpty then s
  else
    let errs := if headsChain s site slot then sfbCfgErrs s site slot else []
    wrF (unstage (takeWords ws (discardSfb s site slot errs)) ws) (sfbSlotReg site slot 8) 8 6 (errs.headD 0)

/-! ### Chains (02 R52) -/

/-- The chain check of a slot's chain, over the configuration in force: CFG_ERR 1 is set in every member, or cleared
where it stood. -/
def checkChain (s : State) (site slot : Nat) : State :=
  let ms := chainMembers s site slot
  let ok := chainOk s site (ms.headD slot)
  ms.foldl (fun s t =>
    let k := physTile s (tkey site t)
    if ok then (if rdF s (tileReg k 4) 6 4 = 1 then setCfgErr s k 0 else s) else setCfgErr s k 1) s

def checkChains (s : State) (site : Nat) : State := (List.range 16).foldl (fun s t => checkChain s site t) s

/-- The invalid chains of a site, by head. -/
def badChains (s : State) (site : Nat) : List Nat :=
  (List.range 16).filter (fun t => headsChain s site t && chainInvalid s site t)

/-- CAUSE 23 (20 Table 20.5), on a SERVING tile. -/
def cfgFault (s : State) (cls site slot : Nat) : State :=
  if slotServing s (tkey site slot) then tileFault s cls 23 (physTile s (tkey site slot)) else s

/-! ### The staged words of a slot -/

def slotStaged (s : State) (site slot : Nat) : Bool :=
  !(stagedIn s (tileReg (physTile s (tkey site slot)) 0) 0x2000).isEmpty ||
  !(stagedIn s (edgeReg site slot 0) 0x100).isEmpty || !(stagedIn s (sfbSlotReg site slot 0) 0x30).isEmpty

/-- All that a slot has staged becomes active. `load`: during an image load or a generation rewrite no fault record is
written (13 R331 reports the layer). -/
def activateSlot (s : State) (load : Bool) (site slot : Nat) : State :=
  let s := activateTile s (physTile s (tkey site slot))
  let e := !(stagedIn s (edgeReg site slot 0) 0x100).isEmpty
  let f := !(stagedIn s (sfbSlotReg site slot 0) 0x30).isEmpty
  let s := activateSfb (activateEdge s site slot) site slot
  if load then s
  else if e && rdF s (edgeReg site slot 4) 3 1 != 0 then cfgFault s 1 site slot
  else if f && rdF s (sfbSlotReg site slot 8) 8 6 != 0 then cfgFault s 1 site slot
  else s

/-- A list of a site's slots takes what it has staged; then the chains are checked, and an invalid chain that has
changed is recorded. -/
def activateSlots (s : State) (load : Bool) (site : Nat) (slots : List Nat) : State :=
  let due := slots.filter (slotStaged s site)
  if due.isEmpty then s
  else
    let bad0 := badChains s site
    let s := due.foldl (fun s t => activateSlot s load site t) s
    let s := checkChains s site
    if load then s
    else ((badChains s site).filter (fun h => !bad0.contains h || (chainMembers s site h).any (fun t => due.contains t))).foldl
      (fun s h => cfgFault s 2 site h) s

/-- PRESET 4 with X_LO = -8.0 and SEG_EXP = -2 (02 R56). -/
abbrev presetTable : W32 := 0xC10000F4

/-- The 64 entries of a built-in table. -/
def presetEntry (gelu : Bool) (i : Nat) : W32 := if gelu then Config.geluEntry i else Config.siluEntry i

/-- The words a write of a tile's word puts: PRESET 2 and 3 expand into the table (02 R56). -/
def presetWords (k off : Nat) (v : W32) : List (Nat × W32) :=
  if off = 0x10 ∧ (fld v 2 0 = 2 ∨ fld v 2 0 = 3) then
    (tileReg k 0x10, presetTable) ::
      (List.range 64).map (fun i => (tileReg k (0x100 + 4 * i), presetEntry (fld v 2 0 == 2) i))
  else [(tileReg k off, v)]

/-- A staged register is written (02 R60): it waits for the boundary where its tile is SERVING, and is in force at once
elsewhere. -/
def stageWord (s : State) (o : Nat) (v : W32) : State :=
  let s := wrStage s o v
  match regBlock o with
  | .tile k _ =>
    if k % 32 = 16 then
      match (tileAt s k).serves with
      | some m => if tileState s k = 2 then s else activateSlots s false (m / 32) [m % 32]
      | none => activateTile s k
    else if tileState s k = 2 then s
    else if (tileAt s k).covered then activateTile s k
    else activateSlots (activateTile s k) false (k / 32) [k % 32]
  | .edge site slot _ => if slotServing s (tkey site slot) then s else activateSlots s false site [slot]
  | .sfbSlot site slot _ => if slotServing s (tkey site slot) then s else activateSlots s false site [slot]
  | _ => s

end Sys2Proof.Machine
end

