-- ==== Sys2Proof/Machine/Sample.lean ====
section
/-! DEFINITION. On-demand Spoon runs: test vectors, and when a run that waits can start (04 R112, Table 04.3). -/

namespace Sys2Proof.Machine

/-- The tile whose contents a tile holds: its own, or for a spare tile those of the tile it was last placed for. -/
def contentsOf (s : State) (k : Nat) : Option Nat := if k % 32 = 16 then (tileAt s k).lastServed else some k

/-- A shadow copy of the array's contents is resident. -/
def shadowThere (s : State) (k : Nat) : Bool :=
  match contentsOf s k with
  | some m => (tileAt s m).shadowIn
  | none => false

/-- The ideal side of a test vector has weights: zeros, or the shadow copy of the array's contents. -/
def testWeights (s : State) (k : Nat) : Bool := (tileAt s k).zeroed || shadowThere s k

/-- The run drives a test vector in this state; it samples a tile pass in the others that can serve it. -/
def drivesTest (s : State) (k : Nat) : Bool := tileState s k == 1 || (tileState s k == 2 && holdsGrant s k)

/-- 512 INT4 activations, 4 steps a row (14 Table 14.3). -/
def testRows : Nat → W64 → List Int
  | 0, _ => []
  | n + 1, g => sgn 4 (lfsrDraw 4 g 0).1 :: testRows n (lfsrDraw 4 g 0).2

/-- Driven as bit-planes with s = 0, without dither, on the tile alone. -/
def driveTest (s : State) (k : Nat) (r : SpoonReq) : State :=
  let s := rotStart s k
  let x := testRows 512 (nonZeroSeed r.seed)
  let w0 : TileWork := { planes := x.map planesOf, rot := rdF s (tileReg k 0x18) 9 0 }
  let p := passPhases s k (arrayAt s k) w0 0 true
  let wides := (List.range 512).map (fun c => p.run.getD c 0 * 2 ^ colStep s k c)
  let o := (contentsOf s k).bind (fun m => (tileAt s m).owner)
  let serving := tileState s k == 2
  let c : Capture :=
    { head := k % 32, vec := 0, members := [k % 32], phys := [k]
      work := [{ w0 with run := p.run, satCols := p.sats.map Prod.fst, runDone := true }]
      wides := wides, outs := (periphery (periCfg s k) (fun c => wides.getD c 0)).1, closed := true, regs := captureRegs s k
      onDemand := some r, test := true, raised := false, time := s.rackTime
      step := if serving then (match memberOf s k with | some m => (tileAt s m).lastStep | none => 0) else 0
      inst := match o with | some o => instNumber s o.slot | none => Config.freeNat s.freeNo
      layer := match o with | some o => o.layer | none => Config.freeNat (s.freeNo + 1)
      outDim := match o with | some o => o.outDim | none => 512
      zero := (tileAt s k).zeroed }
  let s := modTile (setCapture s (spoonSite s k) (some c)) k (fun t => { t with spoonReq := none })
  useFreeN 8194 s

/-- A run that waits on a tile drives its test vector as soon as the tile's state and the buffer allow (R112). -/
def spoonTry (s : State) (k : Nat) : State :=
  match (tileAt s k).spoonReq with
  | none => s
  | some r => if drivesTest s k && (coreAt s (spoonSite s k)).capture.isNone && testWeights s k then driveTest s k r else s

/-- Every run that waits on a tile is tried, in ascending order of tiles. -/
def spoonWake (s : State) : State :=
  (s.tiles.filterMap (fun t => if t.2.spoonReq.isSome then some t.1 else none)).foldl spoonTry s

end Sys2Proof.Machine
end

