-- ==== Sys2Proof/Machine/Place.lean ====
section
/-! DEFINITION. Where weights lie on an array: their placement on cells with defects, the residuals and their records,
spare columns, and the rotation that follows them (02 R36, R48, 06 R157-R162, 07 R170). -/

namespace Sys2Proof.Machine

/-! ### Placement (06 R157, R158) -/

/-- Nominal levels of a weight (02 R27). -/
def nominal (w : Int) : Nat × Nat := if 0 ≤ w then (w.toNat, 0) else (0, (-w).toNat)

/-- The range of a cell: as its defect was measured, else 0-15. -/
def cellRange (ds : List Defect) (row cell : Nat) : Nat × Nat :=
  match ds.find? (fun d => d.row == row && d.cell == cell) with
  | some d => (d.lo, d.hi)
  | none => (0, 15)

def cellBad (ds : List Defect) (row cell : Nat) : Bool := ds.any (fun d => d.row == row && d.cell == cell)

def cellStuck (ds : List Defect) (row cell : Nat) : Bool := ds.any (fun d => d.row == row && d.cell == cell && d.lo == d.hi)

/-- The values a format encodes, in units (06 R158). -/
def encodable (fp4 : Bool) (p : Int) : Bool :=
  if fp4 then [0, 1, 2, 3, 4, 6, 8, 12].contains p.natAbs else decide (-8 ≤ p) && decide (p ≤ 7)

/-- Levels of a pair and the value it reads. -/
structure Placing where
  gp : Nat
  gm : Nat
deriving DecidableEq

def Placing.value (p : Placing) : Int := (p.gp : Int) - p.gm

/-- The keys of 06 R158 compared in their order. -/
def placingLess (w : Int) (a b : Placing) : Bool :=
  let ka := (w - a.value).natAbs
  let kb := (w - b.value).natAbs
  decide (ka < kb) || (ka == kb && (decide (a.gp + a.gm < b.gp + b.gm) || (a.gp + a.gm == b.gp + b.gm && decide (a.gp < b.gp))))

/-- The candidates of 06 R158. -/
def placings (fp4 : Bool) (rp rm : Nat × Nat) : List Placing :=
  ((List.range (rp.2 + 1 - rp.1)).map (fun i =>
    (List.range (rm.2 + 1 - rm.1)).filterMap (fun j =>
      let p : Placing := { gp := rp.1 + i, gm := rm.1 + j }
      if encodable fp4 p.value then some p else none))).flatten

def bestPlacing (w : Int) : List Placing → Option Placing
  | [] => none
  | p :: l =>
    match bestPlacing w l with
    | none => some p
    | some q => if placingLess w q p then some q else some p

/-- Where a cell that is not placed lies: its target where it is sound, else an open level of its range. -/
def liesAt (n : Nat) (ds : List Defect) (row cell target : Nat) : Nat :=
  if cellBad ds row cell then
    let r := cellRange ds row cell
    r.1 + Config.freeNat (n + 1048 * row + cell) % (r.2 + 1 - r.1)
  else target

/-- The nominal placement of 02 R27, with a defective cell wherever it lies. -/
def nominalLies (n : Nat) (ds : List Defect) (row j : Nat) (lv : Nat × Nat) : Placing :=
  { gp := liesAt n ds row (2 * j) lv.1, gm := liesAt n ds row (2 * j + 1) lv.2 }

/-- One weight on signed column `j`: levels as given where the pair is sound. -/
def placeWeight (absorb fp4 : Bool) (n : Nat) (ds : List Defect) (row j : Nat) (w : Int) (lv : Nat × Nat) : Placing :=
  if cellBad ds row (2 * j) || cellBad ds row (2 * j + 1) then
    if absorb then
      (bestPlacing w (placings fp4 (cellRange ds row (2 * j)) (cellRange ds row (2 * j + 1)))).getD (nominalLies n ds row j (nominal w))
    else nominalLies n ds row j (nominal w)
  else { gp := lv.1, gm := lv.2 }

/-- What an array is asked to hold: value and levels of a weight. -/
def jobValue (j : ProgJob) (row c : Nat) : Int := mapGet 0 j.target (512 * row + c)

def jobLevels (j : ProgJob) (row c : Nat) : Nat × Nat :=
  match mapFind j.levels (512 * row + c) with
  | some b => (b.toNat % 16, b.toNat / 16)
  | none => if j.levels.isEmpty then nominal (jobValue j row c) else (0, 0)

/-- A weight that could not be placed (06 R158, R160). -/
structure Residual where
  row  : Nat
  col  : Nat
  w    : Int
  p    : Placing
  stuck : Bool

/-- The residuals of a logical column on a physical column. -/
def colResiduals (absorb : Bool) (n : Nat) (ds : List Defect) (jb : ProgJob) (phys c : Nat) : List Residual :=
  ((ds.filter (fun d => d.cell / 2 == phys)).map (fun d => d.row)).dedup.filterMap (fun r =>
    let w := jobValue jb r c
    let p := placeWeight absorb jb.fp4 n ds r phys w (jobLevels jb r c)
    if p.value = w then none
    else some { row := r, col := c, w := w, p := p, stuck := cellStuck ds r (2 * phys) || cellStuck ds r (2 * phys + 1) })

/-- The column score of 06 R160. -/
def colScore (l : List Residual) : Nat := (l.map (fun r => (r.w - r.p.value).natAbs)).sum

/-- Weights placed without a residual on a pair with a defective cell. -/
def absorbedCount (absorb : Bool) (n : Nat) (ds : List Defect) (jb : ProgJob) (phys c : Nat) : Nat :=
  (((ds.filter (fun d => d.cell / 2 == phys)).map (fun d => d.row)).dedup.filter (fun r =>
    (placeWeight absorb jb.fp4 n ds r phys (jobValue jb r c) (jobLevels jb r c)).value == jobValue jb r c)).length

/-! ### What an array holds (06 R159) -/

/-- The placed values of a tile, with what enters the shadow copy at the next boundary. -/
def placedValues (s : State) (m : Nat) : SMap Int :=
  (tileAt s m).shadowNext.foldl (fun w p => mapPut 0 w p.1 p.2) (tileAt s m).shadow

/-- The fields of the commit record of a tile's array (13 Table 13.6). -/
def commitNat (a : ArraySt) (lo n : Nat) : Nat := (a.commit.toNat / 2 ^ lo) % 2 ^ n

/-- The placed value of a weight as it stands for a tile. -/
def placedAt (s : State) (k r c : Nat) : Int :=
  match contentsOf s k with
  | some m => mapGet 0 (placedValues s m) (512 * r + c)
  | none => 0

/-- The job that writes slot `m`'s values to an array again, with the commit fields of array `k`. -/
def heldJob (s : State) (k m : Nat) (why : ProgFor) : ProgJob :=
  let a := arrayAt s k
  let o := (tileAt s m).owner
  { why := why, target := placedValues s m, levels := []
    fp4 := (o.map (fun o => o.fp4)).getD false
    gen := commitNat a 16 32, imageId := commitNat a 48 32
    layer := (o.map (fun o => o.layer)).getD (commitNat a 80 16), block := (o.map (fun o => o.block)).getD (commitNat a 96 16)
    slot := (o.map (fun o => o.slot)).getD 64, blank := false }

/-- The job that places a tile's values on its spare, or on itself again (06 R151, R154). -/
def replaceJob (s : State) (m : Nat) (why : ProgFor) : ProgJob :=
  heldJob s (if (tileAt s m).covered then spareKey m else m) m why

/-! ### Residual records (06 R162) -/

def residBytes (r : ResidualRec) : Bytes :=
  leBytes 4 r.seq.toNat ++ leBytes 4 r.inst ++ leBytes 4 r.layer ++ leBytes 2 r.site ++ leBytes 1 r.slot ++ leBytes 1 r.cause ++
  leBytes 2 r.block ++ leBytes 2 r.row ++ leBytes 2 r.col ++ leBytes 1 (unsgn 8 r.target) ++ leBytes 1 (unsgn 8 r.placed) ++
  leBytes 1 r.gPlus ++ leBytes 1 r.gMinus ++ leBytes 1 (if r.rotated then 1 else 0) ++ zeros 5

/-- The store holds 65,536 records; the oldest goes. -/
def keepResid (s : State) (r : ResidualRec) : State :=
  let l := if s.resids.length < 65536 then s.resids else s.resids.drop 1
  { s with resids := l ++ [{ r with seq := s.residSeq }], residSeq := s.residSeq + 1 }

/-- Records are posted together, and vector 67 is signalled once. -/
def postResids (s : State) (rs : List ResidualRec) : State :=
  if rs.isEmpty then s else signal (incHold (rs.foldl keepResid s) (chReg 0x20) 32 rs.length) 0 67

/-- The configuration that a load or a rewrite puts on a layer. -/
def jobCfg (s : State) (j : ProgJob) : Option LayerCfg :=
  (instOf s j.slot).bind (fun i =>
    ((if j.why = .load then i.layers else i.staged ++ i.layers).find? (fun y => y.layer == j.layer)).bind (fun y => y.cfg))

/-- The Whisk is on in the configuration of a slot's chain: that of its head counts. -/
def cfgRotated (s : State) (c : LayerCfg) (m : Nat) : Bool :=
  let mine := c.tiles.filter (fun t => siteOf s t.row t.col == m / 32)
  match mine.find? (fun t => t.slot == m % 32) with
  | none => false
  | some t =>
    let chain := if fld t.ctrl 10 8 = 0 then [t] else mine.filter (fun x => fld x.ctrl 10 8 != 0 && fld x.ctrl 7 4 == fld t.ctrl 7 4)
    (chain.find? (fun h => chain.all (fun x => decide (h.slot ≤ x.slot)))).any (fun h => fld h.edge 0 0 == 1)

/-- The job brings contents that the array has not held: their configuration comes into force at the commit. -/
def newContents (j : ProgJob) : Bool := decide (j.why = .load) || decide (j.why = .rewrite)

def jobRotated (s : State) (m : Nat) (j : ProgJob) : Bool :=
  if newContents j then (jobCfg s j).any (fun c => cfgRotated s c m)
  else rdFA s (edgeReg (m / 32) (headOf s (m / 32) (m % 32)) 0) 0 0 == 1

/-- What a record says of an array written by a job beside its row and column. -/
def residOf (s : State) (k : Nat) (j : ProgJob) (cause row col : Nat) (w p : Int) (gp gm : Nat) : ResidualRec :=
  { seq := 0, inst := if (instOf s j.slot).isSome then instNumber s j.slot else 0xFFFF
    layer := j.layer, site := k / 32, slot := k % 32, cause := cause, block := j.block
    row := row, col := col, target := w, placed := p, gPlus := gp, gMinus := gm
    rotated := jobRotated s ((contentsOf s k).getD k) j }

/-- The same residual of the same weight has been posted (06 R162). -/
def residKnown (s : State) (k : Nat) (r : Residual) : Bool :=
  s.resids.any (fun x => x.site == k / 32 && x.slot == k % 32 && x.row == r.row && x.col == r.col && x.target - x.placed == r.w - r.p.value)

/-- The residuals of a write that are recorded: all of new contents, the new ones of contents written again. -/
def postResiduals (s : State) (k : Nat) (j : ProgJob) (rs : List Residual) : State :=
  let fresh := if newContents j then rs else rs.filter (fun r => !residKnown s k r)
  postResids s (fresh.map (fun r => residOf s k j (if r.stuck then 1 else 2) r.row r.col r.w r.p.value r.p.gp r.p.gm))

/-- Rows leave the shadow row cache. -/
def dropRows (s : State) (m : Nat) (gone : Nat → Bool) : State :=
  modCore s (m / 32) (fun c => cacheDrop c (fun slot row => slot == m % 32 && gone row))

/-- Residuals enter the shadow copy at one pass boundary; the rows leave the shadow row cache (06 R159). -/
def shadowResiduals (s : State) (m : Nat) (rs : List Residual) : State :=
  if rs.isEmpty then s
  else
    modTile (dropRows s m (fun row => rs.any (fun r => r.row == row))) m (fun t => { t with shadowNext := rs.foldl (fun w r => mapSet w (512 * r.row + r.col) r.p.value) t.shadowNext })

/-- The placed values take effect in the shadow copy. -/
def shadowMerge (s : State) (m : Nat) : State :=
  if (tileAt s m).shadowNext.isEmpty then s
  else
    let s := dropRows s m (fun row => (tileAt s m).shadowNext.any (fun p => p.1 / 512 == row))
    modTile s m (fun t => { t with shadow := placedValues s m, shadowNext := [] })

/-! ### Spare columns and the rotation (02 R36, R48, 07 R170) -/

/-- A logical column's place: its spare column where a valid entry names it. -/
def carrier (s : State) (k c : Nat) : Nat :=
  match (List.range 8).find? (fun n => rdF s (tileReg k (0x20 + 4 * n)) 15 15 == 1 && rdF s (tileReg k (0x20 + 4 * n)) 8 0 == c) with
  | some n => 512 + n
  | none => c

/-- The rotation goes on. -/
def rotAdvance (s : State) (k i : Nat) : State := setRot s k (if i = 520 then rotNext s k 0 521 else rotNext s k (i + 1) 521)

/-- The logical column that a physical column carries. -/
def logicalOf (s : State) (k j : Nat) : Nat := if j < 512 then j else rdF s (tileReg k (0x20 + 4 * (j - 512))) 8 0

/-- Once a failed converter's column has moved, the converter is stopped and the rotation resumes (07 R170); a stopped
position is left at the boundary (02 R48). -/
def rotResume (s : State) (k : Nat) : State :=
  let i := rotPos s k
  if rotActive s k && !convServed s k i then
    if calStatus s k 9 9 = 1 then
      if physColumn s k (logicalOf s k i) = i then s else rotAdvance (setCalStatus s k 9 9 0) k i
    else rotAdvance s k i
  else s

/-- The entries of TILE_COLMAP that wait come into force; where that takes the column stood in for out of service the
rotation moves on (02 R48). -/
def colmapNow (s : State) (k : Nat) : State :=
  let i := rotPos s k
  let c := logicalOf s k i
  let was := physColumn s k c == i
  let s := (List.range 8).foldl (fun s n => if rbit s (tileReg k (0x20 + 4 * n)) 16 then wbit s (tileReg k (0x20 + 4 * n)) 16 false else s) s
  if rotActive s k && calStatus s k 9 9 == 0 && was && physColumn s k c != i then rotAdvance s k i else rotResume s k

/-- The tile's passes are an instance's: a change of its columns waits for the boundary. -/
def colmapWaits (s : State) (k : Nat) : Bool :=
  tileState s k == 2 || (tileState s k == 4 && (tileAt s k).calRun.any (fun r => r.prior == 2))

/-- A free spare column: its entry is not valid and none waits there, and its converter has not failed. -/
def spareColFree (s : State) (k : Nat) : Option Nat :=
  (List.range 8).find? (fun n =>
    rdF s (tileReg k (0x20 + 4 * n)) 16 15 == 0 && !rbit s (tileReg k (0x1200 + 4 * (512 + n))) 30)

/-- Write one signed column of an array with a column of levels. -/
def putColumn (a : ArraySt) (j : Nat) (lv : Nat → Nat × Nat) : ArraySt :=
  { a with levels := (List.range 512).foldl (fun m r =>
      mapPut 0 (mapPut 0 m (1048 * r + 2 * j) (lv r).1) (1048 * r + 2 * j + 1) (lv r).2) a.levels }

/-- Every other entry that names a column goes with the same change. -/
def dropEntry (s : State) (k c n : Nat) (wait : Bool) (i : Nat) : State :=
  let o := tileReg k (0x20 + 4 * i)
  if i ≠ n ∧ rdF s o 15 15 = 1 ∧ rdF s o 8 0 = c then wrF s o 16 15 (if wait && rdF s o 16 16 == 0 then 2 else 0) else s

/-- R36: a spare column is programmed with a logical column's weights; its entry, and the end of any other entry of that
column, wait for the boundary, and take effect at once where no instance's passes run on the tile. -/
def mapSpare (s : State) (k n c : Nat) (lv : Nat → Nat × Nat) : State :=
  let wait := colmapWaits s k
  let s := setArray s k (putColumn (arrayAt s k) (512 + n) lv)
  let s := (List.range 8).foldl (fun s i => dropEntry s k c n wait i) s
  let s := incHold (wr s (tileReg k (0x20 + 4 * n)) (BitVec.ofNat 32 (c + 0x18000))) (chReg 0x24) 16 1
  if wait then s else colmapNow s k

/-- A column moves to a spare column: it is placed there as 06 R158 gives, its residuals recorded and taken into the
shadow copy. -/
def moveColumn (s : State) (k n c : Nat) : State :=
  let m := (contentsOf s k).getD k
  let absorb := rbit s (chReg 0) 1
  let ds := (arrayAt s k).defects
  let j := heldJob s k m .refresh
  let f := s.freeNo
  let rs := colResiduals absorb f ds j (512 + n) c
  let s := mapSpare s k n c (fun r =>
    let p := placeWeight absorb j.fp4 f ds r (512 + n) (jobValue j r c) (jobLevels j r c)
    (p.gp, p.gm))
  let s := incHold s (chReg 0x1C) 32 (absorbedCount absorb f ds j (512 + n) c)
  shadowResiduals (postResiduals (useFreeN (1048 * 513) s) k j rs) m rs

end Sys2Proof.Machine
end

