-- ==== Sys2Proof/Machine/Pot.lean ====
section
/-! DEFINITION. Stockpot's own steps: occupancy, rekeying, migration, copy-on-write and the pages held for other parts
(09 R221-R229). -/

namespace Sys2Proof.Machine

/-! ### STACK_OCC_SAMPLE (09 R224) -/

/-- The low bits of the class fields give what SPEC gives an IFP packet: the read length, the atomic operation. -/
def meshSpec (p : MeshPacket) : Nat := leAt p.arg 0 2

/-- Bytes an access touches. -/
def accessLen (p : MeshPacket) : Nat :=
  match p.type with
  | .read => meshSpec p
  | .atomic => 8
  | _ => p.payload.length

/-- The lines waiting in a base die's queue (09 Table 09.1: 512). -/
def queueLines (s : State) (n : Nat) : Nat :=
  ((s.stackQ.filter (fun q => q.1 == n)).map (fun q => (linesOf (gmaOffset q.2.gma) (accessLen q.2)).length)).sum

/-- One sample of a base die's queue, in lines. -/
def occSample (s : State) (n : Nat) : State :=
  let lines := queueLines s n
  let o := mapGet (0, 0, 0) s.pot.occ n
  { s with pot := { s.pot with occ := mapSet s.pot.occ n (o.1 + 1, o.2.1 + lines, Nat.max o.2.2 lines) } }

def execStackOccSample (stack : Nat) (s : State) : Answer := onUnit (decide (stack < 24)) (occSample s stack)

/-- The object and page that a frame carries. -/
def pageOfFrame (s : State) (f : Nat) : Option (Nat × Nat) :=
  (s.pot.objs.filterMap (fun p => (p.2.pages.findIdx? (fun q => q.frame == f && q.remote.isNone)).map (fun i => (p.1, i)))).head?

/-- The stack's tracker counts an access to a page (09 R224). -/
def track (s : State) (f : Nat) : State :=
  match pageOfFrame s f with
  | some (h, i) =>
    let k := h * 65536 + i
    { s with pot := { s.pot with tracker := mapPut 0 s.pot.tracker k (mapGet 0 s.pot.tracker k + 1) } }
  | none => s

/-- The frame is a shared page with more than one holder: it is not written (09 R221). -/
def sharedHeld (s : State) (f : Nat) : Bool :=
  decide (1 < refCount s f) && s.pot.objs.any (fun o => o.2.pages.any (fun p => p.frame == f && p.remote.isNone && p.shared))

/-! ### STOCKPOT_WINDOW_END (09 R224, R225) -/

/-- SK_OCC of a stack at the window's end: the mean, rounded down, and the highest sample. -/
def occWord (o : Nat × Nat × Nat) : W32 := BitVec.ofNat 32 ((if o.1 = 0 then 0 else o.2.1 / o.1) + 65536 * o.2.2)

def latchOcc (s : State) : State :=
  { (List.range 24).foldl (fun s n => wr s (skReg n 4) (occWord (mapGet (0, 0, 0) s.pot.occ n))) s with
    pot := { s.pot with occ := [] } }

def skMean (s : State) (n : Nat) : Nat := rdF s (skReg n 4) 9 0

def upStacks (s : State) : List Nat := (List.range 24).filter (skUp s)

/-- HOT_RATIO below 17 is taken as 17. -/
def hotRatio (s : State) : Nat := Nat.max 17 (rdF s (spReg 4) 7 0)

/-- MEAN > HOT_RATIO / 16 times the mean of the MEANs of the UP stacks, and at least MIN_OCC. -/
def isHot (s : State) (n : Nat) : Bool :=
  let up := upStacks s
  up.contains n && decide (hotRatio s * (up.map (skMean s)).sum < 16 * up.length * skMean s n) &&
  decide (rdF s (spReg 4) 31 24 ≤ skMean s n)

/-- Insert by descending key, the lower value first among equals. -/
def insDesc (key : Nat → Nat) (x : Nat) : List Nat → List Nat
  | [] => [x]
  | y :: l => if key y < key x ∨ (key y = key x ∧ x < y) then x :: y :: l else y :: insDesc key x l

def sortDesc (key : Nat → Nat) (l : List Nat) : List Nat := l.foldl (fun a x => insDesc key x a) []

/-- The frame of a tracked page, by its key. -/
def trackedPage (s : State) (k : Nat) : Option Page := pageAt s (k / 65536) (k % 65536 * frameBytes)

/-- A stack's tracker: the 64 pages with the most accesses, in descending order. -/
def stackTracker (s : State) (n : Nat) : List Nat :=
  let ks := (s.pot.tracker.map Prod.fst).filter (fun k =>
    match trackedPage s k with
    | some p => p.remote.isNone && stackOf p.frame == n
    | none => false)
  (sortDesc (fun k => mapGet 0 s.pot.tracker k) ks).take 64

/-- A page that may move: not pinned, not migrating (09 R225). -/
def mayMove (s : State) (k : Nat) : Bool :=
  match trackedPage s k with
  | some p => !p.pinned && !p.migrating && !p.lost
  | none => false

def objSecure (s : State) (h : Nat) : Bool := (objAt s h).any (fun o => o.secure)

/-- A stack has a free frame in a world. -/
def stackHasFree (s : State) (secure : Bool) (n : Nat) : Bool := (findFrame s secure n 0 stackFrames).isSome

/-- Counts of tracked pages per stack as moves are planned. -/
structure Plan where
  held  : SMap Nat
  moves : List (Nat × Nat × Nat)       -- (handle, page, stack), in order

/-- The stack a page goes to: the non-hot UP stack of lowest MEAN with a free frame that holds fewer tracked pages than
the source less 1. The example of R227 shares six pages out among six stacks, which this rule does not (log 153). -/
def moveTo (s : State) (hot : List Nat) (pl : Plan) (src : Nat) (secure : Bool) : Option Nat :=
  let ok := (upStacks s).filter (fun n => !hot.contains n && decide (mapGet 0 pl.held n + 1 < mapGet 0 pl.held src) && stackHasFree s secure n)
  ok.foldl (fun b n => match b with | some m => if skMean s n < skMean s m then some n else b | none => some n) none

/-- One hot stack gives pages while it holds more than `limit`, at most `cap` moves in the window. -/
def planStack (s : State) (hot : List Nat) (limit cap src : Nat) (pl : Plan) : List Nat → Plan
  | [] => pl
  | k :: ks =>
    if limit < mapGet 0 pl.held src ∧ pl.moves.length < cap ∧ mayMove s k = true then
      match moveTo s hot pl src (objSecure s (k / 65536)) with
      | some d => planStack s hot limit cap src
          { held := mapSet (mapSet pl.held src (mapGet 0 pl.held src - 1)) d (mapGet 0 pl.held d + 1)
            moves := pl.moves ++ [(k / 65536, k % 65536, d)] } ks
      | none => planStack s hot limit cap src pl ks
    else planStack s hot limit cap src pl ks

/-- The moves of a window (09 R225 step 2). -/
def planMoves (s : State) (hot : List Nat) : List (Nat × Nat × Nat) :=
  let tr := (List.range 24).map (fun n => (n, stackTracker s n))
  let limit := ceilDiv (tr.map (fun t => t.2.length)).sum 24 + 1
  let cap := rdF s (spReg 4) 15 8
  let pl0 : Plan := { held := tr.map (fun t => (t.1, t.2.length)), moves := [] }
  ((sortDesc (skMean s) hot).foldl (fun pl n => planStack s hot limit cap n pl (stackTracker s n)) pl0).moves

/-- Start the first planned migration whose page may still move (09 R225, R226 step 1). -/
def startMove (s : State) : List (Nat × Nat × Nat) → State
  | [] => { s with pot := { s.pot with migPlan := [] } }
  | m :: ms =>
    let k := m.1 * 65536 + m.2.1
    match objAt s m.1, trackedPage s k with
    | some o, some p =>
      match mayMove s k, findFrame s o.secure m.2.2 (Config.freeNat s.freeNo % stackFrames) stackFrames with
      | true, some f =>
        let s := useFree (takeFrame (setObj s m.1 (setPage o m.2.1 { p with migrating := true })) f)
        lowCheck { s with pot := { s.pot with
          migs := s.pot.migs ++ [{ handle := m.1, page := m.2.1, dest := f, rounds := 0 }], migPlan := ms } }
      | _, _ => startMove s ms
    | _, _ => startMove s ms

/-- A new key (09 R223, R225). -/
def drawKey (s : State) : State :=
  let s := useFree { s with pot := { s.pot with key := Config.entropy64 s.freeNo } }
  incWrap s (spReg 0x10) 1

/-- REKEY_MIN ms have passed since the last rekey; 0 is taken as 1. -/
def rekeyDue (s : State) : Bool :=
  match s.pot.rekeyAt with
  | none => true
  | some t => decide (Nat.max 1 (rdF s (spReg 4) 23 16) * msCycles ≤ elapsed s t)

def rekey (s : State) : State :=
  if rbit s (spReg 0) 1 && rekeyDue s then
    incWrap { drawKey s with pot := { (drawKey s).pot with rekeyAt := some s.rackTime } } (spReg 0x28) 1
  else s

/-- Rack time stands at a boundary of the 1 ms windows, one that no window has ended at yet (04 R98, 09 R224). -/
def windowDue (s : State) (last : Option W64) : Bool := s.rackTime.toNat % msCycles == 0 && last != some s.rackTime

def windowEnd (s : State) : State :=
  let s := latchOcc { s with potWinAt := some s.rackTime }
  let hot := (upStacks s).filter (isHot s)
  let s := { s with pot := { s.pot with migPlan := [] } }
  let s := if hot.isEmpty then s
    else
      let s := rekey s
      if rbit s (spReg 0) 0 then startMove s (planMoves s hot) else s
  { s with pot := { s.pot with tracker := [] } }

def execStockpotWindowEnd (s : State) : Answer := .next (if windowDue s s.potWinAt then windowEnd s else s)

/-- R225: the next planned migration of the window starts. -/
def execPageMigrateStart (s : State) : Answer := .next (startMove s s.pot.migPlan)

/-! ### PAGE_MIGRATE_ROUND (09 R226) -/

def findMig (s : State) (h i : Nat) : Option Migration := s.pot.migs.find? (fun m => m.handle == h && m.page == i)
def dropMig (s : State) (h i : Nat) : State :=
  { s with pot := { s.pot with migs := s.pot.migs.filter (fun m => !(m.handle == h && m.page == i)) } }

/-- A frame leaves the pool's use without a page having been freed. -/
def putBack (s : State) (f : Nat) : State := leaveFrame s f false

/-- Every table that names the old frame names the new one. -/
def switchFrame (old new : Nat) (o : Obj) : Obj :=
  { o with pages := o.pages.map (fun p => if p.frame == old && p.remote.isNone then { p with frame := new, migrating := false } else p) }

/-- A migration is given up: the entry keeps its frame. -/
def abandonMig (s : State) (m : Migration) : State :=
  let s := dropMig s m.handle m.page
  let s := match objAt s m.handle with
    | some o => match o.pages[m.page]? with
      | some p => setObj s m.handle (setPage o m.page { p with migrating := false })
      | none => s
    | none => s
  putBack s m.dest

/-- The entry is switched to the new frame, which holds what the old one held. -/
def switchMig (s : State) (m : Migration) (old : Nat) : State :=
  let s := dropMig s m.handle m.page
  let s := { s with pot := { s.pot with objs := s.pot.objs.map (fun p => (p.1, switchFrame old m.dest p.2)) } }
  let s := setRef s m.dest (refCount s old)
  putBack (incWrap s (spReg 0x24) 1) old

/-- A copy round ends: with no dirty block the entry is switched; a page that needs a fifth round stays, and so does one
with an uncorrectable line (DESIGN CHOICE, log 154). -/
def migrateRound (s : State) (h i : Nat) : State :=
  match findMig s h i, trackedPage s (h * 65536 + i) with
  | some m, some p =>
    if m.dirty.isEmpty then
      let r := copyLines s (p.frame * frameBytes) (m.dest * frameBytes) frameBytes
      if r.1 then switchMig r.2 m p.frame else abandonMig r.2 m
    else if 4 ≤ m.rounds + 1 then abandonMig s m
    else { s with pot := { s.pot with migs := s.pot.migs.map (fun x =>
      if x.handle == h && x.page == i then { x with rounds := x.rounds + 1, dirty := [] } else x) } }
  | _, _ => s

def execPageMigrateRound (handle page : Nat) (s : State) : Answer := .next (migrateRound s handle page)

/-! ### COPY_ON_WRITE (09 R221) -/

/-- The page a frame of the instance has reserved for a copy of the context. -/
def cowPage (i : Instance) (h : Nat) : Option Page :=
  ((i.flight.map (fun f => f.cow)).flatten.find? (fun c => c.1 == h)).map Prod.snd

def useCow (h : Nat) : List Flight → List Flight
  | [] => []
  | f :: fs => if f.cow.any (fun c => c.1 == h) then { f with cow := f.cow.filter (fun c => c.1 != h) } :: fs else f :: useCow h fs

/-- The copy of a shared page: FILL x 4 KiB into the new frame, the entry points at it, the old count falls by one. An
uncorrectable line ends it before the entry changes. A page on a peer is copied by requests (DESIGN CHOICE, log 177). -/
def cowCopy (s : State) (slot h i : Nat) (o : Obj) (p q : Page) : State :=
  let r := if p.remote.isSome || q.remote.isSome then (true, s)
    else copyLines s (p.frame * frameBytes) (q.frame * frameBytes) (4096 * p.fill)
  if r.1 then
    let s := setObj r.2 h (setPage o i { q with fill := p.fill })
    let s := setRef s (refKey p) (refCount s (refKey p) - 1)
    incWrap (modInst s slot (fun x => { x with flight := useCow h x.flight })) (spReg 0x20) 1
  else r.2

/-- R221: before the first write to a shared page by a context; with a count of 1 the page is written in place. -/
def copyOnWrite (s : State) (slot h i : Nat) : State :=
  match instOf s slot, objAt s h with
  | some x, some o =>
    match o.pages[i]? with
    | some p =>
      if p.shared && !p.lost && o.inst == slot then
        let s := match findMig s h i with | some m => abandonMig s m | none => s
        let o := (objAt s h).getD o
        let p := { p with migrating := false }
        if refCount s (refKey p) ≤ 1 then setObj s h (setPage o i { p with shared := false })
        else match cowPage x h with
          | some q => cowCopy s slot h i o p q
          | none => s
      else s
    | none => s
  | _, _ => s

def execCopyOnWrite (slot handle page : Nat) (s : State) : Answer := onUnit (decide (slot < 64)) (copyOnWrite s slot handle page)

/-! ### Pages held for other parts (09 R228, R229) -/

/-- Grant one frame while the free count is at or above LOW: a pinned page of the requester's world. -/
def grantFrame (s : State) (peer : Nat) (secure : Bool) : State :=
  let h := heldHandle peer secure
  let o := (objAt s h).getD { inst := 64, secure := secure }
  if spFree s < spLow s ∨ maxPages ≤ o.pages.length then s
  else
    match allocPage s secure h o.pages.length with
    | some (p, s) =>
      let s := setObj s h { o with pages := o.pages ++ [{ p with pinned := true }] }
      remoteIn { s with pot := { s.pot with
        lapsed := s.pot.lapsed.filter (fun x => x != (peer, p.frame))
        seen := if (mapFind s.pot.seen peer).isSome then s.pot.seen else mapSet s.pot.seen peer s.rackTime } } 1
    | none => s

def grantFrames (peer : Nat) (secure : Bool) : Nat → State → State
  | 0, s => s
  | n + 1, s => grantFrames peer secure n (grantFrame s peer secure)

def execRemotePageRequest (peer : Nat) (secure : Bool) (frames : Nat) (s : State) : Answer :=
  .next (grantFrames peer secure frames s)

/-- Pages of a class 7 object go. -/
def releaseFrom (s : State) (h : Nat) (fs : List Nat) : State :=
  match objAt s h with
  | none => s
  | some o =>
    let out := (o.pages.map (fun p => p.frame)).filter (fun f => fs.contains f)
    let rest := o.pages.filter (fun p => !fs.contains p.frame)
    let s := if rest.isEmpty then delObj s h else setObj s h { o with pages := rest }
    let s := { s with pot := { s.pot with lapsed := s.pot.lapsed ++ out.map (fun f => (heldPeer h, f)) } }
    out.foldl freeFrame (remoteIn s (-(out.length : Int)))

/-- Free some of the frames held for a part. -/
def releaseHeld (s : State) (peer : Nat) (fs : List Nat) : State :=
  let s := releaseFrom (releaseFrom s (heldHandle peer false) fs) (heldHandle peer true) fs
  if (heldFrames s peer).isEmpty then { s with pot := { s.pot with seen := mapDel s.pot.seen peer } } else s

def execRemotePageRelease (peer : Nat) (frames : List Nat) (s : State) : Answer := .next (releaseHeld s peer frames)

/-- R229: no access from the requester for 1 s. -/
def holdExpiry (s : State) (peer : Nat) : State :=
  match mapFind s.pot.seen peer with
  | some t => if 1000 * msCycles ≤ elapsed s t then releaseHeld s peer (heldFrames s peer) else s
  | none => s

def execRemoteHoldExpiry (peer : Nat) (s : State) : Answer := .next (holdExpiry s peer)

/-- Every access of the requester to one of its pages renews the holding. -/
def renewHold (s : State) (peer f : Nat) : State :=
  if (heldFrames s peer).contains f then { s with pot := { s.pot with seen := mapSet s.pot.seen peer s.rackTime } } else s

end Sys2Proof.Machine
end

