-- ==== Sys2Proof/Machine/Calib.lean ====
section
/-! DEFINITION. Whole-tile calibration runs: requests, cover and holds, the measurements and their agreement, and what a
run leaves in the tile's calibration registers (07). -/

namespace Sys2Proof.Machine

/-! ### Fall-back slots of a core (04 R104, 05 R142) -/

def fbCap (s : State) (site : Nat) : Nat := rdF s (sfbReg site 0) 1 0

/-- Slots the core's grants take: one for each member. -/
def grantSlots (s : State) (site : Nat) : Nat := ((coreAt s site).grants.map (fun h => (chainMembers s site h).length)).sum

/-- Slots that a new grant may take: a stand-in takes one of FB_CAP, or one beyond them when FB_CAP is 0. -/
def freeSlots (s : State) (site : Nat) : Nat :=
  fbCap s site - (if (coreAt s site).standIn.isSome then 1 else 0) - grantSlots s site

def setFbState (s : State) (site head v : Nat) : State := wrF s (sfbSlotReg site head 8) 1 0 v

/-- A row of the slice's shadow copy is lost: it is granted no fall-back (20 R458). -/
def sliceLost (s : State) (site head : Nat) : Bool :=
  (chainMembers s site head).any (fun t => !(tileAt s (tkey site t)).lostRows.isEmpty)

/-- The slice can be granted a slot now. -/
def canGrant (s : State) (site head : Nat) : Bool :=
  decide ((chainMembers s site head).length ≤ freeSlots s site) && !sliceLost s site head

/-- A grant is made: the shadow block of each member is loaded into a slot block of the core (04 R103). -/
def addGrant (s : State) (site head : Nat) : State :=
  let s := (chainMembers s site head).foldl (fun s t => loadBlock s site (tkey site t)) s
  setFbState (modCore s site (fun c => { c with grants := head :: c.grants })) site head 1

/-- A stand-in's block takes a place that has come free (05 R141). -/
def standinLoad (s : State) (site : Nat) : State :=
  match (coreAt s site).standIn with
  | some (f, t) => if (coreAt s f).blocksIn then loadBlock s site (tkey f t) else s
  | none => s

/-- A grant ends, and with it its slot blocks. -/
def takeGrant (s : State) (site head : Nat) : State :=
  let s := dropBlocks s site ((chainMembers s site head).map (tkey site))
  standinLoad (modCore s site (fun c => { c with
    grants := setDel c.grants head
    grantEnds := setDel c.grantEnds head
    covers := setDel c.covers head
    coverEnds := setDel c.coverEnds head })) site

/-- A grant that covers a refresh in place or a run (06 R154, 07 R177). -/
def coverGrant (s : State) (site head : Nat) : State :=
  modCore (addGrant s site head) site (fun c => { c with covers := setAdd c.covers head, coverEnds := setDel c.coverEnds head })

/-- The cover is no longer needed: the grant ends at the next pass boundary. -/
def endCover (s : State) (site head : Nat) : State :=
  modCore s site (fun c => if c.covers.contains head then { c with coverEnds := setAdd c.coverEnds head } else c)

/-! ### The slice and the instance of a tile -/

/-- The instance whose passes a tile serves. -/
def tileOwner (s : State) (k : Nat) : Option Owner :=
  match memberOf s k with
  | some m => (tileAt s m).owner
  | none => none

/-- A pass boundary of the instance: no pass runs, or the one that starts has reached no chain of this slice. -/
def atBoundary (s : State) (m : Nat) : Bool :=
  match (tileAt s m).owner with
  | none => true
  | some o =>
    match instOf s o.slot with
    | none => true
    | some i => i.passStep.isNone ||
        ((tileAt s (tkey (m / 32) (headOf s (m / 32) (m % 32)))).nextVec == 0 && !chainBusy s (m / 32) (headOf s (m / 32) (m % 32)))

/-- µs of rack time since a time, to the nearest. -/
def usSince (s : State) (t : W64) : Nat := (roundHalfUp (4 * (elapsed s t : Int)) 625).toNat

/-- A longest-wait register: 12 bits, kept at the greatest value seen. -/
def keepMax (s : State) (o us : Nat) : State :=
  if rdF s o 11 0 < us then wrF s o 11 0 (Nat.min us 0xFFF) else s

/-! ### The spare tile (06 R151) -/

/-- WEAR_WARN percent of the endurance; 0 taken as 90. -/
def wearLimit (s : State) : Nat :=
  let p := rdF s (chReg 8) 31 24
  (if p = 0 then 90 else p) * 1000

/-- The slots of a spare tile's pair. -/
def pairSlots (k : Nat) : List Nat :=
  let lo := spareKey k / 32
  let sites := if lo % 25 = 10 then [lo, lo + 1, lo + 2] else [lo, lo + 1]
  (sites.map (fun c => (List.range 16).map (fun t => tkey c t))).flatten

/-- The spare tile is being made ready for a slot of its pair: H1 to H3 (06 R153). -/
def spareHeld (s : State) (k : Nat) : Bool :=
  (pairSlots k).any (fun m => let r := (tileAt s m).refresh; decide (r = some .h1) || decide (r = some .h2) || decide (r = some .h3))

/-- The spare tile is IDLE, serves no tile and is being made ready for none. -/
def spareIdle (s : State) (k : Nat) : Bool :=
  let sp := spareKey k
  k % 32 != 16 && tileState s sp == 1 && (tileAt s sp).serves.isNone && (tileAt s sp).prog.isNone &&
  (tileAt s sp).calRun.isNone && !spareHeld s k

/-- It is available: idle, not worn, and able to hold the tile's values (06 R151, R152). -/
def spareAvailable (s : State) (k : Nat) : Bool :=
  spareIdle s k && decide ((arrayAt s (spareKey k)).cycles < wearLimit s) && !(tileAt s k).noSpare

/-- H1: the spare tile of a slot enters PROGRAMMING to take a job's values. -/
def placeSpareJob (s : State) (m : Nat) (j : ProgJob) : State :=
  let sp := spareKey m
  let s := modTile s sp (fun t => { t with prog := some j, lastServed := some m })
  modTile (setTileState s sp 3) m (fun t => { t with refresh := some .h1 })

/-- H1 with the slot's placed values. -/
def placeSpare (s : State) (m : Nat) (why : ProgFor) : State := placeSpareJob s m (replaceJob s m why)

/-! ### CAL_RUN_START (07 R174, R177, R178) -/

/-- Tiles with a pending request. -/
def calPending (s : State) : List Nat :=
  s.cw.filterMap (fun p =>
    match regBlock p.1 with
    | .tile k 0x1000 => if fld p.2 4 3 = 0 then none else some k
    | _ => none)

/-- Tiles in CALIBRATING. -/
def calRunning (s : State) : Nat :=
  (s.cw.filter (fun p =>
    match regBlock p.1 with
    | .tile _ 4 => fld p.2 2 0 == 4
    | _ => false)).length

/-- The initial calibration: every array takes one reference run in start-up stage 6 (07 R181, 19 Table 19.2). -/
def initialCal (s : State) (k : Nat) : Bool :=
  s.life.partState == psStarting && s.life.stage == 6 && (tileAt s k).passK5.isNone && (tileAt s k).calRun.isNone && tileState s k == 1 && !rbit s (tileReg k 4) 7

/-- The tile is in no refresh, or at a step of one that waits for a run: H5, or H4 where the spare covers a run. -/
def refreshRuns (t : TileSt) : Bool :=
  (t.refresh.isNone && !t.coverRun) || decide (t.refresh = some .h5) || (t.coverRun && decide (t.refresh = some .h4))

/-- The request of a tile could start now. -/
def startable (s : State) (k : Nat) : Bool :=
  calStatus s k 4 3 != 0 && (tileAt s k).calRun.isNone && refreshRuns (tileAt s k) &&
  (tileState s k == 1 || (tileState s k == 2 && (match memberOf s k with | some m => atBoundary s m | none => false)))

/-- Requests are served in row order, then by ascending site and slot; a run after an in-place rewrite comes first
(07 R174, R179). -/
def calRank (s : State) (k : Nat) : Nat := (if (tileAt s k).calFirst then 0 else calStatus s k 12 10) * 0x10000 + k

def calFirstOf (s : State) (k : Nat) : Bool :=
  !(calPending s).any (fun j => startable s j && decide (calRank s j < calRank s k))

/-- K1. -/
def calBegin (s : State) (k cls row st : Nat) (cover : CalCover) : State :=
  let r : CalRun := { cls := cls, row := row, temp := tileTemp s k, time := s.rackTime, cover := cover, prior := tileState s k }
  let s := modTile s k (fun t => { t with calRun := some r, calFirst := false })
  let s := setCalStatus (setCalStatus (calClear s k) k 0 0 1) k 2 1 cls
  setTileState s k st

/-- The holds of an instance start at one pass boundary, and not again until HOLD_GAP ms have passed (07 R178). -/
def holdAllowed (s : State) (k slot : Nat) : Bool :=
  (tileAt s k).calFirst ||
  match instOf s slot with
  | none => true
  | some i => match i.holdAt with
    | none => true
    | some t => t == s.rackTime || decide (rdF s (calReg 4) 23 16 * msCycles ≤ elapsed s t)

/-- A run on a SERVING tile, under the first cover that applies (07 R177). -/
def calServing (s : State) (k m : Nat) (o : Owner) : State :=
  let site := m / 32
  let head := headOf s site (m % 32)
  let cls := calStatus s k 4 3
  let row := calStatus s k 12 10
  if fbState s site head = 1 then calBegin s k cls row 2 .none
  else if rbit s (calReg 4) 8 && canGrant s site head then calBegin (coverGrant s site head) k cls row 2 .grant
  else if rbit s (calReg 4) 9 && cls == 2 && k == m && spareAvailable s k then
    modTile (placeSpare s m .cover) m (fun t => { t with coverRun := true })
  else if holdAllowed s k o.slot then
    let s := if (tileAt s k).calFirst then s else modInst s o.slot (fun i => { i with holdAt := some s.rackTime })
    modTile (calBegin s k cls row 4 .hold) k (fun t => { t with holdFrom := some s.rackTime, noSpare := false })
  else s

/-- R177: a pending request is served; CONC tiles at most are in CALIBRATING. -/
def calRunStart (s : State) (k : Nat) : State :=
  if initialCal s k then
    if calRunning s < Nat.max 1 (rdF s (calReg 4) 7 0) then calBegin s k 1 0 4 .none else s
  else if !startable s k then s
  else if Nat.max 1 (rdF s (calReg 4) 7 0) ≤ calRunning s ∨ calFirstOf s k = false then s
  else if tileState s k = 1 then
    calBegin s k (calStatus s k 4 3) (calStatus s k 12 10) 4 (if (tileAt s k).coverRun then .spare else .none)
  else
    match memberOf s k with
    | none => s
    | some m =>
      match (tileAt s m).owner with
      | some o => calServing s k m o
      | none => s

def execCalRunStart (site slot : Nat) (s : State) : Answer := onUnit (tileWf site slot) (calRunStart s (tkey site slot))

/-! ### CAL_STAGE_COMPLETE (07 Table 07.2) -/

def setRun (s : State) (k : Nat) (r : CalRun) : State := modTile s k (fun t => { t with calRun := some r })

/-- The generator of a half of K6 (14 Table 14.3). -/
def k6Seed (k half : Nat) (time : W64) : W64 :=
  nonZeroSeed (BitVec.ofNat 64 (leAt (shake256 8 (leBytes 4 (k / 32) ++ leBytes 1 (k % 32) ++ leBytes 1 half ++ leBytes 8 time.toNat)) 0 8))

/-- The ideal sum of a pattern: of each pair of rows of its group the bit selects one (07 R172). -/
def k6Ideal (w : Nat → Int) (p bits : Nat) : Int :=
  ((List.range 64).map (fun i => w (128 * (p % 4) + 2 * i + nbits bits i i))).sum

/-- 16 Σ measured x ideal and Σ ideal² over `n` patterns; saturated conversions are left out. A code is taken with the
dither of calibration conversions, -2, -1, 0, +1 (07 R169). -/
def k6Fold (w : Nat → Int) (step : Nat) : Nat → Nat → W64 → List Int → Int × Nat → Int × Nat
  | 0, _, _, _, acc => acc
  | n + 1, p, g, codes, acc =>
    let d := lfsrDraw 64 g 0
    let ideal := k6Ideal w p d.1
    let v := codes.headD 0
    k6Fold w step n (p + 1) d.2 codes.tail
      (if v < -64 ∨ 63 < v then acc
       else (acc.1 + (4 * v - ((p % 4 : Nat) - 2)) * 2 ^ step * ideal, acc.2 + ideal.natAbs ^ 2))

/-- The fit of a physical column that carries logical column `c`, from the codes of the two halves. -/
def colFit (s : State) (k j c : Nat) (time : W64) (codes : List Int) : ColFit :=
  let t := tileAt s ((contentsOf s k).getD k)
  let half (h : Nat) : Int × Nat :=
    k6Fold (fun r => shadowW t r c) (colStep s k c) 8192 0 (k6Seed k h time) ((codes.drop (8192 * h)).take 8192) (0, 0)
  { col := j, num1 := (half 0).1, den1 := (half 0).2, num2 := (half 1).1, den2 := (half 1).2 }

/-- The fits of the columns in service. -/
def colFits (s : State) (k : Nat) (time : W64) (codes : List (List Int)) : List ColFit :=
  (List.range 512).map (fun c => colFit s k (physColumn s k c) c time (codes.getD (physColumn s k c) []))

/-- The stages follow one another in the order of the table, K6 in a column run only. K3 gives the sets of all 521
converters, K6 the codes of all 520 columns. -/
def calStage (s : State) (k : Nat) (m : CalMeasure) : State :=
  match (tileAt s k).calRun with
  | none => s
  | some r =>
    match r.stage, m with
    | .k1, .settled => setRun s k { r with stage := .k2 }
    | .k2, .trims l => if l.length = 521 then setRun s k { r with stage := .k3, adc := l } else s
    | .k3, .refs x => setRun s k { r with stage := .k4, refs := some x }
    | .k4, .columns l => if r.cls = 2 ∧ l.length = 520 then setRun s k { r with stage := .k6, cols := colFits s k r.time l } else s
    | _, _ => s

def execCalStageComplete (site slot : Nat) (meas : CalMeasure) (s : State) : Answer :=
  onUnit (tileWf site slot) (calStage s (tkey site slot) meas)

/-! ### Agreement (07 R170, R172, R173) -/

/-- Two readings in 1/64 LSB agree. -/
def adcAgree (s : State) (a b : Int) : Bool := (a - b).natAbs ≤ rdF s (calReg 0) 15 8

def setsAgree (s : State) (a : AdcSets) : Bool :=
  adcAgree s a.zeroA a.zeroB && adcAgree s a.plusA a.plusB && adcAgree s a.minusA a.minusB

/-- n1 / d1 and n2 / d2, both denominators positive, agree within SCALE_TOL steps of 0.01 %. -/
def scaleAgree (s : State) (n1 d1 n2 d2 : Int) : Bool :=
  0 < d1 && 0 < d2 && (n1 * d2 - n2 * d1).natAbs * 10000 ≤ rdF s (calReg 0) 23 16 * (d1 * d2).natAbs

/-- The test-input span of one reading, and the reference span. -/
def tiSpan (r : RefReads) : Int × Int := (r.tiPlus.1 - r.tiMinus.1, r.tiPlus.2 - r.tiMinus.2)
def refSpan (r : RefReads) : Int × Int := (r.ref1.1 - r.ref2.1, r.ref1.2 - r.ref2.2)

def nearZero (s : State) (x : Int × Int) : Bool := adcAgree s x.1 0 && adcAgree s x.2 0

def refsAgree (s : State) (r : RefReads) : Bool :=
  scaleAgree s (tiSpan r).1 6144 (tiSpan r).2 6144 &&
  scaleAgree s (refSpan r).1 (tiSpan r).1 (refSpan r).2 (tiSpan r).2 &&
  nearZero s r.ref0 && nearZero s r.ref3

/-- A half that shows too little of a column leaves its scale at 1.0. -/
def colThin (c : ColFit) : Bool := c.den1 < 4096 || c.den2 < 4096

def colAgree (s : State) (c : ColFit) : Bool := colThin c || scaleAgree s c.num1 (16 * c.den1) c.num2 (16 * c.den2)

/-- The converters that count, with their sets: those that have not failed. -/
def adcSets (s : State) (k : Nat) (l : List AdcSets) : List (Nat × AdcSets) :=
  (l.zipIdx.map (fun x => (x.2, x.1))).filter (fun a => a.1 ≤ 520 && !rbit s (tileReg k (0x1200 + 4 * a.1)) 30)

/-- The whole run agrees, and is complete. -/
def runPasses (s : State) (k : Nat) (r : CalRun) : Bool :=
  (adcSets s k r.adc).all (fun a => setsAgree s a.2) &&
  (match r.refs with | some x => refsAgree s x | none => false) && r.cols.all (colAgree s)

/-- A run ends after K4, or after K6 in a column run. -/
def runDone (r : CalRun) : Bool := (r.cls == 1 && decide (r.stage = .k4)) || (r.cls == 2 && decide (r.stage = .k6))

/-! ### What a run leaves (07 R167, R168, R172) -/

/-- The step of the column a converter converts; 2 for converter 520 (07 R169). -/
def convStep (s : State) (k i : Nat) : Nat :=
  if i = 520 then 2
  else if i < 512 then colStep s k i
  else colStep s k (rdF s (tileReg k (0x20 + 4 * (i - 512))) 8 0)

/-- Write a calibration word: staged where the tile serves, in force at once elsewhere (07 R176). -/
def wrCal (s : State) (serving : Bool) (o : Nat) (v : W32) : State := if serving then wrStage s o v else wrBoth s o v

def wrCalF (s : State) (serving : Bool) (o hi lo v : Nat) : State := wrCal s serving o (setFld (rd s o) hi lo v)

/-- OFFSET and GAIN of a converter from its two sets (07 R169): rounded to nearest with ties to even, and clamped to their
ten bits (DESIGN CHOICE, log 149). -/
def trimWord (s : State) (k i : Nat) (a : AdcSets) : W32 :=
  let off := clampI (-512) 511 (roundEven ((a.zeroA + a.zeroB) * 2 ^ convStep s k i) 2)
  let gain := clampI (-512) 511 (roundEven (a.plusA + a.plusB - a.minusA - a.minusB - 12288) 3)
  setFld (setFld (rd s (tileReg k (0x1200 + 4 * i))) 9 0 (unsgn 10 off)) 25 16 (unsgn 10 gain)

def wrTrims (s : State) (serving : Bool) (k : Nat) (l : List AdcSets) : State :=
  (adcSets s k l).foldl (fun s a => wrCal s serving (tileReg k (0x1200 + 4 * a.1)) (trimWord s k a.1 a.2)) s

/-- A ratio in steps of 2^-15. -/
def scaleCode (n : Int) (d : Int) : Nat := (clampI 0 0xFFFF (roundEven (n * 32768) d.toNat)).toNat

def tiCode (r : RefReads) : Nat := scaleCode ((tiSpan r).1 + (tiSpan r).2) 12288
def refCode (r : RefReads) : Nat := scaleCode ((refSpan r).1 + (refSpan r).2) ((tiSpan r).1 + (tiSpan r).2)
def colCode (c : ColFit) : Nat := if colThin c then scaleOne else scaleCode (c.num1 + c.num2) (16 * ((c.den1 : Int) + c.den2))

def wrCols (s : State) (serving : Bool) (k : Nat) (l : List ColFit) : State :=
  (l.filter (fun c => c.col < 520)).foldl (fun s c =>
    wrCalF s serving (tileReg k (0x1B00 + 4 * (c.col / 2))) (16 * (c.col % 2) + 15) (16 * (c.col % 2)) (colCode c)) s

/-- R168: the new temperature coefficient, from the codes of the scales and temperatures in 1/256 °C. -/
def newTc (tc rOld rNew : Nat) (dT : Int) : Nat :=
  let num := 3 * (tc : Int) * rOld * dT + 256000000 * ((rNew : Int) - rOld)
  let num := if dT < 0 then -num else num
  (clampI 500 3000 (roundEven num (4 * rOld * dT.natAbs))).toNat

def wrTc (s : State) (serving : Bool) (k : Nat) (temp : Int) (rNew : Nat) : State :=
  let dT := temp - sgn 16 (rdF s (tileReg k 0x1004) 15 0)
  match (tileAt s k).prevRef with
  | some (rOld, tOld) =>
    if calDt s ≤ (temp - tOld).natAbs ∧ dT ≠ 0 ∧ rOld ≠ 0 then
      wrCalF s serving (tileReg k 0x1008) 15 0 (newTc (rdF s (tileReg k 0x1008) 15 0) rOld rNew dT)
    else s
  | none => s

/-- The values of a run that passes. -/
def runValues (s : State) (serving : Bool) (k : Nat) (r : CalRun) (x : RefReads) : State :=
  let s := wrTrims s serving k r.adc
  let s := wrTc s serving k r.temp (refCode x)
  let s := wrCalF s serving (tileReg k 0x1010) 15 0 (tiCode x)
  let s := wrCalF s serving (tileReg k 0x100C) 15 0 (refCode x)
  let s := wrCalF s serving (tileReg k 0x1004) 15 0 (unsgn 16 r.temp)
  let s := modTile s k (fun t => { t with
    prevRef := some (refCode x, r.temp), tempNext := r.temp, tempNow := if serving then t.tempNow else r.temp })
  if r.cls = 2 then
    wrCalF (wrCols s serving k r.cols) serving (tileReg k 0x1014) 16 0 (arrayAt s k).cycles
  else s

/-! ### Ends of runs -/

/-- CAL_RUN commands that wait for the tile complete (16 Table 16.8). -/
def calAnswer (s : State) (k result : Nat) : State :=
  let w := (tileAt s k).calWait
  let n := (tileAt s k).calTries
  let s := modTile s k (fun t => { t with calWait := [] })
  w.foldl (fun s m => finishOk s m (leBytes 1 result ++ leBytes 1 n ++ zeros 6)) s

/-- The tile went OFF or RETIRED first (07 Table 07.4). -/
def calUnavailable (s : State) (k : Nat) : State :=
  let w := (tileAt s k).calWait
  let s := modTile s k (fun t => { t with calWait := [] })
  w.foldl (fun s m => finishErr s m { st := stTileUnavailable, d0 := tileState s k }) s

/-- The tile leaves CALIBRATING, and a hold's length is kept (07 R177, R178). -/
def calLeave (s : State) (k : Nat) (r : CalRun) : State :=
  let s := setCalStatus s k 0 0 0
  let s := if tileState s k = 4 then (if r.prior = 2 then serveTile s k else setTileState s k 1) else s
  let s := match (tileAt s k).holdFrom with
    | some t => keepMax s (calReg 0x20) (usSince s t)
    | none => s
  let s := modTile s k (fun t => { t with calRun := none, holdFrom := none, lastK5 := some s.rackTime })
  match r.cover, memberOf s k with
  | .grant, some m => endCover s (m / 32) (headOf s (m / 32) (m % 32))
  | _, _ => s

/-- The next step of a refresh whose run has passed: H3 on the spare tile, H6 on the tile itself (06 Table 06.3). -/
def refreshCal (s : State) (k : Nat) : State :=
  match contentsOf s k with
  | none => s
  | some m =>
    match (tileAt s m).refresh with
    | some .h2 => if k % 32 = 16 then modTile s m (fun t => { t with refresh := some .h3 }) else s
    | some .h5 => if k = m then modTile s m (fun t => { t with refresh := some .h6 }) else s
    | _ => s

def calPass (s : State) (k : Nat) (r : CalRun) (x : RefReads) : State :=
  let s := calLeave s k r
  let s := runValues s (tileState s k == 2) k r x
  let s := setCalStatus s k 6 5 0
  let s := if r.cls = 2 then setCalStatus s k 7 7 1 else s
  let s := wbit s (tileReg k 4) 7 false
  let s := incWrap s (tileReg k 0x1018) 1
  let s := modTile s k (fun t => { t with 
    alarmRun := 0, passK5 := some s.rackTime, calTries := t.calTries + 1, driftRef := t.driftRef || t.driftArm, driftArm := false })
  let s := if r.row = 2 then modTile s k (fun t => { t with driftDone := some s.rackTime }) else s
  let s := refreshCal s k
  -- a column run that the spare tile covered: H7 follows (07 R177 step 3)
  let s := if (tileAt s k).coverRun then modTile s k (fun t => { t with refresh := some .h6 }) else s
  modTile (calAnswer s k 0) k (fun t => { t with calTries := 0 })

/-- R170, R173: the tile becomes CAL_FAILED; its values go to the spare where that is IDLE, else it goes on with the last
values that passed and a fault is recorded. A tile that is CAL_FAILED already stays so. -/
def calFailed (s : State) (k : Nat) : State :=
  if rbit s (tileReg k 4) 7 then s
  else
    let s := signal (incHold (wbit s (tileReg k 4) 7 true) (calReg 0x24) 16 1) 0 67
    if rbit s (chReg 0) 3 && spareIdle s k && (tileAt s k).owner.isSome && (tileAt s k).refresh.isNone then
      modTile (placeSpare s k .retire) k (fun t => { t with retireNext := true })
    else tileFault s 2 11 k

/-- A refresh or a cover that waited for a run that has failed for good: the spare tile is given up before H4, a tile that
the spare covers serves again at the next boundary. -/
def refreshStuck (s : State) (k : Nat) : State :=
  match contentsOf s k with
  | none => s
  | some m =>
    match (tileAt s m).refresh with
    | some .h2 =>
      if k % 32 = 16 then
        modTile s m (fun t => { t with
          refresh := none, coverRun := false, retireNext := false, noSpare := true, due := t.due || !(t.coverRun || t.retireNext) })
      else s
    | some .h4 => if k = m ∧ (tileAt s m).coverRun = true then modTile s m (fun t => { t with refresh := some .h6 }) else s
    | some .h5 => if k = m then modTile s m (fun t => { t with refresh := some .h6 }) else s
    | _ => s

/-- A failed attempt: nothing is staged, and the request is made again; the third in a row marks the tile. -/
def calMiss (s : State) (k : Nat) (r : CalRun) : State :=
  let n := calStatus s k 6 5
  let s := calLeave s k r
  let s := incHold s (tileReg k 0x101C) 16 1
  let s := modTile s k (fun t => { t with calTries := t.calTries + 1 })
  if n < 2 then
    let s := setCalStatus s k 6 5 (n + 1)
    let s := if r.row = 0 then s else setCalStatus (setCalStatus s k 4 3 (Nat.max (calStatus s k 4 3) r.cls)) k 12 10 r.row
    calAnswer s k 1
  else
    let s := refreshStuck (calFailed (setCalStatus s k 6 5 3) k) k
    modTile (calAnswer s k 2) k (fun t => { t with calTries := 0 })

/-- K5. -/
def calRunEnd (s : State) (k : Nat) : State :=
  match (tileAt s k).calRun with
  | none => s
  | some r =>
    if !runDone r then s
    else match r.refs, runPasses s k r with
      | some x, true => calPass s k r x
      | _, _ => calMiss s k r

/-- A run is abandoned without an end (07 Table 07.4, 20 R464). -/
def calAbandon (s : State) (k : Nat) : State :=
  match (tileAt s k).calRun with
  | none => s
  | some r =>
    let s := setCalStatus s k 0 0 0
    let s := modTile s k (fun t => { t with calRun := none, holdFrom := none })
    match r.cover, memberOf s k with
    | .grant, some m => endCover s (m / 32) (headOf s (m / 32) (m % 32))
    | _, _ => s

/-! ### CAL_RUN (16 Table 16.8) -/

/-- OFF or RETIRED. -/
def tileGone (s : State) (k : Nat) : Bool := tileState s k == 0 || tileState s k == 5

def execCalRun (m : MbxId) (s : State) : Answer :=
  let site := reqN s m 8 2
  let slot := reqN s m 10 1
  let cls := reqN s m 11 1
  let k := tkey site slot
  onMbx m (runCmd s m 0x0504 8
    (firstErr [
      fieldCheck s m [(8, decide (site < 800)), (10, tileWf site slot), (11, cls == 1 || cls == 2), reqZero s m 12 4],
      need (!tileGone s k) stTileUnavailable (tileState s k),
      need (cls == 1 || shadowThere s k) stBadParam 11])
    (let s := accept s m
     let s := calTrigger s k 3 cls
     modTile s k (fun t => { t with calWait := t.calWait ++ [mref s m] })))

/-! ### ADC_DWELL_COMPLETE (07 R169-R171, 02 R48) -/

/-- A converter has failed three dwells in a row (07 R170): its column moves to a free spare column, and converter 520
stays on it until the remap is in force. -/
def convFailed (s : State) (k i : Nat) : State :=
  let s := signal (wbit s (tileReg k (0x1200 + 4 * i)) 30 true) 0 67
  let s := setCalStatus s k 9 9 1
  let s := faultRecord s { cls := 1, cause := 10, unit := i, slot := k % 32, inst := tileInst s k, secure := tileSecure s k }
  match spareColFree s k with
  | some n => moveColumn s k n (logicalOf s k i)
  | none => calFailed s k

/-- Converter 520 has failed three self-trims in a row. -/
def spareConvFailed (s : State) (k : Nat) : State := calFailed (wbit s (tileReg k (0x1200 + 4 * 520)) 30 true) k

/-- A dwell of 8 tile passes ends: its sets agree and the trims are taken, or it is repeated. -/
def dwellEnd (s0 : State) (k : Nat) (a : AdcSets) : State :=
  let s := rotStart s0 k
  let i := rotPos s k
  let t := tileAt s k
  if rdFA s (tileReg k 0) 13 13 = 0 ∨ calStatus s k 9 9 = 1 ∨ tileState s k = 0 ∨ tileState s k = 4 ∨ tileState s k = 5
      ∨ (tileState s k = 2 ∧ t.dwell < 8) then s0
  else if setsAgree s a then
    rotAdvance (wrCal s (tileState s k == 2) (tileReg k (0x1200 + 4 * i)) (trimWord s k i a)) k i
  else
    let s := incHold s (tileReg k 0x101C) 16 1
    if t.dwellFails < 2 then modTile s k (fun t => { t with dwell := 0, dwellFails := t.dwellFails + 1 })
    else
      let s := modTile s k (fun t => { t with dwell := 0, dwellFails := 0 })
      if i = 520 then spareConvFailed s k else convFailed s k i

def execAdcDwellComplete (site slot : Nat) (sets : AdcSets) (s : State) : Answer :=
  onUnit (tileWf site slot) (dwellEnd s (tkey site slot) sets)

/-! ### Counters (07 R185) -/

def execCalCntClr (value : W32) (s : State) : Answer :=
  .next (clearIf value 1 [calReg 0x20] (clearIf value 0 (words (calReg 0x10) 4) s))

end Sys2Proof.Machine
end

