-- ==== Sys2Proof/Machine/Health.lean ====
section
/-! DEFINITION. Cell health: the placement of weights on arrays with defective cells, residual records, the writing of
arrays and their commit rows, refresh, and retirement (06 R148-R165, 13 R323-R327). -/

namespace Sys2Proof.Machine

/-! ### The commit row (13 R325) -/

/-- CHECK of 13 Table 13.6. -/
def commitCheck (gen imageId layer block : Nat) : Nat :=
  crc16 (leBytes 4 gen ++ leBytes 4 imageId ++ leBytes 2 layer ++ leBytes 2 block)

/-- Row 512 with FLAG cleared: columns 0-7 at 0, 8-15 at 15. -/
abbrev flagCleared : Nat := 0xFF00

/-- Columns 16-127 and FLAG of a job. -/
def commitWord (j : ProgJob) : Nat :=
  if j.blank then 0
  else 0xFF + 2 ^ 16 * (j.gen % 2 ^ 32) + 2 ^ 48 * (j.imageId % 2 ^ 32) + 2 ^ 80 * (j.layer % 2 ^ 16) +
    2 ^ 96 * (j.block % 2 ^ 16) + 2 ^ 112 * commitCheck (j.gen % 2 ^ 32) (j.imageId % 2 ^ 32) (j.layer % 2 ^ 16) (j.block % 2 ^ 16)

def onesIn (v lo n : Nat) : Nat := ((List.range n).filter (fun i => v / 2 ^ (lo + i) % 2 == 1)).length

/-- An array reads as committed. -/
def committed (a : ArraySt) : Bool :=
  let v := a.commit.toNat
  decide (6 ≤ onesIn v 0 8) && decide (onesIn v 8 8 ≤ 2) &&
  commitNat a 112 16 == commitCheck (commitNat a 16 32) (commitNat a 48 32) (commitNat a 80 16) (commitNat a 96 16)

/-- Some comparators of row 512 read wrong. -/
def flipBits (v : Nat) (l : List Nat) : Nat := l.foldl (fun v i => if i < 1048 then v ^^^ 2 ^ i else v) v

/-- FLAG cleared, the other columns as they were. -/
def clearFlag (a : ArraySt) : ArraySt := { a with commit := BitVec.ofNat 1048 (a.commit.toNat / 65536 * 65536 + flagCleared) }

/-! ### ARRAY_PROGRAM_START (13 R323, R326, 06 R153) -/

/-- Arrays being programmed, and those of them for refresh. -/
def progActive (s : State) : Nat := (s.tiles.filter (fun t => t.2.prog.any (fun j => j.started))).length

def isRefreshJob (j : ProgJob) : Bool := decide (j.why = .refresh)

def refreshActive (s : State) : Nat := (s.tiles.filter (fun t => t.2.prog.any (fun j => j.started && isRefreshJob j))).length

/-- PROG_CTRL.CONC as it is taken, and as the power cap has reduced it (13 Table 13.11, 17 R403). -/
def progConc (s : State) : Nat :=
  let c := clampN 1 1536 (rdF s (imgReg 0) 10 0)
  if s.hk.progEff = 0 then c else Nat.min c s.hk.progEff

/-- A load, a rewrite or a rebuild waits for a slot. -/
def loadWaits (s : State) : Bool :=
  s.tiles.any (fun t => t.2.prog.any (fun j => !j.started && (decide (j.why = .load) || decide (j.why = .rewrite))))

/-- Arrays of a site being programmed for a rebuild (20 R465: two at a time). -/
def rebuildActive (s : State) (site : Nat) : Nat :=
  (s.tiles.filter (fun t => t.1 / 32 == site && t.2.prog.any (fun j => j.started && decide (j.why = .rebuild)))).length

def mayProgram (s : State) (k : Nat) (j : ProgJob) : Bool :=
  decide (progActive s < progConc s) &&
  (!isRefreshJob j || (decide (refreshActive s < Nat.max 1 (rdF s (chReg 4) 23 16)) && !loadWaits s)) &&
  (!decide (j.why = .rebuild) || decide (rebuildActive s (k / 32) < 2))

/-- The first step of a write: the tile is PROGRAMMING and FLAG is cleared. -/
def programStart (s : State) (k : Nat) : State :=
  match (tileAt s k).prog with
  | none => s
  | some j =>
    if j.started ∨ mayProgram s k j = false then s
    else
      let s := modTile s k (fun t => { t with prog := some { j with started := true } })
      let s := setArray s k (clearFlag (arrayAt s k))
      setCalStatus (setTileState s k 3) k 7 7 0

def execArrayProgramStart (site slot : Nat) (s : State) : Answer := onUnit (tileWf site slot) (programStart s (tkey site slot))

/-! ### Retirement (06 R160 step 3) -/

/-- The tile is retired: its values, a job's where one has just been written, go to the spare tile where it is IDLE,
else a fault is recorded. -/
def retireTile (s : State) (k : Nat) (job : Option ProgJob) : State :=
  if rbit s (chReg 0) 3 && spareIdle s k && (tileAt s k).refresh.isNone then
    let j := match job with
      | some j => { j with why := .retire, levels := [], started := false }
      | none => replaceJob s k .retire
    modTile (placeSpareJob s k j) k (fun t => { t with retireNext := true })
  else tileFault s 2 11 k

/-! ### ARRAY_WRITE_COMPLETE (13 R326, 06 R156-R160) -/

/-- A measured range: of a cell of the array, its reference columns and row 512 included, and narrower than 0-15. -/
def defectOk (d : Defect) : Bool :=
  decide (d.row ≤ 512) && decide (d.cell < 1048) && decide (d.lo ≤ d.hi) && decide (d.hi ≤ 15) && !(d.lo == 0 && d.hi == 15)

def sameCell (d e : Defect) : Bool := d.row == e.row && d.cell == e.cell

/-- The map with a measured range: a cell that is in it already takes its new range. -/
def addDefect (l : List Defect) (d : Defect) : List Defect :=
  if l.any (sameCell d) then l.map (fun e => if sameCell d e then d else e) else l ++ [d]

/-- What a measured range makes of a cell: stuck, or worn, where it was not (06 R157). -/
def newlyStuck (l : List Defect) (d : Defect) : Bool := d.lo == d.hi && !l.any (fun e => sameCell d e && e.lo == e.hi)
def newlyWorn (l : List Defect) (d : Defect) : Bool := d.lo != d.hi && !l.any (sameCell d)

/-- The map after the ranges measured in a write, with the cells newly stuck and newly worn. -/
def addDefects (l : List Defect) (ds : List Defect) : List Defect × Nat × Nat :=
  ds.foldl (fun x d => (addDefect x.1 d, x.2.1 + (if newlyStuck x.1 d then 1 else 0), x.2.2 + (if newlyWorn x.1 d then 1 else 0))) (l, 0, 0)

/-- Measuring a range costs the cell two cycles. -/
def measureCycles (m : SMap Nat) (ds : List Defect) : SMap Nat :=
  ds.foldl (fun m d => mapPut 0 m (1048 * d.row + d.cell) (mapGet 0 m (1048 * d.row + d.cell) + 2)) m

/-- The levels of an array written by a job: every service column, and the spare columns in service. -/
def writtenLevels (absorb : Bool) (n : Nat) (ds : List Defect) (j : ProgJob) (place : Nat → Nat) : SMap Nat :=
  let put (m : SMap Nat) (r c phys : Nat) : SMap Nat :=
    let p := placeWeight absorb j.fp4 n ds r phys (jobValue j r c) (jobLevels j r c)
    mapPut 0 (mapPut 0 m (1048 * r + 2 * phys) p.gp) (1048 * r + 2 * phys + 1) p.gm
  (List.range 512).foldl (fun m r =>
    (List.range 512).foldl (fun m c => if place c = c then put m r c c else put (put m r c c) r c (place c)) m) []

/-- The first free spare column that places a column with a lower score (06 R160 step 1). -/
def betterSpare (s : State) (k : Nat) (absorb : Bool) (ds : List Defect) (j : ProgJob) (c score : Nat) : Option Nat :=
  (List.range 8).find? (fun n =>
    rdF s (tileReg k (0x20 + 4 * n)) 16 15 == 0 && !rbit s (tileReg k (0x1200 + 4 * (512 + n))) 30 &&
    decide (colScore (colResiduals absorb s.freeNo ds j (512 + n) c) < score))

/-- The score that a spare column must be below to take a column: below the score it has, where that calls for a spare
column; on a spare tile that is to hold a tile's values exactly, any spare column that reaches them all serves (06 R152). -/
def spareBound (s : State) (k : Nat) (j : ProgJob) (score : Nat) : Nat :=
  if k % 32 = 16 ∧ (j.why = .refresh ∨ j.why = .cover) then (if score = 0 then 0 else 1)
  else if rbit s (chReg 0) 2 && decide (rdF s (chReg 8) 7 0 ≤ score) then score
  else 0

/-- Columns of high score go to spare columns; the residuals that stay. -/
def spareOver (s : State) (k : Nat) (absorb : Bool) (ds : List Defect) (j : ProgJob) : List Nat → State × List Residual
  | [] => (s, [])
  | c :: cs =>
    let rs := colResiduals absorb s.freeNo ds j (carrier s k c) c
    match betterSpare s k absorb ds j c (spareBound s k j (colScore rs)) with
    | some n =>
      let s1 := mapSpare s k n c (fun r =>
        let p := placeWeight absorb j.fp4 s.freeNo ds r (512 + n) (jobValue j r c) (jobLevels j r c)
        (p.gp, p.gm))
      let (s2, l) := spareOver s1 k absorb ds j cs
      (s2, colResiduals absorb s.freeNo ds j (512 + n) c ++ l)
    | none =>
      let (s2, l) := spareOver s k absorb ds j cs
      (s2, rs ++ l)

/-- The logical columns whose carrier holds a defective cell. -/
def badColumns (s : State) (k : Nat) (ds : List Defect) : List Nat :=
  (List.range 512).filter (fun c => ds.any (fun d => d.cell / 2 == carrier s k c))

/-- What a tile's write leaves in its array and its counters. -/
def writeArray (s : State) (k : Nat) (j : ProgJob) (found : List Defect) (misread : List Nat) : State × List Residual × Bool :=
  let a := arrayAt s k
  let nd := found.filter defectOk
  let all := addDefects a.defects nd
  let ds := all.1.take 256
  let absorb := rbit s (chReg 0) 1
  let s := incHold s (chReg 0x14) 32 all.2.1
  let s := incHold s (chReg 0x18) 32 all.2.2
  let a1 : ArraySt := { a with
    levels := writtenLevels absorb s.freeNo ds j (carrier s k), defects := ds, cycles := a.cycles + 1, age := 0
    cellCycles := measureCycles a.cellCycles nd
    commit := BitVec.ofNat 1048 (flipBits (commitWord j) misread) }
  let s := setArray s k a1
  let s := wbit s (tileReg k 4) 8 (!committed a1)
  let s := if committed a1 then incWrap s (imgReg 0x1C) 1 else s
  let cyc := Nat.min (a.cycles + 1) 0x1FFFF
  let s := if rdF s (chReg 0x34) 16 0 < cyc then wrF s (chReg 0x34) 16 0 cyc else s
  let (s, rs) := spareOver s k absorb ds j (badColumns s k ds)
  let s := incHold s (chReg 0x1C) 32 ((badColumns s k ds).map (fun c => absorbedCount absorb s.freeNo ds j (carrier s k c) c)).sum
  (useFreeN (1048 * 513) s, rs, decide (256 < all.1.length))

/-- Steps 2 and 3 of 06 R160 on the residuals that stay. -/
def handleResiduals (s : State) (k : Nat) (j : ProgJob) (rs : List Residual) (overflow : Bool) : State :=
  let s := shadowResiduals (postResiduals s k j rs) ((contentsOf s k).getD k) rs
  if rdF s (chReg 8) 23 8 < rs.length ∨ overflow then retireTile s k (some j) else s


/-- A committed array asks for a column run (07 Table 07.3 row 1, R175); a reference run where no shadow copy of its
contents is there to fit columns against. -/
def commitTrigger (s : State) (k : Nat) : State := calTrigger (calClear s k) k 1 2

/-- R152: the spare cannot hold the values: records of cause 3, and the refresh goes on in place. The spare's array has
been committed, so that it takes a column run (07 R175). -/
def abandonSpare (s : State) (sp m : Nat) (j : ProgJob) (rs : List Residual) : State :=
  let s := postResids s (rs.map (fun r => residOf s sp j 3 r.row r.col r.w r.p.value r.p.gp r.p.gm))
  let s := modTile s m (fun t => { t with refresh := none, coverRun := false, noSpare := true, due := t.due || !t.coverRun })
  commitTrigger (setTileState s sp 1) sp

/-- After an in-place rewrite the tile serves slot `m` from its commit (06 R154, 07 R179). -/
def inPlaceDone (s0 : State) (k m : Nat) : State :=
  let s := s0
  let s := resetCols (serveTile s k) k
  let s := match (tileAt s k).holdFrom with
    | some t => keepMax s (chReg 0x38) (usSince s t)
    | none => s
  let s := endCover s (m / 32) (headOf s (m / 32) (m % 32))
  let s := incWrap (incWrap s (chReg 0x2C) 1) (chReg 0x30) 1
  let s := modTile s m (fun t => { t with 
    refresh := none, due := false, early := false, noSpare := false, driftAgain := false })
  let s := modTile s k (fun t => { t with holdFrom := none, calFirst := true, driftArm := (tileAt s0 m).driftAgain })
  commitTrigger s k

/-- A rebuild has one array less to program (20 R465). -/
def rebuildWritten (k : Nat) (r : Rebuild) : Rebuild := { r with left := setDel r.left k }

/-- The write that clears an array (18 R422). -/
def clearJob : ProgJob :=
  { why := .clear, target := [], levels := [], fp4 := false, gen := 0, imageId := 0, layer := 0, block := 0, slot := 64, blank := true }

/-- The core site whose clearing takes an array with it: its own, or the one that a spare last served. -/
def clearSite (s : State) (k : Nat) : Nat := if k % 32 = 16 then (tileAt s k).lastServed.elim 800 (fun m => m / 32) else k / 32

/-- An array of a site that is CLEARING is cleared once the write that was under way on it is over (18 R422). -/
def clearAfter (s : State) (k : Nat) : State :=
  if s.sec.clearing.any (fun c => c.1 == 1 && c.2.1 == clearSite s k) && (tileAt s k).prog.isNone && !(tileAt s k).zeroed then
    modTile s k (fun t => { t with prog := some clearJob })
  else s

/-- What follows a write, by what it was for. -/
def afterWrite (s : State) (k : Nat) (j : ProgJob) (rs : List Residual) (overflow : Bool) : State :=
  let s := modTile s k (fun t => { t with prog := none, zeroed := j.blank && j.target.isEmpty })
  match j.why with
  | .load | .rewrite => commitTrigger (handleResiduals (setTileState s k 1) k j rs overflow) k
  | .rebuild =>
    let s := commitTrigger (handleResiduals (setTileState s k 1) k j rs overflow) k
    { s with rebuilds := s.rebuilds.map (rebuildWritten k) }
  | .clear | .test => setTileState s k (if s.retiredTiles.contains k then 5 else 1)
  | .refresh | .cover =>
    let m := (contentsOf s k).getD k
    if (tileAt s m).refresh = some .inPlace then
      let s := handleResiduals (inPlaceDone s k m) k j rs overflow
      if (coreAt s (m / 32)).grants.contains (headOf s (m / 32) (m % 32)) then s else shadowMerge s m
    else if k % 32 = 16 then
      match (tileAt s k).lastServed with
      | some m =>
        if rs.isEmpty then
          commitTrigger (modTile (handleResiduals (setTileState s k 1) k j rs overflow) m (fun t => { t with refresh := some .h2 })) k
        else abandonSpare s k m j rs
      | none => setTileState s k 1
    else
      let s := handleResiduals (setTileState s k 1) k j rs overflow
      commitTrigger (modTile s k (fun t => { t with refresh := some .h5 })) k
  | .retire =>
    match (tileAt s k).lastServed with
    | some m =>
      let s := handleResiduals (setTileState s k 1) k j rs overflow
      commitTrigger (modTile s m (fun t => { t with refresh := some .h2 })) k
    | none => setTileState s k 1

def writeComplete (s : State) (k : Nat) (found : List Defect) (misread : List Nat) : State :=
  match (tileAt s k).prog with
  | none => s
  | some j =>
    if j.started then
      let (s, rs, overflow) := writeArray s k j found misread
      clearAfter (afterWrite s k j rs overflow) k
    else s

def execArrayWriteComplete (site slot : Nat) (found : List Defect) (misread : List Nat) (s : State) : Answer :=
  onUnit (tileWf site slot) (spoonWake (writeComplete s (tkey site slot) found misread))

/-! ### REFRESH_DUE and REFRESH_START (06 R148-R155) -/

/-- PERIOD_H in ns of equivalent age. -/
def refreshPeriod (s : State) : Nat := clampN 24 8760 (rdF s (chReg 4) 15 0) * 3600 * 1000000000

/-- The array whose contents a served slot uses. -/
def dueArray (s : State) (m : Nat) : Nat := physTile s m

def refreshDue (s : State) (k : Nat) : State :=
  match memberOf s k with
  | none => s
  | some m =>
    let t := tileAt s m
    if rbit s (chReg 0) 0 && t.shadowIn && tileState s k == 2 && t.owner.isSome &&
        (decide (refreshPeriod s ≤ (arrayAt s k).age) || t.early || t.driftAgain) then
      modTile s m (fun t => { t with due := true })
    else s

def execRefreshDue (site slot : Nat) (s : State) : Answer := onUnit (tileWf site slot) (refreshDue s (tkey site slot))

def pairRefreshing (s : State) (k : Nat) : Bool := (pairSlots k).any (fun m => (tileAt s m).refresh.isSome)

/-- The array is being made for a layer rewrite: a refresh that has not started is cancelled (06 R155). -/
def rewriteWaits (s : State) (m : Nat) : Bool :=
  (tileAt s m).prog.isSome || (match (tileAt s m).owner with
    | some o => match instOf s o.slot with
      | some i => i.genJob.isSome
      | none => false
    | none => false)

/-- In place: the tile is PROGRAMMING from the boundary on; its slice takes a free fall-back slot, else passes wait. -/
def refreshInPlace (s : State) (k m : Nat) : State :=
  let site := m / 32
  let head := headOf s site (m % 32)
  let j := replaceJob s m .refresh
  let s := modTile s k (fun t => { t with prog := some j })
  let s := modTile (setTileState s k 3) m (fun t => { t with refresh := some .inPlace, due := false })
  if fbState s site head = 1 then s
  else if rbit s (chReg 0) 4 && canGrant s site head then coverGrant s site head
  else modTile s k (fun t => { t with holdFrom := some s.rackTime })

/-- H1. -/
def refreshStart (s : State) (k : Nat) : State :=
  match memberOf s k with
  | none => s
  | some m =>
    let t := tileAt s m
    if !(rbit s (chReg 0) 0 && t.due && t.shadowIn && tileState s k == 2 && t.refresh.isNone && (tileAt s k).calRun.isNone) || pairRefreshing s m || rewriteWaits s m
        || loadWaits s || decide (Nat.max 1 (rdF s (chReg 4) 23 16) ≤ refreshActive s) then s
    else if k = m && spareAvailable s m then
      modTile (placeSpare s m .refresh) m (fun t => { t with due := false })
    else if atBoundary s m then refreshInPlace s k m
    else s

def execRefreshStart (site slot : Nat) (s : State) : Answer := onUnit (tileWf site slot) (refreshStart s (tkey site slot))

/-! ### Ageing (06 R148) -/

/-- n is at most 10^6 x 2^(y / 2560), the ns of equivalent age of a slow round that is `y` / 256 °C above 85 °C. -/
def ageReached (y : Int) (n : Nat) : Bool :=
  if 0 ≤ y then decide (n ^ 2560 ≤ 10 ^ 15360 * 2 ^ y.toNat) else decide (n ^ 2560 * 2 ^ (-y).toNat ≤ 10 ^ 15360)

/-- The greatest such n below 2^bits + lo. -/
def ageFloor (y : Int) : Nat → Nat → Nat
  | 0, lo => lo
  | b + 1, lo => ageFloor y b (if ageReached y (lo + 2 ^ b) then lo + 2 ^ b else lo)

/-- A whole number of ns, which needs no rounding. -/
def ageWhole (y : Int) (n : Nat) : Bool :=
  if 0 ≤ y then n ^ 2560 == 10 ^ 15360 * 2 ^ y.toNat else n ^ 2560 * 2 ^ (-y).toNat == 10 ^ 15360

/-- Equivalent age in ns that one slow round adds at a temperature (06 R148); where it is no whole number it is rounded
down or up, which the spec leaves open. -/
def agingNs (t : Int) : Nat :=
  let y := t - 85 * 256
  let n := ageFloor y 32 0
  if ageWhole y n || !Config.ageRound t then n else n + 1

/-- Every array gains the equivalent age of one slow round at its tile's temperature. -/
def ageArrays (s : State) : State :=
  { s with arrays := s.arrays.map (fun a => (a.1, { a.2 with age := a.2.age + agingNs (max (45 * 256) (tileTemp s a.1)) })) }

/-! ### Columns handed on (06 R161, 04 R114) -/

/-- A column handed on makes its array due for an early refresh (06 R150). The first time that is all; after that refresh
it goes to a spare column where COLSPARE_EN lets it, or is recorded with cause 4: also where a spare column is free and
COLSPARE_EN is 0 (DESIGN CHOICE, log 147). The fields of the record that name a weight are 0 (DESIGN CHOICE, log 148). -/
def handColumn (s : State) (k c : Nat) : State :=
  let m := (contentsOf s k).getD k
  let again := (tileAt s m).handed.contains c
  let s := modTile s m (fun t => { t with handed := setAdd t.handed c, early := true })
  if again then
    match (if rbit s (chReg 0) 2 then spareColFree s k else none) with
    | some n => moveColumn s k n c
    | none => postResids s [residOf s k (heldJob s k m .refresh) 4 0xFFFF c 0 0 0 0]
  else s

/-! ### Registers (06 R163) -/

def execChCntClr (value : W32) (s : State) : Answer :=
  .next (clearIf value 1 [chReg 0x2C, chReg 0x30, chReg 0x38] (clearIf value 0 (words (chReg 0x14) 5) s))

/-! ### RESIDUAL_READ (16 R394) -/

/-- Records of secure-world layers are withheld from a non-secure mailbox. -/
def residHidden (s : State) (r : ResidualRec) : Bool :=
  match instSlot s r.inst with
  | some n => (instOf s n).any (fun i => i.secure)
  | none => tileSecure s (tkey r.site r.slot)

def execResidualRead (m : MbxId) (s : State) : Answer :=
  let from_ := reqN s m 8 4
  let count := reqN s m 12 2
  onMbx m (runCmd s m 0x0503 16
    (fieldCheck s m [(12, 1 ≤ count && count ≤ 4096), reqZero s m 14 2, (16, reqN s m 16 8 % 32 == 0)])
    (let r := mref s m
     let secure := mbxSecure s m
     let all := s.resids.filter (fun x => from_ ≤ x.seq.toNat)
     let shown := (all.filter (fun x => secure || !residHidden s x)).take count
     let upTo := match shown.getLast? with
       | some x => if shown.length = count then x.seq.toNat else 0xFFFFFFFF
       | none => 0xFFFFFFFF
     let skipped := (all.filter (fun x => !secure && residHidden s x && x.seq.toNat ≤ upTo)).length
     let first := (shown.head?.map (fun x => x.seq.toNat)).getD (Config.freeNat s.freeNo)
     let oldest := ((s.resids.head?.map (fun x => x.seq.toNat)).getD s.residSeq.toNat)
     let s := accept s m
     let s := dmaWrite s m.pf (BitVec.ofNat 64 (reqN s m 16 8)) ((shown.map residBytes).flatten)
     finishOk (useFree s) r (leBytes 4 shown.length ++ leBytes 4 first ++ leBytes 4 (oldest - from_) ++ leBytes 4 skipped)))

end Sys2Proof.Machine
end

