-- ==== Sys2Proof/Machine/Spoon.lean ====
section
/-! DEFINITION. The Spoon: recomputing a capture, its report, drift alarms, the report ring and the commands that use
it (04 R109-R117, 16 R393, R394). -/

namespace Sys2Proof.Machine

/-! ### The report ring (04 R115) -/

def ringEntries (s : State) : Nat := rdF s (spoonReg 0x28) 15 0
def ringHead (s : State) : Nat := rdF s (spoonReg 0x2C) 15 0
def ringTail (s : State) : Nat := rdF s (spoonReg 0x30) 15 0

/-- Stack offset of a ring entry. -/
def ringOffset (s : State) (i : Nat) : Nat := (objFrames s s.ringH).getD (i / 512) 0 * frameBytes + i % 512 * 4096

/-- A report goes to the ring, or is discarded where it would overrun the tail. One formed after the ring was freed is
discarded and counted in the same way (DESIGN CHOICE, log 145). -/
def ringPut (s : State) (rep : Bytes) : State :=
  let n := ringEntries s
  if n = 0 ∨ (ringHead s + 1) % n = ringTail s % n then incHold s (spoonReg 0x14) 32 1
  else
    let s1 := stackPut s (ringOffset s (ringHead s)) rep
    incWrap (wrF s1 (spoonReg 0x2C) 15 0 ((ringHead s + 1) % n)) (spoonReg 0x10) 1

/-- 0 or a power of two. -/
def ringSizeOk (v : Nat) : Bool := v == 0 || v == 2 ^ Nat.log2 v

/-- A write of ENTRIES: the new ring is allocated in secure regions after the previous one is freed; where the pool
cannot supply it nothing changes. -/
def ringWrite (s : State) (v : Nat) : Except Err State :=
  if !ringSizeOk v then .error { st := stBadParam }
  else
    let s0 := freeObjOpt { s with ringH := none } s.ringH
    if v = 0 then .ok (wrF s0 (spoonReg 0x28) 15 0 0)
    else
      match newObjPages s0 6 64 true true (ceilDiv v 512) with
      | none => .error { st := stStockpotFull }
      | some (h, s1) =>
        let a := stackGma (rdF s1 (fabReg 4) 12 0) ((objFrames s1 (some h)).headD 0) 0
        let s1 := { s1 with ringH := some h }
        let s1 := wr (wr s1 (spoonReg 0x20) (BitVec.ofNat 32 (a.toNat % 2 ^ 32))) (spoonReg 0x24) (BitVec.ofNat 32 (a.toNat / 2 ^ 32))
        .ok (wr (wr (wrF s1 (spoonReg 0x28) 15 0 v) (spoonReg 0x2C) 0) (spoonReg 0x30) 0)

/-- The effect of a write of SPOON_RING_SIZE; a value that is refused leaves the register as it was. -/
def execSpoonRingSizeWrite (value : W32) (s : State) : Answer :=
  .next (match ringWrite s (fld value 15 0) with | .ok t => t | .error _ => s)

/-! ### Recomputing (04 R109, R113) -/

/-- A captured register word of a tile. -/
def capReg (c : Capture) (k o : Nat) : W32 := mapGet (regReset (tileReg k o)) c.regs (tileReg k o)

/-- The full-scale step of a logical column, as captured. -/
def capStep (c : Capture) (k col : Nat) : Nat :=
  let g := col / 32
  if g < 8 then fld (capReg c k 0x08) (3 * g + 2) (3 * g) else fld (capReg c k 0x0C) (3 * (g - 8) + 2) (3 * (g - 8))

/-- The column ran on a spare column. -/
def capRemapped (c : Capture) (k col : Nat) : Bool :=
  (List.range 8).any (fun n =>
    let w := capReg c k (0x20 + 4 * n)
    fld w 16 15 == 1 && fld w 8 0 == col)

def capPeri (c : Capture) (k : Nat) : PeriCfg := periOf (capReg c k)

/-- The weights of the ideal side. -/
def idealW (s : State) (c : Capture) (k row col : Nat) : Int :=
  if c.zero then 0
  else match contentsOf s k with
    | some m => shadowW (tileAt s m) row col
    | none => 0

/-- A_c and I_c of a member. -/
def actualTerm (c : Capture) (k : Nat) (w : TileWork) (col : Nat) : Int := w.run.getD col 0 * 2 ^ (capStep c k col + w.shift)

def idealTerm (s : State) (c : Capture) (k : Nat) (w : TileWork) (col : Nat) : Int :=
  16 * 2 ^ w.shift * ((List.range 512).map (fun r => idealW s c k r col * (w.planes.getD r 0).toInt)).sum

/-- One member's columns: the differences, and A and I. -/
structure MemberSum where
  k  : Nat
  w  : TileWork
  a  : List Int
  i  : List Int
  d  : List Int

def memberSum (s : State) (c : Capture) (k : Nat) (w : TileWork) : MemberSum :=
  let a := (List.range 512).map (actualTerm c k w)
  let i := (List.range 512).map (idealTerm s c k w)
  { k := k, w := w, a := a, i := i, d := (List.range 512).map (fun col => sat32 (a.getD col 0 - i.getD col 0)) }

/-- wide' before it is saturated: the accumulator at the close, with every member's A replaced by its I. -/
def wideIdeal (c : Capture) (ms : List MemberSum) (col : Nat) : Int :=
  c.wides.getD col 0 - (ms.map (fun m => m.a.getD col 0)).sum + (ms.map (fun m => m.i.getD col 0)).sum

/-- The columns that count for m. -/
def errCols (c : Capture) (m : MemberSum) : List Nat :=
  (List.range (Nat.min c.outDim 512)).filter (fun col => !m.w.satCols.contains col && !capRemapped c m.k col)

/-- m, lsb rms in units of 1/256 (04 R113). -/
def tileError (c : Capture) (m : MemberSum) : Nat :=
  let cols := errCols c m
  let acc := cols.foldl (fun acc col =>
    let r := fScale (fOfInt (m.d.getD col 0)) (-(((capStep c m.k col + m.w.shift + 2 : Nat)) : Int))
    fAdd acc (fMul r r)) 0
  if cols.isEmpty then 0
  else
    match fpDy (fp (fMul (fSqrt (fDiv acc (fOfInt cols.length))) (fOfInt 256))) with
    | some d => (dyRne d).toNat
    | none => 0xFFFFFFFF

/-- |D_c| / 2^(k_c + s + 2) is above COL_THR. -/
def overThr (s : State) (c : Capture) (m : MemberSum) (col : Nat) : Bool :=
  decide (rdF s (spoonReg 4) 31 24 * 2 ^ (capStep c m.k col + m.w.shift + 2) < (m.d.getD col 0).natAbs)

/-! ### The report (04 Table 04.4) -/

def inDim (c : Capture) (col : Nat) : Bool := decide (col < c.outDim)

def colFlags (s : State) (c : Capture) (ms : List MemberSum) (m : MemberSum) (col : Nat) : Nat :=
  (if m.w.satCols.contains col then 1 else 0) + (if overThr s c m col then 2 else 0) + (if capRemapped c m.k col then 4 else 0) +
  (if inDim c col then 0 else 8) + (if sat32 (wideIdeal c ms col) = wideIdeal c ms col then 0 else 16)

/-- The report names this tile's on-demand run: FLAGS bit 0 is set for this tile alone, not for the other members of its
chain (DESIGN CHOICE, log 144). -/
def namesRun (c : Capture) (m : MemberSum) : Bool := c.onDemand.any (fun r => r.tile == m.k)

/-- A list of bytes of a given length, zeros after the end. -/
def padTo (n : Nat) (bs : Bytes) : Bytes := (bs ++ zeros (n - bs.length)).take n

def reportBytes (s : State) (c : Capture) (ms : List MemberSum) (ideal : List W16) (m : MemberSum) (alarm : Bool) : Bytes :=
  let flags := (if namesRun c m then 1 else 0) + (if 1 < c.members.length then 2 else 0) + (if c.test then 4 else 0) + (if alarm then 8 else 0)
  let sat := ((List.range 512).filter (fun col => inDim c col && m.w.satCols.contains col)).length
  let ovr := ((List.range 512).filter (fun col => inDim c col && overThr s c m col)).length
  leBytes 4 s.spoonSeq.toNat ++ leBytes 2 (m.k / 32) ++ leBytes 1 (m.k % 32) ++ leBytes 1 flags ++
  leBytes 8 c.step.toNat ++ leBytes 8 c.time.toNat ++ leBytes 4 c.inst ++ leBytes 4 c.layer ++
  leBytes 1 m.w.shift ++ leBytes 1 (c.members.length - 1) ++ leBytes 2 m.w.rot ++
  leBytes 4 (tileError c m) ++ leBytes 2 (errCols c m).length ++ leBytes 2 m.w.removed.length ++ leBytes 2 sat ++ leBytes 2 ovr ++
  zeros 16 ++ ((m.d.map (fun d => leBytes 4 (unsgn 32 d))).flatten) ++
  padTo 512 (c.outs.map (fun x => BitVec.ofNat 8 x.toNat)) ++ padTo 512 (ideal.map (fun x => BitVec.ofNat 8 x.toNat)) ++
  (List.range 512).map (fun col => BitVec.ofNat 8 (colFlags s c ms m col)) ++
  padTo 128 ((m.w.removed.map (fun x => leBytes 2 x.1)).flatten) ++ zeros 320

/-! ### Alarms (04 R114, 06 R150, R161, 07 Table 07.3) -/

/-- CONSEC, 1-15; 0 taken as 1. -/
def alarmConsec (s : State) : Nat := Nat.max 1 (rdF s (spoonReg 4) 19 16)

/-- The capture was taken before a K5. -/
def before (t : W64) : Option W64 → Bool
  | some k => decide (t.toNat < k.toNat)
  | none => false

/-- An early alarm: its capture was taken before the K5 of the tile's latest run, in progress or completed. -/
def earlyAlarm (s : State) (k : Nat) (t : W64) : Bool := (tileAt s k).calRun.isSome || before t (tileAt s k).lastK5

/-- What a drift alarm that is not early asks for. -/
def driftAlarm (s : State) (k : Nat) : State :=
  let m := (contentsOf s k).getD k
  let soon := match (tileAt s k).driftDone with
    | some t => decide (elapsed s t ≤ 1000 * msCycles)
    | none => false
  let s := if (tileAt s m).driftRef then retireTile (modTile s m (fun t => { t with driftRef := false })) m none
    else if soon then modTile s m (fun t => { t with driftAgain := true })
    else s
  if rbit s (calReg 4) 11 then
    calTrigger s k 2 (if shadowThere s k then 2 else 1)
  else s

/-- The alarm evaluation of a report: whether it raises one, and the state after. -/
def evalAlarm (s : State) (c : Capture) (k m : Nat) : Bool × State :=
  let t := tileAt s k
  if before c.time t.passK5 then (false, s)
  else if rdF s (spoonReg 4) 15 0 < m then
    if alarmConsec s ≤ t.alarmRun + 1 then
      let s := modTile s k (fun t => { t with alarmRun := 0 })
      let s := signal (incHold s (spoonReg 0x18) 32 1) 0 67
      (true, if earlyAlarm s k c.time then s else driftAlarm s k)
    else (false, modTile s k (fun t => { t with alarmRun := t.alarmRun + 1 }))
  else (false, modTile s k (fun t => { t with alarmRun := 0 }))

/-- Columns above COL_THR in two consecutive reports are handed on (04 R114); one that waits for its early refresh is
not judged (06 R161). -/
def evalColumns (s : State) (k : Nat) (ovr : List Nat) : State :=
  let m := (contentsOf s k).getD k
  let due := ovr.filter (fun c => (tileAt s k).overCols.contains c && !((tileAt s m).early && (tileAt s m).handed.contains c))
  let s := modTile s k (fun t => { t with overCols := ovr })
  due.foldl (fun s c => handColumn s k c) s

/-- One member's report: evaluated, written, and the on-demand command answered. -/
def reportMember (c : Capture) (ms : List MemberSum) (ideal : List W16) (s : State) (m : MemberSum) : State :=
  let (alarm, s) := evalAlarm s c m.k (tileError c m)
  let rep := reportBytes s c ms ideal m alarm
  let ovr := (List.range 512).filter (overThr s c m)
  let seq := s.spoonSeq
  let s := ringPut { s with spoonSeq := seq + 1 } rep
  let s := evalColumns s m.k ovr
  match c.onDemand with
  | some r => if r.tile = m.k then finishOk s r.mbx (leBytes 4 seq.toNat ++ zeros 4) else s
  | none => s

/-- The reports of a capture, formed in slot order (04 R109, R115). -/
def spoonReports (s : State) (site : Nat) (c : Capture) : State :=
  let ms := (List.range c.phys.length).map (fun i => memberSum s c (c.phys.getD i 0) (c.work.getD i {}))
  let ideal := (periphery (capPeri c (c.phys.headD 0)) (fun col => sat32 (wideIdeal c ms col))).1
  ms.foldl (reportMember c ms ideal) (setCapture s site none)

/-- R109, R110: a capture that is complete is recomputed while no item of classes 1-5 is ready on the core. A double-bit
error in the capture buffer fails the item: its sample is given up (05 R126). -/
def spoonRecompute (s : State) (site : Nat) : State :=
  match (coreAt s site).capture with
  | none => s
  | some c =>
    if !c.closed || higherReady s site 6 then s
    else
      let s := useFree (engBusy s site (if c.raised then 5 else 6) (Config.freeNat s.freeNo))
      let r := itemCheck s site none [(spoonRegion, 0x8000)]
      spoonWake (if r.1 then dropCapture r.2 site else spoonReports r.2 site c)

/-- A live capture 10 ms old is dropped; an on-demand one is recomputed at class 5 priority (04 R110, R112). -/
def spoonExpiry (s : State) (site : Nat) : State :=
  match (coreAt s site).capture with
  | none => s
  | some c =>
    if elapsed s c.time < 10 * msCycles then s
    else if c.onDemand.isSome then setCapture s site (some { c with raised := true })
    else spoonWake (incHold (setCapture s site none) (spoonReg 0x14) 32 1)

def execSpoonCaptureExpiry (site : Nat) (s : State) : Answer := onUnit (decide (site < 800)) (spoonExpiry s site)

/-! ### SPOON_RUN, SPOON_READ (16 Table 16.8, R394) -/

/-- A run is pending on the tile, waiting or captured. -/
def runPending (s : State) (k : Nat) : Bool :=
  (tileAt s k).spoonReq.isSome ||
  s.cores.any (fun c => c.2.capture.any (fun x => x.onDemand.any (fun r => r.tile == k)))

def execSpoonRun (m : MbxId) (s : State) : Answer :=
  let site := reqN s m 8 2
  let slot := reqN s m 10 1
  let k := tkey site slot
  onMbx m (runCmd s m 0x0501 16
    (firstErr [
      fieldCheck s m [(8, decide (site < 800)), (10, tileWf site slot), reqZero s m 11 5],
      need (!tileGone s k) stTileUnavailable (tileState s k),
      need (!runPending s k) stBusy,
      need (ringEntries s != 0) stBadParam,
      need (testWeights s k) stBadParam 8])
    (let r : SpoonReq := { mbx := mref s m, tile := k, seed := BitVec.ofNat 64 (reqN s m 16 8) }
     spoonTry (modTile (accept s m) k (fun t => { t with spoonReq := some r })) k))

/-- Bytes of a report as a mailbox gets them: of a secure tile, a non-secure one gets the first 64 alone. -/
def reportFor (s : State) (secure : Bool) (rep : Bytes) : Bytes :=
  if !secure && tileSecure s (tkey (leAt rep 4 2) (leAt rep 6 1)) then rep.take 64 ++ zeros 4032 else rep

def ringCount (s : State) : Nat :=
  let n := ringEntries s
  if n = 0 then 0 else (ringHead s + n - ringTail s % n) % n

def execSpoonRead (m : MbxId) (s : State) : Answer :=
  let count := reqN s m 8 2
  onMbx m (runCmd s m 0x0502 16
    (fieldCheck s m [(8, 1 ≤ count && count ≤ 1024), reqZero s m 10 6, (16, reqN s m 16 8 % 4096 == 0)])
    (let r := mref s m
     let n := Nat.min count (ringCount s)
     let reps := (List.range n).map (fun i => memRead s.stackMem (ringOffset s ((ringTail s + i) % ringEntries s)) 4096)
     let first := if n = 0 then Config.freeNat s.freeNo else leAt (reps.headD []) 0 4
     let data := (reps.map (reportFor s (mbxSecure s m))).flatten
     let s := useFree (accept s m)
     let s := if n = 0 then s else wrF s (spoonReg 0x30) 15 0 ((ringTail s + n) % ringEntries s)
     let s := dmaWrite s m.pf (BitVec.ofNat 64 (reqN s m 16 8)) data
     finishOk s r (leBytes 2 n ++ zeros 2 ++ leBytes 4 first)))

def execSpoonCntClr (value : W32) (s : State) : Answer :=
  .next (clearIf value 2 [spoonReg 0x18] (clearIf value 1 [spoonReg 0x14] (clearIf value 0 [spoonReg 0x10] s)))

end Sys2Proof.Machine
end

