-- ==== Sys2Proof/Machine/Faults.lean ====
section
/-! DEFINITION. A failed core: stand-in slots, and the rebuild on the row's spare site (20 R463-R466, 05 R141-R143). -/

namespace Sys2Proof.Machine

/-! ### Who may stand in (05 R141) -/

/-- A site in service as a core: not failed, retired or disabled, and column 12 only by a remap in force. -/
def coreServes (s : State) (site : Nat) : Bool :=
  decide (site < 800) && !coreAway s site && !coreOff s site &&
  (site % 25 != 12 || (mapFind s.remapNow (site / 25)).isSome) &&
  !(decide (s.grade = .g8170) && (site % 25 == 0 || site % 25 == 24))

/-- A core that may take a stand-in slot. -/
def mayStandIn (s : State) (site : Nat) : Bool :=
  coreServes s site && rbit s (engReg site 0) 0 && (coreAt s site).standIn.isNone

/-- Columns of a row by distance from a column, the west before the east. -/
def colsFrom (c : Nat) : List Nat :=
  c :: ((List.range 24).map (fun d => (if d + 1 ≤ c then [c - (d + 1)] else []) ++ (if c + d + 1 < 25 then [c + d + 1] else []))).flatten

/-- Rows by distance from a row, the north before the south. -/
def rowsFrom (r : Nat) : List Nat :=
  r :: ((List.range 31).map (fun d => (if d + 1 ≤ r then [r - (d + 1)] else []) ++ (if r + d + 1 < 32 then [r + d + 1] else []))).flatten

/-- The sites in the order of R141. -/
def standinOrder (site : Nat) : List Nat :=
  ((rowsFrom (site / 25)).map (fun r => (colsFrom (site % 25)).map (fun c => r * 25 + c))).flatten

/-! ### Grants that end under a stand-in (05 R142, 06 R154, 07 R178) -/

/-- Passes that need the tile wait from here: a run goes on as a hold, a refresh in place without cover. -/
def coverLost (s : State) (site head : Nat) : State :=
  (chainMembers s site head).foldl (fun s t =>
    let k := physTile s (tkey site t)
    if (tileAt s k).calRun.isSome && tileState s k == 2 then
      modTile (setTileState s k 4) k (fun x => { x with holdFrom := some s.rackTime })
    else if decide ((tileAt s (tkey site t)).refresh = some .inPlace) && (tileAt s k).holdFrom.isNone then
      modTile s k (fun x => { x with holdFrom := some s.rackTime })
    else s) s

/-- A core takes a stand-in slot: one of FB_CAP, or one beyond when FB_CAP is 0; the grant made last ends at the next
boundary of its slice's instance where none is free. -/
def takeStandin (s : State) (c site slot : Nat) : State :=
  let ends := if 0 < fbCap s c ∧ freeSlots s c = 0 then (coreAt s c).grants.take 1 else []
  let s := modCore s c (fun x => { x with standIn := some (site, slot), grantEnds := ends.foldl setAdd x.grantEnds })
  modTile s (tkey site slot) (fun t => { t with standin := some c })

/-- A member of a failed core that asks for a stand-in slot: placed, without one, and no row of its slice lost. -/
def wantsStandin (s : State) (site slot : Nat) : Bool :=
  (tileAt s (tkey site slot)).owner.isSome && (tileAt s (tkey site slot)).standin.isNone &&
  (standinMembers s site slot).all (fun t => (tileAt s (tkey site t)).lostRows.isEmpty)

/-- Every member of a failed core gets its slot, where a core is left to give one. -/
def assignStandins (s : State) (site : Nat) : State :=
  let s := modCore s site (fun c => { c with blocksIn := false })
  (List.range 16).foldl (fun s t =>
    if wantsStandin s site t then
      match (standinOrder site).find? (mayStandIn s) with
      | some c => takeStandin s c site t
      | none => s
    else s) s

/-! ### CORE_FAILED (20 R463, R464, R466) -/

/-- The configuration words of a tile, by offset in its block. -/
def tileCfgOffs : List Nat := [0, 0x08, 0x0C, 0x10, 0x14] ++ words 0x100 64 ++ words 0x400 256 ++ words 0x800 256

def tileCfgOffsets (k : Nat) : List Nat := tileCfgOffs.map (tileReg k)

/-- Those of a slot's edge set and slot set. -/
def slotCfgOffsets (site slot : Nat) : List Nat :=
  [edgeReg site slot 0] ++ words (edgeReg site slot 0x40) 16 ++ [sfbSlotReg site slot 0, sfbSlotReg site slot 4]

/-- Words are copied, in both copies. -/
def copyWords : List Nat → List Nat → State → State
  | a :: as, b :: bs, s => copyWords as bs (wrA (wr s b (rd s a)) b (rdA s a))
  | _, _, s => s

def copyTileCfg (s : State) (a b : Nat) : State := copyWords (tileCfgOffsets a) (tileCfgOffsets b) s

/-- What a failed slot has in force goes to a tile: what its spare carried, or what its own registers keep. -/
def copyHeld (s : State) (m k : Nat) : State :=
  match (tileAt s m).cfgCopy with
  | some c => tileCfgOffs.foldl (fun s o => wrBoth s (tileReg k o) (mapGet 0 c o)) s
  | none => copyTileCfg s m k

/-- A spare tile is free again: what was being done on it is given up. -/
def spareFreed (s : State) (sp : Nat) : State :=
  modTile (setTileState (calAbandon s sp) sp 1) sp (fun t => { t with serves := none, prog := none })

/-- The configuration in force on a spare tile, which the stand-in of the slot it serves goes on with. -/
def cfgKept (s : State) (sp : Nat) : SMap W32 := tileCfgOffs.foldl (fun c o => mapPut 0 c o (rdA s (tileReg sp o))) []

/-- A spare tile that serves, or is being made for, a slot of a failed core is free again; the slot's own registers keep
what they hold (05 R143). -/
def releaseSpare (s : State) (m : Nat) : State :=
  let sp := spareKey m
  if (tileAt s m).covered then
    modTile (spareFreed s sp) m (fun t => { t with covered := false, cfgCopy := some (cfgKept s sp) })
  else if decide ((tileAt s m).refresh = some .h1) || decide ((tileAt s m).refresh = some .h2) || decide ((tileAt s m).refresh = some .h3) then
    spareFreed s sp
  else s

/-- An on-demand run that waits on a tile that goes OFF or RETIRED is refused (04 Table 04.3). -/
def spoonGone (s : State) (k : Nat) : State :=
  match (tileAt s k).spoonReq with
  | some r => finishErr (modTile s k (fun t => { t with spoonReq := none })) r.mbx { st := stTileUnavailable, d0 := tileState s k }
  | none => s

/-- A tile of a failed core: refresh and run are abandoned, and it is OFF. -/
def tileOff (s : State) (k : Nat) : State :=
  let s := calAbandon (releaseSpare s k) k
  let s := modTile s k (fun t => { t with
    refresh := none
    prog := none
    coverRun := false
    due := false
    retireNext := false
    holdFrom := none
    inBuf := []
    work := {}
    next := {}
    wide := [] })
  spoonGone (calUnavailable (calClear (setTileState s k 0) k) k) k

/-- The capture of a core that fails is lost; an on-demand run goes with its tile. -/
def captureGone (s : State) (site : Nat) : State :=
  match (coreAt s site).capture with
  | some c =>
    let s := setCapture s site none
    match c.onDemand with
    | some r => finishErr s r.mbx { st := stTileUnavailable, d0 := tileState s r.tile }
    | none => incHold s (spoonReg 0x14) 32 1
  | none => s

/-- The first instance placed on a site. -/
def siteInst (s : State) (site : Nat) : Nat :=
  match (List.range 16).find? (fun t => (tileAt s (tkey site t)).owner.isSome) with
  | some t => tileInst s (tkey site t)
  | none => 0xFFFF

/-- The row's spare site is free: no remap is in force and none is being made, and its core has not failed. -/
def spareSiteFree (s : State) (row : Nat) : Bool :=
  (mapFind s.remapNow row).isNone && s.rebuilds.all (fun r => r.site / 25 != row) && !(coreAt s (row * 25 + 12)).failed

/-- R465: the rebuild begins. -/
def rebuildBegin (s : State) (site : Nat) : State :=
  if site % 25 ≠ 12 ∧ rbit s (fltReg 0) 1 ∧ spareSiteFree s (site / 25) then
    { s with rebuilds := s.rebuilds ++ [{ site := site }] }
  else s

/-- The core that stands in for the lowest member of a failed core. -/
def helperOf (s : State) (site : Nat) : Option Nat := (List.range 16).findSome? (fun t => (tileAt s (tkey site t)).standin)

/-- A compiled program goes from a core that fails to the program space of the core that stands in for its home site
(05 R141); of those cores it is the one of the lowest member (DESIGN CHOICE, log 151). -/
def moveProg (site : Nat) (s : State) (p : Nat × Nat × Nat) : State :=
  match helperOf s p.1 with
  | some c => modCore (modCore s site (fun x => { x with programs := x.programs.erase p })) c (fun x => { x with programs := x.programs.erase p ++ [p] })
  | none => s

def moveProgs (s : State) (site : Nat) : State := (coreAt s site).programs.foldl (moveProg site) s

/-- A rebuild on a spare site is given up; a remap that was written for it and is not in force goes (08 R191). -/
def rebuildDropped (s : State) (site : Nat) : State :=
  { (s.rebuilds.filter (fun r => r.site / 25 * 25 + 12 == site)).foldl (fun s r => wr s (remapReg (r.site / 25)) 0) s with
    rebuilds := s.rebuilds.filter (fun r => r.site / 25 * 25 + 12 != site) }

/-- The core that a failing core stood in for takes another. -/
def replaceStandin (s : State) (st : Option (Nat × Nat)) : State :=
  match st with
  | some (f, t) => assignStandins (modTile s (tkey f t) (fun x => { x with standin := none })) f
  | none => s

/-- C2 and C3. -/
def coreFail (s : State) (site : Nat) : State :=
  if (coreAt s site).failed ∨ coreOff s site then s
  else
    let st := (coreAt s site).standIn
    let inst := siteInst s site
    let s := (List.range 16).foldl (fun s t => tileOff s (tkey site t)) s
    let s := captureGone s site
    let s := modCore s site (fun c => { c with
      failed := true
      blocksIn := false
      srcCache := []
      sampled := []
      srcPlace := []
      blocks := []
      lastUe := none
      ueFatal := false
      grants := []
      grantEnds := []
      escal := []
      back := []
      fbOff := []
      covers := []
      coverEnds := []
      standIn := none })
    let s := wbit s (routerReg site 0) 1 true
    let s := incHold s (fltReg 0x18) 16 1
    let s := faultRecord s { cls := 1, cause := 9, unit := site, inst := inst, secure := siteSecure s site }
    rebuildBegin (moveProgs (replaceStandin (assignStandins (rebuildDropped s site) site) st) site) site

def execCoreFailed (site : Nat) (s : State) : Answer := onUnit (decide (site < 800)) (coreFail s site)

/-! ### Staging objects on a stack that goes DOWN (09 R208) -/

/-- A staged generation's objects go. -/
def dropStaged (s : State) (slot : Nat) : State :=
  match instOf s slot with
  | none => s
  | some i =>
    let s := freeObjOpt (freeObjOpt (freeObjOpt s i.stagedH) i.nextShadowH) i.nextShadowSecH
    modInst s slot (fun i => { i with
      staged := [], stagedId := 0, stagedDigest := [], stagedKey := [], stagedSkey := false, stagedProgram := [],
      stagedH := none, nextShadowH := none, nextShadowSecH := none, prepared := [] })

/-- The sections of a load that wait to be written are not held any more, and are to come again. -/
def loseSections (i : Instance) (l : Load) : Instance :=
  let begun := (i.layers.filter (fun y => y.state ≠ .none)).map (fun y => y.layer)
  let keep (n : Nat) : Bool := !l.stage && begun.contains n
  { i with
    layers := if l.stage || l.repair then i.layers else i.layers.filter (fun y => y.state ≠ .none)
    load := some { l with secs := l.secs.map (fun x => if keep x.layer then x else { x with body := none, verdict := none }) } }

/-- A stack that goes DOWN takes the contents of the firmware's staging objects on it (09 R208; what a load or a staged
generation does then is a DESIGN CHOICE, log 170). -/
def stagingLost (n : Nat) (s : State) (slot : Nat) : State :=
  let on (h : Option Nat) : Bool := (h.bind (objAt s)).any (objOn n)
  match instOf s slot with
  | none => s
  | some i =>
    let s := match i.load with
      | some l => if on l.stageH then modInst s slot (fun i => loseSections i l) else s
      | none => s
    if on i.stagedH && rdF s (imgSlotReg slot 8) 1 0 != 2 then wrF (dropStaged s slot) (imgSlotReg slot 8) 1 0 0 else s

/-! ### STANDIN_BLOCKS_LOADED (20 Table 20.3 C4) -/

/-- The shadow block of each member goes into a slot block of its stand-in core; one that finds none free follows as a
grant ends there. -/
def standinBlocksIn (s : State) (site : Nat) : State :=
  let s := (List.range 16).foldl (fun s t =>
    match (tileAt s (tkey site t)).standin with
    | some c => loadBlock s c (tkey site t)
    | none => s) s
  modCore s site (fun c => { c with blocksIn := true })

def execStandinBlocksLoaded (site : Nat) (s : State) : Answer :=
  onUnit (decide (site < 800)) (if (coreAt s site).failed then standinBlocksIn s site else s)

/-! ### Uncorrectable core store errors (20 R463) -/

/-- Cores on which a second uncorrectable error has come within 1 ms are declared failed. -/
def declared (s : State) : State := s.cores.foldl (fun s c => if c.2.ueFatal then coreFail s c.1 else s) s

/-- A read of a core's store, by whoever makes it, with what its errors bring about. -/
def storeReadCheck (s : State) (site : Nat) (rs : List (Nat × Nat)) : Bool × State :=
  let r := itemCheck s site none rs
  (r.1, declared r.2)

def execSieveAddback (site head : Nat) (s : State) : Answer :=
  onUnit (decide (site < 800) && decide (head < 16)) (declared (sieveAdd s site head))

def execFallbackPass (site head : Nat) (s : State) : Answer :=
  onUnit (decide (site < 800) && decide (head < 16)) (declared (fallbackRun s site head))

def execDeltaItem (site head : Nat) (s : State) : Answer :=
  onUnit (decide (site < 800) && decide (head < 16)) (declared (deltaRun s site head))

def execStandinPass (site head : Nat) (members : List Bytes) (s : State) : Answer :=
  onUnit (decide (site < 800) && decide (head < 16)) (declared (standinRun s site head members))

/-- R110: the ideal side of a core's closed capture is recomputed. -/
def execSpoonRecompute (site : Nat) (s : State) : Answer := onUnit (decide (site < 800)) (declared (spoonRecompute s site))

/-! ### The rebuild (20 R465, Table 20.4) -/

/-- The tile of a row's spare site that takes the place of a slot. -/
def spareSiteKey (m : Nat) : Nat := tkey (m / 32 / 25 * 25 + 12) (m % 32)

/-- D1: the spare site is powered; the arrays of the failed core's placed slots are to be written. -/
def rebuildArray (s : State) (site t : Nat) : State :=
  let m := tkey site t
  let k := spareSiteKey m
  if (tileAt s m).owner.isSome then
    let j := { replaceJob s m .rebuild with slot := ((tileAt s m).owner.map (fun o => o.slot)).getD 64 }
    modTile (setTileState s k 3) k (fun x => { x with prog := some j })
  else setTileState s k 1

def ownedSlots (s : State) (site : Nat) : List Nat := (List.range 16).filter (fun t => (tileAt s (tkey site t)).owner.isSome)

/-- D3: every array is written and every column run has passed. -/
def rebuildReady (s : State) (r : Rebuild) : Bool :=
  r.settled && r.left.isEmpty &&
  (ownedSlots s r.site).all (fun t =>
    let k := spareSiteKey (tkey r.site t)
    calStatus s k 7 7 == 1 && (tileAt s k).calRun.isNone && tileState s k == 1)

/-- 08 R191: the remap of a rebuild that is ready is written, and waits for the takeover. -/
def remapStage (s : State) : State :=
  (s.rebuilds.filter (rebuildReady s)).foldl (fun s r => wr s (remapReg (r.site / 25)) (BitVec.ofNat 32 (logCol s r.site + 0x180))) s

def siteSettled (s : State) (row : Nat) : State :=
  match s.rebuilds.find? (fun r => r.site / 25 == row && !r.settled) with
  | none => s
  | some r =>
    let s1 := (List.range 16).foldl (fun s t => rebuildArray s r.site t) s
    let left := (ownedSlots s r.site).map (fun t => spareSiteKey (tkey r.site t))
    remapStage { s1 with rebuilds := s1.rebuilds.map (fun x => if x.site = r.site then { x with settled := true, left := left } else x) }

def execSpareSiteSettled (row : Nat) (s : State) : Answer := onUnit (decide (row < 32)) (siteSettled s row)

/-- 07 K5; a rebuild that waited for the run is ready. -/
def execCalRunEnd (site slot : Nat) (s : State) : Answer :=
  onUnit (tileWf site slot) (remapStage (spoonWake (calRunEnd s (tkey site slot))))

/-- What a slot's tile takes over. -/
def moveTile (s : State) (m : Nat) : State :=
  let k := spareSiteKey m
  let o := tileAt s m
  let n := tileAt s k
  let shadow := n.shadowNext.foldl (fun w p => mapPut 0 w p.1 p.2) (placedValues s m)
  let s := setTile s k { n with
    owner := o.owner
    lastStep := o.lastStep
    handed := o.handed
    shadow := shadow
    shadowIn := o.shadowIn
    shadowSeen := o.shadowSeen
    lostRows := o.lostRows
    shadowNext := [] }
  let s := setTile s m { o with
    owner := none
    standin := none
    cfgCopy := none
    shadow := []
    shadowIn := false
    lostRows := []
    shadowNext := [] }
  let s := match o.standin with
    | some c => dropBlocks (modCore s c (fun x => { x with standIn := none })) c [m]
    | none => s
  serveTile s k

/-- The programs of a failed core, wherever they were placed, go to the core that takes its place. -/
def homeProgs (s : State) (site sp : Nat) : State :=
  let ps := (s.cores.map (fun c => c.2.programs.filter (fun p => p.1 == site))).flatten
  let s := { s with cores := s.cores.map (fun c => (c.1, { c.2 with programs := c.2.programs.filter (fun p => p.1 != site) })) }
  modCore s sp (fun c => { c with programs := c.programs ++ ps.map (fun p => (sp, p.2)) })

/-- The array lists of the ledger name the spare site's tiles. -/
def moveRecord (site : Nat) (r : LayerRec) : LayerRec :=
  { r with arrays := r.arrays.map (fun a => if a.1 / 32 = site then (spareSiteKey a.1, a.2) else a) }

def movePair (site : Nat) (p : LedgerPair) : LedgerPair :=
  { p with a := p.a.map (moveRecord site), b := p.b.map (moveRecord site) }

/-- D4: the remap, the spare site's configuration and the release of the stand-ins take effect together. -/
def takeover (s : State) (r : Rebuild) : State :=
  let site := r.site
  let row := site / 25
  let sp := row * 25 + 12
  let l := logCol s site
  let owned := ownedSlots s site
  let s := owned.foldl (fun s t =>
    copyWords (slotCfgOffsets site t) (slotCfgOffsets sp t) (copyHeld s (tkey site t) (tkey sp t))) s
  let s := wr (wr (wr s (engReg sp 0) (rd s (engReg site 0))) (engReg sp 0x3C) (rd s (engReg site 0x3C))) (sfbReg sp 0) (rd s (sfbReg site 0))
  let s := homeProgs (owned.foldl (fun s t => moveTile s (tkey site t)) s) site sp
  let s := incHold (wr s (remapReg row) (BitVec.ofNat 32 (l + 0x80))) (meshReg 0x88) 16 1
  { s with
    remapNow := mapSet s.remapNow row l
    ledger := s.ledger.map (movePair site)
    rebuilds := s.rebuilds.filter (fun x => x.site != site) }

/-- The takeovers that are due at a pass boundary of an instance. -/
def takeovers (s : State) (slot : Nat) : State :=
  (s.rebuilds.filter (fun r => rebuildReady s r && (ownedSlots s r.site).any (fun t => ownerSlot s (tkey r.site t) == some slot))).foldl takeover s

end Sys2Proof.Machine
end

