-- ==== Sys2Proof/Machine/Path.lean ====
section
/-! DEFINITION. Paths over the fabric: which port a flow takes, the IFP header, requests kept until they are answered,
their resends and their failures (10 R235-R245, 11 R273-R276, 08 R192). -/

namespace Sys2Proof.Machine

/-! ### Replies on the mesh (08 R192, R195, 09 R213) -/

/-- Where the Kettle, and Ladle in it, stands. -/
abbrev kettleSrc := 0x400 + 43

/-- Where a reply to a packet goes. -/
def replyDest (src : Nat) : MeshDest := if src < 0x400 then .site src else .port (src - 0x400)

/-- The world of the block that replies: a core's site, or the region of the frame at a stack; a port's interface acts for
the request it answers (08 R188). -/
def replyWorld (s : State) (p : MeshPacket) (src : Nat) : Bool :=
  if src < 0x400 then siteSecure s src
  else if src < 0x400 + 24 ∧ gmaSpace p.gma = 0 then regionSecure s (regionOf (gmaOffset p.gma / frameBytes))
  else p.secure

/-- A reply travels on VC1 with the request's tag (08 R192, R195). -/
def meshReply (s : State) (p : MeshPacket) (src : Nat) (t : MeshType) (arg payload : Bytes) : State :=
  { s with meshQ := s.meshQ ++ [{ dest := replyDest p.src, vc := 1, type := t, src := src, tag := p.tag,
                                  secure := replyWorld s p src, gma := p.gma, arg := arg, payload := payload }] }

/-- A WRITE asks for its acknowledgement in bit 0 of the third class-field byte (DESIGN CHOICE, log 156). -/
def meshAck (p : MeshPacket) : Bool := nbits (leAt p.arg 2 1) 0 0 == 1

/-- The WRITE_ACK, where it is asked for (08 R198). -/
def meshWriteAck (s : State) (p : MeshPacket) (src : Nat) : State :=
  if meshAck p then meshReply s p src .writeAck (zeros 40) [] else s

/-- ERROR_RESP: the code in the first class-field byte, the others zero (09 R213). -/
def meshError (s : State) (p : MeshPacket) (src code : Nat) : State :=
  meshReply s p src .errorResp (BitVec.ofNat 8 code :: zeros 39) []

/-! ### Ports (10 Table 10.7) -/

abbrev fpDown := 0
abbrev fpTraining := 1
abbrev fpDiscovery := 2
abbrev fpQuarantine := 3
abbrev fpActive := 4
abbrev fpDraining := 5
abbrev fpFailed := 6

def portState (s : State) (p : Nat) : Nat := rdF s (fpReg p 0) 2 0
def portAt (s : State) (p : Nat) : PortSt := mapGet {} s.fab.ports p
def setPort (s : State) (p : Nat) (x : PortSt) : State := { s with fab := { s.fab with ports := mapPut {} s.fab.ports p x } }
def modPort (s : State) (p : Nat) (f : PortSt → PortSt) : State := setPort s p (f (portAt s p))

/-- The plane a port serves: `FP_STATUS`.PLANE. -/
def portPlane (s : State) (p : Nat) : Nat := rdF s (fpReg p 0) 15 12

/-! ### The path of a flow (10 R237, R238, 11 R275) -/

/-- The destination and plane are excluded in the current fault epoch (11 R275). -/
def planeExcluded (s : State) (dest plane : Nat) : Bool :=
  s.fab.excluded.any (fun x => decide (x.1 ≤ dest) && decide (dest ≤ x.2.1) && x.2.2.1 == plane && x.2.2.2 == faultEpoch s)

/-- The ACTIVE plane ports, ordered by the plane each serves. -/
def planeList (s : State) : List Nat :=
  ((List.range 16).map (fun pl => (List.range 16).filter (fun p => portState s p == fpActive && portPlane s p == pl))).flatten

/-- L for a destination. -/
def planeListTo (s : State) (dest : Nat) : List Nat := (planeList s).filter (fun p => !planeExcluded s dest (portPlane s p))

/-- h of R238. -/
def flowHash (dest stream : Nat) : Nat := crc32 (leBytes 2 dest ++ leBytes 4 stream)

/-- The sled port that reaches a neighbour (10 R236, R237). -/
def sledPort (s : State) (dest : Nat) : Option Nat :=
  let ok (p : Nat) : Bool := rbit s (fabReg 0) 2 && portState s p == fpActive
  if dest = (partId s ^^^ 1) ∧ ok 16 = true then some 16
  else if dest = (partId s ^^^ 2) ∧ ok 17 = true then some 17
  else none

/-- The port a flow takes; none: it has no path (10 R239). -/
def flowPort (s : State) (dest stream : Nat) : Option Nat :=
  match sledPort s dest with
  | some p => some p
  | none =>
    let l := planeListTo s dest
    l[flowHash dest stream % l.length]?

/-! ### Packets (10 Table 10.4) -/

/-- A port that carries packets. -/
def portCarries (s : State) (port : Nat) : Bool := portState s port == fpActive || portState s port == fpDraining

abbrev ifpWriteT := 1
abbrev ifpReadT := 2
abbrev ifpRespT := 3
abbrev ifpAtomicT := 4
abbrev ifpMcastT := 5
abbrev ifpBarrierT := 6
abbrev ifpCollT := 7
abbrev ifpDiscT := 8
abbrev ifpNoticeT := 9

def hType (p : IfpPacket) : Nat := leAt p.hdr 0 1
def hVc (p : IfpPacket) : Nat := leAt p.hdr 1 1 % 4
def hWorld (p : IfpPacket) : Bool := nbits (leAt p.hdr 1 1) 2 2 == 1
def hAck (p : IfpPacket) : Bool := nbits (leAt p.hdr 1 1) 3 3 == 1
def hLen (p : IfpPacket) : Nat := leAt p.hdr 2 2
def hDest (p : IfpPacket) : Nat := leAt p.hdr 4 2
def hSrc (p : IfpPacket) : Nat := leAt p.hdr 6 2
def hGma (p : IfpPacket) : W64 := BitVec.ofNat 64 (leAt p.hdr 8 8)
def hStream (p : IfpPacket) : Nat := leAt p.hdr 16 4 % 2 ^ 24
def hTag (p : IfpPacket) : Nat := leAt p.hdr 20 4
def hSeq (p : IfpPacket) : Nat := leAt p.hdr 24 4
def hSpec (p : IfpPacket) : Nat := leAt p.hdr 28 2

/-- HCRC holds over bytes 0-29. -/
def hcrcOk (p : IfpPacket) : Bool := crc16 (slice p.hdr 0 30) == leAt p.hdr 30 2

/-- What a sender fills in. -/
structure IfpFields where
  type   : Nat
  vc     : Nat
  ackReq : Bool := false
  dest   : Nat
  gma    : W64 := 0
  stream : Nat
  tag    : Nat := 0
  seq    : Nat := 0
  spec   : Nat := 0
  payload : Bytes := []

/-- WORLD is stamped from the world of the stream (10 R244). -/
def ifpPacket (s : State) (f : IfpFields) : IfpPacket :=
  let h := leBytes 1 f.type ++
    leBytes 1 (f.vc + (if streamSecure s f.stream then 4 else 0) + (if f.ackReq then 8 else 0)) ++
    leBytes 2 f.payload.length ++ leBytes 2 f.dest ++ leBytes 2 (partId s) ++ leBytes 8 f.gma.toNat ++ leBytes 4 f.stream ++
    leBytes 4 f.tag ++ leBytes 4 f.seq ++ leBytes 2 f.spec
  { hdr := h ++ leBytes 2 (crc16 h), payload := f.payload }

def ifpSend (s : State) (port : Nat) (p : IfpPacket) : State := { s with ifpOut := (port, p) :: s.ifpOut }

/-! ### Packets wait at their source (10 R238, R239) -/

/-- The port that the flow's next packet takes; none while it has no path, or while packets it sent on another plane are
not yet acknowledged by a link that still carries them (R238). -/
def flowOpen (s : State) (dest stream : Nat) : Option Nat :=
  (flowPort s dest stream).filter (fun p => !s.fab.flows.any (fun f => f.1 == (dest, stream) && f.2 != p && portCarries s f.2))

/-- An earlier packet of the flow waits. -/
def flowHeld (s : State) (dest stream : Nat) : Bool :=
  s.fab.waits.any (fun w => hDest w == dest && hStream w == stream) ||
  s.fab.reqs.any (fun r => r.port.isNone && hDest r.pkt == dest && hStream r.pkt == stream)

/-- The port on which a new packet of a flow goes out at once. -/
def flowFree (s : State) (dest stream : Nat) : Option Nat := if flowHeld s dest stream then none else flowOpen s dest stream

/-- A packet of a flow goes out on its port. -/
def flowSend (s : State) (port : Nat) (p : IfpPacket) : State :=
  let k := (hDest p, hStream p)
  ifpSend { s with fab := { s.fab with flows := (k, port) :: s.fab.flows.filter (fun f => f.1 != k) } } port p

/-- A packet that nothing keeps is sent, or waits. -/
def ifpPost (s : State) (f : IfpFields) : State :=
  let k := ifpPacket s f
  match flowFree s f.dest f.stream with
  | some p => flowSend s p k
  | none => { s with fab := { s.fab with waits := s.fab.waits ++ [k] } }

/-! ### Requests kept until their answer (11 R273) -/

def setReqs (s : State) (l : List FabReq) : State := { s with fab := { s.fab with reqs := l } }

/-- The store holds 4,096 requests. -/
def reqRoom (s : State) : Bool := decide (s.fab.reqs.length < 4096)

/-- Keep a request and send it, or let it wait for a path. -/
def keepRequest (s : State) (f : IfpFields) (src : Option MeshPacket) : State :=
  let tag := s.fab.nextTag % 2 ^ 32
  let k := ifpPacket s { f with tag := tag }
  let port := flowFree s f.dest f.stream
  let r : FabReq := { tag := tag, pkt := k, atomic := f.type == ifpAtomicT, src := src, port := port, resent := false }
  let s := { s with fab := { s.fab with reqs := s.fab.reqs ++ [r], nextTag := s.fab.nextTag + 1 } }
  match port with
  | some p => flowSend s p k
  | none => s

/-- A page held on a peer is used (09 R229). -/
def peerUsed (s : State) (peer : Nat) : State :=
  if (mapFind s.pot.outReads peer).isSome then { s with pot := { s.pot with outReads := mapSet s.pot.outReads peer s.rackTime } } else s

/-- A mesh access to another part's address goes out on the fabric (09 R214). The stream it uses is open. -/
def meshRequest (s : State) (p : MeshPacket) : State :=
  let f : IfpFields := { type := ifpReadT, vc := p.vc, dest := gmaPart p.gma, gma := p.gma, stream := Config.freeNat s.freeNo % 2 ^ 24 }
  let f : IfpFields := match p.type with
    | .read => { f with spec := meshSpec p }
    | .write => { f with type := ifpWriteT, ackReq := true, payload := p.payload }
    | _ => { f with type := ifpAtomicT, spec := meshSpec p % 16, payload := p.payload }
  keepRequest (useFree (peerUsed s (gmaPart p.gma))) f (some p)

/-- The mesh port whose interface answers for the fabric: that of the port the request took. -/
def fabSrc (r : FabReq) : Nat := 0x400 + 24 + r.port.getD 0

/-- A kept request ends in an error (11 Table 11.4). -/
def failReq (s : State) (r : FabReq) (code : Nat) : State :=
  match r.src with
  | some p => meshError s p (fabSrc r) code
  | none => s

def dropReq (s : State) (tag : Nat) : State := setReqs s (s.fab.reqs.filter (fun r => r.tag != tag))

def resent (s : State) (n : Nat) : State := incHold s (ldReg 0x2C) 32 n

/-- Send a kept request again. -/
def resendReq (s : State) (r : FabReq) (port : Option Nat) (again : Bool) : State :=
  let s := setReqs s (s.fab.reqs.map (fun x => if x.tag = r.tag then { x with port := port, resent := again } else x))
  match port with
  | some p => resent (flowSend s p r.pkt) 1
  | none => s

/-- R274 for one request that was sent on a path that is lost. -/
def moveReq (s : State) (r : FabReq) : State :=
  if r.atomic then failReq (dropReq s r.tag) r 7
  else resendReq s r (flowPort s (hDest r.pkt) (hStream r.pkt)) r.resent

/-- A request that waited is sent. -/
def sendWaiting (s : State) (r : FabReq) : State :=
  match flowOpen s (hDest r.pkt) (hStream r.pkt) with
  | some p =>
    flowSend (setReqs s (s.fab.reqs.map (fun x => if x.tag = r.tag then { x with port := some p } else x))) p r.pkt
  | none => s

def sendWaitings (s : State) : State := (s.fab.reqs.filter (fun r => r.port.isNone)).foldl sendWaiting s

def sendWait (s : State) (w : IfpPacket) : State :=
  match flowOpen s (hDest w) (hStream w) with
  | some p => flowSend { s with fab := { s.fab with waits := s.fab.waits.erase w } } p w
  | none => s

/-- Everything that waits and may go out now goes out, the requests first. -/
def flushWaits (s : State) : State := (sendWaitings s).fab.waits.foldl sendWait (sendWaitings s)

/-- The link of a port has acknowledged what was sent on it: what waited for that goes out. A packet received on the port
brings the acknowledgement (DESIGN CHOICE, log 164). -/
def linkAcked (s : State) (port : Nat) : State :=
  if s.fab.flows.any (fun f => f.2 == port) then
    flushWaits { s with fab := { s.fab with flows := s.fab.flows.filter (fun f => f.2 != port) } }
  else s

/-! ### REQ_TMO_EXPIRY (11 R276) -/

/-- The entry after a port in L; the flow's own port where that port is not in L. -/
def nextPort (s : State) (r : FabReq) : Option Nat :=
  let l := planeListTo s (hDest r.pkt)
  match r.port.bind (fun p => l.findIdx? (fun q => q == p)) with
  | some i => l[(i + 1) % l.length]?
  | none => l[flowHash (hDest r.pkt) (hStream r.pkt) % l.length]?

def reqTmo (s : State) (tag : Nat) : State :=
  match s.fab.reqs.find? (fun r => r.tag == tag) with
  | none => s
  | some r =>
    if r.port.isNone then s
    else if r.resent then failReq (dropReq s tag) r 8
    else resendReq s r (nextPort s r) true

def execReqTmoExpiry (tag : Nat) (s : State) : Answer := .next (reqTmo s tag)

end Sys2Proof.Machine
end

