-- ==== Sys2Proof/Machine/Transc.lean ====
section
/-! DEFINITION. exp2, log2, reciprocal, reciprocal square root, sine and cosine of the vector unit (05 R121, R123): the
value in fixed point with many guard bits, rounded to FP32, and moved by an open number of ulp, at most 2 either way. -/

namespace Sys2Proof.Machine

/-- One, with 256 fraction bits. -/
abbrev fixOne : Nat := 2 ^ 256

/-- The rounded value moved by an open number of ulp (05 R121: within 2 ulp). A zero, an infinity and a NaN stay. -/
def ulpMove (w : W32) (u : Nat) : W32 := if fFinite w ∧ w.toNat % 0x80000000 ≠ 0 then w + BitVec.ofNat 32 (u % 5) - 2 else w

/-- Bit `i` of a number, the most significant of `n` first. -/
def msbBits (n v : Nat) : List Bool := (List.range n).map (fun i => v / 2 ^ (n - 1 - i) % 2 == 1)

/-- 2^f for a fraction f given by its bits: the product of the square roots of 2 that its bits name. -/
def exp2Frac (bits : List Bool) : Nat :=
  (bits.foldl (fun p b =>
    let r := Nat.sqrt (p.1 * fixOne)
    (r, if b then p.2 * r / fixOne else p.2)) (2 * fixOne, fixOne)).2

/-- 2^x; exp2(-infinity) is +0. -/
def fpExp2 : Fp → Fp
  | .nan => .nan
  | .inf neg => if neg then .num false 0 0 else .inf false
  | .num neg m e =>
    let x : Dy := ⟨if neg then -(m : Int) else m, e⟩
    if dyLe ⟨128, 0⟩ x then .inf false
    else if dyLt x ⟨-151, 0⟩ then .num false 0 0
    else
      let n := dyFloor x
      let f := dyFloor (dyScale (dyAdd x ⟨-n, 0⟩) 160)
      .num false (exp2Frac (msbBits 160 f.toNat)) (n - 256)

/-- The fraction bits of log2 y, for y from 1 to below 2: y is squared for each. -/
def log2Frac : Nat → Nat → Nat → Nat
  | 0, _, acc => acc
  | n + 1, y, acc =>
    let z := y * y / fixOne
    if 2 * fixOne ≤ z then log2Frac n (z / 2) (2 * acc + 1) else log2Frac n z (2 * acc)

def fpLog2 : Fp → Fp
  | .nan => .nan
  | .inf neg => if neg then .nan else .inf false
  | .num neg m e =>
    if m = 0 then .inf true
    else if neg then .nan
    else
      let k := Nat.log2 m
      dyFp false ⟨((k : Int) + e) * 2 ^ 80 + log2Frac 80 (m * fixOne / 2 ^ k) 0, -80⟩

/-- Cosine and sine of half an angle of at most a quarter turn. -/
def halfTurn (p : Int × Int) : Int × Int :=
  let c : Int := Nat.sqrt ((fixOne + p.1).toNat * fixOne / 2)
  (c, p.2 * fixOne / (2 * c))

/-- Cosine and sine of an angle below a quarter turn, given by its bits from an eighth of a turn down. -/
def turnFrac (bits : List Bool) : Int × Int :=
  (bits.foldl (fun (q : (Int × Int) × (Int × Int)) b =>
    let u := halfTurn q.1
    let z := q.2
    (u, if b then ((z.1 * u.1 - z.2 * u.2) / fixOne, (z.2 * u.1 + z.1 * u.2) / fixOne) else z)) ((0, fixOne), (fixOne, 0))).2

/-- Cosine and sine of an angle in units of 2^-32 turn. -/
def turnCosSin (a : W32) : Int × Int :=
  let z := turnFrac (msbBits 30 (a.toNat % 2 ^ 30))
  match a.toNat / 2 ^ 30 with
  | 0 => z
  | 1 => (-z.2, z.1)
  | 2 => (-z.1, -z.2)
  | _ => (z.2, -z.1)

def fExp2 (x : W32) : W32 := ulpMove (toF32 (fpExp2 (fp x))) (Config.exp2Ulp x)
def fLog2 (x : W32) : W32 := ulpMove (toF32 (fpLog2 (fp x))) (Config.log2Ulp x)
def fRecip (x : W32) : W32 := ulpMove (fDiv 0x3F800000 x) (Config.recipUlp x)
def fRsqrt (x : W32) : W32 := ulpMove (toF32 (fpDiv (.num false 1 0) (fpSqrt (fp x)))) (Config.rsqrtUlp x)
def fSin (a : W32) : W32 := ulpMove (toF32 (dyFp false ⟨(turnCosSin a).2, -256⟩)) (Config.sinUlp a)
def fCos (a : W32) : W32 := ulpMove (toF32 (dyFp false ⟨(turnCosSin a).1, -256⟩)) (Config.cosUlp a)

end Sys2Proof.Machine
end

