-- ==== Sys2Proof/Machine/Engine.lean ====
section
/-! DEFINITION. The items of class 5 programs: the MAC array, the vector unit, attention over caches in Stockpot, and the
weights of sensitive layers (05 R118-R123, R138-R140); the scrubber of the core store and the engine's rounds. -/

namespace Sys2Proof.Machine

/-! ### CORE_STORE_SCRUB, ENGINE_ROUND_END (05 R126, R131) -/

/-- A sweep of the scrubber reads every word; PERIOD 0 stops it. -/
def scrubSweep (s : State) (site : Nat) : State :=
  if rdF s (engReg site 0x3C) 7 0 = 0 ∨ coreAway s site = true then s else storeCheck site none (badWords s site) s

def execCoreStoreScrub (site : Nat) (upsets : List (Nat × Nat)) (s : State) : Answer :=
  onUnit (decide (site < 800)) (declared (scrubSweep (addUpsets s site upsets) site))

/-- A round ends on a core's engine, busy or idle; a failed core's registers keep their values (05 R143). -/
def execEngineRoundEnd (site : Nat) (s : State) : Answer :=
  onUnit (decide (site < 800)) (if (coreAt s site).failed then s else incWrap s (engReg site 0x28) 1)

/-! ### MAC array (05 R118, R119) -/

/-- An FP8 operand. -/
def fp8 (e5 : Bool) (b : Byte) : Fp := if e5 then fpOf e5m2 b.toNat else ofE4m3 b

/-- Groups of 32 along the reduction dimension. -/
def groups (n : Nat) : List (List Nat) := chunk 32 (ceilDiv n 32) (List.range n)

/-- A sum of products, exact but for NaN and infinities, which propagate under IEEE 754. -/
def exactSum (l : List Fp) : Fp := l.foldl fpAdd (.num false 0 0)

/-- FP32 modes: each group exact, rounded once, then added with one further rounding (05 R119). -/
def macFloat (acc : W32) (term : Nat → Fp) (scale : Nat → Fp) (n : Nat) : W32 :=
  ((groups n).zipIdx).foldl (fun a g => fAdd a (toF32 (fpMul (exactSum (g.1.map term)) (scale g.2)))) acc

/-- INT32 modes: each group exact, then added with saturation; the saturations are counted (05 R119). -/
def macInt (acc : Int) (term : Nat → Int) (n : Nat) : Int × Nat :=
  (groups n).foldl (fun a g =>
    let x := a.1 + (g.map term).sum
    (sat32 x, if sat32 x = x then a.2 else a.2 + 1)) (acc, 0)

def fpOne : Fp := .num false 1 0

/-- The scale of block g of an MXFP4 operand. -/
def e8m0 (b : Byte) : Fp := if b = 0xFF then .nan else .num false 1 ((b.toNat : Int) - 127)

/-- Bytes of n elements of operands A and B: 4-bit elements two to a byte, 12-bit integers in 16 bits. -/
def macBytes (mode : MacMode) (n : Nat) : Nat × Nat :=
  match mode with
  | .i8 => (n, n)
  | .f8 _ _ => (n, n)
  | .i4 => (ceilDiv n 2, ceilDiv n 2)
  | .w4i _ => (ceilDiv n 2, 2 * n)
  | .w4f _ _ _ => (ceilDiv n 2, n)

/-- Bytes of the block scales of operand A. -/
def macScales (mode : MacMode) (n : Nat) : Nat := match mode with | .w4f _ true _ => ceilDiv n 32 | _ => 0

/-- n products of the operands at `a` and `b` added to the accumulator at `acc` (05 Table 05.1). -/
def macItem (s : State) (site : Nat) (mode : MacMode) (a b acc n scale : Nat) : State :=
  let acc0 := store32 s site acc
  let putInt (r : Int × Nat) : State :=
    incHold (storeWrite s site acc (leBytes 4 (unsgn 32 r.1))) (engReg site 0x2C) 16 r.2
  let putF (w : W32) : State := storeWrite s site acc (leBytes 4 w.toNat)
  let byA := storeRead s site a (macBytes mode n).1
  let byB := storeRead s site b (macBytes mode n).2
  match mode with
  | .i8 => putInt (macInt (sgn 32 acc0.toNat) (fun i => sgn 8 (byteAt byA i).toNat * sgn 8 (byteAt byB i).toNat) n)
  | .i4 => putInt (macInt (sgn 32 acc0.toNat) (fun i => sgn 4 (nibble byA i) * sgn 4 (nibble byB i)) n)
  | .w4i fp4 =>
    putInt (macInt (sgn 32 acc0.toNat) (fun i => unitsOf fp4 (nibble byA i) * sgn 12 (leAt byB (2 * i) 2 % 4096)) n)
  | .f8 aE5 bE5 => putF (macFloat acc0 (fun i => fpMul (fp8 aE5 (byteAt byA i)) (fp8 bE5 (byteAt byB i))) (fun _ => fpOne) n)
  | .w4f fp4 mx bE5 =>
    let opA (i : Nat) : Fp := if fp4 then ofE2m1 (nibble byA i) else dyFp false (dyOfInt (sgn 4 (nibble byA i)))
    let sc := storeRead s site scale (macScales mode n)
    putF (macFloat acc0 (fun i => fpMul (opA i) (fp8 bE5 (byteAt byB i))) (fun g => if mx then e8m0 (byteAt sc g) else fpOne) n)

/-! ### Vector unit (05 R121-R123) -/

/-- Round to an integer of `w` bits as R59 does. -/
def laneInt (w : Nat) (a : W32) : W32 := BitVec.ofNat 32 (unsgn w (quantInt (fp a) 0 (-(2 ^ (w - 1) : Nat)) (2 ^ (w - 1) - 1 : Nat)).1)

/-- One FP32 lane. A comparison gives 1 or 0; select takes `b` where `a` is not zero. -/
def vecLane (op : VecOp) (a b c : W32) : W32 :=
  match op with
  | .add => fAdd a b
  | .sub => fSub a b
  | .mul => fMul a b
  | .fma => fFma a b c
  | .min => fMin a b
  | .max => fMax a b
  | .cmpLt => if fLt a b then 1 else 0
  | .select => if a ≠ 0 then b else c
  | .exp2 => fExp2 a
  | .log2 => fLog2 a
  | .recip => fRecip a
  | .rsqrt => fRsqrt a
  | .div => fDiv a b
  | .sqrt => fSqrt a
  | .toBf16 => BitVec.ofNat 32 (fpTo bf16 (fp a))
  | .fromBf16 => a <<< 16
  | .toE4m3 => BitVec.ofNat 32 (toE4m3 (a.getLsbD 31) (fp a)).1.toNat
  | .fromE4m3 => toF32 (ofE4m3 (BitVec.ofNat 8 a.toNat))
  | .toE5m2 => BitVec.ofNat 32 (fpTo e5m2 (fp a))
  | .fromE5m2 => toF32 (fpOf e5m2 (a.toNat % 256))
  | .toInt4 => laneInt 4 a
  | .fromInt4 => fOfInt (sgn 4 (a.toNat % 16))
  | .toInt8 => laneInt 8 a
  | .fromInt8 => fOfInt (sgn 8 (a.toNat % 256))
  | .toInt32 => laneInt 32 a
  | .fromInt32 => fOfInt (sgn 32 a.toNat)

/-- Bits of a lane's first source, and of its result. -/
def laneSrc : VecOp → Nat
  | .fromBf16 => 16
  | .fromE4m3 => 8 | .fromE5m2 => 8 | .fromInt8 => 8
  | .fromInt4 => 4
  | _ => 32
def laneDst : VecOp → Nat
  | .toBf16 => 16
  | .toE4m3 => 8 | .toE5m2 => 8 | .toInt8 => 8
  | .toInt4 => 4
  | _ => 32

/-- The operands an operation takes: one, two or three. -/
def laneArgs : VecOp → Nat
  | .add => 2 | .sub => 2 | .mul => 2 | .min => 2 | .max => 2 | .cmpLt => 2 | .div => 2
  | .fma => 3 | .select => 3
  | _ => 1

/-- Bytes of n lanes; lanes of 4 bits lie two to a byte (03 R72). -/
def laneBytes (bits n : Nat) : Nat := ceilDiv (bits * n) 8

def lanesOf (bits n : Nat) (bs : Bytes) : List W32 :=
  (List.range n).map (fun i => BitVec.ofNat 32 (if bits = 4 then nibble bs i else leAt bs (bits / 8 * i) (bits / 8)))

def lanesBytes (bits : Nat) (l : List W32) : Bytes :=
  if bits = 4 then packNibbles (l.map (fun w => w.toNat)) else (l.map (fun w => leBytes (bits / 8) w.toNat)).flatten

def loadLanes (s : State) (site a bits n : Nat) : List W32 := lanesOf bits n (storeRead s site a (laneBytes bits n))

def vecItem (s : State) (site : Nat) (op : VecOp) (a b c dst n : Nat) : State :=
  let la := loadLanes s site a (laneSrc op) n
  let lb := loadLanes s site b 32 n
  let lc := loadLanes s site c 32 n
  storeWrite s site dst (lanesBytes (laneDst op) ((List.range n).map (fun i => vecLane op (la.getD i 0) (lb.getD i 0) (lc.getD i 0))))

/-- A BF16 lane computes on the widened operands and rounds once to BF16; add, subtract, multiply, fused multiply-add,
divide and square root are exact before that rounding. -/
def bfLane (op : VecOp) (a b c : W16) : W16 :=
  let r (x : Fp) : W16 := BitVec.ofNat 16 (fpTo bf16 x)
  match op with
  | .add => r (fpAdd (fpB a) (fpB b))
  | .sub => r (fpAdd (fpB a) (fpNeg (fpB b)))
  | .mul => r (fpMul (fpB a) (fpB b))
  | .fma => r (fpFma (fpB a) (fpB b) (fpB c))
  | .div => r (fpDiv (fpB a) (fpB b))
  | .sqrt => r (fpSqrt (fpB a))
  | .cmpLt => if fpLt (fpB a) (fpB b) then 1 else 0
  | .select => if a ≠ 0 then b else c
  | o => r (fp (vecLane o (widenB a) (widenB b) (widenB c)))

def vecBf16Item (s : State) (site : Nat) (op : VecOp) (a b c dst n : Nat) : State :=
  let g (x i : Nat) : W16 := store16 s site (x + 2 * i)
  storeWrite s site dst (((List.range n).map (fun i => leBytes 2 (bfLane op (g a i) (g b i) (g c i)).toNat)).flatten)

/-- A reduction, padded with the identity of the operation (05 R122). -/
def reduceItem (s : State) (site : Nat) (op : RedOp) (src dst n : Nat) : State :=
  let l := loadLanes s site src 32 n
  let r := match op with
    | .sum => vReduce fAdd 0 l
    | .max => vReduce fMax 0xFF800000 l
    | .min => vReduce fMin 0x7F800000 l
  storeWrite s site dst (leBytes 4 r.toNat)

/-- R123: the angle is the low 32 bits of position times frequency. -/
def ropeItem (s : State) (site pos : Nat) (freq : W32) (dst : Nat) : State :=
  let angle : W32 := BitVec.ofNat 32 (pos * freq.toNat)
  storeWrite s site dst (leBytes 4 angle.toNat ++ leBytes 4 (fSin angle).toNat ++ leBytes 4 (fCos angle).toNat)

/-- A row of FP32 values in cache format: FP8 E4M3, or MXFP4 in MX segments (05 R138, 03 R68, R70). -/
def rowBytes (mx : Bool) (l : List W32) : Bytes :=
  if mx then mxVector (l.map fp) else l.map (fun w => (toE4m3 (w.getLsbD 31) (fp w)).1)

/-- Bytes of a row of d elements. -/
def rowLen (mx : Bool) (d : Nat) : Nat := if mx then 272 * ceilDiv d 512 else d

/-! ### Stockpot pages (05 R138-R140, 09 R217, R221, R228) -/

/-- The page of an instance's object that holds an offset. -/
def instPage (s : State) (slot h off : Nat) : Option Page :=
  if (objAt s h).any (fun o => o.inst == slot) then (pageAt s h off).filter (fun p => !p.lost) else none

/-- A range of an object by the pages it lies in. -/
def pagePieces (off n : Nat) : List (Nat × Nat) :=
  let k := Nat.min n (frameBytes - off % frameBytes)
  [(off, k), (off + k, n - k)].filter (fun p => p.2 != 0)

/-- The engine reads a piece of a page of this part's stacks. -/
def nearRead (s : State) (site a n : Nat) : Option Bytes × State :=
  match accessCode s .inside (siteSecure s site) (BitVec.ofNat 64 a) 1 with
  | some c => (none, countCode s c)
  | none =>
    let ls := linesOf a n
    (if linesBad s ls then none else some (memRead s.stackMem a n), readLines (track s (a / frameBytes)) ls)

/-- What another part answers to the read of a piece. -/
def farRead (far : List (W64 × Bytes)) (a : W64) (n : Nat) : Option Bytes :=
  (far.find? (fun r => r.1 == a && decide (r.2.length = n))).map Prod.snd

def pieceRead (site slot : Nat) (far : List (W64 × Bytes)) (h : Nat) (s : State) (off n : Nat) : Option Bytes × State :=
  match instPage s slot h off with
  | none => (none, s)
  | some p =>
    match p.remote with
    | some q => (farRead far (stackGma q p.frame (off % frameBytes)) n, peerUsed s q)
    | none => nearRead s site (p.frame * frameBytes + off % frameBytes) n

/-- Reads one after the other; none where one of them fails. -/
def readsAll {α β : Type} (f : State → α → Option β × State) : List α → State → Option (List β) × State
  | [], s => (some [], s)
  | x :: xs, s =>
    let r := f s x
    let q := readsAll f xs r.2
    (r.1.bind (fun b => q.1.map (fun l => b :: l)), q.2)

/-- A range of an object. -/
def objRead (site slot : Nat) (far : List (W64 × Bytes)) (s : State) (r : ObjPlace × Nat) : Option Bytes × State :=
  let q := readsAll (fun s p => pieceRead site slot far r.1.handle s p.1 p.2) (pagePieces r.1.off r.2) s
  (q.1.map List.flatten, q.2)

/-- A page may be written by the instance: it is no shared page with another holder, and the access is served. -/
def pageWritable (s : State) (site slot h off : Nat) : Bool :=
  match instPage s slot h off with
  | none => false
  | some p =>
    (!p.shared || decide (refCount s (refKey p) ≤ 1)) &&
    (p.remote.isSome || (accessCode s .inside (siteSecure s site) (stackGma 0 p.frame (off % frameBytes)) 1).isNone)

/-- FILL of an entry reaches the end of a write. -/
def fillTo (s : State) (h off n : Nat) : State :=
  match objAt s h, pageAt s h off with
  | some o, some p => setObj s h (setPage o (off / frameBytes) { p with fill := Nat.max p.fill (ceilDiv (off % frameBytes + n) 4096) })
  | _, _ => s

/-- A piece is written: here, or by a WRITE to the part that holds the page. -/
def pieceWrite (s : State) (slot h off : Nat) (bs : Bytes) : State :=
  match instPage s slot h off with
  | none => s
  | some p =>
    match p.remote with
    | none => stackPut s (p.frame * frameBytes + off % frameBytes) bs
    | some q =>
      keepRequest (useFree (fillTo (peerUsed s q) h off bs.length))
        { type := ifpWriteT, vc := 3, ackReq := true, dest := q, gma := stackGma q p.frame (off % frameBytes),
          stream := Config.freeNat s.freeNo % 2 ^ 24, payload := bs } none

/-- A new row of a context of the instance; a shared page is copied first (09 R221). None: it cannot be written. -/
def cacheWrite (s : State) (site slot : Nat) (dst : ObjPlace) (bs : Bytes) : Option State :=
  let ps := pagePieces dst.off bs.length
  let s := ps.foldl (fun s p => copyOnWrite s slot dst.handle (p.1 / frameBytes)) s
  if objClass dst.handle = 1 ∧ (ps.all (fun p => pageWritable s site slot dst.handle p.1)) = true then
    some (ps.foldl (fun s p => pieceWrite s slot dst.handle p.1 (slice bs (p.1 - dst.off) p.2)) s)
  else none

/-! ### Attention (05 R139) -/

def log2e : W32 := 0x3FB8AA3B
def negInf : W32 := 0xFF800000

/-- dot(q, k[j]): mode F8, or W4F for an MXFP4 key, whose blocks are the groups. -/
def dotQK (q : Bytes) (kMx : Bool) (k : Bytes) (d : Nat) : W32 :=
  if kMx then
    macFloat 0 (fun i => fpMul (ofE2m1 (nibble k i)) (ofE4m3 (byteAt q i))) (fun g => e8m0 (byteAt k (256 + g))) d
  else macFloat 0 (fun i => fpMul (ofE4m3 (byteAt q i)) (ofE4m3 (byteAt k i))) (fun _ => fpOne) d

/-- The running state of attention: m, l, o. -/
structure AttSt where
  m : W32
  l : W32
  o : List W32

/-- The rows of an unmasked position: its key and its value. -/
structure AttRow where
  pos : Nat
  key : Bytes
  val : Bytes

/-- One block of at most 256 positions, `n` in all, of which `rows` are unmasked; a masked position takes no part in the
maximum and weighs nothing. -/
def attBlock (q : Bytes) (d : Nat) (kMx : Bool) (sm : W32) (st : AttSt) (first n : Nat) (rows : List AttRow) : AttSt :=
  if rows.isEmpty then st
  else
    let sc := rows.map (fun r => fMul (dotQK q kMx r.key d) sm)
    let mb := fMax st.m (sc.tail.foldl fMax (sc.headD 0))
    let c := if st.m = negInf then 0 else fExp2 (fMul (fSub st.m mb) log2e)
    let at_ (j : Nat) : Option (AttRow × W32) := (rows.zip sc).find? (fun x => x.1.pos == first + j)
    let p := (List.range n).map (fun j => ((at_ j).map (fun x => fExp2 (fMul (fSub x.2 mb) log2e))).getD 0)
    let p8 := p.map (fun x => (toE4m3 (x.getLsbD 31) (fp x)).1)
    { m := mb
      l := fAdd (fMul st.l c) (vReduce fAdd 0 p)
      o := (List.range d).map (fun i =>
        let t (j : Nat) : Fp := match at_ j with
          | some x => fpMul (ofE4m3 (byteAt p8 j)) (ofE4m3 (byteAt x.1.val i))
          | none => .num false 0 0
        fAdd (fMul (st.o.getD i 0) c) (macFloat 0 t (fun _ => fpOne) n)) }

/-- The unmasked positions. -/
def attPositions (len : Nat) (mask : List Bool) : List Nat := (List.range len).filter (fun j => mask.getD j false)

/-- The ranges of the caches that are read: key and value of each unmasked position. -/
def attReads (d len : Nat) (kMx : Bool) (k v : CacheRows) (mask : List Bool) : List (ObjPlace × Nat) :=
  ((attPositions len mask).map (fun j =>
    [({ k.first with off := k.first.off + k.stride * j }, rowLen kMx d), ({ v.first with off := v.first.off + v.stride * j }, d)])).flatten

/-- The rows as they were read. -/
def attRows : List Nat → List Bytes → List AttRow
  | j :: js, a :: b :: l => { pos := j, key := a, val := b } :: attRows js l
  | _, _ => []

/-- out of one query head. -/
def attention (q : Bytes) (d len : Nat) (kMx : Bool) (sm : W32) (rows : List AttRow) : List W32 :=
  let st := (List.range (ceilDiv len 256)).foldl (fun st b =>
    attBlock q d kMx sm st (256 * b) (Nat.min 256 (len - 256 * b)) (rows.filter (fun r => r.pos / 256 == b)))
    { m := negInf, l := 0, o := List.replicate d 0 }
  st.o.map (fun x => if st.l.toNat % 0x80000000 = 0 then 0 else fDiv x st.l)

/-! ### COMPILED_PROGRAM_ITEM -/

/-- The ranges of the core store an item reads. -/
def itemReads : EngineItem → List (Nat × Nat)
  | .mac mode a b acc n scale => [(a, (macBytes mode n).1), (b, (macBytes mode n).2), (acc, 4), (scale, macScales mode n)]
  | .vec op a b c _ n => [(a, laneBytes (laneSrc op) n), (b, if 2 ≤ laneArgs op then 4 * n else 0), (c, if 3 ≤ laneArgs op then 4 * n else 0)]
  | .vecBf16 op a b c _ n => [(a, 2 * n), (b, if 2 ≤ laneArgs op then 2 * n else 0), (c, if 3 ≤ laneArgs op then 2 * n else 0)]
  | .reduce _ src _ n => [(src, 4 * n)]
  | .rope _ _ _ => []
  | .toMx src _ n => [(src, 4 * n)]
  | .toE4m3 src _ n => [(src, 4 * n)]
  | .stage _ _ _ _ => []
  | .cacheRow _ src d _ => [(src, 4 * d)]
  | .attend q _ d _ _ _ _ _ _ _ => [(q, d)]

/-- The range of the core store an item writes. -/
def itemWrite : EngineItem → Nat × Nat
  | .mac _ _ _ acc _ _ => (acc, 4)
  | .vec op _ _ _ dst n => (dst, laneBytes (laneDst op) n)
  | .vecBf16 _ _ _ _ dst n => (dst, 2 * n)
  | .reduce _ _ dst _ => (dst, 4)
  | .rope _ _ dst => (dst, 12)
  | .toMx _ dst n => (dst, rowLen true n)
  | .toE4m3 _ dst n => (dst, n)
  | .stage _ dst n _ => (dst, n)
  | .cacheRow _ src _ _ => (src, 0)
  | .attend _ dst d _ _ _ _ _ _ _ => (dst, 4 * d)

/-- The ranges of Stockpot objects an item reads. -/
def itemRows : EngineItem → List (ObjPlace × Nat)
  | .stage src _ n _ => [(src, n)]
  | .attend _ _ d len kMx k v _ mask _ => attReads d len kMx k v mask
  | _ => []

def itemFar : EngineItem → List (W64 × Bytes)
  | .stage _ _ _ far => far
  | .attend _ _ _ _ _ _ _ _ _ far => far
  | _ => []

/-- A head dimension: a multiple of 32 up to 256 (05 R138). -/
def headDim (d : Nat) : Bool := d % 32 == 0 && d != 0 && decide (d ≤ 256)

/-- Every range of an item lies in program space (05 R127), a position is below 2^22 (R123), a head dimension is one. -/
def itemFits (it : EngineItem) : Bool :=
  (itemWrite it :: itemReads it).all (fun r => decide (progRegion ≤ r.1) && decide (r.1 + r.2 ≤ 0x100000)) &&
  (match it with
   | .rope pos _ _ => decide (pos < 2 ^ 22)
   | .cacheRow _ _ d _ => headDim d
   | .attend _ _ d _ _ _ _ _ _ _ => headDim d
   | _ => true)

/-- What an item does, with the rows it read; none: it fails. -/
def itemRun (s : State) (site slot : Nat) (rows : List Bytes) : EngineItem → Option State
  | .mac mode a b acc n scale => some (macItem s site mode a b acc n scale)
  | .vec op a b c dst n => some (vecItem s site op a b c dst n)
  | .vecBf16 op a b c dst n => some (vecBf16Item s site op a b c dst n)
  | .reduce op src dst n => some (reduceItem s site op src dst n)
  | .rope pos freq dst => some (ropeItem s site pos freq dst)
  | .toMx src dst n => some (storeWrite s site dst (rowBytes true (loadLanes s site src 32 n)))
  | .toE4m3 src dst n => some (storeWrite s site dst (rowBytes false (loadLanes s site src 32 n)))
  | .stage _ dst _ _ => some (storeWrite s site dst rows.flatten)
  | .cacheRow mx src d dst => cacheWrite s site slot dst (rowBytes mx (loadLanes s site src 32 d))
  | .attend q dst d len kMx _ _ sm mask _ =>
    some (storeWrite s site dst (lanesBytes 32 (attention (storeRead s site q d) d len kMx sm (attRows (attPositions len mask) rows))))

/-- A compiled program of the instance lies in the core's program space, here for the core's own slots or for those it
stands in for (05 R141). -/
def hasProgram (s : State) (site slot : Nat) : Bool := (coreAt s site).programs.any (fun p => p.2.1 == slot)

/-- The engine starts an item of class 5: nothing of a higher class is ready (05 R130); a write to another part waits for
room in the store of requests (11 R273). -/
def itemStarts (s : State) (site slot : Nat) (it : EngineItem) : Bool :=
  !coreAway s site && hasProgram s site slot && !passStopped s slot && itemFits it && !higherReady s site 5 &&
  (reqRoom s || !(match it with | .cacheRow _ _ _ _ => true | _ => false))

/-- R139: the engine runs one item of a class 5 program. A core store word with a double-bit error, a lost page, an
uncorrectable line or a refused access fails it, and with it the frame in work (05 R126, 20 Table 20.1). The clocks it takes
are as compiled: a free value of at most one chunk (05 R130, Table 05.3). -/
def programItem (s : State) (site slot : Nat) (it : EngineItem) : State :=
  if itemStarts s site slot it then
    let s := useFree (engBusy s site 5 (Config.freeNat s.freeNo % 33))
    let c := itemCheck s site (some slot) (itemReads it)
    let r := readsAll (objRead site slot (itemFar it)) (itemRows it) c.2
    if c.1 then failPass r.2 slot stCollFailed
    else ((r.1.bind (fun rows => itemRun r.2 site slot rows it))).getD (failPass r.2 slot stCollFailed)
  else s

def execCompiledProgramItem (site slot : Nat) (item : EngineItem) (upsets : List (Nat × Nat)) (s : State) : Answer :=
  onUnit (decide (site < 800) && decide (slot < 64)) (declared (programItem (addUpsets s site upsets) site slot item))

end Sys2Proof.Machine
end

