-- ==== Sys2Proof/Machine/Inst.lean ====
section
/-! DEFINITION. Instances as commands name them, commands whose host reads may be held (15 R381), delta versions and
completion rings (12 R299-R301, 15 R372-R376). -/

namespace Sys2Proof.Machine

/-! ### Commands with host reads -/

/-- The state with an accepted command's request in its mailbox, to read its parameters from. -/
def reqView (s : State) (r : MbxRef) (req : SMap Byte) : State := setMbx s r.id { mbxAt s r.id with req := req }

/-- The accepted command of a mailbox whose host reads are held, with its request. -/
def heldCmd (s : State) (m : MbxId) (op : Nat) : Option (MbxRef × SMap Byte) :=
  s.dmaWait.find? (fun w => decide (w.1.id = m) && w.1.op == op)

/-- A long command that reads host memory: accepted, and run when Bus Master Enable of its function is set. `eff` gets a
state to read the request from, what the command remembers, and the state it acts on. -/
def runDma (s : State) (m : MbxId) (op len : Nat) (chk : Option Err) (eff : State → MbxRef → State → State) : State :=
  match heldCmd s m op with
  | some w =>
    if busMaster s m.pf then eff (reqView s w.1 w.2) w.1 { s with dmaWait := s.dmaWait.filter (fun x => x != w) } else s
  | none =>
    runCmd s m op len chk
      (if busMaster s m.pf then eff s (mref s m) (accept s m)
       else { accept s m with dmaWait := s.dmaWait ++ [(mref s m, (mbxAt s m).req)] })

/-! ### Instances named by commands (16 R384 check 6, R386) -/

/-- The instance a command names by number at an offset. -/
def instNamed (s : State) (m : MbxId) (off : Nat) : Option (Nat × Instance) :=
  s.insts.find? (fun p => p.2.number == reqN s m off 2)

/-- It exists, and its world allows the mailbox. -/
def instOk (s : State) (m : MbxId) (off : Nat) : Option Err :=
  match instNamed s m off with
  | none => some { st := stNoInstance, d0 := reqN s m off 2 }
  | some p => need (!p.2.secure || mbxSecure s m) stWorldDenied (reqN s m off 2)

/-- And this part is its entry part. -/
def entryOk (s : State) (m : MbxId) (off : Nat) : Option Err :=
  match instOk s m off, instNamed s m off with
  | none, some p => need (entryHere s p.2) stNoInstance (reqN s m off 2)
  | e, _ => e

/-- The effect on the instance a command names. -/
def withInst (s : State) (m : MbxId) (off : Nat) (eff : Nat → Instance → State) : State :=
  match instNamed s m off with
  | some p => eff p.1 p.2
  | none => s

/-- A condition on the instance a command names. -/
def instIs (s : State) (m : MbxId) (off : Nat) (f : Instance → Bool) : Bool :=
  match instNamed s m off with
  | some p => f p.2
  | none => false

/-- The instance's 14 digest: the first 16 bytes of SHAKE256 of its seed root (13 R319, 14 R351). -/
def seedDigest (i : Instance) : Bytes := shake256 16 i.seed

def genState (s : State) (slot : Nat) : Nat := rdF s (imgSlotReg slot 8) 1 0
def genCur (s : State) (slot : Nat) : Nat := (rd s (imgSlotReg slot 0)).toNat
def genNext (s : State) (slot : Nat) : Nat := (rd s (imgSlotReg slot 4)).toNat
def barrierUp (s : State) (slot : Nat) : Bool := rbit s (imgSlotReg slot 8) 3

/-! ### Delta versions (12 R299, R300, 09 R222) -/

/-- One reference more on a version. -/
def refVer (i : Instance) (v : Nat) : Instance :=
  match mapFind i.vers v with
  | some x => { i with vers := mapSet i.vers v { x with refs := x.refs + 1 } }
  | none => i

/-- One reference less; the version is freed with its last. -/
def dropVer (s : State) (slot v : Nat) : State :=
  match instOf s slot with
  | none => s
  | some i =>
    match mapFind i.vers v with
    | none => s
    | some x =>
      if x.refs ≤ 1 then freeObj (setInst s slot { i with vers := mapDel i.vers v }) v
      else setInst s slot { i with vers := mapSet i.vers v { x with refs := x.refs - 1 } }

/-- A loaded version becomes the set's current one; the old loses the set's reference. -/
def switchVer (s : State) (slot h new : Nat) : State :=
  match instOf s slot with
  | none => s
  | some i =>
    match mapFind i.sets h with
    | none => s
    | some d =>
      let s := setInst s slot { i with sets := mapSet i.sets h { d with cur := new } }
      dropVer s slot d.cur

/-! ### Completion rings (15 R372-R376) -/

/-- Free entries of a ring. -/
def ringFree (r : Ring) : Nat := 2 ^ r.sizeLog2 - (r.head - r.tail).toNat

/-- One entry at the head, with its PHASE (15 R373): `bs` has PHASE 0. -/
def ringEntry (s : State) (slot : Nat) (bs : Bytes) : State :=
  match instOf s slot with
  | none => s
  | some i =>
    let r := i.ring
    let phase := r.head.toNat / 2 ^ r.sizeLog2 % 2
    let b0 : Byte := byteAt bs 0 ||| BitVec.ofNat 8 phase
    let a := r.addr + 64 + BitVec.ofNat 64 (r.head.toNat % 2 ^ r.sizeLog2 * 32)
    setInst (dmaWrite s 0 a (b0 :: bs.drop 1)) slot { i with ring := { r with head := r.head + 1 } }

/-- R376: the ring's vector is signalled, unless its holdoff runs. -/
def ringSignal (s : State) (slot : Nat) : State :=
  match instOf s slot with
  | none => s
  | some i =>
    if i.ring.quiet then setInst s slot { i with ring := { i.ring with unsignalled := true } }
    else signal (setInst s slot { i with ring := { i.ring with quiet := decide (i.ring.holdoff ≠ 0) } }) 0 i.ring.vector

/-- A frame's entries, then HEAD, then the vector (15 R374). -/
def ringPost (s : State) (slot : Nat) (entries : List Bytes) : State :=
  let s := entries.foldl (fun s e => ringEntry s slot e) s
  match instOf s slot with
  | none => s
  | some i => ringSignal (dmaWrite s 0 i.ring.addr (leBytes 8 i.ring.head.toNat)) slot

end Sys2Proof.Machine
end

