-- ==== Sys2Proof/Machine/Images.lean ====
section
/-! DEFINITION. Layout images: the checks of a load, sections and verdicts, the writing of layers, the ledger, and the
change of generation (13, 18 R424, R427). -/

namespace Sys2Proof.Machine

/-! ### The image's own fields (13 Tables 13.1, 13.2) -/

def entKind (e : Bytes) : Nat := leAt e 0 1
def entLayer (e : Bytes) : Nat := leAt e 2 2
def entOffset (e : Bytes) : Nat := leAt e 16 8
def entLength (e : Bytes) : Nat := leAt e 24 8

/-- Rank `o` is one of a section's targets: ORDINAL + j * STRIDE. -/
def entMine (o : Nat) (e : Bytes) : Bool :=
  (List.range (leAt e 6 2)).any (fun j => leAt e 4 2 + j * leAt e 8 2 == o)

/-- A manifest entry by itself: known KIND, REPLICAS at least 1, reserved bytes zero. -/
def entOk (e : Bytes) : Bool :=
  1 ≤ entKind e && entKind e ≤ 4 && 1 ≤ leAt e 6 2 && leAt e 1 1 == 0 && leAt e 10 6 == 0

/-- Sections lie within IMAGE_LEN and overlap no other. -/
def entsApart (len : Nat) : List Bytes → Bool
  | [] => true
  | e :: es =>
    decide (entOffset e + entLength e ≤ len) &&
    es.all (fun f => decide (entOffset e + entLength e ≤ entOffset f) || decide (entOffset f + entLength f ≤ entOffset e) ||
                     entLength e == 0 || entLength f == 0) &&
    entsApart len es

def imgGen (h : ImageHead) : Nat := leAt h.header 28 4
def imgOwner (h : ImageHead) : Bytes := slice h.header 48 32

/-- M of 13 R313. -/
def manifestDigest (h : ImageHead) : Bytes := shake256 64 (h.header ++ h.entries.flatten)

/-- "SEPTOWLY". -/
def imgMagic : Bytes := [0x53, 0x45, 0x50, 0x54, 0x4F, 0x57, 0x4C, 0x59]

def formatOk (h : ImageHead) (id len : Nat) : Bool :=
  slice h.header 0 8 == imgMagic && leAt h.header 8 2 == 2 && leAt h.header 32 8 == len && leAt h.header 24 4 == id &&
  h.entries.all entOk && entsApart len h.entries

def gradeCode (g : Grade) : Nat := match g with | .g8200 => 24 | .g8170 => 22

/-- The first 32 bytes of SHAKE256 of a registered owner key (18 R427). -/
def keyDigest (k : Bytes) : Bytes := shake256 32 k

/-- An owner key of a world: those of the secure world count for both (18 R427). -/
def keyOf (s : State) (secure : Bool) (d : Bytes) : Bool :=
  s.sec.keys.any (fun k => (k.1 / 16 == 1 || (!secure && k.1 / 16 == 0)) && keyDigest k.2 == d)

/-- The reasons of 13 Table 13.4 that the reader checks on the head, in its order; 0: none. -/
def headReason (s : State) (i : Instance) (h : ImageHead) (id len parts : Nat) : Nat :=
  let pub := slice h.sig 114 57
  if formatOk h id len = false then 1
  else if leAt h.header 12 1 ≠ gradeCode s.grade then 2
  else if !(keyOf s i.secure (imgOwner h) && keyDigest pub == imgOwner h) then 3
  else if Config.ed448Verify pub (manifestDigest h) (slice h.sig 0 114) = false then 4
  else if leAt h.header 16 2 ≠ parts then 5
  else 0

/-! ### Ends of loads -/

def loadOf (s : State) (slot : Nat) : Option Load := (instOf s slot).bind (fun i => i.load)

def setLoad (s : State) (slot : Nat) (l : Load) : State := modInst s slot (fun i => { i with load := some l })

/-- The shadow copies an instance's tiles keep go with its shadow object. -/
def dropShadows (s : State) (slot : Nat) : State :=
  { s with tiles := s.tiles.map (fun t =>
      if t.2.owner.any (fun o => o.slot == slot) then
        (t.1, { t.2 with shadow := [], shadowIn := false, lostRows := [], shadowNext := [] })
      else t) }

/-- Jobs of an instance's load that have not started are dropped; the tile is IDLE again. -/
def dropJobs (s : State) (slot : Nat) : State :=
  (s.tiles.filterMap (fun t =>
    if t.2.prog.any (fun j => j.slot == slot && !j.started && decide (j.why = .load)) then some t.1 else none)).foldl
    (fun s k => modTile (setTileState s k 1) k (fun t => { t with prog := none })) s

/-- Compiled programs leave every core's program space. -/
def dropProgs (s : State) (gone : Nat × Nat × Nat → Bool) : State :=
  { s with cores := s.cores.map (fun c => (c.1, { c.2 with programs := c.2.programs.filter (fun p => !gone p) })) }

/-- A load ends without success: what it holds is discarded. -/
def endLoad (s : State) (slot : Nat) (e : Err) : State :=
  match instOf s slot with
  | none => s
  | some i =>
    match i.load with
    | none => s
    | some l =>
      let s := freeObjOpt (freeObjOpt (freeObjOpt s l.stageH) l.shadH) l.shadSecH
      let s := l.newFrames.foldl freeFrame s
      let s := if l.stage || l.repair then s
        else modInst (freeObjOpt (freeObjOpt (dropShadows (dropJobs (dropProgs s (fun p => p.2.1 == slot)) slot) slot) i.shadowH) i.shadowSecH) slot
          (fun i => { i with layers := [], shadowH := none, shadowSecH := none })
      let s := modInst s slot (fun i => { i with load := none })
      finishErr (incHold s (imgReg 0x18) 32 1) l.mbx e

def setReason (s : State) (r : Nat) : State := wrF s (imgReg 0x24) 7 0 r

/-- ST_IMAGE_REJECTED with a reason of 13 Table 13.4, ST_GRADE_MISMATCH for reason 2 (14 R360). -/
def rejection (r detail : Nat) : Err :=
  if r = 2 then { st := stGradeMismatch, d0 := 2 } else { st := stImageRejected, d0 := r, d1 := if r = 6 then detail else 0 }

def rejectLoad (s : State) (slot r detail : Nat) : State :=
  if (loadOf s slot).isSome then endLoad (setReason s r) slot (rejection r detail) else s

/-- An attestation or signature failure: PF1 vector 11 (15 Table 15.8), and SEC_AUTH_FAIL advances (18 R429). -/
def authFail (s : State) : State := signal (incHold s (secReg 0x10) 16 1) 1 11

/-! ### IMAGE_LOAD (13 R318, R319, R321, 16 Table 16.6) -/

/-- The Ladle group lists this part. -/
def rankIn (s : State) (g : Nat) : Option Nat :=
  match mapFind s.ladle.groups g with
  | some x => x.ids.findIdx? (fun p => p == partId s)
  | none => none

/-- PLACE is busy on a placed instance unless it is a repair load; STAGE while a generation commits. -/
def loadBusy (s : State) (slot : Nat) (i : Instance) (stage skip : Bool) (id : Nat) : Option Err :=
  firstErr [
    need i.load.isNone stBusy 0x0301,
    if stage then need (genState s slot != 2) stBusy 0x0304
    else need (!i.placed || (skip && id == i.imageId)) stBusy]

def loadCheck (s : State) (m : MbxId) : Option Err :=
  let slot := reqN s m 8 1
  firstErr [
    fieldCheck s m [(8, decide (slot < 64)), (9, decide (reqN s m 9 1 ≤ 1)), (11, decide (reqN s m 11 1 ≤ 1)), (12, decide (reqN s m 12 2 < 8192)),
      reqZero s m 14 2, reqZero s m 20 4, (24, reqN s m 12 2 == partId s || reqN s m 24 8 == 0),
      (32, reqN s m 12 2 == partId s || reqN s m 32 8 == 0)],
    match instOf s slot with
    | none => some { st := stNoInstance, d0 := 0xFFFF }
    | some i => firstErr [
        need (!i.secure || mbxSecure s m) stWorldDenied i.number,
        need (rankIn s (reqN s m 10 1)).isSome stBadParam 10,
        loadBusy s slot i (reqN s m 9 1 == 1) (reqN s m 11 1 == 1) (reqN s m 16 4)]]

/-- What a load remembers of its command. -/
def newLoad (q : State) (r : MbxRef) (i : Instance) : Load :=
  { stage := reqN q r.id 9 1 == 1, skip := reqN q r.id 11 1 == 1, mbx := r, group := reqN q r.id 10 1
    reader := reqN q r.id 12 2 == partId q, imageId := reqN q r.id 16 4, imageLen := BitVec.ofNat 64 (reqN q r.id 32 8)
    repair := i.placed && reqN q r.id 9 1 == 0 }

/-- The load begins; the reader checks the head. -/
def loadBegin (head : ImageHead) (q : State) (r : MbxRef) (s : State) : State :=
  let slot := reqN q r.id 8 1
  match instOf s slot with
  | none => finishErr s r { st := stNoInstance }
  | some i =>
    let l := newLoad q r i
    let s := setLoad s slot l
    if l.reader then
      let parts := (mapFind s.ladle.groups l.group).elim 0 (fun g => g.ids.length)
      let x := headReason s i head l.imageId l.imageLen.toNat parts
      if x = 0 then s else rejectLoad (if x = 3 ∨ x = 4 then authFail s else s) slot x 0
    else s

/-- Only the reader reads host memory. -/
def loadRun (s : State) (m : MbxId) (head : ImageHead) : State :=
  if (heldCmd s m 0x0301).isSome || reqN s m 12 2 == partId s then runDma s m 0x0301 32 (loadCheck s m) (loadBegin head)
  else runCmd s m 0x0301 32 (loadCheck s m) (loadBegin head s (mref s m) (accept s m))

/-- The request waiting in the mailbox, held or to be taken, has MODE 1. -/
def stageMode (s : State) (m : MbxId) : Bool :=
  match heldCmd s m 0x0301 with
  | some w => reqN (reqView s w.1 w.2) m 9 1 == 1
  | none => reqN s m 9 1 == 1

def execImageLoadPlace (m : MbxId) (head : ImageHead) (s : State) : Answer :=
  onMbx m (if stageMode s m then s else loadRun s m head)

def execImageLoadStage (m : MbxId) (head : ImageHead) (s : State) : Answer :=
  onMbx m (if stageMode s m then loadRun s m head else s)

/-! ### Sections held -/

/-- The layers of a load that have a section on this part. -/
def loadLayers (l : Load) : List Nat := ((l.secs.map (fun x => x.layer)).filter (fun y => y != 0xFFFF)).dedup

/-- What a load holds of one layer. -/
def layerOf (l : Load) (layer : Nat) (st : LayerState) : LayerSt :=
  let bodies := (l.secs.filter (fun x => x.layer == layer)).filterMap (fun x => x.body)
  { layer := layer, state := st
    cfg := (bodies.filterMap (fun b => match b with | .layerCfg c => some c | _ => none)).head?
    arrs := (bodies.map (fun b => match b with | .arrays a => a | _ => [])).flatten
    shad := (bodies.map (fun b => match b with | .shadow a => a | _ => [])).flatten
    prog := (bodies.map (fun b => match b with | .program c => c | _ => [])).flatten }

/-- Engine programs of no layer. -/
def loadProgram (l : Load) : Bytes := (layerOf l 0xFFFF .none).prog

/-- Bytes of a kind of section that come to this part. -/
def ownBytes (o : Nat) (es : List Bytes) (f : Nat → Bool) : Nat :=
  ((es.filter (fun e => entMine o e && f (entKind e))).map entLength).sum

/-- Pages of 2 MiB that hold a number of bytes (09 R217). -/
def pagesFor (n : Nat) : Nat := if n = 0 then 0 else (n - 1) / frameBytes + 1

/-- R320: the load's objects: a class 5 shadow object, and a pinned class 6 staging object. -/
def loadObjects (s : State) (slot : Nat) (i : Instance) (shad other : Nat) : Option (Nat × Nat × State) :=
  match newObjPages s 5 slot i.secure false (pagesFor shad) with
  | none => none
  | some (a, s1) =>
    match newObjPages s1 6 slot i.secure true (pagesFor other) with
    | none => none
    | some (b, s2) => some (a, b, s2)

/-- Frames for pages of an object, each placed under its own index (R321, 09 R223). -/
def replaceFrames (s : State) (secure : Bool) (h : Nat) : List Nat → Option (List Nat × State)
  | [] => some ([], s)
  | n :: ns =>
    match allocPage s secure h n with
    | none => none
    | some (p, s1) =>
      match replaceFrames s1 secure h ns with
      | none => none
      | some (fs, s2) => some (p.frame :: fs, s2)

/-- The indices of an object's lost pages. -/
def lostPages (s : State) : Option Nat → List Nat
  | some h => (objAt s h).elim [] (fun o => (o.pages.zipIdx.filter (fun p => p.1.lost)).map Prod.snd)
  | none => []

def repairFrames (s : State) (i : Instance) : Option (List Nat × State) :=
  match replaceFrames s i.secure (i.shadowH.getD 0) (lostPages s i.shadowH) with
  | none => none
  | some (a, s1) =>
    match replaceFrames s1 true (i.shadowSecH.getD 0) (lostPages s1 i.shadowSecH) with
    | none => none
    | some (b, s2) => some (a ++ b, s2)

/-- The layers and the rank a staged image must match (R333). A part that took over the coordinates of one lost during a
change of generation has no layout of its own to match (R341; DESIGN CHOICE, log 173). -/
def stageMatches (s : State) (slot : Nat) (i : Instance) (l : Load) (rank : Nat) (gen : Nat) : Bool :=
  gen != genCur s slot &&
  (!i.placed || (rank == i.ordinal &&
    (loadLayers l).all (fun y => i.layers.any (fun x => x.layer == y)) && i.layers.all (fun x => (loadLayers l).contains x.layer)))

/-! ### Ends of loads, with success -/

def loadReply (s : State) (l : Load) (layers : Nat) : State :=
  finishOk (incHold s (imgReg 0x14) 32 1) l.mbx (leBytes 4 layers ++ leBytes 4 l.secs.length)

/-- STAGE completes: the sections are held, and replace those of an earlier STAGE (R333). -/
def finishStage (s : State) (slot : Nat) (l : Load) : State :=
  let s := dropStaged s slot
  let s := modInst s slot (fun i => { i with
    load := none
    staged := (loadLayers l).map (fun y => layerOf l y .staged)
    stagedId := l.imageId
    stagedDigest := l.digest
    stagedKey := l.ownerKey
    stagedSkey := l.skey
    stagedProgram := loadProgram l
    stagedH := l.stageH
    nextShadowH := l.shadH
    nextShadowSecH := l.shadSecH })
  let s := wr s (imgSlotReg slot 4) (BitVec.ofNat 32 l.gen)
  loadReply (wrF s (imgSlotReg slot 8) 1 0 0) l (loadLayers l).length

/-- The lost pages of an object get new frames. -/
def refillPages (fs : List Nat) : List Page → List Page × List Nat
  | [] => ([], fs)
  | p :: ps =>
    if p.lost then
      let r := refillPages fs.tail ps
      ({ p with frame := fs.headD p.frame, lost := false } :: r.1, r.2)
    else
      let r := refillPages fs ps
      (p :: r.1, r.2)

def refillObj (s : State) (h : Option Nat) (fs : List Nat) : State × List Nat :=
  match h with
  | none => (s, fs)
  | some h =>
    match objAt s h with
    | none => (s, fs)
    | some o =>
      let r := refillPages fs o.pages
      (setObj s h { o with pages := r.1 }, r.2)

/-- A repair load completes. -/
def finishRepair (s : State) (slot : Nat) (i : Instance) (l : Load) : State :=
  let r := refillObj s i.shadowH l.newFrames
  let r := refillObj r.1 i.shadowSecH r.2
  loadReply (modInst r.1 slot (fun i => { i with load := none })) l 0

/-- R321: every layer held here is COMMITTED: the instance is placed on this part. -/
def finishPlace (s : State) (slot : Nat) (l : Load) : State :=
  let s := freeObjOpt s l.stageH
  let s := modInst s slot (fun i => { i with
    load := none
    placed := true
    imageId := l.imageId
    manifest := l.digest
    ownerKey := l.ownerKey
    skey := l.skey
    cacheBytes := (i.layers.map (fun y => y.cfg.elim 0 (fun c => c.cacheBytes))).sum
    program := loadProgram l })
  loadReply (wr s (imgSlotReg slot 0) (BitVec.ofNat 32 l.gen)) l l.done

/-- A load whose sections have all passed, and whose layers are done, completes. -/
def loadDone (s : State) (slot : Nat) : State :=
  match instOf s slot with
  | none => s
  | some i =>
    match i.load with
    | none => s
    | some l =>
      if !l.manifest || l.secs.any (fun x => x.verdict != some true) then s
      else if l.stage then finishStage s slot l
      else if l.repair then finishRepair s slot i l
      else if i.layers.all (fun y => decide (y.state = .committed)) then finishPlace s slot l
      else s

/-! ### IMAGE_MANIFEST (13 R319, R320) -/

/-- The sections of the manifest that come to a rank. -/
def ownSecs (o : Nat) (es : List Bytes) : List SecSt :=
  (es.zipIdx.filter (fun e => entMine o e.1)).map (fun e => { index := e.2, kind := entKind e.1, layer := entLayer e.1, len := entLength e.1 })

/-- The header and manifest arrive; the objects of the load are made. -/
def manifestIn (s : State) (slot : Nat) (i : Instance) (l : Load) (head : ImageHead) (rank : Nat) : State :=
  let l := { l with
    manifest := true
    gen := imgGen head
    digest := manifestDigest head
    ownerKey := imgOwner head
    skey := keyOf s true (imgOwner head)
    secs := ownSecs rank head.entries }
  let s := setLoad s slot l
  if l.repair then
    if l.gen ≠ genCur s slot then endLoad s slot { st := stBusy }
    else match repairFrames s i with
      | some (fs, s1) => loadDone (setLoad s1 slot { l with newFrames := fs }) slot
      | none => rejectLoad s slot 7 0
  else if l.stage && !stageMatches s slot i l rank l.gen then rejectLoad s slot 1 0
  else
    match loadObjects s slot i (ownBytes rank head.entries (fun k => k == 3)) (ownBytes rank head.entries (fun k => k != 3)) with
    | none => rejectLoad s slot 7 0
    | some (a, b, s1) =>
      let s1 := setLoad s1 slot { l with stageH := some b, shadH := some a }
      let s1 := if l.stage then (if i.placed then s1 else modInst s1 slot (fun i => { i with layers := [], group := l.group, ordinal := rank }))
        else modInst (freeObjOpt (freeObjOpt (dropShadows s1 slot) i.shadowH) i.shadowSecH) slot
          (fun i => { i with layers := [], group := l.group, ordinal := rank, shadowH := some a, shadowSecH := none })
      loadDone (if l.stage then s1 else setLoad s1 slot { l with stageH := some b }) slot

/-- A part whose own seed-root digest differs answers the reader with a mismatch, and waits for its rejection. -/
def execImageManifest (slot : Nat) (head : ImageHead) (digest : Bytes) (s : State) : Answer :=
  onUnit (decide (slot < 64))
    (match instOf s slot, loadOf s slot with
     | some i, some l =>
       match rankIn s l.group with
       | some rank => if l.manifest || seedDigest i != digest then s else manifestIn s slot i l head rank
       | none => s
     | _, _ => s)

/-! ### IMAGE_SECTION, IMAGE_VERDICT, IMAGE_REJECTION, IMAGE_MISMATCH -/

/-- A body of the kind its manifest entry names. -/
def kindOk (k : Nat) : Section → Bool
  | .layerCfg _ => k == 1
  | .arrays _ => k == 2
  | .shadow _ => k == 3
  | .program _ => k == 4

def putSection (index : Nat) (b : Section) (x : SecSt) : SecSt :=
  if x.index = index ∧ x.body = none ∧ kindOk x.kind b = true then { x with body := some b } else x

def execImageSection (slot index : Nat) (body : Section) (s : State) : Answer :=
  onUnit (decide (slot < 64))
    (match loadOf s slot with
     | some l => setLoad s slot { l with secs := l.secs.map (putSection index body) }
     | none => s)

/-- The slot an array record names: the tile's own key (R314). -/
def recKey (s : State) (a : ArrayRec) : Nat := tkey (siteOf s a.row a.col) a.slot

/-- R424: the first site of a layer that the instance's world, or the key that signed the image, does not allow. -/
def deniedSite (s : State) (i : Instance) (skey : Bool) (L : LayerSt) : Option Nat :=
  (L.arrs.map (fun a => siteOf s a.row a.col)).find? (fun c =>
    if i.secure then !siteSecure s c else siteSecure s c && !skey)

/-- Shadow blocks of a non-secure instance that lie in its second object, in secure regions (R424). -/
def secureBlocks (s : State) (i : Instance) (ls : List LayerSt) : Nat :=
  if i.secure then 0 else ((ls.map (fun L => (L.arrs.filter (fun a => siteSecure s (siteOf s a.row a.col))).length)).sum)

/-- The object of the secure layers grows to hold their blocks. -/
def growSecure (s : State) (slot n : Nat) (h : Option Nat) : Option (Option Nat × State) :=
  let need := pagesFor (n * 0x20000)
  match h with
  | none => if need = 0 then some (none, s)
    else match newObjPages s 5 slot true false need with
      | some (a, s1) => some (some a, s1)
      | none => none
  | some a =>
    match objAt s a with
    | none => some (some a, s)
    | some o =>
      if maxPages < need then none else
      match allocPages s true a o.pages.length (need - o.pages.length) with
      | none => none
      | some (ps, s1) => some (some a, setObj s1 a { o with pages := o.pages ++ ps })

/-- The values a shadow block holds, in units. -/
def shadowUnits (fp4 : Bool) (b : ShadowRec) : SMap Int :=
  (b.cells.map (fun c =>
    let put (i n : Nat) : SMap Int := if unitsOf fp4 n = 0 then [] else [(512 * (c.1 / 256) + 2 * (c.1 % 256) + i, unitsOf fp4 n)]
    put 0 (c.2.toNat % 16) ++ put 1 (c.2.toNat / 16))).flatten

/-- The placed values of a shadow copy: where a cell is defective, what the array holds (06 R159). -/
def placedOver (s : State) (p : Nat) (w : SMap Int) : SMap Int :=
  let a := arrayAt s p
  ((a.defects.map (fun d => (d.row, d.cell / 2))).dedup).foldl (fun w x =>
    (List.range 512).foldl (fun w c => if carrier s p c = x.2 then mapPut 0 w (512 * x.1 + c) (cellWeight a x.1 x.2) else w) w) w

/-- Array records of a layer with their shadow blocks. -/
def layerPairs (L : LayerSt) : List (ArrayRec × ShadowRec) := L.arrs.zipIdx.map (fun a => (a.1, L.shad.getD a.2 { cells := [] }))

/-- A repaired layer's blocks take effect together: the rows and the lines they lie in are good again (R321). -/
def applyRepair (s : State) (L : LayerSt) : State :=
  (layerPairs L).foldl (fun s a =>
    let m := recKey s a.1
    modTile s m (fun t => { t with shadow := placedOver s (physTile s m) (shadowUnits a.1.fp4 a.2), lostRows := [], shadowIn := true })) s

/-- The lines of a tile's block in an instance's shadow objects: the first, of 2,048. -/
def blockLine (s : State) (i : Instance) (k : Nat) : Option Nat :=
  let find (h : Option Nat) (secure : Bool) : Option Nat :=
    let ts := shadowTiles s i secure
    if ts.contains k then
      let j := ts.idxOf k
      (h.bind (objAt s)).bind (fun o => (o.pages[j / 16]?).map (fun p => p.frame * 32768 + j % 16 * 2048))
    else none
  (find i.shadowH i.secure).orElse (fun _ => find i.shadowSecH true)

/-- The stack lines of a layer's shadow blocks are rewritten. -/
def cleanBlocks (s : State) (i : Instance) (L : LayerSt) : State :=
  let ls := L.arrs.filterMap (fun a => blockLine s i (recKey s a))
  let good (l : Nat) : Bool := !ls.any (fun b => decide (b ≤ l) && decide (l < b + 2048))
  { s with pot := { s.pot with badLines := s.pot.badLines.filter good, softLines := s.pot.softLines.filter good } }

/-- A frame of the instance is in flight on the part: its pass has not ended here. -/
def flying (i : Instance) : Bool := i.flight.any (fun f => f.msg.marker.isNone && !f.passed)

/-- A layer's sections have all passed. -/
def layerReady (s : State) (slot : Nat) (i : Instance) (l : Load) (layer : Nat) : State :=
  if layer = 0xFFFF then s
  else
    let L := layerOf l layer (if l.stage then .staged else .none)
    match deniedSite s i l.skey L with
    | some c => endLoad s slot { st := stWorldDenied, d0 := c }
    | none =>
      if l.repair then
        let s := cleanBlocks s i L
        if flying i then modInst s slot (fun i => { i with layers := i.layers.map (fun y =>
          if y.layer = layer then { y with shad := L.shad, repairDue := true } else y) })
        else applyRepair s L
      else
        let held := if l.stage then (loadLayers l).map (fun y => layerOf l y .staged) else i.layers ++ [L]
        let h := if l.stage then l.shadSecH else i.shadowSecH
        match growSecure s slot (secureBlocks s i held) h with
        | none => rejectLoad s slot 7 0
        | some (h', s1) =>
          if l.stage then setLoad s1 slot { l with shadSecH := h' }
          else modInst s1 slot (fun i => { i with layers := i.layers ++ [L], shadowSecH := h' })

/-- R320: a verdict on a section held here. -/
def verdictIn (s : State) (slot index : Nat) (pass : Bool) : State :=
  match instOf s slot, loadOf s slot with
  | some i, some l =>
    match l.secs.find? (fun x => x.index == index) with
    | none => if pass then s else rejectLoad s slot 6 index
    | some x =>
      if !pass then rejectLoad s slot 6 index
      else if x.body.isNone || x.verdict.isSome then s
      else
        let l := { l with secs := l.secs.map (fun y => if y.index = index then { y with verdict := some true } else y) }
        let s := setLoad s slot l
        let whole := (l.secs.filter (fun y => y.layer == x.layer)).all (fun y => y.verdict == some true)
        loadDone (if whole then layerReady s slot i l x.layer else s) slot
  | _, _ => s

def execImageVerdict (slot index : Nat) (pass : Bool) (s : State) : Answer :=
  onUnit (decide (slot < 64)) (verdictIn s slot index pass)

/-- A load ends for a reason that came up elsewhere: one of Table 13.4, 0 for seed roots that differ (R319), or 9 where the
Ladle failed, with the failing rank and cause in `detail` (R320; these numbers of the command are the model's, log 172). -/
def rejectionIn (s : State) (slot reason detail : Nat) : State :=
  if reason = 0 then endLoad s slot { st := stStateMismatch, d0 := 1 }
  else if reason = 9 then endLoad s slot { st := stCollFailed, d0 := detail % 0x10000, d1 := detail / 0x10000 }
  else rejectLoad s slot reason detail

def execImageRejection (slot reason detail : Nat) (s : State) : Answer :=
  onUnit (decide (slot < 64)) (rejectionIn s slot reason detail)

/-- At the reader, a part's mismatch ends the load on every part. -/
def execImageMismatch (slot : Nat) (s : State) : Answer :=
  onUnit (decide (slot < 64))
    (match loadOf s slot with
     | some l => if l.reader then endLoad s slot { st := stStateMismatch, d0 := 1 } else s
     | none => s)

/-! ### The ledger (13 R327-R329) -/

/-- The record a reader takes of a pair: the higher SEQ of the good copies. -/
def pairRec (p : LedgerPair) : Option LayerRec :=
  match p.a, p.b with
  | some x, some y => if x.seq < y.seq then some y else some x
  | some x, none => some x
  | none, y => y

def pairIs (slot layer : Nat) (p : LedgerPair) : Bool := (pairRec p).any (fun r => r.slot == slot && r.layer == layer)

def ledgerRec (s : State) (slot layer : Nat) : Option LayerRec := (s.ledger.find? (pairIs slot layer)).bind pairRec

/-- A record is written to copy A, then to copy B. -/
def ledgerWrite (s : State) (r : LayerRec) : State :=
  let r := { r with seq := s.ledgerSeq }
  let p : LedgerPair := { a := some r, b := some r }
  let l := if s.ledger.any (pairIs r.slot r.layer) then s.ledger.map (fun q => if pairIs r.slot r.layer q then p else q)
    else s.ledger ++ [p]
  { s with ledger := l, ledgerSeq := s.ledgerSeq + 1 }

/-- Row 512 of an array agrees with a record. -/
def rowAgrees (s : State) (r : LayerRec) (x : Nat × Nat) : Bool :=
  let a := arrayAt s x.1
  committed a && commitNat a 16 32 == r.gen && commitNat a 48 32 == r.imageId && commitNat a 80 16 == r.layer % 65536 &&
  commitNat a 96 16 == x.2

def recPasses (s : State) (r : LayerRec) : Bool := r.arrays.all (rowAgrees s r)

/-- R322: COMMITTED with the image's IMAGE_ID and GEN, and the arrays pass the scan. -/
def mayskip (s : State) (slot layer id gen : Nat) : Bool :=
  match ledgerRec s slot layer with
  | some r => decide (r.state = .committed) && r.imageId == id && r.gen == gen && recPasses s r
  | none => false

/-! ### LAYER_WRITE (13 R328, R331) -/

/-- The configuration of the slot an array record names. -/
def recCfg (L : LayerSt) (a : ArrayRec) : Option TileCfg :=
  (L.cfg.elim [] (fun c => c.tiles)).find? (fun t => t.row == a.row && t.col == a.col && t.slot == a.slot)

/-- A slot that resolves to a tile that can serve. -/
def slotResolves (s : State) (L : LayerSt) (a : ArrayRec) : Bool :=
  let m := recKey s a
  decide (a.row < 32) && decide (a.col < gradeCols s) && decide (a.slot < 16) && (recCfg L a).isSome &&
  !(coreAt s (m / 32)).failed && !coreOff s (m / 32) && !unitClearing s 1 (m / 32) && tileState s (physTile s m) != 0 && tileState s (physTile s m) != 5

/-- 03 R83: the sign words of a tile. -/
def signWords (seed : W64) (layer block : Nat) : List W32 :=
  let d := shake256 64 (leBytes 8 seed.toNat ++ leBytes 4 layer ++ leBytes 4 block)
  (List.range 16).map (fun w => BitVec.ofNat 32 (leAt d (4 * w) 4))

/-- The words a tile's configuration puts, in order; placement sets ENABLE (02 R61). -/
def cfgWords (s : State) (L : LayerCfg) (layer : Nat) (c : TileCfg) : List (Nat × W32) :=
  let site := siteOf s c.row c.col
  let p := physTile s (tkey site c.slot)
  let pairWords (o : Nat) (l : List W16) : List (Nat × W32) :=
    (List.range 256).map (fun i => (tileReg p (o + 4 * i), BitVec.ofNat 32 ((l.getD (2 * i) 0).toNat + 65536 * (l.getD (2 * i + 1) 0).toNat)))
  [(tileReg p 0, setFld c.ctrl 0 0 1), (tileReg p 0x08, c.fs0), (tileReg p 0x0C, c.fs1), (tileReg p 0x14, c.peri)] ++
  (List.range 64).map (fun i => (tileReg p (0x100 + 4 * i), c.table.getD i 0)) ++ presetWords p 0x10 c.act ++
  pairWords 0x400 c.scale ++ pairWords 0x800 c.bias ++
  [(edgeReg site c.slot 0, c.edge), (sfbSlotReg site c.slot 0, c.sieve), (sfbSlotReg site c.slot 4, c.fb)] ++
  (signWords L.whiskSeed layer c.block).zipIdx.map (fun w => (edgeReg site c.slot (0x40 + 4 * w.2), w.1))

/-- A whole-word write to the staging copy: RW bits alone. -/
def stageMasked (s : State) (x : Nat × W32) : State :=
  match regDesc x.1 with
  | some d => wrStage s x.1 (regNew d (rd s x.1) x.2)
  | none => s

/-- The slots of a layer at a site. -/
def layerSlots (s : State) (L : LayerSt) (site : Nat) : List Nat :=
  ((L.cfg.elim [] (fun c => c.tiles)).filter (fun t => siteOf s t.row t.col == site)).map (fun t => t.slot)

def layerSites (s : State) (L : LayerSt) : List Nat := ((L.cfg.elim [] (fun c => c.tiles)).map (fun t => siteOf s t.row t.col)).dedup

/-- The owner of a record's slot. -/
def recOwner (slot : Nat) (L : LayerSt) (a : ArrayRec) : Owner :=
  { slot := slot, layer := L.layer, block := a.block, fp4 := a.fp4, outDim := L.cfg.elim 512 (fun c => c.outDim) }

/-- Owners, registers and signs of a layer, in force at once: its tiles do not serve (R328). -/
def configLayer (s : State) (slot : Nat) (L : LayerSt) : State :=
  match L.cfg with
  | none => s
  | some c =>
    let s := L.arrs.foldl (fun s a => modTile s (recKey s a) (fun t => { t with owner := some (recOwner slot L a) })) s
    let s := ((c.tiles.map (cfgWords s c L.layer)).flatten).foldl stageMasked s
    (layerSites s L).foldl (fun s site => activateSlots s true site (layerSlots s L site)) s

/-- 05 R132 for a core: 128 x FB_CAP + the Sieve's clocks, over the staged values. -/
def shareSum (s : State) (site : Nat) : Nat :=
  128 * fbCap s site + ((List.range 16).map (fun t => ceilDiv (rdF s (sfbSlotReg site t 0) 6 0) 4)).sum

/-- R331: the first check that fails, by its DETAIL1; `s` is the state before the layer's configuration. -/
def layerCause (s : State) (slot : Nat) (L : LayerSt) : Option Nat :=
  if L.cfg.isNone || L.arrs.any (fun a => !slotResolves s L a) then some 5
  else
    let c := configLayer s slot L
    let at_ (f : Nat → Nat → Bool) : Bool := (layerSites c L).any (fun site => (layerSlots c L site).any (f site))
    let asked := (L.cfg.elim [] (fun c => c.tiles))
    if at_ (fun site t => !chainOk c site (headOf c site t)) then some 1
    else if at_ (fun site t => rdF c (edgeReg site t 4) 3 1 != 0) then some 2
    else if at_ (fun site t => rdF c (sfbSlotReg site t 8) 8 6 != 0) then some 3
    else if (layerSites c L).any (fun site => decide (512 <
      128 * fbCap c site + ((List.range 16).map (fun t =>
        match asked.find? (fun x => siteOf c x.row x.col == site && x.slot == t) with
        | some x => ceilDiv (fld x.sieve 6 0) 4
        | none => ceilDiv (rdF c (sfbSlotReg site t 0) 6 0) 4)).sum)) then some 4
    else none

/-- The job that writes a record's array. -/
def recJob (why : ProgFor) (slot gen id : Nat) (L : LayerSt) (a : ArrayRec) : ProgJob :=
  { why := why
    target := a.cells.filterMap (fun c =>
      let v : Int := (c.2.toNat % 16 : Nat) - (c.2.toNat / 16 : Nat)
      if v = 0 then none else some (c.1, v))
    levels := a.cells, fp4 := a.fp4, gen := gen, imageId := id, layer := L.layer, block := a.block, slot := slot, blank := false }

/-- The arrays of a layer as its ledger record lists them. -/
def layerArrays (s : State) (L : LayerSt) : List (Nat × Nat) := L.arrs.map (fun a => (physTile s (recKey s a), a.block))

def layerRecord (s : State) (slot : Nat) (i : Instance) (L : LayerSt) (st : RecState) (id gen prevId prevGen : Nat) : LayerRec :=
  { seq := 0, inst := i.number, slot := slot, state := st, layer := L.layer, imageId := id, gen := gen, prevId := prevId
    prevGen := prevGen, arrays := layerArrays s L }

/-- Steps 1 and 2: the record is WRITING, and every array of the layer is to be written. -/
def startWrite (s : State) (slot : Nat) (i : Instance) (L : LayerSt) (why : ProgFor) (id gen prevId prevGen : Nat) : State :=
  let s := ledgerWrite s (layerRecord s slot i L .writing id gen prevId prevGen)
  L.arrs.foldl (fun s a =>
    let m := recKey s a
    let p := physTile s m
    if (coreAt s (p / 32)).failed then s
    else
      let s := modTile (setTileState s p 3) p (fun t => { t with prog := some (recJob why slot gen id L a) })
      modTile s m (fun t => { t with due := false, early := false, driftAgain := false, driftRef := false })) s

/-- The layer's arrays are written. -/
def allWritten (s : State) (L : LayerSt) : Bool :=
  (layerArrays s L).all (fun x => (tileAt s x.1).prog.isNone)

/-- A tile serves; one in a run goes on CALIBRATING, and the passes that need it wait for the run's end (07 R177). -/
def serveAfterRun (s : State) (p : Nat) : State :=
  match (tileAt s p).calRun with
  | some r =>
    if tileState s p = 4 then
      modTile (enableTile s p) p (fun t => { t with calRun := some { r with prior := 2 }, holdFrom := some s.rackTime })
    else serveTile s p
  | none => serveTile s p

/-- One slot of a layer serves what it now holds; the first residence of its shadow copy asks for a column run. A slot block
of it on a stand-in core is loaded again (13 R336). -/
def serveSlot (s : State) (slot : Nat) (L : LayerSt) (x : ArrayRec × ShadowRec) : State :=
  let m := recKey s x.1
  let p := physTile s m
  let first := !(tileAt s m).shadowSeen
  let s := match (tileAt s m).standin with
    | some c => if (blockAt s c m).isSome then loadBlock (dropBlocks s c [m]) c m else s
    | none => s
  let s := modTile s m (fun t => { t with
    owner := some (recOwner slot L x.1)
    work := {}
    next := {}
    lastStep := 0
    wide := []
    inBuf := []
    shadow := placedOver s p (shadowUnits x.1.fp4 x.2)
    shadowNext := []
    shadowIn := true
    shadowSeen := true
    handed := []
    lostRows := [] })
  if (coreAt s (p / 32)).failed then s
  else
    let s := serveAfterRun s p
    if first then calTrigger s p 5 2 else s

/-- A layer's compiled programs are placed in the program space of the cores that hold it, or of the core that stands in
for one (13 Table 13.2, 05 R141, DESIGN CHOICE, log 151). -/
def placeProgs (s : State) (slot : Nat) (L : LayerSt) : State :=
  let s := dropProgs s (fun p => p.2.1 == slot && p.2.2 == L.layer)
  if L.prog.isEmpty then s
  else (layerSites s L).foldl (fun s site =>
    modCore s (if (coreAt s site).failed then (helperOf s site).getD site else site)
      (fun c => { c with programs := c.programs ++ [(site, slot, L.layer)] })) s

/-- Step 3: the record is COMMITTED; configuration, signs and shadow blocks take effect. -/
def commitLayer (s : State) (slot : Nat) (i : Instance) (L : LayerSt) (id gen prevId prevGen : Nat) : State :=
  let s := ledgerWrite s (layerRecord s slot i L .committed id gen prevId prevGen)
  let s := placeProgs (configLayer s slot L) slot L
  (layerPairs L).foldl (fun s x => serveSlot s slot L x) s

/-- A layer takes the place of the one of its number, or stands at the end. -/
def putLayer (L : LayerSt) (ls : List LayerSt) : List LayerSt :=
  if ls.any (fun y => y.layer == L.layer) then ls.map (fun y => if y.layer = L.layer then L else y) else ls ++ [L]

def setLayer (s : State) (slot : Nat) (L : LayerSt) : State := modInst s slot (fun i => { i with layers := putLayer L i.layers })

/-- Bytes of a load that its staging object still has to hold: ARRAYS data goes when its layer commits (R321). -/
def stagedBytes (i : Instance) (l : Load) : Nat :=
  ((l.secs.filter (fun x => x.kind != 3 && !(x.kind == 2 && i.layers.any (fun y => y.layer == x.layer && decide (y.state = .committed))))).map
    (fun x => x.len)).sum

def trimStage (s : State) (slot : Nat) : State :=
  match instOf s slot with
  | none => s
  | some i =>
    match i.load with
    | none => s
    | some l =>
      match l.stageH with
      | none => s
      | some h =>
        match objAt s h with
        | none => s
        | some o =>
          let n := pagesFor (stagedBytes i l)
          dropPages (setObj s h { o with pages := o.pages.take n }) (o.pages.drop n)

/-- What a layer that fails leaves of its configuration: the checks of its chains, edges and slices were made on it, and
their codes stand (02 R52, 03 Table 03.7, 04 R116); its slots are not placed. -/
def failedCfg (s : State) (slot : Nat) (L : LayerSt) (cause : Nat) : State :=
  if cause = 5 then s
  else L.arrs.foldl (fun c a => modTile c (recKey s a) (fun t => { t with owner := (tileAt s (recKey s a)).owner })) (configLayer s slot L)

/-- R331: the record is FAILED and the load ends. -/
def failLayer (s : State) (slot : Nat) (i : Instance) (l : Load) (L : LayerSt) (cause : Nat) : State :=
  let s := failedCfg s slot L cause
  let s := ledgerWrite s { layerRecord s slot i L .failed l.imageId l.gen 0 0 with arrays := [] }
  let s := wrF (setReason s 8) (imgReg 0x24) 31 16 L.layer
  endLoad s slot { st := stLayerFailed, d0 := L.layer, d1 := cause }

/-- A tile of the layer is in a refresh or a run; the write waits for it (06 R155, 07 R180). -/
def layerHeld (s : State) (L : LayerSt) : Bool :=
  L.arrs.any (fun a =>
    let m := recKey s a
    (tileAt s m).refresh.isSome || (tileAt s (physTile s m)).prog.isSome || (tileAt s (physTile s m)).calRun.isSome)

/-- A layer of a PLACE load is written: called to begin it, and again when its arrays are written. -/
def layerWrite (s : State) (slot layer : Nat) : State :=
  match instOf s slot, loadOf s slot with
  | some i, some l =>
    if l.stage || l.repair then s
    else match i.layers.find? (fun y => y.layer == layer) with
      | none => s
      | some L =>
        match L.state with
        | .none =>
          if layerHeld s L then s
          else match layerCause s slot L with
            | some c => failLayer s slot i l L c
            | none =>
              if l.skip && mayskip s slot layer l.imageId l.gen then
                loadDone (trimStage (setLayer (commitLayer s slot i L l.imageId l.gen 0 0) slot { L with state := .committed }) slot) slot
              else setLayer (startWrite s slot i L .load l.imageId l.gen 0 0) slot { L with state := .writing }
        | .writing =>
          if allWritten s L then
            let s := setLayer (commitLayer s slot i L l.imageId l.gen 0 0) slot { L with state := .committed }
            loadDone (trimStage (setLoad s slot { l with done := l.done + 1 }) slot) slot
          else s
        | _ => s
  | _, _ => s

def execLayerWrite (slot layer : Nat) (s : State) : Answer :=
  onUnit (decide (slot < 64)) (spoonWake (layerWrite s slot layer))

/-! ### IMAGE_STATUS (16 Table 16.6) -/

def stateCode (p : LedgerPair) (r : LayerRec) : Nat :=
  if p.torn then 2 else match r.state with | .writing => 4 | .committed => 1 | .failed => 3

/-- The layers of a slot with their states: the ledger's, and STAGED for one that is only held. -/
def statusRows (s : State) (slot : Nat) : List (Nat × Nat) :=
  let led := s.ledger.filterMap (fun p => (pairRec p).bind (fun r => if r.slot = slot then some (r.layer, stateCode p r) else none))
  let held := (instOf s slot).elim [] (fun i => i.staged.map (fun y => y.layer))
  held.foldl (fun m y => if (mapFind m y).isSome then m else mapSet m y 5) (led.foldl (fun m x => mapSet m x.1 x.2) [])

def execImageStatus (m : MbxId) (s : State) : Answer :=
  let slot := reqN s m 8 1
  onMbx m (runCmd s m 0x0302 8
    (firstErr [
      fieldCheck s m [(8, decide (slot < 64)), reqZero s m 9 1, reqZero s m 12 4],
      need (!((instOf s slot).any (fun i => i.secure)) || mbxSecure s m) stWorldDenied (instNumber s slot)])
    (let rows := ((statusRows s slot).filter (fun x => reqN s m 10 2 ≤ x.1)).take 114
     reply s m (leBytes 2 rows.length ++ zeros 6 ++ (rows.map (fun x => leBytes 2 x.1 ++ leBytes 1 x.2 ++ zeros 1)).flatten)))

/-! ### GEN_BEGIN, GEN_COMMIT, GEN_ABORT (13 R334, R335) -/

/-- The staged layers that fail here, with their causes, in layer order. -/
def stagedFails (s : State) (slot : Nat) (i : Instance) : List (Nat × Nat) :=
  i.staged.filterMap (fun L => (layerCause s slot L).map (fun c => (L.layer, c)))

/-- Rank of a part in the instance's group. -/
def rankOfPart (s : State) (i : Instance) (p : Nat) : Nat :=
  (mapFind s.ladle.groups i.group).elim 0 (fun g => (g.ids.findIdx? (fun x => x == p)).getD g.ids.length)

/-- The first part that fails, by rank: (part, layer, cause). -/
def firstFail (s : State) (i : Instance) : List (Nat × Nat × Nat) → Option (Nat × Nat × Nat)
  | [] => none
  | f :: fs =>
    match firstFail s i fs with
    | none => some f
    | some g => if rankOfPart s i g.1 < rankOfPart s i f.1 then some g else some f

/-- The failures of every part: those reported, and this part's own. -/
def allFails (s : State) (slot : Nat) (i : Instance) (fails : List (Nat × Nat × Nat)) : List (Nat × Nat × Nat) :=
  (match (stagedFails s slot i).head? with | some x => [(partId s, x.1, x.2)] | none => []) ++ fails

def execGenBegin (m : MbxId) (fails : List (Nat × Nat × Nat)) (s : State) : Answer :=
  onMbx m (runCmd s m 0x0303 8
    (firstErr [
      fieldCheck s m [reqZero s m 10 6], entryOk s m 8,
      match instNamed s m 8 with
      | some p => firstErr [need (genState s p.1 != 2) stBusy 0x0304, need (genNext s p.1 != 0) stBusy]
      | none => none])
    (withInst s m 8 (fun slot i =>
      let r := mref s m
      match firstFail s i (allFails s slot i fails) with
      | some f => finishErr (accept s m) r { st := stGenNotReady, d0 := f.1, d1 := f.2.1 * 65536 + f.2.2 }
      | none => finishOk (wrF (accept s m) (imgSlotReg slot 8) 1 0 1) r [])))

/-- The change of generation is under way, its command done with ST_GEN_INCOMPLETE: it may be issued again. -/
def mayResume (s : State) (slot : Nat) (i : Instance) : Bool := genState s slot == 2 && i.genJob.isNone

def execGenCommit (m : MbxId) (s : State) : Answer :=
  onMbx m (runCmd s m 0x0304 8
    (firstErr [
      fieldCheck s m [reqZero s m 10 6], entryOk s m 8,
      match instNamed s m 8 with
      | some p => firstErr [
          need (genState s p.1 == 1 || mayResume s p.1 p.2) stGenNotReady (partId s),
          need (p.2.save.isNone && !p.2.pause) stBusy (if p.2.save.isSome then 0x0605 else 0)]
      | none => none])
    (withInst s m 8 (fun slot i =>
      let s1 := modInst (accept s m) slot (fun i => { i with genJob := some (mref s m) })
      let s1 := wrF (wbit s1 (imgSlotReg slot 8) 3 true) (imgSlotReg slot 8) 1 0 2
      wrF s1 (imgSlotReg slot 8) 31 16 i.staged.length)))

def execGenAbort (m : MbxId) (s : State) : Answer :=
  onMbx m (runCmd s m 0x0305 8
    (firstErr [
      fieldCheck s m [reqZero s m 10 6], entryOk s m 8,
      match instNamed s m 8 with
      | some p => firstErr [need (genState s p.1 != 2) stBusy 0x0304, need (genState s p.1 == 1) stGenNotReady (partId s)]
      | none => none])
    (withInst s m 8 (fun slot _ =>
      let s := reply (dropStaged s slot) m []
      wr (wrF s (imgSlotReg slot 8) 1 0 0) (imgSlotReg slot 4) 0)))

/-! ### GEN_LAYER_REWRITE (13 R336) -/

/-- Input vectors of a frame. -/
def frameVecs (f : FrameMsg) : Nat := (f.seqs.map (fun q => q.inLen)).sum

/-- A frame has left a layer's tiles on this part. -/
def leftLayer (s : State) (i : Instance) (L : LayerSt) (f : Flight) : Bool :=
  f.passed || f.msg.marker.isSome ||
  (i.passStep == some f.msg.step && L.arrs.all (fun a =>
    let m := recKey s a
    decide (frameVecs f.msg ≤ (tileAt s (tkey (m / 32) (headOf s (m / 32) (m % 32)))).nextVec)))

/-- The change of generation has begun: committing on the entry part, and on another part by the entry part's word. -/
def genMoving (s : State) (slot : Nat) (i : Instance) : Bool := genNext s slot != 0 && (genState s slot == 2 || !entryHere s i)

/-- Captures of a layer's chains are dropped; an on-demand run waits again (R336). -/
def dropCaptures (s : State) (inst layer : Nat) : State :=
  (s.cores.filterMap (fun c => if c.2.capture.any (fun x => x.inst == inst && x.layer == layer && !x.test) then some c.1 else none)).foldl
    (fun s c =>
      let req := (coreAt s c).capture.bind (fun x => x.onDemand)
      let s := incHold (setCapture s c none) (spoonReg 0x14) 32 1
      match req with
      | some r => modTile s r.tile (fun t => { t with spoonReq := some r })
      | none => s) s

/-- A slice that a slot heads returns to ARRAY: its grant ends, and its window count and the slot's cached rows go. -/
def sliceReset (s : State) (m : Nat) : State :=
  let site := m / 32
  let t := m % 32
  let s := setFbState (if (coreAt s site).grants.contains t then takeGrant s site t else s) site t 0
  modCore s site (fun c => { cacheDrop c (fun slot _ => slot == t) with
    grantEnds := setDel c.grantEnds t
    covers := setDel c.covers t
    coverEnds := setDel c.coverEnds t
    escal := setDel c.escal t
    back := setDel c.back t
    winCount := mapDel c.winCount t })

/-- Grants of a layer's slices end, they return to ARRAY, their window counts and cached rows go. -/
def resetSlices (s : State) (L : LayerSt) : State :=
  L.arrs.foldl (fun s a =>
    let m := recKey s a
    sliceReset s m) s

/-- Every layer on the part has switched: the old shadow object is freed. -/
def switchObjects (s : State) (slot : Nat) : State :=
  match instOf s slot with
  | none => s
  | some i =>
    if i.staged.isEmpty then
      let s := freeObjOpt (freeObjOpt (freeObjOpt s i.shadowH) i.shadowSecH) i.stagedH
      modInst s slot (fun i => { i with
        shadowH := i.nextShadowH
        shadowSecH := i.nextShadowSecH
        nextShadowH := none
        nextShadowSecH := none
        stagedH := none })
    else s

def setStaged (s : State) (slot : Nat) (L : LayerSt) : State :=
  modInst s slot (fun i => { i with staged := i.staged.map (fun y => if y.layer = L.layer then L else y) })

/-- Step 3 of a rewrite. -/
def rewriteDone (s : State) (slot : Nat) (i : Instance) (L : LayerSt) : State :=
  let s := commitLayer (resetSlices s L) slot i L i.stagedId (genNext s slot) i.imageId (genCur s slot)
  let s := dropCaptures s i.number L.layer
  let s := setLayer s slot { L with state := .committed }
  let s := modInst s slot (fun i => { i with
    staged := i.staged.filter (fun y => y.layer != L.layer)
    prepared := setAdd i.prepared L.layer })
  let s := wrF s (imgSlotReg slot 8) 31 16 (i.staged.length - 1)
  switchObjects s slot

/-- R336: called to begin a layer's rewrite, and again when its arrays are written. -/
def layerRewrite (s : State) (slot layer : Nat) : State :=
  match instOf s slot with
  | none => s
  | some i =>
    match i.staged.find? (fun y => y.layer == layer) with
    | some L =>
      let O := (i.layers.find? (fun y => y.layer == layer)).getD L
      if !genMoving s slot i then s
      else match L.state with
        | .staged =>
          if layerHeld s O || !(i.flight.filter (fun f => f.msg.gen == genCur s slot)).all (leftLayer s i O) then s
          else setStaged (startWrite s slot i L .rewrite i.stagedId (genNext s slot) i.imageId (genCur s slot)) slot { L with state := .writing }
        | .writing => if allWritten s L then rewriteDone s slot i L else s
        | _ => s
    | none => s

def execGenLayerRewrite (slot layer : Nat) (s : State) : Answer :=
  onUnit (decide (slot < 64)) (spoonWake (layerRewrite s slot layer))

/-! ### GEN_BARRIER_OPEN (13 R337, R340) -/

/-- With WAIT_CAL, the column run of every rewritten tile has passed. -/
def calWaited (s : State) (slot : Nat) (i : Instance) : Bool :=
  !rbit s (imgSlotReg slot 8) 2 ||
  i.layers.all (fun L => !i.prepared.contains L.layer || (layerArrays s L).all (fun x => calStatus s x.1 7 7 == 1))

/-- The pending delta versions of the new generation become current, and their commands complete. -/
def switchPending (s : State) (slot gen : Nat) : State :=
  match instOf s slot with
  | none => s
  | some i =>
    i.sets.foldl (fun s x =>
      match x.2.pending with
      | some (v, r) =>
        if ((mapFind i.vers v).any (fun y => y.gen == gen)) then
          let s := switchVer s slot x.1 v
          finishOk (modInst s slot (fun i => { i with sets := i.sets.map (fun y => if y.1 = x.1 then (y.1, { y.2 with pending := none }) else y) })) r []
        else s
      | none => s) s

def barrierOpen (s : State) (slot : Nat) : State :=
  match instOf s slot with
  | none => s
  | some i =>
    if genMoving s slot i && i.staged.isEmpty && calWaited s slot i then
      let gen := genNext s slot
      let s := wr (wr s (imgSlotReg slot 0) (BitVec.ofNat 32 gen)) (imgSlotReg slot 4) 0
      let s := wbit (wrF s (imgSlotReg slot 8) 1 0 0) (imgSlotReg slot 8) 3 false
      let s := incWrap (wrF s (imgSlotReg slot 8) 31 16 0) (imgReg 0x20) 1
      let s := modInst s slot (fun i => { i with
        imageId := i.stagedId
        manifest := i.stagedDigest
        ownerKey := i.stagedKey
        skey := i.stagedSkey
        placed := true
        program := i.stagedProgram
        cacheBytes := (i.layers.map (fun y => y.cfg.elim 0 (fun c => c.cacheBytes))).sum
        stagedId := 0
        stagedDigest := []
        stagedKey := []
        stagedSkey := false
        stagedProgram := []
        prepared := []
        genJob := none })
      let s := signal (switchPending s slot gen) 0 68
      match i.genJob with
      | some r => finishOk s r []
      | none => s
    else s

def execGenBarrierOpen (slot : Nat) (s : State) : Answer := onUnit (decide (slot < 64)) (barrierOpen s slot)

/-- R341: a part of the instance is unresponsive or fenced during GEN_COMMIT. -/
def genIncomplete (s : State) (part : Nat) : State :=
  s.insts.foldl (fun s p =>
    match p.2.genJob with
    | some r =>
      if (mapFind s.ladle.groups p.2.group).any (fun g => g.ids.contains part) then
        finishErr (modInst s p.1 (fun i => { i with genJob := none })) r { st := stGenIncomplete, d0 := part }
      else s
    | none => s) s

def execImgCntClr (value : W32) (s : State) : Answer := .next (clearIf value 0 (words (imgReg 0x14) 4) s)

end Sys2Proof.Machine
end

