-- ==== Sys2Proof/Machine/Boundary.lean ====
section
/-! DEFINITION. The pass boundary of an instance, and the end of a fall-back window (02 R36, R47, R60, 04 R98-R106,
R111, 06 Table 06.3, 08 R191). -/

namespace Sys2Proof.Machine

/-! ### The slots of an instance -/

def siteSlots (ks : List Nat) (site : Nat) : List Nat := (ks.filter (fun k => k / 32 == site)).map (fun k => k % 32)

/-- The heads of an instance's slices at a site. -/
def siteHeads (s : State) (ks : List Nat) (site : Nat) : List Nat := (siteSlots ks site).filter (isHead s site)

/-! ### What a tile takes over (02 R36, 07 R167, R176) -/

/-- The spare columns that wait, and the temperature term as last recomputed. -/
def tileNow (s : State) (k : Nat) : State := modTile (colmapNow s k) k (fun t => { t with tempNow := t.tempNext })

/-! ### Handovers between a tile and its spare (06 Table 06.3, R160, 07 R177) -/

/-- H4: the spare serves in place of the slot's tile. -/
def spareServes (s : State) (m : Nat) : State :=
  let sp := spareKey m
  if (tileAt s m).covered then s
  else
    let s := serveTile (copyTileCfg s m sp) sp
    modTile (modTile s sp (fun t => { t with serves := some m, lastServed := some m })) m (fun t => { t with covered := true })

/-- The tile is RETIRED; its spare goes on serving. -/
def retired (s : State) (m : Nat) : State :=
  let s := calClear (calAbandon (setTileState s m 5) m) m
  let s := modTile s m (fun t => { t with refresh := none, retireNext := false, due := false, early := false, prog := none })
  let s := incHold { s with retiredTiles := setAdd s.retiredTiles m } (chReg 0x28) 16 1
  spoonGone (calUnavailable (tileFault s 1 11 m) m) m

/-- The spare covers a column run: the slot's tile is out of service, and its run starts as CONC allows (07 R174). -/
def coveredRun (s : State) (m : Nat) : State := modTile (setTileState s m 1) m (fun t => { t with refresh := some .h4 })

/-- The slot's tile is to be written again. -/
def rewriteTile (s : State) (m : Nat) : State :=
  let j := replaceJob s m .refresh
  modTile (setTileState s m 3) m (fun t => { t with refresh := some .h4, prog := some j })

/-- H7: the slot's tile serves again, and the spare tile is IDLE. -/
def tileServes (s : State) (m : Nat) : State :=
  let sp := spareKey m
  let s := setTileState (serveTile s m) sp 1
  let s := modTile s sp (fun t => { t with serves := none })
  if (tileAt s m).coverRun then modTile s m (fun t => { t with covered := false, coverRun := false, refresh := none })
  else
    let s := if s.bist.any (fun b => b.restoring.any (fun r => r.1 == m)) then s else incWrap s (chReg 0x2C) 1
    modTile s m (fun t => { t with
      covered := false
      refresh := none
      due := false
      early := false
      noSpare := false
      driftRef := t.driftAgain
      driftAgain := false })

/-- The handover of one slot that is due at the boundary. -/
def handover (s : State) (m : Nat) : State :=
  let t := tileAt s m
  match t.refresh with
  | some .h3 =>
    let s := spareServes s m
    if t.retireNext then retired s m else if t.coverRun then coveredRun s m else rewriteTile s m
  | some .h6 => if t.covered then tileServes s m else modTile s m (fun t => { t with refresh := none, coverRun := false })
  | _ => s

/-! ### The shadow copy (06 R159, 13 R321) -/

/-- The placed values that wait are those of an array that does not serve yet: the slot's own, written again, or its spare
tile, as it takes the place of a tile to be retired. -/
def placedLater (t : TileSt) : Bool :=
  decide (t.refresh = some .h5) || decide (t.refresh = some .h6) || (t.retireNext && t.refresh.isSome)

def shadowNow (s : State) (m : Nat) : State := if placedLater (tileAt s m) then s else shadowMerge s m

/-- Repaired layers take effect. -/
def repairsNow (s : State) (slot : Nat) : State :=
  match instOf s slot with
  | none => s
  | some i =>
    let s := (i.layers.filter (fun y => y.repairDue)).foldl applyRepair s
    modInst s slot (fun i => { i with layers := i.layers.map (fun y => { y with repairDue := false }) })

/-! ### Fall-back (04 R99, R104-R106) -/

def fbMode (s : State) (site head : Nat) : Nat := rdFA s (sfbSlotReg site head 4) 21 20
def setQuiet (s : State) (site head n : Nat) : State := wrF s (sfbSlotReg site head 8) 5 2 n
def fbEn (s : State) (site : Nat) : Bool := rbit s (sfbReg site 0) 3

/-- Whether a slice is escalated from this boundary on. -/
def escalNow (s : State) (site head : Nat) : Bool :=
  let c := coreAt s site
  if !fbEn s site || fbMode s site head == 1 then false
  else if fbMode s site head == 2 then true
  else c.escal.contains head && !c.back.contains head

/-- R99 at a boundary; `old` is the slice's MODE before it. A slice that FB_EN was cleared for follows its MODE from the
first boundary with FB_EN set; one that was escalated and has met no boundary in between stays so (DESIGN CHOICE, log 152). -/
def escalate (s : State) (site head old : Nat) : State :=
  let e := escalNow s site head
  let restart := !fbEn s site || (coreAt s site).fbOff.contains head || (old == 2 && fbMode s site head == 0) || !e
  let s := if restart then setQuiet s site head 0 else s
  modCore s site (fun c => { c with
    escal := if e then setAdd c.escal head else setDel c.escal head
    fbOff := if fbEn s site then setDel c.fbOff head else c.fbOff
    back := setDel c.back head })

/-- A grant whose slice is no longer escalated, and that covers nothing, ends; so does one of a slice with lost rows, and
one whose slot a stand-in takes (05 R142). -/
def grantStays (s : State) (site head : Nat) : Bool :=
  let c := coreAt s site
  !sliceLost s site head && !c.grantEnds.contains head && (c.escal.contains head || (c.covers.contains head && !c.coverEnds.contains head))

/-- The slots the core may give. -/
def slotsOf (s : State) (site : Nat) : Nat := fbCap s site - (if (coreAt s site).standIn.isSome then 1 else 0)

/-- The slots of the grants that no stand-in takes. -/
def keptSlots (s : State) (site : Nat) : Nat :=
  (((coreAt s site).grants.filter (fun h => !(coreAt s site).grantEnds.contains h)).map (fun h => (chainMembers s site h).length)).sum

/-- R104: grants of the instance end, the one made last first, until the rest fit. -/
def capGrants (s : State) (site : Nat) (mine : List Nat) : List Nat → State
  | [] => s
  | h :: hs =>
    if keptSlots s site ≤ slotsOf s site then s
    else capGrants (if mine.contains h then takeGrant s site h else s) site mine hs

/-- Insert by descending key, the lower head first among equals. -/
def fbInsert (key : Nat → Nat) (x : Nat) : List Nat → List Nat
  | [] => [x]
  | y :: l => if key y < key x ∨ (key x = key y ∧ x < y) then x :: y :: l else y :: fbInsert key x l

/-- R105 step 2: MODE 2 first, then MODE 0 by descending FB_WIN_CLIP, the lower head slot first among equals. -/
def grantOrder (s : State) (site : Nat) (heads : List Nat) : List Nat :=
  let key (h : Nat) : Nat := if fbMode s site h = 2 then 2 ^ 33 else (rd s (sfbSlotReg site h 0x0C)).toNat
  heads.foldl (fun l h => fbInsert key h l) []

/-- Step 3. -/
def assignGrants (s : State) (site : Nat) : List Nat → State
  | [] => s
  | h :: hs => assignGrants (if canGrant s site h then addGrant s site h else setFbState s site h 2) site hs

/-- A slice as it stands after the assignment: no longer escalated and without cover, it is in ARRAY; a cover that has
become a grant of R105 is no cover. -/
def settleSlice (s : State) (site head : Nat) : State :=
  let c := coreAt s site
  let s := if c.grants.contains head then setFbState s site head 1 else if c.escal.contains head then s else setFbState s site head 0
  let s := modCore s site (fun c => if c.escal.contains head then { c with coverEnds := setDel c.coverEnds head } else c)
  if (coreAt s site).grants.contains head then s else coverLost s site head

def fallbackSite (s : State) (ks : List Nat) (old : SMap Nat) (site : Nat) : State :=
  let hs := siteHeads s ks site
  let s := hs.foldl (fun s h => escalate s site h (mapGet 0 old (tkey site h))) s
  let s := hs.foldl (fun s h => if (coreAt s site).grants.contains h && !grantStays s site h then takeGrant s site h else s) s
  let s := capGrants s site hs (coreAt s site).grants
  let s := assignGrants s site (grantOrder s site (hs.filter (fun h => (coreAt s site).escal.contains h && !(coreAt s site).grants.contains h)))
  hs.foldl (fun s h => settleSlice s site h) s

/-! ### Per-pass generators (02 R47, 04 R111, 14 R346) -/

/-- A tile at the start of a pass: its dither generator is loaded, its vectors start from the first. -/
def tilePassStart (i : Instance) (step : W64) (s : State) (m : Nat) : State :=
  let site := m / 32
  let g := passSeed i.seed step (unitId 1 i.ordinal (site / 25) (logCol s site) (m % 32))
  modTile s m (fun t => { t with dither := g, nextVec := 0, inBuf := [], deltaShare := none })

/-- Draw RATE_LOG2 bits for each slot: the slots all of whose bits are 0. -/
def sampleDraw (rate : Nat) : List Nat → W64 → List Nat × W64
  | [], g => ([], g)
  | t :: ts, g =>
    let d := lfsrDraw rate g 0
    let r := sampleDraw rate ts d.2
    (if d.1 = 0 then t :: r.1 else r.1, r.2)

/-- Reporting and sampling are on (04 Tables 04.6, 04.7). -/
def sampling (s : State) : Bool := rbit s (spoonReg 0) 0 && rdF s (spoonReg 0x28) 15 0 != 0

def corePassStart (i : Instance) (step : W64) (ks : List Nat) (s : State) (site : Nat) : State :=
  let g := passSeed i.seed step (unitId 2 i.ordinal (site / 25) (logCol s site) 0)
  let slots := siteSlots ks site
  let d := sampleDraw (Nat.min 20 (rdF s (spoonReg 0) 5 1)) slots g
  modCore s site (fun c => { c with
    sampleGen := d.2
    sampled := (c.sampled.filter (fun t => !slots.contains t)) ++ (if sampling s then d.1 else []) })

/-! ### PASS_BOUNDARY -/

/-- Frames run in step order, each once: the next is the first that is live and has not run (12 R285, R293). -/
def nextPass (i : Instance) : Option W64 := (i.flight.find? (fun f => f.msg.marker.isNone && !f.passed)).map (fun f => f.msg.step)

/-- The previous frame's pass has ended here, and the next frame's begins. -/
def passStart (s : State) (slot : Nat) (step : W64) (ks : List Nat) : State :=
  let s := modInst s slot (fun i => { i with
    flight := i.flight.map (fun f => if i.passStep == some f.msg.step then { f with passed := true } else f)
    passStep := none })
  let s := modInst s slot (fun i => { i with passStep := if nextPass i = some step then some step else none })
  match instOf s slot with
  | none => s
  | some i =>
    match i.passStep with
    | none => s
    | some n => (keySites ks).foldl (corePassStart i n ks) (ks.foldl (tilePassStart i n) s)

/-- What takes effect at a boundary, before the next pass. -/
def boundaryEffects (s : State) (slot : Nat) : State :=
  let ks := ownedKeys s slot
  let old : SMap Nat := ks.map (fun m => (m, fbMode s (m / 32) (m % 32)))
  let s := ks.foldl (fun s m => tileNow s (physTile s m)) s
  let s := (keySites ks).foldl (fun s site => activateSlots s false site (siteSlots ks site)) s
  let s := takeovers s slot
  let ks := ownedKeys s slot
  let s := ks.foldl handover s
  let s := repairsNow (ks.foldl shadowNow s) slot
  (keySites ks).foldl (fun s site => fallbackSite s ks old site) s

/-- No vector of the instance is in work on any of its chains. -/
def chainsIdle (s : State) (slot : Nat) : Bool :=
  (ownedKeys s slot).all (fun m => let w := workOf s m; !w.latched && !w.fbReady && !(tileAt s m).next.latched)

def passBoundary (s : State) (slot : Nat) (step : W64) : State :=
  if (instOf s slot).isNone || !chainsIdle s slot then s
  else
    let s := boundaryEffects s slot
    spoonWake (passStart s slot step (ownedKeys s slot))

/-- R60: the pass boundary of an instance, before the pass of the frame of a step; where that is not the next frame's step,
no pass begins. -/
def execPassBoundary (slot : Nat) (step : W64) (s : State) : Answer := onUnit (decide (slot < 64)) (passBoundary s slot step)

/-! ### FB_WINDOW_END (04 R98, R99) -/

/-- Every slice of a core: its window count is latched and starts again; auto slices are judged. -/
def windowSlice (site : Nat) (s : State) (head : Nat) : State :=
  let n := mapGet 0 (coreAt s site).winCount head
  let thr := rdFA s (sfbSlotReg site head 4) 15 0
  let hold := rdFA s (sfbSlotReg site head 4) 19 16
  let s := wr s (sfbSlotReg site head 0x0C) (BitVec.ofNat 32 (Nat.min n 0xFFFFFFFF))
  let s := modCore s site (fun c => { c with winCount := mapDel c.winCount head })
  if !fbEn s site || (coreAt s site).fbOff.contains head || fbMode s site head != 0 then s
  else if (coreAt s site).escal.contains head then
    if (coreAt s site).back.contains head then s
    else if n ≤ thr / 8 then
      let q := rdF s (sfbSlotReg site head 8) 5 2 + 1
      if hold ≤ q then modCore (setQuiet s site head (Nat.min q 15)) site (fun c => { c with back := setAdd c.back head })
      else setQuiet s site head q
    else setQuiet s site head 0
  else if thr < n then modCore (setQuiet s site head 0) site (fun c => { c with escal := setAdd c.escal head })
  else s

/-- The cores that hold placed slots. -/
def placedSites (s : State) : List Nat :=
  (s.tiles.filterMap (fun t => if t.2.owner.isSome then some (t.1 / 32) else none)).dedup

def windowCore (s : State) (site : Nat) : State := ((List.range 16).filter (isHead s site)).foldl (windowSlice site) s

/-- The window ends at its boundary, and once. -/
def execFbWindowEnd (s : State) : Answer :=
  .next (if windowDue s s.fbWinAt then (placedSites s).foldl windowCore { s with fbWinAt := some s.rackTime } else s)

end Sys2Proof.Machine
end

