-- ==== Sys2Proof/Machine/Serving.lean ====
section
/-! DEFINITION. Instances and the handles they own: contexts, prefixes and delta sets (12 R283-R301, 16 Table 16.3,
R386, R391). -/

namespace Sys2Proof.Machine

/-! ### INSTANCE_CREATE (12 R283, R284, 15 R372) -/

/-- ROLE: bit 0 entry, bit 1 exit (12 Table 12.6). -/
def roleOf (s : State) (entry exit : Nat) : Nat := (if entry = partId s then 1 else 0) + (if exit = partId s then 2 else 0)

/-- Row sizes are non-zero for vectors and zero for tokens. -/
def rowOk (vec : Bool) (bytes : Nat) : Bool := if vec then bytes != 0 else bytes == 0

def createCheck (s : State) (m : MbxId) : Option Err :=
  let flags := reqN s m 11 1
  let exit := reqN s m 14 2 == partId s
  firstErr [
    fieldCheck s m [
      (10, decide (reqN s m 10 1 < 64)), (11, decide (flags < 4)), (12, decide (reqN s m 12 2 < 8192)), (14, decide (reqN s m 14 2 < 8192)),
      (56, !exit || reqN s m 56 8 % 64 == 0), (64, !exit || (9 ≤ reqN s m 64 1 && reqN s m 64 1 ≤ 24)),
      (65, !exit || decide (reqN s m 65 1 < 64)), reqZero s m 67 1,
      (68, rowOk (nbits flags 0 0 == 1) (reqN s m 68 2)), (70, rowOk (nbits flags 1 1 == 1) (reqN s m 70 2))],
    need ((instOf s (reqN s m 10 1)).isNone && (instSlot s (reqN s m 8 2)).isNone) stBusy]

/-- The completion ring of an instance, on its exit part. -/
def newRing (s : State) (m : MbxId) : Ring :=
  if reqN s m 14 2 = partId s then
    { addr := BitVec.ofNat 64 (reqN s m 56 8), sizeLog2 := reqN s m 64 1, vector := reqN s m 65 1, holdoff := reqN s m 66 1 }
  else {}

def newInstance (s : State) (m : MbxId) : Instance :=
  let flags := reqN s m 11 1
  { number := reqN s m 8 2
    secure := mbxSecure s m
    inVec := nbits flags 0 0 == 1
    outVec := nbits flags 1 1 == 1
    entry := reqN s m 12 2
    exit := reqN s m 14 2
    step := if reqN s m 12 2 = partId s then BitVec.ofNat 64 (reqN s m 16 8) else 0
    seed := reqBytes s m 24 32
    ring := newRing s m
    inRow := reqN s m 68 2
    outRow := reqN s m 70 2 }

/-- The RO fields of SV_CFG and SV_PARTS. -/
def svSet (s : State) (slot number role vecs entry exit : Nat) : State :=
  let s := wrF (wrF s (svReg slot 0) 17 0 (number + role * 0x10000)) (svReg slot 0) 21 20 vecs
  wr s (svReg slot 0x14) (BitVec.ofNat 32 (entry + exit * 0x10000))

def instanceMake (s : State) (m : MbxId) : State :=
  let slot := reqN s m 10 1
  let i := newInstance s m
  let s1 := setInst s slot i
  let s1 := { s1 with slotWorld := if i.secure then setAdd s1.slotWorld slot else setDel s1.slotWorld slot }
  reply (svSet s1 slot i.number (roleOf s i.entry i.exit) (reqN s m 11 1) i.entry i.exit) m []

def execInstanceCreate (m : MbxId) (s : State) : Answer :=
  onMbx m (runCmd s m 0x0101 64 (createCheck s m) (instanceMake s m))

/-! ### Frames as they are decided (12 R286, R288, R295) -/

/-- A frame descriptor (16 Table 16.4). -/
def dTag (d : Bytes) : W64 := BitVec.ofNat 64 (leAt d 0 8)

/-- The marker of a frame decided without running. -/
def blankMsg (tag : W64) (step : W64) (e : FrameEnd) (replayed : Bool) : FrameMsg :=
  { tag := tag, step := step, gen := 0, qrecAddr := 0, qrecCap := 0, seqs := [], tally := [], clipped := false, crossGen := false
    replayed := replayed, marker := some e }

/-- A marker takes its place on the exit part; from another part it travels on. -/
def putMarker (s : State) (slot : Nat) (f : FrameMsg) : State :=
  modInst s slot (fun i => if exitHere s i then { i with markers := i.markers ++ [f] } else i)

/-- Counts of a FRAME_SUBMIT as its response gives them. -/
def submitReply (b : Submit) : Bytes := leBytes 2 b.admitted ++ leBytes 2 b.refused ++ leBytes 2 b.aborted ++ zeros 2

/-- A frame of a list is decided; the command completes with its last. -/
def submitStep (s : State) (slot id : Nat) (f : Submit → Submit) : State :=
  match instOf s slot with
  | none => s
  | some i =>
    match i.submits.find? (fun b => b.id == id) with
    | none => s
    | some b =>
      let b := { f b with left := b.left - 1 }
      if b.left = 0 then
        finishOk (setInst s slot { i with submits := i.submits.filter (fun x => x.id != id) }) b.mbx (submitReply b)
      else setInst s slot { i with submits := i.submits.map (fun x => if x.id = id then b else x) }

/-- An OUTCOME record of a frame that never ran (14 R351): its step is the counter's value. -/
def recordUnrun (s : State) (slot : Nat) (tag : W64) (o st idx : Nat) : State :=
  match instOf s slot with
  | some i => recordAny s slot 2 i.step (outcomePayload tag o st idx)
  | none => s

/-- A waiting frame is aborted, in its place (12 R307). -/
def abortWaiting (s : State) (slot : Nat) (w : Waiting) : State :=
  match instOf s slot with
  | none => s
  | some i =>
    let s := incHold (recordUnrun s slot (dTag w.desc) 2 stOk 0xFFFF) (svReg slot 0x24) 32 1
    let s := putMarker s slot (blankMsg (dTag w.desc) i.step .aborted false)
    submitStep s slot w.submit (fun b => { b with aborted := b.aborted + 1 })

/-- Every waiting frame is aborted. -/
def abortAllWaiting (s : State) (slot : Nat) : State :=
  match instOf s slot with
  | none => s
  | some i => i.waiting.foldl (fun s w => abortWaiting s slot w) (setInst s slot { i with waiting := [] })

/-! ### INSTANCE_REMOVE (16 R391) -/

/-- What keeps an instance from being removed: the opcode in conflict. -/
def removeBusy (i : Instance) : Option Err :=
  firstErr [
    need (i.genJob.isNone && i.staged.all (fun y => decide (y.state ≠ .writing))) stBusy 0x0304,
    need i.save.isNone stBusy 0x0605,
    need (!i.record.on) stBusy 0x0601,
    need i.replay.isNone stBusy 0x0604,
    need i.removing.isNone stBusy 0x0102]

def execInstanceRemove (m : MbxId) (s : State) : Answer :=
  onMbx m (runCmd s m 0x0102 8
    (firstErr [
      fieldCheck s m [reqZero s m 10 6], instOk s m 8,
      match instNamed s m 8 with | some p => removeBusy p.2 | none => none])
    (withInst s m 8 (fun slot _ =>
      let s1 := modInst (accept s m) slot (fun i => { i with removing := some (mref s m) })
      abortAllWaiting s1 slot)))

/-- A load under way ends with the instance. -/
def dropLoad (s : State) (slot number : Nat) : State := endLoad s slot { st := stNoInstance, d0 := number }

/-- A slot's tile is free: IDLE, its ENABLE clear, nothing of the instance left on it. -/
def freeTile (s : State) (m : Nat) : State :=
  let gone := tileState s m == 5
  let s := if gone then s else releaseSpare s m
  let p := physTile s m
  let s := if tileState s p = 2 ∨ tileState s p = 3 then setTileState s p 1 else s
  let s := if tileState s m = 2 ∨ tileState s m = 3 then setTileState s m 1 else s
  let s := wrBoth s (tileReg p 0) (setFld (rd s (tileReg p 0)) 0 0 0)
  let s := match (tileAt s m).standin with
    | some c => dropBlocks (modCore s c (fun x => { x with standIn := none })) c [m]
    | none => s
  modTile (modTile s p (fun t => { t with prog := none })) m (fun t => { t with
    owner := none
    work := {}
    next := {}
    wide := []
    inBuf := []
    lastStep := 0
    cfgCopy := none
    prog := none
    refresh := none
    coverRun := false
    retireNext := false
    holdFrom := none
    early := false
    due := false
    driftAgain := false
    driftRef := false
    handed := []
    standin := none
    shadow := []
    shadowIn := false
    lostRows := []
    shadowNext := []
    calRun := t.calRun.map (fun r => { r with prior := 1 }) })

/-- Fall-back state of a slot's slice, and its cached shadow rows. -/
def freeSlice (s : State) (m : Nat) : State :=
  let site := m / 32
  let t := m % 32
  modCore (setQuiet (sliceReset s m) site t 0) site (fun c => { c with sampled := setDel c.sampled t })

/-- Captures of an instance are dropped; an on-demand run waits again. -/
def dropInstCaptures (s : State) (inst : Nat) : State :=
  (s.cores.filterMap (fun c => if c.2.capture.any (fun x => x.inst == inst && !x.test) then some c.1 else none)).foldl
    (fun s c =>
      let req := (coreAt s c).capture.bind (fun x => x.onDemand)
      let s := setCapture s c none
      match req with
      | some r => modTile s r.tile (fun t => { t with spoonReq := some r })
      | none => incHold s (spoonReg 0x14) 32 1) s

/-- A run that waits on an IDLE tile without weights is refused (04 Table 04.3). -/
def refuseSpoon (s : State) (k : Nat) : State :=
  match (tileAt s k).spoonReq with
  | some r =>
    if tileState s k == 1 && !testWeights s k then
      finishErr (modTile s k (fun t => { t with spoonReq := none })) r.mbx { st := stBadParam, d0 := 8 }
    else s
  | none => s

/-- The objects of an instance, by handle. -/
def instObjs (s : State) (slot : Nat) : List Nat := s.pot.objs.filterMap (fun o => if o.2.inst = slot then some o.1 else none)

/-- A rebuild of a core that no longer holds a placed slot is given up. -/
def dropRebuild (s : State) (r : Rebuild) : State :=
  if (ownedSlots s r.site).isEmpty then
    let s := (List.range 16).foldl (fun s t =>
      let k := spareSiteKey (tkey r.site t)
      modTile (if tileState s k = 3 then setTileState s k 1 else s) k (fun x => { x with prog := none })) s
    { s with rebuilds := s.rebuilds.filter (fun x => x.site != r.site) }
  else s

/-- Records, objects and slot go. -/
def instanceFree (s : State) (slot : Nat) (i : Instance) : State :=
  let ks := ownedKeys s slot
  let s := dropLoad s slot i.number
  let s := { s with ledger := s.ledger.filter (fun p => !(pairRec p).any (fun r => r.slot == slot)) }
  let s := (instObjs s slot).foldl freeObj (dropProgs s (fun p => p.2.1 == slot))
  let s := dropInstCaptures s i.number
  let s := ks.foldl freeSlice s
  let s := ks.foldl freeTile s
  let s := s.rebuilds.foldl dropRebuild s
  let s := (ks ++ ks.map spareKey).dedup.foldl refuseSpoon s
  let s := wr (wr (wr s (imgSlotReg slot 0) 0) (imgSlotReg slot 4) 0) (imgSlotReg slot 8) (setFld (setFld (rd s (imgSlotReg slot 8)) 1 0 0) 31 3 0)
  svSet { s with insts := mapDel s.insts slot, stepLatch := mapDel s.stepLatch slot } slot 0 0 0 0 0

/-- No frame is in flight and none waits to be reported: the slot is freed, and the command completes. -/
def removeDrained (s : State) (slot : Nat) : State :=
  match instOf s slot with
  | none => s
  | some i =>
    match i.removing with
    | none => s
    | some r =>
      if i.flight.isEmpty && i.markers.isEmpty then spoonWake (finishOk (instanceFree s slot i) r []) else s

def execInstanceRemoveDrained (slot : Nat) (s : State) : Answer := onUnit (decide (slot < 64)) (removeDrained s slot)

/-! ### Handles named by commands (16 R386, Table 16.3) -/

/-- A handle is one the instance holds; one of the secure world is denied to a non-secure mailbox. -/
def handleOk (s : State) (m : MbxId) (h : Nat) (held : Instance → Bool) : Option Err :=
  firstErr [
    need (!(objAt s h).any (fun o => o.secure) || mbxSecure s m) stWorldDenied h,
    if instIs s m 8 held then none else some { st := stBadHandle, d0 := 0, d1 := h }]

def ctxBusy (i : Instance) (h : Nat) : Bool := (mapFind i.ctxs h).any (fun c => c.busy)

def busyOk (s : State) (m : MbxId) (h : Nat) : Option Err :=
  if instIs s m 8 (fun i => ctxBusy i h) then some { st := stContextBusy, d0 := 0, d1 := h } else none

/-! ### CONTEXT_CREATE, CONTEXT_RELEASE -/

def contextMake (s : State) (m : MbxId) (slot : Nat) (i : Instance) : State :=
  match newObj s 1 slot i.secure with
  | none => refuse s m { st := stStockpotFull }
  | some (h, s1) => reply (setInst s1 slot { i with ctxs := mapSet i.ctxs h {} }) m (leBytes 4 h ++ zeros 4)

def execContextCreate (m : MbxId) (s : State) : Answer :=
  onMbx m (runCmd s m 0x0110 8 (firstErr [fieldCheck s m [reqZero s m 10 6], entryOk s m 8])
    (withInst s m 8 (contextMake s m)))

def execContextRelease (m : MbxId) (s : State) : Answer :=
  let h := reqN s m 12 4
  onMbx m (runCmd s m 0x0111 8
    (firstErr [
      fieldCheck s m [reqZero s m 10 2], entryOk s m 8, handleOk s m h (fun i => (mapFind i.ctxs h).isSome), busyOk s m h])
    (withInst s m 8 (fun slot i => reply (freeObj (setInst s slot { i with ctxs := mapDel i.ctxs h }) h) m [])))

/-! ### PREFIX_CREATE, PREFIX_RELEASE (12 R296-R298, 09 R220, R222) -/

/-- Bytes of cache of a number of positions on this part. -/
def cachePages (i : Instance) (positions : Nat) : Nat := pagesFor (positions * i.cacheBytes)

/-- One holder more for each page of a list; none where a count would pass its greatest value. -/
def holdPages : List Page → State → Option State
  | [], s => some s
  | p :: ps, s =>
    let n := (if p.shared then refCount s (refKey p) else 1) + 1
    if refMax < n then none else holdPages ps (setRef s (refKey p) n)

def sharedPages (ps : List Page) : List Page := ps.map (fun p => { p with shared := true })

/-- The first pages of a context become the prefix chain. -/
def prefixMake (s : State) (m : MbxId) (slot : Nat) (i : Instance) : State :=
  let c := reqN s m 12 4
  let p := reqN s m 16 4
  let n := cachePages i p
  let ctx := mapGet {} i.ctxs c
  let r := mref s m
  match newObj s 2 slot i.secure, objAt s c with
  | some (h, s1), some o =>
    match holdPages (o.pages.take n) s1 with
    | some s2 =>
      let s2 := setObj s2 c { o with pages := sharedPages (o.pages.take n) ++ o.pages.drop n }
      let s2 := setObj s2 h { inst := slot, secure := i.secure, pages := sharedPages (o.pages.take n) }
      let s2 := setInst s2 slot { i with pfxs := mapSet i.pfxs h { len := p, gen := ctx.gen } }
      finishOk (accept s2 m) r (leBytes 4 h ++ zeros 4)
    | none => finishErr (accept s m) r { st := stStockpotFull }
  | _, _ => finishErr (accept s m) r { st := stStockpotFull }

def execPrefixCreate (m : MbxId) (s : State) : Answer :=
  let c := reqN s m 12 4
  onMbx m (runCmd s m 0x0112 16
    (firstErr [
      fieldCheck s m [reqZero s m 10 2, (16, reqN s m 16 4 != 0), reqZero s m 20 4], entryOk s m 8,
      handleOk s m c (fun i => (mapFind i.ctxs c).isSome), busyOk s m c,
      need (instIs s m 8 (fun i => (mapFind i.ctxs c).any (fun x => reqN s m 16 4 ≤ x.len))) stBadParam 16])
    (withInst s m 8 (prefixMake s m)))

def execPrefixRelease (m : MbxId) (s : State) : Answer :=
  let h := reqN s m 12 4
  onMbx m (runCmd s m 0x0113 8
    (firstErr [fieldCheck s m [reqZero s m 10 2], entryOk s m 8, handleOk s m h (fun i => (mapFind i.pfxs h).isSome)])
    (withInst s m 8 (fun slot i => reply (freeObj (setInst s slot { i with pfxs := mapDel i.pfxs h }) h) m [])))

/-! ### Delta sources (05 R134, 16 R391) -/

/-- A block of a source: where it goes, its layer and the block itself. -/
structure SrcBlock where
  ordinal : Nat
  row     : Nat
  col     : Nat
  layer   : Nat
  body    : Bytes

def deltaEntry (e : Nat) : DeltaEntry :=
  { row := nbits e 8 0, col := nbits e 17 9, slot := nbits e 21 18, val := sgn 8 (nbits e 29 22) }

/-- Entries in ascending slot order. -/
def slotsRise : List DeltaEntry → Bool
  | x :: y :: l => decide (x.slot ≤ y.slot) && slotsRise (y :: l)
  | _ => true

def blockEntries (b : Bytes) : List DeltaEntry := (List.range (leAt b 0 4)).map (fun i => deltaEntry (leAt b (16 + 4 * i) 4))

/-- A block of R134 is whole: its entries lie within it in ascending slot order, DEXP is 0-7, and every reserved bit is
zero. -/
def blockOk (b : Bytes) : Bool :=
  decide (16 + 4 * leAt b 0 4 ≤ b.length) && decide (leAt b 4 1 ≤ 7) && slice b 5 11 == zeros 11 &&
  (List.range (leAt b 0 4)).all (fun i => decide (leAt b (16 + 4 * i) 4 < 2 ^ 30)) && slotsRise (blockEntries b)

/-- The blocks of a source, each 16-byte aligned; none where it is no sequence of whole blocks. -/
def srcBlocks : Nat → Bytes → Option (List SrcBlock)
  | 0, bs => if bs.isEmpty then some [] else none
  | n + 1, bs =>
    if bs.isEmpty then some []
    else
      let len := leAt bs 8 4
      let body := (bs.drop 16).take len
      if bs.length < 16 + len ∨ leAt bs 12 4 ≠ 0 ∨ 32 ≤ leAt bs 2 1 ∨ 24 ≤ leAt bs 3 1 ∨ blockOk body = false then none
      else
        match srcBlocks n (bs.drop (16 + ceilDiv len 16 * 16)) with
        | some l => some ({ ordinal := leAt bs 0 2, row := leAt bs 2 1, col := leAt bs 3 1, layer := leAt bs 4 4, body := body } :: l)
        | none => none

def readSource (src : Bytes) : Option (List SrcBlock) := srcBlocks (src.length / 16 + 1) src

def blockOf (s : State) (b : SrcBlock) : DeltaBlock :=
  { site := b.row * 25 + physCol s b.col, layer := b.layer, dexp := leAt b.body 4 1, entries := blockEntries b.body }

/-- Weights of a layer on this part. -/
def layerWeights (i : Instance) (layer : Nat) : Nat :=
  ((i.layers.find? (fun y => y.layer == layer)).elim 0 (fun y => y.arrs.length)) * 262144

/-- The first layer above 4 % dense, among this part's blocks. -/
def denseLayer (i : Instance) (own : List SrcBlock) : Option Nat :=
  (own.map (fun b => b.layer)).find? (fun y =>
    decide (0 < layerWeights i y) &&
    decide (4 * layerWeights i y < 100 * (((own.filter (fun b => b.layer == y)).map (fun b => leAt b.body 0 4)).sum)))

/-- A new version: a DELTA object that holds this part's blocks. -/
def makeVersion (s : State) (slot : Nat) (i : Instance) (gen : Nat) (src : Bytes) : Except Err (Nat × State) :=
  match readSource src with
  | none => .error { st := stBadParam, d0 := 16 }
  | some bs =>
    let own := bs.filter (fun b => b.ordinal == i.ordinal)
    match denseLayer i own with
    | some y => .error { st := stBadParam, d0 := y }
    | none =>
      match newObjPages s 3 slot i.secure false (pagesFor ((own.map (fun b => b.body.length)).sum)) with
      | none => .error { st := stStockpotFull }
      | some (v, s1) =>
        .ok (v, setInst s1 slot { i with vers := mapSet i.vers v { gen := gen, refs := 1, blocks := own.map (blockOf s) } })

/-- GEN of a delta command: 0 is GEN_CUR. -/
def deltaGen (s : State) (m : MbxId) (slot : Nat) : Nat := if reqN s m 12 4 = 0 then genCur s slot else reqN s m 12 4

/-- GEN is 0, GEN_CUR or GEN_NEXT. -/
def deltaGenOk (s : State) (m : MbxId) : Option Err :=
  match instNamed s m 8 with
  | some p =>
    let g := reqN s m 12 4
    if g = 0 ∨ g = genCur s p.1 ∨ g = genNext s p.1 then none else some { st := stGenMismatch, d0 := 0, d1 := genCur s p.1 }
  | none => none

def groupHere (s : State) (m : MbxId) : Option Err := need (rankIn s (reqN s m 10 1)).isSome stBadParam 10

/-! ### DELTA_CREATE, DELTA_REPLACE, DELTA_SWITCH, DELTA_RELEASE (12 R299-R301, 13 R340) -/

def deltaMake (src : Bytes) (q : State) (r : MbxRef) (s : State) : State :=
  match instNamed q r.id 8 with
  | none => finishErr s r { st := stNoInstance }
  | some p =>
    match instOf s p.1 with
    | none => finishErr s r { st := stNoInstance, d0 := p.2.number }
    | some i =>
      match newObj s 3 p.1 i.secure with
      | none => finishErr s r { st := stStockpotFull }
      | some (h, s1) =>
        match makeVersion s1 p.1 i (deltaGen q r.id p.1) src with
        | .error e => finishErr s r e
        | .ok (v, s2) =>
          finishOk (modInst s2 p.1 (fun i => { i with sets := mapSet i.sets h { cur := v } })) r (leBytes 4 h ++ zeros 4)

def execDeltaCreate (m : MbxId) (src : Bytes) (s : State) : Answer :=
  onMbx m (runDma s m 0x0114 24
    (firstErr [
      fieldCheck s m [(10, decide (reqN s m 10 1 < 64)), reqZero s m 11 1], entryOk s m 8, groupHere s m, deltaGenOk s m])
    (deltaMake src))

/-- The new version of a set waits for the switch, or for its generation. -/
def deltaLoad (src : Bytes) (q : State) (r : MbxRef) (s : State) : State :=
  let h := reqN q r.id 32 4
  match instNamed q r.id 8 with
  | none => finishErr s r { st := stNoInstance }
  | some p =>
    match instOf s p.1 with
    | none => finishErr s r { st := stNoInstance, d0 := p.2.number }
    | some i =>
      let gen := deltaGen q r.id p.1
      match mapFind i.sets h with
      | none => finishErr s r { st := stBadHandle, d0 := 0, d1 := h }
      | some d =>
        match makeVersion s p.1 i gen src with
        | .error e => finishErr s r e
        | .ok (v, s2) =>
          let d := if gen = genCur s p.1 then { d with loading := some (v, r) } else { d with pending := some (v, r) }
          modInst s2 p.1 (fun i => { i with sets := mapSet i.sets h d })

def execDeltaReplace (m : MbxId) (src : Bytes) (s : State) : Answer :=
  let h := reqN s m 32 4
  onMbx m (runDma s m 0x0115 32
    (firstErr [
      fieldCheck s m [(10, decide (reqN s m 10 1 < 64)), reqZero s m 11 1, reqZero s m 36 4], entryOk s m 8, groupHere s m,
      handleOk s m h (fun i => (mapFind i.sets h).isSome), deltaGenOk s m,
      need (!instIs s m 8 (fun i => (mapFind i.sets h).any (fun d => d.loading.isSome || d.pending.isSome))) stBusy 0x0115,
      match instNamed s m 8 with
      | some p => need (!(reqN s m 12 4 == 0 && genState s p.1 == 2)) stBusy 0x0304
      | none => none])
    (deltaLoad src))

/-- Every part holds the new version: the entry part switches the handle. -/
def deltaSwitch (s : State) (slot h : Nat) : State :=
  match (instOf s slot).bind (fun i => mapFind i.sets h) with
  | none => s
  | some d =>
    match d.loading with
    | none => s
    | some (v, r) =>
      let s := switchVer s slot h v
      let s := modInst s slot (fun i => match mapFind i.sets h with
        | some d => { i with sets := mapSet i.sets h { d with loading := none } }
        | none => i)
      finishOk s r []

def execDeltaSwitch (slot handle : Nat) (s : State) : Answer := onUnit (decide (slot < 64)) (deltaSwitch s slot handle)

/-- A version that was loading when its handle went is freed, and its command completes. -/
def dropLoading (s : State) (slot h : Nat) : Option (Nat × MbxRef) → State
  | some (v, r) => finishErr (dropVer s slot v) r { st := stBadHandle, d0 := 0, d1 := h }
  | none => s

def deltaRelease (s : State) (m : MbxId) (slot : Nat) (i : Instance) : State :=
  let h := reqN s m 12 4
  match mapFind i.sets h with
  | none => s
  | some d =>
    let s := freeObj (setInst s slot { i with sets := mapDel i.sets h }) h
    let s := reply (dropVer s slot d.cur) m []
    dropLoading (dropLoading s slot h d.loading) slot h d.pending

def execDeltaRelease (m : MbxId) (s : State) : Answer :=
  let h := reqN s m 12 4
  onMbx m (runCmd s m 0x0116 8
    (firstErr [fieldCheck s m [reqZero s m 10 2], entryOk s m 8, handleOk s m h (fun i => (mapFind i.sets h).isSome)])
    (withInst s m 8 (deltaRelease s m)))

end Sys2Proof.Machine
end

