-- ==== Sys2Proof/Machine/Frames.lean ====
section
/-! DEFINITION. Frames: submission, the checks of admission, page reservation, token selection, the commit point and its
outcome, and aborts (12 R287-R309, 13 R339, 15 R373-R376, 16 R392, R393). -/

namespace Sys2Proof.Machine

/-! ### Descriptors and sequence entries (16 Tables 16.4, 16.5) -/

def dInst (d : Bytes) : Nat := leAt d 8 2
def dSeqs (d : Bytes) : Nat := leAt d 10 2
def dQrecCap (d : Bytes) : Nat := leAt d 12 4
def dQrecAddr (d : Bytes) : Nat := leAt d 16 8
def dSeqAddr (d : Bytes) : Nat := leAt d 24 8

def qCtx (e : Bytes) : Nat := leAt e 8 4
def qPfx (e : Bytes) : Nat := leAt e 12 4
def qDelta (e : Bytes) : Nat := leAt e 16 4
def qGen (e : Bytes) : Nat := leAt e 20 4
def qK (e : Bytes) : Nat := leAt e 24 1 % 32
def qLen (e : Bytes) : Nat := leAt e 26 2
def qOutCap (e : Bytes) : Nat := leAt e 28 4
def qTemp (e : Bytes) : W16 := BitVec.ofNat 16 (leAt e 48 2)
def qTopK (e : Bytes) : Nat := leAt e 50 2

/-- The reserved bits of an entry are zero. -/
def qZero (e : Bytes) : Bool := leAt e 24 1 < 32 && leAt e 25 1 == 0 && leAt e 52 12 == 0

def seqAt (w : Waiting) (j : Nat) : Bytes := w.seqs.getD j []

/-! ### FRAME_SUBMIT (12 R288, 16 R392) -/

/-- The frames of a list wait for admission, in list order. -/
def submitList (descs : List Bytes) (seqs : List (List Bytes)) (q : State) (r : MbxRef) (s : State) : State :=
  match instNamed q r.id 8 with
  | none => finishErr s r { st := stNoInstance }
  | some p =>
    match instOf s p.1 with
    | none => finishErr s r { st := stNoInstance, d0 := p.2.number }
    | some i =>
      let n := reqN q r.id 10 2
      let ws := (List.range n).map (fun j => ({ desc := descs.getD j [], seqs := seqs.getD j [], submit := i.nextSubmit } : Waiting))
      setInst s p.1 { i with
        waiting := i.waiting ++ ws
        submits := i.submits ++ [{ id := i.nextSubmit, mbx := r, left := n }]
        nextSubmit := i.nextSubmit + 1 }

def execFrameSubmit (m : MbxId) (descs : List Bytes) (seqs : List (List Bytes)) (s : State) : Answer :=
  onMbx m (runDma s m 0x0201 16
    (firstErr [
      fieldCheck s m [(10, 1 ≤ reqN s m 10 2 && reqN s m 10 2 ≤ 1024), reqZero s m 12 4, (16, reqN s m 16 8 % 32 == 0)],
      entryOk s m 8,
      need (!instIs s m 8 (fun i => i.removing.isSome)) stNoInstance (reqN s m 8 2),
      need (!instIs s m 8 (fun i => i.replay.isSome)) stBusy 0x0604])
    (submitList descs seqs))

/-! ### Admission checks 1 to 7 (12 Table 12.3, 13 R339) -/

/-- Bytes of a sequence's output. -/
def outSize (i : Instance) (e : Bytes) : Nat := if i.outVec then qLen e * i.outRow else 4 * (qK e + 1)

/-- A TEMP that is finite and not negative. -/
def tempOk (t : W16) : Bool := (fpDy (fpB t)).any (fun d => decide (0 ≤ d.m))

/-- Check 1 on one entry by itself. -/
def entryWf (i : Instance) (e : Bytes) : Bool :=
  qZero e && 1 ≤ qLen e && qLen e ≤ 4096 && qK e ≤ 16 && decide (qK e < qLen e) &&
  (qK e == 0 || (!i.outVec && qCtx e != 0)) && outSize i e ≤ qOutCap e && 1 ≤ qTopK e && qTopK e ≤ 256 && tempOk (qTemp e)

/-- Distinct delta sets among the first entries. -/
def deltaSets (w : Waiting) (n : Nat) : List Nat := (((List.range n).map (fun j => qDelta (seqAt w j))).filter (fun d => d != 0)).dedup

/-- The entry repeats a context of an earlier one. -/
def ctxAgain (w : Waiting) (j : Nat) : Bool :=
  qCtx (seqAt w j) != 0 && (List.range j).any (fun l => qCtx (seqAt w l) == qCtx (seqAt w j))

def descOk (i : Instance) (w : Waiting) : Bool :=
  let d := w.desc
  1 ≤ dSeqs d && dSeqs d ≤ 256 && dInst d == i.number && (dQrecCap d == 0 || 16 ≤ dQrecCap d) && dQrecAddr d % 16 == 0 &&
  dSeqAddr d % 64 == 0

/-- The first sequence that fails a check. -/
def firstSeq (w : Waiting) (bad : Nat → Bool) : Option Nat := (List.range (dSeqs w.desc)).find? bad

/-- A handle of this instance that holds no lost page. -/
def goodHandle (s : State) (slot h : Nat) (held : Bool) : Bool := held && (objAt s h).any (fun o => o.inst == slot) && !objLost s h

def handlesOk (s : State) (slot : Nat) (i : Instance) (e : Bytes) : Bool :=
  (qCtx e == 0 || goodHandle s slot (qCtx e) (mapFind i.ctxs (qCtx e)).isSome) &&
  (qPfx e == 0 || goodHandle s slot (qPfx e) (mapFind i.pfxs (qPfx e)).isSome) &&
  (qDelta e == 0 || (match mapFind i.sets (qDelta e) with
    | some d => goodHandle s slot d.cur (mapFind i.vers d.cur).isSome
    | none => false))

def ctxLen (i : Instance) (h : Nat) : Nat := (mapFind i.ctxs h).elim 0 (fun c => c.len)
def pfxLen (i : Instance) (h : Nat) : Nat := (mapFind i.pfxs h).elim 0 (fun p => p.len)

abbrev maxPositions := 2097152

/-- Its context or prefix is of another generation. -/
def crossed (i : Instance) (gen : Nat) (e : Bytes) : Bool :=
  (mapFind i.ctxs (qCtx e)).any (fun c => c.len != 0 && c.gen != gen) || (mapFind i.pfxs (qPfx e)).any (fun p => p.gen != gen)

def deltaOther (i : Instance) (gen : Nat) (e : Bytes) : Bool :=
  (mapFind i.sets (qDelta e)).any (fun d => (mapFind i.vers d.cur).any (fun v => v.gen != gen))

def allowCross (s : State) (slot : Nat) : Bool := rbit s (svReg slot 0) 19

/-- The status of check 7 for one sequence. -/
def genFault (s : State) (slot : Nat) (i : Instance) (gen : Nat) (e : Bytes) : Option Nat :=
  if qGen e ≠ 0 ∧ qGen e ≠ gen then some stGenMismatch
  else if (crossed i gen e && !allowCross s slot) || deltaOther i gen e then some stGenRetired
  else none

/-- Checks 1 to 7: status and index of the first that fails. -/
def admitCheck (s : State) (slot : Nat) (i : Instance) (w : Waiting) : Option (Nat × Nat) :=
  let e := seqAt w
  let gen := genCur s slot
  let fails (st : Nat) (bad : Nat → Bool) : Option (Nat × Nat) := (firstSeq w bad).map (fun j => (st, j))
  if descOk i w = false then some (stBadDescriptor, 0)
  else
    (fails stBadDescriptor (fun j => !entryWf i (e j) || ctxAgain w j || decide (16 < (deltaSets w (j + 1)).length))).orElse fun _ =>
    (if i.placed && i.removing.isNone then none else some (stNoInstance, 0)).orElse fun _ =>
    (fails stBadHandle (fun j => !handlesOk s slot i (e j))).orElse fun _ =>
    (fails stContextBusy (fun j => ctxBusy i (qCtx (e j)))).orElse fun _ =>
    (fails stPrefixConflict (fun j => qPfx (e j) != 0 && ctxLen i (qCtx (e j)) != 0)).orElse fun _ =>
    (fails stContextFull (fun j =>
      decide (maxPositions < ctxLen i (qCtx (e j)) + pfxLen i (qPfx (e j)) + (qLen (e j) - qK (e j))))).orElse fun _ =>
    (firstSeq w (fun j => (genFault s slot i gen (e j)).isSome)).bind (fun j => (genFault s slot i gen (e j)).map (fun st => (st, j)))

/-! ### Drafts (12 R305, R306) -/

def advisedOf (c : Ctx) : Nat := if 8 ≤ c.zeroRun then 0 else Nat.min 16 ((c.acc16 / 16 + 1).toNat)

/-- k of a sequence. -/
def draftsUsed (s : State) (slot : Nat) (i : Instance) (e : Bytes) : Nat :=
  if rbit s (svReg slot 0) 18 then
    match mapFind i.ctxs (qCtx e) with
    | some c =>
      if advisedOf c = 0 then (if c.probe % 64 = 63 then Nat.min (qK e) 1 else 0) else Nat.min (qK e) (advisedOf c)
    | none => qK e
  else qK e

/-! ### Reservation (09 R219-R222, R228, check 8) -/

/-- The frames that peers grant, in the order in which the valid peers of SP_PEER0-7 are asked. -/
def grantsInTurn (s : State) (gr : List (Nat × Nat)) : List (Nat × Nat) :=
  let peers := ((List.range 8).filterMap (fun n =>
    let r := spReg (0x40 + 4 * n)
    if rbit s r 31 then some (rdF s r 12 0) else none)).dedup
  (peers.map (fun p => gr.filter (fun g => g.1 == p))).flatten

/-- A page from the pool, or, where the pool has none, the next frame a peer has granted. -/
def resvPage (s : State) (secure : Bool) (h i : Nat) (gr : List (Nat × Nat)) : Option (Page × State × List (Nat × Nat)) :=
  match allocPage s secure h i with
  | some (p, s1) => some (p, s1, gr)
  | none =>
    match gr with
    | [] => none
    | (peer, f) :: gr' =>
      if rbit s (spReg 0) 2 then
        let s1 := remoteOut s 1
        some ({ frame := f, remote := some peer, pinned := true },
          { s1 with pot := { s1.pot with outReads := mapSet s1.pot.outReads peer s1.rackTime } }, gr')
      else none

/-- What the reservation of a frame has made so far. -/
structure Resv where
  s     : State
  gr    : List (Nat × Nat)
  pages : List (Nat × List Page) := []
  cow   : List (Nat × Page) := []
  spill : Option Nat := none

def resvPages (secure : Bool) (h i : Nat) : Nat → Resv → Option (List Page × Resv)
  | 0, r => some ([], r)
  | n + 1, r =>
    match resvPage r.s secure h i r.gr with
    | none => none
    | some (p, s1, gr) =>
      match resvPages secure h (i + 1) n { r with s := s1, gr := gr } with
      | some (ps, r2) => some (p :: ps, r2)
      | none => none

/-- The page at a length is shared: its first write is preceded by a copy. -/
def needsCopy (s : State) (base : List Page) (at_ : Nat) : Bool :=
  match base[at_ / frameBytes]? with
  | some p => p.shared && decide (1 < refCount s (refKey p))
  | none => false

/-- One sequence: the prefix is attached, and every page it will write is reserved. -/
def resvSeq (slot : Nat) (secure : Bool) (cb h pfx len0 run : Nat) (r : Resv) : Option Resv :=
  let o := objAt r.s h
  let pfxPages := if pfx = 0 then [] else (objAt r.s pfx).elim [] (fun p => p.pages)
  match holdPages pfxPages r.s with
  | none => none
  | some s1 =>
    let base := if pfx = 0 then (if h = 0 then [] else o.elim [] (fun o => o.pages)) else sharedPages pfxPages
    let n := pagesFor ((len0 + run) * cb)
    if 65536 < n then none
    else
      match resvPages secure h base.length (n - base.length) { r with s := s1 } with
      | none => none
      | some (ps, r2) =>
        let r3 := if h = 0 then { r2 with pages := r2.pages ++ [(0, base ++ ps)] }
          else { r2 with s := setObj r2.s h { inst := slot, secure := secure, pages := base ++ ps } }
        if cb = 0 ∨ needsCopy s1 base (len0 * cb) = false then some r3
        else
          match resvPage r3.s secure h (len0 * cb / frameBytes) r3.gr with
          | some (p, s4, gr) => some { r3 with s := s4, gr := gr, cow := r3.cow ++ [(h, p)] }
          | none => none

/-- Sequences in order; the index of the first that cannot be supplied. -/
def resvSeqs (slot : Nat) (secure : Bool) (cb : Nat) : Nat → List (Nat × Nat × Nat × Nat) → Resv → Except Nat Resv
  | _, [], r => .ok r
  | j, (h, pfx, len0, run) :: l, r =>
    match resvSeq slot secure cb h pfx len0 run r with
    | none => .error j
    | some r2 => resvSeqs slot secure cb (j + 1) l r2

/-- The frame's class 4 object of activation spill; none where it cannot be supplied. -/
def resvSpill (slot : Nat) (secure : Bool) (n : Nat) (r : Resv) : Option Resv :=
  if n = 0 then some r
  else if maxPages < n then none
  else
    match newObj r.s 4 slot secure with
    | none => none
    | some (h, s1) =>
      match resvPages secure h 0 n { r with s := s1 } with
      | some (ps, r2) => some { r2 with s := setObj r2.s h { inst := slot, secure := secure, pages := ps }, spill := some h }
      | none => none

/-- R219: every page a frame needs on this part; otherwise the sequence that cannot be supplied. The spill is the whole
frame's: wanting pages for it are laid to its first sequence (DESIGN CHOICE, log 169). -/
def resvFrame (s : State) (slot : Nat) (i : Instance) (qs : List (Nat × Nat × Nat × Nat)) (supply : FrameSupply) : Except Nat Resv :=
  match resvSeqs slot i.secure i.cacheBytes 0 qs { s := s, gr := grantsInTurn s supply.granted } with
  | .error j => .error j
  | .ok r =>
    match resvSpill slot i.secure supply.spill r with
    | some r2 => .ok r2
    | none => .error 0

/-! ### FRAME_ADMIT (12 R289-R291) -/

/-- IN_FLIGHT_MAX: 0 taken as 1, above 256 as 256. -/
def inFlightMax (s : State) (slot : Nat) : Nat := clampN 1 256 (rdF s (svReg slot 4) 8 0)

def inFlight (i : Instance) : Nat := (i.flight.filter (fun f => f.counted)).length

/-- No generation, PAUSE or save barrier holds frames. -/
def barrierFree (s : State) (slot : Nat) (i : Instance) : Bool := !barrierUp s slot && !i.pause && i.save.isNone && !i.restoring

/-- Input bytes of a token or vector sequence. -/
def inputBytes (i : Instance) (e : Bytes) : Nat := qLen e * (if i.inVec then i.inRow else 4)

/-- FRAME's payload: descriptor and sequence entries, generation, captured versions, and the inputs. -/
def framePayload (w : Waiting) (gen : Nat) (vers : List Nat) (inputs : List Bytes) : Bytes :=
  w.desc ++ w.seqs.flatten ++ leBytes 4 gen ++ (vers.map (leBytes 4)).flatten ++ inputs.flatten

def frameRecBytes (i : Instance) (w : Waiting) : Nat :=
  let n := dSeqs w.desc
  recSize (36 + 68 * n + ((List.range n).map (fun j => inputBytes i (seqAt w j))).sum)

/-- R353: the ring has room for the frame's FRAME and OUTCOME. -/
def recordRoom (i : Instance) (w : Waiting) : Bool :=
  !i.record.on || decide (frameRecBytes i w + recSize 14 + recReserved i ≤ recRoom i.record)

/-- A sequence as it travels. -/
def seqMsg (s : State) (slot : Nat) (i : Instance) (e input : Bytes) : SeqMsg :=
  let k := draftsUsed s slot i e
  let c := qLen e - qK e
  { hostTag := BitVec.ofNat 64 (leAt e 0 8), ctx := qCtx e, pfx := qPfx e, delta := qDelta e
    version := (mapFind i.sets (qDelta e)).elim 0 (fun d => d.cur)
    gen := qGen e, k := qK e, kUsed := k, inLen := c + k, outCap := qOutCap e, inAddr := BitVec.ofNat 64 (leAt e 32 8)
    outAddr := BitVec.ofNat 64 (leAt e 40 8), temp := qTemp e, topK := qTopK e
    drafts := (List.range k).map (fun j => BitVec.ofNat 32 (leAt input (4 * (c + j)) 4)) }

/-- The first write of a context is under the frame's generation, or its prefix's. -/
def ctxStart (i : Instance) (gen : Nat) (q : SeqMsg) (c : Ctx) : Ctx :=
  let c := { c with busy := true }
  if c.len = 0 then
    { c with len := pfxLen i q.pfx, gen := if q.pfx = 0 then gen else (mapFind i.pfxs q.pfx).elim gen (fun p => p.gen) }
  else c

/-- The contexts of a frame are busy, and its versions are held. -/
def holdFrame (i : Instance) (gen : Nat) (qs : List SeqMsg) : Instance :=
  let j := qs.foldl (fun x q =>
    if q.ctx = 0 then x else { x with ctxs := mapSet x.ctxs q.ctx (ctxStart i gen q (mapGet {} x.ctxs q.ctx)) }) i
  ((qs.map (fun q => q.version)).filter (fun v => v != 0)).dedup.foldl refVer j

/-- What the reservation of a frame asks: context, prefix, length before the inputs, and positions to run. -/
def resvList (i : Instance) (qs : List SeqMsg) : List (Nat × Nat × Nat × Nat) :=
  qs.map (fun q => (q.ctx, q.pfx, ctxLen i q.ctx + pfxLen i q.pfx, q.inLen))

/-- A frame is refused: it runs no pass, uses no step and changes no context. -/
def refuseFrame (s : State) (slot : Nat) (w : Waiting) (st idx : Nat) : State :=
  match instOf s slot with
  | none => s
  | some i =>
    let s := setInst s slot { i with waiting := i.waiting.drop 1 }
    let s := incHold (recordUnrun s slot (dTag w.desc) 3 st idx) (svReg slot 0x20) 32 1
    let s := if st = stStockpotFull then incHold s (spReg 0x30) 32 1 else s
    let s := putMarker s slot (blankMsg (dTag w.desc) i.step (.refused st idx) false)
    submitStep s slot w.submit (fun b => { b with refused := b.refused + 1 })

/-- The frame of a waiting entry. -/
def frameOf (s : State) (slot : Nat) (i : Instance) (w : Waiting) (inputs : List Bytes) : FrameMsg :=
  let qs := (List.range (dSeqs w.desc)).map (fun j => seqMsg s slot i (seqAt w j) (inputs.getD j []))
  { tag := dTag w.desc, step := i.step, gen := genCur s slot, qrecAddr := BitVec.ofNat 64 (dQrecAddr w.desc)
    qrecCap := dQrecCap w.desc, seqs := qs, tally := [], clipped := false
    crossGen := (List.range (dSeqs w.desc)).any (fun j => crossed i (genCur s slot) (seqAt w j)), replayed := false, marker := none }

/-- R291: the frame takes its step, and flies. -/
def flyFrame (s : State) (slot : Nat) (f : FrameMsg) (r : Resv) : State :=
  let s := modInst s slot (fun i =>
    let x := holdFrame i f.gen f.seqs
    { x with
      step := f.step + 1
      flight := x.flight ++ [{ msg := f, pages := r.pages, cow := r.cow, spill := r.spill, atExit := exitHere s x, counted := true }] })
  incWrap s (svReg slot 0x1C) 1

/-- A waiting frame is admitted. -/
def admitFrame (slot : Nat) (i : Instance) (w : Waiting) (f : FrameMsg) (r : Resv) (inputs : List Bytes) : State :=
  let s := recordFrame r.s slot 1 i.step (framePayload w f.gen (f.seqs.map (fun q => q.version)) inputs)
  let s := flyFrame (modInst s slot (fun i => { i with waiting := i.waiting.drop 1 })) slot f r
  submitStep s slot w.submit (fun b => { b with admitted := b.admitted + 1 })

/-- The function whose command submitted a waiting frame. -/
def submitPf (i : Instance) (w : Waiting) : Nat := (i.submits.find? (fun b => b.id == w.submit)).elim 0 (fun b => b.mbx.id.pf)

/-- The next waiting frame is admitted or refused. -/
def admitNext (s : State) (slot : Nat) (inputs : List Bytes) (supply : FrameSupply) : State :=
  match instOf s slot with
  | none => s
  | some i =>
    match i.waiting with
    | [] => s
    | w :: _ =>
      if !entryHere s i || decide (s.life.partState ≠ psReady) || decide (inFlightMax s slot ≤ inFlight i) || !barrierFree s slot i ||
          !recordRoom i w || !busMaster s (submitPf i w) then s
      else
        match admitCheck s slot i w with
        | some (st, j) => refuseFrame s slot w st j
        | none =>
          let f := frameOf s slot i w inputs
          match resvFrame s slot i (resvList i f.seqs) supply with
          | .error j => refuseFrame s slot w stStockpotFull j
          | .ok r => admitFrame slot i w f r inputs

/-! ### FRAME_STAGE_ARRIVAL (12 R292, R293) -/

/-- A context named for the first time on a part that is not the entry part; none where the part holds its 2^20 contexts
(09 R216). -/
def knowCtx (slot : Nat) (s : State) (q : SeqMsg) : Option State :=
  match instOf s slot with
  | none => some s
  | some i =>
    if q.ctx = 0 ∨ (mapFind i.ctxs q.ctx).isSome then some s
    else
      let known (s : State) : State := setInst s slot { i with ctxs := mapSet i.ctxs q.ctx {} }
      if (objAt s q.ctx).isSome then some (known s)
      else if classCount s 1 < 0x100000 then some (known (setObj s q.ctx { inst := slot, secure := i.secure }))
      else none

def knowCtxs (slot : Nat) : List SeqMsg → State → Option State
  | [], s => some s
  | q :: qs, s => (knowCtx slot s q).bind (knowCtxs slot qs)

/-- Flights stay in step order. -/
def putFlight (f : Flight) : List Flight → List Flight
  | [] => [f]
  | g :: gs => if f.msg.step.toNat < g.msg.step.toNat then f :: g :: gs else g :: putFlight f gs

def addFlight (s : State) (slot : Nat) (f : Flight) : State := modInst s slot (fun i => { i with flight := putFlight f i.flight })

/-- A marker that arrives: of a frame decided without running, or of one that failed on its way. -/
def markerArrives (s : State) (slot : Nat) (i : Instance) (f : FrameMsg) : State :=
  match f.marker with
  | some (.refused _ _) => putMarker s slot f
  | some .aborted => if f.seqs.isEmpty then putMarker s slot f else addFlight s slot { msg := f, atExit := exitHere s i }
  | _ => addFlight s slot { msg := f, atExit := exitHere s i }

/-- What a later stage reserves for a frame. -/
def stageResv (s : State) (slot : Nat) (f : FrameMsg) (supply : FrameSupply) : Option Resv :=
  match knowCtxs slot f.seqs s with
  | none => none
  | some s1 =>
    match instOf s1 slot with
    | none => none
    | some i =>
      match resvFrame s1 slot i (resvList i f.seqs) supply with
      | .ok r => some r
      | .error _ => none

/-- A later stage reserves its pages, or turns the frame into an empty marker. -/
def stageArrival (s : State) (slot : Nat) (f : FrameMsg) (supply : FrameSupply) : State :=
  match instOf s slot with
  | none => s
  | some i =>
    if entryHere s i || !i.placed || i.flight.any (fun g => g.msg.step == f.step) then s
    else if f.marker.isSome then markerArrives s slot i f
    else
      match stageResv s slot f supply with
      | none =>
        let s1 := ((knowCtxs slot f.seqs s).getD s)
        let s2 := incHold (incHold s1 (spReg 0x30) 32 1) (svReg slot 0x20) 32 1
        addFlight s2 slot { msg := { f with marker := some (.failed stStockpotFull i.ordinal) }, atExit := exitHere s i }
      | some r =>
        let s2 := modInst r.s slot (fun x => holdFrame x f.gen f.seqs)
        addFlight s2 slot { msg := f, pages := r.pages, cow := r.cow, spill := r.spill, atExit := exitHere s i }

/-! ### Token selection (12 R302, R303) -/

/-- Insert a token by descending logit, the lower ID first among equals. -/
def tokInsert (l : Nat × W32) : List (Nat × W32) → List (Nat × W32)
  | [] => [l]
  | x :: xs => if fLt x.2 l.2 then l :: x :: xs else x :: tokInsert l xs

/-- The n largest logits, NaN left out, in descending order. -/
def topTokens (n : Nat) (logits : List W32) : List (Nat × W32) :=
  (logits.zipIdx.filter (fun x => !fIsNan x.1)).foldl (fun acc x => (tokInsert (x.2, x.1) acc).take n) []

/-- The first token whose running sum exceeds a bound, else the last. -/
def runningPick (bound : W32) : W32 → List (Nat × W32) → Nat → Nat
  | _, [], last => last
  | sum, (t, p) :: l, _ =>
    let s := fAdd sum p
    if fLt bound s then t else runningPick bound s l t

/-- The token of one position from its logits, TEMP, TOP_K and the draw u; true: all NaN. -/
def selectToken (logits : List W32) (temp : W16) (topK u : Nat) : Nat × Bool :=
  let t := widenB temp
  if logits.all fIsNan then (0, true)
  else if t.toNat % 0x80000000 = 0 then (((topTokens 1 logits).headD (0, 0)).1, false)
  else
    let l := topTokens topK logits
    let l0 := (l.headD (0, 0)).2
    let ps := l.map (fun x => (x.1, fExp2 (fMul (fDiv (fSub x.2 l0) t) log2e)))
    let total := vReduce fAdd 0 (ps.map Prod.snd)
    let bound := fMul (fScale (fOfInt u) (-24)) total
    (runningPick bound 0 ps 0, false)

/-- The tokens of a sequence's positions, one draw of 24 bits for each. -/
def selectAll (temp : W16) (topK : Nat) : List (List W32) → W64 → List (Nat × Bool) × W64
  | [], g => ([], g)
  | l :: ls, g =>
    let d := lfsrDraw 24 g 0
    let r := selectAll temp topK ls d.2
    (selectToken l temp topK d.1 :: r.1, r.2)

/-- The accepted count: drafts that match the token selected before them. -/
def acceptCount : List W32 → List (Nat × Bool) → Nat
  | d :: ds, t :: ts => if d.toNat = t.1 then acceptCount ds ts + 1 else 0
  | _, _ => 0

/-- What a sequence of a completed frame yields. -/
structure SeqDone where
  out : Bytes
  acc : Nat
  nan : Bool

/-- A token sequence: tokens at the last committed position and at the drafts. -/
def tokensDone (q : SeqMsg) (ts : List (Nat × Bool)) : SeqDone :=
  let sel := ts.drop (q.inLen - q.kUsed - 1)
  let a := acceptCount (q.drafts.take q.kUsed) sel
  { out := ((q.drafts.take a).map (fun d => leBytes 4 d.toNat)).flatten ++ leBytes 4 (sel.getD a (0, false)).1
    acc := a, nan := ts.any (fun t => t.2) }

/-- The sequences of a frame in order, with the token generator running through them. -/
def seqsDone (i : Instance) : List SeqMsg → List SeqResult → W64 → List SeqDone × W64
  | [], _, g => ([], g)
  | q :: qs, rs, g =>
    match rs.headD (.rows []) with
    | .rows d =>
      let r := seqsDone i qs (rs.drop 1) g
      ({ out := ((List.range q.inLen).map (fun j => slice (d.getD j []) 0 i.outRow)).flatten, acc := 0, nan := false } :: r.1, r.2)
    | .logits ls =>
      let x := selectAll q.temp q.topK ((List.range q.inLen).map (fun j => ls.getD j [])) g
      let r := seqsDone i qs (rs.drop 1) x.2
      (tokensDone q x.1 :: r.1, r.2)

/-! ### The quality record (04 R108, Table 04.2) -/

def tallyBytes (t : TallyRow) : Bytes := leBytes 4 t.layer ++ leBytes 4 t.refused ++ leBytes 8 t.clipped

/-- The record for a capacity of at least 16 bytes. -/
def qualityRecord (f : FrameMsg) : Bytes :=
  let rows := f.tally.filter (fun t => t.refused != 0 || t.clipped != 0)
  let n := Nat.min rows.length ((f.qrecCap - 16) / 16)
  leBytes 4 n ++ leBytes 4 (rows.length - n) ++ leBytes 4 (if f.clipped then 1 else 0) ++ zeros 4 ++ ((rows.take n).map tallyBytes).flatten

/-! ### Outcomes (12 R294, R304, R305) -/

/-- FILL of the pages of a context, by its length in bytes; a shared page keeps its own. -/
def fillPages (bytes : Nat) (ps : List Page) : List Page :=
  ps.zipIdx.map (fun x => if x.1.shared then x.1 else { x.1 with fill := Nat.min 512 (ceilDiv (bytes - x.2 * frameBytes) 4096) })

/-- The pages of a context beyond its length are released. -/
def trimCtx (s : State) (h n bytes : Nat) : State :=
  match objAt s h with
  | some o => dropPages (setObj s h { o with pages := fillPages bytes (o.pages.take n) }) (o.pages.drop n)
  | none => s

/-- R305: the averages of a context after a pass. -/
def ctxAfter (c : Ctx) (kUsed committed a : Nat) : Ctx :=
  let was := advisedOf c
  let c1 := if kUsed = 0 then c
    else { c with acc16 := c.acc16 + (16 * (a : Int) - c.acc16) / 8, zeroRun := if a = 0 then c.zeroRun + 1 else 0 }
  { c1 with
    len := c.len + committed + a
    busy := false
    probe := if advisedOf c1 = 0 then (if was = 0 then c.probe + 1 else 0) else 0 }

/-- A sequence of a completed frame: its context advances. -/
def seqCommit (slot : Nat) (s : State) (x : SeqMsg × Nat) : State :=
  match instOf s slot with
  | none => s
  | some i =>
    match mapFind i.ctxs x.1.ctx with
    | none => s
    | some c =>
      let c' := ctxAfter c x.1.kUsed (x.1.inLen - x.1.kUsed) x.2
      let bytes := c'.len * i.cacheBytes
      trimCtx (setInst s slot { i with ctxs := mapSet i.ctxs x.1.ctx c' }) x.1.ctx (pagesFor bytes) bytes

/-- A sequence of a frame that does not complete: its context is as it was, without the prefix it attached. -/
def seqDiscard (slot : Nat) (s : State) (q : SeqMsg) : State :=
  match instOf s slot with
  | none => s
  | some i =>
    match mapFind i.ctxs q.ctx with
    | none => s
    | some c =>
      let c' := { c with busy := false, len := if q.pfx = 0 then c.len else 0 }
      let bytes := c'.len * i.cacheBytes
      trimCtx (setInst s slot { i with ctxs := mapSet i.ctxs q.ctx c' }) q.ctx (pagesFor bytes) bytes

/-- The response to an ABORT that waited (16 R393). -/
def abortBytes (o : Nat) (step : W64) : Bytes := leBytes 1 o ++ zeros 7 ++ leBytes 8 step.toNat

def outcomeCode : FrameEnd → Nat
  | .completed => 1
  | .aborted => 2
  | .refused _ _ => 3
  | .failed _ _ => 4

def outcomeStatus : FrameEnd → Nat
  | .refused st _ => st
  | .failed st _ => st
  | _ => stOk

def outcomeIndex : FrameEnd → Nat
  | .refused _ j => j
  | .failed _ j => j
  | _ => 0xFFFF

/-- ABORT commands that waited for the outcome complete. -/
def answerAborts (s : State) (slot : Nat) (f : Flight) (e : FrameEnd) : State :=
  f.aborting.foldl (fun s r =>
    let late := e != .aborted
    let s := if late then incHold s (svReg slot 0x28) 32 1 else s
    finish s r (if late then stAlreadyComplete else stOk) (abortBytes (outcomeCode e) f.msg.step)) s

/-- The page that a context's next position lies in: a shared one is copied before the context advances into it (09 R221). -/
def copyDue (slot : Nat) (s : State) (q : SeqMsg) : State :=
  match instOf s slot with
  | none => s
  | some i =>
    let at_ := ctxLen i q.ctx * i.cacheBytes
    if q.ctx = 0 ∨ i.cacheBytes = 0 ∨ at_ % frameBytes = 0 then s else copyOnWrite s slot q.ctx (at_ / frameBytes)

/-- The pages a frame still has reserved, and its spill, go. -/
def dropFlightPages (s : State) (f : Flight) : State :=
  freeObjOpt (dropPages s ((f.pages.map Prod.snd).flatten ++ f.cow.map Prod.snd)) f.spill

/-- R294: contexts advance or are discarded, pages and references are released, and the frame is forgotten. -/
def applyOutcome (s : State) (slot : Nat) (f : Flight) (e : FrameEnd) (accepted : List Nat) : State :=
  let s := if e = .completed then f.msg.seqs.foldl (copyDue slot) s else s
  let f := (((instOf s slot).elim [] (fun i => i.flight)).find? (fun g => g.msg.step == f.msg.step)).getD f
  let s := modInst s slot (fun i => { i with
    flight := i.flight.filter (fun g => g.msg.step != f.msg.step)
    passStep := if i.passStep == some f.msg.step then none else i.passStep })
  let s := match e with
    | .completed => (f.msg.seqs.zipIdx.map (fun x => (x.1, accepted.getD x.2 0))).foldl (seqCommit slot) s
    | _ => f.msg.seqs.foldl (seqDiscard slot) s
  let s := dropFlightPages s f
  let s := ((f.msg.seqs.map (fun q => q.version)).filter (fun v => v != 0)).dedup.foldl (fun s v => dropVer s slot v) s
  let s := if e = .aborted then incHold s (svReg slot 0x24) 32 1 else s
  let s := match instOf s slot with
    | some i => if entryHere s i then
        recordFrame s slot 2 f.msg.step (outcomePayload f.msg.tag (outcomeCode e) (outcomeStatus e) (outcomeIndex e))
      else s
    | none => s
  answerAborts s slot f e

/-! ### FRAME_COMMIT (12 R294, R295, 15 R373-R375) -/

def flagBits (f : FrameMsg) : Nat := (if f.clipped then 1 else 0) + (if f.crossGen then 2 else 0) + (if f.replayed then 4 else 0)

def frameEntry (i : Instance) (f : FrameMsg) (e : FrameEnd) (step : Nat) (gen n : Nat) : Bytes :=
  leBytes 1 2 ++ leBytes 1 (outcomeCode e) ++ leBytes 2 (outcomeStatus e) ++ leBytes 2 (flagBits f) ++ leBytes 2 (outcomeIndex e) ++
  leBytes 8 f.tag.toNat ++ leBytes 8 step ++ leBytes 4 gen ++ leBytes 2 n ++ leBytes 2 i.number

def seqEntry (q : SeqMsg) (x : SeqDone) (adv len : Nat) : Bytes :=
  leBytes 1 4 ++ leBytes 1 (if x.nan then 1 else 0) ++ leBytes 1 q.k ++ leBytes 1 q.kUsed ++ leBytes 1 x.acc ++ leBytes 1 adv ++ zeros 2 ++
  leBytes 8 q.hostTag.toNat ++ leBytes 4 len ++ leBytes 4 q.ctx ++ zeros 8

/-- The context of a sequence after the pass, as its entry shows it: advised length and length; CONTEXT 0 shows the
initial values' advice and length 0. -/
def ctxShown (i : Instance) (q : SeqMsg) (a : Nat) : Nat × Nat :=
  match mapFind i.ctxs q.ctx with
  | some c =>
    let c' := ctxAfter c q.kUsed (q.inLen - q.kUsed) a
    (advisedOf c', c'.len)
  | none => (advisedOf {}, 0)

/-- A frame decided without running is reported in its place. A step and a generation that it never had are open where it
was aborted while waiting. -/
def commitMarker (s : State) (slot : Nat) (i : Instance) (f : FrameMsg) : State :=
  match f.marker with
  | none => s
  | some e =>
    if ringFree i.ring < 1 then s
    else
      let open_ := e == .aborted
      let step := if open_ then Config.freeNat s.freeNo else f.step.toNat
      let gen := if open_ then Config.freeNat (s.freeNo + 1) else 0
      let s := setInst s slot { i with markers := i.markers.drop 1 }
      let s := if open_ && !entryHere s i then incHold s (svReg slot 0x24) 32 1 else s
      ringPost (useFreeN (if open_ then 2 else 0) s) slot [frameEntry i f e step gen 0]

/-- A frame that did not complete is reported, and its outcome takes effect. -/
def commitEnd (s : State) (slot : Nat) (i : Instance) (f : Flight) (e : FrameEnd) : State :=
  if ringFree i.ring < 1 then s
  else applyOutcome (ringPost s slot [frameEntry i f.msg e f.msg.step.toNat f.msg.gen 0]) slot f e []

/-- The outputs and the quality record of a completed frame. -/
def writeOutputs (s : State) (f : FrameMsg) (ds : List SeqDone) : State :=
  let s := (f.seqs.zip ds).foldl (fun s x => dmaWrite s 0 x.1.outAddr x.2.out) s
  if f.qrecCap = 0 then s else dmaWrite s 0 f.qrecAddr (qualityRecord f)

/-- R294: outputs, then the commit point, then the entries, HEAD and the outcome. -/
def commitDone (s : State) (slot : Nat) (i : Instance) (f : Flight) (results : List SeqResult) : State :=
  if ringFree i.ring < 1 + f.msg.seqs.length then s
  else
    let g := passSeed i.seed f.msg.step (unitId 3 i.ordinal 0 0 0)
    let d := seqsDone i f.msg.seqs results g
    let s := writeOutputs (modInst s slot (fun x => { x with tokenGen := d.2 })) f.msg d.1
    let es := (f.msg.seqs.zip d.1).map (fun x =>
      let c := ctxShown i x.1 x.2.acc
      seqEntry x.1 x.2 c.1 c.2)
    let s := ringPost s slot (frameEntry i f.msg .completed f.msg.step.toNat f.msg.gen f.msg.seqs.length :: es)
    let s := incWrap s (svReg slot 0x2C) ((f.msg.seqs.map (fun q => q.kUsed)).sum)
    let s := incWrap s (svReg slot 0x30) ((d.1.map (fun x => x.acc)).sum)
    applyOutcome s slot f .completed (d.1.map (fun x => x.acc))

/-- The frame's pass has run on this part. -/
def passOver (s : State) (slot : Nat) (i : Instance) (f : Flight) : Bool :=
  f.passed || (i.passStep == some f.msg.step && chainsIdle s slot)

/-- The next frame in order is decided: a marker, a frame that failed or was aborted, or one whose pass has run. -/
def frameCommit (s : State) (slot : Nat) (results : List SeqResult) : State :=
  match instOf s slot with
  | none => s
  | some i =>
    if !exitHere s i then s
    else
      match i.markers.head?, i.flight.head? with
      | none, none => s
      | some m, none => commitMarker s slot i m
      | mk, some f =>
        match (if (mk.any (fun m => decide (m.step.toNat ≤ f.msg.step.toNat))) then mk else none) with
        | some m => commitMarker s slot i m
        | none =>
          match f.msg.marker with
          | some e => commitEnd s slot i f e
          | none =>
            if passOver s slot i f then
              if f.abortSeen then commitEnd s slot i f .aborted else commitDone s slot i f results
            else s

/-! ### FRAME_OUTCOME -/

/-- On a part that is not the exit part, the outcome of R294 arrives. -/
def frameOutcome (s : State) (slot : Nat) (out : OutcomeMsg) : State :=
  match instOf s slot with
  | none => s
  | some i =>
    if exitHere s i then s
    else match i.flight.find? (fun f => f.msg.step == out.step) with
      | some f => applyOutcome s slot f out.outcome out.accepted
      | none => s

/-! ### ABORT, ABORT_NOTICE (12 R307-R309, 16 R393) -/

/-- Mark a frame in flight. -/
def modFlight (s : State) (slot : Nat) (step : W64) (g : Flight → Flight) : State :=
  modInst s slot (fun i => { i with flight := i.flight.map (fun f => if f.msg.step == step then g f else f) })

def abortFlight (f : Flight) : Flight := { f with msg := { f.msg with marker := some .aborted }, abortSeen := true }

/-- What is left of a frame's work on this part is dropped. -/
def dropFrameWork (s : State) (slot : Nat) (step : W64) : State :=
  if (instOf s slot).any (fun i => i.passStep == some step) then stopPass s slot else s

/-- A frame is aborted here (R309). -/
def abortHere (s : State) (slot : Nat) (step : W64) : State := modFlight (dropFrameWork s slot step) slot step abortFlight

def abortReply (s : State) (m : MbxId) (st o : Nat) (step : W64) : State := post s m st (reqOp s m) (abortBytes o step) true

/-- The entry part's decision on a tag. -/
def abortTag (s : State) (m : MbxId) (slot : Nat) (i : Instance) : State :=
  let tag := BitVec.ofNat 64 (reqN s m 16 8)
  match i.flight.find? (fun f => f.msg.tag == tag) with
  | some f =>
    if exitHere s i && !f.msg.replayed then abortReply (abortHere s slot f.msg.step) m stOk 2 f.msg.step
    else
      modFlight (accept s m) slot f.msg.step (fun f => { f with aborting := f.aborting ++ [mref s m], abortSeen := f.abortSeen || !f.msg.replayed })
  | none =>
    match i.waiting.find? (fun w => dTag w.desc == tag) with
    | some w =>
      let s := setInst s slot { i with waiting := i.waiting.erase w }
      abortReply (abortWaiting s slot w) m stOk 2 0
    | none => abortReply (incHold s (svReg slot 0x28) 32 1) m stAlreadyComplete 0 0

def execAbort (m : MbxId) (s : State) : Answer :=
  onMbx m (runCmd s m 0x0202 16 (firstErr [fieldCheck s m [reqZero s m 10 6], entryOk s m 8])
    (withInst s m 8 (abortTag s m)))

/-- A notice drops the work of a frame; on the exit part it decides, ahead of the commit point. -/
def abortNotice (s : State) (slot : Nat) (step : W64) : State :=
  match instOf s slot with
  | none => s
  | some i => if entryHere s i then s else abortHere s slot step

def execAbortNotice (slot : Nat) (step : W64) (s : State) : Answer := onUnit (decide (slot < 64)) (abortNotice s slot step)

end Sys2Proof.Machine
end

