-- ==== Sys2Proof/Machine/Notice.lean ====
section
/-! DEFINITION. The receipt of an IFP packet, and fault notices: suspicions, REPORTs, ECHOs and the collector's records
(10 R244, 18 R423, 11 R278-R281). -/

namespace Sys2Proof.Machine

/-! ### Receipt (10 R244, 18 Table 18.2) -/

/-- WORLD equals the stream's world, and a WORLD of 1 came over a port whose DISC was signed and checked. -/
def worldOk (s : State) (port : Nat) (p : IfpPacket) : Bool :=
  hWorld p == streamSecure s (hStream p) && (!hWorld p || (portAt s port).secured)

/-- A packet comes in at a port. One with a bad HCRC is discarded and counted; one of another type, for another part, or
not whole, is none of this command's. `deny` is what becomes of one that the world check refuses. -/
def ifpReceive (s : State) (port : Nat) (p : IfpPacket) (types : List Nat) (deny eff : State → State) : State :=
  if !portCarries s port then s
  else if !hcrcOk p then incHold s (fpReg port 0x24) 16 1
  else if !types.contains (hType p) || hLen p != p.payload.length || decide (4096 < hLen p) || hDest p != partId s then s
  else if !worldOk s port p then deny (incHold s (secReg 0x0C) 32 1)
  else eff (linkAcked s port)

/-! ### Trees (11 R263) -/

/-- The members from position 0 on: the root, then the targets in ascending rank from after the root's, wrapping round. -/
def treeOrder (root : Nat) (targets : List Nat) : List Nat :=
  root :: (targets.filter (fun r => decide (root < r)) ++ targets.filter (fun r => decide (r < root)))

/-- The positions that position `i` sends to. -/
def treeChildren (f i n : Nat) : List Nat := ((List.range f).map (fun j => f * i + 1 + j)).filter (fun q => decide (q < n))

/-- The ranks a member sends to in a tree. -/
def childRanks (f : Nat) (order : List Nat) (r : Nat) : List Nat :=
  if order.contains r then (treeChildren f (order.idxOf r) order.length).map (fun q => order.getD q 0) else []

/-- The rank a member is sent to by. -/
def parentRank (f : Nat) (order : List Nat) (r : Nat) : Nat := order.getD ((order.idxOf r - 1) / f) 0

/-! ### Suspects (11 Table 11.6) -/

/-- SUSPECT_TYPE, SUSPECT_ID and SUSPECT_PORT in one number. -/
def suspKey (type id port : Nat) : Nat := type * 0x200000 + id % 0x2000 * 0x100 + port % 0x100

/-- A FAULT_NOTICE's payload. -/
def noticeBytes (kind key cause epoch reporters first : Nat) (time : W64) : Bytes :=
  leBytes 1 kind ++ leBytes 1 (key / 0x200000) ++ leBytes 2 (key / 0x100 % 0x2000) ++ leBytes 1 (key % 0x100) ++ leBytes 1 cause ++
  zeros 2 ++ leBytes 8 epoch ++ leBytes 4 reporters ++ leBytes 2 first ++ zeros 2 ++ leBytes 8 time.toNat

def nKey (p : IfpPacket) : Nat := suspKey (leAt p.payload 1 1) (leAt p.payload 2 2) (leAt p.payload 4 1)
def nCause (p : IfpPacket) : Nat := leAt p.payload 5 1
def nEpoch (p : IfpPacket) : Nat := leAt p.payload 8 8

def modLadle (s : State) (f : Ladle → Ladle) : State := { s with ladle := f s.ladle }

/-- The part named in `LF_CFG`. -/
def collectorId (s : State) : Nat := rdF s (ldReg 0x40) 12 0
def collectorValid (s : State) : Bool := rbit s (ldReg 0x40) 13

/-- A part with no valid collector is its own. -/
def isCollector (s : State) : Bool := !collectorValid s || collectorId s == partId s

def notifyGroup (s : State) : Option Group := mapFind s.ladle.groups (rdF s (ldReg 0x40) 21 16)

/-- An ECHO goes to the parts a member sends to in the notify group's tree, F = 16, on VC0. -/
def sendEcho (s : State) (g : Group) (root : Nat) (payload : Bytes) : State :=
  let order := treeOrder (g.ids.idxOf root) (List.range g.ids.length)
  (childRanks 16 order (g.ids.idxOf (partId s))).foldl (fun s r =>
    ifpPost s { type := ifpNoticeT, vc := 0, dest := g.ids.getD r 0, stream := g.stream, payload := payload }) s

/-- The collector's ECHO, at once on the first REPORT. -/
def collectorEcho (s : State) (x : Suspect) : State :=
  match notifyGroup s with
  | some g =>
    if collectorValid s && rbit s (ldReg 0x40) 22 then
      sendEcho s g (partId s) (noticeBytes 2 x.key x.cause x.epoch x.reporters.length (x.reporters.headD 0) x.time)
    else s
  | none => s

/-- R281: a REPORT about a suspect for an epoch reaches its collector. -/
def collect (s : State) (key cause epoch src : Nat) (time : W64) : State :=
  match s.ladle.suspects.find? (fun x => x.key == key && x.epoch == epoch) with
  | some x =>
    let rs := if x.reporters.contains src then x.reporters else x.reporters ++ [src]
    let s := modLadle s (fun l => { l with
      suspects := l.suspects.map (fun y => if y.key == key && y.epoch == epoch then { y with reporters := rs } else y) })
    match x.record with
    | some q => { s with faults := s.faults.map (fun r => if r.seq = q then { r with reporters := rs.length } else r) }
    | none => s
  | none =>
    if (s.ladle.suspects.filter (fun x => x.epoch == epoch)).length < 64 then
      let x : Suspect := { key := key, epoch := epoch, cause := cause, reporters := [src], time := time, record := none }
      collectorEcho (modLadle s (fun l => { l with suspects := l.suspects ++ [x] })) x
    else
      faultRecord (incHold s (ldReg 0x60) 16 1) { cls := 2, cause := 14, unit := Config.noUnit, collector := true }

/-- R280: a suspicion is raised in the current epoch. -/
def raiseSuspicion (s : State) (type id port cause : Nat) : State :=
  let e := faultEpoch s
  let k := suspKey type id port
  if s.ladle.heard.contains (k, e) ∨ s.ladle.reported.contains (k, e) then incHold s (ldReg 0x54) 32 1
  else
    let s1 := modLadle s (fun l => { l with reported := (k, e) :: l.reported })
    if isCollector s then collect s1 k cause e (partId s) s.rackTime
    else
      let s2 := incHold (modLadle s1 (fun l => { l with echoWait := (k, e) :: l.echoWait })) (ldReg 0x50) 32 1
      ifpPost (useFree s2) { type := ifpNoticeT, vc := 0, dest := collectorId s, stream := Config.freeNat s.freeNo % 2 ^ 24
                             payload := noticeBytes 1 k cause e 1 0 s.rackTime }

/-! ### An unresponsive part that this root has not met itself (11 R268) -/

/-- The ranks of the subtree below a rank, itself first. -/
def subtree (f : Nat) (order : List Nat) : Nat → Nat → List Nat
  | 0, r => [r]
  | k + 1, r => r :: ((childRanks f order r).map (subtree f order k)).flatten

/-- `LD_CTRL`.FANOUT: 0 taken as 1, above 16 as 16. -/
def fanout (s : State) : Nat := clampN 1 16 (rdF s (ldReg 0) 12 8)

/-- The ranks a multicast gives up with an unresponsive target: the target, and its subtree where none is adopted. -/
def givenUp (s : State) (order : List Nat) (rank : Nat) : List Nat :=
  if rbit s (ldReg 0) 13 then [rank] else subtree (fanout s) order order.length rank

/-- The tree of a multicast. -/
def mcastOrder (o : LOp) : List Nat := treeOrder o.root (o.targets.filter (fun r => r != o.root))

/-- A multicast's root lists what a notice says of a target: which part is unresponsive (DESIGN CHOICE, log 159). -/
def listLost (s : State) (id : Nat) (o : LOp) : LOp :=
  match mapFind s.ladle.groups o.group with
  | some g =>
    let r := g.ids.idxOf id
    if o.op = 0 ∧ o.done = false ∧ g.ids.idxOf (partId s) = o.root ∧ o.targets.contains r = true ∧ r ≠ o.root then
      { o with dead := o.dead ++ (givenUp s (mcastOrder o) r).filter (fun x => !o.dead.contains x) }
    else o
  | none => o

/-- A notice of cause 1 about a part. -/
def noticeLost (s : State) (p : IfpPacket) : State :=
  if nCause p = 1 ∧ leAt p.payload 1 1 = 1 then
    modLadle s (fun l => { l with ops := l.ops.map (listLost s (leAt p.payload 2 2 % 0x2000)) })
  else s

/-! ### REPORT, ECHO -/

/-- A FAULT_NOTICE of a KIND and of 32 bytes. -/
def noticeIn (s : State) (port : Nat) (p : IfpPacket) (kind : Nat) (eff : State → State) : State :=
  ifpReceive s port p [ifpNoticeT] id (fun s =>
    if leAt p.payload 0 1 = kind ∧ p.payload.length = 32 then eff (incHold s (ldReg 0x58) 32 1) else s)

def report (s : State) (port : Nat) (p : IfpPacket) : State :=
  noticeIn s port p 1 (fun s =>
    let s := modLadle (noticeLost s p) (fun l => { l with heard := (nKey p, nEpoch p) :: l.heard })
    if isCollector s then collect s (nKey p) (nCause p) (nEpoch p) (hSrc p) (BitVec.ofNat 64 (leAt p.payload 24 8)) else s)

def execReport (port : Nat) (pkt : IfpPacket) (s : State) : Answer := onUnit (decide (port < 18)) (report s port pkt)

/-- An ECHO is passed on to the members below, and ends this part's own wait and its own reports. -/
def echo (s : State) (port : Nat) (p : IfpPacket) : State :=
  noticeIn s port p 2 (fun s =>
    let k := (nKey p, nEpoch p)
    let first := !s.ladle.heard.contains k
    let s := modLadle (noticeLost s p) (fun l => { l with heard := k :: l.heard, echoWait := l.echoWait.filter (fun x => x != k) })
    match s.ladle.groups.find? (fun g => g.2.stream == hStream p && g.2.ids.contains (collectorId s)) with
    | some g => if first && collectorValid s then sendEcho s g.2 (collectorId s) p.payload else s
    | none => s)

def execEcho (port : Nat) (pkt : IfpPacket) (s : State) : Answer := onUnit (decide (port < 18)) (echo s port pkt)

/-! ### COLLECTOR_RECORD_EXPIRY, ECHO_WAIT_EXPIRY, FAULT_EPOCH_END -/

/-- CAUSE and CLASS of 20 Table 20.5 for a notice's cause, and UNIT. -/
def noticeCause (c : Nat) : Nat := if c = 1 then 14 else if c = 4 then 13 else 12
def noticeUnit (x : Suspect) : Nat := if x.cause = 1 then x.key / 0x100 % 0x2000 else x.key % 0x100

/-- What the record of a suspect says. -/
def suspectFault (x : Suspect) : FaultInfo :=
  let c := noticeCause x.cause
  { cls := if c = 14 then 2 else 1, cause := c, unit := noticeUnit x, collector := true, reporters := x.reporters.length }

/-- The record that takes the suspect: one of the current epoch that it is coalesced with, or a new one. -/
def suspectSeq (s : State) (x : Suspect) : W32 :=
  match s.faults.find? (sameFault (faultEpoch s) (suspectFault x)) with
  | some r => r.seq
  | none => rd s (fltReg 8)

/-- A new record's time and epoch are those of the first REPORT. -/
def recordSuspect (s : State) (x : Suspect) : State :=
  let q := rd s (fltReg 8)
  if s.faults.any (sameFault (faultEpoch s) (suspectFault x)) then faultRecord s (suspectFault x)
  else
    let s := incHold (faultRecord s (suspectFault x)) (ldReg 0x5C) 16 1
    { s with faults := s.faults.map (fun r => if r.seq = q then { r with time := x.time, epoch := x.epoch } else r) }

def collectorExpiry (s : State) (key : Nat) : State :=
  match s.ladle.suspects.find? (fun x => x.key == key && x.record.isNone) with
  | none => s
  | some x =>
    modLadle (recordSuspect s x) (fun l => { l with
      suspects := l.suspects.map (fun y =>
        if y.key == x.key && y.epoch == x.epoch then { y with record := some (suspectSeq s x) } else y) })

def execCollectorRecordExpiry (suspect : Nat) (s : State) : Answer := .next (collectorExpiry s suspect)

/-- R281: no ECHO within 100 µs: vector 64, once for the suspect in the epoch. -/
def echoExpiry (s : State) (key : Nat) : State :=
  match s.ladle.echoWait.find? (fun x => x.1 == key) with
  | none => s
  | some k =>
    let s1 := modLadle s (fun l => { l with echoWait := l.echoWait.filter (fun x => x != k), signalled := k :: l.signalled })
    if s.ladle.signalled.contains k then s1
    else incHold (signal (signal s1 0 64) 1 8) (ldReg 0x5C) 16 1

def execEchoWaitExpiry (suspect : Nat) (s : State) : Answer := .next (echoExpiry s suspect)

/-- What belongs to an earlier epoch is dropped; a suspect whose record is still to be written stays until it is. -/
def epochEnd (s : State) : State :=
  let e := faultEpoch s
  let s := modLadle s (fun l => { l with
    reported := l.reported.filter (fun x => decide (e ≤ x.2))
    heard := l.heard.filter (fun x => decide (e ≤ x.2))
    signalled := l.signalled.filter (fun x => decide (e ≤ x.2))
    suspects := l.suspects.filter (fun x => decide (e ≤ x.epoch) || x.record.isNone) })
  { s with fab := { s.fab with excluded := s.fab.excluded.filter (fun x => decide (e ≤ x.2.2.2)) } }

def execFaultEpochEnd (s : State) : Answer := .next (epochEnd s)

end Sys2Proof.Machine
end

