-- ==== Sys2Proof/Machine/Ladle.lean ====
section
/-! DEFINITION. Ladle: groups, the operations and their deliveries, segments, windows and retention, acknowledgement and
retry, unresponsive targets, reductions and barriers (11 R257-R271, 16 Table 16.7). -/

namespace Sys2Proof.Machine

/-! ### Groups -/

def groupAt (s : State) (g : Nat) : Option Group := mapFind s.ladle.groups g

/-- The part's rank in a group. -/
def myRank (s : State) (g : Group) : Nat := g.ids.idxOf (partId s)

/-- GROUP_TAG (R257). -/
def groupTag (stream : Nat) (ids : List Nat) : W32 :=
  BitVec.ofNat 32 (leNat (shake256 4 (leBytes 4 stream ++ (ids.map (leBytes 2)).flatten)))

/-- Operations in flight: of a group, and of the part. -/
def groupOps (s : State) (g : Nat) : List LOp := s.ladle.ops.filter (fun o => o.group == g && !o.done)
def opsInFlight (s : State) : Nat := (s.ladle.ops.filter (fun o => !o.done)).length

/-- A group of the secure world, or one that would use a secure stream, is not a non-secure mailbox's (16 R386, 15 R369). -/
def groupDenied (s : State) (m : MbxId) (g : Nat) : Option Err :=
  need (mbxSecure s m || !(groupAt s g).any (fun x => x.secure)) stWorldDenied g

def groupOk (s : State) (m : MbxId) (g : Nat) : Option Err :=
  firstErr [need (groupAt s g).isSome stBadParam 8, groupDenied s m g]

/-- The list of GROUP_DEFINE. -/
def groupIds (n : Nat) (list : Bytes) : List Nat := (List.range n).map (fun i => leAt list (2 * i) 2)

/-- The list has been read: a duplicate, or a list without the part, is refused; else the group is defined. -/
def groupSet (list : Bytes) (q : State) (r : MbxRef) (s : State) : State :=
  let g := reqN q r.id 8 1
  let stream := reqN q r.id 12 4
  let ids := groupIds (reqN q r.id 10 2) list
  if ids.dedup.length ≠ ids.length ∨ ids.contains (partId s) = false then finishErr s r { st := stBadParam, d0 := 16 }
  else if !(groupOps s g).isEmpty then finishErr s r { st := stBusy, d0 := 0x0403 }
  else
    let tag := groupTag stream ids
    let s := modLadle s (fun l => { l with
      groups := mapSet l.groups g { stream := stream, ids := ids, tag := tag, secure := mbxSecure s r.id }
      ops := l.ops.filter (fun o => o.group != g) })
    finishOk s r (leBytes 4 tag.toNat ++ zeros 4)

def execGroupDefine (m : MbxId) (list : Bytes) (s : State) : Answer :=
  onMbx m (runDma s m 0x0401 16
    (firstErr [
      fieldCheck s m [(8, reqN s m 8 1 < 64), reqZero s m 9 1, (10, 1 ≤ reqN s m 10 2 && reqN s m 10 2 ≤ 1024),
        (12, reqN s m 12 4 < 2 ^ 24)],
      groupDenied s m (reqN s m 8 1),
      need (mbxSecure s m || !streamSecure s (reqN s m 12 4)) stWorldDenied (reqN s m 12 4),
      need (groupOps s (reqN s m 8 1)).isEmpty stBusy 0x0403])
    (groupSet list))

def execGroupDelete (m : MbxId) (s : State) : Answer :=
  onMbx m (runCmd s m 0x0402 8
    (firstErr [
      fieldCheck s m [(8, reqN s m 8 1 < 64), reqZero s m 9 7],
      groupOk s m (reqN s m 8 1),
      need (groupOps s (reqN s m 8 1)).isEmpty stBusy 0x0403])
    (reply (modLadle s (fun l => { l with
      groups := mapDel l.groups (reqN s m 8 1)
      ops := l.ops.filter (fun o => o.group != reqN s m 8 1) })) m []))

/-! ### Local memory by GMA (R258) -/

def gmaRead (s : State) (a : W64) (n : Nat) : Bytes :=
  if gmaSpace a = 0 then memRead s.stackMem (gmaOffset a) n else memRead s.store (gmaOffset a) n

def gmaWrite (s : State) (a : W64) (bs : Bytes) : State :=
  if gmaSpace a = 0 then stackPut s (gmaOffset a) bs else storeWrite s (gmaOffset a / 0x100000) (gmaOffset a % 0x100000) bs

def gmaPlus (a : W64) (n : Nat) : W64 := a + BitVec.ofNat 64 n

/-- A read of a range: whether a line or a word of it is uncorrectable, and the state after (09 R205, 05 R126). -/
def gmaCheck (s : State) (a : W64) (n : Nat) : Bool × State :=
  if gmaSpace a = 0 then (linesBad s (linesOf (gmaOffset a) n), readLines s (linesOf (gmaOffset a) n))
  else storeReadCheck s (gmaOffset a / 0x100000) [(gmaOffset a % 0x100000, n)]

/-- A write there waits: the frame is a shared page (09 R221). -/
def gmaHeld (s : State) (a : W64) : Bool := gmaSpace a == 0 && sharedHeld s (gmaOffset a / frameBytes)

/-- 09 Table 09.4 over a range: every frame, or every core store, that it touches. -/
def rangeCode (s : State) (secure : Bool) (a : W64) (n : Nat) : Option Nat :=
  let off := gmaOffset a
  let unit := if gmaSpace a = 0 then frameBytes else 0x100000
  let limit := if gmaSpace a = 0 then frameCount * frameBytes else 800 * 0x100000
  if n = 0 then none
  else if gmaPart a ≠ partId s ∨ gmaHigh a ≠ 0 ∨ 2 ≤ gmaSpace a ∨ limit < off + n then some 1
  else
    ((List.range ((off + n - 1) / unit - off / unit + 1)).filterMap (fun i =>
      accessCode s .inside secure (gmaPlus a ((off / unit + i) * unit - off)) 0)).head?

/-- A refusal of SRC or DST. -/
def rangeErr (s : State) (m : MbxId) (off n : Nat) : Option Err :=
  match rangeCode s (mbxSecure s m) (BitVec.ofNat 64 (reqN s m off 8)) n with
  | none => none
  | some 3 => some { st := stWorldDenied, d0 := off }
  | some _ => some { st := stBadParam, d0 := off }

/-! ### Deliveries (R259, R263, R264) -/

abbrev segMax := 4080

def opFmt (o : LOp) : Nat := o.fmtRed % 4
def opRed (o : LOp) : Nat := o.fmtRed / 4 % 4

/-- Bytes of an element of a format. -/
def elemSize (fmt : Nat) : Nat := if fmt = 1 then 2 else 4

/-- B of R264, and the elements of a block. -/
def blockLen (n e : Nat) : Nat := ceilDiv e n
def blockElems (n e b : Nat) : Nat := Nat.min ((b + 1) * blockLen n e) e - Nat.min (b * blockLen n e) e

/-- Bytes of a delivery: phase 0, what arrives at its place; phase 1, FP32 partials. -/
def delivBytes (o : LOp) (n phase block : Nat) : Nat :=
  if phase = 1 then 4 * blockElems n o.len block
  else if o.op = 1 then elemSize (opFmt o) * blockElems n o.len block
  else o.len

def delivCount (o : LOp) (n phase block : Nat) : Nat := ceilDiv (delivBytes o n phase block) segMax

/-- Bytes of a segment of a delivery. -/
def segBytes (o : LOp) (n phase block seg : Nat) : Nat := Nat.min segMax (delivBytes o n phase block - segMax * seg)

/-- Where a phase 0 delivery lies at a member. -/
def delivPlace (o : LOp) (n block : Nat) : W64 :=
  if o.op = 1 then gmaPlus o.dst (block * blockLen n o.len * elemSize (opFmt o))
  else if o.op = 3 then gmaPlus o.dst (block * o.len)
  else o.dst

/-- Where a member sends a phase 0 delivery from. -/
def delivSource (o : LOp) (n me block : Nat) : W64 := if o.op = 0 ∧ me = o.root then o.src else delivPlace o n block

/-- The tree a phase 0 delivery takes: a multicast's targets, or every other member. -/
def delivOrder (o : LOp) (n block : Nat) : List Nat :=
  if o.op = 0 then mcastOrder o else treeOrder block (List.range n)

/-- Position of a rank for a block, and the rank at a position. -/
def redPos (n b r : Nat) : Nat := (r + n - b % n) % n
def redRank (n b p : Nat) : Nat := (p + b) % n

/-- P / 2, P / 4, ... 1, where P is the smallest power of two that is at least n. -/
def halvings (n : Nat) : List Nat := ((List.range (log2Up n)).map (fun i => 2 ^ i)).reverse

/-- The ranks whose partials a member combines for a block, in order. -/
def redSources (n b me : Nat) : List Nat :=
  let p := redPos n b me
  ((halvings n).filter (fun h => decide (p < h) && decide (p + h < n))).map (fun h => redRank n b (p + h))

/-- The rank a member sends its partial to; none at position 0. -/
def redTarget (n b me : Nat) : Option Nat :=
  let p := redPos n b me
  if p = 0 then none else some (redRank n b (p - 2 ^ Nat.log2 p))

/-! ### Operations in the state -/

def findOp (s : State) (g : Nat) (id : W32) : Option LOp := s.ladle.ops.find? (fun o => o.group == g && o.opId == id)

def modOp (s : State) (g : Nat) (id : W32) (f : LOp → LOp) : State :=
  modLadle s (fun l => { l with ops := l.ops.map (fun o => if o.group == g && o.opId == id then f o else o) })

def sameSend (phase block target : Nat) (x : Sending) : Bool := x.phase == phase && x.block == block && x.target == target
def sameRecv (phase block src : Nat) (x : Receiving) : Bool := x.phase == phase && x.block == block && x.src == src

def modSend (s : State) (g : Nat) (id : W32) (phase block target : Nat) (f : Sending → Sending) : State :=
  modOp s g id (fun o => { o with sends := o.sends.map (fun x => if sameSend phase block target x then f x else x) })

def modRecv (s : State) (g : Nat) (id : W32) (phase block src : Nat) (f : Receiving → Receiving) : State :=
  modOp s g id (fun o => { o with recvs := o.recvs.map (fun x => if sameRecv phase block src x then f x else x) })

/-- An operation leaves: what it holds is dropped. -/
def dropOp (s : State) (g : Nat) (id : W32) : State :=
  modLadle s (fun l => { l with
    ops := l.ops.filter (fun o => !(o.group == g && o.opId == id))
    heldTx := l.heldTx.filter (fun h => !(h.1 == g && h.2.1 == id)) })

/-- ST_COLL_FAILED with the failing rank and the cause (16 Table 16.7). -/
def failOp (s : State) (o : LOp) (rank cause : Nat) : State :=
  let s := dropOp s o.group o.opId
  match o.mbx with
  | some r => finishErr s r { st := stCollFailed, d0 := rank, d1 := cause }
  | none => s

/-! ### Reductions (R264) -/

/-- IEEE maximum and minimum, a NaN propagated. -/
def ladMax (a b : W32) : W32 :=
  if fIsNan a || fIsNan b then toF32 .nan else if fLt a b then b else if fLt b a then a
  else if a = 0x80000000 then b else a
def ladMin (a b : W32) : W32 :=
  if fIsNan a || fIsNan b then toF32 .nan else if fLt a b then a else if fLt b a then b
  else if a = 0x80000000 then a else b

def redOp (red : Nat) (a b : W32) : W32 := if red = 0 then fAdd a b else if red = 1 then ladMax a b else ladMin a b

/-- One element of the member's own input, widened. -/
def redInput (s : State) (o : LOp) (e : Nat) : W32 :=
  if opFmt o = 1 then widenB (BitVec.ofNat 16 (leNat (gmaRead s (gmaPlus o.src (2 * e)) 2)))
  else BitVec.ofNat 32 (leNat (gmaRead s (gmaPlus o.src (4 * e)) 4))

def recvOf (o : LOp) (phase block src : Nat) : Option Receiving := o.recvs.find? (sameRecv phase block src)

/-- Element `i` of a block as combined so far from every partner, in order. -/
def redElem (s : State) (o : LOp) (n me block i : Nat) : W32 :=
  (redSources n block me).foldl (fun a r =>
    redOp (opRed o) a (BitVec.ofNat 32 (leAt ((recvOf o 1 block r).elim [] (fun x => x.bytes)) (4 * i) 4)))
    (redInput s o (block * blockLen n o.len + i))

/-- Segments of a block that every partner has delivered. -/
def redReady (o : LOp) (n me block : Nat) : Nat :=
  (redSources n block me).foldl (fun a r => Nat.min a ((recvOf o 1 block r).elim 0 (fun x => x.next))) (delivCount o n 1 block)

/-- The result of an element in the output format. -/
def redBytes (fmt : Nat) (w : W32) : Bytes := if fmt = 1 then leBytes 2 (fpTo bf16 (fp w)) else leBytes 4 w.toNat

/-- The elements of the member's own input that a segment of a block takes: where they lie, and their bytes. -/
def redRange (o : LOp) (n block seg : Nat) : W64 × Nat :=
  let first := block * blockLen n o.len + 1020 * seg
  (gmaPlus o.src (elemSize (opFmt o) * first), elemSize (opFmt o) * Nat.min 1020 (blockElems n o.len block - 1020 * seg))

/-- Data that cannot be read fails the operation; the rank is the member's own, and the cause is one the spec does not
give (DESIGN CHOICE, log 160). -/
def failRead (s : State) (o : LOp) (me : Nat) : State := failOp (useFree s) o me (Config.freeNat s.freeNo % 2 ^ 32)

/-- Read a range; then go on, or fail the operation. -/
def readThen (s : State) (o : LOp) (me : Nat) (r : W64 × Nat) (eff : State → State) : State :=
  let c := gmaCheck s r.1 r.2
  if c.1 then failRead c.2 o me else eff c.2

/-- The result of one segment of the member's own block goes to its place. -/
def redStore (s : State) (o : LOp) (n me seg : Nat) : State :=
  readThen s o me (redRange o n me seg) fun s =>
  let first := 1020 * seg
  let cnt := Nat.min 1020 (blockElems n o.len me - first)
  let base := if o.op = 1 then delivPlace o n me else o.dst
  gmaWrite s (gmaPlus base (elemSize (opFmt o) * first))
    ((List.range cnt).map (fun i => redBytes (opFmt o) (redElem s o n me me (first + i)))).flatten

/-! ### Segments (R259, R261) -/

/-- Segments of a delivery that the member has, to send on. -/
def sendAvail (o : LOp) (n me : Nat) (x : Sending) : Nat :=
  if x.phase = 1 then redReady o n me x.block
  else if o.op = 0 then
    (if me = o.root then x.count else (o.recvs.find? (fun r => r.phase == 0)).elim 0 (fun r => r.next))
  else if x.block = me then
    (if o.op = 1 then
      (if redReady o n me me = delivCount o n 1 me then x.count
       else elemSize (opFmt o) * (1020 * redReady o n me me) / segMax)
     else x.count)
  else (o.recvs.find? (fun r => r.phase == 0 && r.block == x.block)).elim 0 (fun r => r.next)

/-- What the data of a segment is read from. -/
def segRange (o : LOp) (n me phase block seg : Nat) : W64 × Nat :=
  if phase = 1 then redRange o n block seg
  else (gmaPlus (delivSource o n me block) (segMax * seg), segBytes o n 0 block seg)

/-- The data of a segment. -/
def segData (s : State) (o : LOp) (n me phase block seg : Nat) : Bytes :=
  if phase = 1 then
    ((List.range (segBytes o n 1 block seg / 4)).map (fun i => leBytes 4 (redElem s o n me block (1020 * seg + i)).toNat)).flatten
  else gmaRead s (gmaPlus (delivSource o n me block) (segMax * seg)) (segBytes o n 0 block seg)

/-- The Ladle header (11 Table 11.2). -/
def ladleHdr (kind op phase fmtRed : Nat) (tag id : W32) (count : Nat) : Bytes :=
  leBytes 1 kind ++ leBytes 1 (op + 16 * phase) ++ leBytes 1 fmtRed ++ zeros 1 ++ leBytes 4 tag.toNat ++ leBytes 4 id.toNat ++ leBytes 4 count

/-- The type and the VC of an operation's segments (10 Table 10.5). -/
def segType (op : Nat) : Nat := if op = 0 then ifpMcastT else ifpCollT
def segVc (op : Nat) : Nat := if op = 0 then 3 else 2

/-- The IFP SEQ of a segment. -/
def segSeq (op block seg : Nat) : Nat := if op = 0 then seg else block * 2 ^ 20 + seg

/-- A Ladle packet of an operation to a rank. -/
def ladleFields (o : LOp) (g : Group) (kind phase block seg count rank : Nat) (data : Bytes) : IfpFields :=
  { type := segType o.op, vc := segVc o.op, dest := g.ids.getD rank 0, stream := g.stream, seq := segSeq o.op block seg
    payload := ladleHdr kind o.op phase o.fmtRed g.tag o.opId count ++ data }

/-- A segment as it is retained (R261). -/
def keptSeg (o : LOp) (phase block seg : Nat) : Option Bytes :=
  (o.kept.find? (fun k => k.1 == phase && k.2.1 == block && k.2.2.1 == seg)).map (fun k => k.2.2.2)

/-- A retained segment goes to a target. -/
def sendSeg (s : State) (o : LOp) (g : Group) (x : Sending) (seg : Nat) : State :=
  match keptSeg o x.phase x.block seg with
  | some d => ifpPost s (ladleFields o g 1 x.phase x.block seg x.count x.target d)
  | none => s

/-- The first transmission of a segment to a target: where no other target has had it, it is read, and retained. -/
def sendFirst (s : State) (o : LOp) (g : Group) (x : Sending) (seg : Nat) : State :=
  let n := g.ids.length
  let me := myRank s g
  if (keptSeg o x.phase x.block seg).isSome then sendSeg s o g x seg
  else readThen s o me (segRange o n me x.phase x.block seg) fun s =>
    let k := (x.phase, x.block, seg, segData s o n me x.phase x.block seg)
    sendSeg (modOp s o.group o.opId (fun o => { o with kept := o.kept ++ [k] })) { o with kept := o.kept ++ [k] } g x seg

def sendProbe (s : State) (o : LOp) (g : Group) (x : Sending) : State :=
  ifpPost s (ladleFields o g 5 x.phase x.block 0 0 x.target [])

/-- Segments of a delivery retained: from the oldest that a live target has not acknowledged to the newest sent. -/
def delivSends (o : LOp) (phase block : Nat) : List Sending := o.sends.filter (fun x => x.phase == phase && x.block == block)
def oldestOf (o : LOp) (phase block : Nat) : Nat :=
  match ((delivSends o phase block).filter (fun x => !x.dead)).map (fun x => x.acked) with
  | [] => 0
  | a :: l => l.foldl Nat.min a
def newestOf (o : LOp) (phase block : Nat) : Nat := ((delivSends o phase block).map (fun x => x.sent)).foldl Nat.max 0
def retainedOf (o : LOp) : Nat :=
  (((o.sends.map (fun x => (x.phase, x.block))).dedup).map (fun d => newestOf o d.1 d.2 - oldestOf o d.1 d.2)).sum

/-- The 64 MiB retention object holds 16,384 segments. -/
def retainRoom (s : State) : Bool := decide (((s.ladle.ops.map retainedOf).sum) < 16384)

/-- `LD_CTRL`.WINDOW, 0 taken as 1. -/
def window (s : State) : Nat := Nat.max 1 (rdF s (ldReg 0) 7 0)

/-- The next segment of a delivery to a target falls due: the member has it, the window allows it, the target is not backed
off and has a path. -/
def segDue (s : State) (o : LOp) (g : Group) (x : Sending) : Bool :=
  !x.dead && !x.probing && !x.noPath && x.backoff == 0 && decide (x.due < x.count) &&
  decide (x.due < sendAvail o g.ids.length (myRank s g) x) && decide (x.due ≤ oldestOf o x.phase x.block + window s) &&
  (flowPort s (g.ids.getD x.target 0) g.stream).isSome

/-- A segment that falls due is sent, or held for retention space. -/
def sendNext (s : State) (o : LOp) (g : Group) (x : Sending) : State :=
  let kept := decide (x.due < newestOf o x.phase x.block)
  if s.ladle.heldTx.isEmpty && (kept || retainRoom s) then
    modSend (sendFirst s o g x x.due) o.group o.opId x.phase x.block x.target (fun y => { y with due := y.due + 1, sent := y.sent + 1 })
  else
    let s := incHold s (ldReg 0x34) 32 1
    let s := modSend s o.group o.opId x.phase x.block x.target (fun y => { y with due := y.due + 1 })
    modLadle s (fun l => { l with heldTx := l.heldTx ++ [(o.group, o.opId, x.phase, x.block, x.target, x.due)] })

/-- Send what falls due on one delivery to one target. -/
def pumpSend : Nat → Nat → W32 → Sending → State → State
  | 0, _, _, _, s => s
  | k + 1, gi, id, x, s =>
    match groupAt s gi, findOp s gi id with
    | some g, some o =>
      match o.sends.find? (sameSend x.phase x.block x.target) with
      | some y => if segDue s o g y then pumpSend k gi id x (sendNext s o g y) else s
      | none => s
    | _, _ => s

def pumpOp (s : State) (gi : Nat) (id : W32) : State :=
  match findOp s gi id with
  | some o => o.sends.foldl (fun s x => pumpSend (x.count - x.due) gi id x s) s
  | none => s

/-! ### Acknowledgement (R260) -/

/-- The segments a receiver may acknowledge: in a MULTICAST, those that its own targets have acknowledged as well. -/
def ackable (o : LOp) (r : Receiving) : Nat :=
  if o.op = 0 ∧ (delivSends o 0 r.block).any (fun x => !x.dead) then Nat.min r.next (oldestOf o 0 r.block) else r.next

def sendAck (s : State) (o : LOp) (g : Group) (r : Receiving) : State :=
  let a := ackable o r
  modRecv (ifpPost s (ladleFields o g 2 r.phase r.block 0 a r.src [])) o.group o.opId r.phase r.block r.src (fun x => { x with acked := a })

/-- An ACK after every 8 accepted segments, and when all are. -/
def ackNow (s : State) (o : LOp) (g : Group) (r : Receiving) : State :=
  let a := ackable o r
  if r.acked < a ∧ (8 ≤ a - r.acked ∨ a = r.count) then sendAck s o g r else s

def acksOf (s : State) (gi : Nat) (id : W32) : State :=
  match groupAt s gi, findOp s gi id with
  | some g, some o => o.recvs.foldl (fun s r => ackNow s o g r) s
  | _, _ => s

/-! ### Completion -/

def sendOver (x : Sending) : Bool := x.dead || (!x.probing && x.acked == x.count)
def recvOver (r : Receiving) : Bool := r.next == r.count && r.acked == r.count

/-- ST_PARTIAL_DELIVERY lists the ranks not delivered to. -/
def partialBytes (l : List Nat) : Bytes := leBytes 2 l.length ++ zeros 6 ++ ((l.take 232).map (leBytes 2)).flatten

/-- An operation whose deliveries are all over completes. -/
def settle (s : State) (gi : Nat) (id : W32) : State :=
  match groupAt s gi, findOp s gi id with
  | some g, some o =>
    if o.done || o.op == 4 || !o.sends.all sendOver || !o.recvs.all recvOver then s
    else
      let s1 := modOp s gi id (fun o => { o with done := true, sends := [], kept := [], recvs := o.recvs.map (fun r => { r with bytes := [] }) })
      match o.mbx with
      | some r =>
        if o.op = 0 ∧ myRank s g = o.root ∧ o.dead ≠ [] then finish s1 r stPartialDelivery (partialBytes o.dead)
        else finishOk s1 r []
      | none => s1
  | _, _ => s

/-- Segments that every live target has acknowledged are retained no more. -/
def freeKept (s : State) (gi : Nat) (id : W32) : State :=
  modOp s gi id (fun o => { o with kept := o.kept.filter (fun k => decide (oldestOf o k.1 k.2.1 ≤ k.2.2.1)) })

/-- After any change: send what falls due, acknowledge, complete. -/
def advance (s : State) (gi : Nat) (id : W32) : State := settle (acksOf (freeKept (pumpOp s gi id) gi id) gi id) gi id

/-! ### LADLE_POST (16 Table 16.7) -/

/-- The ranks named in TARGETS; all zero names every member. -/
def postTargets (s : State) (m : MbxId) (n : Nat) : List Nat :=
  let l := (List.range 1024).filter (fun r => (reqByte s m (56 + r / 8)).toNat / 2 ^ (r % 8) % 2 == 1)
  if l.isEmpty then List.range n else l

/-- The length of SRC and of DST at this member. -/
def postSrcLen (s : State) (m : MbxId) (n me : Nat) : Nat :=
  let len := reqN s m 40 8
  let fmt := reqN s m 10 1 % 4
  match reqN s m 9 1 with
  | 0 => if me = reqN s m 12 2 then len else 0
  | 1 => len * elemSize fmt
  | 2 => len * elemSize fmt
  | 3 => if n = 0 then 0 else len
  | _ => 0

def postDstLen (s : State) (m : MbxId) (n me : Nat) : Nat :=
  let len := reqN s m 40 8
  let fmt := reqN s m 10 1 % 4
  match reqN s m 9 1 with
  | 0 => if me ≠ reqN s m 12 2 ∧ (postTargets s m n).contains me = true then len else 0
  | 1 => len * elemSize fmt
  | 2 => blockElems n len me * elemSize fmt
  | 3 => n * len
  | _ => 0

/-- FMT and RED: of the three formats and the three reductions; a reduction has elements. -/
def fmtOk (s : State) (m : MbxId) : Bool :=
  let b := reqN s m 10 1
  b < 16 && b % 4 ≤ 2 && b / 4 ≤ 2 && (b % 4 != 0 || !(reqN s m 9 1 == 1 || reqN s m 9 1 == 2))

def postChk (s : State) (m : MbxId) : Option Err :=
  let gi := reqN s m 8 1
  let n := (groupAt s gi).elim 0 (fun g => g.ids.length)
  let me := (groupAt s gi).elim 0 (fun g => myRank s g)
  firstErr [
    fieldCheck s m [(8, gi < 64), (9, reqN s m 9 1 ≤ 4), (10, fmtOk s m), reqZero s m 11 1,
      (12, reqN s m 9 1 != 0 || (groupAt s gi).isNone || decide (reqN s m 12 2 < n)), reqZero s m 14 2, reqZero s m 20 4,
      reqZero s m 48 8, (56, (groupAt s gi).isNone || (postTargets s m n).all (fun r => decide (r < n)))],
    groupOk s m gi,
    need ((groupAt s gi).any (fun g => g.nextOp.toNat == reqN s m 16 4)) stBadParam 16,
    need (decide ((groupOps s gi).length < 4) && decide (opsInFlight s < 64)) stBusy 0x0403,
    rangeErr s m 24 (postSrcLen s m n me), rangeErr s m 32 (postDstLen s m n me)]

/-- A delivery to a target. -/
def newSend (o : LOp) (n phase block target : Nat) : Sending :=
  { phase := phase, block := block, target := target, count := delivCount o n phase block }

def newRecv (o : LOp) (n phase block src : Nat) : Receiving :=
  { phase := phase, block := block, src := src, count := delivCount o n phase block }

/-- What a member sends and receives of the phase 0 delivery of a block. -/
def treeParts (f : Nat) (o : LOp) (n me block : Nat) : List Sending × List Receiving :=
  let order := delivOrder o n block
  ((childRanks f order me).map (fun r => newSend o n 0 block r),
   if order.contains me ∧ order.headD 0 ≠ me then [newRecv o n 0 block (parentRank f order me)] else [])

/-- What a member sends and receives of the reduction of a block. -/
def redParts (o : LOp) (n me block : Nat) : List Sending × List Receiving :=
  ((redTarget n block me).toList.map (fun r => newSend o n 1 block r), (redSources n block me).map (fun r => newRecv o n 1 block r))

/-- Every delivery of an operation at a member. -/
def opParts (f : Nat) (o : LOp) (n me : Nat) : List Sending × List Receiving :=
  let reds := if o.op = 1 ∨ o.op = 2 then (List.range n).map (redParts o n me) else []
  let trees := if o.op = 0 then [treeParts f o n me 0] else if o.op = 1 ∨ o.op = 3 then (List.range n).map (treeParts f o n me) else []
  ((reds ++ trees).map Prod.fst |>.flatten, (reds ++ trees).map Prod.snd |>.flatten)

/-- The operation as posted. -/
def newOp (s : State) (m : MbxId) : LOp :=
  let gi := reqN s m 8 1
  { group := gi, opId := BitVec.ofNat 32 (reqN s m 16 4), op := reqN s m 9 1, fmtRed := reqN s m 10 1, root := reqN s m 12 2
    src := BitVec.ofNat 64 (reqN s m 24 8), dst := BitVec.ofNat 64 (reqN s m 32 8), len := reqN s m 40 8
    targets := postTargets s m ((groupAt s gi).elim 0 (fun g => g.ids.length)), mbx := some (mref s m) }

/-- An operation joins those in flight, and the group's next OP_ID follows it; of one that had its OP_ID before nothing is
kept. -/
def addOp (s : State) (o : LOp) : State :=
  modLadle s (fun l => { l with
    ops := l.ops.filter (fun x => !(x.group == o.group && x.opId == o.opId)) ++ [o]
    groups := match mapFind l.groups o.group with
      | some g => mapSet l.groups o.group { g with nextOp := o.opId + 1 }
      | none => l.groups })

/-- What is in place at once: the member's own part of a gather, and a reduction of one member. -/
def ownPart (s : State) (o : LOp) (n me : Nat) : State :=
  if o.op = 3 then readThen s o me (o.src, o.len) (fun s => gmaWrite s (delivPlace o n me) (gmaRead s o.src o.len))
  else if (o.op = 1 ∨ o.op = 2) ∧ n = 1 then (List.range (delivCount o n 1 me)).foldl (fun s i => redStore s o n me i) s
  else s

def postOp (s : State) (m : MbxId) : State :=
  let o0 := newOp s m
  match groupAt s o0.group with
  | none => s
  | some g =>
    let n := g.ids.length
    let me := myRank s g
    let parts := opParts (fanout s) o0 n me
    let o := { o0 with sends := parts.1, recvs := parts.2 }
    advance (ownPart (addOp (accept s m) o) o n me) o.group o.opId

/-- The row a posted operation belongs to. -/
def ladlePost (m : MbxId) (op : Nat) (eff : State) (s : State) : State :=
  if reqN s m 9 1 = op ∨ (op = 0 ∧ 4 < reqN s m 9 1) then runCmd s m 0x0403 176 (postChk s m) eff else s

def execMulticast (m : MbxId) (s : State) : Answer := onMbx m (ladlePost m 0 (postOp s m) s)
def execAllReduce (m : MbxId) (s : State) : Answer := onMbx m (ladlePost m 1 (postOp s m) s)
def execReduceScatter (m : MbxId) (s : State) : Answer := onMbx m (ladlePost m 2 (postOp s m) s)
def execAllGather (m : MbxId) (s : State) : Answer := onMbx m (ladlePost m 3 (postOp s m) s)

/-! ### LADLE_FIRST_TRANSMISSION (R261) -/

/-- A held transmission may go out: its target lives, is not backed off and has a path, and the object has room. -/
def txReady (s : State) (h : Nat × W32 × Nat × Nat × Nat × Nat) : Bool :=
  match groupAt s h.1, findOp s h.1 h.2.1 with
  | some g, some o =>
    (o.sends.find? (sameSend h.2.2.1 h.2.2.2.1 h.2.2.2.2.1)).any (fun x =>
      !x.dead && x.backoff == 0 && !x.noPath && (flowPort s (g.ids.getD x.target 0) g.stream).isSome &&
      (decide (x.sent < newestOf o x.phase x.block) || retainRoom s))
  | _, _ => false

/-- The first held transmission that may go out is sent. -/
def firstTx (s : State) : State :=
  match s.ladle.heldTx.find? (txReady s) with
  | none => s
  | some h =>
    match groupAt s h.1, findOp s h.1 h.2.1 with
    | some g, some o =>
      match o.sends.find? (sameSend h.2.2.1 h.2.2.2.1 h.2.2.2.2.1) with
      | some x =>
        let s := modLadle s (fun l => { l with heldTx := l.heldTx.erase h })
        modSend (sendFirst s o g x h.2.2.2.2.2) h.1 h.2.1 x.phase x.block x.target (fun y => { y with sent := y.sent + 1 })
      | none => s
    | _, _ => s

def execLadleFirstTransmission (s : State) : Answer := .next (firstTx s)

/-! ### DATA (R260, R262, R266) -/

def lKind (p : IfpPacket) : Nat := leAt p.payload 0 1
def lOpNo (p : IfpPacket) : Nat := leAt p.payload 1 1 % 16
def lPhase (p : IfpPacket) : Nat := leAt p.payload 1 1 / 16
def lFmt (p : IfpPacket) : Nat := leAt p.payload 2 1
def lTag (p : IfpPacket) : W32 := BitVec.ofNat 32 (leAt p.payload 4 4)
def lOpId (p : IfpPacket) : W32 := BitVec.ofNat 32 (leAt p.payload 8 4)
def lCount (p : IfpPacket) : Nat := leAt p.payload 12 4
def lBlock (p : IfpPacket) : Nat := if hType p = ifpMcastT then 0 else hSeq p / 2 ^ 20 % 1024
def lSeg (p : IfpPacket) : Nat := if hType p = ifpMcastT then hSeq p else hSeq p % 2 ^ 20

/-- A Ladle packet of a KIND comes in. -/
def ladleIn (s : State) (port : Nat) (p : IfpPacket) (kind : Nat) (eff : State → State) : State :=
  ifpReceive s port p [ifpMcastT, ifpCollT] id (fun s => if lKind p = kind ∧ 16 ≤ p.payload.length then eff s else s)

/-- An answer to a Ladle packet, from what the packet says of itself. -/
def ladleAnswer (s : State) (p : IfpPacket) (kind count : Nat) : State :=
  ifpPost s { type := hType p, vc := hVc p, dest := hSrc p, stream := hStream p, seq := if hType p = ifpMcastT then 0 else lBlock p * 2 ^ 20
              payload := ladleHdr kind (lOpNo p) (lPhase p) (lFmt p) (lTag p) (lOpId p) count }

/-- The posted operation a packet belongs to: of the group with its stream and tag, with its OP_ID. A tag that no group
here has on the stream is another definition of one that is here: an operation in flight with that OP_ID (R262). -/
def opFor (s : State) (p : IfpPacket) : Option (Group × LOp) :=
  let c := s.ladle.ops.filterMap (fun o =>
    match groupAt s o.group with
    | some g => if g.stream == hStream p && o.opId == lOpId p then some (g, o) else none
    | none => none)
  if s.ladle.groups.any (fun x => x.2.tag == lTag p && x.2.stream == hStream p) then c.find? (fun x => x.1.tag == lTag p)
  else c.find? (fun x => !x.2.done)

/-- NOBUF, with NEXT. -/
def sendNobuf (s : State) (p : IfpPacket) (next : Nat) : State := ladleAnswer (incHold s (ldReg 0x18) 32 1) p 3 next

/-- R262: the reason a segment is rejected for, in the order tag, operation or format, count or length. -/
def rejectReason (g : Group) (o : LOp) (p : IfpPacket) : Option Nat :=
  let n := g.ids.length
  if lTag p ≠ g.tag then some 1
  else if lOpNo p ≠ o.op ∨ lFmt p ≠ o.fmtRed then some 3
  else if lCount p ≠ delivCount o n (lPhase p) (lBlock p) ∨ p.payload.length ≠ 16 + segBytes o n (lPhase p) (lBlock p) (lSeg p) then some 2
  else none

/-- Partial segments received and not yet combined. -/
def stagedSegs (s : State) : Nat :=
  (s.ladle.ops.map (fun o =>
    match groupAt s o.group with
    | some g => ((o.recvs.filter (fun r => r.phase == 1)).map (fun r => r.next - redReady o g.ids.length (myRank s g) r.block)).sum
    | none => 0)).sum

/-- The segment expected next is accepted: written, or combined with what has come before. -/
def acceptSeg (s : State) (g : Group) (o : LOp) (r : Receiving) (data : Bytes) : State :=
  let n := g.ids.length
  let me := myRank s g
  let s := incWrap s (ldReg 0x10) 1
  if r.phase = 0 then
    let s := gmaWrite s (gmaPlus (delivPlace o n r.block) (segMax * r.next)) data
    advance (modRecv s o.group o.opId 0 r.block r.src (fun x => { x with next := x.next + 1 })) o.group o.opId
  else
    let before := redReady o n me r.block
    let s := modRecv s o.group o.opId 1 r.block r.src (fun x => { x with next := x.next + 1, bytes := x.bytes ++ data })
    let s := match findOp s o.group o.opId with
      | some o2 => if r.block = me ∧ before < redReady o2 n me r.block then redStore s o2 n me before else s
      | none => s
    advance s o.group o.opId

/-- Accepting it leaves at most 512 segments staged. -/
def stageRoom (s : State) (g : Group) (o : LOp) (r : Receiving) : Bool :=
  let n := g.ids.length
  let me := myRank s g
  let o2 := { o with recvs := o.recvs.map (fun x => if sameRecv r.phase r.block r.src x then { x with next := x.next + 1 } else x) }
  r.phase == 0 || decide (stagedSegs s < 512) || decide (redReady o n me r.block < redReady o2 n me r.block)

/-- A multicast segment from a part outside an instance into one of the instance's own objects (14 Table 14.4). -/
def outsideInto (s : State) (src : Nat) (a : W64) : Option (Nat × Instance) :=
  if gmaSpace a ≠ 0 then none
  else
    match (s.pot.objs.filter (fun x => decide (1 ≤ objClass x.1) && decide (objClass x.1 ≤ 4) &&
        x.2.pages.any (fun p => p.remote.isNone && p.frame == gmaOffset a / frameBytes))).head? with
    | none => none
    | some x =>
      match instOf s x.2.inst with
      | some i => if ((groupAt s i.group).elim [] (fun g => g.ids)).contains src then none else some (x.2.inst, i)
      | none => none

/-- FABRIC_IN: header and payload. -/
def recordFabricIn (s : State) (src : Nat) (a : W64) (p : IfpPacket) : State :=
  match outsideInto s src a with
  | some (slot, i) => recordAny s slot 4 i.step (slice p.hdr 0 32 ++ p.payload)
  | none => s

/-- During replay such packets are answered with code 0x09 (14 R355). -/
def replayRefuses (s : State) (src : Nat) (a : W64) : Bool := (outsideInto s src a).any (fun x => x.2.replay.isSome)

/-- READ_RESP to a packet: the status in SPEC, the data (10 Table 10.5). -/
def ifpResp (s : State) (p : IfpPacket) (status : Nat) (data : Bytes) : State :=
  ifpPost s { type := ifpRespT, vc := 1, dest := hSrc p, stream := hStream p, tag := hTag p, spec := status, payload := data }

def dataSeg (s : State) (p : IfpPacket) : State :=
  match opFor s p with
  | none => sendNobuf s p 0
  | some (g, o) =>
    match rejectReason g o p with
    | some k => ladleAnswer (incHold s (ldReg 0x24) 16 1) p 4 k
    | none =>
      match recvOf o (lPhase p) (lBlock p) (g.ids.idxOf (hSrc p)) with
      | none => sendNobuf s p 0
      | some r =>
        if lSeg p = r.next then
          let a := gmaPlus (delivPlace o g.ids.length r.block) (segMax * r.next)
          if !stageRoom s g o r || (r.phase == 0 && gmaHeld s a) then sendNobuf s p r.next
          else if hType p = ifpMcastT ∧ replayRefuses s (hSrc p) a = true then ifpResp s p 9 []
          else
            let s := if hType p = ifpMcastT then recordFabricIn s (hSrc p) a p else s
            acceptSeg s g o r (p.payload.drop 16)
        else sendAck (if lSeg p < r.next then incHold s (ldReg 0x14) 32 1 else s) o g r

def execData (port : Nat) (pkt : IfpPacket) (s : State) : Answer :=
  onUnit (decide (port < 18)) (ladleIn s port pkt 1 (fun s => dataSeg s pkt))

/-! ### ACK, ACK_HOLD_EXPIRY, NOBUF, LADLE_RETRY (R260, R261, R267) -/

/-- The sending a control packet is about: of an operation in flight here, to the packet's source. -/
def sendFor (s : State) (p : IfpPacket) : Option (Group × LOp × Sending) :=
  match opFor s p with
  | some (g, o) =>
    if o.done || g.tag != lTag p then none
    else match o.sends.find? (sameSend (lPhase p) (lBlock p) (g.ids.idxOf (hSrc p))) with
      | some x => if x.dead then none else some (g, o, x)
      | none => none
  | none => none

/-- A cumulative ACK frees what it covers and ends the backoff; the answer to a PROBE says where to go on. -/
def ackSend (next : Nat) (x : Sending) : Sending :=
  let a := Nat.min next x.count
  if x.probing then { x with probing := false, acked := Nat.max a x.acked, due := a, sent := a, backoff := 0, since := none }
  else if x.acked < Nat.min a x.sent then { x with acked := Nat.min a x.sent, backoff := 0, since := none }
  else x

def ackIn (s : State) (p : IfpPacket) : State :=
  match sendFor s p with
  | some (_, o, x) => advance (modSend s o.group o.opId x.phase x.block x.target (ackSend (lCount p))) o.group o.opId
  | none => s

def execAck (port : Nat) (pkt : IfpPacket) (s : State) : Answer :=
  onUnit (decide (port < 18)) (ladleIn s port pkt 2 (fun s => ackIn s pkt))

/-- 2 µs after an acceptance not yet acknowledged. -/
def ackHold (s : State) (gi : Nat) (id : W32) (phase block src : Nat) : State :=
  match groupAt s gi, findOp s gi id with
  | some g, some o =>
    match recvOf o phase block src with
    | some r => if r.acked < ackable o r then settle (sendAck s o g r) gi id else s
    | none => s
  | _, _ => s

def execAckHoldExpiry (group opId phase block src : Nat) (s : State) : Answer :=
  .next (ackHold s group (BitVec.ofNat 32 opId) phase block src)

/-- A NOBUF, or no answer within ACK_TMO: the target is retried after a backoff of 1 µs, doubled to at most 64 µs. -/
def backOff (now : W64) (x : Sending) : Sending :=
  { x with backoff := if x.backoff = 0 then 1 else Nat.min 64 (2 * x.backoff), since := some (x.since.getD now) }

def nobufIn (s : State) (p : IfpPacket) : State :=
  match sendFor s p with
  | some (_, o, x) => modSend s o.group o.opId x.phase x.block x.target (backOff s.rackTime)
  | none => s

def execNobuf (port : Nat) (pkt : IfpPacket) (s : State) : Answer :=
  onUnit (decide (port < 18)) (ladleIn s port pkt 3 (fun s => nobufIn s pkt))

/-- A sending with something unanswered. -/
def unanswered (x : Sending) : Bool := !x.dead && (x.probing || decide (x.acked < x.sent))

/-- A backoff ends: the oldest unacknowledged segment, or the PROBE, is sent again. -/
def retrySend (s : State) (gi : Nat) (id : W32) (phase block target : Nat) (timedOut : Bool) : State :=
  match groupAt s gi, findOp s gi id with
  | some g, some o =>
    match o.sends.find? (sameSend phase block target) with
    | some x =>
      if !unanswered x then s
      else if timedOut then modSend s gi id phase block target (backOff s.rackTime)
      else if x.backoff = 0 then s
      else
        let s := incHold s (ldReg 0x1C) 32 1
        if x.probing then sendProbe s o g x else sendSeg s o g x x.acked
    | none => s
  | _, _ => s

def execLadleRetry (group opId phase block target : Nat) (timedOut : Bool) (s : State) : Answer :=
  .next (retrySend s group (BitVec.ofNat 32 opId) phase block target timedOut)

/-! ### REJECT, TARGET_UNRESPONSIVE, PROBE, OP_TMO_EXPIRY (R262, R268) -/

def rejectIn (s : State) (p : IfpPacket) : State :=
  match opFor s p with
  | some (g, o) =>
    match o.sends.find? (sameSend (lPhase p) (lBlock p) (g.ids.idxOf (hSrc p))) with
    | some _ => if o.done then s else failOp s o (g.ids.idxOf (hSrc p)) (lCount p)
    | none => s
  | none => s

def execReject (port : Nat) (pkt : IfpPacket) (s : State) : Answer :=
  onUnit (decide (port < 18)) (ladleIn s port pkt 4 (fun s => rejectIn s pkt))

/-- The direct targets of an unresponsive part are adopted and PROBEd; they lack nothing that it had acknowledged. -/
def adoptOne (gi : Nat) (id : W32) (block acked : Nat) (s : State) (child : Nat) : State :=
  match groupAt s gi, findOp s gi id with
  | some g, some o =>
    let x := { newSend o g.ids.length 0 block child with probing := true, acked := acked }
    sendProbe (modOp s gi id (fun o => { o with sends := o.sends ++ [x] })) o g x
  | _, _ => s

def adopt (s : State) (g : Group) (o : LOp) (block target acked : Nat) : State :=
  let order := delivOrder o g.ids.length block
  (childRanks (fanout s) order target).foldl (adoptOne o.group o.opId block acked) s

/-- A multicast goes on without the target; any other operation fails. -/
def unresponsive (s : State) (gi : Nat) (id : W32) (phase block target : Nat) : State :=
  match groupAt s gi, findOp s gi id with
  | some g, some o =>
    match o.sends.find? (sameSend phase block target) with
    | some x =>
      if !unanswered x || x.since.isNone then s
      else
        let s := raiseSuspicion (incHold s (ldReg 0x20) 16 1) 1 (g.ids.getD target 0) 0 1
        if o.op = 0 then
          let adopts := rbit s (ldReg 0) 13
          let lost := givenUp s (delivOrder o g.ids.length block) target
          let s := modOp s gi id (fun o => { o with dead := o.dead ++ lost.filter (fun r => !o.dead.contains r) })
          let s := modSend s gi id phase block target (fun y => { y with dead := true, backoff := 0 })
          let s := modLadle s (fun l => { l with
            heldTx := l.heldTx.filter (fun h => !(h.1 == gi && h.2.1 == id && h.2.2.2.2.1 == target)) })
          advance (if adopts then adopt s g o block target x.acked else s) gi id
        else failOp s o target 4
    | none => s
  | _, _ => s

def execTargetUnresponsive (group opId phase block target : Nat) (s : State) : Answer :=
  .next (unresponsive s group (BitVec.ofNat 32 opId) phase block target)

/-- A PROBE makes its sender the delivery's source, and is answered with an ACK. -/
def probeIn (s : State) (p : IfpPacket) : State :=
  match opFor s p with
  | none => sendNobuf s p 0
  | some (g, o) =>
    let src := g.ids.idxOf (hSrc p)
    match o.recvs.find? (fun r => r.phase == lPhase p && r.block == lBlock p) with
    | none => sendNobuf s p 0
    | some r =>
      let s := modRecv s o.group o.opId r.phase r.block r.src (fun x => { x with src := src })
      settle (sendAck s o g { r with src := src }) o.group o.opId

def execProbe (port : Nat) (pkt : IfpPacket) (s : State) : Answer :=
  onUnit (decide (port < 18)) (ladleIn s port pkt 5 (fun s => probeIn s pkt))

/-! ### Barriers (R269, R271) -/

/-- The rack of a part. -/
def rackOf (id : Nat) : Nat := id / 64

/-- The ranks of a member's rack, and its leader: the lowest. -/
def rackRanks (g : Group) (r : Nat) : List Nat :=
  (List.range g.ids.length).filter (fun q => rackOf (g.ids.getD q 0) == rackOf (g.ids.getD r 0))
def leaderOf (g : Group) (r : Nat) : Nat := (rackRanks g r).headD 0

/-- The leaders of all racks. -/
def leaders (g : Group) : List Nat := ((List.range g.ids.length).map (leaderOf g)).dedup

/-- A BARRIER packet: 1 ARRIVE, 2 RELEASE, 3 FAIL. -/
def sendBarrier (s : State) (g : Group) (id : W32) (kind count rank : Nat) : State :=
  ifpPost s { type := ifpBarrierT, vc := 0, dest := g.ids.getD rank 0, stream := g.stream
              payload := leBytes 1 kind ++ zeros 1 ++ leBytes 2 count ++ leBytes 4 g.tag.toNat ++ leBytes 4 id.toNat ++ zeros 4 }

/-- The members below one: a leader's rack, and at the root every leader. -/
def barBelow (g : Group) (me : Nat) : List Nat :=
  let rack := if leaderOf g me = me then (rackRanks g me).filter (fun r => r != me) else []
  let tops := if me = leaderOf g 0 then (leaders g).filter (fun r => r != me) else []
  tops ++ rack

def sendBelow (s : State) (g : Group) (id : W32) (kind : Nat) : State :=
  (barBelow g (myRank s g)).foldl (fun s r => sendBarrier s g id kind 0 r) s

/-- The cores that hold a placed tile and are of a world. -/
def placedCores (s : State) (secure : Bool) : List Nat :=
  (s.tiles.filterMap (fun t => if t.2.owner.isSome && siteSecure s (t.1 / 32) == secure then some (t.1 / 32) else none)).dedup

/-- A member's Ladle signals its cores on VC0: one flit to each core in service with a placed tile in the group's world,
GROUP_TAG and OP_ID in its class fields (DESIGN CHOICE, log 158). -/
def signalCores (s : State) (g : Group) (id : W32) : State :=
  meshMulticast s kettleSrc 0 g.secure (leBytes 4 g.tag.toNat ++ leBytes 4 id.toNat ++ zeros 32)
    (((placedCores s g.secure).filter (fun n => !coreAway s n)).map (fun n => (n, [])))

/-- The barrier completes at a member: its cores are signalled, the completion is posted. -/
def barDone (s : State) (o : LOp) (ok : Bool) : State :=
  let s := modOp s o.group o.opId (fun x => { x with done := true })
  let s := match groupAt s o.group with
    | some g => if ok then signalCores s g o.opId else s
    | none => s
  match o.mbx with
  | some r => if ok then signal (finishOk s r []) 0 68 else finishErr s r { st := stBarrierTimeout, d0 := o.opId.toNat }
  | none => s

/-- `LD_BAR_MAX`: from the root's first ARRIVE to its release, in units of 10 ns. -/
def barMax (s : State) (o : LOp) : State :=
  let t := (o.firstAt.elim 0 (fun t => (s.rackTime - t).toNat)) * 64 / 100
  wr s (ldReg 0x30) (BitVec.ofNat 32 (Nat.max (rd s (ldReg 0x30)).toNat (Nat.min t 0xFFFF)))

/-- Whether a leader's rack, and the root's leaders, have all arrived. -/
def rackIn (g : Group) (o : LOp) (me : Nat) : Bool := (rackRanks g me).all (fun r => o.arrived.contains r)
def rootIn (g : Group) (o : LOp) (me : Nat) : Bool := rackIn g o me && ((leaders g).filter (fun r => r != me)).all (fun r => o.leadersIn.contains r)

/-- After an arrival: the root releases; another leader sends its one ARRIVE when its rack has just filled. -/
def barCheck (s : State) (g : Group) (o : LOp) (was : Bool) : State :=
  let me := myRank s g
  if me = leaderOf g 0 then
    if rootIn g o me then barDone (barMax (sendBelow s g o.opId 2) o) o true else s
  else if leaderOf g me = me ∧ rackIn g o me = true ∧ was = false then sendBarrier s g o.opId 1 (rackRanks g me).length (leaderOf g 0)
  else s

/-- An arrival of a rank is counted once. -/
def barArrive (s : State) (g : Group) (o : LOp) (r : Nat) : State :=
  let me := myRank s g
  let top := me = leaderOf g 0 ∧ leaderOf g r = r ∧ rackOf (g.ids.getD r 0) ≠ rackOf (g.ids.getD me 0)
  let f (x : LOp) : LOp :=
    let x := { x with firstAt := some (x.firstAt.getD s.rackTime) }
    if top then { x with leadersIn := setAdd x.leadersIn r } else { x with arrived := setAdd x.arrived r }
  barCheck (modOp s o.group o.opId f) g (f o) (rackIn g o me)

/-- A posted barrier: the member arrives at its leader; early ARRIVEs count; one that has failed already fails at once. -/
def postBarrier (s : State) (m : MbxId) : State :=
  let o := newOp s m
  match groupAt s o.group with
  | none => s
  | some g =>
    let me := myRank s g
    let s := addOp (accept s m) o
    if s.ladle.failedBars.contains (g.tag, o.opId) then barDone s o false
    else if leaderOf g me ≠ me then sendBarrier s g o.opId 1 1 (leaderOf g me)
    else
      let early := (s.ladle.early.filter (fun x => x.1 == g.tag && x.2.1 == o.opId)).map (fun x => x.2.2)
      let s := modLadle s (fun l => { l with early := l.early.filter (fun x => !(x.1 == g.tag && x.2.1 == o.opId)) })
      (early ++ [me]).foldl (fun s r =>
        match findOp s o.group o.opId with
        | some o => if o.done then s else barArrive s g o r
        | none => s) s

def execBarrier (m : MbxId) (s : State) : Answer := onMbx m (ladlePost m 4 (postBarrier s m) s)

/-- A BARRIER packet of a KIND about a group this part has. -/
def barrierIn (s : State) (port : Nat) (p : IfpPacket) (kind : Nat) (eff : State → Nat × Group → State) : State :=
  ifpReceive s port p [ifpBarrierT] id (fun s =>
    match s.ladle.groups.find? (fun x => x.2.tag == lTag p && x.2.stream == hStream p) with
    | some x => if lKind p = kind ∧ p.payload.length = 16 then eff s x else s
    | none => s)

/-- ARRIVE: counted, kept until the barrier is posted here, or answered with FAIL when it comes late. -/
def arriveIn (s : State) (p : IfpPacket) (x : Nat × Group) : State :=
  let g := x.2
  let r := g.ids.idxOf (hSrc p)
  if s.ladle.failedBars.contains (g.tag, lOpId p) then sendBarrier s g (lOpId p) 3 0 r
  else match findOp s x.1 (lOpId p) with
    | some o => if o.done || o.op != 4 then s else barArrive s g o r
    | none =>
      if s.ladle.early.contains (g.tag, lOpId p, r) then s
      else modLadle s (fun l => { l with early := l.early ++ [(g.tag, lOpId p, r)] })

def execArrive (port : Nat) (pkt : IfpPacket) (s : State) : Answer :=
  onUnit (decide (port < 18)) (barrierIn s port pkt 1 (fun s x => arriveIn s pkt x))

/-- RELEASE: passed on to the members below, then completed. -/
def releaseIn (s : State) (p : IfpPacket) (x : Nat × Group) : State :=
  match findOp s x.1 (lOpId p) with
  | some o => if o.done || o.op != 4 then s else barDone (sendBelow s x.2 o.opId 2) o true
  | none => s

def execRelease (port : Nat) (pkt : IfpPacket) (s : State) : Answer :=
  onUnit (decide (port < 18)) (barrierIn s port pkt 2 (fun s x => releaseIn s pkt x))

/-- A barrier has failed: a leader remembers it, and passes FAIL on. -/
def barFailed (s : State) (g : Group) (id : W32) : State :=
  let me := myRank s g
  if leaderOf g me = me then sendBelow (modLadle s (fun l => { l with failedBars := (g.tag, id) :: l.failedBars })) g id 3 else s

def failIn (s : State) (p : IfpPacket) (x : Nat × Group) : State :=
  if s.ladle.failedBars.contains (x.2.tag, lOpId p) then s
  else
    let s := barFailed s x.2 (lOpId p)
    match findOp s x.1 (lOpId p) with
    | some o => if o.done || o.op != 4 then s else barDone s o false
    | none => s

def execFail (port : Nat) (pkt : IfpPacket) (s : State) : Answer :=
  onUnit (decide (port < 18)) (barrierIn s port pkt 3 (fun s x => failIn s pkt x))

/-- R271: BARRIER_TMO after the root's first ARRIVE. -/
def barTmo (s : State) (gi : Nat) (id : W32) : State :=
  match groupAt s gi with
  | none => s
  | some g =>
    if myRank s g ≠ leaderOf g 0 ∨ s.ladle.failedBars.contains (g.tag, id) = true then s
    else match findOp s gi id with
      | some o => if o.done || o.op != 4 || o.firstAt.isNone then s else barDone (barFailed s g id) o false
      | none => if s.ladle.early.any (fun x => x.1 == g.tag && x.2.1 == id) then barFailed s g id else s

def execBarrierTmoExpiry (group opId : Nat) (s : State) : Answer := .next (barTmo s group (BitVec.ofNat 32 opId))

/-- The rank that a member of a barrier waits for: its leader; a leader, the first of its rack that has not arrived, then
the root; the root, the first leader after that. -/
def barWaits (g : Group) (o : LOp) (me : Nat) : Nat :=
  if leaderOf g me ≠ me then leaderOf g me
  else
    match (rackRanks g me).find? (fun r => !o.arrived.contains r) with
    | some r => r
    | none =>
      if me = leaderOf g 0 then ((leaders g).find? (fun r => r != me && !o.leadersIn.contains r)).getD me else leaderOf g 0

/-- R268: a waiting member without progress for OP_TMO; the rank is the one it waits for. -/
def opTmo (s : State) (gi : Nat) (id : W32) : State :=
  match groupAt s gi, findOp s gi id with
  | some g, some o =>
    if o.done then s
    else if o.op = 4 then
      failOp s o (barWaits g o (myRank s g)) 5
    else match o.recvs.find? (fun r => decide (r.next < r.count)) with
      | some r => failOp s o r.src 5
      | none => s
  | _, _ => s

def execOpTmoExpiry (group opId : Nat) (s : State) : Answer := .next (opTmo s group (BitVec.ofNat 32 opId))

/-! ### Paths that come and go (10 R239, 11 R274) -/

/-- Resend every unanswered segment of a sending, in its order. -/
def resendSegs (s : State) (o : LOp) (g : Group) (x : Sending) : State :=
  let s1 := if x.probing then sendProbe s o g x else (List.range (x.sent - x.acked)).foldl (fun s i => sendSeg s o g x (x.acked + i)) s
  resent s1 (if x.probing then 1 else x.sent - x.acked)

/-- One sending whose path is lost: resent on the new one, or waiting for one. -/
def moveSend (s : State) (o : LOp) (g : Group) (x : Sending) : State :=
  if (flowPort s (g.ids.getD x.target 0) g.stream).isSome then resendSegs s o g x
  else modSend s o.group o.opId x.phase x.block x.target (fun y => { y with noPath := true })

/-- The sendings, and a member's own unanswered ARRIVE, that a lost path carried. -/
def moveLadle (lost : Nat → Nat → Bool) (s : State) : State :=
  s.ladle.ops.foldl (fun s o =>
    match groupAt s o.group with
    | none => s
    | some g =>
      let s := o.sends.foldl (fun s x => if unanswered x && lost (g.ids.getD x.target 0) g.stream then moveSend s o g x else s) s
      let me := myRank s g
      if o.op = 4 ∧ o.done = false ∧ leaderOf g me ≠ me ∧ lost (g.ids.getD (leaderOf g me) 0) g.stream = true then
        sendBarrier s g o.opId 1 1 (leaderOf g me)
      else s) s

/-- The flows of the part that a lost path carried (`LD_TAKEOVERS`). -/
def lostFlows (lost : Nat → Nat → Bool) (s : State) : Nat :=
  let reqs := (s.fab.reqs.filter (fun r => r.port.isSome)).map (fun r => (hDest r.pkt, hStream r.pkt))
  let segs := (s.ladle.ops.map (fun o =>
    match groupAt s o.group with
    | some g => (o.sends.filter unanswered).map (fun x => (g.ids.getD x.target 0, g.stream))
    | none => [])).flatten
  ((reqs ++ segs).dedup.filter (fun f => lost f.1 f.2)).length

/-- R274: `old` is the state before the path was lost; `lost` says which of its flows' ports no longer carry them. -/
def moveFlows (old : State) (lostPort : Nat → Nat → Bool) (s : State) : State :=
  let lost (dest stream : Nat) : Bool := (flowPort old dest stream).any (fun p => lostPort dest p)
  let s := incHold s (ldReg 0x28) 32 (lostFlows lost old)
  let rs := s.fab.reqs.filter (fun r => r.port.any (fun p => lostPort (hDest r.pkt) p))
  flushWaits (moveLadle lost (rs.foldl moveReq s))

/-- A path has come back: what waited goes out. -/
def pathBack (s : State) : State :=
  let s := flushWaits s
  s.ladle.ops.foldl (fun s o =>
    match groupAt s o.group with
    | none => s
    | some g =>
      let s := o.sends.foldl (fun s x =>
        if x.noPath && (flowPort s (g.ids.getD x.target 0) g.stream).isSome then
          resendSegs (modSend s o.group o.opId x.phase x.block x.target (fun y => { y with noPath := false })) o g x
        else s) s
      pumpOp s o.group o.opId) s

/-- R239: what waits for a path. An operation has segments that wait for a path; the rank it cannot reach. -/
def stuckRank (s : State) (o : LOp) : Option Nat :=
  match groupAt s o.group with
  | none => none
  | some g =>
    (o.sends.find? (fun x =>
      !x.dead && (x.noPath || decide (x.due < Nat.min x.count (sendAvail o g.ids.length (myRank s g) x))) &&
      (flowPort s (g.ids.getD x.target 0) g.stream).isNone)).map (fun x => x.target)

def planeWait (s : State) : State :=
  if !(planeList s).isEmpty then s
  else
    let rs := s.fab.reqs.filter (fun r => r.port.isNone)
    let s := rs.foldl (fun s r => failReq (dropReq s r.tag) r 0x0A) s
    let s := { s with fab := { s.fab with waits := s.fab.waits.filter (fun w => (flowPort s (hDest w) (hStream w)).isSome) } }
    s.ladle.ops.foldl (fun s o =>
      if o.done then s else
      match stuckRank s o with
      | some r => failOp s o r 6
      | none => s) s

def execPlaneWaitTimeout (s : State) : Answer := .next (planeWait s)

end Sys2Proof.Machine
end

