-- ==== Sys2Proof/Machine/Ports.lean ====
section
/-! DEFINITION. Fabric ports: link states, the DISC exchange and its checks, the plane remap, drains and link death, part
IDs and coordinates, and rack time (10 R240-R256, 11 R272-R275). -/

namespace Sys2Proof.Machine

/-! ### Changes of state (10 Table 10.7) -/

/-- Vector 66: a change into QUARANTINE or FAILED, or of FW_MIX (R247). -/
def portSignal (s : State) : State := signal (signal s 0 66) 1 10

/-- Ports train once the routers are up (19 R443), and a fenced part holds every port DOWN (20 R462). -/
def portsLive (s : State) : Bool := decide (4 ≤ s.life.stage) && s.life.partState != psFenced

def portDisabled (s : State) (p : Nat) : Bool := rbit s (fpReg p 0x0C) 2

def setState (s : State) (p v : Nat) : State := wrF s (fpReg p 0) 2 0 v

/-- A port that stops carrying traffic has its flows moved; `v` is its new state. -/
def leaveActive (s : State) (p v : Nat) : State :=
  if portCarries s p then moveFlows s (fun _ q => q == p) (setState s p v) else setState s p v

/-- A quarantine with its reason. -/
def quarantine (s : State) (p reason : Nat) : State :=
  let s := leaveActive s p fpQuarantine
  portSignal (modPort (wrF s (fpReg p 0) 6 3 reason) p (fun x => { x with held := false, passed := false }))

/-! ### What the part sends (10 Table 10.9) -/

def secureDisc (s : State) : Bool := rbit s (fabReg 0) 1
def idValid (s : State) : Bool := rbit s (fabReg 4) 13

/-- The part's SERIAL_DIGEST. -/
def serialDigest : Bytes := (List.range 32).map Config.serialByte

/-- The firmware build; 0 before the image runs (19 R440). -/
def fwBuild (s : State) : Nat := s.life.fw.elim 0 (fun f => f.build.toNat)

/-- Bytes 0-67 of a DISC payload. -/
def discHead (s : State) (p subtype : Nat) (nonce : Bytes) : Bytes :=
  leBytes 1 subtype ++ leBytes 1 0 ++ leBytes 2 (partId s) ++ leBytes 1 p ++ leBytes 1 p ++ leBytes 1 0x40 ++ leBytes 1 0x43 ++
  leBytes 4 (fwBuild s) ++ leBytes 8 (Config.discCaps / 2 * 2 + (if secureDisc s then 1 else 0)) ++ nonce ++ serialDigest

/-- A DISC packet: TYPE 8 on VC 0. What DEST and STREAM hold in it is not stated. -/
def discPacket (s : State) (bs : Bytes) : IfpPacket :=
  ifpPacket s { type := ifpDiscT, vc := 0, dest := Config.freeNat s.freeNo % 0x2000, stream := Config.freeNat (s.freeNo + 1) % 2 ^ 24, payload := bs }

def discSend (s : State) (p : Nat) (bs : Bytes) : State := ifpSend (useFreeN 2 s) p (discPacket s bs)

/-- The states in which a port carries DISC (10 Table 10.7). -/
def discCarries (s : State) (p : Nat) : Bool := portState s p == fpDiscovery || portState s p == fpQuarantine || portState s p == fpActive

/-- A DISC packet of a SUBTYPE comes in: its HCRC is checked as any packet's is (10 R244). -/
def discIn (s : State) (port : Nat) (p : IfpPacket) (sub : Nat) (eff : State → State) : State :=
  if !discCarries s port then s
  else if !hcrcOk p then incHold s (fpReg port 0x24) 16 1
  else if hType p ≠ ifpDiscT ∨ hVc p ≠ 0 ∨ hLen p ≠ p.payload.length ∨ leAt p.payload 0 1 ≠ sub then s
  else eff s

/-- A HELLO, with a new NONCE. -/
def sendHello (s : State) (p : Nat) : State :=
  let nonce := slice (Config.entropyBytes s.freeNo) 0 16
  let s := modPort (useFree s) p (fun x => { x with hellos := x.hellos + 1, nonce := nonce })
  discSend s p (discHead s p 1 nonce)

/-- The minor settled with a peer's VER_MIN and VER_MAX (R250). -/
def settledMinor (vmin vmax : Nat) : Option Nat :=
  let m := Nat.min 3 (vmax % 16)
  if vmin / 16 = 4 ∧ vmax / 16 = 4 ∧ vmin % 16 ≤ m then some m else none

/-- A CONFIRM, which echoes the peer's NONCE; SETTLED is open where no version is common. -/
def sendConfirm (s : State) (p : Nat) (peer : Bytes) : State :=
  let free := Config.freeNat s.freeNo % 256
  let settled := (settledMinor (leAt peer 6 1) (leAt peer 7 1)).elim free (fun m => 0x40 + m)
  let body := discHead s p 2 (portAt s p).nonce ++ slice peer 20 16 ++ leBytes 1 settled ++ zeros 3 ++
    (if secureDisc s then slice s.sec.idPub 0 57 else zeros 57) ++ zeros 13
  let sig := if secureDisc s then slice (Config.ed448Sign s.sec.idKey body) 0 114 else zeros 114
  discSend (modPort (useFree s) p (fun x => { x with confirmTx := true })) p (body ++ sig)

/-- The exchange of a port starts afresh. -/
def freshExchange (x : PortSt) : PortSt := { x with hellos := 0, nonce := [], helloRx := none, confirmTx := false, held := false, passed := false, oldPeers := none }

/-- DISCOVERY: a HELLO goes out once the part has its ID (R242). -/
def startDisc (s : State) (p : Nat) : State :=
  let s := modPort (wrF (setState s p fpDiscovery) (fpReg p 0) 6 3 0) p freshExchange
  if idValid s then sendHello s p else s

/-! ### ACTIVE -/

/-- The port becomes ACTIVE, and what waited for a path goes out. -/
def activate (s : State) (p : Nat) : State :=
  pathBack (modPort (wrF (setState s p fpActive) (fpReg p 0) 6 3 0) p (fun x => { x with held := false, secured := secureDisc s }))

/-- R249 passed both ways: the peer's CONFIRM has passed, and the part's own has been sent. -/
def activateIf (s : State) (p : Nat) : State :=
  let x := portAt s p
  if portState s p = fpDiscovery ∧ x.passed = true ∧ x.held = false ∧ x.confirmTx = true then activate s p else s

/-! ### SIGNAL_DETECT, TRAINING_COMPLETE, LOSS_OF_SIGNAL -/

/-- A port under self-test is in loopback (19 Table 19.6). -/
def portTested (s : State) (p : Nat) : Bool := s.bist.any (fun b => b.test == 7 && b.running.contains p)

def signalDetect (s : State) (p : Nat) : State :=
  if portState s p = fpDown ∧ portDisabled s p = false ∧ portsLive s = true ∧ portTested s p = false then setState s p fpTraining else s

def execSignalDetect (port : Nat) (s : State) : Answer := onUnit (decide (port < 18)) (signalDetect s port)

/-- Four consecutive failed trainings end in FAILED. -/
def trainingDone (s : State) (p : Nat) (ok : Bool) : State :=
  if portState s p ≠ fpTraining then s
  else if ok then startDisc (modPort s p (fun x => { x with fails := 0 })) p
  else
    let s1 := modPort s p (fun x => { x with fails := x.fails + 1 })
    if 4 ≤ (portAt s1 p).fails then portSignal (setState s1 p fpFailed) else s1

def execTrainingComplete (port : Nat) (ok : Bool) (s : State) : Answer := onUnit (decide (port < 18)) (trainingDone s port ok)

/-! ### Link death (11 R272, R274, R280) -/

/-- FP_RETRAIN advances and the port trains. A link that carried traffic has its flows moved, is recorded, and is
reported as a suspicion of the part's own port. -/
def linkDie (s : State) (p : Nat) : State :=
  let carried := portCarries s p
  let s := modPort (incHold (leaveActive s p fpTraining) (fpReg p 0x20) 16 1) p (fun x => { freshExchange x with fails := 0, replayFails := 0 })
  if carried then
    raiseSuspicion (faultRecord s { cls := 1, cause := 12, unit := p }) 2 (partId s) p 2
  else s

def linkDeath (s : State) (p : Nat) : State :=
  if portCarries s p || portState s p == fpDiscovery then linkDie s p else s

def execLinkDeath (port : Nat) (s : State) : Answer := onUnit (decide (port < 18)) (linkDeath s port)

/-- Loss of signal: a training port goes DOWN; any other link is dead. -/
def lossOfSignal (s : State) (p : Nat) : State :=
  if portState s p = fpTraining then setState s p fpDown else linkDeath s p

def execLossOfSignal (port : Nat) (s : State) : Answer := onUnit (decide (port < 18)) (lossOfSignal s port)

/-- R272: a CRC error in a block of link flits; `failed`: the replay fails too. The codewords that the FEC has corrected,
and could not correct, since the last such error are counted (10 R256; that this command brings them is log 74). -/
def fabReplay (s : State) (p : Nat) (failed : Bool) (ce ue : Nat) : State :=
  if portCarries s p || portState s p == fpDiscovery || portState s p == fpQuarantine then
    let s := incHold (incHold s (fpReg p 0x10) 32 ce) (fpReg p 0x14) 32 ue
    modPort (incHold (incHold s (fpReg p 0x18) 16 1) (fpReg p 0x1C) 16 1) p
      (fun x => { x with replayFails := if failed then x.replayFails + 1 else 0 })
  else s

def execFabricLinkReplay (port : Nat) (failed : Bool) (fecCe fecUe : Nat) (s : State) : Answer :=
  onUnit (decide (port < 18)) (fabReplay s port failed fecCe fecUe)

/-! ### HELLO, HELLO_TIMEOUT (R247, R248) -/

/-- A HELLO is answered with a CONFIRM once the part has its ID; in QUARANTINE or ACTIVE it starts a new exchange. -/
def helloIn (s : State) (p : Nat) (frame : Bytes) : State :=
  let s := if portState s p = fpDiscovery then s else startDisc (leaveActive s p fpDiscovery) p
  let h := slice frame 0 68
  let s := modPort s p (fun x => { x with helloRx := some h })
  if idValid s then activateIf (sendConfirm (if (portAt s p).hellos = 0 then sendHello s p else s) p h) p else s

def execHello (port : Nat) (pkt : IfpPacket) (s : State) : Answer :=
  onUnit (decide (port < 18)) (discIn s port pkt 1 (fun s => helloIn s port pkt.payload))

/-- 1 ms without the peer's CONFIRM: another HELLO, and after the third a new training. -/
def helloTimeout (s : State) (p : Nat) : State :=
  let x := portAt s p
  if portState s p ≠ fpDiscovery ∨ x.hellos = 0 ∨ x.passed = true then s
  else if 3 ≤ x.hellos then setState s p fpTraining
  else sendHello s p

def execHelloTimeout (port : Nat) (s : State) : Answer := onUnit (decide (port < 18)) (helloTimeout s port)

/-! ### The plane remap (R252) -/

/-- The plane the map gives a port. -/
def mapPlane (s : State) (p : Nat) : Nat := rdF s (fabReg (if p < 8 then 8 else 0x0C)) (p % 8 * 4 + 3) (p % 8 * 4)
def setMapPlane (s : State) (p v : Nat) : State := wrF s (fabReg (if p < 8 then 8 else 0x0C)) (p % 8 * 4 + 3) (p % 8 * 4) v

/-- The plane a port's switch has reported. -/
def peerPlane (s : State) (p : Nat) : Nat := rdF s (fpReg p 4) 24 20

def planePorts : List Nat := List.range 16

/-- Every plane port holds a CONFIRM that has passed checks 1 to 6. -/
def allPassed (s : State) : Bool := planePorts.all (fun p => (portAt s p).passed)
def isPermutation (s : State) : Bool := planePorts.all (fun pl => (planePorts.map (peerPlane s)).contains pl)

/-- The decision: the permutation is taken, or every held port is quarantined and the map is the identity. -/
def decidePlanes (s : State) : State :=
  let s0 : State := { s with fab := { s.fab with decided := true, resets := [] } }
  let held := planePorts.filter (fun p => (portAt s p).held)
  if allPassed s && isPermutation s then
    let s1 := planePorts.foldl (fun t p => wrF (setMapPlane t p (peerPlane s p)) (fpReg p 0) 15 12 (peerPlane s p)) s0
    held.foldl (fun t p => activateIf (modPort t p (fun x => { x with held := false })) p) s1
  else
    let s1 := planePorts.foldl (fun t p => setMapPlane t p p) s0
    held.foldl (fun t p => quarantine t p 7) s1

def remapAllowed (s : State) : Bool := rbit s (fabReg 0) 0

/-- The decision is made at once when every port holds its CONFIRM. -/
def decideIf (s : State) : State := if remapAllowed s && !s.fab.decided && allPassed s then decidePlanes s else s

/-- 100 ms after the first such CONFIRM. -/
def planeDecision (s : State) : State :=
  if remapAllowed s && !s.fab.decided && planePorts.any (fun p => (portAt s p).passed) then decidePlanes s else s

def execPlaneRemapDecision (s : State) : Answer := .next (planeDecision s)

/-! ### CONFIRM (10 Table 10.10) -/

/-- The key's digest is in the fabric peer list as it was when the port's exchange began (18 R428); an all-zero entry is
empty. -/
def peerKnown (s : State) (p : Nat) (key : Bytes) : Bool :=
  let d := shake256 16 key
  let l := (portAt s p).oldPeers.getD s.sec.peers
  (List.range 16384).any (fun e =>
    let x := (List.range 16).map (fun i => mapGet 0 l (16 * e + i))
    x == d && x.any (fun b => b != 0))

/-- Check 1. -/
def authBad (s : State) (p : Nat) (c : Bytes) : Bool :=
  secureDisc s && (!Config.ed448Verify (slice c 88 57) (slice c 0 158) (slice c 158 114) ||
    slice c 68 16 != (portAt s p).nonce || !peerKnown s p (slice c 88 57))

/-- The first failing check of 1 to 6, and of 8. -/
def confirmReason (s : State) (p : Nat) (c : Bytes) : Option Nat :=
  let id := leAt c 2 2
  if authBad s p c then some 1
  else if slice c 36 32 == serialDigest then some 2
  else if (settledMinor (leAt c 6 1) (leAt c 7 1)).isNone then some 3
  else if leAt c 1 1 ≠ (if p < 16 then 1 else 0) then some 4
  else if p < 16 then
    if id / 64 % 128 ≠ partId s / 64 then some 5
    else if leAt c 5 1 ≠ 4 * (partId s / 4 % 16) + partId s % 4 then some 6
    else none
  else if id ≠ (partId s ^^^ (if p = 16 then 1 else 2)) ∨ leAt c 4 1 ≠ p then some 8
  else none

/-- What the CONFIRM says of the peer. -/
def notePeer (s : State) (p : Nat) (c : Bytes) : State :=
  let w := leAt c 2 2 % 0x2000 + leAt c 1 1 % 2 * 0x2000 + leAt c 5 1 % 64 * 0x4000 + leAt c 4 1 % 32 * 0x100000
  let s := wr (wr s (fpReg p 4) (BitVec.ofNat 32 w)) (fpReg p 8) (BitVec.ofNat 32 (leAt c 8 4))
  let mix := decide (leAt c 8 4 ≠ fwBuild s)
  let s := if rbit s (fpReg p 0) 7 == mix then s else portSignal (wbit s (fpReg p 0) 7 mix)
  match settledMinor (leAt c 6 1) (leAt c 7 1) with
  | some m => wrF s (fpReg p 0) 11 8 m
  | none => s

/-- Check 7 of a plane port. -/
def planeOk (s : State) (p plane : Nat) : Bool := if s.fab.decided then plane == mapPlane s p else plane == p

def confirmIn (s : State) (p : Nat) (c : Bytes) : State :=
  if portState s p ≠ fpDiscovery ∨ idValid s = false then s
  else
    let r := confirmReason s p c
    let s := notePeer s p c
    match r with
    | some k => quarantine s p k
    | none =>
      if p < 16 ∧ planeOk s p (leAt c 4 1) = false then
        if remapAllowed s && !s.fab.decided then decideIf (modPort s p (fun x => { x with passed := true, held := true }))
        else quarantine s p 7
      else
        let s := modPort s p (fun x => { x with passed := true, held := false })
        let s := if p < 16 then wrF s (fpReg p 0) 15 12 (leAt c 4 1) else s
        decideIf (activateIf s p)

def execConfirm (port : Nat) (pkt : IfpPacket) (s : State) : Answer :=
  onUnit (decide (port < 18)) (discIn s port pkt 2 (fun s => confirmIn s port pkt.payload))

/-- LEAVE with REASON 9. -/
def leaveIn (s : State) (p reason : Nat) : State :=
  if reason = 9 ∧ (portState s p = fpDiscovery ∨ portState s p = fpActive) then quarantine s p 9 else s

def execLeave (port : Nat) (pkt : IfpPacket) (s : State) : Answer :=
  onUnit (decide (port < 18)) (discIn s port pkt 4 (fun s => leaveIn s port (leAt pkt.payload 1 1)))

/-! ### Port control (R247, R252) -/

/-- DRAINING ends: DOWN. What its link had not acknowledged holds no flow back any more. -/
def drainDone (s : State) (p : Nat) : State :=
  if portState s p = fpDraining then flushWaits (modPort (setState s p fpDown) p freshExchange) else s

def execDrainComplete (port : Nat) (s : State) : Answer := onUnit (decide (port < 18)) (drainDone s port)

/-- A plane port has been reset: after all sixteen a new decision may be made. -/
def noteReset (s : State) (p : Nat) : State :=
  if 16 ≤ p then s
  else
    let l := setAdd s.fab.resets p
    if l.length = 16 then { s with fab := { s.fab with decided := false, resets := [] } }
    else { s with fab := { s.fab with resets := l } }

/-- A port in QUARANTINE discovers again (10 Table 10.7; log 162). Else FP_STATUS restarts at DOWN, the counters are kept,
then the port trains. -/
def portReset (s : State) (p : Nat) : State :=
  if portState s p = fpQuarantine then noteReset (startDisc s p) p
  else
  let mix := rbit s (fpReg p 0) 7
  let s := leaveActive s p fpDown
  let s := modPort (wr s (fpReg p 0) (regReset (fpReg p 0))) p (fun _ => {})
  let s := noteReset (if mix then portSignal s else s) p
  if portsLive s && !portDisabled s p then setState s p fpTraining else s

def execFpReset (port : Nat) (s : State) : Answer := onUnit (decide (port < 18)) (portReset s port)

def portDrain (s : State) (p : Nat) : State := if portState s p = fpActive then setState s p fpDraining else s

def execFpDrain (port : Nat) (s : State) : Answer := onUnit (decide (port < 18)) (portDrain s port)

/-- DISABLE holds the port DOWN; cleared, it waits for signal. -/
def portDisable (s : State) (p : Nat) (on : Bool) : State :=
  let s := wbit s (fpReg p 0x0C) 2 on
  if on then modPort (wrF (leaveActive s p fpDown) (fpReg p 0) 6 3 0) p freshExchange else s

def execFpDisable (port : Nat) (on : Bool) (s : State) : Answer := onUnit (decide (port < 18)) (portDisable s port on)

/-- A write of FP_CTRL. -/
def fpCtrlWrite (s : State) (p : Nat) (v : W32) : State :=
  let on := fld v 2 2 == 1
  let s := if rbit s (fpReg p 0x0C) 2 == on then s else portDisable s p on
  let s := if fld v 0 0 = 1 then portReset s p else s
  if fld v 1 1 = 1 then portDrain s p else s

/-- A write of PORT_POLICY: SECURE only while it is not locked; quarantined ports discover again, and a new decision may
be made. -/
def policyWrite (s : State) (v : W32) : State :=
  let old := rd s (fabReg 0)
  let mask : W32 := if rbit s (secReg 0) 10 then 5 else 7
  let s := wr s (fabReg 0) ((old &&& ~~~ mask) ||| (v &&& mask))
  let s : State := { s with fab := { s.fab with decided := false, resets := [] } }
  let s := (List.range 18).foldl (fun s p => if portState s p = fpQuarantine then startDisc s p else s) s
  if remapAllowed s then decideIf s
  else planePorts.foldl (fun s p => if (portAt s p).held then quarantine s p 7 else s) s

def execPortPolicyWrite (value : W32) (s : State) : Answer := .next (policyWrite s value)

/-! ### Coordinates (R241-R243) -/

/-- A port in DISCOVERY sends its HELLO, and the CONFIRM that the peer's HELLO waits for. -/
def discNow (s : State) (p : Nat) : State :=
  if portState s p = fpDiscovery then
    let s := sendHello s p
    match (portAt s p).helloRx with
    | some h => sendConfirm s p h
    | none => s
  else s

/-- The offered ID becomes the part's. -/
def takeId (s : State) (takeover : Bool) : State :=
  let s := wrF s (fabReg 4) 12 0 s.fab.coord.toNat
  wbit (wbit s (fabReg 4) 13 true) (fabReg 4) 14 takeover

/-- The static I3C address (10 R241). -/
def i3cStatic (s : State) : Nat := 0x50 + s.life.strap

/-- The controller has assigned a dynamic address, and writes the registers through it. -/
def i3cAssigned (s : State) : State :=
  { s with fab := { s.fab with i3cAddr := some (s.fab.i3cAddr.getD (Config.i3cAddress % 128)) } }

def strapBad (s : State) : Bool := decide (s.fab.coord.toNat % 4 ≠ s.life.strap)

/-- An offer: ignored where an ID is held, refused where POSITION differs from the strap. -/
def coordCommit (s : State) (coord : Nat) : State :=
  let s := i3cAssigned s
  let s : State := { s with fab := { s.fab with coord := BitVec.ofNat 13 coord } }
  if s.fab.accepted then s
  else if strapBad s then { s with fab := { s.fab with mismatch := true } }
  else
    let s : State := { s with fab := { s.fab with accepted := true, idCoord := s.fab.coord, waiting := false, mismatch := false } }
    (List.range 18).foldl discNow (takeId s false)

def execCoordCommit (coord : Nat) (s : State) : Answer := .next (coordCommit s coord)

/-- R243: refused while an instance is placed; else the ports drain, the ID is replaced and every port discovers again. -/
def coordTakeover (s : State) (coord : Nat) : State :=
  if !s.fab.accepted then coordCommit s coord
  else
    let s := i3cAssigned s
    let s : State := { s with fab := { s.fab with coord := BitVec.ofNat 13 coord, mismatch := false, busy := false } }
    if strapBad s then { s with fab := { s.fab with mismatch := true } }
    else if s.insts.any (fun p => p.2.placed) then { s with fab := { s.fab with busy := true } }
    else
      let s : State := { s with fab := { s.fab with idCoord := s.fab.coord } }
      let s := takeId ((List.range 18).foldl portDrain s) true
      (List.range 18).foldl (fun s p =>
        if portState s p = fpDiscovery ∨ portState s p = fpQuarantine then startDisc s p else s) s

def execCoordTakeover (coord : Nat) (s : State) : Answer := .next (coordTakeover s coord)

/-! ### FAULT_NOTICE_PATH (11 R275) -/

/-- The destinations a PATH notice names: a part, or every part of a rack. -/
def pathDests (p : IfpPacket) : Nat × Nat :=
  let id := leAt p.payload 2 2 % 0x2000
  if leAt p.payload 1 1 = 3 then (id / 64 * 64, id / 64 * 64 + 63) else (id, id)

def pathNotice (s : State) (p : IfpPacket) : State :=
  let d := pathDests p
  let plane := leAt p.payload 4 1
  let t : State := { s with fab := { s.fab with excluded := (d.1, d.2, plane, faultEpoch s) :: s.fab.excluded } }
  moveFlows s (fun dest q => decide (q < 16) && portPlane s q == plane && decide (d.1 ≤ dest) && decide (dest ≤ d.2)) t

def faultNoticePath (s : State) (port : Nat) (p : IfpPacket) : State :=
  noticeIn s port p 1 (fun s => if nCause p = 3 then pathNotice s p else s)

def execFaultNoticePath (port : Nat) (pkt : IfpPacket) (s : State) : Answer := onUnit (decide (port < 18)) (faultNoticePath s port pkt)

/-! ### Rack time (R253, R254) -/

/-- Signed distance of the counter from the nearest multiple of 65,536. -/
def tickDev (t : W64) : Int := sgn 16 (t.toNat % 65536)

/-- A tick that is off, or missing; the time a TIME frame gave for it is not taken at a later one. -/
def tickError (s : State) : State :=
  let s := incHold (wbit s (fabReg 0x14) 1 true) (fabReg 0x24) 16 1
  { s with fab := { s.fab with goodTicks := 0, nextTick := none } }

/-- An accepted tick: the counter stands at a multiple of 65,536, or takes the time that a TIME frame has given. -/
def goodTick (s : State) (t : W64) (dev : Int) : State :=
  let s := wrF s (fabReg 0x14) 15 8 (unsgn 8 dev)
  let s := match s.fab.nextTick with
    | some u => wbit { s with rackTime := u, fab := { s.fab with nextTick := none } } (fabReg 0x14) 0 true
    | none => { s with rackTime := t }
  let n := s.fab.goodTicks + 1
  let s : State := { s with fab := { s.fab with goodTicks := n, running := true } }
  if 3 ≤ n then wbit s (fabReg 0x14) 1 false else s

def rackTick (s : State) : State :=
  if !s.fab.running then goodTick s 0 0
  else
    let d := tickDev s.rackTime
    if d.natAbs ≤ 2 then goodTick s (s.rackTime - BitVec.ofInt 64 d) d else tickError s

def execRackTick (s : State) : Answer := .next (rackTick s)

/-- A fault of rack time names no unit. -/
def tickFault (s : State) : State := faultRecord s { cls := 1, cause := 19, unit := Config.noUnit }

def execRackTickMissing (s : State) : Answer := .next (tickFault (tickError s))

def execRackRefclkLost (s : State) : Answer := .next (tickFault (wbit s (fabReg 0x14) 2 true))

/-- The rack time of the next tick, accepted on the lowest-numbered ACTIVE plane port; a frame that would move an aligned
counter is ignored and counted. -/
def discTime (s : State) (p : Nat) (t : W64) : State :=
  if (planePorts.filter (fun q => portState s q == fpActive)).head? ≠ some p then s
  else
    let u := BitVec.ofNat 64 (t.toNat / 65536 * 65536)
    if rbit s (fabReg 0x14) 0 then
      if t.toNat = (s.rackTime.toNat / 65536 + 1) * 65536 then s else incHold s (fabReg 0x24) 16 1
    else { s with fab := { s.fab with nextTick := some u } }

def execDiscTime (port : Nat) (pkt : IfpPacket) (s : State) : Answer :=
  onUnit (decide (port < 18)) (discIn s port pkt 3 (fun s => discTime s port (BitVec.ofNat 64 (leAt pkt.payload 2 8))))

/-! ### Counters (R256) -/

def execFabCntClr (value : W32) (s : State) : Answer := .next (clearIf value 0 [fabReg 0x24] s)
def execFpCntClr (port : Nat) (value : W32) (s : State) : Answer :=
  onUnit (decide (port < 18)) (clearIf value 0 (words (fpReg port 0x10) 6) s)

end Sys2Proof.Machine
end

