-- ==== Sys2Proof/Machine/Fence.lean ====
section
/-! DEFINITION. Fencing: a host fence, a part-fenced fault, and what becomes of the frames and ports (20 R462, R467). -/

namespace Sys2Proof.Machine

/-- A waiting frame ends FAILED in its place. -/
def failWaiting (s : State) (slot : Nat) (w : Waiting) : State :=
  match instOf s slot with
  | none => s
  | some i =>
    let s := recordUnrun s slot (dTag w.desc) 4 stNoInstance i.ordinal
    let s := putMarker s slot (blankMsg (dTag w.desc) i.step (.failed stNoInstance i.ordinal) false)
    submitStep s slot w.submit (fun b => { b with refused := b.refused + 1 })

/-- The frames that wait at the entry part. -/
def failWaitings (s : State) (slot : Nat) : State :=
  match instOf s slot with
  | none => s
  | some i => i.waiting.foldl (fun s w => failWaiting s slot w) (setInst s slot { i with waiting := [] })

/-- A frame in flight that has not failed or been aborted. -/
def failFlight (i : Instance) (f : Flight) : Flight :=
  if f.msg.marker.isNone then { f with msg := { f.msg with marker := some (.failed stNoInstance i.ordinal) } } else f

/-- Frames are decided in order, as far as the ring has room. -/
def commitAll : Nat → Nat → State → State
  | 0, _, s => s
  | n + 1, slot, s => commitAll n slot (frameCommit s slot [])

/-- A frame that the part drops: what it held here is released. -/
def dropFlight (slot : Nat) (s : State) (f : Flight) : State :=
  let s := f.msg.seqs.foldl (seqDiscard slot) s
  let s := dropFlightPages s f
  ((f.msg.seqs.map (fun q => q.version)).filter (fun v => v != 0)).dedup.foldl (fun s v => dropVer s slot v) s

/-- Step 2, for one instance. -/
def fenceInst (s : State) (slot : Nat) : State :=
  let s := failWaitings s slot
  match instOf s slot with
  | none => s
  | some i =>
    if exitHere s i then
      commitAll (i.markers.length + i.flight.length) slot
        (setInst s slot { i with flight := i.flight.map (failFlight i), passStep := none })
    else i.flight.foldl (dropFlight slot) (setInst s slot { i with flight := [], passStep := none })

/-- Step 3, for one port. -/
def fencePort (s : State) (p : Nat) : State :=
  if portState s p = fpActive then portDrain s p
  else if portState s p = fpDraining then s
  else modPort (wrF (setState s p fpDown) (fpReg p 0) 6 3 0) p freshExchange

/-- The part fences itself. -/
def fencePart (s : State) (f : FaultInfo) : State :=
  if s.life.partState = psFenced ∨ s.life.fw = none then s
  else
    let s : State := { s with life := { s.life with partState := psFenced } }
    let s := wrF (wbit s (fltReg 4) 0 true) (fltReg 4) 5 1 f.cause
    let s := faultRecord s f
    let s := (s.insts.map Prod.fst).foldl fenceInst s
    (List.range 18).foldl fencePort s

/-- A fence that the host asks for, or one for a fault of class 3. -/
def execFence (host : Bool) (cause : Nat) (s : State) : Answer :=
  .next (fencePart s { cls := 3, cause := if host then 0 else cause, unit := Config.noUnit })

/-- CAUSE 8. -/
def execRouterFail (site : Nat) (s : State) : Answer :=
  onUnit (decide (site < 800)) (fencePart s { cls := 3, cause := 8, unit := site, secure := siteSecure s site })

end Sys2Proof.Machine
end

