-- ==== Sys2Proof/Machine/Mesh.lean ====
section
/-! DEFINITION. The on-die mesh and the stacks at its edge: injection, delivery, the base dies' reads, writes and
atomics, scrubbing, and the stack links (08, 09 R205-R214). -/

namespace Sys2Proof.Machine

/-! ### Routers (08 R186-R190, 01 Table 01.3) -/

/-- The router of an external port: 0-23 stack links, 24-41 fabric ports, 42 PCIe, 43 the Kettle. -/
def extSite (p : Nat) : Nat :=
  if p < 12 then 2 * p + 1
  else if p < 24 then 31 * 25 + 2 * (p - 12) + 1
  else if p < 33 then (3 * (p - 24) + 1) * 25
  else if p < 42 then (3 * (p - 33) + 1) * 25 + 24
  else if p = 42 then 31 * 25
  else 30 * 25

/-- The router a packet's source sits at. -/
def srcSite (src : Nat) : Nat := if src < 0x400 then src else extSite (src - 0x400)

/-- The router of a physical destination; a logical one is resolved (08 R189). -/
def destSite (s : State) : MeshDest → Nat
  | .site n => n
  | .logical c r => siteOf s r c
  | .port n => extSite n

/-- The counter of the output a packet leaves a router by: N, S, E, W, L (08 Table 08.6). -/
abbrev outN := 0x10
abbrev outS := 0x14
abbrev outE := 0x18
abbrev outW := 0x1C
abbrev outL := 0x20

/-- The outward port of an external port's router (08 R187). -/
def extOut (p : Nat) : Nat :=
  if p < 12 then outN else if p < 24 then outS else if p < 33 then outW else if p < 42 then outE
  else if p = 42 then outS else outW

/-- R190: along the row to the destination column, then along the column; each hop as (router, output). -/
def meshHops : Nat → Nat → Nat → List (Nat × Nat)
  | 0, _, _ => []
  | n + 1, a, d =>
    if a = d then []
    else if a % 25 < d % 25 then (a, outE) :: meshHops n (a + 1) d
    else if d % 25 < a % 25 then (a, outW) :: meshHops n (a - 1) d
    else if a < d then (a, outS) :: meshHops n (a + 25) d
    else (a, outN) :: meshHops n (a - 25) d

/-- The routers a packet passes and the outputs it leaves them by, the last one outward or to the core. -/
def meshPath (s : State) (p : MeshPacket) : List (Nat × Nat) :=
  let d := destSite s p.dest
  meshHops 56 (srcSite p.src) d ++ [(d, match p.dest with | .port n => extOut n | _ => outL)]

/-- Flits of a packet: the header and the payload in 64-byte flits. -/
def meshFlits (p : MeshPacket) : Nat := 1 + ceilDiv p.payload.length 64

/-- MESH_RT_FLITS_x of the routers it passes. -/
def countFlits (s : State) (n : Nat) : List (Nat × Nat) → State
  | [] => s
  | h :: hs => countFlits (incWrap s (routerReg h.1 h.2) n) n hs

/-! ### The header flit (08 Table 08.2) -/

def meshTypeCode : MeshType → Nat
  | .read => 1
  | .readResp => 2
  | .write => 3
  | .writeAck => 4
  | .msg => 5
  | .atomic => 6
  | .atomicResp => 7
  | .errorResp => 8

def meshTypeOf (c : Nat) : Option MeshType :=
  match c with
  | 1 => some .read
  | 2 => some .readResp
  | 3 => some .write
  | 4 => some .writeAck
  | 5 => some .msg
  | 6 => some .atomic
  | 7 => some .atomicResp
  | 8 => some .errorResp
  | _ => none

/-- DEST and MODE. -/
def destCode : MeshDest → Nat × Nat
  | .site n => (n, 0)
  | .logical c r => (c + 32 * r, 1)
  | .port n => (n, 2)

def destOf (d mode : Nat) : Option MeshDest :=
  match mode with
  | 0 => some (.site (d % 1024))
  | 1 => some (.logical (d % 32) (d / 32 % 32))
  | 2 => some (.port (d % 64))
  | _ => none

/-- The 64 bytes of the header flit of a packet, as the source interface fills it. -/
def meshHeader (p : MeshPacket) : Bytes :=
  leBytes 2 (destCode p.dest).1 ++ leBytes 1 ((destCode p.dest).2 + 4 * p.vc) ++ leBytes 1 (meshTypeCode p.type) ++
  leBytes 2 p.src ++ zeros 1 ++ leBytes 1 (ceilDiv p.payload.length 64) ++ leBytes 2 p.tag ++
  leBytes 1 (if p.secure then 1 else 0) ++ zeros 5 ++ leBytes 8 p.gma.toNat ++ padWith 0 40 p.arg

/-- The packet that a header flit and a payload spell; none: a reserved MODE or TYPE. -/
def meshOfHeader (h payload : Bytes) : Option MeshPacket :=
  match destOf (leAt h 0 2) (leAt h 2 1 % 4), meshTypeOf (leAt h 3 1) with
  | some d, some t =>
    some { dest := d, vc := leAt h 2 1 / 4 % 4, type := t, src := leAt h 4 2, tag := leAt h 8 2
           secure := leAt h 10 1 % 2 == 1, gma := BitVec.ofNat 64 (leAt h 16 8), arg := slice h 24 40, payload := payload }
  | _, _ => none

/-! ### Replies -/

def isAccess (t : MeshType) : Bool := t == .read || t == .write || t == .atomic

/-- A refusal of 09 Table 09.4 is counted and answered. -/
def meshRefuse (s : State) (p : MeshPacket) (src code : Nat) : State := meshError (countCode s code) p src code

/-! ### MESH_PACKET_INJECT -/

/-- The sending block's world: that of its core site. Behind an external port it is the world of what sends there - the
host function, the stream, the firmware's command - which the packet of that interface carries (08 R188). -/
def stampWorld (s : State) (p : MeshPacket) : Bool := if p.src < 0x400 then siteSecure s p.src else p.secure

def isResponse (t : MeshType) : Bool := t == .readResp || t == .writeAck || t == .atomicResp || t == .errorResp

/-- 08 Table 08.3: responses travel on VC1 and nothing else does; on VC0 the Kettle and Ladle alone inject (R199); traffic
to and from PCIe is on VC3. -/
def vcAllowed (p : MeshPacket) : Bool :=
  (isResponse p.type == (p.vc == 1)) && (p.vc != 0 || p.src == kettleSrc) &&
  (!(p.src == 0x400 + 42 || decide (p.dest = .port 42)) || p.vc == 1 || p.vc == 3)

/-- MODE 1 is translated with the remap in force at injection (08 R189, R191). -/
def stampPacket (s : State) (p : MeshPacket) : MeshPacket :=
  { p with dest := (match p.dest with | .logical c r => .site (siteOf s r c) | d => d), secure := stampWorld s p }

/-- 09 R214: until the coordinate handshake completes, a non-zero part index is refused with code 0x01. -/
def meshInject (s : State) (p : MeshPacket) : State :=
  let q := stampPacket s p
  if vcAllowed q = false then s
  else if isAccess p.type && gmaPart p.gma != 0 && !s.fab.accepted then meshRefuse s q p.src 1
  else { s with meshQ := s.meshQ ++ [q] }

def execMeshPacketInject (pkt : MeshPacket) (s : State) : Answer := onUnit (meshWf pkt) (meshInject s pkt)

/-! ### Accesses (09 R209-R213, 10 R246) -/

/-- 10 Table 10.6; none: a reserved operation. -/
def atomicOp (op : Nat) (old operand compare : W64) : Option W64 :=
  match op with
  | 0 => some (old + operand)
  | 1 => some operand
  | 2 => some (if old = compare then operand else old)
  | 3 => some (old &&& operand)
  | 4 => some (old ||| operand)
  | 5 => some (old ^^^ operand)
  | 6 => some (if old.toNat < operand.toNat then operand else old)
  | 7 => some (if operand.toNat < old.toNat then operand else old)
  | _ => none

def w64At (bs : Bytes) (i : Nat) : W64 := BitVec.ofNat 64 (leAt bs i 8)

/-- An atomic is refused with code 0x01 where its operation is reserved or its word is not aligned. -/
def atomicCode (op addr : Nat) : Option Nat := if 8 ≤ op ∨ addr % 8 ≠ 0 then some 1 else none

/-- A write to a core store by the mesh. -/
def coreAccess (s : State) (p : MeshPacket) (site : Nat) : State :=
  let a := gmaOffset p.gma % 0x100000
  let n := accessLen p
  match p.type with
  | .read =>
    let d := storeRead s site a n
    let r := storeReadCheck s site [(a, n)]
    if r.1 then meshError r.2 p site 4 else meshReply r.2 p site .readResp (zeros 40) d
  | .write => meshWriteAck (storeWrite s site a p.payload) p site
  | .atomic =>
    match atomicCode (meshSpec p) a with
    | some c => meshRefuse s p site c
    | none =>
      let old := w64At (storeRead s site a 8) 0
      let r := storeReadCheck s site [(a, 8)]
      let s := r.2
      if r.1 then meshError s p site 4
      else match atomicOp (meshSpec p) old (w64At p.payload 0) (w64At p.payload 8) with
        | some v => meshReply (storeWrite s site a (leBytes 8 v.toNat)) p site .atomicResp (zeros 40) (leBytes 8 old.toNat)
        | none => s
  | _ => s

/-! ### MESH_PACKET_DELIVER (08 R192, R202, 18 R423) -/

/-- A destination in service (08 R192). -/
def inService (s : State) : MeshDest → Bool
  | .site n => (n % 25 != 12 || (mapFind s.remapNow (n / 25)).isSome) && !coreOff s n
  | .port p =>
    if p < 24 then skUp s p
    else if p < 42 then (let st := rdF s (fpReg (p - 24) 0) 2 0; st == 4 || st == 5)
    else if p = 42 then s.life.linkUp
    else true
  | .logical _ _ => false

/-- A fault record about a mesh packet: cause 7 at a router. -/
def meshFault (s : State) (router : Nat) (p : MeshPacket) : State :=
  faultRecord s { cls := 2, cause := 7, unit := router, secure := p.secure, detail := p.gma }

/-- R192: discarded at its destination. A request is answered with ERROR_RESP: code 0x02 for a core that is retired or
disabled, 0x05 for a DOWN stack, and for the rest a code that 09 Table 09.4 does not name; any other type is recorded. -/
def undeliverable (s : State) (p : MeshPacket) : State :=
  let free := Config.freeNat s.freeNo % 256
  let s := useFree (incHold s (meshReg 0x84) 32 1)
  if isAccess p.type then
    match p.dest with
    | .site n => if coreOff s n then meshRefuse s p n 2 else meshError s p n free
    | .port n => if n < 24 ∧ skDown s n = true then meshError s p (0x400 + n) 5 else meshError s p (0x400 + n) free
    | .logical _ _ => s
  else meshFault s (destSite s p.dest) p

def sourceOf (p : MeshPacket) : Source := if p.src = kettleSrc then .kettle else .inside

/-- What serves an access to the control window: the registers come after the mesh (Machine/Window.lean). -/
abbrev WindowAccess := State → MeshPacket → Nat → State

/-- The Kettle's access to the control window: checked, and served. -/
def atWindow (win : WindowAccess) (s : State) (p : MeshPacket) (src : Nat) : State :=
  match accessCode s (sourceOf p) p.secure p.gma (accessLen p) with
  | some c => meshRefuse s p src c
  | none => win s p src

/-- A request at a core: the checks of 09 R213 and 18 R423, then the store. A core answers only for its own store. -/
def atCore (s : State) (p : MeshPacket) (n : Nat) : State :=
  let src := sourceOf p
  if isAccess p.type then
    if gmaSpace p.gma ≠ 1 ∨ gmaOffset p.gma / 0x100000 ≠ n then meshRefuse s p n 1
    else match accessCode s src p.secure p.gma (accessLen p) with
      | some c => meshRefuse s p n c
      | none => coreAccess s p n
  else { s with meshOut := p :: s.meshOut }

/-- A request at a stack link: the checks, then the base die's queue. -/
def atStack (s : State) (p : MeshPacket) (n : Nat) : State :=
  let src := sourceOf p
  if isAccess p.type then
    if gmaSpace p.gma ≠ 0 ∨ stackOf (gmaOffset p.gma / frameBytes) ≠ n then meshRefuse s p (0x400 + n) 1
    else match accessCode s src p.secure p.gma (accessLen p) with
      | some c => meshRefuse s p (0x400 + n) c
      | none => { s with stackQ := s.stackQ ++ [(n, p)] }
  else { s with meshOut := p :: s.meshOut }

/-- The index that a reply from a destination carries as its source. -/
def destSrc : MeshDest → Nat
  | .site n => n
  | .port n => 0x400 + n
  | .logical _ _ => 0

/-- The packet is ejected at a destination in service. An access belongs to this part, except at a fabric port, where it
belongs to another (09 R214); one that is brought to the wrong place is refused with code 0x01 (DESIGN CHOICE, log 157). -/
def arrive (win : WindowAccess) (s : State) (p : MeshPacket) : State :=
  let atFabric := match p.dest with | .port n => decide (24 ≤ n) && decide (n < 42) | _ => false
  if isAccess p.type && atFabric != (gmaPart p.gma != partId s) then meshRefuse s p (destSrc p.dest) 1
  else if isAccess p.type && atFabric then meshRequest s p
  else if isAccess p.type && gmaSpace p.gma == 2 then atWindow win s p (destSrc p.dest)
  else match p.dest with
    | .site n => atCore s p n
    | .port n => if n < 24 then atStack s p n else { s with meshOut := p :: s.meshOut }
    | .logical _ _ => s

/-- Its destination takes the packet now: a base die whose queue is full takes none (09 R210), nor does a fabric port
while the store of requests is full (11 R273). -/
def takesPacket (s : State) (p : MeshPacket) : Bool :=
  match p.dest with
  | .port n => !isAccess p.type || (decide (24 ≤ n) && (decide (42 ≤ n) || reqRoom s)) || decide (n < 24) &&
      decide (queueLines s n + (linesOf (gmaOffset p.gma) (accessLen p)).length ≤ 512)
  | _ => true

/-- No earlier packet of the same source, destination and VC is under way (08 R193). -/
def meshTurn (q : List MeshPacket) (n : Nat) (p : MeshPacket) : Bool :=
  !(q.take n).any (fun x => x.src == p.src && decide (x.dest = p.dest) && x.vc == p.vc)

/-- The routers a packet passes, up to the one that finds its header bad. -/
def hopsTo (router : Nat) : List (Nat × Nat) → List (Nat × Nat)
  | [] => []
  | h :: hs => if h.1 = router then [] else h :: hopsTo router hs

/-- The router that finds the header bad. -/
def badHeader (errs : List (Nat × FlitError)) : Option Nat := (errs.find? (fun e => e.2 == .header)).map Prod.fst

/-- The errors lie where the packet passes: at its routers, up to the one that finds its header bad, and in a payload flit
only where it has one. -/
def errsOk (p : MeshPacket) (routers : List Nat) (errs : List (Nat × FlitError)) : Bool :=
  let reach := match badHeader errs with
    | some r => routers.takeWhile (fun x => x != r) ++ [r]
    | none => routers
  errs.all (fun e => routers.contains e.1 && reach.contains e.1 && (e.2 != .payload || !p.payload.isEmpty)) &&
  decide ((errs.filter (fun e => e.2 == .header)).length ≤ 1)

/-- MESH_RT_CE and MESH_RT_UE at the routers that find the errors. -/
def countErrs (s : State) (errs : List (Nat × FlitError)) : State :=
  errs.foldl (fun s e => incHold s (routerReg e.1 (if e.2 = .corrected then 4 else 8)) 16 1) s

/-- MESH_RT_VC0_WAIT of the routers a VC0 packet passes: how long it waits at each, up to 7 clocks (08 R200), is not
stated for any one packet: a free value. -/
def vc0Waits (s : State) (p : MeshPacket) (hops : List (Nat × Nat)) : State :=
  if p.vc = 0 then
    useFreeN hops.length (hops.zipIdx.foldl (fun t h =>
      let w := Config.freeNat (s.freeNo + h.2) % 8
      if rdF t (routerReg h.1.1 0x0C) 7 0 < w then wrF t (routerReg h.1.1 0x0C) 7 0 w else t) s)
  else s

/-- What becomes of a packet at its destination: one with a bad payload flit is discarded by the destination interface. -/
def ejected (win : WindowAccess) (s : State) (p : MeshPacket) (bad : Bool) : State :=
  if bad || !inService s p.dest then undeliverable s p else arrive win s p

/-- R192, R202: packet `n` of those under way reaches its destination, with flit errors at routers on the way. The last
output sends it only where the destination is in service (R187, R192). -/
def deliver (win : WindowAccess) (s : State) (n : Nat) (errs : List (Nat × FlitError)) : State :=
  match s.meshQ[n]? with
  | none => s
  | some p =>
    let path := meshPath s p
    if !meshTurn s.meshQ n p || !takesPacket s p || !errsOk p (path.map Prod.fst) errs then s
    else
      let s := countErrs { s with meshQ := s.meshQ.eraseIdx n } errs
      match badHeader errs with
      | some r => meshFault (vc0Waits (countFlits s (meshFlits p) (hopsTo r path)) p (hopsTo r path)) r p
      | none =>
        let hops := if inService s p.dest then path else path.dropLast
        ejected win (vc0Waits (countFlits s (meshFlits p) hops) p hops) p (errs.any (fun e => e.2 == .payload))

/-! ### STACK_READ, STACK_WRITE, STACK_ATOMIC (09 R205, R209) -/

/-- Take a request out of a base die's queue: the first that equals it. -/
def takeRequest (s : State) (n : Nat) (p : MeshPacket) : State := drained { s with stackQ := s.stackQ.erase (n, p) }

/-- The stack serves a queued request: it is there, the link is not retraining; a write of a shared page waits for the
copy (09 R221). -/
def servable (s : State) (n : Nat) (p : MeshPacket) (t : MeshType) : Bool :=
  s.stackQ.contains (n, p) && p.type == t && !s.pot.retrain.contains n && (t == .read || !sharedHeld s (gmaOffset p.gma / frameBytes))

/-- A queued request at a stack that has gone DOWN is answered with code 0x05 (09 R207). -/
def serveStack (s : State) (n : Nat) (p : MeshPacket) (eff : State → State) : State :=
  let s := takeRequest s n p
  if skDown s n then meshError s p (0x400 + n) 5 else eff (track s (gmaOffset p.gma / frameBytes))

def stackRead (s : State) (n : Nat) (p : MeshPacket) (upsets : List (Nat × Nat)) : State :=
  if servable s n p .read then
    serveStack s n p (fun s =>
      let off := gmaOffset p.gma
      let ls := linesOf off (accessLen p)
      let s := addLineUpsets s (upsets.filter (fun u => ls.contains u.1))
      let bad := linesBad s ls
      let d := memRead s.stackMem off (accessLen p)
      let s := readLines s ls
      if bad then meshError s p (0x400 + n) 4 else meshReply s p (0x400 + n) .readResp (zeros 40) d)
  else s

def execStackRead (stack : Nat) (pkt : MeshPacket) (upsets : List (Nat × Nat)) (s : State) : Answer :=
  onUnit (decide (stack < 24)) (stackRead s stack pkt upsets)

def stackWrite (s : State) (n : Nat) (p : MeshPacket) : State :=
  if servable s n p .write then
    serveStack s n p (fun s => meshWriteAck (stackPut s (gmaOffset p.gma) p.payload) p (0x400 + n))
  else s

def execStackWrite (stack : Nat) (pkt : MeshPacket) (s : State) : Answer :=
  onUnit (decide (stack < 24)) (stackWrite s stack pkt)

/-- R246 on a word of the stack: its previous value, or the code of a refusal. -/
def stackAtomicAt (s : State) (off op : Nat) (operand compare : W64) : Except Nat W64 × State :=
  match atomicCode op off with
  | some c => (.error c, s)
  | none =>
    let ls := linesOf off 8
    let bad := linesBad s ls
    let old := w64At (memRead s.stackMem off 8) 0
    let s := readLines s ls
    if bad then (.error 4, s)
    else match atomicOp op old operand compare with
      | some v => (.ok old, stackPut s off (leBytes 8 v.toNat))
      | none => (.error 1, s)

def stackAtomic (s : State) (n : Nat) (p : MeshPacket) : State :=
  if servable s n p .atomic then
    serveStack s n p (fun s =>
      match stackAtomicAt s (gmaOffset p.gma) (meshSpec p) (w64At p.payload 0) (w64At p.payload 8) with
      | (.ok old, s) => meshReply s p (0x400 + n) .atomicResp (zeros 40) (leBytes 8 old.toNat)
      | (.error c, s) => meshRefuse s p (0x400 + n) c)
  else s

def execStackAtomic (stack : Nat) (pkt : MeshPacket) (s : State) : Answer :=
  onUnit (decide (stack < 24)) (stackAtomic s stack pkt)

/-! ### STACK_SCRUB (09 R206) -/

/-- A sweep reads every line of the stack; PERIOD_H 0 stops it. -/
def stackScrub (s : State) (n : Nat) (upsets : List (Nat × Nat)) : State :=
  if rdF s (skReg n 0x20) 7 0 = 0 ∨ skUp s n = false then s
  else
    let mine (l : Nat) : Bool := stackOf (l / 32768) == n
    let s := addLineUpsets s (upsets.filter (fun u => mine u.1))
    readLines s (s.pot.badLines.filter mine ++ s.pot.softLines.filter (fun l => mine l && !s.pot.badLines.contains l))

def execStackScrub (stack : Nat) (upsets : List (Nat × Nat)) (s : State) : Answer :=
  onUnit (decide (stack < 24)) (stackScrub s stack upsets)

/-! ### Stack links (09 R207) -/

/-- A frame with a CRC error is replayed; `failed`: the replay fails too. -/
def linkReplay (s : State) (n : Nat) (failed : Bool) : State :=
  if skUp s n && !s.pot.retrain.contains n then
    let s := incHold (incHold s (skReg n 0x14) 16 1) (skReg n 0x18) 16 1
    { s with pot := { s.pot with replays := mapPut 0 s.pot.replays n (if failed then mapGet 0 s.pot.replays n + 1 else 0) } }
  else s

def execStackLinkReplay (stack : Nat) (failed : Bool) (s : State) : Answer :=
  onUnit (decide (stack < 24)) (linkReplay s stack failed)

/-- Eight consecutive failed replays retrain the link; traffic to the stack waits. -/
def linkRetrain (s : State) (n : Nat) : State :=
  if skUp s n && decide (8 ≤ mapGet 0 s.pot.replays n) && !s.pot.retrain.contains n then
    let s := incHold s (skReg n 0x1C) 16 1
    { s with pot := { s.pot with retrain := setAdd s.pot.retrain n, replays := mapDel s.pot.replays n } }
  else s

def execStackLinkRetrain (stack : Nat) (s : State) : Answer := onUnit (decide (stack < 24)) (linkRetrain s stack)

/-- Every request waiting for a stack is answered with code 0x05. -/
def answerDown (s : State) (n : Nat) : State :=
  let s1 := s.stackQ.foldl (fun t q => if q.1 = n then meshError t q.2 (0x400 + n) 5 else t) s
  drained { s1 with stackQ := s1.stackQ.filter (fun q => q.1 != n) }

/-- A retrain ends: traffic resumes, or the stack is DOWN. -/
def retrainDone (s : State) (n : Nat) (ok : Bool) : State :=
  if s.pot.retrain.contains n then
    let s := { s with pot := { s.pot with retrain := setDel s.pot.retrain n } }
    if ok then s else answerDown (stackDown ((s.insts.map Prod.fst).foldl (stagingLost n) s) n) n
  else s

def execStackRetrainComplete (stack : Nat) (ok : Bool) (s : State) : Answer :=
  onUnit (decide (stack < 24)) (retrainDone s stack ok)

/-! ### Counters (08 R203, 09 R231) -/

def execMeshCntClr (value : W32) (s : State) : Answer := .next (clearIf value 0 [meshReg 0x84] s)

def execMeshRtCntClr (site : Nat) (value : W32) (s : State) : Answer :=
  onUnit (decide (site < 800))
    (clearIf value 1 (words (routerReg site 0x0C) 6) (clearIf value 0 (words (routerReg site 4) 2) s))

def execSpCntClr (value : W32) (s : State) : Answer :=
  .next (clearIf value 2 [spReg 0x2C, spReg 0x30] (clearIf value 1 [spReg 0x24, spReg 0x28] (clearIf value 0 (words (spReg 0x18) 3) s)))

/-- MEM clears SK_MEM_ADDR.VALID and not its LINE. -/
def execSkCntClr (stack : Nat) (value : W32) (s : State) : Answer :=
  onUnit (decide (stack < 24))
    (let s := clearIf value 0 [skReg stack 8, skReg stack 0x0C] s
     let s := if fld value 0 0 = 1 then wbit s (skReg stack 0x10) 31 false else s
     clearIf value 1 (words (skReg stack 0x14) 3) s)

end Sys2Proof.Machine
end

