-- ==== Sys2Proof/Machine/Reset.lean ====
section
/-! DEFINITION. What each reset keeps and loses (19 R445-R448, Table 19.5, 17 R397, R414). -/

namespace Sys2Proof.Machine

/-! ### Tiles of the part -/

/-- Every tile, by rising key (02 R62). -/
def allTiles : List Nat :=
  ((List.range 800).map (fun site => ((List.range 17).filter (fun t => tileWf site t)).map (fun t => tkey site t))).flatten

/-- A site disabled by grade (01 R17). -/
def gradeOff (s : State) (site : Nat) : Bool := decide (s.grade = .g8170) && (site % 25 == 0 || site % 25 == 24)

/-- A site whose logical column a remap of its row has moved to column 12 (08 R189). -/
def remappedAway (s : State) (site : Nat) : Bool := (mapFind s.remapNow (site / 25)).any (fun l => physCol s l == site % 25)

/-- A site in use as a core: column 12 only where its row is remapped. -/
def activeSite (s : State) (site : Nat) : Bool :=
  if site % 25 = 12 then (mapFind s.remapNow (site / 25)).isSome else !gradeOff s site && !remappedAway s site

/-- The tiles a start brings up: those of the sites in use, and every spare tile (01 R17, 07 Table 07.5). -/
def tileUsed (s : State) (k : Nat) : Bool := k % 32 == 16 || activeSite s (k / 32)

/-! ### Control-window registers -/

/-- The words of the VHK domain (17 R418). -/
def vhkWord (o : Nat) : Bool := o == hkReg 0x50 || (decide (hkReg 0x60 ≤ o) && decide (o < hkReg 0x70))

/-- Words that a warm reset leaves: the counts since cold reset (06 Table 06.7, 07 Table 07.8, 08 Table 08.7, 09 Table
09.9, 20 Table 20.7). -/
def warmWord (o : Nat) : Bool :=
  o == chReg 0x28 || o == calReg 0x24 || o == meshReg 0x88 || o == spReg 0x10 || o == fltReg 0x18

/-- Broken sensors, as HK_BROKEN0-3 hold them. -/
def sensorBroken (s : State) (c : Nat) : Bool := rbit s (hkReg (0x60 + 4 * (c / 32))) (c % 32)
def brokenSensors (s : State) : List Nat := (List.range 128).filter (sensorBroken s)

/-- BROKEN of HK_STATUS and of every channel, from the VHK domain. -/
def showBroken (s : State) : State :=
  let l := brokenSensors s
  l.foldl (fun s c => wbit s (hkReg (0x100 + 4 * c)) 16 true) (wrF s (hkReg 4) 15 8 l.length)

/-- A stack stays DOWN until a cold reset (09 R207). -/
def keepDown (old : State) (s : State) : State := ((List.range 24).filter (skDown old)).foldl (fun s n => wrF s (skReg n 0) 1 0 2) s

/-- POLICY_LOCK clears only at a cold reset (18 R436). -/
def keepLock (old : State) (s : State) : State := if rbit old (secReg 0) 10 then wbit s (secReg 0) 10 true else s

/-- FAB_ID is taken again from the COORD that was accepted (10 R242). -/
def keepId (s : State) : State :=
  if s.fab.accepted then wbit (wrF s (fabReg 4) 12 0 s.fab.idCoord.toNat) (fabReg 4) 13 true else s

/-- A word of SEC_CERT. -/
def certWord (o : Nat) : Bool := decide (secReg 0x2000 ≤ o) && decide (o < secReg 0x4000)

/-- SEC_CERT from the ledger (18 Table 18.7). -/
def loadCert (s : State) : State := (s.sec.cert.filter (fun w => certWord w.1)).foldl (fun s w => wr s w.1 w.2) s

/-! ### The rest of the state -/

/-- Housekeeping after a reset that leaves VHK on: the converters and Trivet go on, the firmware's control starts
afresh. -/
def hkKept (h : Hk) : Hk :=
  { vinOn := h.vinOn
    chans := h.chans
    trips := h.trips
    ms := h.ms
    cool := h.cool
    tripped := h.tripped
    sledCap := h.sledCap
    sledEff := h.sledEff }

/-- Worlds, keys and identity are the ledger's; sessions end. -/
def secKept (x : Sec) : Sec :=
  { x with
    spdm := false
    ide := false
    doeOut := [] }

/-- Pins and fuses stay. -/
def lifeKept (l : Life) (rails : Nat) : Life :=
  { rails := rails
    perst := l.perst
    lcState := l.lcState
    lcCount := l.lcCount
    secMin := l.secMin
    strap := l.strap }

/-- Table 19.5. `cold`: COORD, ACCEPTED and what only a cold reset clears go; `vhk`: VHK stays on; `rails`: the rails
that stay up. -/
def resetPart (s : State) (cold vhk : Bool) (rails : Nat) : State :=
  let t : State := { State.reset with
    grade := s.grade
    cw := s.cw.filter (fun w => (vhk && vhkWord w.1) || (!cold && warmWord w.1))
    hostMem := s.hostMem
    msixSent := s.msixSent
    ifpOut := s.ifpOut
    arrays := s.arrays
    remapNow := s.remapNow
    retiredTiles := s.retiredTiles
    ledger := s.ledger
    ledgerSeq := s.ledgerSeq
    fab := if cold then {} else { coord := s.fab.coord, idCoord := s.fab.idCoord, i3cAddr := s.fab.i3cAddr, accepted := s.fab.accepted, waiting := s.fab.waiting }
    hk := if vhk then hkKept s.hk else { vinOn := s.hk.vinOn }
    sec := secKept s.sec
    life := lifeKept s.life rails
    freeNo := s.freeNo
    pending := s.pending }
  let t := showBroken (loadCert t)
  if cold then t else keepId (keepLock s (keepDown s t))

/-- A warm reset leaves VHK, VKETTLE, VMESH and VSERDES up (19 R441). -/
def warmReset (s : State) : State := resetPart s false true (Nat.min 4 s.life.rails)

/-- A cold reset that follows no removal of VIN: VHK stays on. -/
def coldReset (s : State) : State := resetPart s true true 1

end Sys2Proof.Machine
end

