-- ==== Sys2Proof/Machine/Power.lean ====
section
/-! DEFINITION. Power, housekeeping and thermal: the converters, broken sensors, the cap controller, throttle and rate
clamp, the arithmetic clock, Trivet, and near-limit reporting (17 R396-R419). -/

namespace Sys2Proof.Machine

/-! ### Helpers -/

def modHk (s : State) (f : Hk → Hk) : State := { s with hk := f s.hk }
def chanAt (s : State) (c : Nat) : ChanSt := mapGet {} s.hk.chans c
def setChan (s : State) (c : Nat) (x : ChanSt) : State := modHk s (fun h => { h with chans := mapPut {} h.chans c x })

/-- VHK is in regulation: the converters, Trivet and the I3C target run. -/
def vhkOn (s : State) : Bool := s.hk.vinOn && decide (1 ≤ s.life.rails)

/-- The Kettle firmware runs (19 R442) and its rails are up. -/
def kettleRuns (s : State) : Bool := s.life.fw.isSome && !s.hk.tripped

/-- An event of HK_EVENTS: its bit is set, and PF0 vector 65 and PF1 vector 9 are signalled (R417). -/
def hkEvent (s : State) (bit : Nat) : State := signal (signal (wbit s (hkReg 8) bit true) 0 65) 1 9

/-- A bit of HK_STATUS takes a value; a change is an event. -/
def hkFlag (s : State) (bit : Nat) (v : Bool) : State :=
  if rbit s (hkReg 4) bit == v then s else hkEvent (wbit s (hkReg 4) bit v) bit

/-! ### The arithmetic clock (R399, R400), in steps of 100 MHz -/

def fGrade (s : State) : Nat := match s.grade with | .g8200 => 33 | .g8170 => 30
def clampClock (s : State) : Nat := match s.grade with | .g8200 => 16 | .g8170 => 15
def fAct (s : State) : Nat := rdF s (hkReg 0x0C) 5 0
def fCap (s : State) : Nat := rdF s (hkReg 0x0C) 13 8
def fThr (s : State) : Nat := rdF s (hkReg 0x0C) 21 16
def fClamp (s : State) : Nat := rdF s (hkReg 0x0C) 29 24

/-- The lowest of the four terms, never below 1.2 GHz. -/
def targetClock (s : State) : Nat := Nat.max 12 (Nat.min (fGrade s) (Nat.min (fCap s) (Nat.min (fThr s) (fClamp s))))

def setClock (s : State) (f : Nat) : State :=
  modHk (wrF s (hkReg 0x0C) 5 0 f) (fun h => { h with at12 := if 12 < f then 0 else h.at12 })

/-- A fall is made at once and VARITH follows; a rise begins with VARITH, one step. -/
def retarget (s : State) : State :=
  let t := targetClock s
  if t < fAct s then modHk (setClock s t) (fun h => { h with varith := t })
  else if fAct s < t then modHk s (fun h => { h with varith := fAct s + 1 })
  else s

/-- The clock follows VARITH, and the next step of a rise begins. -/
def clockStep (s : State) : State :=
  if kettleRuns s && decide (fAct s < s.hk.varith) then
    if s.hk.varith ≤ targetClock s then retarget (setClock s s.hk.varith)
    else modHk s (fun h => { h with varith := fAct s })
  else s

def execArithClockStep (s : State) : Answer := .next (clockStep s)

/-! ### Trivet (R414, R415) -/

/-- Trips of the last 60 min. -/
def recentTrips (s : State) : List Nat := s.hk.trips.filter (fun t => decide (s.hk.ms - t < 3600000))

def latched (s : State) : Bool := rbit s (hkReg 0x50) 11

/-- Every rail but VHK goes off, and the cause is recorded; the fourth trip in 60 min latches. -/
def trip (s : State) (cause channel : Nat) : State :=
  if s.hk.tripped || !vhkOn s then s
  else
    let l := recentTrips s ++ [s.hk.ms]
    let s := wrF (wrF s (hkReg 0x50) 3 0 cause) (hkReg 0x50) 10 4 channel
    let s := wrF s (hkReg 0x50) 23 16 (Nat.min 255 (rdF s (hkReg 0x50) 23 16 + 1))
    let s := if 4 ≤ l.length then wbit s (hkReg 0x50) 11 true else s
    resetPart (modHk s (fun h => { h with trips := l, tripped := true, cool := 0 })) false true 1

def execInputOvercurrentShutdown (s : State) : Answer := .next (trip s 3 0)
def execOvervoltageShutdown (s : State) : Answer := .next (trip s 4 0)

/-- VIN within its operating range, as channel 155 reads it. -/
def vinInRange (s : State) : Bool := (chanAt s 155).mean.any (fun v => decide (44000 ≤ v) && decide (v ≤ 59000))

/-- THERMTRIP_N is released and the part starts cold; the trip is an event, and its fault record is written (R414, 20
R468). -/
def trivetRestart (s : State) : State :=
  if s.hk.tripped && !latched s && decide (5000 ≤ s.hk.cool) && vinInRange s then
    let s := coldReset (modHk s (fun h => { h with tripped := false, cool := 0 }))
    faultRecord (hkEvent s 9) { cls := 4, cause := 21, unit := Config.noUnit }
  else s

def execTrivetRestart (s : State) : Answer := .next (trivetRestart s)

/-- The I3C write of TRIP_CLEAR. -/
def execTripClear (s : State) : Answer :=
  .next (if vhkOn s then modHk (wbit s (hkReg 0x50) 11 false) (fun h => { h with cool := 0 }) else s)

/-- Every rail goes off, VHK with them (R397). -/
def execVinRemoved (s : State) : Answer := .next (resetPart (modHk s (fun h => { h with vinOn := false })) true false 0)

/-! ### Broken sensors (R405, R413) -/

/-- The neighbours of a temperature channel. -/
def neighbours (c : Nat) : List Nat :=
  if c < 96 then (List.range 96).filter (fun x => dieDist x c == 1)
  else if c < 120 then (List.range 24).filterMap (fun n => if n / 12 = (c - 96) / 12 ∧ Nat.dist n (c - 96) = 1 then some (96 + n) else none)
  else (List.range 4).filterMap (fun i => if 4 * (c / 4) + i = c then none else some (4 * (c / 4) + i))

/-- A sensor is newly broken. -/
def markBroken (s : State) (c : Nat) : State :=
  if sensorBroken s c then s
  else
    let s := showBroken (wbit s (hkReg (0x60 + 4 * (c / 32))) (c % 32) true)
    if kettleRuns s then faultRecord (hkEvent s 8) { cls := 1, cause := 18, unit := c } else s

/-- The level trip of a channel, 1/256 °C (Table 17.5). -/
def levelTrip (s : State) (c : Nat) : Int := if (neighbours c).any (sensorBroken s) then 102 * 256 else 112 * 256

/-! ### HK-S conversions (R404, R406, R410) -/

/-- A conversion that gives a temperature. -/
def givesTemp (code : Nat) (v : Int) : Bool :=
  code != 0 && code != 0xFFF && decide (-(40 * 256) ≤ v) && decide (v ≤ 150 * 256)

def tempConv (s : State) (c code : Nat) (v : Int) : State :=
  let x := chanAt s c
  if givesTemp code v then
    let thr := levelTrip s c
    let hit := decide (thr ≤ v) && x.prev.any (fun p => decide (thr ≤ p))
    let s := setChan s c { x with
      sum := x.sum + v
      count := x.count + 1
      bad := 0
      prev := some v
      last5 := (v :: x.last5).take 5
      bsum := x.bsum + v
      bcount := x.bcount + 1 }
    if hit then trip s 1 c else s
  else
    let s := setChan s c { x with bad := x.bad + 1, prev := none }
    if 3 ≤ x.bad + 1 then markBroken s c else s

/-- The test DAC's codes of a slow round (R409). -/
def dacCodes : List Nat := [0, 128, 256, 384, 512, 640, 768, 896, 1023]

/-- The code the DAC stands at: HK_TDAC's while it drives a target. -/
def dacCode (s : State) : Nat :=
  if rbit s (hkReg 0x20) 31 then rdF s (hkReg 0x20) 9 0 else dacCodes.getD (Config.dacStep s.hk.dacIndex % 9) 0

def sumConv (s : State) (c : Nat) (v : Int) : State :=
  let x := chanAt s c
  setChan s c { x with sum := x.sum + v, count := x.count + 1 }

/-- The loopback of the test DAC, which differs from 4 x code by at most 8. -/
def dacConv (s : State) (code : Nat) : State :=
  let off := decide (8 < Nat.dist code (4 * dacCode s))
  modHk (sumConv s 152 code) (fun h => { h with dacIndex := h.dacIndex + 1, dacBad := h.dacBad || off })

/-- A channel is converted: `value` is its code as the part's trims linearise it. Channels 156-159 are discarded. -/
def conversion (s : State) (c code : Nat) (value : Int) : State :=
  if !vhkOn s then s
  else if c < 128 then tempConv s c code value
  else if c = 152 then dacConv s code
  else if c < 156 then sumConv s c value
  else s

def execHksConversion (channel code : Nat) (value : Int) (s : State) : Answer :=
  onUnit (decide (channel < 160)) (conversion s channel code value)

/-! ### Slices (R407, R409) -/

def sliceFailed (s : State) (j : Nat) : Bool := rbit s (hkReg 0x24) j
def failedSlices (s : State) : List Nat := (List.range 17).filter (sliceFailed s)
def spareAt (s : State) : Nat := rdF s (hkReg 0x24) 21 17

/-- A slice fails: slice 16 keeps its channels where it is free, two leave the converters DEGRADED, and fewer than 8
working slices trip, whether or not the firmware runs to record it (R414). -/
def sliceFail (s : State) (j : Nat) : State :=
  if sliceFailed s j then s
  else
    let first := (failedSlices s).isEmpty
    let s := wbit s (hkReg 0x24) j true
    let s := if j = 16 then wrF s (hkReg 0x24) 21 17 31 else if first then wrF s (hkReg 0x24) 21 17 j else s
    let n := (failedSlices s).length
    let s := if n < 2 then s else if kettleRuns s then hkFlag s 6 true else wbit s (hkReg 4) 6 true
    let s := if kettleRuns s then faultRecord s { cls := if 9 < n then 4 else 1, cause := 17, unit := j } else s
    if 9 < n then trip s 5 0 else s

/-- The two sets agree within 2 LSB at every point. -/
def dwellOk (a b : List Int) : Bool := (List.range 4).all (fun i => decide ((a.getD i 0 - b.getD i 0).natAbs ≤ 2))

/-- Slice 16 covers a slice under self-test (19 Table 19.6). -/
def slicesTested (s : State) : Bool := s.bist.any (fun b => b.test == 0 && b.running.any (fun u => decide (u < 17)))

/-- Slice 16's dwell ends: the next slice in turn, or the dwell again; the third failure marks the slice. -/
def sliceDwell (s : State) (a b : List Int) : State :=
  if !vhkOn s || !(failedSlices s).isEmpty || slicesTested s then s
  else if dwellOk a b then
    modHk (wrF s (hkReg 0x24) 21 17 ((spareAt s + 1) % 16)) (fun h => { h with dwellFails := 0 })
  else if 3 ≤ s.hk.dwellFails + 1 then sliceFail (modHk s (fun h => { h with dwellFails := 0 })) (spareAt s)
  else modHk s (fun h => { h with dwellFails := h.dwellFails + 1 })

def execHksSliceDwellEnd (setA setB : List Int) (s : State) : Answer := .next (sliceDwell s setA setB)

/-- The slice that converts channel 152: slice 8, slice 16 in its place, or, where both have failed or slice 16 stands
elsewhere, the working slice whose turn the channel is among the failed slices' channels (R404). -/
def loopSlice (s : State) : Nat :=
  if spareAt s = 8 ∧ sliceFailed s 16 = false then 16
  else if sliceFailed s 8 then
    let lost := (List.range 160).filter (fun c => sliceFailed s (c % 16) && (c % 16 != spareAt s || sliceFailed s 16))
    let ws := (List.range 17).filter (fun j => !sliceFailed s j)
    ws.getD ((lost.idxOf 152) % Nat.max 1 ws.length) 8
  else 8

/-! ### HK-I (R408, R409) -/

/-- The window is not used for P_EST: the test DAC drives one of its converters (R409, 19 Table 19.6). -/
def hkiTested (s : State) : Bool :=
  (rbit s (hkReg 0x20) 31 && decide (17 ≤ rdF s (hkReg 0x20) 20 16)) ||
  s.bist.any (fun b => b.test == 0 && b.running.any (fun u => decide (17 ≤ u)))

/-- Channel 155 differs from HK-I VIN by more than 2 %: VIN is code x 64 V / 2^20. -/
def vinDiffers (s : State) (vin : Nat) : Bool :=
  (chanAt s 155).mean.any (fun m => decide ((vin : Int) * 125 < (m * 2048 - (vin : Int) * 125).natAbs * 50))

/-- The correction factor: the input power over the mean of the uncorrected estimates of the window. An estimate of 0
gives a factor that the spec does not state. -/
def correction (s : State) (vin iin : Nat) : State :=
  if s.hk.rawCount = 0 then s
  else if s.hk.rawSum = 0 then
    modHk (useFreeN 2 s) (fun h => { h with corrNum := Config.freeNat s.freeNo, corrDen := Config.freeNat (s.freeNo + 1) + 1 })
  else
    modHk s (fun h => { h with corrNum := vin * iin * h.rawCount * 1552000, corrDen := 2 ^ 28 * h.rawSum * 100 })

/-- An integration window ends. -/
def hkiWindow (s : State) (vin iin iib : Nat) : State :=
  if !vhkOn s then s
  else
    let word (v : Nat) : W32 := BitVec.ofNat 32 (v % 0x100000 + 0x80000000)
    let s := wr (wr (wr s (hkReg 0x28) (word vin)) (hkReg 0x2C) (word iin)) (hkReg 0x30) (word iib)
    let s := wrF s (hkReg 0x10) 31 16 (Nat.min 0xFFFF (roundEven ((vin * iin : Nat) : Int) (2 ^ 24)).toNat)
    let s := modHk s (fun h => { h with hkiFails := if vinDiffers s vin then h.hkiFails + 1 else 0 })
    let s := if kettleRuns s && decide (3 ≤ s.hk.hkiFails) then hkFlag s 7 true else s
    let s := if kettleRuns s && !rbit s (hkReg 4) 7 && !hkiTested s then correction s vin iin else s
    modHk s (fun h => { h with rawSum := 0, rawCount := 0, hkiWin := rdF s (hkReg 0) 0 0 })

def execHkiWindowEnd (vin iin iib : Nat) (s : State) : Answer := .next (hkiWindow s vin iin iib)

/-! ### RATE_BLOCK_END (R412) -/

/-- A 100 µs block of a channel closes. -/
def closeBlock (x : ChanSt) : ChanSt :=
  { x with
    blocks := ((if x.bcount = 0 then none else some (x.bsum, x.bcount)) :: x.blocks).take 11
    bsum := 0
    bcount := 0 }

/-- The latest block mean minus that of 1 ms earlier, 1/256 °C per ms, rounded down. -/
def riseRate (x : ChanSt) : Option Int :=
  match x.blocks.getD 0 none, x.blocks.getD 10 none with
  | some (s0, c0), some (s1, c1) => some ((s0 * c1 - s1 * c0) / (c0 * c1 : Nat))
  | _, _ => none

/-- The greatest rate of rise, the lower channel first; a broken sensor's is 0. -/
def fastest (s : State) : Int × Nat :=
  (List.range 128).foldl (fun b c =>
    match (if sensorBroken s c then none else riseRate (chanAt s c)) with
    | some r => if b.1 < r then (r, c) else b
    | none => b) (0, 0)

/-- The clamp and the warning hold until every rate has stayed below 2 °C/ms for 10 ms. -/
def rateQuiet (s : State) : State :=
  let s := modHk s (fun h => { h with clampQuiet := h.clampQuiet + 1 })
  if s.hk.clampQuiet < 100 then s
  else
    let s := hkFlag s 1 false
    if rbit s (hkReg 4) 2 then retarget (hkFlag (wrF s (hkReg 0x0C) 29 24 (fGrade s)) 2 false) else s

def rateHigh (s : State) (r : Int) : State :=
  let s := hkFlag (modHk s (fun h => { h with clampQuiet := 0 })) 1 true
  if 6 * 256 ≤ r ∧ rbit s (hkReg 4) 2 = false then
    retarget (hkFlag (incHold (wrF s (hkReg 0x0C) 29 24 (clampClock s)) (hkReg 0x48) 16 1) 2 true)
  else s

def rateBlock (s : State) : State :=
  if !vhkOn s then s
  else
    let s := (List.range 128).foldl (fun s c => setChan s c (closeBlock (chanAt s c))) s
    let m := fastest s
    if 20 * 256 ≤ m.1 then trip s 2 m.2
    else if !kettleRuns s then s
    else if 2 * 256 ≤ m.1 then rateHigh s m.1
    else rateQuiet s

def execRateBlockEnd (s : State) : Answer := .next (rateBlock s)

/-! ### SLOW_ROUND_END: the channels -/

/-- A channel's round closes: its mean, rounded to the nearest, and its register. -/
def closeRound (s : State) (c : Nat) : State :=
  let x := chanAt s c
  if x.count = 0 then s
  else
    let m := roundEven x.sum x.count
    wrF (setChan s c { x with mean := some m, sum := 0, count := 0 }) (hkReg (0x100 + 4 * c)) 15 0 (unsgn 16 m)

/-- 840 times the mean of the unbroken neighbours. -/
def aroundMean (s : State) (c : Nat) : Option Int :=
  let l := (neighbours c).filterMap (fun n => if sensorBroken s n then none else (chanAt s n).mean)
  if l.isEmpty then none else some (l.sum * 840 / l.length)

/-- A sensor is stuck: its neighbours' mean has moved more than 2.0 °C while its own stayed within 0.25 °C. -/
def isStuck (s : State) (c : Nat) : Bool :=
  match (chanAt s c).mean, aroundMean s c, (chanAt s c).anchor with
  | some own, some nm, some a => !sensorBroken s c && decide ((own - a.1).natAbs ≤ 64) && decide (2 * 256 * 840 < (nm - a.2).natAbs)
  | _, _, _ => false

/-- The anchor is renewed where the sensor's mean has moved. -/
def renewAnchor (s : State) (c : Nat) : ChanSt :=
  let x := chanAt s c
  match x.mean, aroundMean s c with
  | some own, some nm =>
    if x.anchor.any (fun a => decide ((own - a.1).natAbs ≤ 64)) then x else { x with anchor := some (own, nm) }
  | _, _ => x

def stuckCheck (s : State) : State :=
  let stuck := (List.range 128).filter (isStuck s)
  let cs := (List.range 128).map (renewAnchor s)
  let s1 := cs.zipIdx.foldl (fun t x => setChan t x.2 x.1) s
  stuck.foldl markBroken s1

/-- Three consecutive rounds with a reading of channel 152 that is off mark its slice (R409). -/
def dacRound (s : State) : State :=
  let bad := s.hk.dacBad
  let s := modHk s (fun h => { h with dacIndex := 0, dacBad := false, dacFails := if bad then h.dacFails + 1 else 0 })
  if 3 ≤ s.hk.dacFails then sliceFail (modHk s (fun h => { h with dacFails := 0 })) (loopSlice s) else s

/-! ### SLOW_ROUND_END: throttle (R411) -/

/-- What a channel counts as in T_HOT. -/
def hotValue (s : State) (c : Nat) : Option Int := if sensorBroken s c then some brokenTemp else (chanAt s c).mean

def hottest (s : State) : Option (Int × Nat) :=
  (List.range 128).foldl (fun b c =>
    match hotValue s c, b with
    | some v, some x => if x.1 < v then some (v, c) else b
    | some v, none => some (v, c)
    | none, _ => b) none

/-- F_GRADE - 0.4 GHz x (T_HOT - 95 °C), rounded down, between 1.2 GHz and F_GRADE. -/
def throttleAt (s : State) (t : Int) : Nat := (clampI 12 (fGrade s) ((fGrade s : Int) + (24320 - t) / 64)).toNat

/-- F_THR falls by any amount and rises by one step. -/
def throttle (s : State) : State :=
  match hottest s with
  | none => s
  | some (t, c) =>
    let s := wrF (wrF s (hkReg 0x1C) 15 0 (unsgn 16 t)) (hkReg 0x1C) 22 16 c
    let n := throttleAt s t
    let f := if n ≤ fThr s then n else Nat.min n (fThr s + 1)
    hkFlag (wrF s (hkReg 0x0C) 21 16 f) 0 (decide (f < fGrade s))

/-! ### SLOW_ROUND_END: the power cap (R401-R403) -/

/-- Voltage and current channels of the rails. -/
def railPairs : List (Nat × Nat) :=
  [(128, 129), (130, 131), (132, 133), (134, 135), (136, 137), (138, 139), (142, 143), (144, 145), (146, 147), (148, 149)]

def chanNat (s : State) (c : Nat) : Nat := ((chanAt s c).mean.getD 0).toNat

/-- The sum over the rails, 1/16 mW. -/
def railSum (s : State) : Nat := (railPairs.map (fun p => chanNat s p.1 * chanNat s p.2)).sum

/-- The cap in force. -/
def capForce (s : State) : Nat :=
  let h := rdF s (hkReg 0x14) 10 0
  if s.hk.sledEff = 0 then h else Nat.min h s.hk.sledEff

/-- SLED_CAP as it is taken (Table 17.11). -/
def sledTaken (v : Nat) : Nat := if v = 0 then 0 else clampN 800 1800 v

def testZones (s : State) : Nat := clampN 1 74 (rdF s (btReg 0) 6 0)

/-- Effective zones of self-test (R403). -/
def zonesNow (s : State) : Nat := if s.hk.zonesEff = 0 then testZones s else Nat.min (testZones s) s.hk.zonesEff

def reduced (s : State) : Bool := s.hk.progEff != 0 || s.hk.zonesEff != 0

/-- One further reduction, at 1.2 GHz. -/
def reduceOne (s : State) : State :=
  if 96 < progConc s then modHk s (fun h => { h with progEff := Nat.max 96 (progConc s / 2) })
  else if 1 < zonesNow s then modHk s (fun h => { h with zonesEff := 1 })
  else s

/-- One reduction is undone by a doubling, the zones first. -/
def restoreOne (s : State) : State :=
  if s.hk.zonesEff ≠ 0 then
    modHk s (fun h => { h with zonesEff := if testZones s ≤ 2 * h.zonesEff then 0 else 2 * h.zonesEff })
  else
    let full := clampN 1 1536 (rdF s (imgReg 0) 10 0)
    modHk s (fun h => { h with progEff := if full ≤ 2 * h.progEff then 0 else 2 * h.progEff })

def setCapClock (s : State) (f : Nat) : State := wrF s (hkReg 0x0C) 13 8 f

/-- P_EST exceeds the cap. -/
def capOver (s : State) (big : Bool) : State :=
  let low := fAct s == 12
  let s := modHk (setCapClock s (Nat.max 12 (fCap s - (if big then 4 else 1)))) (fun h => { h with capQuiet := 0 })
  let s := if low then reduceOne s else s
  if low && decide (100 ≤ s.hk.at12) then hkFlag s 3 true else s

/-- P_EST is below 97 % of the cap. -/
def capLow (s : State) : State :=
  let s := modHk s (fun h => { h with capQuiet := h.capQuiet + 1 })
  if s.hk.capQuiet < 10 then s
  else if reduced s then
    let s := restoreOne s
    if reduced s then s else modHk s (fun h => { h with capQuiet := 0 })
  else
    let f := Nat.min (fCap s + 1) (fAct s + 1)
    modHk (setCapClock s (Nat.max (fCap s) f)) (fun h => { h with capQuiet := 0 })

/-- P_EST, 1/16 W, is `n / d`. -/
def capControl (s : State) (n d : Nat) : State :=
  let cap := capForce s * 16
  if cap * d < n then capOver s (decide (cap * 102 * d < n * 100))
  else
    let s := hkFlag s 3 false
    if n * 100 < cap * 97 * d then capLow s
    else if reduced s && decide (10 ≤ s.hk.capQuiet) then s
    else modHk s (fun h => { h with capQuiet := 0 })

/-- The firmware's power control at the end of a round. -/
def powerRound (s : State) : State :=
  let raw := railSum s
  let n := raw * 100 * s.hk.corrNum
  let d := 97000 * s.hk.corrDen
  let s := wrF s (hkReg 0x10) 15 0 (Nat.min 0xFFFF (roundEven n d).toNat)
  let s := modHk s (fun h => { h with
    rawSum := h.rawSum + raw
    rawCount := h.rawCount + 1
    sledEff := sledTaken h.sledCap
    at12 := if fAct s = 12 then h.at12 + 1 else 0 })
  let s := capControl (wrF s (hkReg 0x14) 26 16 (capForce s)) n d
  hkFlag s 4 (reduced s)

/-! ### SLOW_ROUND_END: calibration triggers (07 R174) -/

def tempTrigger (s : State) (k : Nat) : State :=
  if calDt s < (tileTemp s k - sgn 16 (rdFA s (tileReg k 0x1004) 15 0)).natAbs then calTrigger s k 4 1 else s

def tempTriggers (s : State) : State :=
  if rbit s (calReg 4) 10 then (allTiles.filter (tileUsed s)).foldl tempTrigger s else s

/-- The temperature terms are recomputed, and act at once on tiles that are not SERVING (07 R167, R176). -/
def tempTerms (s : State) : State :=
  { s with tiles := s.tiles.map (fun t =>
      let x := tileTemp s t.1
      (t.1, { t.2 with tempNext := x, tempNow := if tileState s t.1 = 2 then t.2.tempNow else x })) }

/-! ### SLOW_ROUND_END -/

/-- The cooling condition: every unbroken temperature channel below 80.0 °C. -/
def coolNow (s : State) : Bool :=
  (List.range 128).all (fun c => sensorBroken s c || (chanAt s c).mean.any (fun m => decide (m < 80 * 256)))

/-- What the firmware does at the end of a round. -/
def firmwareRound (s : State) : State :=
  let s := powerRound (throttle s)
  let s := if rbit s (hkReg 4) 0 then incWrap s (hkReg 0x44) 1 else s
  let s := if rbit s (hkReg 4) 3 then incWrap s (hkReg 0x4C) 1 else s
  tempTriggers (tempTerms (ageArrays (retarget s)))

def slowRound (s : State) : State :=
  if !vhkOn s then s
  else
    let s := modHk s (fun h => { h with ms := h.ms + 1 })
    let s := (List.range 156).foldl closeRound s
    let s := stuckCheck (dacRound s)
    if s.hk.tripped then modHk s (fun h => { h with cool := if coolNow s then h.cool + 1 else 0 })
    else if kettleRuns s then firmwareRound s
    else s

def execSlowRoundEnd (s : State) : Answer := .next (slowRound s)

/-! ### Near-limit reporting (R416) -/

/-- The near-limit mean, as sum and count; a broken sensor reads 97.0 °C. -/
def nearMean (s : State) (c : Nat) : Option (Int × Nat) :=
  if sensorBroken s c then some (brokenTemp, 1)
  else
    let l := (chanAt s c).last5
    if l.isEmpty then none else some (l.sum, l.length)

/-- A channel at or above 90.0 °C, with its mean to the nearest 1/256 °C. -/
def nearChan (s : State) (c : Nat) : Option (Nat × Int) :=
  match nearMean s c with
  | some (t, n) => if 90 * 256 * (n : Int) ≤ t then some (c, roundEven t n) else none
  | none => none

/-- Insert by descending temperature, the lower channel first among equals. -/
def nearInsert (x : Nat × Int) : List (Nat × Int) → List (Nat × Int)
  | [] => [x]
  | y :: l => if y.2 < x.2 then x :: y :: l else y :: nearInsert x l

def nearList (s : State) : List (Nat × Int) := ((List.range 128).filterMap (nearChan s)).foldl (fun l x => nearInsert x l) []

/-- The record of Table 17.6. -/
def nearRecord (s : State) (l : List (Nat × Int)) : Bytes :=
  let entry (i : Nat) : Bytes :=
    match l[i]? with
    | some x => leBytes 1 x.1 ++ leBytes 1 (if sensorBroken s x.1 then 1 else 0) ++ leBytes 2 (unsgn 16 x.2)
    | none => zeros 4
  leBytes 4 s.hk.nlSeq.toNat ++ leBytes 8 s.rackTime.toNat ++ leBytes 1 l.length ++ zeros 3 ++ ((List.range 12).map entry).flatten

def nearLimit (s : State) : State :=
  let size := rdF s (hkReg 0x3C) 15 0
  let l := nearList s
  if !kettleRuns s || !rbit s (hkReg 0) 1 || size == 0 || l.isEmpty then s
  else
    let base := rd s (hkReg 0x38) ++ rd s (hkReg 0x34)
    let s := dmaWrite s 0 (base + BitVec.ofNat 64 (s.hk.nlIndex % size * 64)) (nearRecord s l)
    let s := modHk s (fun h => { h with nlSeq := h.nlSeq + 1, nlIndex := (h.nlIndex + 1) % size })
    hkFlag s 5 true

def execNearLimitRecord (s : State) : Answer := .next (nearLimit s)

/-- 1 ms without a record. -/
def execNearLimitEpisodeEnd (s : State) : Answer := .next (if kettleRuns s then hkFlag s 5 false else s)

/-! ### Commands and register writes (R402, R417-R419) -/

/-- POWER_SET: the host cap and the near-limit mode; the response gives the cap in force. -/
def powerSet (s : State) (m : MbxId) : State :=
  let s := wbit (wrF s (hkReg 0x14) 10 0 (reqN s m 8 2)) (hkReg 0) 1 (reqN s m 10 1 % 2 == 1)
  let s := wrF s (hkReg 0x14) 26 16 (capForce s)
  reply s m (leBytes 2 (capForce s) ++ zeros 6)

def execPowerSet (m : MbxId) (s : State) : Answer :=
  let cap := reqN s m 8 2
  onMbx m (runCmd s m 0x0701 8
    (fieldCheck s m [(8, decide (800 ≤ cap) && decide (cap ≤ 1800)), (10, decide (reqN s m 10 1 ≤ 1)), reqZero s m 11 5])
    (powerSet s m))

/-- The I3C write of SLED_CAP: in force from the next slow round. -/
def sledWrite (s : State) (v : Nat) : State :=
  if !vhkOn s || s.hk.sledCap == v % 2048 then s
  else
    let s := modHk s (fun h => { h with sledCap := v % 2048 })
    if kettleRuns s then hkEvent s 10 else s

def execSledCapWrite (value : Nat) (s : State) : Answer := .next (sledWrite s value)

/-- A write of a register by its map (00 R5). -/
def regStore (s : State) (o : Nat) (v : W32) : State :=
  match regDesc o with
  | some d => wr s o (regNew d (rd s o) v)
  | none => s

def execHkEventsClear (value : W32) (s : State) : Answer := .next (regStore s (hkReg 8) value)

/-- HK_TDAC may be written in TEST and RETURN (R418). -/
def tdacAllowed (s : State) : Bool := s.life.lcState == 0 || s.life.lcState == 3

def execHkTdacWrite (value : W32) (s : State) : Answer := .next (if tdacAllowed s then regStore s (hkReg 0x20) value else s)

def execHkCntClr (value : W32) (s : State) : Answer := .next (clearIf value 0 [hkReg 0x44, hkReg 0x48, hkReg 0x4C] s)

/-! ### Pins and the I3C target (R414, R417, R419, 10 Table 10.3, 21 R482) -/

/-- THERMTRIP_N is asserted. -/
def thermtrip (s : State) : Bool := vhkOn s && s.hk.tripped

/-- ALERT_N is asserted. -/
def alertPin (s : State) : Bool :=
  vhkOn s && !s.hk.tripped && (decide (rdF s (hkReg 4) 3 0 ≠ 0) || !(brokenSensors s).isEmpty)

/-- A byte the sled management controller reads. -/
def i3cByte (s : State) (off : Nat) : Byte :=
  if !vhkOn s then 0
  else if off < 2 then byteAt (leBytes 2 s.fab.coord.toNat) off
  else if off = 3 then
    BitVec.ofNat 8 ((if s.fab.accepted then 1 else 0) + (if s.fab.mismatch then 2 else 0) + (if s.fab.busy then 4 else 0) +
      (if s.fab.waiting then 8 else 0))
  else if 4 ≤ off ∧ off < 8 then Config.serialByte (off - 4)
  else if off < 0x10 then 0
  else if off < 0x12 then byteAt (leBytes 2 (if s.hk.tripped then 0 else rdF s (hkReg 0x1C) 15 0)) (off - 0x10)
  else if off = 0x12 then BitVec.ofNat 8 (rdF s (hkReg 0x1C) 22 16)
  else if off = 0x13 then
    BitVec.ofNat 8 ((if s.hk.tripped then 1 else 0) + (if latched s then 2 else 0) + rdF s (hkReg 4) 0 0 * 4 +
      rdF s (hkReg 4) 3 3 * 8 + rdF s (hkReg 0x50) 3 0 * 16)
  else if off < 0x16 then byteAt (leBytes 2 (roundEven (rdF s (hkReg 0x10) 31 16) 16).toNat) (off - 0x14)
  else if off < 0x18 then byteAt (leBytes 2 s.hk.sledCap) (off - 0x16)
  else 0

end Sys2Proof.Machine
end

