-- ==== Sys2Proof/Machine/Security.lean ====
section
/-! DEFINITION. Worlds, keys, quotes, the SPDM responder and the life cycle (18 R420-R436). -/

namespace Sys2Proof.Machine

def modSec (s : State) (f : Sec → Sec) : State := { s with sec := f s.sec }

/-! ### WORLD_ASSIGN (R421, R422) -/

/-- Units of a kind (Table 18.1). -/
def unitCount (kind : Nat) : Nat := if kind = 1 then 800 else if kind = 2 then 1152 else if kind = 3 then 64 else 0x1000000

/-- A unit is secure. -/
def unitSecure (s : State) (kind u : Nat) : Bool :=
  if kind = 1 then siteSecure s u else if kind = 2 then regionSecure s u else s.sec.mbxs.contains u

/-- Stream ranges with `[a, a + n)` added: ranges that touch become one. -/
def rangesAdd (l : List (Nat × Nat)) (a n : Nat) : List (Nat × Nat) :=
  let touch (r : Nat × Nat) : Bool := decide (r.1 ≤ a + n) && decide (a ≤ r.1 + r.2)
  let lo := (l.filter touch).foldl (fun m r => Nat.min m r.1) a
  let hi := (l.filter touch).foldl (fun m r => Nat.max m (r.1 + r.2)) (a + n)
  l.filter (fun r => decide (r.1 + r.2 < a)) ++ [(lo, hi - lo)] ++ l.filter (fun r => decide (a + n < r.1))

/-- Stream ranges without `[a, a + n)`. -/
def rangesDel (l : List (Nat × Nat)) (a n : Nat) : List (Nat × Nat) :=
  (l.map (fun r =>
    let e := r.1 + r.2
    (if r.1 < Nat.min e a then [(r.1, Nat.min e a - r.1)] else []) ++
    (if Nat.max r.1 (a + n) < e then [(Nat.max r.1 (a + n), e - Nat.max r.1 (a + n))] else []))).flatten

def newRanges (s : State) (secure : Bool) (a n : Nat) : List (Nat × Nat) :=
  if n = 0 then s.sec.ranges else if secure then rangesAdd s.sec.ranges a n else rangesDel s.sec.ranges a n

/-- A placed instance of the other world holds a core site. -/
def siteHeld (s : State) (secure : Bool) (site : Nat) : Bool :=
  (List.range 16).any (fun t =>
    match (tileAt s (tkey site t)).owner with
    | some o => (instOf s o.slot).any (fun i => i.secure != secure)
    | none => false)

/-- A region holds a page of an object of the other world. -/
def regionHeld (s : State) (secure : Bool) (r : Nat) : Bool :=
  s.pot.objs.any (fun o => o.2.secure != secure && o.2.pages.any (fun p => p.remote.isNone && regionOf p.frame == r))

def mbxHeld (s : State) (u : Nat) : Bool := let b := mbxAt s { pf := 0, idx := u }; b.own || b.async

/-- A stream of the range belongs to a group with an operation in flight. -/
def streamHeld (s : State) (a n : Nat) : Bool :=
  s.ladle.groups.any (fun g => decide (a ≤ g.2.stream) && decide (g.2.stream < a + n) &&
    s.ladle.ops.any (fun o => o.group == g.1 && !o.done))

def unitHeld (s : State) (kind : Nat) (secure : Bool) (a n : Nat) : Bool :=
  if kind = 1 then ((List.range n).map (a + ·)).any (siteHeld s secure)
  else if kind = 2 then ((List.range n).map (a + ·)).any (regionHeld s secure)
  else if kind = 3 then ((List.range n).map (a + ·)).any (mbxHeld s)
  else streamHeld s a n

/-- The arrays of a site, and its pair's spare where that last served a tile of it. -/
def clearedTiles (s : State) (site : Nat) : List Nat :=
  let sp := spareKey (tkey site 0)
  (List.range 16).map (fun t => tkey site t) ++ (if (tileAt s sp).lastServed.any (fun m => m / 32 == site) then [sp] else [])

/-- A tile that is OFF has no array to write, and a write under way comes first. -/
def startClear (s : State) (k : Nat) : State :=
  if tileState s k = 0 ∨ (tileAt s k).prog.isSome = true then s else modTile s k (fun t => { t with prog := some clearJob })

def setUnit (s : State) (kind u : Nat) (secure : Bool) : State :=
  let put (l : List Nat) : List Nat := if secure then setAdd l u else setDel l u
  modSec s (fun x =>
    if kind = 1 then { x with cores := put x.cores }
    else if kind = 2 then { x with regions := put x.regions }
    else { x with mbxs := put x.mbxs })

/-- A unit that changes world: one that leaves the secure world is CLEARING. -/
def assignUnit (kind : Nat) (secure : Bool) (no : Nat) (s : State) (u : Nat) : State :=
  if unitSecure s kind u == secure then s
  else
    let s1 := setUnit s kind u secure
    if secure then s1
    else
      let s2 := modSec s1 (fun x => { x with clearing := x.clearing ++ [(kind, u, no)] })
      if kind = 1 then (clearedTiles s2 u).foldl startClear s2 else s2

def worldAssign (s : State) (kind : Nat) (secure : Bool) (a n : Nat) : State :=
  if kind = 4 then modSec s (fun x => { x with ranges := newRanges s secure a n })
  else
    let no := s.sec.assignNo
    let s1 := modSec s (fun x => { x with assignNo := x.assignNo + 1 })
    ((List.range n).map (a + ·)).foldl (assignUnit kind secure no) s1

def execWorldAssign (m : MbxId) (s : State) : Answer :=
  let kind := reqN s m 8 1
  let secure := reqN s m 9 1 == 1
  let a := reqN s m 12 4
  let n := reqN s m 16 4
  onMbx m (runCmd s m 0x0801 16
    (firstErr [
      fieldCheck s m [
        (8, decide (1 ≤ kind) && decide (kind ≤ 4)),
        (9, decide (reqN s m 9 1 ≤ 1)),
        reqZero s m 10 2,
        (12, decide (a < unitCount kind) && !(kind == 2 && a == 0 && n != 0)),
        (16, decide (a + n ≤ unitCount kind) && (kind != 4 || decide ((newRanges s secure a n).length ≤ 64))),
        reqZero s m 20 4],
      need (!unitHeld s kind secure a n) stBusy])
    (reply (worldAssign s kind secure a n) m []))

/-! ### UNIT_CLEARING_COMPLETE (R422) -/

/-- Every line of a region is written with zeros. -/
def zeroRegion (s : State) (r : Nat) : State :=
  let lineIn (l : Nat) : Bool := regionOf (l / 32768) == r
  { s with
    stackMem := s.stackMem.filter (fun c => regionOf (c.1 / frameBytes) != r)
    pot := { s.pot with
      badLines := s.pot.badLines.filter (fun l => !lineIn l)
      softLines := s.pot.softLines.filter (fun l => !lineIn l) } }

/-- A core store is zeroed. -/
def zeroStore (s : State) (site : Nat) : State :=
  { s with
    store := memZero s.store (site * 0x100000) 0x100000
    storeBad := s.storeBad.filter (fun w => w.1 / 0x20000 != site) }

/-- The request and response areas of a mailbox are zeroed. -/
def zeroMbx (s : State) (u : Nat) : State :=
  let m : MbxId := { pf := 0, idx := u }
  setMbx s m { mbxAt s m with req := [], rsp := [] }

/-- The arrays of a site have all been written. -/
def arraysCleared (s : State) (site : Nat) : Bool :=
  (clearedTiles s site).all (fun k => tileState s k == 0 || ((tileAt s k).prog.isNone && (tileAt s k).zeroed))

def clearUnit (s : State) (kind u : Nat) : State := if kind = 1 then zeroStore s u else if kind = 2 then zeroRegion s u else zeroMbx s u

/-- A unit finishes clearing; with the command's last, PF1 vector 11 is signalled. -/
def clearingDone (s : State) (kind u : Nat) : State :=
  match s.sec.clearing.find? (fun c => c.1 == kind && c.2.1 == u) with
  | none => s
  | some e =>
    if kind = 1 ∧ arraysCleared s u = false then s
    else
      let s1 := modSec (clearUnit s kind u) (fun x => { x with clearing := x.clearing.filter (fun c => c != e) })
      if s1.sec.clearing.any (fun c => c.2.2 == e.2.2) then s1 else signal s1 1 11

def execUnitClearingComplete (kind unit : Nat) (s : State) : Answer := .next (clearingDone s kind unit)

/-! ### KEY_REGISTER, KEY_REVOKE (R427) -/

def keyIndex (s : State) (m : MbxId) : Nat := 16 * reqN s m 8 1 + reqN s m 9 1

def keyFields (s : State) (m : MbxId) : List (Nat × Bool) :=
  [(8, decide (reqN s m 8 1 ≤ 1)), (9, decide (reqN s m 9 1 ≤ 15)), reqZero s m 10 6]

def execKeyRegister (m : MbxId) (s : State) : Answer :=
  let key := reqBytes s m 16 57
  onMbx m (runCmd s m 0x0802 72
    (firstErr [
      fieldCheck s m (keyFields s m ++ [reqZero s m 73 7]),
      need (mapFind s.sec.keys (keyIndex s m)).isNone stBusy])
    (reply (modSec s (fun x => { x with keys := mapSet x.keys (keyIndex s m) key })) m (keyDigest key)))

/-- An image checked under a key is placed or staged. -/
def keyHolds (s : State) (d : Bytes) : Bool :=
  s.insts.any (fun p => (p.2.placed && p.2.ownerKey == d) || (!p.2.staged.isEmpty && p.2.stagedKey == d))

/-- An IMAGE_LOAD that passed check 3 under it is in progress. -/
def keyLoads (s : State) (d : Bytes) : Bool := s.insts.any (fun p => p.2.load.any (fun l => l.manifest && l.ownerKey == d))

def execKeyRevoke (m : MbxId) (s : State) : Answer :=
  let d := (mapFind s.sec.keys (keyIndex s m)).map keyDigest
  onMbx m (runCmd s m 0x0803 8
    (firstErr [
      fieldCheck s m (keyFields s m),
      need (!d.any (keyHolds s)) stBusy,
      need (!d.any (keyLoads s)) stBusy 0x0301])
    (reply (modSec s (fun x => { x with keys := mapDel x.keys (keyIndex s m) })) m []))

/-! ### Measurements and quotes (R430, R431) -/

def firmwareMeasure (s : State) : Bytes := slice (s.life.fw.elim [] (fun f => f.measure)) 0 64

def layoutInput (s : State) : Bytes :=
  ((s.insts.filter (fun p => p.2.placed)).map (fun p =>
    leBytes 1 p.1 ++ leBytes 2 p.2.number ++ leBytes 1 (if p.2.secure then 1 else 0) ++ leBytes 4 p.2.imageId ++
    leBytes 4 (genCur s p.1) ++ p.2.manifest)).flatten

/-- `n` bytes of bits: bit u is set for each listed u. -/
def bitBytes (n : Nat) (l : List Nat) : Bytes :=
  (List.range n).map (fun i => BitVec.ofNat 8 (((List.range 8).map (fun b => if l.contains (8 * i + b) then 2 ^ b else 0)).sum))

def worldInput (s : State) : Bytes :=
  bitBytes 100 s.sec.cores ++ bitBytes 144 s.sec.regions ++ bitBytes 8 s.sec.mbxs ++ leBytes 1 s.sec.ranges.length ++
  (s.sec.ranges.map (fun r => leBytes 4 r.1 ++ leBytes 4 r.2)).flatten

def layoutMeasure (s : State) : Bytes := shake256 64 (layoutInput s)
def worldMeasure (s : State) : Bytes := shake256 64 (worldInput s)

/-- What the identity key signs for a NONCE. -/
def quoteInput (s : State) (nonce : Bytes) : Bytes :=
  shake256 64 (nonce ++ firmwareMeasure s ++ layoutMeasure s ++ worldMeasure s ++ serialDigest ++
    leBytes 1 s.life.lcState ++ leBytes 1 s.life.lcCount ++ leBytes 2 (partId s))

def execAttestQuote (m : MbxId) (s : State) : Answer :=
  onMbx m (runCmd s m 0x0804 32 (fieldCheck s m [])
    (reply s m (firmwareMeasure s ++ layoutMeasure s ++ worldMeasure s ++
      slice (Config.ed448Sign s.sec.idKey (quoteInput s (reqBytes s m 8 32))) 0 114)))

/-! ### Life cycle (R433-R435) -/

/-- The transitions of Table 18.5; true: the signer is the vendor. -/
def lcSigner (a b : Nat) : Option Bool :=
  if a = 0 ∧ (b = 1 ∨ b = 4) then some true
  else if a = 1 ∧ b = 2 then some false
  else if a = 1 ∧ b = 4 then some true
  else if a = 2 ∧ (b = 3 ∨ b = 4) then some false
  else if a = 3 ∧ (b = 1 ∨ b = 4) then some true
  else none

def secureKeys (s : State) : List Bytes := (s.sec.keys.filter (fun k => k.1 / 16 == 1)).map Prod.snd

/-- What an authorisation signs. -/
def lcInput (s : State) (target : Nat) : Bytes :=
  shake256 64 (leBytes 1 s.life.lcState ++ leBytes 1 target ++ leBytes 1 s.life.lcCount ++ serialDigest)

def lcAuthorised (s : State) (target : Nat) (sig : Bytes) : Bool :=
  let ks := if lcSigner s.life.lcState target = some true then Config.vendorLcKeys else secureKeys s
  ks.any (fun k => Config.ed448Verify k (lcInput s target) sig)

/-- The transition is permitted. -/
def lcAllowed (s : State) (target : Nat) : Bool :=
  (lcSigner s.life.lcState target).isSome && !(s.life.lcCount == 63 && target != 4) &&
  !(target == 2 && (secureKeys s).isEmpty)

/-- A new identity key is drawn (R426). -/
def newIdentity (s : State) : State :=
  let k := slice (Config.entropyBytes s.freeNo) 0 57
  modSec (useFree s) (fun x => { x with idKey := k, idPub := slice (Config.ed448Public k) 0 57 })

def destroyIdentity (s : State) : State := modSec s (fun x => { x with idKey := [], idPub := [] })
def emptyKeys (s : State) : State := modSec s (fun x => { x with keys := [] })
def emptyPeers (s : State) : State := modSec s (fun x => { x with peers := [] })
def emptyCert (s : State) : State := modSec s (fun x => { x with cert := [] })

/-- The defaults of Table 18.1. -/
def defaultMap (s : State) : State :=
  modSec s (fun x => { x with cores := [], regions := [0], mbxs := [], ranges := [], clearing := [] })

/-- An array written to level 0 in every cell (13 R326): a defective cell lies at an open level of its range. -/
def blankArray (n : Nat) (a : ArraySt) : ArraySt :=
  { a with
    levels := (a.defects.filter (fun d => decide (d.row < 512))).foldl
      (fun m d => mapPut 0 m (1048 * d.row + d.cell) (liesAt n a.defects d.row d.cell 0)) []
    commit := 0
    cycles := a.cycles + 1
    age := 0 }

/-- The highest program count of the ledger. -/
def maxCycles (s : State) : Nat := s.arrays.foldl (fun m a => Nat.max m a.2.cycles) 0

/-- CH_WEAR_MAX (06 R165). -/
def showWear (s : State) : State := wrF s (chReg 0x34) 16 0 (Nat.min 0x1FFFF (maxCycles s))

/-- Every array, spare tiles included, the ledger's layer records, every stack line and every core store. -/
def wipe (s : State) : State :=
  let s1 := showWear { s with arrays := allTiles.map (fun k => (k, blankArray s.freeNo (arrayAt s k))) }
  useFreeN (1048 * 513) { s1 with
    ledger := []
    stackMem := []
    store := []
    storeBad := []
    pot := { s1.pot with badLines := [], softLines := [] } }

/-- What is done before the fuse row is blown, in the table's order. -/
def lcWork (s : State) (a b : Nat) : State :=
  if a = 0 ∧ b = 1 then defaultMap (emptyCert (emptyPeers (emptyKeys (newIdentity s))))
  else if a = 0 then destroyIdentity s
  else if a = 1 ∧ b = 2 then s
  else if a = 1 then emptyCert (emptyPeers (emptyKeys (destroyIdentity s)))
  else if a = 2 ∧ b = 3 then defaultMap (emptyPeers (emptyKeys (wipe s)))
  else if a = 2 then destroyIdentity (defaultMap (emptyPeers (emptyKeys (wipe s))))
  else if b = 1 then emptyCert (newIdentity s)
  else destroyIdentity s

/-- Steps 3 to 5: the work, the fuse row, the intent record cleared, and PF1 vector 12. -/
def lcFinish (s : State) (target : Nat) : State :=
  let s1 := lcWork s s.life.lcState target
  let s2 : State := { s1 with life := { s1.life with lcState := target, lcCount := s1.life.lcCount + 1 } }
  signal (modSec s2 (fun x => { x with intent := none })) 1 12

/-- R435: the intent record, the transition, the response, and the cold reset that is due. -/
def lcSet (s : State) (m : MbxId) (target : Nat) : State :=
  let s1 := modSec (accept s m) (fun x => { x with intent := some (target, s.life.lcCount) })
  let s2 := finishOk (lcFinish s1 target) (mref s m) []
  { s2 with life := { s2.life with lcReset := true } }

def execLifecycleSet (m : MbxId) (s : State) : Answer :=
  let target := reqN s m 8 1
  onMbx m (runCmd s m 0x0805 122
    (firstErr [
      fieldCheck s m [reqZero s m 9 7],
      need (lcAllowed s target) stLifecycle s.life.lcState,
      need (!s.insts.any (fun p => p.2.placed)) stBusy])
    (if lcAuthorised s target (reqBytes s m 16 114) then lcSet s m target
     else refuse (authFail s) m { st := stAuthFailed }))

/-! ### SEC_CTRL (R428, R436) -/

/-- The lock holds until a cold reset. -/
def setPolicyLock (s : State) : State := wbit s (secReg 0) 10 true

def execSetPolicyLock (s : State) : Answer := .next (setPolicyLock s)

/-- Words of the control window from one offset up to another. -/
def cwWords (s : State) (lo hi : Nat) : SMap W32 := s.cw.filter (fun w => decide (lo ≤ w.1) && decide (w.1 < hi))

/-- The peer list's staging copy goes to the ledger; a DISC exchange under way keeps to the list it began with. -/
def peerCommit (s : State) : State :=
  let l := (((cwWords s 0x0EE10000 0x0EE50000).map Prod.fst).filter (fun o => o % 4 == 0)).foldl (fun m o =>
    (List.range 4).foldl (fun m i => mapPut 0 m (o - 0x0EE10000 + i) (byteAt (leBytes 4 (rd s o).toNat) i)) m) []
  let begun := (List.range 18).filter (fun p => portState s p == fpDiscovery && (portAt s p).oldPeers.isNone)
  modSec (begun.foldl (fun t p => modPort t p (fun x => { x with oldPeers := some s.sec.peers })) s) (fun x => { x with peers := l })

def execPeerCommit (s : State) : Answer := .next (peerCommit s)

/-- SEC_CERT goes to the ledger, in PROVISION only. -/
def certCommit (s : State) : State :=
  if s.life.lcState = 1 then modSec s (fun x => { x with cert := cwWords s (secReg 0x2000) (secReg 0x4000) }) else s

def execCertCommit (s : State) : Answer := .next (certCommit s)

/-- A write of SEC_CTRL. -/
def secCtrlWrite (s : State) (v : W32) : State :=
  let s := if fld v 0 0 = 1 then setPolicyLock s else s
  let s := if fld v 1 1 = 1 then peerCommit s else s
  if fld v 2 2 = 1 then certCommit s else s

def execSecCntClr (value : W32) (s : State) : Answer := .next (clearIf value 0 [secReg 0x0C, secReg 0x10] s)

/-! ### SPDM_REQUEST (R432) -/

/-- The responder answers on the DOE mailbox of PF1: messages and exchanges are those of SPDM 1.2 and IDE_KM, which runs
inside a session. -/
def spdmRequest (s : State) (msg : Bytes) : State :=
  if !s.life.linkUp then s
  else
    let e := Config.spdmEffect s.freeNo msg
    modSec (useFree s) (fun x => { x with
      doeOut := x.doeOut ++ [Config.spdmAnswer s.freeNo msg]
      spdm := if e = 1 then true else if e = 2 then false else x.spdm
      ide := if e = 3 ∧ x.spdm = true then true else x.ide })

def execSpdmRequest (message : Bytes) (s : State) : Answer := .next (spdmRequest s message)

/-! ### What the read-only registers show (Table 18.7) -/

/-- A 32-bit word of a map. -/
def mapWord (l : List Nat) (w : Nat) : W32 := BitVec.ofNat 32 (((List.range 32).map (fun b => if l.contains (32 * w + b) then 2 ^ b else 0)).sum)

/-- The words of the block that show the world map, keys and the life cycle. -/
def secView (s : State) (o : Nat) : W32 :=
  if o = 0 then
    BitVec.ofNat 32 (s.life.lcState % 8 + Nat.min 63 s.life.lcCount * 8 + (if s.sec.intent.isSome then 0x200 else 0) +
      rdF s (secReg 0) 10 10 * 0x400 + s.sec.clearing.length % 0x800 * 0x10000)
  else if o = 8 then mapWord (s.sec.keys.map Prod.fst) 0
  else if o = 0x18 then BitVec.ofNat 32 s.sec.ranges.length
  else if 0x20 ≤ o ∧ o < 0x5C then BitVec.ofNat 32 (leAt s.sec.idPub (o - 0x20) 4)
  else if 0x60 ≤ o ∧ o < 0xC4 then mapWord s.sec.cores ((o - 0x60) / 4)
  else if 0xC4 ≤ o ∧ o < 0x154 then mapWord s.sec.regions ((o - 0xC4) / 4)
  else if 0x154 ≤ o ∧ o < 0x15C then mapWord s.sec.mbxs ((o - 0x154) / 4)
  else if 0x200 ≤ o ∧ o < 0x400 then
    let r := s.sec.ranges.getD ((o - 0x200) / 8) (0, 0)
    BitVec.ofNat 32 (if o % 8 = 0 then r.1 else r.2)
  else rd s (secReg o)

end Sys2Proof.Machine
end

