-- ==== Sys2Proof/Machine/Startup.lean ====
section
/-! DEFINITION. Start-up: rails, the stages, FW_LOAD, the ledger scan and READY (19 R437-R445), the resets that commands
and pins ask for (R445-R449), and HEARTBEAT (15 R379). -/

namespace Sys2Proof.Machine

def modLife (s : State) (f : Life → Life) : State := { s with life := f s.life }

def setStage (s : State) (n : Nat) : State := modLife s (fun l => { l with stage := n })

/-! ### Pins and rails (R441, R443, R445, R448) -/

/-- A cold start: VIN reaches the start threshold, or the reset of a life-cycle transition is due. -/
def coldStart (s : State) : State :=
  if !s.hk.vinOn then resetPart (modHk s (fun h => { h with vinOn := true })) true false 0
  else if s.life.lcReset then coldReset s
  else s

def execColdReset (s : State) : Answer := .next (coldStart s)

/-- The part is reset at once; with VIN off or tripped there is nothing left to reset. -/
def perstAssert (s : State) : State :=
  let s := modLife s (fun l => { l with perst := true })
  if vhkOn s && !s.hk.tripped then warmReset s else s

def execPerstNAssert (s : State) : Answer := .next (perstAssert s)

/-- P4 and P5. -/
def perstDeassert (s : State) : State :=
  modLife s (fun l => { l with perst := false, linkUp := l.linkUp || (decide (1 ≤ l.stage) && l.perst) })

def execPerstNDeassert (s : State) : Answer := .next (perstDeassert s)

/-- The next rail in order is in regulation; the strap is sampled as the I3C target starts to answer (10 R241). -/
def railUp (s : State) (r : Nat) : State :=
  if s.hk.vinOn = true ∧ s.hk.tripped = false ∧ r = s.life.rails then
    modLife s (fun l => { l with rails := r + 1, strap := if r = 0 then Config.slotStrap % 4 else l.strap })
  else s

def execRailInRegulation (rail : Nat) (s : State) : Answer := onUnit (decide (rail < 7)) (railUp s rail)

/-! ### RESET (R445, R448, 16 Table 16.9) -/

def resetFields (s : State) (m : MbxId) : Option Err :=
  fieldCheck s m [(8, reqN s m 8 1 == 1 || reqN s m 8 1 == 2), (9, reqN s m 8 1 == 1 || decide (reqN s m 9 1 < 18)), reqZero s m 10 6]

/-- KIND 1: the response, then every ACTIVE port drains. -/
def resetBegin (s : State) : State :=
  modLife ((List.range 18).foldl portDrain s) (fun l => { l with drainReset := true })

/-- The row of every KIND but 2. -/
def execResetWarm (m : MbxId) (s : State) : Answer :=
  onMbx m (if reqN s m 8 1 = 2 then s else runCmd s m 0x0005 8 (resetFields s m) (resetBegin (reply s m [])))

def execResetFabricPort (m : MbxId) (s : State) : Answer :=
  onMbx m (if reqN s m 8 1 = 2 then runCmd s m 0x0005 8 (resetFields s m) (portReset (reply s m []) (reqN s m 9 1)) else s)

/-- Every port is DOWN, or 2 ms have passed since the response. -/
def execResetDrainEnd (s : State) : Answer := .next (if s.life.drainReset then warmReset s else s)

/-! ### FW_LOAD (R437-R440, 18 R429) -/

def fwMagic : Bytes := [0x4B, 0x45, 0x54, 0x54, 0x4C, 0x45, 0x46, 0x57]

def fwCode (img : Bytes) : Nat := leAt img 20 4

/-- Check 1: the offset of the first wrong field of Table 19.1; a length that does not agree is CODE_LEN's. -/
def fwLayout (img : Bytes) (len : Nat) : Option Nat :=
  let c := fwCode img
  if slice img 0 8 != fwMagic then some 0
  else if c % 4096 ≠ 0 ∨ 12 * 2 ^ 20 < c ∨ len ≠ 64 + c + 128 then some 20
  else ((List.range 39).map (fun i => 25 + i) ++ (List.range 14).map (fun i => 64 + c + 114 + i)).find? (fun i => byteAt img i != 0)

/-- Checks 2 and 3. -/
def fwVerified (s : State) (img : Bytes) : Bool :=
  decide (leAt img 24 1 < 4) &&
  Config.ed448Verify (Config.vendorFwKey (leAt img 24 1)) (shake256 64 (img.take (64 + fwCode img))) (slice img (64 + fwCode img) 114) &&
  decide (s.life.secMin ≤ leAt img 16 4)

/-- The ages after a start (06 R149). -/
def startAges (s : State) : State :=
  let age := (clampN 24 8760 (rdF s (chReg 4) 15 0) - 24) * 3600 * 1000000000
  { s with arrays := allTiles.map (fun k => (k, { arrayAt s k with age := age })) }

/-- The image runs. -/
def fwRun (s : State) (img : Bytes) : State :=
  startAges (modLife s (fun l => { l with
    fw := some { release := leAt img 8 2, mbxIf := leAt img 10 2, build := BitVec.ofNat 32 (leAt img 12 4),
                 secVer := leAt img 16 4, measure := shake256 64 img, minVer := Config.imageMin img }
    partState := psStarting
    stage := 3 }))

/-- What a load ends in once the image is read; it waits again where the image fails. -/
def fwCheck (image : Bytes) (q : State) (r : MbxRef) (s : State) : State :=
  let len := reqN q r.id 16 4
  let img := (image ++ zeros (len - image.length)).take len
  match fwLayout img len with
  | some o => finishErr (setStage s 1) r { st := stBadParam, d0 := o }
  | none =>
    if fwVerified s img then finishOk (fwRun s img) r []
    else finishErr (signal (setStage s 1) 1 11) r { st := stAuthFailed }

/-- The image is read and verified; the stage code shows 2 while it is held. -/
def execFwLoad (m : MbxId) (image : Bytes) (s : State) : Answer :=
  let fresh := taken s m 0x0806 && (heldCmd s m 0x0806).isNone
  let s1 := runDma s m 0x0806 16 (fieldCheck s m [reqZero s m 20 4]) (fwCheck image)
  onMbx m (if fresh && (heldCmd s1 m 0x0806).isSome then setStage s1 2 else s1)

/-! ### P8: routers up (R443) -/

/-- A retirement of the ledger: the pair's spare serves the slot from now on. -/
def restoreRetired (s : State) (m : Nat) : State :=
  let s := setTileState s m 5
  let s := modTile s m (fun t => { t with covered := true })
  modTile s (spareKey m) (fun t => { t with serves := some m, lastServed := some m })

def restoreRemap (s : State) (p : Nat × Nat) : State := wr s (remapReg p.1) (BitVec.ofNat 32 (p.2 + 0x80))

/-- Sites that are not cores: disabled, or moved to the row's spare site. -/
def markCoreOff (s : State) (site : Nat) : State :=
  if site % 25 ≠ 12 ∧ (gradeOff s site || remappedAway s site) = true then wbit s (routerReg site 0) 1 true else s

/-- Stage 3 ends: the ledger's remaps and retirements are in force, and the stacks that are not DOWN train. -/
def routersUp (s : State) : State :=
  let s := s.remapNow.foldl restoreRemap s
  let s := (List.range 800).foldl markCoreOff s
  let s := s.retiredTiles.foldl restoreRetired s
  setStage { s with pot := { s.pot with retrain := (List.range 24).filter (fun n => !skDown s n) } } 4

/-! ### P9: the pool (09 R208, R215, R223) -/

/-- Stacks whose link has trained serve. -/
def trainedUp (s : State) (n : Nat) : State :=
  if s.pot.retrain.contains n || skDown s n then s else wrF s (skReg n 0) 1 0 1

/-- A class 6 object of the firmware, of a number of pinned pages. -/
def fwObject (s : State) (n : Nat) : Option Nat × State :=
  match newObjPages s 6 64 false true n with
  | some (h, s1) => (some h, s1)
  | none => (none, s)

/-- The objects the firmware allocates: the fault store, the residual store and Ladle's retention object (20 R459, 06
R162, 11 R261). -/
def fwObjects (s : State) : State :=
  let a := fwObject s 1
  let b := fwObject { a.2 with faultH := a.1 } 1
  let c := fwObject { b.2 with residH := b.1 } 32
  { c.2 with ladle := { c.2.ladle with retH := c.1 } }

/-- Stage 4 ends: the pool is formed, and a stack that has not trained is DOWN. -/
def poolFormed (s : State) : State :=
  let left := s.pot.retrain
  let s := (List.range 24).foldl trainedUp s
  let s := drawKey { s with pot := { s.pot with formed := true } }
  setStage (fwObjects (left.foldl stackDown s)) 5

/-! ### P11: the ledger scan (13 R329, Table 13.8, 06 R165) -/

/-- The key of the array that holds what a record's tile held: its spare's where the tile is RETIRED. -/
def scanKey (s : State) (k : Nat) : Nat := if s.retiredTiles.contains k then spareKey k else k

def scanPasses (s : State) (r : LayerRec) : Bool := r.arrays.all (fun x => rowAgrees s r (scanKey s x.1, x.2))

/-- A record as the scan leaves it. -/
def scanPair (s : State) (p : LedgerPair) : LedgerPair :=
  match pairRec p with
  | none => { p with torn := true }
  | some r =>
    match r.state with
    | .committed => { p with torn := !scanPasses s r }
    | .failed => { p with torn := false }
    | .writing =>
      if scanPasses s r then
        let r : LayerRec := { r with state := .committed }
        { a := some r, b := some r, torn := false }
      else { p with torn := true }

/-- A record that the scan completes is written again (13 R327): SEQ counts on. -/
def scanLedger (s : State) : List LedgerPair → Nat → List LedgerPair × Nat
  | [], n => ([], n)
  | p :: l, n =>
    let q := scanPair s p
    let done := decide ((pairRec p).map (fun r => r.state) ≠ (pairRec q).map (fun r => r.state))
    let q : LedgerPair := if done then { q with a := q.a.map (fun r => { r with seq := n }), b := q.b.map (fun r => { r with seq := n }) } else q
    let (l, n) := scanLedger s l (if done then n + 1 else n)
    (q :: l, n)

/-- Tiles in use come up, and row 512 of each is read (02 R33). -/
def tileUp (s : State) (k : Nat) : State :=
  if tileUsed s k then
    let s := if tileState s k = 0 then setTileState s k 1 else s
    if rbit s (tileReg k 4) 8 == !committed (arrayAt s k) then s else wbit s (tileReg k 4) 8 (!committed (arrayAt s k))
  else s

/-- The arrays of sites that were being cleared are taken up again (18 R422). -/
def clearAgain (s : State) (c : Nat × Nat × Nat) : State := if c.1 = 1 then (clearedTiles s c.2.1).foldl startClear s else s

/-- Stage 5 ends. -/
def ledgerScanned (s : State) : State :=
  let (l, n) := scanLedger s s.ledger s.ledgerSeq
  let bad := s.ledger.any (fun p => (pairRec p).isNone)
  let s := { s with ledger := l, ledgerSeq := n }
  let s := wrF s (imgReg 0x0C) 15 0 (l.filter (fun p => p.torn)).length
  let s := wbit (wbit s (imgReg 8) 0 true) (imgReg 8) 1 bad
  let s := showWear s
  setStage (s.sec.clearing.foldl clearAgain (allTiles.foldl tileUp s)) 6

/-! ### P12-P15 (R443, R444) -/

def calComplete (s : State) : Bool := calRunning s == 0 && !allTiles.any (initialCal s)

/-- A port no longer holds the discovery stage. -/
def portSettled (s : State) (p : Nat) : Bool :=
  portState s p == fpActive || portState s p == fpQuarantine || portState s p == fpFailed || portState s p == fpDown

def discoveryOver (s : State) : Bool := s.life.discOver || (List.range 18).all (portSettled s)

/-- READY; the security minimum rises to what the image carries (18 R429). -/
def partReady (s : State) : State :=
  modLife s (fun l => { l with
    partState := psReady
    stage := 15
    secMin := Nat.max l.secMin (l.fw.elim 0 (fun f => f.minVer)) })

/-- Stage 0 ends: the boot ROM runs, and takes up a transition that a reset cut short (18 R435). -/
def bootRuns (s : State) : State :=
  let s := match s.sec.intent with
    | some (t, n) => if n = s.life.lcCount then lcFinish s t else modSec s (fun x => { x with intent := none })
    | none => s
  modLife s (fun l => { l with stage := 1, linkUp := !l.perst })

/-- The stage under way completes, where what it waits for has come about. -/
def stageDone (s : State) : State :=
  if s.hk.vinOn = false ∨ s.hk.tripped = true then s
  else
    match s.life.stage with
    | 0 => if 2 ≤ s.life.rails then bootRuns s else s
    | 3 => if s.life.partState = psStarting ∧ 4 ≤ s.life.rails then routersUp s else s
    | 4 => if s.life.partState = psStarting ∧ 5 ≤ s.life.rails then poolFormed s else s
    | 5 => if s.life.partState = psStarting ∧ s.life.rails = 7 then ledgerScanned s else s
    | 6 => if s.life.partState = psStarting ∧ calComplete s then setStage s (if s.fab.accepted then 8 else 7) else s
    | 7 => if s.life.partState = psStarting ∧ s.fab.accepted then setStage s 8 else s
    | 8 => if s.life.partState = psStarting ∧ discoveryOver s then partReady s else s
    | _ => s

def execStartupStageComplete (s : State) : Answer := .next (stageDone s)

/-- 600 ms after P8. -/
def discTimeout (s : State) : State :=
  if s.life.partState = psStarting ∧ 4 ≤ s.life.stage then
    let s := modLife s (fun l => { l with discOver := true })
    if s.life.stage = 8 then partReady s else s
  else s

def execDiscoveryTimeout (s : State) : Answer := .next (discTimeout s)

/-! ### HEARTBEAT (15 R379) -/

def execHeartbeatTick (s : State) : Answer :=
  .next (if kettleRuns s then modLife s (fun l => { l with heartbeat := l.heartbeat + 1 }) else s)

end Sys2Proof.Machine
end

