-- ==== Sys2Proof/Machine/RegCmd.lean ====
section
/-! DEFINITION. GET_INFO, REG_READ, REG_WRITE and FAULT_READ: what a register shows when it is read, which words host
software may write, and what a write does (16 R388-R390, Table 16.2, R394, 20 R461). -/

namespace Sys2Proof.Machine

/-! ### GET_INFO (R388, 19 R440) -/

def infoBytes (s : State) : Bytes :=
  leBytes 2 (s.life.fw.elim 0 (fun f => f.release)) ++ leBytes 2 (s.life.fw.elim 3 (fun f => f.mbxIf)) ++ leBytes 4 (fwBuild s) ++
  leBytes 1 (gradeCode s.grade) ++ leBytes 1 s.life.lcState ++ leBytes 1 s.life.partState ++ zeros 1 ++
  leBytes 2 (partId s) ++ zeros 2 ++ serialDigest

def execGetInfo (m : MbxId) (s : State) : Answer := onMbx m (runCmd s m 0x0001 0 (fieldCheck s m []) (reply s m (infoBytes s)))

/-! ### What a register shows -/

def bit01 (b : Bool) : Nat := if b then 1 else 0

/-- A word with a field shown in place of what it holds. -/
def shown (w : W32) (hi lo v : Nat) : W32 := setFld w hi lo v

/-- TILE_STATUS and CAL_STATUS (02 Tables 02.6, 02.12, 07 Table 07.6). -/
def tileView (s : State) (k o : Nat) : W32 :=
  let w := rd s (tileReg k o)
  if o = 4 then
    shown (shown w 3 3 (bit01 (!(stagedIn s (tileReg k 0) 0x1000).isEmpty))) 12 9
      ((List.range 8).filter (fun n => rbit s (tileReg k (0x20 + 4 * n)) 15)).length
  else if o = 0x1000 then
    shown w 8 8 (bit01 (decide (calDt s < (tileTemp s k - sgn 16 (rdFA s (tileReg k 0x1004) 15 0)).natAbs)))
  else w

def edgeView (s : State) (site slot o : Nat) : W32 :=
  let w := rd s (edgeReg site slot o)
  if o = 4 then shown w 0 0 (bit01 (!(stagedIn s (edgeReg site slot 0) 0x100).isEmpty)) else w

/-- ENG_STATUS (05 Table 05.7). -/
def engView (s : State) (site o : Nat) : W32 :=
  if o = 4 then
    match (coreAt s site).standIn with
    | some (f, t) => BitVec.ofNat 32 (1 + 2 * f + 0x800 * t)
    | none => 0
  else rd s (engReg site o)

/-- SFB_STATUS (04 Table 04.5): a stand-in takes a slot of FB_CAP. -/
def sfbView (s : State) (site o : Nat) : W32 :=
  if o = 4 then
    let c := coreAt s site
    BitVec.ofNat 32 (c.escal.length % 32 + 32 * (Nat.min 3 (grantSlots s site + bit01 (c.standIn.isSome && fbCap s site != 0))))
  else rd s (sfbReg site o)

def spoonView (s : State) (o : Nat) : W32 :=
  if o = 8 then BitVec.ofNat 32 (Nat.min 0xFFFF (s.cores.filter (fun c => c.2.capture.isSome)).length) else rd s (spoonReg o)

def chView (s : State) (o : Nat) : W32 :=
  if o = 0x0C then
    BitVec.ofNat 32 (refreshActive s + 0x10000 * bit01 (s.arrays.any (fun a => decide (wearLimit s ≤ a.2.cycles))))
  else rd s (chReg o)

def calView (s : State) (o : Nat) : W32 :=
  if o = 8 then BitVec.ofNat 32 (calRunning s + 0x10000 * (calPending s).length) else rd s (calReg o)

/-- UP: the routers forward from P8 on (19 R443). -/
def routerView (s : State) (site o : Nat) : W32 :=
  if o = 0 then shown (rd s (routerReg site 0)) 0 0 (bit01 (decide (4 ≤ s.life.stage))) else rd s (routerReg site o)

def spView (s : State) (o : Nat) : W32 :=
  if o = 0x0C then BitVec.ofNat 32 (spFree s + 0x100000 * bit01 (s.pot.formed && decide (spFree s < spLow s))) else rd s (spReg o)

def skView (s : State) (n o : Nat) : W32 := if o = 0 then shown (rd s (skReg n 0)) 16 2 (skFree s n) else rd s (skReg n o)

def fabView (s : State) (o : Nat) : W32 :=
  if o = 0x18 then BitVec.ofNat 32 s.rackTime.toNat else if o = 0x1C then s.timeLatch else rd s (fabReg o)

/-- LD_STATUS, LF_EPOCH and LF_OPEN (11 Table 11.8). -/
def ldView (s : State) (o : Nat) : W32 :=
  if o = 8 then
    BitVec.ofNat 32 (s.ladle.groups.length % 128 + 256 * ((s.ladle.ops.filter (fun p => !p.done)).length % 128))
  else if o = 0x48 then BitVec.ofNat 32 (faultEpoch s)
  else if o = 0x4C then BitVec.ofNat 32 ((s.ladle.suspects.filter (fun x => x.epoch == faultEpoch s)).length % 128)
  else rd s (ldReg o)

/-- SV_STATUS and SV_STEP (12 Table 12.6). -/
def svView (s : State) (slot o : Nat) : W32 :=
  match instOf s slot with
  | none => if o = 8 ∨ o = 0x0C ∨ o = 0x10 then 0 else rd s (svReg slot o)
  | some i =>
    if o = 8 then
      BitVec.ofNat 32 (bit01 i.placed + 2 * (inFlight i % 512) + 0x10000 * Nat.min 0xFFFF i.waiting.length)
    else if o = 0x0C then BitVec.ofNat 32 i.step.toNat
    else if o = 0x10 then mapGet 0 s.stepLatch slot
    else rd s (svReg slot o)

/-- PROG_STATUS (13 Table 13.12). -/
def imgView (s : State) (o : Nat) : W32 :=
  if o = 4 then
    let loads := s.insts.filterMap (fun p => p.2.load)
    BitVec.ofNat 32 (progActive s + 0x800 * bit01 (!loads.isEmpty) + 0x1000 * bit01 (loads.any (fun l => l.reader)))
  else rd s (imgReg o)

/-- GEN_LAYERS: the slot's TORN and FAILED layers (13 Table 13.12). -/
def imgSlotView (s : State) (slot o : Nat) : W32 :=
  if o = 0x0C then
    let rows := statusRows s slot
    BitVec.ofNat 32 ((rows.filter (fun r => r.2 == 2)).length % 0x10000 + 0x10000 * ((rows.filter (fun r => r.2 == 3)).length % 0x10000))
  else rd s (imgSlotReg slot o)

/-- HK_REDUCE and HK_TRIP.RECENT (17 Tables 17.8, 17.10). -/
def hkView (s : State) (o : Nat) : W32 :=
  if o = 0x18 then
    let z := zonesNow s
    BitVec.ofNat 32 (progConc s + 0x10000 * (if z < 16 then z else Config.zonesShown z % 16))
  else if o = 0x50 then shown (rd s (hkReg 0x50)) 15 12 (Nat.min 15 (recentTrips s).length)
  else rd s (hkReg o)

/-- The power zone of a self-test unit's slice (19 R451); none for a converter. -/
def zoneOf (test unit : Nat) : Option Nat :=
  if test = 0 then none
  else if test = 1 ∨ test = 2 ∨ test = 3 then some (unit / 25)
  else if test = 4 ∨ test = 5 then some (unit / 32 / 25)
  else if test = 6 then some (32 + unit / 48)
  else some (56 + unit)

/-- Zones with a slice running. -/
def activeZones (b : Bist) : List Nat := ((b.covering ++ b.running ++ b.restoring.map Prod.fst).filterMap (zoneOf b.test)).dedup

def btView (s : State) (o : Nat) : W32 :=
  if o = 4 then
    match s.bist with
    | some b => BitVec.ofNat 32 (1 + 2 * b.test + 16 * (activeZones b).length)
    | none => rd s (btReg 4)
  else rd s (btReg o)

/-- A failed core that some core stands in for. -/
def coreCovered (s : State) (site : Nat) : Bool :=
  (coreAt s site).failed && (List.range 16).any (fun t => (tileAt s (tkey site t)).standin.isSome)

/-- FLT_STATUS.STANDIN and SPARES_FREE (20 Table 20.7). -/
def fltView (s : State) (o : Nat) : W32 :=
  if o = 4 then
    shown (shown (rd s (fltReg 4)) 15 6 (s.cores.filter (fun c => coreCovered s c.1)).length) 21 16
      ((List.range 32).filter (spareSiteFree s)).length
  else rd s (fltReg o)

/-- The word that a read of the control window returns; WO bits and what no register holds read 0. -/
def regView (s : State) (o : Nat) : W32 :=
  match regBlock o with
  | .tile k x => tileView s k x
  | .edge site slot x => edgeView s site slot x
  | .eng site x => engView s site x
  | .sfb site x => sfbView s site x
  | .sfbSlot site slot x => rd s (sfbSlotReg site slot x)
  | .spoon x => spoonView s x
  | .ch x => chView s x
  | .cal x => calView s x
  | .mesh x => rd s (meshReg x)
  | .router site x => routerView s site x
  | .sp x => spView s x
  | .sk n x => skView s n x
  | .fab x => fabView s x
  | .fp p x => rd s (fpReg p x)
  | .ld x => ldView s x
  | .sv slot x => svView s slot x
  | .img x => imgView s x
  | .imgSlot slot x => imgSlotView s slot x
  | .hk x => hkView s x
  | .sec x => secView s x
  | .peer x => rd s (0x0EE10000 + x)
  | .bt x => btView s x
  | .flt x => fltView s x
  | .unmapped => 0

/-- A read of a low word latches its high word (10 Table 10.12, 12 Table 12.6). -/
def readEffect (s : State) (o : Nat) : State :=
  match regBlock o with
  | .fab 0x18 => { s with timeLatch := BitVec.ofNat 32 (s.rackTime.toNat / 2 ^ 32) }
  | .sv slot 0x0C =>
    { s with stepLatch := mapPut 0 s.stepLatch slot (BitVec.ofNat 32 ((instOf s slot).elim 0 (fun i => i.step.toNat / 2 ^ 32))) }
  | _ => s

/-! ### Worlds and refused words (Table 16.2, R386) -/

/-- The world of the core, tile or slot that a register belongs to: true is secure. -/
def regSecure (s : State) (o : Nat) : Bool :=
  match regBlock o with
  | .tile k _ => tileSecure s k
  | .edge site _ _ => siteSecure s site
  | .eng site _ => siteSecure s site
  | .sfb site _ => siteSecure s site
  | .sfbSlot site _ _ => siteSecure s site
  | .sv slot _ => (instOf s slot).elim (s.slotWorld.contains slot) (fun i => i.secure)
  | .imgSlot slot _ => (instOf s slot).elim (s.slotWorld.contains slot) (fun i => i.secure)
  | _ => false

/-- Registers written only from a secure mailbox. -/
def writeSecure (o : Nat) : Bool :=
  match regBlock o with
  | .ch _ => true
  | .cal _ => true
  | .sp _ => true
  | .sk _ _ => true
  | .fab _ => true
  | .fp _ _ => true
  | .ld _ => true
  | .img _ => true
  | .hk _ => true
  | .sec _ => true
  | .peer _ => true
  | .bt _ => true
  | .flt _ => true
  | .spoon x => x == 0x28
  | _ => false

/-- Words of a REG_READ or REG_WRITE: index and offset (R389). -/
def regOffsets (s : State) (m : MbxId) : List (Nat × Nat) :=
  (List.range (reqN s m 16 2)).map (fun i => (i, reqN s m 8 8 + 4 * i * Nat.max 1 (reqN s m 18 2)))

/-- FB_CAP and the slot sets with a command's words applied. -/
def withWords (s : State) (ws : List (Nat × W32)) : State :=
  ws.foldl (fun s w =>
    match regBlock w.1, regDesc w.1 with
    | .sfb _ _, some d => wr s w.1 (regNew d (rd s w.1) w.2)
    | .sfbSlot _ _ _, some d => wr s w.1 (regNew d (rd s w.1) w.2)
    | _, _ => s) s

/-- Refused words of a mapped block; `t` is the state with the command's words applied (R132), `i` the word's index. -/
def refusedWord (s t : State) (i o : Nat) (v : W32) : Option Err :=
  let deny : Err := { st := stRegDenied, d0 := i, d1 := o % 2 ^ 32 }
  match regBlock o with
  | .tile k x =>
    if 0x20 ≤ x ∧ x < 0x40 then some deny
    else if x = 0 ∧ fld v 0 0 = 0 ∧ tileState s k = 2 then some deny
    else if 0x1000 ≤ x ∧ calStatus s k 0 0 = 1 then some { st := stBusy, d0 := 0, d1 := i }
    else none
  | .edge _ _ x => if 0x40 ≤ x ∧ x < 0x80 then some deny else none
  | .sfb site _ => if 512 < shareSum t site then some { st := stShareLimit, d0 := site, d1 := shareSum t site } else none
  | .sfbSlot site _ _ => if 512 < shareSum t site then some { st := stShareLimit, d0 := site, d1 := shareSum t site } else none
  | .spoon 0x28 =>
    match ringWrite s (v.toNat % 0x10000) with
    | .error e => some { st := e.st, d0 := if e.st = stBadParam then 24 + 4 * i else i }
    | .ok _ => none
  | .mesh x => if x < 0x80 then some deny else none
  | .hk x =>
    if x = 0x20 ∧ tdacAllowed s = false then some deny
    else if x = 0x3C ∧ ringSizeOk (v.toNat % 0x10000) = false then some { st := stBadParam, d0 := 24 + 4 * i }
    else none
  | .sec x => if 0x2000 ≤ x ∧ x < 0x4000 ∧ s.life.lcState ≠ 1 then some deny else none
  | _ => none

/-- The check of one word of a REG_WRITE. -/
def wordCheck (s t : State) (secure : Bool) (i o : Nat) (v : W32) : Option Err :=
  if regBlock o = .unmapped then need (v == 0) stBadParam (24 + 4 * i)
  else if (regSecure s o || writeSecure o) && !secure then some { st := stWorldDenied, d0 := i }
  else refusedWord s t i o v

/-! ### What a write does -/

/-- The state that another command's meaning leaves. -/
def nextOf (a : Answer) (s : State) : State :=
  match a with
  | .next t => t
  | _ => s

/-- A staged register's word (02 R60, R56). -/
def stagedWrite (s : State) (o : Nat) (v : W32) : State :=
  match regDesc o with
  | some d =>
    let w := regNew d (rd s o) v
    match regBlock o with
    | .tile k x => (presetWords k x w).foldl (fun s p => stageWord s p.1 p.2) s
    | _ => stageWord s o w
  | none => s

/-- The word is staged where its register is, and else stored by its map (00 R5). -/
def storeWord (s : State) (o : Nat) (v : W32) : State :=
  if (regDesc o).any (fun d => d.staged) then stagedWrite s o v else regStore s o v

/-- SFB_CTRL: while FB_EN is 0 no slice has met a boundary since (04 R99). -/
def sfbCtrlWrite (s : State) (site : Nat) (v : W32) : State :=
  let s := storeWord s (sfbReg site 0) v
  if fbEn s site then s else modCore s site (fun c => { c with fbOff := List.range 16 })

/-- FLT_CTRL. -/
def fltCtrlWrite (s : State) (v : W32) : State :=
  let s := regStore s (fltReg 0) v
  if fld v 0 0 = 1 then fencePart s { cls := 3, cause := 0, unit := Config.noUnit } else s

/-- A write of one word: the registers with an effect of their own, and the rest by their map. -/
def writeEffect (s : State) (o : Nat) (v : W32) : State :=
  match regBlock o with
  | .tile k 0x1C => tileClr s k v
  | .edge site slot 0x0C => edgeClr s site slot v
  | .eng site 0x08 => engClr s site v
  | .sfb site 0x00 => sfbCtrlWrite s site v
  | .sfb site 0x08 => sfbClr s site v
  | .spoon 0x0C => nextOf (execSpoonCntClr v s) s
  | .spoon 0x28 => nextOf (execSpoonRingSizeWrite v s) s
  | .ch 0x10 => nextOf (execChCntClr v s) s
  | .cal 0x0C => nextOf (execCalCntClr v s) s
  | .mesh 0x80 => nextOf (execMeshCntClr v s) s
  | .router site 0x24 => nextOf (execMeshRtCntClr site v s) s
  | .sp 0x14 => nextOf (execSpCntClr v s) s
  | .sk n 0x24 => nextOf (execSkCntClr n v s) s
  | .fab 0x00 => policyWrite s v
  | .fab 0x20 => nextOf (execFabCntClr v s) s
  | .fp p 0x0C => fpCtrlWrite s p v
  | .fp p 0x28 => nextOf (execFpCntClr p v s) s
  | .ld 0x0C => ldClr s v
  | .ld 0x64 => lfClr s v
  | .sv slot 0x18 => svClr s slot v
  | .img 0x10 => nextOf (execImgCntClr v s) s
  | .hk 0x40 => nextOf (execHkCntClr v s) s
  | .sec 0x04 => secCtrlWrite s v
  | .sec 0x14 => nextOf (execSecCntClr v s) s
  | .bt 0x14 => btClr s v
  | .flt 0x00 => fltCtrlWrite s v
  | .flt 0x0C => fltClr s v
  | .unmapped => s
  | _ => storeWord s o v

/-! ### REG_READ and REG_WRITE (R389, R390) -/

def regFields (s : State) (m : MbxId) (most : Nat) : List (Nat × Bool) :=
  [(8, reqN s m 8 8 % 4 == 0 && decide (reqN s m 8 8 < 2 ^ 41)), (16, decide (1 ≤ reqN s m 16 2) && decide (reqN s m 16 2 ≤ most)),
   reqZero s m 20 4]

/-- Words are read in index order. -/
def readWords : List (Nat × Nat) → State → Bytes × State
  | [], s => ([], s)
  | w :: ws, s =>
    let v := regView s w.2
    let r := readWords ws (readEffect s w.2)
    (leBytes 4 v.toNat ++ r.1, r.2)

/-- A register of a core or slot in the secure world is refused to a non-secure mailbox. -/
def readCheck (s : State) (secure : Bool) (w : Nat × Nat) : Option Err := need (secure || !regSecure s w.2) stWorldDenied w.1

def execRegRead (m : MbxId) (s : State) : Answer :=
  let ws := regOffsets s m
  onMbx m (runCmd s m 0x0002 16
    (firstErr (fieldCheck s m (regFields s m 116) :: ws.map (readCheck s (mbxSecure s m))))
    (let r := readWords ws s
     reply r.2 m (leBytes 2 ws.length ++ zeros 6 ++ r.1)))

/-- The words of a REG_WRITE with their values. -/
def writeWords (s : State) (m : MbxId) : List (Nat × Nat × W32) :=
  (regOffsets s m).map (fun w => (w.1, w.2, BitVec.ofNat 32 (reqN s m (24 + 4 * w.1) 4)))

/-- Every word is checked before any is written. -/
def writeCheck (s : State) (m : MbxId) : Option Err :=
  let ws := writeWords s m
  let t := withWords s (ws.map Prod.snd)
  firstErr (ws.map (fun w => wordCheck s t (mbxSecure s m) w.1 w.2.1 w.2.2))

def execRegWrite (m : MbxId) (s : State) : Answer :=
  onMbx m (runCmd s m 0x0003 (16 + 4 * reqN s m 16 2)
    (firstErr [fieldCheck s m (regFields s m 114), writeCheck s m])
    (reply ((writeWords s m).foldl (fun s w => writeEffect s w.2.1 w.2.2) s) m []))

/-! ### FAULT_READ (R394, 20 R461) -/

/-- Records whose instance is of the secure world are withheld from a non-secure mailbox. -/
def faultHidden (s : State) (r : FaultRec) : Bool :=
  match instSlot s r.inst with
  | some n => (instOf s n).any (fun i => i.secure)
  | none => r.secure && r.inst != 0xFFFF

def execFaultRead (m : MbxId) (s : State) : Answer :=
  let from_ := reqN s m 8 4
  let count := reqN s m 12 2
  onMbx m (runCmd s m 0x0004 16
    (fieldCheck s m [(12, 1 ≤ count && count ≤ 1024), reqZero s m 14 2])
    (let r := mref s m
     let secure := mbxSecure s m
     let all := s.faults.filter (fun x => from_ ≤ x.seq.toNat)
     let shown := (all.filter (fun x => secure || !faultHidden s x)).take count
     let upTo := match shown.getLast? with
       | some x => if shown.length = count then x.seq.toNat else 0xFFFFFFFF
       | none => 0xFFFFFFFF
     let skipped := (all.filter (fun x => !secure && faultHidden s x && x.seq.toNat ≤ upTo)).length
     let first := (shown.head?.map (fun x => x.seq.toNat)).getD (Config.freeNat s.freeNo)
     let oldest := ((s.faults.head?.map (fun x => x.seq.toNat)).getD (rd s (fltReg 8)).toNat)
     let s := accept s m
     let s := dmaWrite s m.pf (BitVec.ofNat 64 (reqN s m 16 8)) ((shown.map (fun x => faultBytes x (!secure && x.secure))).flatten)
     finishOk (useFree s) r (leBytes 4 shown.length ++ leBytes 4 first ++ leBytes 4 (oldest - from_) ++ leBytes 4 skipped)))

end Sys2Proof.Machine
end

