-- ==== Sys2Proof/Machine/Bist.lean ====
section
/-! DEFINITION. In-field self-test: TEST_RUN, its slices and their cover, and what a failure is reported as (19 R450-R453,
Table 19.6). A unit is a converter (0-16 HK-S slices, 17-19 HK-I), a site, a tile key, a stack region or a port. -/

namespace Sys2Proof.Machine

def modBist (s : State) (f : Bist → Bist) : State := { s with bist := s.bist.map f }

/-! ### Scope (Table 19.6) -/

/-- A core that can be tested: in use, and not failed. -/
def testedCore (s : State) (site : Nat) : Bool := activeSite s site && !(coreAt s site).failed

/-- A tile that can be tested: in use, and neither OFF nor RETIRED. -/
def testedTile (s : State) (k : Nat) : Bool := tileUsed s k && tileState s k != 0 && tileState s k != 5

/-- The site a unit belongs to: a stack or port belongs to its router's, a converter to none. -/
def unitSite (test unit : Nat) : Option Nat :=
  if test = 0 then none
  else if test ≤ 3 then some unit
  else if test ≤ 5 then some (unit / 32)
  else
    let ext := if test = 6 then (1, unit / 48) else (2, unit)
    (List.range 800).find? (fun site => routerExt site == ext)

/-- Every unit of a test, in zone order. -/
def allUnits (s : State) (test : Nat) : List Nat :=
  if test = 0 then List.range 20
  else if test = 1 then List.range 800
  else if test ≤ 3 then (List.range 800).filter (testedCore s)
  else if test ≤ 5 then allTiles.filter (testedTile s)
  else if test = 6 then List.range 1152
  else List.range 18

def scopeUnits (s : State) (test scope : Nat) : List Nat :=
  if scope = 0xFFFF then allUnits s test else (allUnits s test).filter (fun u => unitSite test u == some scope)

/-! ### The end of a run (R453) -/

/-- The failing unit as the response gives it. -/
def unitCode (test unit : Nat) : Nat :=
  if test = 4 ∨ test = 5 then unit / 32 + 0x400 * (unit % 32)
  else (if test = 6 then unit / 48 else unit) + 0x400 * 31

/-- The run completes with its last slice. -/
def runEnds (s : State) : State :=
  match s.bist with
  | none => s
  | some b =>
    if b.todo.isEmpty && b.covering.isEmpty && b.running.isEmpty && b.restoring.isEmpty then
      let res := if b.failed.isSome then 1 else if b.missed ≠ 0 then 2 else 0
      finishOk { s with bist := none } b.mbx
        (leBytes 1 res ++ zeros 1 ++ leBytes 2 (Nat.min 0xFFFF b.missed) ++ leBytes 4 (b.failed.elim 0 (unitCode b.test)))
    else s

/-- The run that a TEST_RUN starts. -/
def testBegin (s : State) (m : MbxId) (test scope : Nat) : State :=
  let b : Bist := { test := test, mbx := mref s m, todo := scopeUnits s test scope }
  runEnds { wrF (accept s m) (btReg 4) 3 1 test with bist := some b }

def execTestRun (m : MbxId) (s : State) : Answer :=
  let test := reqN s m 8 1
  let scope := reqN s m 10 2
  onMbx m (runCmd s m 0x0702 8
    (firstErr [
      fieldCheck s m [(8, decide (test < 8)), reqZero s m 9 1, (10, decide (scope < 800) || scope == 0xFFFF), reqZero s m 12 4],
      need s.bist.isNone stBusy 0x0702])
    (testBegin s m test scope))

/-! ### Which slice is next (R451) -/

/-- Its zone is idle and no more zones run than are allowed; converters are tested one at a time. -/
def zoneFree (s : State) (b : Bist) (u : Nat) : Bool :=
  match zoneOf b.test u with
  | none => b.running.isEmpty
  | some z => !(activeZones b).contains z && decide ((activeZones b).length < zonesNow s)

/-- The first unit whose zone has none under way: zones start in ascending order. -/
def nextUnit (s : State) (b : Bist) : Option Nat := b.todo.find? (zoneFree s b)

/-- A slice that is skipped or aborted is INCOMPLETE. -/
def missOne (s : State) : State := modBist (incHold s (btReg 0x0C) 16 1) (fun b => { b with missed := b.missed + 1 })

def beginUnit (s : State) (u : Nat) : State :=
  modBist s (fun b => { b with todo := b.todo.filter (fun x => x != u), covering := b.covering.filter (fun x => x != u), running := b.running ++ [u] })

def coverUnit (s : State) (u : Nat) : State :=
  modBist s (fun b => { b with todo := b.todo.filter (fun x => x != u), covering := b.covering ++ [u] })

/-- A slice whose cover cannot be placed is skipped. -/
def skipUnit (s : State) (u : Nat) : State :=
  runEnds (missOne (modBist s (fun b => { b with todo := b.todo.filter (fun x => x != u), covering := b.covering.filter (fun x => x != u) })))

/-! ### Tests 2 and 3: a core -/

/-- Every member gets a stand-in core. -/
def coverMembers (site : Nat) : List Nat → State → Option State
  | [], s => some s
  | t :: ts, s =>
    match (standinOrder site).find? (mayStandIn s) with
    | some c => coverMembers site ts (takeStandin s c site t)
    | none => none

/-- A member that can move: it serves, from a shadow copy that is whole, and nothing else is done to it. -/
def memberMoves (s : State) (site t : Nat) : Bool :=
  let m := tkey site t
  let k := physTile s m
  (tileAt s m).shadowIn && (tileAt s m).lostRows.isEmpty && (tileAt s m).refresh.isNone && (tileAt s k).calRun.isNone &&
  tileState s k == 2 && atBoundary s m

/-- Offsets of a core's store at which it may hold a byte that is not zero: what was written, and what is loaded. -/
def storeOffsets (s : State) (site : Nat) : List Nat :=
  (s.store.filter (fun c => decide (c.1 / 0x100000 = site))).map (fun c => c.1 % 0x100000) ++
  ((coreAt s site).srcPlace.map (fun p => (List.range 256).map (fun i => rowRegion + 256 * p.2 + i))).flatten ++
  ((coreAt s site).blocks.map (fun p => (List.range 0x20000).map (fun i => slotRegion + 0x20000 * p.2 + i))).flatten

/-- The core store is copied to a class 6 object. -/
def saveStore (s : State) (site : Nat) : Option State :=
  match newObjPages s 6 64 (siteSecure s site) true 1 with
  | some (h, s1) =>
    let f := (objFrames s1 (some h)).headD 0 * frameBytes
    let m := (storeOffsets s1 site).foldl (fun m a => memSet m (f + a) (storeByte s1 site a)) (memZero s1.stackMem f 0x100000)
    some (modBist { s1 with stackMem := m, pot := { s1.pot with
      badLines := s1.pot.badLines.filter (fun l => !lineIn f 0x100000 l)
      softLines := s1.pot.softLines.filter (fun l => !lineIn f 0x100000 l) } } (fun b => { b with copies := mapSet b.copies site h }))
  | none => none

/-- The words of a core's store that a line of the copy holds, as they stand in `storeBad`. -/
def copyWords8 (site f l : Nat) : List (Nat × Nat) := (List.range 8).map (fun i => (storeAddr site (64 * l - f) / 8 + i, 2))

/-- The copy comes back, and its object is freed; a line of it that cannot be read leaves words that cannot be. -/
def restoreStore (s : State) (site : Nat) : State :=
  match s.bist.bind (fun b => mapFind b.copies site) with
  | none => s
  | some h =>
    let f := (objFrames s (some h)).headD 0 * frameBytes
    let bad := s.pot.badLines.filter (lineIn f 0x100000)
    let s := readLines s (bad ++ s.pot.softLines.filter (fun l => lineIn f 0x100000 l && !bad.contains l))
    let as := (s.stackMem.filter (fun c => decide (f ≤ c.1) && decide (c.1 < f + 0x100000))).map (fun c => c.1 - f) ++ storeOffsets s site
    let m := as.foldl (fun m a => memSet m (storeAddr site a) (memByte s.stackMem (f + a) ^^^ loadedByte s site a))
      (memZero s.store (site * 0x100000) 0x100000)
    let words := ((bad.map (copyWords8 site f)).flatten).foldl (fun w x => mapSet w x.1 x.2)
      (s.storeBad.filter (fun w => decide (w.1 * 8 / 0x100000 ≠ site)))
    freeObj (modBist { s with store := m, storeBad := words } (fun b => { b with copies := mapDel b.copies site })) h

/-- Cover and save; none where a member cannot move. -/
def coreCover (s : State) (site : Nat) : Option State :=
  let owned := ownedSlots s site
  if (coreAt s site).standIn.isSome || !owned.all (memberMoves s site) then none
  else
    let s1 := (coreAt s site).grants.foldl (fun s h => coverLost (setFbState (takeGrant s site h) site h (if (coreAt s site).escal.contains h then 2 else 0)) site h) s
    let s1 := modCore (captureGone s1 site) site (fun c => { c with tested := true, sampled := [] })
    match coverMembers site owned s1 with
    | some s2 => saveStore (standinBlocksIn s2 site) site
    | none => none

/-- Restore, and release the stand-ins. -/
def coreUncover (s : State) (site : Nat) : State :=
  let s := restoreStore s site
  let s := (List.range 16).foldl (fun s t =>
    match (tileAt s (tkey site t)).standin with
    | some c => modTile (dropBlocks (modCore s c (fun x => { x with standIn := none })) c [tkey site t]) (tkey site t) (fun x => { x with standin := none })
    | none => s) s
  modCore s site (fun c => { c with tested := false, blocksIn := false })

/-- The members of a core are at a pass boundary. -/
def coreAtBoundary (s : State) (site : Nat) : Bool := (ownedSlots s site).all (fun t => atBoundary s (tkey site t))

/-! ### Test 4: a tile's converters -/

/-- A tile that serves is covered by a fall-back grant (07 R177); an IDLE one needs no cover. -/
def tileCover (s : State) (k : Nat) : Option State :=
  if tileState s k = 1 then (if (tileAt s k).calRun.isNone && (tileAt s k).serves.isNone then some s else none)
  else
    match memberOf s k with
    | none => none
    | some m =>
      let head := headOf s (m / 32) (m % 32)
      if tileState s k = 2 ∧ (tileAt s k).calRun.isNone ∧ atBoundary s m ∧ canGrant s (m / 32) head ∧ fbState s (m / 32) head ≠ 1 then
        some (coverGrant s (m / 32) head)
      else none

def tileUncover (s : State) (k : Nat) : State :=
  match memberOf s k with
  | some m => endCover s (m / 32) (headOf s (m / 32) (m % 32))
  | none => s

/-! ### Test 5: a tile's array -/

/-- A tile that serves can be placed on its pair's spare. -/
def spareCovers (s : State) (k : Nat) : Bool :=
  memberOf s k == some k && tileState s k == 2 && (tileAt s k).shadowIn && (tileAt s k).refresh.isNone && (tileAt s k).calRun.isNone &&
  !pairRefreshing s k && !rewriteWaits s k && spareAvailable s k

/-- An IDLE tile that holds no layer. -/
def idleTile (s : State) (k : Nat) : Bool :=
  tileState s k == 1 && (tileAt s k).owner.isNone && (tileAt s k).serves.isNone && (tileAt s k).prog.isNone && (tileAt s k).calRun.isNone

/-- The checkerboard and its complement: two program cycles, and row 512 no longer commits. -/
def patternTile (s : State) (k : Nat) : State :=
  let a := arrayAt s k
  let s := setArray s k { clearFlag a with cycles := a.cycles + 2 }
  let cyc := Nat.min (a.cycles + 2) 0x1FFFF
  let s := if rdF s (chReg 0x34) 16 0 < cyc then wrF s (chReg 0x34) 16 0 cyc else s
  modTile (setTileState s k 3) k (fun t => { t with prog := none })

/-- Level 0 in every cell. -/
def blankJob : ProgJob := { clearJob with why := .test }

/-- The contents are rewritten from the shadow copy, then a column run (06 H4-H7); a tile without a layer to level 0. -/
def rewriteTested (s : State) (k : Nat) : State :=
  if (tileAt s k).owner.isSome then rewriteTile s k else modTile (setTileState s k 3) k (fun t => { t with prog := some blankJob })

/-- The rewrite is over. -/
def tileRestored (s : State) (k : Nat) : Bool := (tileAt s k).refresh.isNone && (tileAt s k).prog.isNone

/-! ### BIST_SLICE_START (R452) -/

/-- HK-S: slice 16 takes the slice's channels. -/
def sliceCover (s : State) (u : Nat) : Option State :=
  if 17 ≤ u then some s
  else if u = 16 then (if (failedSlices s).isEmpty then some s else none)
  else if spareAt s = u ∧ sliceFailed s 16 = false then some s
  else if (failedSlices s).isEmpty then some (wrF s (hkReg 0x24) 21 17 u)
  else none

/-- The unit's cover, placed at once; none where it cannot be. -/
def placeCover (s : State) (test u : Nat) : Option State :=
  if test = 0 then sliceCover s u
  else if test = 2 ∨ test = 3 then coreCover s u
  else if test = 4 then tileCover s u
  else some s

/-- A slice whose cover takes time, and waits for it. -/
def coverWaits (s : State) (test u : Nat) : Option State :=
  if test = 5 ∧ spareCovers s u = true then some (coverUnit (placeSpare s u .refresh) u)
  else if test = 7 ∧ portState s u = fpActive then some (coverUnit (portDrain s u) u)
  else none

/-- What the test steps take from the unit as they begin. -/
def stepsBegin (s : State) (test u : Nat) : State :=
  if test = 5 then patternTile s u else if test = 7 then modPort (setState s u fpDown) u freshExchange else s

/-- A slice that was waiting for its cover. -/
def coveredStart (s : State) (test u : Nat) : State :=
  if test = 5 then
    if (tileAt s u).covered ∧ (tileAt s u).refresh = some .h4 ∧ (tileAt s u).prog.any (fun j => !j.started) then
      beginUnit (stepsBegin s test u) u
    else if (tileAt s u).refresh.isNone then skipUnit s u
    else s
  else if portState s u = fpDraining then s
  else beginUnit (stepsBegin s test u) u

def sliceStart (s : State) (u : Nat) (covered : Bool) : State :=
  match s.bist with
  | none => s
  | some b =>
    if b.covering.contains u then coveredStart s b.test u
    else if nextUnit s b ≠ some u then s
    else if !covered then skipUnit s u
    else
      match coverWaits s b.test u with
      | some t => t
      | none =>
        if b.test = 5 ∧ idleTile s u = false then skipUnit s u
        else
          match placeCover s b.test u with
          | some t => beginUnit (stepsBegin t b.test u) u
          | none => skipUnit s u

def execBistSliceStart (unit : Nat) (covered : Bool) (s : State) : Answer := .next (sliceStart s unit covered)

/-! ### The end of a slice (R452, R453) -/

/-- The test packets that a router has sent: how many, on each output, is not stated. -/
def testFlits (s : State) (site : Nat) : State :=
  useFreeN 5 ((List.range 5).foldl (fun t i => incWrap t (routerReg site (0x10 + 4 * i)) (Config.freeNat (s.freeNo + i) % 2 ^ 32)) s)

/-- Restoring the unit and releasing its cover. -/
def unitRestore (s : State) (test u : Nat) : State :=
  if test = 1 then testFlits s u
  else if test = 2 ∨ test = 3 then coreUncover s u
  else if test = 4 then tileUncover s u
  else if test = 5 then rewriteTested s u
  else if test = 7 then (if portsLive s && !portDisabled s u then setState s u fpTraining else s)
  else s

/-- A failed unit is reported, with its row's class. -/
def unitFails (s : State) (test u : Nat) : State :=
  let rec22 (cls unit slot : Nat) (s : State) : State :=
    faultRecord s { cls := cls, cause := 22, unit := unit, slot := slot }
  if test = 0 then rec22 (if u < 17 then 1 else 2) u 0xFFFF s
  else if test = 1 then fencePart s { cls := 3, cause := 22, unit := u, secure := siteSecure s u }
  else if test = 2 ∨ test = 3 then coreFail (faultRecord s { cls := 1, cause := 22, unit := u, secure := siteSecure s u }) u
  else if test = 4 then tileFault s 1 22 u
  else if test = 5 then tileFault s (if (tileAt s u).covered || spareAvailable s u then 1 else 2) 22 u
  else if test = 6 then rec22 2 (u / 48) 0xFFFF s
  else rec22 1 u 0xFFFF s

/-- A slice is over: `r` 0 passed, 1 failed, 2 aborted. -/
def sliceOver (s : State) (u r : Nat) : State :=
  let test := s.bist.elim 0 (fun b => b.test)
  let s := modBist s (fun b => { b with
    running := b.running.filter (fun x => x != u)
    restoring := b.restoring.filter (fun x => x.1 != u)
    failed := if r = 1 && b.failed.isNone then some u else b.failed })
  let s := if r = 2 then missOne s else incWrap s (btReg 8) 1
  let s := if r = 1 then unitFails (incHold s (btReg 0x10) 16 1) test u else s
  runEnds s

/-- The steps end: the unit is restored at once, or its array is rewritten first. -/
def stepsEnd (s : State) (test u r : Nat) : State :=
  if (test = 2 ∨ test = 3) ∧ coreAtBoundary s u = false then s
  else
    let s := unitRestore s test u
    if test = 5 then
      modBist s (fun b => { b with running := b.running.filter (fun x => x != u), restoring := b.restoring ++ [(u, r)] })
    else sliceOver s u r

/-- The steps of a running slice end; a slice that is being restored is over once its unit is. -/
def sliceComplete (s : State) (u r : Nat) : State :=
  match s.bist with
  | none => s
  | some b =>
    if b.running.contains u then stepsEnd s b.test u r
    else
      match b.restoring.find? (fun x => x.1 == u) with
      | some x => if tileRestored s u then sliceOver s u x.2 else s
      | none => s

def execBistSliceComplete (unit : Nat) (failed : Bool) (s : State) : Answer :=
  .next (sliceComplete s unit (if failed then 1 else 0))

/-- The budget is passed: the slice is aborted, restored and INCOMPLETE. -/
def budgetExpiry (s : State) (u : Nat) : State :=
  if s.bist.any (fun b => b.running.contains u) then sliceComplete s u 2 else s

def execBistBudgetExpiry (unit : Nat) (s : State) : Answer := .next (budgetExpiry s unit)

end Sys2Proof.Machine
end

