-- ==== Sys2Proof/Machine/Hostif.lean ====
section
/-! DEFINITION. What the host does at the PCI Express interface: mailbox writes, Bus Master Enable, function-level reset,
MSI-X, and the reads of a completion ring's TAIL (15 R365-R377, R381). -/

namespace Sys2Proof.Machine

/-! ### Host writes to a mailbox (R366, R367) -/

def modMbx (s : State) (m : MbxId) (f : Mailbox → Mailbox) : State := setMbx s m (f (mbxAt s m))

/-- The mailbox holds a command. -/
def mbxBusy (b : Mailbox) : Bool := b.own || b.async

/-- The endpoint answers (19 R443), and the mailbox is not being cleared (18 R422). -/
def mbxOpen (s : State) (m : MbxId) : Bool := s.life.linkUp && !(m.pf == 0 && unitClearing s 3 m.idx)

/-- INT_EN, VIOL and SEQ as a write of MBX_CTL leaves them. -/
def ctlWritten (b : Mailbox) (v : W32) (seq : Bool) : Mailbox :=
  { b with
    intEn := fld v 3 3 == 1
    viol := b.viol && fld v 2 2 == 0
    seq := if seq then BitVec.ofNat 8 (fld v 15 8) else b.seq }

/-- A write with OWN = 0. -/
def ctlWrite (s : State) (m : MbxId) (v : W32) (lowBytes : Bool) : State :=
  if mbxOpen s m && lowBytes && fld v 0 0 == 0 then modMbx s m (fun b => ctlWritten b v (!mbxBusy b)) else s

def execMbxCtlWrite (m : MbxId) (value : W32) (lowBytes : Bool) (s : State) : Answer := onMbx m (ctlWrite s m value lowBytes)

/-- A submission is taken in its turn. -/
def submit (s : State) (m : MbxId) (v : W32) : State :=
  let s := modMbx s m (fun b => { ctlWritten b v true with own := true })
  { s with order := s.order ++ [m] }

/-- A submission whose opcode no row of 16 Table 16.1 names is refused as it arrives: DESIGN CHOICE, log 12. -/
def refuseUnknown (s : State) (m : MbxId) : State :=
  if (cmdRow (reqOp s m)).isSome then s
  else
    match preCheck s m (reqLen s m) with
    | some e => refuse s m e
    | none => s

/-- A write with OWN = 1. -/
def submission (s : State) (m : MbxId) (v : W32) (lowBytes : Bool) : State :=
  if mbxOpen s m && lowBytes && fld v 0 0 == 1 then
    if mbxBusy (mbxAt s m) then modMbx s m (fun b => { b with viol := true })
    else refuseUnknown (submit s m v) m
  else s

def execMbxSubmission (m : MbxId) (value : W32) (lowBytes : Bool) (s : State) : Answer := onMbx m (submission s m value lowBytes)

/-- A write of bytes of the request area; bytes past its end are none of it. -/
def requestWrite (s : State) (m : MbxId) (off : Nat) (bs : Bytes) : State :=
  if mbxOpen s m then
    modMbx s m (fun b =>
      if mbxBusy b then { b with viol := true } else { b with req := memWrite b.req off (bs.take (480 - off)) })
  else s

def execMbxRequestWrite (m : MbxId) (offset : Nat) (bytes : Bytes) (s : State) : Answer :=
  onMbx m (requestWrite s m offset bytes)

/-! ### FUNCTION_LEVEL_RESET (R371, 19 Table 19.5) -/

/-- A mailbox at its reset values; commands it has accepted will not be answered. -/
def mbxReset (b : Mailbox) : Mailbox := { epoch := b.epoch + 1 }

def functionReset (s : State) (pf : Nat) : State :=
  if s.life.linkUp then
    let s : State := { s with
      mbx := s.mbx.map (fun e => if e.1 / 64 = pf then (e.1, mbxReset e.2) else e)
      order := s.order.filter (fun m => m.pf != pf)
      bme0 := s.bme0 && pf != 0
      bme1 := s.bme1 && pf != 1
      unmasked := s.unmasked.filter (fun k => k / 128 != pf)
      msixPend := s.msixPend.filter (fun k => k / 128 != pf) }
    if pf = 1 then { s with sec := { s.sec with spdm := false, doeOut := [] } } else s
  else s

def execFunctionLevelReset (pf : Nat) (s : State) : Answer := onUnit (decide (pf < 2)) (functionReset s pf)

/-! ### Bus Master Enable (R381) -/

def setBme (s : State) (pf : Nat) (on : Bool) : State := if pf = 0 then { s with bme0 := on } else { s with bme1 := on }

/-- The function's held writes go out in order. -/
def bmeSet (s : State) (pf : Nat) : State :=
  let s := setBme s pf true
  { s with
    hostMem := flushDma pf s.heldDma s.hostMem
    heldDma := s.heldDma.filter (fun w => w.1 != pf) }

def execBusMasterEnableSet (pf : Nat) (s : State) : Answer :=
  onUnit (decide (pf < 2)) (if s.life.linkUp then bmeSet s pf else s)

def execBusMasterEnableClear (pf : Nat) (s : State) : Answer :=
  onUnit (decide (pf < 2)) (if s.life.linkUp then setBme s pf false else s)

/-! ### MSIX_UNMASK (R377) -/

/-- The vector is unmasked, and a message that was held goes out. -/
def unmask (s : State) (k : Nat) : State :=
  let s : State := { s with unmasked := setAdd s.unmasked k }
  if s.msixPend.contains k then { s with msixPend := setDel s.msixPend k, msixSent := k :: s.msixSent } else s

def execMsixUnmask (pf vector : Nat) (s : State) : Answer :=
  onUnit (vecWf pf vector) (if s.life.linkUp then unmask s (vecKey pf vector) else s)

/-! ### TAIL and the holdoff (R375, R376) -/

/-- Ring entries that the next frame in order needs, where it is ready for its commit point. -/
def ringNeed (s : State) (slot : Nat) (i : Instance) : Option Nat :=
  match i.markers.head?, i.flight.head? with
  | some _, none => some 1
  | mk, some f =>
    if mk.any (fun m => decide (m.step.toNat ≤ f.msg.step.toNat)) then some 1
    else if f.msg.marker.isSome then some 1
    else if passOver s slot i f then some (if f.abortSeen then 1 else 1 + f.msg.seqs.length)
    else none
  | none, none => none

/-- A frame waits for ring room. -/
def ringWaits (s : State) (slot : Nat) (i : Instance) : Bool := exitHere s i && (ringNeed s slot i).any (fun n => decide (ringFree i.ring < n))

/-- A valid TAIL is taken, and an invalid one counted. -/
def tailRead (s : State) (slot : Nat) (tail : W64) : State :=
  match instOf s slot with
  | none => s
  | some i =>
    if ringWaits s slot i && s.bme0 then
      if i.ring.tail.toNat ≤ tail.toNat ∧ tail.toNat ≤ i.ring.head.toNat then
        setInst s slot { i with ring := { i.ring with tail := tail } }
      else setInst s slot { i with ring := { i.ring with tailErr := i.ring.tailErr + 1 } }
    else s

def execRingTailRead (slot : Nat) (tail : W64) (s : State) : Answer := onUnit (decide (slot < 64)) (tailRead s slot tail)

/-- Entries written during the holdoff are signalled, and the vector is quiet again for a holdoff. -/
def holdoffEnd (s : State) (slot : Nat) : State :=
  match instOf s slot with
  | none => s
  | some i =>
    if i.ring.quiet then
      if i.ring.unsignalled then signal (setInst s slot { i with ring := { i.ring with unsignalled := false } }) 0 i.ring.vector
      else setInst s slot { i with ring := { i.ring with quiet := false } }
    else s

def execRingHoldoffEnd (slot : Nat) (s : State) : Answer := onUnit (decide (slot < 64)) (holdoffEnd s slot)

end Sys2Proof.Machine
end

