-- ==== Sys2Proof/Machine/Ifp.lean ====
section
/-! DEFINITION. IFP accesses received from other parts, the answers to the part's own, and the keep-alive of pages held on
peers (09 R228, R229, 10 R244-R246, 11 R273, 18 R423). -/

namespace Sys2Proof.Machine

/-- The code of an access in 09 Table 09.4; a part index that is not the part's own is no address of this part. -/
def ifpCode (s : State) (p : IfpPacket) (len : Nat) : Option Nat :=
  if gmaPart (hGma p) ≠ partId s then some 1 else accessCode s (.peer (hSrc p)) (hWorld p) (hGma p) len

/-- An access is refused; it is answered where it wants an answer. -/
def ifpRefuse (s : State) (p : IfpPacket) (code : Nat) : State :=
  let s := countCode s code
  if hType p = ifpWriteT ∧ hAck p = false then s else ifpResp s p code []

/-- The world check's refusal (18 Table 18.2): `SEC_DENIED` has advanced. -/
def ifpDeny (p : IfpPacket) (s : State) : State :=
  if hType p = ifpWriteT ∧ hAck p = false then s else ifpResp s p 3 []

/-- Traffic to a stack waits while its link retrains (09 R207). -/
def retraining (s : State) (p : IfpPacket) : Bool :=
  gmaSpace (hGma p) == 0 && s.pot.retrain.contains (stackOf (gmaOffset (hGma p) / frameBytes))

/-- An access that is served renews its holding and is counted by the tracker (09 R224, R229). -/
def served (s : State) (p : IfpPacket) : State :=
  if gmaSpace (hGma p) = 0 then
    let f := gmaOffset (hGma p) / frameBytes
    renewHold (track s f) (hSrc p) f
  else s

/-- The base die's queue has no room for the access (09 R210), or it would write a shared page, and waits for the copy
(R221). -/
def stackHolds (s : State) (p : IfpPacket) (type len : Nat) : Bool :=
  let off := gmaOffset (hGma p)
  let f := off / frameBytes
  gmaSpace (hGma p) == 0 &&
  (decide (512 < queueLines s (stackOf f) + (linesOf off len).length) || (type != ifpReadT && sharedHeld s f))

/-- An access comes in: checked, and served by `eff`. -/
def ifpAccess (s : State) (port : Nat) (p : IfpPacket) (type len : Nat) (eff : State → State) : State :=
  ifpReceive s port p [type] (ifpDeny p) (fun s =>
    if retraining s p || stackHolds s p type len then s
    else match ifpCode s p len with
      | some c => ifpRefuse s p c
      | none => eff (served s p))

/-! ### IFP_WRITE (10 R245) -/

/-- The bytes go to their place, and a FABRIC_IN record is written where they come from outside an instance. -/
def ifpWriteAt (s : State) (p : IfpPacket) : State :=
  let s := gmaWrite (recordFabricIn s (hSrc p) (hGma p) p) (hGma p) p.payload
  if hAck p then ifpResp s p 0 [] else s

def ifpWrite (s : State) (port : Nat) (p : IfpPacket) : State :=
  ifpAccess s port p ifpWriteT p.payload.length (fun s =>
    if replayRefuses s (hSrc p) (hGma p) then ifpResp s p 9 [] else ifpWriteAt s p)

def execIfpWrite (port : Nat) (pkt : IfpPacket) (s : State) : Answer := onUnit (decide (port < 18)) (ifpWrite s port pkt)

/-! ### IFP_READ -/

/-- A read of a stack or a core store: its data, or code 0x04 for an uncorrectable line or word. -/
def ifpReadAt (s : State) (p : IfpPacket) : State :=
  let off := gmaOffset (hGma p)
  let n := hSpec p
  if gmaSpace (hGma p) = 0 then
    let ls := linesOf off n
    let bad := linesBad s ls
    let s1 := readLines s ls
    if bad then ifpResp s1 p 4 [] else ifpResp s1 p 0 (memRead s.stackMem off n)
  else
    let site := off / 0x100000
    let a := off % 0x100000
    let r := storeReadCheck s site [(a, n)]
    if r.1 then ifpResp r.2 p 4 [] else ifpResp r.2 p 0 (storeRead s site a n)

def ifpRead (s : State) (port : Nat) (p : IfpPacket) : State :=
  ifpAccess s port p ifpReadT (hSpec p) (fun s => ifpReadAt s p)

def execIfpRead (port : Nat) (pkt : IfpPacket) (s : State) : Answer := onUnit (decide (port < 18)) (ifpRead s port pkt)

/-! ### IFP_ATOMIC (R246) -/

def ifpAtomicAt (s : State) (p : IfpPacket) : State :=
  let off := gmaOffset (hGma p)
  let op := hSpec p % 16
  let x := w64At p.payload 0
  let y := w64At p.payload 8
  if gmaSpace (hGma p) = 0 then
    match stackAtomicAt s off op x y with
    | (.ok old, s1) => ifpResp (recordFabricIn s1 (hSrc p) (hGma p) p) p 0 (leBytes 8 old.toNat)
    | (.error c, s1) => ifpRefuse s1 p c
  else
    let site := off / 0x100000
    let a := off % 0x100000
    match atomicCode op a with
    | some c => ifpRefuse s p c
    | none =>
      let old := w64At (storeRead s site a 8) 0
      let r := storeReadCheck s site [(a, 8)]
      let s1 := r.2
      if r.1 then ifpResp s1 p 4 []
      else match atomicOp op old x y with
        | some v => ifpResp (storeWrite s1 site a (leBytes 8 v.toNat)) p 0 (leBytes 8 old.toNat)
        | none => s1

def ifpAtomic (s : State) (port : Nat) (p : IfpPacket) : State :=
  ifpAccess s port p ifpAtomicT 8 (fun s =>
    if p.payload.length ≠ 16 then s
    else if replayRefuses s (hSrc p) (hGma p) then ifpResp s p 9 [] else ifpAtomicAt s p)

def execIfpAtomic (port : Nat) (pkt : IfpPacket) (s : State) : Answer := onUnit (decide (port < 18)) (ifpAtomic s port pkt)

/-! ### READ_RESP (11 R273) -/

/-- The answer goes to the mesh request it belongs to. -/
def answerMesh (s : State) (r : FabReq) (p : IfpPacket) : State :=
  match r.src with
  | none => s
  | some q =>
    if hSpec p % 256 ≠ 0 then meshError s q (fabSrc r) (hSpec p % 256)
    else match q.type with
      | .write => meshWriteAck s q (fabSrc r)
      | .read => meshReply s q (fabSrc r) .readResp (zeros 40) p.payload
      | _ => meshReply s q (fabSrc r) .atomicResp (zeros 40) p.payload

/-- It releases the kept request with its tag, whose destination it comes from. -/
def readResp (s : State) (port : Nat) (p : IfpPacket) : State :=
  ifpReceive s port p [ifpRespT] id (fun s =>
    match s.fab.reqs.find? (fun r => r.tag == hTag p && hDest r.pkt == hSrc p) with
    | some r => answerMesh (dropReq s r.tag) r p
    | none => s)

def execReadResp (port : Nat) (pkt : IfpPacket) (s : State) : Answer := onUnit (decide (port < 18)) (readResp s port pkt)

/-! ### REMOTE_KEEPALIVE (09 R229) -/

/-- The frames of this part's pages that a peer holds. -/
def framesOn (s : State) (peer : Nat) : List Nat :=
  (s.pot.objs.map (fun x => x.2.pages.filterMap (fun p => if p.remote = some peer then some p.frame else none))).flatten

/-- 100 ms without an access: an 8-byte READ of one of its pages. Which page, and the stream, are open. -/
def keepalive (s : State) (peer : Nat) : State :=
  match mapFind s.pot.outReads peer with
  | none => s
  | some t =>
    let fs := framesOn s peer
    if fs.isEmpty || decide (elapsed s t < 100 * msCycles) || !reqRoom s then s
    else
      let f := fs.getD (Config.freeNat s.freeNo % fs.length) 0
      keepRequest (useFreeN 2 (peerUsed s peer))
        { type := ifpReadT, vc := 3, dest := peer, gma := stackGma peer f 0, stream := Config.freeNat (s.freeNo + 1) % 2 ^ 24, spec := 8 } none

def execRemoteKeepalive (peer : Nat) (s : State) : Answer := .next (keepalive s peer)

end Sys2Proof.Machine
end

