-- ==== Sys2Proof/Machine/Replay.lean ====
section
/-! DEFINITION. Recording, replay, state save and restore, and host reads that fail (14 R350-R359, 15 R381, 16 Table 16.9).
FRAME_ADMIT stands here, with the frames' arrival and outcome, because a replay supplies them. -/

namespace Sys2Proof.Machine

/-! ### RECORD_START, RECORD_STOP, RECORD_RELEASE (R350-R353) -/

/-- START's payload. -/
def startPayload (s : State) (slot : Nat) (i : Instance) : Bytes :=
  leBytes 8 i.step.toNat ++ seedDigest i ++ leBytes 4 i.imageId ++ leBytes 4 (genCur s slot) ++ leBytes 1 (gradeCode s.grade) ++
  leBytes 2 i.ordinal

/-- A recording begins with its START record. -/
def recordBegin (pf : Nat) (addr : W64) (size : Nat) (s : State) (slot : Nat) : State :=
  let s := modInst s slot (fun i => { i with record := { on := true, pf := pf, addr := addr, sizeLog2 := size } })
  match instOf s slot with
  | some i => recWrite s slot i 0 0 i.step (startPayload s slot i)
  | none => s

/-- The fields that RECORD_START and REPLAY_START share. -/
def ringFields (s : State) (m : MbxId) : List (Nat × Bool) :=
  [reqZero s m 10 6, (16, reqN s m 16 8 % 4096 == 0), (24, 20 ≤ reqN s m 24 1 && reqN s m 24 1 ≤ 40), reqZero s m 25 7]

/-- The opcode of a recording or replay that is on: none free. -/
def recordFree (s : State) (m : MbxId) : Option Err :=
  firstErr [
    need (!instIs s m 8 (fun i => i.record.on)) stBusy 0x0601,
    need (!instIs s m 8 (fun i => i.replay.isSome)) stBusy 0x0604]

def execRecordStart (m : MbxId) (s : State) : Answer :=
  onMbx m (runCmd s m 0x0601 24 (firstErr [fieldCheck s m (ringFields s m), instOk s m 8, recordFree s m])
    (withInst s m 8 (fun slot _ =>
      recordBegin m.pf (BitVec.ofNat 64 (reqN s m 16 8)) (reqN s m 24 1) (reply s m []) slot)))

/-- The recording ends with STOP; an overrun, or no room for STOP, is reported. -/
def recordHalt (s : State) (m : MbxId) (slot : Nat) (i : Instance) : State :=
  let r := mref s m
  let truncated := i.record.overrun || decide (recRoom i.record < recSize 12)
  let s1 := if i.record.on then recEnd (accept s m) slot 0 false else accept s m
  let s1 := modInst s1 slot (fun i => { i with record := { i.record with overrun := false } })
  let n := (instOf s1 slot).elim 0 (fun i => i.record.seq.toNat)
  if truncated then finishErr s1 r { st := stRecordOverrun, d0 := n } else finishOk s1 r (leBytes 4 n ++ zeros 4)

def execRecordStop (m : MbxId) (s : State) : Answer :=
  onMbx m (runCmd s m 0x0602 8
    (firstErr [
      fieldCheck s m [reqZero s m 10 6], instOk s m 8,
      need (instIs s m 8 (fun i => i.record.on || i.record.overrun)) stBadParam 8])
    (withInst s m 8 (recordHalt s m)))

def execRecordRelease (m : MbxId) (s : State) : Answer :=
  onMbx m (runCmd s m 0x0603 16
    (firstErr [
      fieldCheck s m [reqZero s m 10 6], instOk s m 8,
      need (instIs s m 8 (fun i => decide (reqN s m 16 8 ≤ i.record.wr.toNat))) stBadParam 16])
    (withInst s m 8 (fun slot _ =>
      let off := BitVec.ofNat 64 (reqN s m 16 8)
      reply (modInst s slot (fun i => { i with record := { i.record with rd := off } })) m [])))

/-! ### The state a recording or a save belongs to (R354, R358, R360) -/

/-- What differs: 1 seed root, 2 image, 3 generation, 4 grade. -/
def stateDiff (s : State) (slot : Nat) (i : Instance) (digest : Bytes) (image gen grade : Nat) : Option Nat :=
  if seedDigest i ≠ digest then some 1
  else if !i.placed || i.imageId != image then some 2
  else if genCur s slot ≠ gen then some 3
  else if gradeCode s.grade ≠ grade then some 4
  else none

/-! ### Commands and packets of a recording -/

/-- The host reads of a function are held while `f` runs. -/
def holdReads (pf : Nat) (f : State → State) (s : State) : State :=
  if busMaster s pf then bmeSet (f (setBme s pf false)) pf else f s

/-- What a recorded command does, by its opcode; those that steer a recording, frames or a replay have their effect from
the recording itself. -/
def recordedEffects (m : MbxId) : List (Nat × (State → State)) := [
  (0x0003, fun s => nextOf (execRegWrite m s) s),
  (0x0102, fun s => nextOf (execInstanceRemove m s) s),
  (0x0110, fun s => nextOf (execContextCreate m s) s),
  (0x0111, fun s => nextOf (execContextRelease m s) s),
  (0x0112, fun s => nextOf (execPrefixCreate m s) s),
  (0x0113, fun s => nextOf (execPrefixRelease m s) s),
  (0x0114, fun s => nextOf (execDeltaCreate m [] s) s),
  (0x0115, fun s => nextOf (execDeltaReplace m [] s) s),
  (0x0116, fun s => nextOf (execDeltaRelease m s) s),
  (0x0301, fun s => nextOf (execImageLoadPlace m { header := [], entries := [], sig := [] } s) s),
  (0x0301, fun s => nextOf (execImageLoadStage m { header := [], entries := [], sig := [] } s) s),
  (0x0303, fun s => nextOf (execGenBegin m [] s) s),
  (0x0304, fun s => nextOf (execGenCommit m s) s),
  (0x0305, fun s => nextOf (execGenAbort m s) s)]

/-- A recorded command is applied: its request stands in the replay's own mailbox meanwhile, no response is posted, and a
command that reads host memory waits for its read. -/
def applyCommand (effects : List (Nat × (State → State))) (m : MbxId) (req : Bytes) (s : State) : State :=
  let b := mbxAt s m
  let ord := s.order
  let box : Mailbox := { own := true, intEn := false, epoch := 0, req := memWrite [] 0 (req.take 480) }
  let s1 := setMbx { s with order := [m] } m box
  let op := leAt req 0 2
  let s2 := holdReads m.pf (fun s => (effects.filter (fun e => e.1 == op)).foldl (fun s e => e.2 s) s) s1
  setMbx { s2 with order := ord } m b

/-- A recorded packet is applied where it went; a multicast segment's place is that of its operation. -/
def applyFabric (p : IfpPacket) (s : State) : State :=
  if hType p = ifpWriteT then gmaWrite s (hGma p) p.payload
  else if hType p = ifpAtomicT then
    (stackAtomicAt s (gmaOffset (hGma p)) (hSpec p % 16) (w64At p.payload 0) (w64At p.payload 8)).2
  else
    match opFor s p with
    | some (g, o) => gmaWrite s (gmaPlus (delivPlace o g.ids.length (lBlock p)) (segMax * lSeg p)) (p.payload.drop 16)
    | none => s

/-! ### Replay (R354-R356) -/

/-- A recorded command still waits for its host read. -/
def replayHeld (s : State) (m : MbxId) : Bool := s.dmaWait.any (fun w => decide (w.1.id = m) && w.1.epoch == 0)

/-- The recorded outcome of a frame, from the records that follow. -/
def outcomeAhead (tag : W64) : List ReplayRec → Option FrameEnd
  | [] => none
  | .outcome t e :: rs => if t = tag then some e else outcomeAhead tag rs
  | _ :: rs => outcomeAhead tag rs

/-- The frame of a FRAME record. -/
def replayMsg (s : State) (slot : Nat) (i : Instance) (w : Waiting) (step : W64) (gen : Nat) (vers : List Nat)
    (inputs : List Bytes) (e : Option FrameEnd) : FrameMsg :=
  let f := frameOf s slot i w inputs
  { f with
    step := step
    gen := gen
    replayed := true
    seqs := (f.seqs.zipIdx).map (fun x => { x.1 with version := vers.getD x.2 0 })
    marker := match e with
      | some (.failed st j) => some (.failed st j)
      | _ => none }

/-- Nothing holds the next recorded frame. -/
def replayMay (s : State) (slot : Nat) (i : Instance) (p : Replay) (w : Waiting) : Bool :=
  entryHere s i && decide (s.life.partState = psReady) && decide (inFlight i < inFlightMax s slot) && barrierFree s slot i &&
  busMaster s p.mbx.id.pf && (List.range (dSeqs w.desc)).all (fun j => !ctxBusy i (qCtx (seqAt w j)))

/-- A recorded frame is admitted with its own step, generation and versions; none where pages are wanting. -/
def replayFrame (s : State) (slot : Nat) (i : Instance) (supply : FrameSupply) (w : Waiting) (f : FrameMsg)
    (e : Option FrameEnd) : Option State :=
  match resvFrame s slot i (resvList i f.seqs) supply with
  | .error _ => none
  | .ok r =>
    let s := flyFrame r.s slot f r
    let s := if e = some .aborted then modFlight s slot f.step (fun x => { x with abortSeen := true }) else s
    some (modInst s slot (fun i => { i with replay := i.replay.map (fun p => { p with
      frames := p.frames + 1
      openTags := p.openTags ++ [dTag w.desc] }) }))

/-- A frame that never ran is reported again. -/
def replayUnrun (s : State) (slot : Nat) (i : Instance) (tag : W64) (e : FrameEnd) : State :=
  let s := incHold s (svReg slot (if e = .aborted then 0x24 else 0x20)) 32 1
  let s := if (match e with | .refused st _ => st == stStockpotFull | _ => false) then incHold s (spReg 0x30) 32 1 else s
  putMarker s slot (blankMsg tag i.step e true)

/-- The records still to be replayed. -/
def leaveRecs (s : State) (slot : Nat) (rs : List ReplayRec) : State :=
  modInst s slot (fun i => { i with replay := i.replay.map (fun p => { p with recs := rs }) })

/-- The replay is over. -/
def replayEnds (s : State) (slot : Nat) (step : Option W64) : State :=
  match instOf s slot with
  | none => s
  | some i =>
    match i.replay with
    | none => s
    | some p =>
      let s := modInst s slot (fun i => { i with replay := none, step := step.getD i.step })
      finishOk s p.mbx (leBytes 4 p.frames ++ zeros 4)

/-- The step a record bears. -/
def recStep : ReplayRec → Nat
  | .start n .. => n.toNat
  | .frame n .. => n.toNat
  | .outcome .. => 0
  | .command n _ => n.toNat
  | .fabric n _ => n.toNat
  | .stop n => n.toNat

/-- Records are taken in order, up to the next frame decided or the first record that has to wait; of a record whose step
lies above `limit` its time has not come. -/
def replayGo (slot limit : Nat) (supply : FrameSupply) : List ReplayRec → State → State
  | [], s => replayEnds s slot none
  | r :: rs, s =>
    match instOf s slot with
    | none => s
    | some i =>
      match i.replay with
      | none => s
      | some p =>
        if replayHeld s p.mbx.id || decide (limit < recStep r) then leaveRecs s slot (r :: rs)
        else
          match r with
          | .start .. => replayGo slot limit supply rs s
          | .frame step desc seqs gen vers inputs =>
            let w : Waiting := { desc := desc, seqs := seqs, submit := 0 }
            let e := outcomeAhead (dTag desc) rs
            if replayMay s slot i p w then
              match replayFrame s slot i supply w (replayMsg s slot i w step gen vers inputs e) e with
              | some s1 => leaveRecs s1 slot rs
              | none => leaveRecs s slot (r :: rs)
            else leaveRecs s slot (r :: rs)
          | .outcome tag e =>
            if p.openTags.contains tag then
              if i.flight.any (fun f => f.msg.replayed && f.msg.tag == tag) then leaveRecs s slot (r :: rs)
              else replayGo slot limit supply rs
                (modInst s slot (fun i => { i with replay := i.replay.map (fun p => { p with openTags := p.openTags.erase tag }) }))
            else
              match e with
              | .refused st j => leaveRecs (replayUnrun s slot i tag (.refused st j)) slot rs
              | .aborted => leaveRecs (replayUnrun s slot i tag .aborted) slot rs
              | _ => replayGo slot limit supply rs s
          | .command _ req => replayGo slot limit supply rs (applyCommand (recordedEffects p.mbx.id) p.mbx.id req (leaveRecs s slot rs))
          | .fabric _ q => replayGo slot limit supply rs (applyFabric q (leaveRecs s slot rs))
          | .stop step => replayEnds s slot (some step)

/-- The replay under way in a slot goes on, as far as a step. -/
def replayTake (slot limit : Nat) (supply : FrameSupply) (s : State) : State :=
  match instOf s slot with
  | none => s
  | some i =>
    match i.replay with
    | none => s
    | some p => replayGo slot limit supply p.recs s

abbrev noLimit := 2 ^ 64

/-- R354, R355: the recording is one of this instance, and its replay begins. -/
def replayBegin (recs : List ReplayRec) (q : State) (r : MbxRef) (s : State) : State :=
  match instNamed q r.id 8, recs with
  | some p, .start step digest image gen grade _ :: rs =>
    match instOf s p.1 with
    | none => finishErr s r { st := stNoInstance, d0 := p.2.number }
    | some i =>
      match stateDiff s p.1 i digest image gen grade with
      | some k => finishErr s r { st := stStateMismatch, d0 := k }
      | none =>
        let s := setInst s p.1 { i with step := step, replay := some { mbx := r, recs := rs } }
        if entryHere s i then s else replayTake p.1 step.toNat {} s
  | none, _ => finishErr s r { st := stNoInstance }
  | _, _ => finishErr s r { st := stBadParam, d0 := 32 }

def execReplayStart (m : MbxId) (recs : List ReplayRec) (s : State) : Answer :=
  onMbx m (runDma s m 0x0604 32
    (firstErr [
      fieldCheck s m (ringFields s m), instOk s m 8,
      need (!instIs s m 8 (fun i => !i.flight.isEmpty)) stBusy 0, recordFree s m])
    (replayBegin recs))

/-! ### FRAME_ADMIT, FRAME_STAGE_ARRIVAL, FRAME_OUTCOME -/

/-- The next frame: from the recording during a replay, otherwise the next that waits. -/
def execFrameAdmit (slot : Nat) (inputs : List Bytes) (supply : FrameSupply) (s : State) : Answer :=
  onUnit (decide (slot < 64)) (match instOf s slot with
    | none => s
    | some i =>
      if i.replay.isSome then (if entryHere s i then replayTake slot noLimit supply s else s)
      else admitNext s slot inputs supply)

/-- A part that is not the entry part has its recorded commands and packets applied as far as a step. -/
def replayFollow (slot limit : Nat) (s : State) : State :=
  match instOf s slot with
  | some i => if entryHere s i then s else replayTake slot limit {} s
  | none => s

def execFrameStageArrival (slot : Nat) (frame : FrameMsg) (supply : FrameSupply) (s : State) : Answer :=
  onUnit (decide (slot < 64)) (stageArrival (replayFollow slot frame.step.toNat s) slot frame supply)

def execFrameOutcome (slot : Nat) (out : OutcomeMsg) (s : State) : Answer :=
  onUnit (decide (slot < 64)) (replayFollow slot (out.step.toNat + 1) (frameOutcome s slot out))

def execFrameCommit (slot : Nat) (results : List SeqResult) (s : State) : Answer :=
  let step := (instOf s slot).bind (fun i => i.flight.head?.map (fun f => f.msg.step.toNat))
  onUnit (decide (slot < 64)) (match step with
    | some n => replayFollow slot (n + 1) (frameCommit s slot results)
    | none => frameCommit s slot results)

/-! ### STATE_SAVE, STATE_SAVE_DRAINED, RESUME (R357) -/

def execStateSave (m : MbxId) (s : State) : Answer :=
  onMbx m (runCmd s m 0x0605 24
    (firstErr [
      fieldCheck s m [(10, reqN s m 10 1 < 2), reqZero s m 11 5], instOk s m 8,
      match instNamed s m 8 with
      | some p => firstErr [need (genState s p.1 != 2) stBusy 0x0304, need p.2.save.isNone stBusy 0x0605]
      | none => none])
    (withInst s m 8 (fun slot _ =>
      let v : Save := { mbx := mref s m, pause := reqN s m 10 1 == 1, addr := BitVec.ofNat 64 (reqN s m 16 8)
                        cap := BitVec.ofNat 64 (reqN s m 24 8) }
      modInst (accept s m) slot (fun i => { i with save := some v }))))

/-- A page as it is saved; the bytes of a page held on another part are not this part's to read. -/
def savePage (s : State) (p : Page) : SavedPage :=
  { key := refKey p, shared := p.shared, fill := p.fill
    data := if p.remote.isSome then []
      else (s.stackMem.filter (fun c => decide (c.1 / frameBytes = p.frame))).map (fun c => (c.1 % frameBytes, c.2)) }

/-- The handles of an instance's CONTEXT, PREFIX and DELTA objects. -/
def savedHandles (i : Instance) : List Nat :=
  i.ctxs.map Prod.fst ++ i.pfxs.map Prod.fst ++ i.sets.map Prod.fst ++ i.vers.map Prod.fst

/-- This part's state of an instance. -/
def savedState (s : State) (slot : Nat) (i : Instance) : SavedState :=
  { head := if entryHere s i then
      some { step := i.step, seedDigest := seedDigest i, imageId := i.imageId, gen := genCur s slot, grade := gradeCode s.grade }
      else none
    objs := (savedHandles i).foldl (fun l h => mapSet l h ((objAt s h).elim [] (fun o => o.pages.map (savePage s)))) []
    ctxs := i.ctxs
    pfxs := i.pfxs
    sets := i.sets.map (fun x => (x.1, x.2.cur))
    vers := i.vers }

/-- Every part writes its state once no frame is in flight. The form of the state in the buffer is open. -/
def saveDrained (s : State) (slot : Nat) : State :=
  match instOf s slot with
  | none => s
  | some i =>
    match i.save with
    | none => s
    | some v =>
      if i.flight.isEmpty then
        let bs := Config.savedBytes (savedState s slot i)
        let s1 := modInst s slot (fun i => { i with save := none, pause := i.pause || (v.pause && entryHere s i) })
        if v.cap.toNat < bs.length then finishErr s1 v.mbx { st := stBadParam, d0 := ceilDiv bs.length 4096 }
        else finishOk (dmaWrite s1 v.mbx.id.pf v.addr bs) v.mbx (leBytes 8 bs.length)
      else s

def execStateSaveDrained (slot : Nat) (s : State) : Answer := onUnit (decide (slot < 64)) (saveDrained s slot)

def execResume (m : MbxId) (s : State) : Answer :=
  onMbx m (runCmd s m 0x0607 8
    (firstErr [fieldCheck s m [reqZero s m 10 6], entryOk s m 8, need (instIs s m 8 (fun i => i.pause)) stBadParam 8])
    (withInst s m 8 (fun slot _ => reply (modInst s slot (fun i => { i with pause := false })) m [])))

/-! ### STATE_RESTORE (R358) -/

/-- A page is made again: the frame its key has, shared once more, or a new one with its bytes. -/
def restorePage (secure : Bool) (h i : Nat) (g : SavedPage) (keys : SMap Page) (s : State) : Option (Page × SMap Page × State) :=
  match (if g.shared then mapFind keys g.key else none) with
  | some p => (holdPages [p] s).map (fun s1 => (p, keys, s1))
  | none =>
    match allocPage s secure h i with
    | none => none
    | some (p, s1) =>
      let q := { p with shared := g.shared, fill := g.fill }
      let m := (g.data.filter (fun c => decide (c.1 < frameBytes))).foldl
        (fun m c => memSet m (p.frame * frameBytes + c.1) c.2) (memZero s1.stackMem (p.frame * frameBytes) frameBytes)
      some (q, mapSet keys g.key q, { s1 with stackMem := m })

def restorePages (secure : Bool) (h i : Nat) : List SavedPage → SMap Page → State → Option (List Page × SMap Page × State)
  | [], keys, s => some ([], keys, s)
  | g :: gs, keys, s =>
    match restorePage secure h i g keys s with
    | none => none
    | some (p, keys, s) =>
      match restorePages secure h (i + 1) gs keys s with
      | some (ps, keys, s) => some (p :: ps, keys, s)
      | none => none

/-- Objects are made again under their handles; none where the pool cannot supply them. -/
def restoreObjs (slot : Nat) (secure : Bool) : List (Nat × List SavedPage) → SMap Page → State → Option State
  | [], _, s => some s
  | (h, gs) :: os, keys, s =>
    match restorePages secure h 0 gs keys s with
    | none => none
    | some (ps, keys, s) => restoreObjs slot secure os keys (setObj s h { inst := slot, secure := secure, pages := ps })

/-- Entries of a saved table, in the table's order. -/
def mapOf {α : Type} (l : List (Nat × α)) : SMap α := l.foldl (fun m e => mapSet m e.1 e.2) []

/-- The instance's tables and its step as they were saved. -/
def restoreInst (v : SavedState) (i : Instance) : Instance :=
  { i with
    ctxs := mapOf (v.ctxs.map (fun e => (e.1, { e.2 with busy := false })))
    pfxs := mapOf v.pfxs
    sets := mapOf (v.sets.map (fun e => (e.1, { cur := e.2 })))
    vers := mapOf v.vers
    step := v.head.elim i.step (fun h => h.step)
    pause := false
    restoring := false }

/-- R358: what the save holds belongs to this instance. -/
def restoreDiff (s : State) (slot : Nat) (i : Instance) (v : SavedState) : Option Nat :=
  match v.head with
  | some h => stateDiff s slot i h.seedDigest h.imageId h.gen h.grade
  | none => if i.placed then none else some 2

/-- The objects that the instance holds give way to those saved, and its slices start in ARRAY with zero counts (R359). -/
def restoreRun (saved : SavedState) (q : State) (r : MbxRef) (s : State) : State :=
  match instNamed q r.id 8 with
  | none => finishErr s r { st := stNoInstance }
  | some p =>
    match instOf s p.1 with
    | none => finishErr s r { st := stNoInstance, d0 := p.2.number }
    | some i =>
      let s0 := modInst s p.1 (fun i => { i with restoring := false })
      match restoreDiff s p.1 i saved with
      | some k => finishErr s0 r { st := stStateMismatch, d0 := k }
      | none =>
        let s1 := (savedHandles i).foldl freeObj s0
        if saved.objs.any (fun e => (objAt s1 e.1).isSome) then finishErr s0 r { st := stStateMismatch }
        else
          match restoreObjs p.1 i.secure saved.objs [] s1 with
          | none => finishErr s0 r { st := stStockpotFull }
          | some s2 => finishOk (i.layers.foldl resetSlices (modInst s2 p.1 (restoreInst saved))) r []

/-- No set loads or waits for a generation. -/
def setsQuiet (i : Instance) : Bool := i.sets.all (fun x => x.2.loading.isNone && x.2.pending.isNone)

/-- The barrier is raised while an accepted restore waits for its host read. -/
def execStateRestore (m : MbxId) (saved : SavedState) (s : State) : Answer :=
  let s1 := runDma s m 0x0606 24
    (firstErr [
      fieldCheck s m [reqZero s m 10 6], instOk s m 8,
      need (!instIs s m 8 (fun i => !i.flight.isEmpty)) stBusy 0, need (instIs s m 8 setsQuiet) stBusy 0x0115])
    (restoreRun saved)
  onMbx m (match heldCmd s1 m 0x0606 with
    | some w => withInst (reqView s1 w.1 w.2) m 8 (fun slot _ => modInst s1 slot (fun i => { i with restoring := true }))
    | none => s1)

/-! ### DMA_READ_ERROR (15 R381, 20 cause 16) -/

/-- The fault record of a failed host read. What its DETAIL holds is open. -/
def dmaFault (s : State) (cls inst : Nat) (step : W64) : State :=
  faultRecord (useFree s)
    { cls := cls, cause := 16, unit := Config.noUnit, inst := inst, step := step, detail := BitVec.ofNat 64 (Config.freeNat s.freeNo) }

/-- A frame whose inputs could not be read fails on the entry part. -/
def frameDmaError (s : State) (slot : Nat) (step : W64) : State :=
  match instOf s slot with
  | none => s
  | some i =>
    if entryHere s i && i.flight.any (fun f => f.msg.step == step && f.msg.marker.isNone) then
      dmaFault (modFlight (dropFrameWork s slot step) slot step (fun f => { f with msg := { f.msg with marker := some (.failed stDmaError i.ordinal) } }))
        2 i.number step
    else s

/-- The commands that read host memory; the host's read is held until their data is there. -/
def readingEffects (m : MbxId) : List (Nat × (State → State)) := [
  (0x0201, fun s => nextOf (execFrameSubmit m [] [] s) s),
  (0x0114, fun s => nextOf (execDeltaCreate m [] s) s),
  (0x0115, fun s => nextOf (execDeltaReplace m [] s) s),
  (0x0301, fun s => nextOf (execImageLoadPlace m { header := [], entries := [], sig := [] } s) s),
  (0x0301, fun s => nextOf (execImageLoadStage m { header := [], entries := [], sig := [] } s) s),
  (0x0401, fun s => nextOf (execGroupDefine m [] s) s),
  (0x0604, fun s => nextOf (execReplayStart m [] s) s),
  (0x0606, fun s => nextOf (execStateRestore m { head := none, objs := [], ctxs := [], pfxs := [], sets := [], vers := [] } s) s),
  (0x0806, fun s => nextOf (execFwLoad m [] s) s)]

/-- ST_DMA_ERROR, with the low half of the address. -/
def dmaErr (addr : W64) : Err := { st := stDmaError, d0 := addr.toNat % 2 ^ 32 }

/-- A command whose read was held ends; a firmware load leaves stage 2, a restore lowers the barrier. -/
def heldError (s : State) (m : MbxId) (addr : W64) (w : MbxRef × SMap Byte) : State :=
  let v := reqView s w.1 w.2
  let s := if w.1.op = 0x0806 then setStage s 1
    else if w.1.op = 0x0606 then withInst v m 8 (fun slot _ => modInst s slot (fun i => { i with restoring := false }))
    else s
  let inst := if 0x0100 < w.1.op ∧ w.1.op < 0x0800 ∧ w.1.op ≠ 0x0401 then (instNamed v m 8).elim 0xFFFF (fun p => p.2.number) else 0xFFFF
  finishErr (dmaFault { s with dmaWait := s.dmaWait.filter (fun x => x != w) } 2 inst 0) w.1 (dmaErr addr)

def heldOf (s : State) (m : MbxId) : Option (MbxRef × SMap Byte) := s.dmaWait.find? (fun w => decide (w.1.id = m))

/-- The frames of a list that are not admitted yet are not taken. -/
def submitError (s : State) (slot : Nat) (i : Instance) (b : Submit) (addr : W64) : State :=
  let s := setInst s slot { i with
    waiting := i.waiting.filter (fun w => w.submit != b.id)
    submits := i.submits.filter (fun x => x.id != b.id) }
  finishErr (dmaFault s 2 i.number 0) b.mbx (dmaErr addr)

/-- A command whose work under way reads host memory: a list of frames, a load's reader, a replay. -/
def workError (s : State) (m : MbxId) (addr : W64) : Option State :=
  s.insts.findSome? (fun p =>
    match p.2.submits.find? (fun b => b.mbx.id == m) with
    | some b => some (submitError s p.1 p.2 b addr)
    | none =>
      if p.2.load.any (fun l => l.reader && l.mbx.id == m) then some (endLoad (dmaFault s 2 p.2.number 0) p.1 (dmaErr addr))
      else
        match p.2.replay with
        | some r =>
          if r.mbx.id = m then
            some (finishErr (dmaFault (setInst s p.1 { p.2 with replay := none }) 2 p.2.number 0) r.mbx (dmaErr addr))
          else none
        | none => none)

/-- The read of a command fails. One that is first in its turn is checked and accepted before its read. -/
def cmdDmaError (s : State) (m : MbxId) (addr : W64) : State :=
  match heldOf s m with
  | some w => heldError s m addr w
  | none =>
    match workError s m addr with
    | some s1 => s1
    | none =>
      if s.order.head? == some m then
        let s1 := holdReads m.pf (fun s => ((readingEffects m).filter (fun e => e.1 == reqOp s m)).foldl (fun s e => e.2 s) s) s
        match heldOf s1 m with
        | some w => heldError s1 m addr w
        | none => s1
      else s

/-- A TAIL read fails no frame and gives no new TAIL (15 R375). -/
def tailDmaError (s : State) (slot : Nat) : State :=
  match instOf s slot with
  | some i => if ringWaits s slot i then dmaFault s 1 i.number 0 else s
  | none => s

def execDmaReadError (user : DmaUser) (addr : W64) (s : State) : Answer :=
  match user with
  | .frame slot step => onUnit (decide (slot < 64)) (frameDmaError s slot step)
  | .command m => onMbx m (if busMaster s m.pf then cmdDmaError s m addr else s)
  | .tail slot => onUnit (decide (slot < 64)) (if busMaster s 0 then tailDmaError s slot else s)

end Sys2Proof.Machine
end

