-- ==== Sys2Proof/Machine/Window.lean ====
section
/-! DEFINITION. Views of the part from outside its commands: the control window as the Kettle reaches it over the mesh
(09 R212), the functions' identities, and the status window of the host, BAR2 (15 R363, R378, R379). -/

namespace Sys2Proof.Machine

/-! ### MESH_PACKET_DELIVER, with the control window (08 R192, 09 R212) -/

/-- The offsets of the words that a range of the control window touches. -/
def windowWords (off n : Nat) : List Nat := if n = 0 then [] else (List.range ((off + n - 1) / 4 - off / 4 + 1)).map (fun i => 4 * (off / 4 + i))

def windowRead (s : State) (off n : Nat) : Bytes × State :=
  let r := readWords ((windowWords off n).map (fun o => (0, o))) s
  (slice r.1 (off % 4) n, r.2)

/-- A word takes the bytes written to it; the bytes of it that are not written keep what a read shows (DESIGN CHOICE, log
166). -/
def windowWord (off : Nat) (bs : Bytes) (s : State) (o : Nat) : State :=
  let old := leBytes 4 (regView s o).toNat
  let new := (List.range 4).map (fun i => if off ≤ o + i ∧ o + i < off + bs.length then byteAt bs (o + i - off) else byteAt old i)
  writeEffect s o (BitVec.ofNat 32 (leAt new 0 4))

/-- The Kettle's access to the control window. An atomic operation is refused as one that no target supports (DESIGN CHOICE,
log 166). -/
def windowAccess (s : State) (p : MeshPacket) (src : Nat) : State :=
  let off := gmaOffset p.gma
  match p.type with
  | .read => let r := windowRead s off (accessLen p); meshReply r.2 p src .readResp (zeros 40) r.1
  | .write => meshWriteAck ((windowWords off p.payload.length).foldl (windowWord off p.payload) s) p src
  | .atomic => meshRefuse s p src 1
  | _ => s

def execMeshPacketDeliver (n : Nat) (errs : List (Nat × FlitError)) (s : State) : Answer := .next (deliver windowAccess s n errs)

/-! ### The functions (15 Table 15.2) -/

def classCode (pf : Nat) : Nat := if pf = 0 then 0x120000 else 0x088000

def deviceId (g : Grade) (pf : Nat) : Nat := (match g with | .g8200 => 0x8200 | .g8170 => 0x8170) + pf

/-! ### BAR2 (15 Table 15.9) -/

/-- A 32-bit word of a field of `n` bytes, by the word's place in it (00 R8). -/
def fieldWord (v off : Nat) : W32 := BitVec.ofNat 32 (v / 2 ^ (8 * off))

/-- Record state of an instance page. -/
def recordState (i : Instance) : Nat := if i.replay.isSome then 3 else if i.record.overrun then 2 else if i.record.on then 1 else 0

/-- A word of an instance page. -/
def instPageWord (i : Instance) (x : Nat) : W32 :=
  if x < 8 then fieldWord i.ring.head.toNat x
  else if x < 0x10 then fieldWord i.ring.tail.toNat (x - 8)
  else if x < 0x18 then fieldWord i.record.wr.toNat (x - 0x10)
  else if x = 0x18 then BitVec.ofNat 32 (recordState i)
  else if x = 0x1C then i.ring.tailErr
  else 0

/-- The identity words, the counters and rack time. -/
def statusWord (s : State) (pf o : Nat) : W32 :=
  if o = 0 then BitVec.ofNat 32 (s.life.fw.elim 0 (fun f => f.release))
  else if o = 4 then BitVec.ofNat 32 (s.life.fw.elim 3 (fun f => f.mbxIf))
  else if o = 8 then BitVec.ofNat 32 (fwBuild s)
  else if o = 0x0C then BitVec.ofNat 32 (gradeCode s.grade)
  else if o = 0x10 then BitVec.ofNat 32 (s.life.partState + 256 * s.life.stage)
  else if o = 0x14 then rd s (fabReg 4)
  else if o = 0x18 then BitVec.ofNat 32 s.life.lcState
  else if o = 0x1C then s.life.heartbeat
  else if 0x20 ≤ o ∧ o < 0x40 then BitVec.ofNat 32 (leAt serialDigest (o - 0x20) 4)
  else if 0x40 ≤ o ∧ o < 0x58 then
    (if pf = 0 then mapGet 0 s.vecCount (vecKey 0 (64 + (o - 0x40) / 4))
     else if o < 0x54 then mapGet 0 s.vecCount (vecKey 1 (8 + (o - 0x40) / 4)) else 0)
  else if o = 0x60 ∨ o = 0x64 then fieldWord s.rackTime.toNat (o - 0x60)
  else 0

/-- A serving or image slot block of a secure-world instance. -/
def secureSlotBlock (s : State) (o : Nat) : Bool :=
  match regBlock o with
  | .sv _ _ => regSecure s o
  | .imgSlot _ _ => regSecure s o
  | _ => false

/-- The mirror of a register: staging copies of staged registers, zero for a WO one, and a high word that goes with its low
word. -/
def mirrorWord (s : State) (pf o : Nat) : W32 :=
  if pf = 0 ∧ secureSlotBlock s o = true then 0 else regView (readEffect s (o - 4)) o

/-- A word of the status window, at an aligned offset. Every word is taken as current (log 165). -/
def bar2Word (s : State) (pf o : Nat) : W32 :=
  if o < 0x10000 then statusWord s pf o
  else if o < 0x10000 + 64 * 0x1000 then
    match instOf s ((o - 0x10000) / 0x1000) with
    | some i => if pf = 0 ∧ i.secure = true then 0 else instPageWord i (o % 0x1000)
    | none => 0
  else if 0x110000 ≤ o ∧ o < 0x1D0000 then mirrorWord s pf (0x0E000000 + (o - 0x100000) / 0x10000 * 0x100000 + o % 0x10000)
  else 0

/-- What a read of BAR2 answers, without any effect; none: the endpoint does not answer (19 R443). -/
def bar2Read (s : State) (pf o : Nat) : Option W32 := if s.life.linkUp && o % 4 == 0 && decide (o < 0x400000) then some (bar2Word s pf o) else none

end Sys2Proof.Machine
end

