-- ==== Sys2Proof/Machine/Dispatch.lean ====
section
/-! DEFINITION. Every command's meaning, one arm per constructor. -/

namespace Sys2Proof.Machine

def exec (i : Instr) (s : State) : Host.Outcome State Fault Refusal :=
  match i with
  | .getInfo m => Sys2Proof.Machine.execGetInfo m s
  | .regRead m => Sys2Proof.Machine.execRegRead m s
  | .regWrite m => Sys2Proof.Machine.execRegWrite m s
  | .faultRead m => Sys2Proof.Machine.execFaultRead m s
  | .resetWarm m => Sys2Proof.Machine.execResetWarm m s
  | .resetFabricPort m => Sys2Proof.Machine.execResetFabricPort m s
  | .resetDrainEnd => Sys2Proof.Machine.execResetDrainEnd s
  | .instanceCreate m => Sys2Proof.Machine.execInstanceCreate m s
  | .instanceRemove m => Sys2Proof.Machine.execInstanceRemove m s
  | .instanceRemoveDrained slot => Sys2Proof.Machine.execInstanceRemoveDrained slot s
  | .contextCreate m => Sys2Proof.Machine.execContextCreate m s
  | .contextRelease m => Sys2Proof.Machine.execContextRelease m s
  | .prefixCreate m => Sys2Proof.Machine.execPrefixCreate m s
  | .prefixRelease m => Sys2Proof.Machine.execPrefixRelease m s
  | .deltaCreate m src => Sys2Proof.Machine.execDeltaCreate m src s
  | .deltaReplace m src => Sys2Proof.Machine.execDeltaReplace m src s
  | .deltaSwitch slot handle => Sys2Proof.Machine.execDeltaSwitch slot handle s
  | .deltaRelease m => Sys2Proof.Machine.execDeltaRelease m s
  | .frameSubmit m descs seqs => Sys2Proof.Machine.execFrameSubmit m descs seqs s
  | .frameAdmit slot inputs supply => Sys2Proof.Machine.execFrameAdmit slot inputs supply s
  | .frameStageArrival slot frame supply => Sys2Proof.Machine.execFrameStageArrival slot frame supply s
  | .frameCommit slot results => Sys2Proof.Machine.execFrameCommit slot results s
  | .frameOutcome slot out => Sys2Proof.Machine.execFrameOutcome slot out s
  | .abort m => Sys2Proof.Machine.execAbort m s
  | .abortNotice slot step => Sys2Proof.Machine.execAbortNotice slot step s
  | .passBoundary slot step => Sys2Proof.Machine.execPassBoundary slot step s
  | .edgeSliceConvert site head vec members => Sys2Proof.Machine.execEdgeSliceConvert site head vec members s
  | .tilePass site slot => Sys2Proof.Machine.execTilePass site slot s
  | .chainPromotion site head => Sys2Proof.Machine.execChainPromotion site head s
  | .sieveAddback site head => Sys2Proof.Machine.execSieveAddback site head s
  | .shadowRowArrival site slot row => Sys2Proof.Machine.execShadowRowArrival site slot row s
  | .columnClose site head => Sys2Proof.Machine.execColumnClose site head s
  | .adcDwellComplete site slot sets => Sys2Proof.Machine.execAdcDwellComplete site slot sets s
  | .fbWindowEnd => Sys2Proof.Machine.execFbWindowEnd s
  | .fallbackPass site head => Sys2Proof.Machine.execFallbackPass site head s
  | .standinPass site head members => Sys2Proof.Machine.execStandinPass site head members s
  | .deltaItem site head => Sys2Proof.Machine.execDeltaItem site head s
  | .compiledProgramItem site slot item upsets => Sys2Proof.Machine.execCompiledProgramItem site slot item upsets s
  | .engineRoundEnd site => Sys2Proof.Machine.execEngineRoundEnd site s
  | .spoonRecompute site => Sys2Proof.Machine.execSpoonRecompute site s
  | .spoonCaptureExpiry site => Sys2Proof.Machine.execSpoonCaptureExpiry site s
  | .spoonRun m => Sys2Proof.Machine.execSpoonRun m s
  | .spoonRead m => Sys2Proof.Machine.execSpoonRead m s
  | .spoonRingSizeWrite value => Sys2Proof.Machine.execSpoonRingSizeWrite value s
  | .residualRead m => Sys2Proof.Machine.execResidualRead m s
  | .calRun m => Sys2Proof.Machine.execCalRun m s
  | .calRunStart site slot => Sys2Proof.Machine.execCalRunStart site slot s
  | .calStageComplete site slot meas => Sys2Proof.Machine.execCalStageComplete site slot meas s
  | .calRunEnd site slot => Sys2Proof.Machine.execCalRunEnd site slot s
  | .refreshDue site slot => Sys2Proof.Machine.execRefreshDue site slot s
  | .refreshStart site slot => Sys2Proof.Machine.execRefreshStart site slot s
  | .arrayProgramStart site slot => Sys2Proof.Machine.execArrayProgramStart site slot s
  | .arrayWriteComplete site slot found misread => Sys2Proof.Machine.execArrayWriteComplete site slot found misread s
  | .coreStoreScrub site upsets => Sys2Proof.Machine.execCoreStoreScrub site upsets s
  | .meshPacketInject pkt => Sys2Proof.Machine.execMeshPacketInject pkt s
  | .meshPacketDeliver n errs => Sys2Proof.Machine.execMeshPacketDeliver n errs s
  | .stackRead stack pkt upsets => Sys2Proof.Machine.execStackRead stack pkt upsets s
  | .stackWrite stack pkt => Sys2Proof.Machine.execStackWrite stack pkt s
  | .stackAtomic stack pkt => Sys2Proof.Machine.execStackAtomic stack pkt s
  | .stackScrub stack upsets => Sys2Proof.Machine.execStackScrub stack upsets s
  | .stackLinkReplay stack failed => Sys2Proof.Machine.execStackLinkReplay stack failed s
  | .stackLinkRetrain stack => Sys2Proof.Machine.execStackLinkRetrain stack s
  | .stackRetrainComplete stack ok => Sys2Proof.Machine.execStackRetrainComplete stack ok s
  | .stackOccSample stack => Sys2Proof.Machine.execStackOccSample stack s
  | .stockpotWindowEnd => Sys2Proof.Machine.execStockpotWindowEnd s
  | .copyOnWrite slot handle page => Sys2Proof.Machine.execCopyOnWrite slot handle page s
  | .pageMigrateRound handle page => Sys2Proof.Machine.execPageMigrateRound handle page s
  | .remotePageRequest peer secure frames => Sys2Proof.Machine.execRemotePageRequest peer secure frames s
  | .remoteKeepalive peer => Sys2Proof.Machine.execRemoteKeepalive peer s
  | .remoteHoldExpiry peer => Sys2Proof.Machine.execRemoteHoldExpiry peer s
  | .signalDetect port => Sys2Proof.Machine.execSignalDetect port s
  | .trainingComplete port ok => Sys2Proof.Machine.execTrainingComplete port ok s
  | .lossOfSignal port => Sys2Proof.Machine.execLossOfSignal port s
  | .hello port pkt => Sys2Proof.Machine.execHello port pkt s
  | .helloTimeout port => Sys2Proof.Machine.execHelloTimeout port s
  | .confirm port pkt => Sys2Proof.Machine.execConfirm port pkt s
  | .leave port pkt => Sys2Proof.Machine.execLeave port pkt s
  | .planeRemapDecision => Sys2Proof.Machine.execPlaneRemapDecision s
  | .drainComplete port => Sys2Proof.Machine.execDrainComplete port s
  | .fpReset port => Sys2Proof.Machine.execFpReset port s
  | .fpDrain port => Sys2Proof.Machine.execFpDrain port s
  | .fpDisable port on => Sys2Proof.Machine.execFpDisable port on s
  | .portPolicyWrite value => Sys2Proof.Machine.execPortPolicyWrite value s
  | .coordCommit coord => Sys2Proof.Machine.execCoordCommit coord s
  | .coordTakeover coord => Sys2Proof.Machine.execCoordTakeover coord s
  | .rackTick => Sys2Proof.Machine.execRackTick s
  | .rackTickMissing => Sys2Proof.Machine.execRackTickMissing s
  | .rackRefclkLost => Sys2Proof.Machine.execRackRefclkLost s
  | .discTime port pkt => Sys2Proof.Machine.execDiscTime port pkt s
  | .ifpWrite port pkt => Sys2Proof.Machine.execIfpWrite port pkt s
  | .ifpRead port pkt => Sys2Proof.Machine.execIfpRead port pkt s
  | .ifpAtomic port pkt => Sys2Proof.Machine.execIfpAtomic port pkt s
  | .readResp port pkt => Sys2Proof.Machine.execReadResp port pkt s
  | .planeWaitTimeout => Sys2Proof.Machine.execPlaneWaitTimeout s
  | .fabricLinkReplay port failed fecCe fecUe => Sys2Proof.Machine.execFabricLinkReplay port failed fecCe fecUe s
  | .linkDeath port => Sys2Proof.Machine.execLinkDeath port s
  | .faultNoticePath port pkt => Sys2Proof.Machine.execFaultNoticePath port pkt s
  | .reqTmoExpiry tag => Sys2Proof.Machine.execReqTmoExpiry tag s
  | .groupDefine m list => Sys2Proof.Machine.execGroupDefine m list s
  | .groupDelete m => Sys2Proof.Machine.execGroupDelete m s
  | .multicast m => Sys2Proof.Machine.execMulticast m s
  | .allReduce m => Sys2Proof.Machine.execAllReduce m s
  | .reduceScatter m => Sys2Proof.Machine.execReduceScatter m s
  | .allGather m => Sys2Proof.Machine.execAllGather m s
  | .barrier m => Sys2Proof.Machine.execBarrier m s
  | .ladleFirstTransmission => Sys2Proof.Machine.execLadleFirstTransmission s
  | .data port pkt => Sys2Proof.Machine.execData port pkt s
  | .ack port pkt => Sys2Proof.Machine.execAck port pkt s
  | .ackHoldExpiry group opId phase block src => Sys2Proof.Machine.execAckHoldExpiry group opId phase block src s
  | .nobuf port pkt => Sys2Proof.Machine.execNobuf port pkt s
  | .ladleRetry group opId phase block target timedOut => Sys2Proof.Machine.execLadleRetry group opId phase block target timedOut s
  | .reject port pkt => Sys2Proof.Machine.execReject port pkt s
  | .targetUnresponsive group opId phase block target => Sys2Proof.Machine.execTargetUnresponsive group opId phase block target s
  | .probe port pkt => Sys2Proof.Machine.execProbe port pkt s
  | .opTmoExpiry group opId => Sys2Proof.Machine.execOpTmoExpiry group opId s
  | .arrive port pkt => Sys2Proof.Machine.execArrive port pkt s
  | .release port pkt => Sys2Proof.Machine.execRelease port pkt s
  | .barrierTmoExpiry group opId => Sys2Proof.Machine.execBarrierTmoExpiry group opId s
  | .fail port pkt => Sys2Proof.Machine.execFail port pkt s
  | .report port pkt => Sys2Proof.Machine.execReport port pkt s
  | .echo port pkt => Sys2Proof.Machine.execEcho port pkt s
  | .collectorRecordExpiry suspect => Sys2Proof.Machine.execCollectorRecordExpiry suspect s
  | .echoWaitExpiry suspect => Sys2Proof.Machine.execEchoWaitExpiry suspect s
  | .faultEpochEnd => Sys2Proof.Machine.execFaultEpochEnd s
  | .imageLoadPlace m head => Sys2Proof.Machine.execImageLoadPlace m head s
  | .imageLoadStage m head => Sys2Proof.Machine.execImageLoadStage m head s
  | .imageManifest slot head seedDigest => Sys2Proof.Machine.execImageManifest slot head seedDigest s
  | .imageSection slot index body => Sys2Proof.Machine.execImageSection slot index body s
  | .imageVerdict slot index pass => Sys2Proof.Machine.execImageVerdict slot index pass s
  | .imageRejection slot reason detail => Sys2Proof.Machine.execImageRejection slot reason detail s
  | .layerWrite slot layer => Sys2Proof.Machine.execLayerWrite slot layer s
  | .imageStatus m => Sys2Proof.Machine.execImageStatus m s
  | .genBegin m fails => Sys2Proof.Machine.execGenBegin m fails s
  | .genCommit m => Sys2Proof.Machine.execGenCommit m s
  | .genAbort m => Sys2Proof.Machine.execGenAbort m s
  | .genLayerRewrite slot layer => Sys2Proof.Machine.execGenLayerRewrite slot layer s
  | .genBarrierOpen slot => Sys2Proof.Machine.execGenBarrierOpen slot s
  | .recordStart m => Sys2Proof.Machine.execRecordStart m s
  | .recordStop m => Sys2Proof.Machine.execRecordStop m s
  | .recordRelease m => Sys2Proof.Machine.execRecordRelease m s
  | .replayStart m recs => Sys2Proof.Machine.execReplayStart m recs s
  | .stateSave m => Sys2Proof.Machine.execStateSave m s
  | .stateSaveDrained slot => Sys2Proof.Machine.execStateSaveDrained slot s
  | .stateRestore m saved => Sys2Proof.Machine.execStateRestore m saved s
  | .resume m => Sys2Proof.Machine.execResume m s
  | .mbxCtlWrite m value lowBytes => Sys2Proof.Machine.execMbxCtlWrite m value lowBytes s
  | .mbxRequestWrite m offset bytes => Sys2Proof.Machine.execMbxRequestWrite m offset bytes s
  | .functionLevelReset pf => Sys2Proof.Machine.execFunctionLevelReset pf s
  | .busMasterEnableSet pf => Sys2Proof.Machine.execBusMasterEnableSet pf s
  | .dmaReadError user addr => Sys2Proof.Machine.execDmaReadError user addr s
  | .ringTailRead slot tail => Sys2Proof.Machine.execRingTailRead slot tail s
  | .ringHoldoffEnd slot => Sys2Proof.Machine.execRingHoldoffEnd slot s
  | .heartbeatTick => Sys2Proof.Machine.execHeartbeatTick s
  | .powerSet m => Sys2Proof.Machine.execPowerSet m s
  | .hksConversion channel code value => Sys2Proof.Machine.execHksConversion channel code value s
  | .slowRoundEnd => Sys2Proof.Machine.execSlowRoundEnd s
  | .hkiWindowEnd vin iin iib => Sys2Proof.Machine.execHkiWindowEnd vin iin iib s
  | .rateBlockEnd => Sys2Proof.Machine.execRateBlockEnd s
  | .arithClockStep => Sys2Proof.Machine.execArithClockStep s
  | .hksSliceDwellEnd setA setB => Sys2Proof.Machine.execHksSliceDwellEnd setA setB s
  | .nearLimitRecord => Sys2Proof.Machine.execNearLimitRecord s
  | .nearLimitEpisodeEnd => Sys2Proof.Machine.execNearLimitEpisodeEnd s
  | .inputOvercurrentShutdown => Sys2Proof.Machine.execInputOvercurrentShutdown s
  | .overvoltageShutdown => Sys2Proof.Machine.execOvervoltageShutdown s
  | .trivetRestart => Sys2Proof.Machine.execTrivetRestart s
  | .tripClear => Sys2Proof.Machine.execTripClear s
  | .sledCapWrite value => Sys2Proof.Machine.execSledCapWrite value s
  | .hkEventsClear value => Sys2Proof.Machine.execHkEventsClear value s
  | .hkTdacWrite value => Sys2Proof.Machine.execHkTdacWrite value s
  | .vinRemoved => Sys2Proof.Machine.execVinRemoved s
  | .coldReset => Sys2Proof.Machine.execColdReset s
  | .perstNAssert => Sys2Proof.Machine.execPerstNAssert s
  | .railInRegulation rail => Sys2Proof.Machine.execRailInRegulation rail s
  | .fwLoad m image => Sys2Proof.Machine.execFwLoad m image s
  | .startupStageComplete => Sys2Proof.Machine.execStartupStageComplete s
  | .discoveryTimeout => Sys2Proof.Machine.execDiscoveryTimeout s
  | .testRun m => Sys2Proof.Machine.execTestRun m s
  | .bistSliceStart unit covered => Sys2Proof.Machine.execBistSliceStart unit covered s
  | .bistSliceComplete unit failed => Sys2Proof.Machine.execBistSliceComplete unit failed s
  | .bistBudgetExpiry unit => Sys2Proof.Machine.execBistBudgetExpiry unit s
  | .worldAssign m => Sys2Proof.Machine.execWorldAssign m s
  | .unitClearingComplete kind unit => Sys2Proof.Machine.execUnitClearingComplete kind unit s
  | .keyRegister m => Sys2Proof.Machine.execKeyRegister m s
  | .keyRevoke m => Sys2Proof.Machine.execKeyRevoke m s
  | .attestQuote m => Sys2Proof.Machine.execAttestQuote m s
  | .lifecycleSet m => Sys2Proof.Machine.execLifecycleSet m s
  | .setPolicyLock => Sys2Proof.Machine.execSetPolicyLock s
  | .peerCommit => Sys2Proof.Machine.execPeerCommit s
  | .certCommit => Sys2Proof.Machine.execCertCommit s
  | .spdmRequest message => Sys2Proof.Machine.execSpdmRequest message s
  | .fence host cause => Sys2Proof.Machine.execFence host cause s
  | .coreFailed site => Sys2Proof.Machine.execCoreFailed site s
  | .standinBlocksLoaded site => Sys2Proof.Machine.execStandinBlocksLoaded site s
  | .spareSiteSettled row => Sys2Proof.Machine.execSpareSiteSettled row s
  | .routerFail site => Sys2Proof.Machine.execRouterFail site s
  | .tileCntClr site slot value => Sys2Proof.Machine.execTileCntClr site slot value s
  | .edgeCntClr site slot value => Sys2Proof.Machine.execEdgeCntClr site slot value s
  | .sfbCntClr site value => Sys2Proof.Machine.execSfbCntClr site value s
  | .spoonCntClr value => Sys2Proof.Machine.execSpoonCntClr value s
  | .engCntClr site value => Sys2Proof.Machine.execEngCntClr site value s
  | .chCntClr value => Sys2Proof.Machine.execChCntClr value s
  | .calCntClr value => Sys2Proof.Machine.execCalCntClr value s
  | .meshCntClr value => Sys2Proof.Machine.execMeshCntClr value s
  | .meshRtCntClr site value => Sys2Proof.Machine.execMeshRtCntClr site value s
  | .spCntClr value => Sys2Proof.Machine.execSpCntClr value s
  | .skCntClr stack value => Sys2Proof.Machine.execSkCntClr stack value s
  | .fabCntClr value => Sys2Proof.Machine.execFabCntClr value s
  | .fpCntClr port value => Sys2Proof.Machine.execFpCntClr port value s
  | .ldCntClr value => Sys2Proof.Machine.execLdCntClr value s
  | .lfCntClr value => Sys2Proof.Machine.execLfCntClr value s
  | .svCntClr slot value => Sys2Proof.Machine.execSvCntClr slot value s
  | .imgCntClr value => Sys2Proof.Machine.execImgCntClr value s
  | .hkCntClr value => Sys2Proof.Machine.execHkCntClr value s
  | .secCntClr value => Sys2Proof.Machine.execSecCntClr value s
  | .btCntClr value => Sys2Proof.Machine.execBtCntClr value s
  | .fltCntClr value => Sys2Proof.Machine.execFltCntClr value s
  | .perstNDeassert => Sys2Proof.Machine.execPerstNDeassert s
  | .busMasterEnableClear pf => Sys2Proof.Machine.execBusMasterEnableClear pf s
  | .msixUnmask pf vector => Sys2Proof.Machine.execMsixUnmask pf vector s
  | .remotePageRelease peer frames => Sys2Proof.Machine.execRemotePageRelease peer frames s
  | .pageMigrateStart => Sys2Proof.Machine.execPageMigrateStart s
  | .imageMismatch slot => Sys2Proof.Machine.execImageMismatch slot s
  | .mbxSubmission m value lowBytes => Sys2Proof.Machine.execMbxSubmission m value lowBytes s

end Sys2Proof.Machine
end

