-- ==== Sys2Proof/Safety.lean ====
section
/-! DEFINITION. The words that claims are stated in: what counts as a stop, which parts of the state two states agree on,
a command ready to be taken, and a response. -/

namespace Sys2Proof

open Machine

/-- An answer that stops the block. -/
def Stops (o : Host.Outcome Machine.State Machine.Fault Machine.Refusal) : Prop := ∀ t, o ≠ .next t

/-! ### What two states agree on: both are compared with some fields blanked -/

/-- Blanks the words of the control window. -/
def Machine.State.butWords (s : State) : State := { s with cw := [] }

/-- Blanks the words, the copies in force and the staged list. -/
def Machine.State.butRegs (s : State) : State := { s with cw := [], act := [], stagedAt := [] }

/-- Blanks what a response may change: mailboxes, the order of submissions, host memory, interrupts, and instances, whose
recordings may take a record. -/
def Machine.State.butReply (s : State) : State :=
  { s with mbx := [], order := [], insts := [], hostMem := [], heldDma := [], vecCount := [], msixSent := [], msixPend := [] }

/-- Blanks what a response or a register may change. -/
def Machine.State.butReplyWords (s : State) : State := { s.butReply with cw := [] }

/-- Blanks the instances. -/
def Machine.State.butInsts (s : State) : State := { s with insts := [] }

/-- Blanks host memory, held writes and interrupts. -/
def Machine.State.butHost (s : State) : State := { s with hostMem := [], heldDma := [], vecCount := [], msixSent := [], msixPend := [] }

/-- An instance, its recording blanked. -/
def Machine.Instance.unrecorded (i : Instance) : Instance := { i with record := {} }

/-- The instance of a slot, its recording blanked. -/
def instView (s : State) (slot : Nat) : Option Instance := (instOf s slot).map Instance.unrecorded

/-! ### Registers -/

/-- A write `w` of a clear register: for each pair of a bit and its registers, a bit written 1 makes the registers read
0; every other register reads as before, and nothing but registers changes. -/
def ClearsWords (w : W32) (gs : List (Nat × List Nat)) (s t : State) : Prop :=
  (∀ p, rd t p = if gs.any (fun g => fld w g.1 g.1 == 1 && g.2.contains p) then 0 else rd s p) ∧ t.butWords = s.butWords

/-- Every register but those listed reads as before. -/
def SameWords (but : List Nat) (s t : State) : Prop := ∀ p, p ∉ but → rd t p = rd s p

/-! ### Mailbox commands -/

/-- A command stands first in the order, passes checks 1 to 4 (16 R384), and its header's reserved bytes are zero. -/
def Ready (s : State) (m : MbxId) (op len : Nat) : Prop :=
  mbxWf m = true ∧ taken s m op = true ∧ preCheck s m len = none ∧ reqN s m 4 4 = 0

/-- The command's INSTANCE field names the instance of a slot, whose world the mailbox may use (16 R384 check 6). -/
def Names (s : State) (m : MbxId) (slot : Nat) (i : Instance) : Prop :=
  instNamed s m 8 = some (slot, i) ∧ instOf s slot = some i ∧ (i.secure = false ∨ mbxSecure s m = true)

/-- And this part is the instance's entry part. -/
def NamesEntry (s : State) (m : MbxId) (slot : Nat) (i : Instance) : Prop := Names s m slot i ∧ i.entry = partId s

/-- A handle's object is one that the mailbox's world may use (16 R386). -/
def HandleOpen (s : State) (m : MbxId) (h : Nat) : Prop := ∀ o, objAt s h = some o → o.secure = false ∨ mbxSecure s m = true

/-- The reserved bytes of a request are zero. -/
def ZeroAt (s : State) (m : MbxId) (off n : Nat) : Prop := reqN s m off n = 0

/-- The response that stands in the mailbox: status, fields and whether it is final (15 Table 15.4, 16 R383). -/
def Responds (s t : State) (m : MbxId) (st : Nat) (payload : Bytes) (final : Bool) : Prop :=
  (mbxAt t m).own = false ∧ (mbxAt t m).async = !final ∧ (mbxAt t m).final = final ∧ (mbxAt t m).rspSeq = (mbxAt s m).seq ∧
  (mbxAt t m).done = (if final then (mbxAt s m).done + 1 else (mbxAt s m).done) ∧
  (mbxAt t m).rsp = memWrite [] 0 (rspBytes st (reqOp s m) payload) ∧ t.order = s.order.filter (fun x => x != m)

/-! ### IFP packets -/

/-- A packet of a type for this part comes in whole over a port that carries traffic, and passes the header and world checks
(10 R244, 18 Table 18.2). -/
def Arrives (s : State) (port : Nat) (p : IfpPacket) (type : Nat) : Prop :=
  port < 18 ∧ portCarries s port = true ∧ hType p = type ∧ hLen p = p.payload.length ∧ p.payload.length ≤ 4096 ∧ hDest p = partId s ∧
  hcrcOk p = true ∧ worldOk s port p = true

/-- A DISC packet of a SUBTYPE comes in whole over a port that carries the exchange (10 R244, R248). -/
def DiscArrives (s : State) (port : Nat) (p : IfpPacket) (sub : Nat) : Prop :=
  port < 18 ∧ discCarries s port = true ∧ hcrcOk p = true ∧ hType p = ifpDiscT ∧ hVc p = 0 ∧ hLen p = p.payload.length ∧
  leAt p.payload 0 1 = sub

/-- A DISC packet of a SUBTYPE goes out on a port, the last to go out. -/
def SendsDisc (t : State) (port sub : Nat) (ok : Bytes → Prop) : Prop :=
  ∃ p, t.ifpOut.head? = some (port, p) ∧ hType p = ifpDiscT ∧ hVc p = 0 ∧ hcrcOk p = true ∧ leAt p.payload 0 1 = sub ∧ ok p.payload

/-- One packet goes out to a part on a stream, over the port its flow takes, or waits at its source (10 R237-R239). -/
def Emits (s t : State) (dest stream : Nat) (ok : IfpPacket → Prop) : Prop :=
  ∃ r, hDest r = dest ∧ hStream r = stream ∧ hSrc r = partId s ∧ hcrcOk r = true ∧ ok r ∧
    match flowFree s dest stream with
    | some q => t.ifpOut = (q, r) :: s.ifpOut ∧ t.fab.waits = s.fab.waits
    | none => t.ifpOut = s.ifpOut ∧ t.fab.waits = s.fab.waits ++ [r]

/-- No line and no word that a read of this part's memory takes is uncorrectable. -/
def NoBadData (s : State) : Prop := s.pot.badLines = [] ∧ ∀ e ∈ s.storeBad, e.2 ≠ 2

/-- No word of a core's store is bad, and no core is about to be declared failed (05 R126, 20 R463). -/
def StoreSound (s : State) (site : Nat) : Prop := (∀ w ∈ s.storeBad, w.1 / 0x20000 ≠ site) ∧ ∀ c ∈ s.cores, c.2.ueFatal = false

/-- The engine may start an item of an instance's program: the core is in use and holds a program of it, the frame in work has
not ended, the operands lie in program space, and no item of a higher class is ready (05 R127, R130, R139). -/
def MayStart (s : State) (site slot : Nat) (it : EngineItem) : Prop :=
  site < 800 ∧ slot < 64 ∧ coreAway s site = false ∧ hasProgram s site slot = true ∧ passStopped s slot = false ∧
  itemFits it = true ∧ higherReady s site 5 = false

/-- The members and the stream of a group have the widths the packets give them. -/
def GroupFits (g : Group) : Prop := (∀ x ∈ g.ids, x < 8192) ∧ g.stream < 2 ^ 24

/-! ### Memories, waiting runs and loads -/

/-- The byte memories are in their canonical form: addresses strictly rising, no entry equal to what an unlisted byte reads. -/
def Canonical (s : State) : Prop := memWf s.store = true ∧ memWf s.stackMem = true ∧ memWf s.hostMem = true

/-- No on-demand Spoon run waits on a tile. -/
def NoRunWaits (s : State) : Prop := ∀ x ∈ s.tiles, x.2.spoonReq = none

/-- A load ends with an error: the instance has none, the failure is counted, and the command it came from is answered
(13 Table 13.12, 15 R368). -/
def LoadEnds (s t : State) (slot : Nat) (l : Load) (e : Err) : Prop :=
  loadOf t slot = none ∧ rd t (imgReg 0x18) = BitVec.ofNat 32 (Nat.min ((rd s (imgReg 0x18)).toNat + 1) 0xFFFFFFFF) ∧
  ((mbxAt s l.mbx.id).epoch = l.mbx.epoch →
    (mbxAt t l.mbx.id).final = true ∧ (mbxAt t l.mbx.id).rsp = memWrite [] 0 (rspBytes e.st l.mbx.op (errBytes e.d0 e.d1)))

/-- The fields a manifest gives a load on the part of a rank (13 R313, R319, R320). -/
def loadListed (s : State) (l : Load) (head : ImageHead) (rank : Nat) : Load :=
  { l with manifest := true, gen := imgGen head, digest := manifestDigest head, ownerKey := imgOwner head,
           skey := keyOf s true (imgOwner head), secs := ownSecs rank head.entries }

/-- A load in which a section has its body. -/
def loadBodied (l : Load) (index : Nat) (b : Section) : Load := { l with secs := l.secs.map (putSection index b) }

/-- A load in which a section has passed. -/
def loadPassed (l : Load) (index : Nat) : Load :=
  { l with secs := l.secs.map (fun y => if y.index = index then { y with verdict := some true } else y) }

end Sys2Proof
end

