-- ==== Sys2Proof/Certificates/Slice0/Obligations.lean ====
section
/-! DEFINITION. The statements for the provers. -/

open Sys2Proof Sys2Proof.Machine

/-- For every command and state, a step with the command at the front of the queue is exec of it on the rest. -/
def Obligations.StepTakesFront : Prop :=
  ∀ (c : Instr) (q : List Instr) (s : State), step { s with pending := c :: q } = exec c { s with pending := q }

/-- A command whose operands name only units the part has completes, in every state; any other stops with the fault
noSuchUnit, and changes nothing. That such a command stops is the model's choice (log 1). -/
def Obligations.WellFormedCommandsComplete : Prop :=
  ∀ (c : Instr) (s : State), (c.wf = true → ∃ t, exec c s = .next t) ∧ (c.wf = false → exec c s = .fault .noSuchUnit)

/-- Reset: no command waits, the memories are in their canonical form, every register holds the Reset value of its table, no
instance, object, fault record or group is there, rack time is 0 and every part of the start-up is still to come (R7, Table 19.1);
on an empty queue one cycle of rack time passes where the counter runs (R253): the model's choice, log 2. -/
def Obligations.ResetValuesAndIdling : Prop :=
  (State.reset.pending = [] ∧ Canonical State.reset ∧ (∀ o, rd State.reset o = regReset o ∧ rdA State.reset o = regReset o) ∧
    rd State.reset (tileReg 0 0) = 0x3000 ∧ rd State.reset (tileReg 0 8) = 0x00DB6DB6 ∧ rd State.reset (edgeReg 0 0 0) = 0x06 ∧
    rd State.reset (engReg 0 0) = 7 ∧ rd State.reset (sfbSlotReg 0 0 0) = 0x220 ∧ rd State.reset (spoonReg 4) = 0x08020133 ∧
    rd State.reset (chReg 4) = 0x004002D0 ∧ rd State.reset (calReg 4) = 0x000A0D18 ∧ rd State.reset (spReg 4) = 0x100A2018 ∧
    rd State.reset (ldReg 4) = 0x0A0A0A14 ∧ rd State.reset (svReg 0 4) = 64 ∧ rd State.reset (imgReg 0) = 0x00600600 ∧
    rd State.reset (btReg 0) = 0x508 ∧ State.reset.insts = [] ∧ State.reset.tiles = [] ∧ State.reset.faults = [] ∧
    State.reset.rackTime = 0 ∧ State.reset.life.partState = psBoot ∧ State.reset.life.stage = 0 ∧ State.reset.life.fw = none) ∧
  (∀ (s : State), s.pending = [] → step s = .next { s with rackTime := if s.fab.running then s.rackTime + 1 else s.rackTime })

/-- A step takes exactly the command at the front of the queue, whatever the command is, and keeps the byte memories in their
canonical form. -/
def Obligations.StepsKeepMemoriesCanonical : Prop :=
  ∀ (s t : State), step s = .next t → t.pending = s.pending.tail ∧ (Canonical s → Canonical t)

/-- GET_INFO, REG_READ, REG_WRITE and FAULT_READ: the response of each; a read changes no register but the latched high words;
a refused write writes nothing, and its status is that of the first failing word; an accepted one leaves in a plain register its
RW bits as written and its other bits as they were; a read of the fault store leaves the store (R388-R390, R394, Table 16.2).
FIRST_SEQ where no record is copied the spec leaves open. -/
def Obligations.RegistersAreReadAndWritten : Prop :=
  (∀ (s : State) (m : MbxId), Ready s m 0x0001 0 →
    ∃ t, exec (.getInfo m) s = .next t ∧ Responds s t m stOk (infoBytes s) true ∧ (infoBytes s).length = 48 ∧ t.butReply = s.butReply ∧
      (∀ j, instView t j = instView s j)) ∧
  (∀ (s : State) (m : MbxId), Ready s m 0x0002 16 → reqN s m 8 8 % 4 = 0 → reqN s m 8 8 < 2 ^ 41 → 1 ≤ reqN s m 16 2 →
    reqN s m 16 2 ≤ 116 → ZeroAt s m 20 4 → (mbxSecure s m = true ∨ ∀ w ∈ regOffsets s m, regSecure s w.2 = false) →
    ∃ t, exec (.regRead m) s = .next t ∧
      Responds s t m stOk (leBytes 2 (reqN s m 16 2) ++ zeros 6 ++ (readWords (regOffsets s m) s).1) true ∧
      t.butReply = State.butReply { s with timeLatch := t.timeLatch, stepLatch := t.stepLatch } ∧ (∀ j, instView t j = instView s j)) ∧
  (∀ (s : State) (m : MbxId) (w : Nat × Nat), Ready s m 0x0002 16 → reqN s m 8 8 % 4 = 0 → reqN s m 8 8 < 2 ^ 41 → 1 ≤ reqN s m 16 2 →
    reqN s m 16 2 ≤ 116 → ZeroAt s m 20 4 → mbxSecure s m = false → (regOffsets s m).find? (fun w => regSecure s w.2) = some w →
    ∃ t, exec (.regRead m) s = .next t ∧ Responds s t m stWorldDenied (errBytes w.1 0) true ∧ t.butReply = s.butReply ∧
      (∀ j, instView t j = instView s j)) ∧
  (∀ (s : State) (m : MbxId) (e : Err), Ready s m 0x0003 (16 + 4 * reqN s m 16 2) → reqN s m 8 8 % 4 = 0 → reqN s m 8 8 < 2 ^ 41 →
    1 ≤ reqN s m 16 2 → reqN s m 16 2 ≤ 114 → ZeroAt s m 20 4 → writeCheck s m = some e →
    ∃ t, exec (.regWrite m) s = .next t ∧ Responds s t m e.st (errBytes e.d0 e.d1) true ∧ t.butReply = s.butReply ∧
      (∀ j, instView t j = instView s j)) ∧
  (∀ (s t : State) (secure : Bool) (i o : Nat) (v : W32),
    (regBlock o = .unmapped → v = 0 → wordCheck s t secure i o v = none) ∧
    (regBlock o = .unmapped → v ≠ 0 → wordCheck s t secure i o v = some { st := stBadParam, d0 := 24 + 4 * i }) ∧
    (regBlock o ≠ .unmapped → secure = false → (regSecure s o = true ∨ writeSecure o = true) →
      wordCheck s t secure i o v = some { st := stWorldDenied, d0 := i })) ∧
  (∀ (s : State) (m : MbxId) (o : Nat), Ready s m 0x0003 20 → reqN s m 8 8 = o → reqN s m 16 2 = 1 → ZeroAt s m 20 4 →
    mbxSecure s m = true →
    o ∈ [chReg 0, chReg 4, chReg 8, calReg 0, calReg 4, spReg 0, spReg 4, spReg 8, ldReg 0, ldReg 4, ldReg 0x40, ldReg 0x44, imgReg 0,
      hkReg 0, btReg 0] →
    ∃ t d, exec (.regWrite m) s = .next t ∧ Responds s t m stOk [] true ∧ regDesc o = some d ∧
      rd t o = (rd s o &&& ~~~ d.rw ||| BitVec.ofNat 32 (reqN s m 24 4) &&& d.rw) ∧ SameWords [o] s t ∧ t.butReplyWords = s.butReplyWords) ∧
  (∀ (s : State) (m : MbxId) (r : FaultRec) (rs : List FaultRec), Ready s m 0x0004 16 → 1 ≤ reqN s m 12 2 → reqN s m 12 2 ≤ 1024 →
    ZeroAt s m 14 2 → mbxSecure s m = true → (s.faults.filter (fun x => reqN s m 8 4 ≤ x.seq.toNat)).take (reqN s m 12 2) = r :: rs →
    ∃ t, exec (.faultRead m) s = .next t ∧
      Responds s t m stOk (leBytes 4 (rs.length + 1) ++ leBytes 4 r.seq.toNat ++
        leBytes 4 ((s.faults.head?.map (fun x => x.seq.toNat)).getD 0 - reqN s m 8 4) ++ zeros 4) true ∧
      t.hostMem = (dmaWrite s m.pf (BitVec.ofNat 64 (reqN s m 16 8)) ((r :: rs).map (fun x => faultBytes x false)).flatten).hostMem ∧
      t.faults = s.faults ∧ t.cw = s.cw) ∧
  (∀ (s : State) (m : MbxId), Ready s m 0x0004 16 → 1 ≤ reqN s m 12 2 → reqN s m 12 2 ≤ 1024 → ZeroAt s m 14 2 →
    (∀ x ∈ s.faults, reqN s m 8 4 ≤ x.seq.toNat → mbxSecure s m = false ∧ faultHidden s x = true) →
    ∃ t p, exec (.faultRead m) s = .next t ∧ Responds s t m stOk (leBytes 4 0 ++ p) true ∧ t.faults = s.faults ∧ t.cw = s.cw ∧
      t.hostMem = (dmaWrite s m.pf (BitVec.ofNat 64 (reqN s m 16 8)) []).hostMem)

/-- INSTANCE_CREATE, INSTANCE_REMOVE and INSTANCE_REMOVE_DRAINED complete: a free slot holds the instance that the request
describes, with its step counter on the entry part and its ring on the exit part; a removal is accepted, its waiting frames
are gone, and once no frame is in flight and none waits to be reported the slot is free (R283, R284, R372, R391). -/
def Obligations.InstancesComeAndGo : Prop :=
  (∀ (s : State) (m : MbxId), Ready s m 0x0101 64 → reqN s m 10 1 < 64 → reqN s m 11 1 < 4 → reqN s m 12 2 < 8192 →
    reqN s m 14 2 < 8192 → (reqN s m 14 2 = partId s →
      reqN s m 56 8 % 64 = 0 ∧ 9 ≤ reqN s m 64 1 ∧ reqN s m 64 1 ≤ 24 ∧ reqN s m 65 1 < 64) → ZeroAt s m 67 1 →
    (reqN s m 68 2 = 0 ↔ reqN s m 11 1 % 2 = 0) → (reqN s m 70 2 = 0 ↔ reqN s m 11 1 / 2 = 0) →
    instOf s (reqN s m 10 1) = none → instSlot s (reqN s m 8 2) = none →
    ∃ t i, exec (.instanceCreate m) s = .next t ∧ Responds s t m stOk [] true ∧ instView t (reqN s m 10 1) = some i ∧
      i.number = reqN s m 8 2 ∧ i.entry = reqN s m 12 2 ∧ i.exit = reqN s m 14 2 ∧ i.seed = reqBytes s m 24 32 ∧
      i.step = (if reqN s m 12 2 = partId s then BitVec.ofNat 64 (reqN s m 16 8) else 0) ∧ i.secure = mbxSecure s m ∧
      i.placed = false ∧ i.ctxs = [] ∧ i.flight = [] ∧ i.waiting = [] ∧
      (reqN s m 14 2 = partId s → i.ring.addr = BitVec.ofNat 64 (reqN s m 56 8) ∧ i.ring.sizeLog2 = reqN s m 64 1 ∧
        i.ring.head = 0 ∧ i.ring.tail = 0) ∧
      (∀ j, j ≠ reqN s m 10 1 → instView t j = instView s j) ∧ t.pot = s.pot ∧ t.stackMem = s.stackMem ∧ t.store = s.store) ∧
  (∀ (s : State) (m : MbxId) (slot : Nat) (i : Instance), Ready s m 0x0102 8 → ZeroAt s m 10 6 → Names s m slot i →
    i.genJob = none → (∀ y ∈ i.staged, y.state ≠ .writing) → i.save = none → i.record.on = false → i.replay = none →
    i.removing = none →
    ∃ t j, exec (.instanceRemove m) s = .next t ∧ instView t slot = some j ∧ j.removing = some (mref s m) ∧ j.waiting = [] ∧
      j.flight = i.flight ∧ j.step = i.step ∧ t.pot = s.pot ∧ t.stackMem = s.stackMem ∧
      (i.waiting = [] → Responds s t m stAccepted [] false)) ∧
  (∀ (s : State) (slot : Nat) (i : Instance) (r : MbxRef), slot < 64 → instOf s slot = some i → i.removing = some r →
    i.flight = [] → i.markers = [] →
    ∃ t, exec (.instanceRemoveDrained slot) s = .next t ∧ instOf t slot = none)

/-- CONTEXT_CREATE, CONTEXT_RELEASE, PREFIX_CREATE and PREFIX_RELEASE complete: a new handle is an object of the instance,
without pages, and is answered at byte 8; a prefix takes the context's first positions and generation, and its pages are the
context's; a released handle names nothing (R216, R296, R297). -/
def Obligations.HandlesComeAndGo : Prop :=
  (∀ (s : State) (m : MbxId) (slot : Nat) (i : Instance), Ready s m 0x0110 8 → ZeroAt s m 10 6 → NamesEntry s m slot i →
    classCount s 1 < 0x100000 →
    ∃ t h, exec (.contextCreate m) s = .next t ∧ Responds s t m stOk (leBytes 4 h ++ zeros 4) true ∧ objClass h = 1 ∧
      instView t slot = some { i with ctxs := mapSet i.ctxs h {}, record := {} } ∧
      objAt t h = some { inst := slot, secure := i.secure } ∧ objAt s h = none ∧
      (∀ g, g ≠ h → objAt t g = objAt s g) ∧ (∀ j, j ≠ slot → instView t j = instView s j) ∧ t.stackMem = s.stackMem) ∧
  (∀ (s : State) (m : MbxId) (slot : Nat) (i : Instance) (c : Ctx), Ready s m 0x0111 8 → ZeroAt s m 10 2 → NamesEntry s m slot i →
    HandleOpen s m (reqN s m 12 4) → mapFind i.ctxs (reqN s m 12 4) = some c → c.busy = false →
    ∃ t, exec (.contextRelease m) s = .next t ∧ Responds s t m stOk [] true ∧
      instView t slot = some { i with ctxs := mapDel i.ctxs (reqN s m 12 4), record := {} } ∧ objAt t (reqN s m 12 4) = none ∧
      (∀ g, g ≠ reqN s m 12 4 → objAt t g = objAt s g) ∧ (∀ j, j ≠ slot → instView t j = instView s j) ∧ t.stackMem = s.stackMem) ∧
  (∀ (s : State) (m : MbxId) (slot : Nat) (i : Instance) (c : Ctx) (o : Obj), Ready s m 0x0112 16 → ZeroAt s m 10 2 →
    reqN s m 16 4 ≠ 0 → ZeroAt s m 20 4 → NamesEntry s m slot i → HandleOpen s m (reqN s m 12 4) →
    mapFind i.ctxs (reqN s m 12 4) = some c → c.busy = false → reqN s m 16 4 ≤ c.len → objAt s (reqN s m 12 4) = some o →
    classCount s 2 < 0x100000 → (holdPages (o.pages.take (cachePages i (reqN s m 16 4))) s).isSome = true →
    ∃ t h, exec (.prefixCreate m) s = .next t ∧ Responds s t m stOk (leBytes 4 h ++ zeros 4) true ∧ objClass h = 2 ∧
      objAt s h = none ∧
      instView t slot = some { i with pfxs := mapSet i.pfxs h { len := reqN s m 16 4, gen := c.gen }, record := {} } ∧
      (objAt t h).map (fun x => x.pages) = some (sharedPages (o.pages.take (cachePages i (reqN s m 16 4)))) ∧
      (∀ j, j ≠ slot → instView t j = instView s j) ∧ t.stackMem = s.stackMem) ∧
  (∀ (s : State) (m : MbxId) (slot : Nat) (i : Instance) (p : Pfx), Ready s m 0x0113 8 → ZeroAt s m 10 2 → NamesEntry s m slot i →
    HandleOpen s m (reqN s m 12 4) → mapFind i.pfxs (reqN s m 12 4) = some p →
    ∃ t, exec (.prefixRelease m) s = .next t ∧ Responds s t m stOk [] true ∧
      instView t slot = some { i with pfxs := mapDel i.pfxs (reqN s m 12 4), record := {} } ∧ objAt t (reqN s m 12 4) = none ∧
      (∀ g, g ≠ reqN s m 12 4 → objAt t g = objAt s g) ∧ (∀ j, j ≠ slot → instView t j = instView s j) ∧ t.stackMem = s.stackMem)

/-- DELTA_CREATE, DELTA_REPLACE, DELTA_SWITCH and DELTA_RELEASE complete: a new set has one version, its current one; a
replacement waits for the switch, or for its generation; the switch makes it current; a released set is gone. A source without
blocks for this part needs no page and always makes its version (R299-R301, R340). -/
def Obligations.DeltaSetsComeAndGo : Prop :=
  (∀ (s u w : State) (m : MbxId) (src : Bytes) (slot h v : Nat) (i : Instance), Ready s m 0x0114 24 → heldCmd s m 0x0114 = none →
    busMaster s m.pf = true → reqN s m 10 1 < 64 → ZeroAt s m 11 1 → NamesEntry s m slot i → groupHere s m = none →
    deltaGenOk s m = none → newObj (accept s m) 3 slot i.secure = some (h, u) →
    makeVersion u slot ((instOf (accept s m) slot).getD i) (deltaGen s m slot) src = .ok (v, w) →
    ∃ t j, exec (.deltaCreate m src) s = .next t ∧ Responds s t m stOk (leBytes 4 h ++ zeros 4) true ∧ instView t slot = some j ∧
      mapFind j.sets h = some { cur := v } ∧ (mapFind j.vers v).map (fun x => x.gen) = some (deltaGen s m slot) ∧
      j.ctxs = i.ctxs ∧ j.pfxs = i.pfxs ∧ j.step = i.step ∧ t.stackMem = s.stackMem) ∧
  (∀ (s : State) (m : MbxId) (src : Bytes) (slot : Nat) (i : Instance) (bs : List SrcBlock), Ready s m 0x0114 24 →
    heldCmd s m 0x0114 = none → busMaster s m.pf = true → reqN s m 10 1 < 64 → ZeroAt s m 11 1 → NamesEntry s m slot i →
    groupHere s m = none → deltaGenOk s m = none → readSource src = some bs → bs.all (fun b => b.ordinal != i.ordinal) = true →
    classCount s 3 < 0xFFFFF →
    ∃ t j h v, exec (.deltaCreate m src) s = .next t ∧ Responds s t m stOk (leBytes 4 h ++ zeros 4) true ∧ objClass h = 3 ∧
      objAt s h = none ∧ instView t slot = some j ∧ mapFind j.sets h = some { cur := v } ∧
      mapFind j.vers v = some { gen := deltaGen s m slot, refs := 1, blocks := [] } ∧ t.stackMem = s.stackMem) ∧
  (∀ (s : State) (m : MbxId) (src : Bytes) (slot : Nat) (i : Instance) (d : DeltaSet) (bs : List SrcBlock), Ready s m 0x0115 32 →
    heldCmd s m 0x0115 = none → busMaster s m.pf = true → reqN s m 10 1 < 64 → ZeroAt s m 11 1 → ZeroAt s m 36 4 →
    NamesEntry s m slot i → groupHere s m = none → HandleOpen s m (reqN s m 32 4) → mapFind i.sets (reqN s m 32 4) = some d →
    d.loading = none → d.pending = none → deltaGenOk s m = none → genState s slot ≠ 2 → readSource src = some bs →
    bs.all (fun b => b.ordinal != i.ordinal) = true → classCount s 3 < 0x100000 →
    ∃ t j v, exec (.deltaReplace m src) s = .next t ∧ Responds s t m stAccepted [] false ∧ instView t slot = some j ∧
      mapFind j.sets (reqN s m 32 4) = some { d with
        loading := if deltaGen s m slot = genCur s slot then some (v, mref s m) else none,
        pending := if deltaGen s m slot = genCur s slot then none else some (v, mref s m) } ∧
      mapFind j.vers v = some { gen := deltaGen s m slot, refs := 1, blocks := [] } ∧ t.stackMem = s.stackMem) ∧
  (∀ (s w : State) (m : MbxId) (src : Bytes) (slot v : Nat) (i : Instance) (d : DeltaSet), Ready s m 0x0115 32 →
    heldCmd s m 0x0115 = none → busMaster s m.pf = true → reqN s m 10 1 < 64 → ZeroAt s m 11 1 → ZeroAt s m 36 4 →
    NamesEntry s m slot i → groupHere s m = none → HandleOpen s m (reqN s m 32 4) → mapFind i.sets (reqN s m 32 4) = some d →
    d.loading = none → d.pending = none → deltaGenOk s m = none → genState s slot ≠ 2 →
    makeVersion (accept s m) slot ((instOf (accept s m) slot).getD i) (deltaGen s m slot) src = .ok (v, w) →
    ∃ t j, exec (.deltaReplace m src) s = .next t ∧ Responds s t m stAccepted [] false ∧ instView t slot = some j ∧
      mapFind j.sets (reqN s m 32 4) = some { d with
        loading := if deltaGen s m slot = genCur s slot then some (v, mref s m) else none,
        pending := if deltaGen s m slot = genCur s slot then none else some (v, mref s m) } ∧
      j.ctxs = i.ctxs ∧ j.pfxs = i.pfxs ∧ j.step = i.step ∧ t.stackMem = s.stackMem) ∧
  (∀ (s : State) (slot h v : Nat) (i : Instance) (d : DeltaSet) (r : MbxRef), slot < 64 → instOf s slot = some i →
    mapFind i.sets h = some d → d.loading = some (v, r) →
    ∃ t j, exec (.deltaSwitch slot h) s = .next t ∧ instView t slot = some j ∧
      mapFind j.sets h = some { d with cur := v, loading := none } ∧ j.ctxs = i.ctxs ∧ j.step = i.step ∧ t.stackMem = s.stackMem) ∧
  (∀ (s : State) (m : MbxId) (slot : Nat) (i : Instance) (d : DeltaSet), Ready s m 0x0116 8 → ZeroAt s m 10 2 → NamesEntry s m slot i →
    HandleOpen s m (reqN s m 12 4) → mapFind i.sets (reqN s m 12 4) = some d → d.loading = none → d.pending = none →
    ∃ t j, exec (.deltaRelease m) s = .next t ∧ Responds s t m stOk [] true ∧ instView t slot = some j ∧
      mapFind j.sets (reqN s m 12 4) = none ∧ j.ctxs = i.ctxs ∧ j.pfxs = i.pfxs ∧ j.step = i.step ∧ t.stackMem = s.stackMem)

/-- FRAME_SUBMIT and FRAME_ADMIT: the frames of a list wait in list order; the next takes the counter's step and the current
generation, and the counter advances; one that a check refuses takes no step and changes no context; while IN_FLIGHT_MAX frames are in flight, or the barrier holds it, a frame
waits and is not refused (R287-R291, R392). One whose pages are wanting is refused and counted (R219). -/
def Obligations.FramesAreAdmittedInOrder : Prop :=
  (∀ (s : State) (m : MbxId) (descs : List Bytes) (seqs : List (List Bytes)) (slot : Nat) (i : Instance), Ready s m 0x0201 16 →
    heldCmd s m 0x0201 = none → busMaster s m.pf = true → 1 ≤ reqN s m 10 2 → reqN s m 10 2 ≤ 1024 → ZeroAt s m 12 4 →
    reqN s m 16 8 % 32 = 0 → NamesEntry s m slot i → i.removing = none → i.replay = none →
    ∃ t j, exec (.frameSubmit m descs seqs) s = .next t ∧ Responds s t m stAccepted [] false ∧ instView t slot = some j ∧
      j.waiting = i.waiting ++ (List.range (reqN s m 10 2)).map (fun n =>
        { desc := descs.getD n [], seqs := seqs.getD n [], submit := i.nextSubmit }) ∧
      j.submits = i.submits ++ [{ id := i.nextSubmit, mbx := mref s m, left := reqN s m 10 2 }] ∧ j.flight = i.flight ∧
      j.step = i.step ∧ j.ctxs = i.ctxs ∧ t.pot = s.pot ∧ t.stackMem = s.stackMem) ∧
  (∀ (s : State) (slot : Nat) (inputs : List Bytes) (supply : FrameSupply) (i : Instance) (w : Waiting) (ws : List Waiting)
      (r : Resv), slot < 64 → instOf s slot = some i → i.replay = none → i.waiting = w :: ws → entryHere s i = true →
    s.life.partState = psReady → inFlight i < inFlightMax s slot → barrierFree s slot i = true → recordRoom i w = true →
    busMaster s (submitPf i w) = true → admitCheck s slot i w = none →
    resvFrame s slot i (resvList i (frameOf s slot i w inputs).seqs) supply = .ok r →
    ∃ t j f, exec (.frameAdmit slot inputs supply) s = .next t ∧ instView t slot = some j ∧ j.waiting = ws ∧ j.step = i.step + 1 ∧
      j.flight = i.flight ++ [f] ∧ f.msg.step = i.step ∧ f.msg.tag = dTag w.desc ∧ f.msg.gen = genCur s slot ∧
      f.msg.marker = none ∧ f.msg.seqs.length = dSeqs w.desc ∧
      rd t (svReg slot 0x1C) = rd s (svReg slot 0x1C) + 1 ∧ rd t (svReg slot 0x20) = rd s (svReg slot 0x20)) ∧
  (∀ (s : State) (slot : Nat) (inputs : List Bytes) (supply : FrameSupply) (i : Instance) (w : Waiting) (ws : List Waiting)
      (k : Nat), slot < 64 → instOf s slot = some i → i.replay = none → i.waiting = w :: ws → entryHere s i = true →
    s.life.partState = psReady → inFlight i < inFlightMax s slot → barrierFree s slot i = true → recordRoom i w = true →
    busMaster s (submitPf i w) = true → admitCheck s slot i w = none →
    resvFrame s slot i (resvList i (frameOf s slot i w inputs).seqs) supply = .error k →
    ∃ t j, exec (.frameAdmit slot inputs supply) s = .next t ∧ instView t slot = some j ∧ j.waiting = ws ∧ j.step = i.step ∧
      j.flight = i.flight ∧ j.ctxs = i.ctxs ∧ t.pot = s.pot ∧ rd t (svReg slot 0x1C) = rd s (svReg slot 0x1C) ∧
      rd t (spReg 0x30) = BitVec.ofNat 32 (Nat.min ((rd s (spReg 0x30)).toNat + 1) 0xFFFFFFFF)) ∧
  (∀ (s : State) (slot : Nat) (inputs : List Bytes) (supply : FrameSupply) (i : Instance) (w : Waiting) (ws : List Waiting)
      (st k : Nat), slot < 64 → instOf s slot = some i → i.replay = none → i.waiting = w :: ws → entryHere s i = true →
    s.life.partState = psReady → inFlight i < inFlightMax s slot → barrierFree s slot i = true → recordRoom i w = true →
    busMaster s (submitPf i w) = true → admitCheck s slot i w = some (st, k) → st ≠ stStockpotFull →
    ∃ t j, exec (.frameAdmit slot inputs supply) s = .next t ∧ instView t slot = some j ∧ j.waiting = ws ∧ j.step = i.step ∧
      j.flight = i.flight ∧ j.ctxs = i.ctxs ∧ t.pot = s.pot ∧ rd t (svReg slot 0x1C) = rd s (svReg slot 0x1C) ∧
      (exitHere s i = true →
        j.markers = i.markers ++ [blankMsg (dTag w.desc) i.step (.refused st k) false])) ∧
  (∀ (s : State) (slot : Nat) (inputs : List Bytes) (supply : FrameSupply) (i : Instance), slot < 64 → instOf s slot = some i →
    i.replay = none → (inFlightMax s slot ≤ inFlight i ∨ barrierFree s slot i = false) → exec (.frameAdmit slot inputs supply) s = .next s)

/-- FRAME_STAGE_ARRIVAL, FRAME_COMMIT and FRAME_OUTCOME: a frame that arrives with its pages reserved is held in step order;
at the exit part the first in order commits when the ring has room, and HEAD advances by its entries; with its outcome a frame
is no longer in flight (R292-R295, R372-R375). A frame waits where the ring has no room. -/
def Obligations.FramesCommitInOrder : Prop :=
  (∀ (s : State) (slot : Nat) (f : FrameMsg) (supply : FrameSupply) (i : Instance) (r : Resv), slot < 64 →
    instOf s slot = some i → i.replay = none → entryHere s i = false → i.placed = true →
    i.flight.any (fun g => g.msg.step == f.step) = false → f.marker = none → stageResv s slot f supply = some r →
    ∃ t j g, exec (.frameStageArrival slot f supply) s = .next t ∧ instView t slot = some j ∧ j.flight = putFlight g i.flight ∧
      g.msg = f ∧ g.pages = r.pages ∧ g.atExit = exitHere s i) ∧
  (∀ (s : State) (slot : Nat) (results : List SeqResult) (i : Instance) (f : Flight) (fs : List Flight), slot < 64 →
    instOf s slot = some i → i.replay = none → exitHere s i = true → i.markers = [] → i.flight = f :: fs → f.msg.marker = none →
    passOver s slot i f = true → f.abortSeen = false → 1 + f.msg.seqs.length ≤ ringFree i.ring →
    ∃ t j, exec (.frameCommit slot results) s = .next t ∧ instView t slot = some j ∧
      j.ring.head = i.ring.head + BitVec.ofNat 64 (1 + f.msg.seqs.length) ∧
      j.flight.map (fun g => g.msg) = (fs.map (fun g => g.msg)).filter (fun g => g.step != f.msg.step)) ∧
  (∀ (s : State) (slot : Nat) (results : List SeqResult) (i : Instance) (f : Flight) (fs : List Flight), slot < 64 →
    instOf s slot = some i → i.replay = none → exitHere s i = true → i.markers = [] → i.flight = f :: fs → f.msg.marker = none →
    passOver s slot i f = true → f.abortSeen = false → ringFree i.ring < 1 + f.msg.seqs.length →
    exec (.frameCommit slot results) s = .next s) ∧
  (∀ (s : State) (slot : Nat) (out : OutcomeMsg) (i : Instance) (f : Flight), slot < 64 → instOf s slot = some i → i.replay = none →
    exitHere s i = false → i.flight.find? (fun g => g.msg.step == out.step) = some f →
    ∃ t j, exec (.frameOutcome slot out) s = .next t ∧ instView t slot = some j ∧
      j.flight.map (fun g => g.msg) = (i.flight.map (fun g => g.msg)).filter (fun g => g.step != f.msg.step))

/-- ABORT and its notice: the entry part decides on a frame in flight at once where it is the exit part too, and accepts the
command until the frame's outcome is known where it is not; a waiting frame is aborted in its place; a tag that no frame bears
is answered ST_ALREADY_COMPLETE and counted; a notice marks the frame as aborted (R307-R309, R393). -/
def Obligations.AbortDecides : Prop :=
  (∀ (s : State) (m : MbxId) (slot : Nat) (i : Instance) (f : Flight), Ready s m 0x0202 16 → ZeroAt s m 10 6 → NamesEntry s m slot i →
    i.flight.find? (fun f => f.msg.tag == BitVec.ofNat 64 (reqN s m 16 8)) = some f → f.msg.replayed = false → i.exit = partId s →
    i.passStep ≠ some f.msg.step →
    ∃ t j, exec (.abort m) s = .next t ∧ Responds s t m stOk (abortBytes 2 f.msg.step) true ∧ instView t slot = some j ∧
      j.flight = i.flight.map (fun g => if g.msg.step == f.msg.step then abortFlight g else g) ∧ j.step = i.step ∧ j.ctxs = i.ctxs ∧
      t.pot = s.pot ∧ t.stackMem = s.stackMem ∧ t.cw = s.cw) ∧
  (∀ (s : State) (m : MbxId) (slot : Nat) (i : Instance) (f : Flight), Ready s m 0x0202 16 → ZeroAt s m 10 6 → NamesEntry s m slot i →
    i.flight.find? (fun f => f.msg.tag == BitVec.ofNat 64 (reqN s m 16 8)) = some f → f.msg.replayed = false → i.exit = partId s →
    ∃ t j, exec (.abort m) s = .next t ∧ (mbxAt t m).rsp = memWrite [] 0 (rspBytes stOk (reqOp s m) (abortBytes 2 f.msg.step)) ∧
      instView t slot = some j ∧ j.flight = i.flight.map (fun g => if g.msg.step == f.msg.step then abortFlight g else g)) ∧
  (∀ (s : State) (m : MbxId) (slot : Nat) (i : Instance) (f : Flight), Ready s m 0x0202 16 → ZeroAt s m 10 6 → NamesEntry s m slot i →
    i.flight.find? (fun f => f.msg.tag == BitVec.ofNat 64 (reqN s m 16 8)) = some f → f.msg.replayed = false → i.exit ≠ partId s →
    ∃ t j, exec (.abort m) s = .next t ∧ Responds s t m stAccepted [] false ∧ instView t slot = some j ∧
      j.flight = i.flight.map (fun g => if g.msg.step == f.msg.step then
        { g with aborting := g.aborting ++ [mref s m], abortSeen := g.abortSeen || !g.msg.replayed } else g) ∧
      j.step = i.step ∧ j.ctxs = i.ctxs ∧ t.butReply = s.butReply) ∧
  (∀ (s : State) (m : MbxId) (slot : Nat) (i : Instance) (w : Waiting), Ready s m 0x0202 16 → ZeroAt s m 10 6 → NamesEntry s m slot i →
    i.flight.find? (fun f => f.msg.tag == BitVec.ofNat 64 (reqN s m 16 8)) = none →
    i.waiting.find? (fun w => dTag w.desc == BitVec.ofNat 64 (reqN s m 16 8)) = some w →
    i.submits.all (fun b => decide (b.mbx.id ≠ m)) = true →
    ∃ t j, exec (.abort m) s = .next t ∧ Responds s t m stOk (abortBytes 2 0) true ∧ instView t slot = some j ∧
      j.waiting = i.waiting.erase w ∧ j.flight = i.flight ∧ j.step = i.step ∧ j.ctxs = i.ctxs ∧ t.pot = s.pot ∧
      rd t (svReg slot 0x24) = BitVec.ofNat 32 (Nat.min ((rd s (svReg slot 0x24)).toNat + 1) 0xFFFFFFFF)) ∧
  (∀ (s : State) (m : MbxId) (slot : Nat) (i : Instance), Ready s m 0x0202 16 → ZeroAt s m 10 6 → NamesEntry s m slot i →
    i.flight.find? (fun f => f.msg.tag == BitVec.ofNat 64 (reqN s m 16 8)) = none →
    i.waiting.find? (fun w => dTag w.desc == BitVec.ofNat 64 (reqN s m 16 8)) = none →
    ∃ t, exec (.abort m) s = .next t ∧ Responds s t m stAlreadyComplete (abortBytes 0 0) true ∧
      rd t (svReg slot 0x28) = BitVec.ofNat 32 (Nat.min ((rd s (svReg slot 0x28)).toNat + 1) 0xFFFFFFFF) ∧
      SameWords [svReg slot 0x28] s t ∧ (∀ j, instView t j = instView s j) ∧ t.pot = s.pot) ∧
  (∀ (s : State) (slot : Nat) (step : W64) (i : Instance), slot < 64 → instOf s slot = some i → entryHere s i = false →
    ∃ t, exec (.abortNotice slot step) s = .next t ∧
      instOf t slot = some { i with flight := i.flight.map (fun f => if f.msg.step == step then abortFlight f else f) } ∧
      (∀ j, j ≠ slot → instOf t j = instOf s j) ∧ (i.passStep ≠ some step → t.butInsts = s.butInsts))

/-- RECORD_START, RECORD_STOP, RECORD_RELEASE and REPLAY_START: a recording begins with one record, ends with STOP, takes
back the space up to READ_OFFSET; a replay sets the step counter to the recording's next step (R350-R354). -/
def Obligations.RecordingsAndReplays : Prop :=
  (∀ (s : State) (m : MbxId) (slot : Nat) (i : Instance), Ready s m 0x0601 24 → ZeroAt s m 10 6 → reqN s m 16 8 % 4096 = 0 →
    20 ≤ reqN s m 24 1 → reqN s m 24 1 ≤ 40 → ZeroAt s m 25 7 → Names s m slot i → i.record.on = false → i.replay = none →
    ∃ t j, exec (.recordStart m) s = .next t ∧ Responds s t m stOk [] true ∧ instOf t slot = some j ∧ j.record.on = true ∧
      j.record.addr = BitVec.ofNat 64 (reqN s m 16 8) ∧ j.record.sizeLog2 = reqN s m 24 1 ∧ j.record.rd = 0 ∧ j.record.seq = 1 ∧
      j.unrecorded = i.unrecorded ∧ t.butReply = s.butReply) ∧
  (∀ (s : State) (m : MbxId) (slot : Nat) (i : Instance), Ready s m 0x0602 8 → ZeroAt s m 10 6 → Names s m slot i →
    i.record.on = true → i.record.overrun = false → 64 ≤ recRoom i.record →
    ∃ t j, exec (.recordStop m) s = .next t ∧ Responds s t m stOk (leBytes 4 (i.record.seq + 1).toNat ++ zeros 4) true ∧
      instOf t slot = some j ∧ j.record.on = false ∧ j.unrecorded = i.unrecorded ∧ t.butReply = s.butReply) ∧
  (∀ (s : State) (m : MbxId) (slot : Nat) (i : Instance), Ready s m 0x0603 16 → ZeroAt s m 10 6 → Names s m slot i →
    reqN s m 16 8 ≤ i.record.wr.toNat →
    ∃ t j, exec (.recordRelease m) s = .next t ∧ Responds s t m stOk [] true ∧ instOf t slot = some j ∧
      j.record.rd = BitVec.ofNat 64 (reqN s m 16 8) ∧ j.unrecorded = i.unrecorded ∧ t.butReply = s.butReply) ∧
  (∀ (s : State) (m : MbxId) (slot : Nat) (i : Instance) (step : W64) (image gen grade ord : Nat) (rs : List ReplayRec),
    Ready s m 0x0604 32 → heldCmd s m 0x0604 = none → busMaster s m.pf = true → ZeroAt s m 10 6 → reqN s m 16 8 % 4096 = 0 →
    20 ≤ reqN s m 24 1 → reqN s m 24 1 ≤ 40 → ZeroAt s m 25 7 → NamesEntry s m slot i → i.flight = [] → i.record.on = false →
    i.replay = none → i.placed = true → i.imageId = image → genCur s slot = gen → gradeCode s.grade = grade →
    ∃ t j, exec (.replayStart m (.start step (seedDigest i) image gen grade ord :: rs)) s = .next t ∧
      Responds s t m stAccepted [] false ∧ instView t slot = some j ∧ j.step = step ∧
      j.replay = some { mbx := mref s m, recs := rs } ∧ j.ctxs = i.ctxs ∧ t.butReply = s.butReply)

/-- STATE_SAVE, its drain, STATE_RESTORE and RESUME: a save raises the barrier, completes once no frame is in flight, and
leaves it raised under PAUSE; a restore makes every object again under its handle, sets the step counter and opens the
barrier; RESUME opens it (R357, R358). The bytes of a saved state are open. -/
def Obligations.SaveAndRestore : Prop :=
  (∀ (s : State) (m : MbxId) (slot : Nat) (i : Instance), Ready s m 0x0605 24 → reqN s m 10 1 < 2 → ZeroAt s m 11 5 → Names s m slot i →
    genState s slot ≠ 2 → i.save = none →
    ∃ t j, exec (.stateSave m) s = .next t ∧ Responds s t m stAccepted [] false ∧ instView t slot = some j ∧
      j.save = some { mbx := mref s m, pause := reqN s m 10 1 == 1, addr := BitVec.ofNat 64 (reqN s m 16 8),
                      cap := BitVec.ofNat 64 (reqN s m 24 8) } ∧
      barrierFree t slot j = false ∧ j.flight = i.flight ∧ j.ctxs = i.ctxs ∧ t.butReply = s.butReply) ∧
  (∀ (s : State) (slot : Nat) (i : Instance) (v : Save), slot < 64 → instOf s slot = some i → i.save = some v → i.flight = [] →
    ∃ t j, exec (.stateSaveDrained slot) s = .next t ∧ instView t slot = some j ∧ j.save = none ∧
      j.pause = (i.pause || (v.pause && entryHere s i)) ∧ j.ctxs = i.ctxs ∧ j.step = i.step ∧ t.butReply = s.butReply ∧
      ((mbxAt s v.mbx.id).epoch = v.mbx.epoch → (mbxAt t v.mbx.id).final = true ∧ (mbxAt t v.mbx.id).rsp = memWrite [] 0
        (if v.cap.toNat < (Config.savedBytes (savedState s slot i)).length then
          rspBytes stBadParam v.mbx.op (errBytes (ceilDiv (Config.savedBytes (savedState s slot i)).length 4096) 0)
         else rspBytes stOk v.mbx.op (leBytes 8 (Config.savedBytes (savedState s slot i)).length)))) ∧
  (∀ (s w : State) (m : MbxId) (saved : SavedState) (slot : Nat) (i : Instance), Ready s m 0x0606 24 → heldCmd s m 0x0606 = none →
    busMaster s m.pf = true → ZeroAt s m 10 6 → Names s m slot i → i.flight = [] → setsQuiet i = true →
    restoreDiff s slot i saved = none →
    saved.objs.any (fun e => (objAt ((savedHandles i).foldl freeObj (modInst (accept s m) slot (fun i => { i with restoring := false })))
      e.1).isSome) = false →
    restoreObjs slot i.secure saved.objs []
      ((savedHandles i).foldl freeObj (modInst (accept s m) slot (fun i => { i with restoring := false }))) = some w →
    ∃ t j, exec (.stateRestore m saved) s = .next t ∧ Responds s t m stOk [] true ∧ instView t slot = some j ∧
      j.step = saved.head.elim i.step (fun h => h.step) ∧ j.pause = false ∧ j.restoring = false ∧
      (∀ h, mapFind j.ctxs h = mapFind (mapOf (saved.ctxs.map (fun e => (e.1, { e.2 with busy := false })))) h) ∧
      j.pfxs = mapOf saved.pfxs ∧ j.vers = mapOf saved.vers) ∧
  (∀ (s : State) (m : MbxId) (saved : SavedState) (slot : Nat) (i : Instance), Ready s m 0x0606 24 → heldCmd s m 0x0606 = none →
    busMaster s m.pf = true → ZeroAt s m 10 6 → Names s m slot i → i.flight = [] → setsQuiet i = true →
    restoreDiff s slot i saved = none → (∀ e ∈ saved.objs, e.2 = [] ∧ objAt s e.1 = none) →
    ∃ t j, exec (.stateRestore m saved) s = .next t ∧ Responds s t m stOk [] true ∧ instView t slot = some j ∧
      j.step = saved.head.elim i.step (fun h => h.step) ∧ j.pause = false ∧ j.restoring = false ∧
      (∀ e ∈ saved.objs, objAt t e.1 = some { inst := slot, secure := i.secure })) ∧
  (∀ (s : State) (m : MbxId) (slot : Nat) (i : Instance), Ready s m 0x0607 8 → ZeroAt s m 10 6 → NamesEntry s m slot i → i.pause = true →
    ∃ t j, exec (.resume m) s = .next t ∧ Responds s t m stOk [] true ∧ instView t slot = some j ∧ j.pause = false ∧
      j.ctxs = i.ctxs ∧ j.step = i.step ∧ t.butReply = s.butReply)

/-- MBX_CTL_WRITE, MBX_REQUEST_WRITE, MBX_SUBMISSION, BUS_MASTER_ENABLE_SET, BUS_MASTER_ENABLE_CLEAR and MSIX_UNMASK complete: a write
of `MBX_CTL` acts only with its low bytes; with OWN 0 it sets INT_EN, clears VIOL where its bit 2 is 1, and sets SEQ while the mailbox
holds no command; with OWN 1 it submits, or sets VIOL while the mailbox holds a command; a write of the request area changes its bytes,
or sets VIOL (R366, R367); the writes a function held go out in order when its Bus Master Enable is set; an unmasked vector sends the
message it held, and keeps none; an event on a masked vector sets its pending bit (R377, R381). -/
def Obligations.HostWritesAndVectors : Prop :=
  (∀ (s : State) (m : MbxId) (v : W32), mbxWf m = true → mbxOpen s m = true → fld v 0 0 = 0 →
    ∃ t, exec (.mbxCtlWrite m v true) s = .next t ∧
      mbxAt t m = { mbxAt s m with
        intEn := fld v 3 3 == 1
        viol := (mbxAt s m).viol && fld v 2 2 == 0
        seq := if mbxBusy (mbxAt s m) then (mbxAt s m).seq else BitVec.ofNat 8 (fld v 15 8) } ∧
      (∀ k, mbxWf k = true → k ≠ m → mbxAt t k = mbxAt s k) ∧ t = { s with mbx := t.mbx }) ∧
  (∀ (s : State) (m : MbxId) (v : W32), mbxWf m = true →
    exec (.mbxCtlWrite m v false) s = .next s ∧ exec (.mbxSubmission m v false) s = .next s) ∧
  (∀ (s : State) (m : MbxId) (off : Nat) (bs : Bytes), mbxWf m = true → mbxOpen s m = true → mbxBusy (mbxAt s m) = false →
    ∃ t, exec (.mbxRequestWrite m off bs) s = .next t ∧
      (∀ j, reqByte t m j = if off ≤ j ∧ j < off + bs.length ∧ j < 480 then byteAt bs (j - off) else reqByte s m j) ∧
      mbxAt t m = { mbxAt s m with req := (mbxAt t m).req } ∧
      (∀ k, mbxWf k = true → k ≠ m → mbxAt t k = mbxAt s k) ∧ t = { s with mbx := t.mbx }) ∧
  (∀ (s : State) (m : MbxId) (off : Nat) (bs : Bytes), mbxWf m = true → mbxOpen s m = true → mbxBusy (mbxAt s m) = true →
    ∃ t, exec (.mbxRequestWrite m off bs) s = .next t ∧ mbxAt t m = { mbxAt s m with viol := true } ∧
      (∀ k, mbxWf k = true → k ≠ m → mbxAt t k = mbxAt s k) ∧ t = { s with mbx := t.mbx }) ∧
  (∀ (s : State) (m : MbxId) (v : W32), mbxWf m = true → mbxOpen s m = true → fld v 0 0 = 1 → mbxBusy (mbxAt s m) = false →
    (cmdRow (reqOp s m)).isSome = true →
    ∃ t, exec (.mbxSubmission m v true) s = .next t ∧
      mbxAt t m = { mbxAt s m with
        own := true
        intEn := fld v 3 3 == 1
        viol := (mbxAt s m).viol && fld v 2 2 == 0
        seq := BitVec.ofNat 8 (fld v 15 8) } ∧
      t.order = s.order ++ [m] ∧ (∀ k, mbxWf k = true → k ≠ m → mbxAt t k = mbxAt s k) ∧
      t = { s with mbx := t.mbx, order := t.order }) ∧
  (∀ (s : State) (m : MbxId) (v : W32), mbxWf m = true → mbxOpen s m = true → fld v 0 0 = 1 → mbxBusy (mbxAt s m) = true →
    ∃ t, exec (.mbxSubmission m v true) s = .next t ∧ mbxAt t m = { mbxAt s m with viol := true } ∧
      (∀ k, mbxWf k = true → k ≠ m → mbxAt t k = mbxAt s k) ∧ t = { s with mbx := t.mbx }) ∧
  (∀ (s : State) (pf : Nat), pf < 2 → s.life.linkUp = true →
    ∃ t, exec (.busMasterEnableSet pf) s = .next t ∧ busMaster t pf = true ∧ busMaster t (1 - pf) = busMaster s (1 - pf) ∧
      t.heldDma = s.heldDma.filter (fun w => w.1 != pf) ∧
      t.hostMem = (s.heldDma.filter (fun w => w.1 == pf)).foldl (fun h w => memWrite h w.2.1.toNat w.2.2) s.hostMem ∧
      t = { s with bme0 := t.bme0, bme1 := t.bme1, heldDma := t.heldDma, hostMem := t.hostMem }) ∧
  (∀ (s : State) (pf : Nat), pf < 2 → s.life.linkUp = true →
    ∃ t, exec (.busMasterEnableClear pf) s = .next t ∧ busMaster t pf = false ∧ busMaster t (1 - pf) = busMaster s (1 - pf) ∧
      (∀ a bs, (dmaWrite t pf a bs).hostMem = s.hostMem ∧ (dmaWrite t pf a bs).heldDma = s.heldDma ++ [(pf, a, bs)]) ∧
      t = { s with bme0 := t.bme0, bme1 := t.bme1 }) ∧
  (∀ (s : State) (pf v : Nat), vecWf pf v = true → s.life.linkUp = true →
    ∃ t, exec (.msixUnmask pf v) s = .next t ∧ vecKey pf v ∈ t.unmasked ∧ vecKey pf v ∉ t.msixPend ∧
      t.msixSent = (if vecKey pf v ∈ s.msixPend then vecKey pf v :: s.msixSent else s.msixSent) ∧
      (∀ k, k ≠ vecKey pf v → ((k ∈ t.unmasked ↔ k ∈ s.unmasked) ∧ (k ∈ t.msixPend ↔ k ∈ s.msixPend))) ∧
      t = { s with unmasked := t.unmasked, msixPend := t.msixPend, msixSent := t.msixSent }) ∧
  (∀ (s : State) (pf v : Nat), vecWf pf v = true →
    (vecKey pf v ∈ s.unmasked → (signal s pf v).msixSent = vecKey pf v :: s.msixSent ∧ (signal s pf v).msixPend = s.msixPend) ∧
    (vecKey pf v ∉ s.unmasked → vecKey pf v ∈ (signal s pf v).msixPend ∧ (signal s pf v).msixSent = s.msixSent) ∧
    mapGet 0 (signal s pf v).vecCount (vecKey pf v) =
      (if (pf = 0 ∧ 64 ≤ v ∧ v ≤ 69) ∨ (pf = 1 ∧ 8 ≤ v ∧ v ≤ 12) then mapGet 0 s.vecCount (vecKey pf v) + 1
       else mapGet 0 s.vecCount (vecKey pf v)) ∧
    (∀ k, k ≠ vecKey pf v → mapGet 0 (signal s pf v).vecCount k = mapGet 0 s.vecCount k ∧
      (k ∈ (signal s pf v).msixPend ↔ k ∈ s.msixPend)))


/-- RING_TAIL_READ, RING_HOLDOFF_END and the posting of entries: after HEAD advances the vector is signalled, and then not again for the
holdoff; while a frame waits for room, a TAIL between the last valid one and HEAD is taken and
any other is ignored and counted in TAIL_ERR; entries written during the holdoff are signalled when it ends, and the vector is
quiet again (R375, R376). -/
def Obligations.RingTailAndHoldoff : Prop :=
  (∀ (s : State) (slot : Nat) (tail : W64) (i : Instance), slot < 64 → instOf s slot = some i → ringWaits s slot i = true →
    s.bme0 = true → i.ring.tail.toNat ≤ tail.toNat → tail.toNat ≤ i.ring.head.toNat →
    ∃ t, exec (.ringTailRead slot tail) s = .next t ∧
      instOf t slot = some { i with ring := { i.ring with tail := tail } } ∧ (∀ j, j ≠ slot → instOf t j = instOf s j) ∧
      t.butInsts = s.butInsts) ∧
  (∀ (s : State) (slot : Nat) (tail : W64) (i : Instance), slot < 64 → instOf s slot = some i → ringWaits s slot i = true →
    s.bme0 = true → (tail.toNat < i.ring.tail.toNat ∨ i.ring.head.toNat < tail.toNat) →
    ∃ t, exec (.ringTailRead slot tail) s = .next t ∧
      instOf t slot = some { i with ring := { i.ring with tailErr := i.ring.tailErr + 1 } } ∧
      (∀ j, j ≠ slot → instOf t j = instOf s j) ∧ t.butInsts = s.butInsts) ∧
  (∀ (s : State) (slot : Nat) (i : Instance), slot < 64 → instOf s slot = some i → i.ring.quiet = true →
    i.ring.unsignalled = true →
    ∃ t, exec (.ringHoldoffEnd slot) s = .next t ∧ t.butInsts = (signal s 0 i.ring.vector).butInsts ∧
      instOf t slot = some { i with ring := { i.ring with unsignalled := false } } ∧ (∀ j, j ≠ slot → instOf t j = instOf s j)) ∧
  (∀ (s : State) (slot : Nat) (i : Instance), slot < 64 → instOf s slot = some i → i.ring.quiet = true →
    i.ring.unsignalled = false →
    ∃ t, exec (.ringHoldoffEnd slot) s = .next t ∧ t.butInsts = s.butInsts ∧
      instOf t slot = some { i with ring := { i.ring with quiet := false } } ∧ (∀ j, j ≠ slot → instOf t j = instOf s j)) ∧
  (∀ (s : State) (slot : Nat) (es : List Bytes) (i : Instance), instOf s slot = some i →
    ∃ j, instOf (ringPost s slot es) slot = some j ∧ j.ring.head = i.ring.head + BitVec.ofNat 64 es.length ∧ j.ring.tail = i.ring.tail ∧
      (i.ring.quiet = false → j.ring.quiet = decide (i.ring.holdoff ≠ 0) ∧
        ((ringPost s slot es).msixSent = vecKey 0 i.ring.vector :: s.msixSent ∨ vecKey 0 i.ring.vector ∈ (ringPost s slot es).msixPend)) ∧
      (i.ring.quiet = true → j.ring.quiet = true ∧ j.ring.unsignalled = true ∧
        (ringPost s slot es).msixSent = s.msixSent ∧ (ringPost s slot es).msixPend = s.msixPend))

/-- DMA_READ_ERROR: a frame whose host read failed becomes a marker with ST_DMA_ERROR and leaves no context changed; a
command whose read was held ends ST_DMA_ERROR with the low half of the address; a failed TAIL read changes no frame and no
TAIL, and writes a record of class 1 and cause 16 (R375, R381, R457). What the record's DETAIL holds the spec leaves open. A command that reads host memory while Bus Master Enable of its function is clear is accepted and waits for its read;
nothing else of it happens yet (R381). -/
def Obligations.HostReadsAreHeldOrFail : Prop :=
  (∀ (s : State) (slot : Nat) (step addr : W64) (i : Instance), slot < 64 → instOf s slot = some i → entryHere s i = true →
    i.flight.any (fun f => f.msg.step == step && f.msg.marker.isNone) = true →
    ∃ t j, exec (.dmaReadError (.frame slot step) addr) s = .next t ∧ instOf t slot = some j ∧ j.ctxs = i.ctxs ∧ j.step = i.step ∧
      j.flight = i.flight.map (fun f =>
        if f.msg.step == step then { f with msg := { f.msg with marker := some (.failed stDmaError i.ordinal) } } else f) ∧
      (∃ r, r ∈ t.faults ∧ r.cause = 16 ∧ r.unit = Config.noUnit) ∧ t.pot = s.pot ∧ t.stackMem = s.stackMem) ∧
  (∀ (s : State) (m : MbxId) (addr : W64) (w : MbxRef × SMap Byte), mbxWf m = true → busMaster s m.pf = true →
    heldOf s m = some w → w.1.op = 0x0201 → (mbxAt s m).epoch = w.1.epoch →
    ∃ t, exec (.dmaReadError (.command m) addr) s = .next t ∧ t.dmaWait = s.dmaWait.filter (fun x => x != w) ∧
      (mbxAt t m).own = false ∧ (mbxAt t m).async = false ∧ (mbxAt t m).final = true ∧
      (mbxAt t m).rsp = memWrite [] 0 (rspBytes stDmaError w.1.op (errBytes (addr.toNat % 2 ^ 32) 0)) ∧
      (∀ j, instView t j = instView s j) ∧ t.pot = s.pot ∧ t.stackMem = s.stackMem) ∧
  (∀ (s : State) (slot : Nat) (addr : W64) (i : Instance), slot < 64 → s.bme0 = true → instOf s slot = some i →
    ringWaits s slot i = true →
    ∃ t, exec (.dmaReadError (.tail slot) addr) s = .next t ∧ t.insts = s.insts ∧
      (∃ r, r ∈ t.faults ∧ r.cause = 16 ∧ r.unit = Config.noUnit) ∧ t.pot = s.pot ∧ t.stackMem = s.stackMem) ∧
  (∀ (s : State) (m : MbxId) (op len : Nat) (chk : Option Err) (eff : State → MbxRef → State → State),
    Ready s m op len → heldCmd s m op = none → busMaster s m.pf = false → chk = none →
    Responds s (runDma s m op len chk eff) m stAccepted [] false ∧
    (runDma s m op len chk eff).dmaWait = s.dmaWait ++ [(mref s m, (mbxAt s m).req)] ∧
    (∀ j, instView (runDma s m op len chk eff) j = instView s j))

/-- MESH_PACKET_INJECT and MESH_PACKET_DELIVER: a packet on a virtual channel that its class may use is stamped with its core's
world, its logical destination is resolved, and it is under way; any other does not enter; a response whose turn it is reaches
its destination and leaves the mesh, its flits counted at every router it passes; one with a bad payload flit is discarded at its
destination and recorded; a packet whose header a router finds bad is discarded and recorded there; a request for another part
is kept at a fabric port (R188-R190, R192, R193, R195, R199, R202, R214). -/
def Obligations.MeshPacketsTravel : Prop :=
  (∀ (s : State) (p : MeshPacket), meshWf p = true → vcAllowed p = true →
    (p.type = .read ∨ p.type = .write ∨ p.type = .atomic → gmaPart p.gma = 0 ∨ s.fab.accepted = true) →
    ∃ t q, exec (.meshPacketInject p) s = .next t ∧ t.meshQ = s.meshQ ++ [q] ∧ t = { s with meshQ := t.meshQ } ∧
      q = { p with dest := q.dest, secure := q.secure } ∧ q.secure = (if p.src < 0x400 then siteSecure s p.src else p.secure) ∧
      q.dest = (match p.dest with | .logical c r => .site (siteOf s r c) | d => d)) ∧
  (∀ (s : State) (p : MeshPacket), meshWf p = true → vcAllowed p = false → exec (.meshPacketInject p) s = .next s) ∧
  (∀ (s : State) (p : MeshPacket), meshWf p = true → vcAllowed p = true → (p.type = .read ∨ p.type = .write ∨ p.type = .atomic) → gmaPart p.gma ≠ 0 →
    s.fab.accepted = false →
    ∃ t q, exec (.meshPacketInject p) s = .next t ∧ t.meshQ = s.meshQ ++ [q] ∧ q.type = .errorResp ∧ q.dest = replyDest p.src ∧
      q.vc = 1 ∧ q.tag = p.tag ∧ leAt q.arg 0 1 = 1 ∧ SameWords [spReg 0x2C] s t ∧ t = { s with meshQ := t.meshQ, cw := t.cw }) ∧
  (∀ (s : State) (n : Nat) (p : MeshPacket), s.meshQ[n]? = some p → meshTurn s.meshQ n p = true → p.vc = 1 →
    (p.type = .readResp ∨ p.type = .writeAck ∨ p.type = .atomicResp ∨ p.type = .errorResp) → inService s p.dest = true →
    ∃ t, exec (.meshPacketDeliver n []) s = .next t ∧ t.meshQ = s.meshQ.eraseIdx n ∧ t.meshOut = p :: s.meshOut ∧
      t = { s with meshQ := t.meshQ, meshOut := t.meshOut, cw := t.cw } ∧
      (∀ a, rd t a = rd s a + BitVec.ofNat 32 (meshFlits p * ((meshPath s p).filter (fun h => routerReg h.1 h.2 == a)).length))) ∧
  (∀ (s : State) (n : Nat) (router : Nat) (p : MeshPacket), router < 800 → s.meshQ[n]? = some p → meshTurn s.meshQ n p = true →
    takesPacket s p = true → router ∈ (meshPath s p).map Prod.fst →
    ∃ t, exec (.meshPacketDeliver n [(router, .header)]) s = .next t ∧ t.meshQ = s.meshQ.eraseIdx n ∧ t.meshOut = s.meshOut ∧
      t.stackQ = s.stackQ ∧ t.stackMem = s.stackMem ∧ t.store = s.store ∧
      rd t (routerReg router 8) = BitVec.ofNat 32 (Nat.min ((rd s (routerReg router 8)).toNat + 1) 0xFFFF) ∧
      (∃ r, r ∈ t.faults ∧ r.cause = 7 ∧ r.unit = router)) ∧
  (∀ (s : State) (n : Nat) (router : Nat) (p : MeshPacket), router < 800 → s.meshQ[n]? = some p → meshTurn s.meshQ n p = true →
    (p.type = .readResp ∨ p.type = .writeAck ∨ p.type = .atomicResp ∨ p.type = .errorResp ∨ p.type = .msg) → p.payload ≠ [] →
    router ∈ (meshPath s p).map Prod.fst →
    ∃ t, exec (.meshPacketDeliver n [(router, .payload)]) s = .next t ∧ t.meshQ = s.meshQ.eraseIdx n ∧ t.meshOut = s.meshOut ∧
      t.stackQ = s.stackQ ∧ t.stackMem = s.stackMem ∧ t.store = s.store ∧
      rd t (meshReg 0x84) = BitVec.ofNat 32 (Nat.min ((rd s (meshReg 0x84)).toNat + 1) 0xFFFFFFFF) ∧
      (∃ r, r ∈ t.faults ∧ r.cause = 7 ∧ r.unit = destSite s p.dest)) ∧
  (∀ (s : State) (n k : Nat) (p : MeshPacket), s.meshQ[n]? = some p → meshTurn s.meshQ n p = true → takesPacket s p = true →
    (p.type = .read ∨ p.type = .write ∨ p.type = .atomic) → p.dest = .port k → 24 ≤ k → k < 42 → inService s p.dest = true →
    gmaPart p.gma ≠ partId s →
    ∃ t r, exec (.meshPacketDeliver n []) s = .next t ∧ t.meshQ = s.meshQ.eraseIdx n ∧ t.fab.reqs = s.fab.reqs ++ [r] ∧
      r.src = some p ∧ hDest r.pkt = gmaPart p.gma ∧ hGma r.pkt = p.gma ∧ hcrcOk r.pkt = true ∧ t.stackQ = s.stackQ ∧
      t.stackMem = s.stackMem ∧ t.store = s.store) ∧
  (∀ (s : State) (n : Nat) (p : MeshPacket), s.meshQ[n]? = some p → meshTurn s.meshQ n p = false →
    exec (.meshPacketDeliver n []) s = .next s)

/-- MESH_PACKET_DELIVER of a request for a stack, STACK_READ, STACK_WRITE and STACK_ATOMIC complete: a request that passes the checks waits
in the base die's queue, and one that a check refuses is answered with ERROR_RESP and its code: 0x01 for a reserved address, 0x03 for a
secure region and a non-secure requester, 0x06 for an access that crosses 4 KiB; a queued read is answered with the bytes, a write stores
its bytes and is acknowledged where it asks for it, an atomic is answered with the old word after the operation of Table 10.6 is
applied; answers travel on VC1 with the request's tag; an uncorrectable line answers 0x04 (R195, R205, R209, R213, R246). -/
def Obligations.StacksServeRequests : Prop :=
  (∀ (s : State) (n k : Nat) (p : MeshPacket), s.meshQ[n]? = some p → meshTurn s.meshQ n p = true →
    takesPacket s p = true → (p.type = .read ∨ p.type = .write ∨ p.type = .atomic) → p.dest = .port k → k < 24 → skUp s k = true →
    gmaSpace p.gma = 0 → stackOf (gmaOffset p.gma / frameBytes) = k →
    gmaPart p.gma = partId s → accessCode s (if p.src = 0x42B then .kettle else .inside) p.secure p.gma (accessLen p) = none →
    ∃ t, exec (.meshPacketDeliver n []) s = .next t ∧ t.meshQ = s.meshQ.eraseIdx n ∧ t.stackQ = s.stackQ ++ [(k, p)] ∧
      t = { s with meshQ := t.meshQ, stackQ := t.stackQ, cw := t.cw, freeNo := t.freeNo }) ∧
  (∀ (s : State) (n k c : Nat) (p : MeshPacket), s.meshQ[n]? = some p → meshTurn s.meshQ n p = true →
    takesPacket s p = true → (p.type = .read ∨ p.type = .write ∨ p.type = .atomic) → p.dest = .port k → k < 24 → skUp s k = true →
    gmaSpace p.gma = 0 → stackOf (gmaOffset p.gma / frameBytes) = k →
    gmaPart p.gma = partId s → accessCode s (if p.src = 0x42B then .kettle else .inside) p.secure p.gma (accessLen p) = some c →
    ∃ t q, exec (.meshPacketDeliver n []) s = .next t ∧ t.meshQ = s.meshQ.eraseIdx n ++ [q] ∧ q.type = .errorResp ∧
      q.tag = p.tag ∧ q.vc = 1 ∧ q.dest = replyDest p.src ∧ leAt q.arg 0 1 = c % 256 ∧ t.stackQ = s.stackQ ∧
      t.stackMem = s.stackMem ∧ t.store = s.store) ∧
  (∀ (s : State) (a : W64) (len : Nat) (src : Source) (sec : Bool), gmaHigh a ≠ 0 ∨ gmaSpace a = 3 → accessCode s src sec a len = some 1) ∧
  (∀ (s : State) (a : W64) (len : Nat) (src : Source), gmaHigh a = 0 → gmaSpace a = 0 → gmaOffset a / frameBytes < frameCount →
    holderOk s (gmaOffset a / frameBytes) src = true → unitClearing s 2 (regionOf (gmaOffset a / frameBytes)) = false →
    regionSecure s (regionOf (gmaOffset a / frameBytes)) = true → accessCode s src false a len = some 3) ∧
  (∀ (s : State) (a : W64) (len : Nat) (src : Source), gmaHigh a = 0 → gmaSpace a = 0 → gmaOffset a / frameBytes < frameCount →
    holderOk s (gmaOffset a / frameBytes) src = true → unitClearing s 2 (regionOf (gmaOffset a / frameBytes)) = false →
    skDown s (stackOf (gmaOffset a / frameBytes)) = false → accessCode s src true a len = (if 4096 < gmaOffset a % 4096 + len then some 6 else none)) ∧
  (∀ (s : State) (n : Nat) (p : MeshPacket), n < 24 → (n, p) ∈ s.stackQ → p.type = .read → n ∉ s.pot.retrain → skDown s n = false →
    (∀ l ∈ linesOf (gmaOffset p.gma) (accessLen p), l ∉ s.pot.badLines ∧ l ∉ s.pot.softLines) →
    ∃ t q, exec (.stackRead n p []) s = .next t ∧ t.meshQ = s.meshQ ++ [q] ∧ q.type = .readResp ∧ q.tag = p.tag ∧ q.vc = 1 ∧
      q.dest = replyDest p.src ∧ q.payload = memRead s.stackMem (gmaOffset p.gma) (accessLen p) ∧ t.stackQ = s.stackQ.erase (n, p) ∧
      t.stackMem = s.stackMem ∧ t.store = s.store ∧ (s.pot.draining = [] → t.cw = s.cw) ∧ t.insts = s.insts ∧
      t.pot.objs = s.pot.objs) ∧
  (∀ (s : State) (n l : Nat) (p : MeshPacket), n < 24 → (n, p) ∈ s.stackQ → p.type = .read → n ∉ s.pot.retrain → skDown s n = false →
    l ∈ linesOf (gmaOffset p.gma) (accessLen p) → l ∈ s.pot.badLines →
    ∃ t q, exec (.stackRead n p []) s = .next t ∧ t.meshQ = s.meshQ ++ [q] ∧ q.type = .errorResp ∧ q.tag = p.tag ∧ leAt q.arg 0 1 = 4 ∧
      t.stackQ = s.stackQ.erase (n, p) ∧ t.stackMem = s.stackMem ∧ t.store = s.store) ∧
  (∀ (s : State) (n : Nat) (p : MeshPacket), n < 24 → (n, p) ∈ s.stackQ → p.type = .write → n ∉ s.pot.retrain → skDown s n = false →
    sharedHeld s (gmaOffset p.gma / frameBytes) = false →
    ∃ t, exec (.stackWrite n p) s = .next t ∧
      (meshAck p = true → ∃ q, t.meshQ = s.meshQ ++ [q] ∧ q.type = .writeAck ∧ q.tag = p.tag ∧ q.vc = 1 ∧ q.dest = replyDest p.src) ∧
      (meshAck p = false → t.meshQ = s.meshQ) ∧ t.stackQ = s.stackQ.erase (n, p) ∧
      (∀ a, memByte t.stackMem a = if gmaOffset p.gma ≤ a ∧ a < gmaOffset p.gma + p.payload.length
        then byteAt p.payload (a - gmaOffset p.gma) else memByte s.stackMem a) ∧
      t.store = s.store ∧ (s.pot.draining = [] → t.cw = s.cw) ∧ t.insts = s.insts ∧ t.pot.refs = s.pot.refs) ∧
  (∀ (s : State) (n : Nat) (p : MeshPacket) (v : W64), n < 24 → (n, p) ∈ s.stackQ → p.type = .atomic → n ∉ s.pot.retrain →
    skDown s n = false → sharedHeld s (gmaOffset p.gma / frameBytes) = false → gmaOffset p.gma % 8 = 0 → meshSpec p < 8 →
    (∀ l ∈ linesOf (gmaOffset p.gma) 8, l ∉ s.pot.badLines) →
    atomicOp (meshSpec p) (w64At (memRead s.stackMem (gmaOffset p.gma) 8) 0) (w64At p.payload 0) (w64At p.payload 8) = some v →
    ∃ t q, exec (.stackAtomic n p) s = .next t ∧ t.meshQ = s.meshQ ++ [q] ∧ q.type = .atomicResp ∧ q.tag = p.tag ∧ q.vc = 1 ∧
      w64At q.payload 0 = w64At (memRead s.stackMem (gmaOffset p.gma) 8) 0 ∧
      w64At (memRead t.stackMem (gmaOffset p.gma) 8) 0 = v ∧
      (∀ a, a < gmaOffset p.gma ∨ gmaOffset p.gma + 8 ≤ a → memByte t.stackMem a = memByte s.stackMem a) ∧
      t.stackQ = s.stackQ.erase (n, p) ∧ t.store = s.store ∧ t.insts = s.insts ∧ t.pot.refs = s.pot.refs)


/-- STACK_SCRUB and the stack links: a sweep corrects every single-symbol line of the stack and counts it; a replay is
counted; eight failed replays in a row retrain the link and its traffic waits; a retrain that ends well resumes it, and one
that fails leaves the stack DOWN, its waiting requests answered and its pages lost (R206-R208). -/
def Obligations.StackLinksAndScrubbing : Prop :=
  (∀ (s : State) (n : Nat), n < 24 → skUp s n = true → rdF s (skReg n 0x20) 7 0 ≠ 0 →
    (∀ l ∈ s.pot.badLines, stackOf (l / 32768) ≠ n) → (∀ l ∈ s.pot.softLines, l ∉ s.pot.badLines) → s.pot.softLines.Nodup →
    (rd s (skReg n 8)).toNat ≤ 0xFFFF →
    ∃ t, exec (.stackScrub n []) s = .next t ∧ (∀ l, l ∈ t.pot.softLines ↔ l ∈ s.pot.softLines ∧ stackOf (l / 32768) ≠ n) ∧
      rd t (skReg n 8) = BitVec.ofNat 32 (Nat.min ((rd s (skReg n 8)).toNat +
        (s.pot.softLines.filter (fun l => stackOf (l / 32768) == n)).length) 0xFFFF) ∧
      SameWords [skReg n 8] s t ∧ t.stackMem = s.stackMem ∧ t.pot.badLines = s.pot.badLines) ∧
  (∀ (s : State) (n : Nat) (failed : Bool), n < 24 → skUp s n = true → n ∉ s.pot.retrain →
    ∃ t, exec (.stackLinkReplay n failed) s = .next t ∧
      mapGet 0 t.pot.replays n = (if failed then mapGet 0 s.pot.replays n + 1 else 0) ∧
      rd t (skReg n 0x14) = BitVec.ofNat 32 (Nat.min ((rd s (skReg n 0x14)).toNat + 1) 0xFFFF) ∧
      rd t (skReg n 0x18) = BitVec.ofNat 32 (Nat.min ((rd s (skReg n 0x18)).toNat + 1) 0xFFFF) ∧
      SameWords [skReg n 0x14, skReg n 0x18] s t ∧ t = { s with cw := t.cw, pot := { s.pot with replays := t.pot.replays } }) ∧
  (∀ (s : State) (n : Nat), n < 24 → skUp s n = true → 8 ≤ mapGet 0 s.pot.replays n → n ∉ s.pot.retrain →
    ∃ t, exec (.stackLinkRetrain n) s = .next t ∧ n ∈ t.pot.retrain ∧ mapGet 0 t.pot.replays n = 0 ∧
      rd t (skReg n 0x1C) = BitVec.ofNat 32 (Nat.min ((rd s (skReg n 0x1C)).toNat + 1) 0xFFFF) ∧ SameWords [skReg n 0x1C] s t ∧
      (∀ p, exec (.stackRead n p []) t = .next t ∧ exec (.stackWrite n p) t = .next t ∧ exec (.stackAtomic n p) t = .next t)) ∧
  (∀ (s : State) (n : Nat), n < 24 → n ∈ s.pot.retrain →
    ∃ t, exec (.stackRetrainComplete n true) s = .next t ∧ n ∉ t.pot.retrain ∧
      t = { s with pot := { s.pot with retrain := t.pot.retrain } }) ∧
  (∀ (s : State) (n : Nat), n < 24 → n ∈ s.pot.retrain →
    ∃ t, exec (.stackRetrainComplete n false) s = .next t ∧ n ∉ t.pot.retrain ∧ skDown t n = true ∧ skUp t n = false ∧
      (∀ q ∈ t.stackQ, q.1 ≠ n) ∧ (∀ q, q ∈ s.stackQ → q.1 ≠ n → q ∈ t.stackQ) ∧
      (∀ e, e ∈ t.pot.objs → ∀ p ∈ e.2.pages, p.remote = none → stackOf p.frame = n → p.lost = true) ∧ t.stackMem = s.stackMem)

/-- SIGNAL_DETECT, TRAINING_COMPLETE, LOSS_OF_SIGNAL, FABRIC_LINK_REPLAY, LINK_DEATH: a DOWN port that is not disabled trains on
signal; a training that ends well starts the DISC exchange, the fourth in a row to fail leaves the port FAILED; a lost signal
ends a training in DOWN; a dead link trains again and is counted, and one that carried traffic is recorded; a replay is counted,
with the codewords that came to it (R247, R248, R256, R272). -/
def Obligations.PortsTrain : Prop :=
  (∀ (s : State) (p : Nat), p < 18 → portState s p = fpDown → portDisabled s p = false → portsLive s = true → portTested s p = false →
    ∃ t, exec (.signalDetect p) s = .next t ∧ portState t p = fpTraining ∧ SameWords [fpReg p 0] s t ∧ t = { s with cw := t.cw }) ∧
  (∀ (s : State) (p : Nat), p < 18 → portState s p = fpTraining →
    ∃ t, exec (.trainingComplete p true) s = .next t ∧ portState t p = fpDiscovery ∧ (portAt t p).fails = 0 ∧
      (portAt t p).helloRx = none ∧ (portAt t p).passed = false ∧
      (idValid s = true → (portAt t p).hellos = 1 ∧ SendsDisc t p 1 (fun b => leAt b 2 2 = partId s)) ∧
      (idValid s = false → (portAt t p).hellos = 0 ∧ t.ifpOut = s.ifpOut) ∧ SameWords [fpReg p 0] s t) ∧
  (∀ (s : State) (p : Nat), p < 18 → portState s p = fpTraining →
    ∃ t, exec (.trainingComplete p false) s = .next t ∧ (portAt t p).fails = (portAt s p).fails + 1 ∧
      portState t p = (if 4 ≤ (portAt s p).fails + 1 then fpFailed else fpTraining) ∧ SameWords [fpReg p 0] s t ∧ t.insts = s.insts) ∧
  (∀ (s : State) (p : Nat), p < 18 → portState s p = fpTraining →
    ∃ t, exec (.lossOfSignal p) s = .next t ∧ portState t p = fpDown ∧ SameWords [fpReg p 0] s t ∧ t = { s with cw := t.cw }) ∧
  (∀ (s : State) (p ce ue : Nat) (failed : Bool), p < 18 →
    (portState s p = fpActive ∨ portState s p = fpDraining ∨ portState s p = fpDiscovery ∨ portState s p = fpQuarantine) →
    ∃ t, exec (.fabricLinkReplay p failed ce ue) s = .next t ∧
      rd t (fpReg p 0x18) = BitVec.ofNat 32 (Nat.min ((rd s (fpReg p 0x18)).toNat + 1) 0xFFFF) ∧
      rd t (fpReg p 0x1C) = BitVec.ofNat 32 (Nat.min ((rd s (fpReg p 0x1C)).toNat + 1) 0xFFFF) ∧
      rd t (fpReg p 0x10) = BitVec.ofNat 32 (Nat.min ((rd s (fpReg p 0x10)).toNat + ce) 0xFFFFFFFF) ∧
      rd t (fpReg p 0x14) = BitVec.ofNat 32 (Nat.min ((rd s (fpReg p 0x14)).toNat + ue) 0xFFFFFFFF) ∧
      SameWords [fpReg p 0x10, fpReg p 0x14, fpReg p 0x18, fpReg p 0x1C] s t ∧
      (portAt t p).replayFails = (if failed then (portAt s p).replayFails + 1 else 0) ∧ t = { s with cw := t.cw, fab := t.fab }) ∧
  (∀ (s : State) (p : Nat), p < 18 → portState s p = fpDiscovery →
    ∃ t, exec (.linkDeath p) s = .next t ∧ portState t p = fpTraining ∧ (portAt t p).fails = 0 ∧ (portAt t p).helloRx = none ∧
      rd t (fpReg p 0x20) = BitVec.ofNat 32 (Nat.min ((rd s (fpReg p 0x20)).toNat + 1) 0xFFFF) ∧
      SameWords [fpReg p 0, fpReg p 0x20] s t ∧ t.faults = s.faults) ∧
  (∀ (s : State) (p : Nat), p < 18 → portState s p = fpActive ∨ portState s p = fpDraining → s.faults.length < 4000 →
    ∃ t, exec (.linkDeath p) s = .next t ∧ portState t p = fpTraining ∧ (∀ q, q < 18 → q ≠ p → portState t q = portState s q) ∧
      (∃ r, r ∈ t.faults ∧ r.cause = 12 ∧ r.unit = p))

/-- HELLO, HELLO_TIMEOUT, CONFIRM and LEAVE complete: a HELLO is answered with a CONFIRM that echoes its NONCE, once the part has its ID;
1 ms without the peer's CONFIRM sends another HELLO, and after the third the port trains; a CONFIRM that fails a check leaves the
port in QUARANTINE with the first failing check as REASON, one that passes, where the part's own is sent, makes it ACTIVE; LEAVE 9
quarantines (R247, R252). The checks 1 to 6 and 8 of a CONFIRM come in their order: 1 authentication, 2 the part's own serial digest,
3 no common version, 4 the kind of peer, 5 the rack and 6 the position of a switch, 8 the neighbour of a sled port (R249). -/
def Obligations.PortsDiscover : Prop :=
  (∀ (s : State) (p : Nat) (k : IfpPacket), DiscArrives s p k 1 → portState s p = fpDiscovery → idValid s = true →
    (portAt s p).passed = false → ((portAt s p).hellos = 0 ∨ (portAt s p).nonce.length = 16) →
    ∃ t, exec (.hello p k) s = .next t ∧ portState t p = fpDiscovery ∧ (portAt t p).helloRx = some (slice k.payload 0 68) ∧
      (portAt t p).confirmTx = true ∧ SendsDisc t p 2 (fun b => slice b 68 16 = slice k.payload 20 16) ∧ t.cw = s.cw) ∧
  (∀ (s : State) (p : Nat) (k : IfpPacket), DiscArrives s p k 1 → portState s p = fpDiscovery → idValid s = false →
    ∃ t, exec (.hello p k) s = .next t ∧ (portAt t p).helloRx = some (slice k.payload 0 68) ∧ t.ifpOut = s.ifpOut ∧ t.cw = s.cw) ∧
  (∀ (s : State) (p : Nat), p < 18 → portState s p = fpDiscovery → 1 ≤ (portAt s p).hellos →
    (portAt s p).passed = false →
    ∃ t, exec (.helloTimeout p) s = .next t ∧
      portState t p = (if 3 ≤ (portAt s p).hellos then fpTraining else fpDiscovery) ∧
      ((portAt s p).hellos < 3 → (portAt t p).hellos = (portAt s p).hellos + 1 ∧ SendsDisc t p 1 (fun b => leAt b 2 2 = partId s)) ∧
      SameWords [fpReg p 0] s t) ∧
  (∀ (s : State) (p k : Nat) (f : IfpPacket), DiscArrives s p f 2 → portState s p = fpDiscovery → idValid s = true →
    confirmReason s p f.payload = some k → k < 16 →
    ∃ t, exec (.confirm p f) s = .next t ∧ portState t p = fpQuarantine ∧ rdF t (fpReg p 0) 6 3 = k ∧ (portAt t p).passed = false ∧
      (∀ q, q < 18 → q ≠ p → portState t q = portState s q) ∧ t.ladle = s.ladle) ∧
  (∀ (s : State) (p : Nat) (f : IfpPacket), DiscArrives s p f 2 → portState s p = fpDiscovery → idValid s = true →
    confirmReason s p f.payload = none → p < 16 → leAt f.payload 4 1 = p → mapPlane s p = p → (portAt s p).confirmTx = true → remapAllowed s = false →
    ∃ t, exec (.confirm p f) s = .next t ∧ portState t p = fpActive ∧ portPlane t p = p ∧ rdF t (fpReg p 0) 6 3 = 0 ∧
      (portAt t p).passed = true ∧ (∀ q, q < 18 → q ≠ p → portState t q = portState s q)) ∧
  (∀ (s : State) (p : Nat) (f : IfpPacket), DiscArrives s p f 2 → portState s p = fpDiscovery → idValid s = true →
    confirmReason s p f.payload = none → p < 16 → leAt f.payload 4 1 ≠ p → s.fab.decided = false → remapAllowed s = false →
    ∃ t, exec (.confirm p f) s = .next t ∧ portState t p = fpQuarantine ∧ rdF t (fpReg p 0) 6 3 = 7) ∧
  (∀ (s : State) (p : Nat) (f : IfpPacket), DiscArrives s p f 4 → leAt f.payload 1 1 = 9 →
    portState s p = fpDiscovery ∨ portState s p = fpActive →
    ∃ t, exec (.leave p f) s = .next t ∧ portState t p = fpQuarantine ∧ rdF t (fpReg p 0) 6 3 = 9 ∧
      (∀ q, q < 18 → q ≠ p → portState t q = portState s q)) ∧
  (∀ (s : State) (p : Nat) (c : Bytes), authBad s p c = true → confirmReason s p c = some 1) ∧
  (∀ (s : State) (p : Nat) (c : Bytes), authBad s p c = false → slice c 36 32 = serialDigest → confirmReason s p c = some 2) ∧
  (∀ (s : State) (p : Nat) (c : Bytes), authBad s p c = false → slice c 36 32 ≠ serialDigest →
    (leAt c 6 1 / 16 ≠ 4 ∨ leAt c 7 1 / 16 ≠ 4 ∨ Nat.min 3 (leAt c 7 1 % 16) < leAt c 6 1 % 16) → confirmReason s p c = some 3) ∧
  (∀ (s : State) (p : Nat) (c : Bytes), authBad s p c = false → slice c 36 32 ≠ serialDigest →
    settledMinor (leAt c 6 1) (leAt c 7 1) ≠ none → leAt c 1 1 ≠ (if p < 16 then 1 else 0) → confirmReason s p c = some 4) ∧
  (∀ (s : State) (p : Nat) (c : Bytes), p < 16 → authBad s p c = false → slice c 36 32 ≠ serialDigest →
    settledMinor (leAt c 6 1) (leAt c 7 1) ≠ none → leAt c 1 1 = 1 →
    confirmReason s p c = (if leAt c 2 2 / 64 % 128 ≠ partId s / 64 then some 5
      else if leAt c 5 1 ≠ 4 * (partId s / 4 % 16) + partId s % 4 then some 6 else none)) ∧
  (∀ (s : State) (p : Nat) (c : Bytes), 16 ≤ p → authBad s p c = false → slice c 36 32 ≠ serialDigest →
    settledMinor (leAt c 6 1) (leAt c 7 1) ≠ none → leAt c 1 1 = 0 →
    (confirmReason s p c = none ↔ leAt c 2 2 = (partId s ^^^ (if p = 16 then 1 else 2)) ∧ leAt c 4 1 = p) ∧
    (confirmReason s p c ≠ none → confirmReason s p c = some 8))


/-- DRAIN_COMPLETE, FP_RESET, FP_DRAIN, FP_DISABLE, PORT_POLICY_WRITE and PLANE_REMAP_DECISION complete: DRAINING ends DOWN; a reset
restarts `FP_STATUS`, and a quarantined port discovers again; an ACTIVE port drains; a disabled port is DOWN and does not train; a
write of PORT_POLICY leaves its value, but SECURE while it is locked; the plane decision quarantines the held ports with REASON
7 where the planes are no permutation (R247, R252, R436). -/
def Obligations.PortControl : Prop :=
  (∀ (s : State) (p : Nat), p < 18 → portState s p = fpDraining →
    ∃ t, exec (.drainComplete p) s = .next t ∧ portState t p = fpDown ∧ SameWords [fpReg p 0] s t ∧
      t = { s with cw := t.cw, fab := t.fab, ifpOut := t.ifpOut }) ∧
  (∀ (s : State) (p : Nat), p < 18 → portState s p = fpActive →
    ∃ t, exec (.fpDrain p) s = .next t ∧ portState t p = fpDraining ∧ SameWords [fpReg p 0] s t ∧ t = { s with cw := t.cw }) ∧
  (∀ (s : State) (p : Nat), p < 18 → portState s p = fpQuarantine →
    ∃ t, exec (.fpReset p) s = .next t ∧ portState t p = fpDiscovery ∧ rdF t (fpReg p 0) 6 3 = 0 ∧ (portAt t p).passed = false ∧
      SameWords [fpReg p 0] s t ∧ t.insts = s.insts ∧ t.ladle = s.ladle) ∧
  (∀ (s : State) (p : Nat), p < 18 → portCarries s p = false → portState s p ≠ fpQuarantine →
    ∃ t, exec (.fpReset p) s = .next t ∧
      rd t (fpReg p 0) = (if portsLive s && !portDisabled s p then setFld (regReset (fpReg p 0)) 2 0 fpTraining else regReset (fpReg p 0)) ∧
      SameWords [fpReg p 0] s t ∧ t.insts = s.insts ∧ t.ladle = s.ladle) ∧
  (∀ (s : State) (p : Nat), p < 18 → portCarries s p = false →
    ∃ t, exec (.fpDisable p true) s = .next t ∧ portState t p = fpDown ∧ portDisabled t p = true ∧ SameWords [fpReg p 0, fpReg p 0x0C] s t ∧
      exec (.signalDetect p) t = .next t) ∧
  (∀ (s : State) (p : Nat), p < 18 →
    ∃ t, exec (.fpDisable p false) s = .next t ∧ portDisabled t p = false ∧ portState t p = portState s p ∧
      SameWords [fpReg p 0x0C] s t ∧ t = { s with cw := t.cw }) ∧
  (∀ (s : State) (v : W32), (∀ p, p < 18 → portState s p ≠ fpQuarantine) → (∀ p, p < 16 → (portAt s p).passed = false ∧ (portAt s p).held = false) →
    ∃ t, exec (.portPolicyWrite v) s = .next t ∧ rdF t (fabReg 0) 0 0 = fld v 0 0 ∧ rdF t (fabReg 0) 2 2 = fld v 2 2 ∧
      rdF t (fabReg 0) 1 1 = (if rbit s (secReg 0) 10 then rdF s (fabReg 0) 1 1 else fld v 1 1) ∧ t.fab.decided = false ∧
      SameWords [fabReg 0] s t ∧ t = { s with cw := t.cw, fab := t.fab }) ∧
  (∀ (s : State) (p : Nat), remapAllowed s = true → s.fab.decided = false → p < 16 → (portAt s p).passed = true → (portAt s p).held = true →
    (allPassed s && isPermutation s) = false → (∀ q, q < 16 → (portAt s q).held = true → portCarries s q = false) →
    ∃ t, exec .planeRemapDecision s = .next t ∧ portState t p = fpQuarantine ∧ rdF t (fpReg p 0) 6 3 = 7 ∧ t.fab.decided = true ∧
      (∀ q, q < 16 → mapPlane t q = q))

/-- COORD_COMMIT, COORD_TAKEOVER, RACK_TICK, RACK_TICK_MISSING, RACK_REFCLK_LOST and DISC_TIME: an offer whose POSITION agrees with the strap gives the part its ID, one that
does not is refused with STRAP_MISMATCH; a takeover is refused BUSY while an instance is placed; the first tick starts the
counter, a tick within 2 cycles sets it to the multiple of 65,536 and any other is counted; a missing tick and a lost clock are
recorded; a TIME frame gives the next tick's time until the counter is aligned (R241-R243, R253, R254). -/
def Obligations.CoordinatesAndRackTime : Prop :=
  (∀ (s : State) (c : Nat), s.fab.accepted = false → c % 4 = s.life.strap → (∀ p, p < 18 → portState s p ≠ fpDiscovery) →
    ∃ t, exec (.coordCommit c) s = .next t ∧ partId t = c % 8192 ∧ idValid t = true ∧ t.fab.accepted = true ∧ t.fab.mismatch = false ∧
      t.fab.i3cAddr ≠ none ∧ t.fab.waiting = false ∧ SameWords [fabReg 4] s t ∧ t = { s with cw := t.cw, fab := t.fab }) ∧
  (∀ (s : State) (c : Nat), s.fab.accepted = false → c % 4 ≠ s.life.strap →
    ∃ t, exec (.coordCommit c) s = .next t ∧ t.fab.mismatch = true ∧ t.fab.accepted = false ∧ t = { s with fab := t.fab }) ∧
  (∀ (s : State) (c : Nat), s.fab.accepted = true →
    ∃ t, exec (.coordCommit c) s = .next t ∧ partId t = partId s ∧
      t = { s with fab := { s.fab with coord := BitVec.ofNat 13 c, i3cAddr := t.fab.i3cAddr } }) ∧
  (∀ (s : State) (c : Nat), s.fab.accepted = true → c % 4 = s.life.strap → (∀ e ∈ s.insts, e.2.placed = false) →
    (∀ p, p < 18 → portState s p ≠ fpDiscovery ∧ portState s p ≠ fpQuarantine) →
    ∃ t, exec (.coordTakeover c) s = .next t ∧ partId t = c % 8192 ∧ idValid t = true ∧ rbit t (fabReg 4) 14 = true ∧
      (∀ p, p < 18 → portState t p = (if portState s p = fpActive then fpDraining else portState s p)) ∧ t.insts = s.insts) ∧
  (∀ (s : State) (c : Nat), s.fab.accepted = true → c % 4 = s.life.strap → (∃ e ∈ s.insts, e.2.placed = true) →
    ∃ t, exec (.coordTakeover c) s = .next t ∧ t.fab.busy = true ∧ t.cw = s.cw ∧ t.insts = s.insts) ∧
  (∀ (s : State), s.fab.running = false → s.fab.nextTick = none →
    ∃ t, exec .rackTick s = .next t ∧ t.rackTime = 0 ∧ t.fab.running = true ∧ t.fab.goodTicks = s.fab.goodTicks + 1 ∧ SameWords [fabReg 0x14] s t) ∧
  (∀ (s : State) (d : Int) (k : Nat), s.fab.running = true → s.fab.nextTick = none → -2 ≤ d → d ≤ 2 →
    s.rackTime = BitVec.ofInt 64 (65536 * (k : Int) + d) →
    ∃ t, exec .rackTick s = .next t ∧ t.rackTime = BitVec.ofNat 64 (65536 * k) ∧ t.fab.goodTicks = s.fab.goodTicks + 1 ∧
      rdF t (fabReg 0x14) 15 8 = unsgn 8 d ∧ (3 ≤ s.fab.goodTicks + 1 → rbit t (fabReg 0x14) 1 = false) ∧ SameWords [fabReg 0x14] s t) ∧
  (∀ (s : State), s.fab.running = true → 2 < s.rackTime.toNat % 65536 → s.rackTime.toNat % 65536 < 65534 →
    ∃ t, exec .rackTick s = .next t ∧ t.rackTime = s.rackTime ∧ rbit t (fabReg 0x14) 1 = true ∧ t.fab.goodTicks = 0 ∧
      rd t (fabReg 0x24) = BitVec.ofNat 32 (Nat.min ((rd s (fabReg 0x24)).toNat + 1) 0xFFFF) ∧ SameWords [fabReg 0x14, fabReg 0x24] s t) ∧
  (∀ (s : State), ∃ t, exec .rackTickMissing s = .next t ∧ rbit t (fabReg 0x14) 1 = true ∧ t.rackTime = s.rackTime ∧
      (∃ r, r ∈ t.faults ∧ r.cause = 19) ∧ t.fab.goodTicks = 0 ∧ t.insts = s.insts ∧ t.pot = s.pot) ∧
  (∀ (s : State), ∃ t, exec .rackRefclkLost s = .next t ∧ rbit t (fabReg 0x14) 2 = true ∧ t.rackTime = s.rackTime ∧
      (∃ r, r ∈ t.faults ∧ r.cause = 19) ∧ t.insts = s.insts ∧ t.pot = s.pot) ∧
  (∀ (s : State) (p : Nat) (k : IfpPacket), DiscArrives s p k 3 → p < 16 → portState s p = fpActive →
    (∀ q, q < p → portState s q ≠ fpActive) → rbit s (fabReg 0x14) 0 = false →
    ∃ t, exec (.discTime p k) s = .next t ∧
      t = { s with fab := { s.fab with nextTick := some (BitVec.ofNat 64 (leAt k.payload 2 8 / 65536 * 65536)) } } ∧
      (s.fab.running = false → ∃ w, exec .rackTick t = .next w ∧ w.rackTime = BitVec.ofNat 64 (leAt k.payload 2 8 / 65536 * 65536) ∧
        rbit w (fabReg 0x14) 0 = true ∧ w.fab.nextTick = none)) ∧
  (∀ (s : State) (p : Nat) (k : IfpPacket), DiscArrives s p k 3 → p < 16 → portState s p = fpActive →
    (∀ q, q < p → portState s q ≠ fpActive) → rbit s (fabReg 0x14) 0 = true →
    leAt k.payload 2 8 ≠ (s.rackTime.toNat / 65536 + 1) * 65536 →
    ∃ t, exec (.discTime p k) s = .next t ∧ t.rackTime = s.rackTime ∧ t.fab = s.fab ∧ SameWords [fabReg 0x24] s t ∧
      rd t (fabReg 0x24) = BitVec.ofNat 32 (Nat.min ((rd s (fabReg 0x24)).toNat + 1) 0xFFFF))

/-- IFP_WRITE, IFP_READ and IFP_ATOMIC: an access that arrives whole and passes the checks is served: a write's bytes are
stored and acknowledged where it asks for it, a read is answered with the bytes, an atomic with the old word after the
operation; a refused one is answered with its code of Table 09.4; one that fails the header CRC is discarded and counted, and
one that fails the world check is counted in `SEC_DENIED` (R213, R244-R246, R423). -/
def Obligations.AccessesFromOtherParts : Prop :=
  (∀ (s : State) (port : Nat) (p : IfpPacket), Arrives s port p ifpWriteT → retraining s p = false →
    stackHolds s p ifpWriteT p.payload.length = false → ifpCode s p p.payload.length = none →
    replayRefuses s (hSrc p) (hGma p) = false → gmaSpace (hGma p) = 0 →
    ∃ t, exec (.ifpWrite port p) s = .next t ∧
      (∀ a, memByte t.stackMem a = if gmaOffset (hGma p) ≤ a ∧ a < gmaOffset (hGma p) + p.payload.length
        then byteAt p.payload (a - gmaOffset (hGma p)) else memByte s.stackMem a) ∧
      (if hAck p then Emits (linkAcked s port) t (hSrc p) (hStream p) (fun r => hType r = ifpRespT ∧ hTag r = hTag p ∧ hSpec r = 0 ∧ r.payload = [])
       else t.ifpOut = (linkAcked s port).ifpOut) ∧
      t.store = s.store ∧ t.cw = s.cw ∧ t.pot.refs = s.pot.refs ∧ (∀ j, instView t j = instView s j)) ∧
  (∀ (s : State) (port : Nat) (p : IfpPacket), Arrives s port p ifpReadT → retraining s p = false →
    stackHolds s p ifpReadT (hSpec p) = false → ifpCode s p (hSpec p) = none → gmaSpace (hGma p) = 0 → (∀ l ∈ linesOf (gmaOffset (hGma p)) (hSpec p), l ∉ s.pot.badLines) →
    ∃ t, exec (.ifpRead port p) s = .next t ∧
      Emits (linkAcked s port) t (hSrc p) (hStream p) (fun r => hType r = ifpRespT ∧ hTag r = hTag p ∧ hSpec r = 0 ∧
        r.payload = memRead s.stackMem (gmaOffset (hGma p)) (hSpec p)) ∧
      t.stackMem = s.stackMem ∧ t.store = s.store ∧ t.insts = s.insts ∧ t.pot.objs = s.pot.objs) ∧
  (∀ (s : State) (port : Nat) (p : IfpPacket) (v : W64), Arrives s port p ifpAtomicT → p.payload.length = 16 → retraining s p = false →
    stackHolds s p ifpAtomicT 8 = false → ifpCode s p 8 = none → replayRefuses s (hSrc p) (hGma p) = false → gmaSpace (hGma p) = 0 → gmaOffset (hGma p) % 8 = 0 →
    (∀ l ∈ linesOf (gmaOffset (hGma p)) 8, l ∉ s.pot.badLines) →
    atomicOp (hSpec p % 16) (w64At (memRead s.stackMem (gmaOffset (hGma p)) 8) 0) (w64At p.payload 0) (w64At p.payload 8) = some v →
    ∃ t, exec (.ifpAtomic port p) s = .next t ∧ w64At (memRead t.stackMem (gmaOffset (hGma p)) 8) 0 = v ∧
      (∀ a, a < gmaOffset (hGma p) ∨ gmaOffset (hGma p) + 8 ≤ a → memByte t.stackMem a = memByte s.stackMem a) ∧
      Emits (linkAcked s port) t (hSrc p) (hStream p) (fun r => hType r = ifpRespT ∧ hTag r = hTag p ∧ hSpec r = 0 ∧
        w64At r.payload 0 = w64At (memRead s.stackMem (gmaOffset (hGma p)) 8) 0) ∧
      t.store = s.store ∧ t.pot.refs = s.pot.refs ∧ (∀ j, instView t j = instView s j)) ∧
  (∀ (s : State) (port c : Nat) (p : IfpPacket), Arrives s port p ifpReadT → retraining s p = false →
    stackHolds s p ifpReadT (hSpec p) = false → ifpCode s p (hSpec p) = some c →
    ∃ t, exec (.ifpRead port p) s = .next t ∧
      Emits (linkAcked s port) t (hSrc p) (hStream p) (fun r => hType r = ifpRespT ∧ hTag r = hTag p ∧ hSpec r = c % 65536 ∧ r.payload = []) ∧
      t.stackMem = s.stackMem ∧ t.store = s.store ∧ t.insts = s.insts ∧ t.pot = s.pot) ∧
  (∀ (s : State) (port : Nat) (p : IfpPacket), port < 18 → portCarries s port = true → hcrcOk p = false →
    ∃ t, exec (.ifpRead port p) s = .next t ∧ exec (.ifpWrite port p) s = .next t ∧ exec (.ifpAtomic port p) s = .next t ∧
      rd t (fpReg port 0x24) = BitVec.ofNat 32 (Nat.min ((rd s (fpReg port 0x24)).toNat + 1) 0xFFFF) ∧
      SameWords [fpReg port 0x24] s t ∧ t = { s with cw := t.cw }) ∧
  (∀ (s : State) (port : Nat) (p : IfpPacket), port < 18 → portCarries s port = true → hType p = ifpWriteT → hAck p = false →
    hLen p = p.payload.length → p.payload.length ≤ 4096 → hDest p = partId s → hcrcOk p = true → worldOk s port p = false →
    ∃ t, exec (.ifpWrite port p) s = .next t ∧
      rd t (secReg 0x0C) = BitVec.ofNat 32 (Nat.min ((rd s (secReg 0x0C)).toNat + 1) 0xFFFFFFFF) ∧
      SameWords [secReg 0x0C] s t ∧ t = { s with cw := t.cw })

/-- READ_RESP, REQ_TMO_EXPIRY, PLANE_WAIT_TIMEOUT, REMOTE_KEEPALIVE and a PATH notice: an answer releases the kept request it
belongs to and reaches the mesh request; a request unanswered is sent again once, and then fails with 0x08; requests that wait
where no plane is ACTIVE fail with 0x0A; a peer whose pages are idle is read; the noticed path is excluded for the epoch
(R229, R239, R273, R275, R276). -/
def Obligations.KeptRequests : Prop :=
  (∀ (s : State) (port : Nat) (p : IfpPacket) (r : FabReq) (q : MeshPacket), Arrives s port p ifpRespT →
    (linkAcked s port).fab.reqs.find? (fun r => r.tag == hTag p && hDest r.pkt == hSrc p) = some r → r.src = some q →
    hSpec p % 256 = 0 → (q.type = .write → meshAck q = true) →
    ∃ t k, exec (.readResp port p) s = .next t ∧
      t.fab.reqs = (linkAcked s port).fab.reqs.filter (fun x => x.tag != r.tag) ∧ t.meshQ = s.meshQ ++ [k] ∧ k.dest = replyDest q.src ∧ k.tag = q.tag ∧ k.vc = 1 ∧ (q.type ≠ .write → k.payload = p.payload) ∧
      k.type = (match q.type with | .read => .readResp | .write => .writeAck | _ => .atomicResp) ∧
      t = { linkAcked s port with fab := { (linkAcked s port).fab with reqs := t.fab.reqs }, meshQ := t.meshQ }) ∧
  (∀ (s : State) (tag : Nat) (r : FabReq), s.fab.reqs.find? (fun r => r.tag == tag) = some r → r.port.isSome = true → r.resent = false →
    ∃ t, exec (.reqTmoExpiry tag) s = .next t ∧
      t.fab.reqs = s.fab.reqs.map (fun x => if x.tag = tag then { x with port := nextPort s r, resent := true } else x) ∧
      (∀ q, nextPort s r = some q → t.ifpOut = (q, r.pkt) :: s.ifpOut ∧
        rd t (ldReg 0x2C) = BitVec.ofNat 32 (Nat.min ((rd s (ldReg 0x2C)).toNat + 1) 0xFFFFFFFF)) ∧
      (nextPort s r = none → t.ifpOut = s.ifpOut) ∧ SameWords [ldReg 0x2C] s t) ∧
  (∀ (s : State) (tag : Nat) (r : FabReq) (q : MeshPacket), s.fab.reqs.find? (fun r => r.tag == tag) = some r → r.port.isSome = true →
    r.resent = true → r.src = some q →
    ∃ t k, exec (.reqTmoExpiry tag) s = .next t ∧ t.fab.reqs = s.fab.reqs.filter (fun x => x.tag != tag) ∧ t.meshQ = s.meshQ ++ [k] ∧
      k.type = .errorResp ∧ k.tag = q.tag ∧ leAt k.arg 0 1 = 8 ∧ t = { s with fab := { s.fab with reqs := t.fab.reqs }, meshQ := t.meshQ }) ∧
  (∀ (s : State), planeList s = [] →
    ∃ t, exec .planeWaitTimeout s = .next t ∧
      t.fab.waits = s.fab.waits.filter (fun w => (flowPort s (hDest w) (hStream w)).isSome) ∧ (∀ r ∈ t.fab.reqs, r.port ≠ none) ∧
      (∀ r ∈ s.fab.reqs, r.port = none → ∀ q, r.src = some q → ∃ k ∈ t.meshQ, k.type = .errorResp ∧ k.tag = q.tag ∧ leAt k.arg 0 1 = 0x0A) ∧
      (∀ o ∈ s.ladle.ops, o.done = false → stuckRank s o ≠ none → ∀ x ∈ t.ladle.ops, ¬(x.group = o.group ∧ x.opId = o.opId))) ∧
  (∀ (s : State), planeList s ≠ [] → exec .planeWaitTimeout s = .next s) ∧
  (∀ (s : State) (peer : Nat) (u : W64), peer < 8192 → mapFind s.pot.outReads peer = some u → framesOn s peer ≠ [] →
    100 * msCycles ≤ elapsed s u → reqRoom s = true →
    ∃ t r, exec (.remoteKeepalive peer) s = .next t ∧ t.fab.reqs = s.fab.reqs ++ [r] ∧ hType r.pkt = ifpReadT ∧ hDest r.pkt = peer ∧
      hSpec r.pkt = 8 ∧ hVc r.pkt = 3 ∧ r.src = none ∧ mapFind t.pot.outReads peer = some s.rackTime ∧ t.pot.objs = s.pot.objs ∧ t.cw = s.cw) ∧
  (∀ (s : State) (port : Nat) (p : IfpPacket), Arrives s port p ifpNoticeT → p.payload.length = 32 → leAt p.payload 0 1 = 1 → nCause p = 3 →
    leAt p.payload 1 1 ≠ 3 →
    ∃ t, exec (.faultNoticePath port p) s = .next t ∧
      planeExcluded t (leAt p.payload 2 2 % 0x2000) (leAt p.payload 4 1) = true ∧
      rd t (ldReg 0x58) = BitVec.ofNat 32 (Nat.min ((rd s (ldReg 0x58)).toNat + 1) 0xFFFFFFFF) ∧ t.insts = s.insts ∧
      t.stackMem = s.stackMem ∧ t.store = s.store)

/-- GROUP_DEFINE and GROUP_DELETE: a group takes its stream, its members in order and the tag of R257, and is answered with the
tag; a deleted group is gone; other groups stay (R257, Table 16.7). -/
def Obligations.GroupsComeAndGo : Prop :=
  (∀ (s : State) (m : MbxId) (list : Bytes), Ready s m 0x0401 16 → heldCmd s m 0x0401 = none → busMaster s m.pf = true →
    reqN s m 8 1 < 64 → ZeroAt s m 9 1 → 1 ≤ reqN s m 10 2 → reqN s m 10 2 ≤ 1024 → reqN s m 12 4 < 2 ^ 24 →
    groupDenied s m (reqN s m 8 1) = none → (mbxSecure s m = true ∨ streamSecure s (reqN s m 12 4) = false) →
    groupOps s (reqN s m 8 1) = [] → (groupIds (reqN s m 10 2) list).Nodup → partId s ∈ groupIds (reqN s m 10 2) list →
    ∃ t, exec (.groupDefine m list) s = .next t ∧
      Responds s t m stOk (leBytes 4 (groupTag (reqN s m 12 4) (groupIds (reqN s m 10 2) list)).toNat ++ zeros 4) true ∧
      groupAt t (reqN s m 8 1) = some { stream := reqN s m 12 4, ids := groupIds (reqN s m 10 2) list
                                        tag := groupTag (reqN s m 12 4) (groupIds (reqN s m 10 2) list), secure := mbxSecure s m } ∧
      (∀ g, g ≠ reqN s m 8 1 → groupAt t g = groupAt s g) ∧ t.fab = s.fab ∧ t.pot = s.pot ∧ t.stackMem = s.stackMem ∧ t.cw = s.cw) ∧
  (∀ (s : State) (m : MbxId) (g : Group), Ready s m 0x0402 8 → reqN s m 8 1 < 64 → ZeroAt s m 9 7 → groupAt s (reqN s m 8 1) = some g →
    (mbxSecure s m = true ∨ g.secure = false) → groupOps s (reqN s m 8 1) = [] →
    ∃ t, exec (.groupDelete m) s = .next t ∧ Responds s t m stOk [] true ∧ groupAt t (reqN s m 8 1) = none ∧
      (∀ h, h ≠ reqN s m 8 1 → groupAt t h = groupAt s h) ∧ t.fab = s.fab ∧ t.pot = s.pot ∧ t.stackMem = s.stackMem ∧ t.cw = s.cw)

/-- MULTICAST, ALL_REDUCE, REDUCE_SCATTER, ALL_GATHER and BARRIER: a posted operation is answered ACCEPTED and joins those in
flight with the request's fields, and the group's next OP_ID follows it; one that needs nothing of other members completes at
once. A gather puts the member's own part in its place; no other posting of these writes memory before segments arrive, but a
reduction of one member (R258, R259, R264, R269, Table 16.7). -/
def Obligations.LadlePosts : Prop :=
  (∀ (s : State) (m : MbxId) (g : Group) (op : Nat) (c : Instr), Ready s m 0x0403 176 → reqN s m 9 1 = op →
    ((op = 0 ∧ c = .multicast m) ∨ (op = 1 ∧ c = .allReduce m) ∨ (op = 2 ∧ c = .reduceScatter m) ∨ (op = 3 ∧ c = .allGather m)) →
    postChk s m = none → groupAt s (reqN s m 8 1) = some g → NoBadData s →
    ∃ t o h, exec c s = .next t ∧ findOp t (reqN s m 8 1) (BitVec.ofNat 32 (reqN s m 16 4)) = some o ∧ o.op = op ∧
      o.fmtRed = reqN s m 10 1 ∧ o.root = reqN s m 12 2 ∧ o.src = BitVec.ofNat 64 (reqN s m 24 8) ∧
      o.dst = BitVec.ofNat 64 (reqN s m 32 8) ∧ o.len = reqN s m 40 8 ∧ o.mbx = some (mref s m) ∧
      groupAt t (reqN s m 8 1) = some h ∧ h.nextOp = BitVec.ofNat 32 (reqN s m 16 4) + 1 ∧ h.ids = g.ids ∧ h.tag = g.tag ∧
      (o.done = false → Responds s t m stAccepted [] false) ∧ (o.done = true → Responds s t m stOk [] true) ∧
      (op = 0 → t.stackMem = s.stackMem ∧ t.store = s.store) ∧
      ((op = 1 ∨ op = 2) → 2 ≤ g.ids.length → t.stackMem = s.stackMem ∧ t.store = s.store) ∧ t.pot.refs = s.pot.refs) ∧
  (∀ (s : State) (m : MbxId) (g : Group), Ready s m 0x0403 176 → reqN s m 9 1 = 4 → postChk s m = none →
    groupAt s (reqN s m 8 1) = some g → GroupFits g → leaderOf g (myRank s g) ≠ myRank s g →
    (g.tag, BitVec.ofNat 32 (reqN s m 16 4)) ∉ s.ladle.failedBars →
    ∃ t o, exec (.barrier m) s = .next t ∧ Responds s t m stAccepted [] false ∧
      findOp t (reqN s m 8 1) (BitVec.ofNat 32 (reqN s m 16 4)) = some o ∧ o.op = 4 ∧ o.done = false ∧
      Emits s t (g.ids.getD (leaderOf g (myRank s g)) 0) g.stream (fun r => hType r = ifpBarrierT ∧ leAt r.payload 0 1 = 1 ∧
        leAt r.payload 2 2 = 1) ∧ t.stackMem = s.stackMem ∧ t.store = s.store) ∧
  (∀ (s : State) (m : MbxId) (g : Group), Ready s m 0x0403 176 → reqN s m 9 1 = 4 → postChk s m = none →
    groupAt s (reqN s m 8 1) = some g → g.ids = [partId s] →
    (g.tag, BitVec.ofNat 32 (reqN s m 16 4)) ∉ s.ladle.failedBars → s.ladle.early = [] →
    ∃ t o, exec (.barrier m) s = .next t ∧ Responds s t m stOk [] true ∧
      findOp t (reqN s m 8 1) (BitVec.ofNat 32 (reqN s m 16 4)) = some o ∧ o.done = true ∧
      mapGet 0 t.vecCount (vecKey 0 68) = mapGet 0 s.vecCount (vecKey 0 68) + 1 ∧ t.stackMem = s.stackMem ∧ t.store = s.store)

/-- DATA, LADLE_FIRST_TRANSMISSION, ACK and ACK_HOLD_EXPIRY: the segment expected next is written to its place and counted; a
duplicate is counted and changes no memory; a segment of no posted operation is answered NOBUF with NEXT 0; a held transmission
goes out; an ACK moves what is acknowledged and ends the backoff; an acceptance not acknowledged for 2 µs is (R259-R261, R266). -/
def Obligations.SegmentsAreAcceptedInOrder : Prop :=
  (∀ (s : State) (port : Nat) (p : IfpPacket) (g : Group) (o : LOp) (r : Receiving), (Arrives s port p ifpMcastT ∨ Arrives s port p ifpCollT) →
    lKind p = 1 → 16 ≤ p.payload.length → opFor s p = some (g, o) → rejectReason g o p = none → lPhase p = 0 →
    recvOf o 0 (lBlock p) (g.ids.idxOf (hSrc p)) = some r → lSeg p = r.next →
    replayRefuses s (hSrc p) (gmaPlus (delivPlace o g.ids.length r.block) (segMax * r.next)) = false →
    gmaHeld s (gmaPlus (delivPlace o g.ids.length r.block) (segMax * r.next)) = false → NoBadData s →
    ∃ t, exec (.data port p) s = .next t ∧ rd t (ldReg 0x10) = rd s (ldReg 0x10) + 1 ∧
      t.stackMem = (gmaWrite s (gmaPlus (delivPlace o g.ids.length r.block) (segMax * r.next)) (p.payload.drop 16)).stackMem ∧
      t.store = (gmaWrite s (gmaPlus (delivPlace o g.ids.length r.block) (segMax * r.next)) (p.payload.drop 16)).store ∧
      (∃ o2 ∈ t.ladle.ops, o2.group = o.group ∧ o2.opId = o.opId ∧ (recvOf o2 0 r.block r.src).map (fun x => x.next) = some (r.next + 1))) ∧
  (∀ (s : State) (port : Nat) (p : IfpPacket) (g : Group) (o : LOp) (r : Receiving), (Arrives s port p ifpMcastT ∨ Arrives s port p ifpCollT) →
    lKind p = 1 → 16 ≤ p.payload.length → opFor s p = some (g, o) → rejectReason g o p = none →
    recvOf o (lPhase p) (lBlock p) (g.ids.idxOf (hSrc p)) = some r → lSeg p < r.next →
    ∃ t, exec (.data port p) s = .next t ∧ rd t (ldReg 0x14) = BitVec.ofNat 32 (Nat.min ((rd s (ldReg 0x14)).toNat + 1) 0xFFFFFFFF) ∧
      SameWords [ldReg 0x14] s t ∧ t.stackMem = s.stackMem ∧ t.store = s.store) ∧
  (∀ (s : State) (port : Nat) (p : IfpPacket), (Arrives s port p ifpMcastT ∨ Arrives s port p ifpCollT) → lKind p = 1 →
    16 ≤ p.payload.length → opFor s p = none →
    ∃ t, exec (.data port p) s = .next t ∧ rd t (ldReg 0x18) = BitVec.ofNat 32 (Nat.min ((rd s (ldReg 0x18)).toNat + 1) 0xFFFFFFFF) ∧
      SameWords [ldReg 0x18] s t ∧ Emits (linkAcked s port) t (hSrc p) (hStream p) (fun k => leAt k.payload 0 1 = 3 ∧ leAt k.payload 12 4 = 0) ∧
      t.stackMem = s.stackMem ∧ t.store = s.store ∧ t.ladle = s.ladle) ∧
  (∀ (s : State) (port : Nat) (p : IfpPacket) (g : Group) (o : LOp) (k : Nat), (Arrives s port p ifpMcastT ∨ Arrives s port p ifpCollT) →
    lKind p = 1 → 16 ≤ p.payload.length → opFor s p = some (g, o) → rejectReason g o p = some k →
    ∃ t, exec (.data port p) s = .next t ∧ rd t (ldReg 0x24) = BitVec.ofNat 32 (Nat.min ((rd s (ldReg 0x24)).toNat + 1) 0xFFFF) ∧
      SameWords [ldReg 0x24] s t ∧ Emits (linkAcked s port) t (hSrc p) (hStream p) (fun x => leAt x.payload 0 1 = 4 ∧ leAt x.payload 12 4 = k) ∧
      t.stackMem = s.stackMem ∧ t.store = s.store ∧ t.ladle = s.ladle) ∧
  (∀ (s : State) (gi phase block target seg : Nat) (id : W32) (g : Group) (o : LOp) (x : Sending),
    s.ladle.heldTx.find? (txReady s) = some (gi, id, phase, block, target, seg) → groupAt s gi = some g → findOp s gi id = some o →
    o.sends.find? (sameSend phase block target) = some x → NoBadData s →
    ∃ t o2, exec .ladleFirstTransmission s = .next t ∧ t.ladle.heldTx = s.ladle.heldTx.erase (gi, id, phase, block, target, seg) ∧
      findOp t gi id = some o2 ∧ (o2.sends.find? (sameSend phase block target)).map (fun y => y.sent) = some (x.sent + 1) ∧
      (keptSeg o2 phase block seg).isSome = true ∧ t.stackMem = s.stackMem ∧ t.store = s.store) ∧
  (∀ (s : State) (port : Nat) (p : IfpPacket) (g : Group) (o : LOp) (x : Sending), (Arrives s port p ifpMcastT ∨ Arrives s port p ifpCollT) →
    lKind p = 2 → 16 ≤ p.payload.length → sendFor s p = some (g, o, x) → findOp s o.group o.opId = some o → x.probing = false → x.acked < Nat.min (Nat.min (lCount p) x.count) x.sent →
    NoBadData s →
    ∃ t o2, exec (.ack port p) s = .next t ∧ t.stackMem = s.stackMem ∧ t.store = s.store ∧ findOp t o.group o.opId = some o2 ∧
      (o2.done = false → ∃ y, o2.sends.find? (sameSend x.phase x.block x.target) = some y ∧
        y.acked = Nat.min (Nat.min (lCount p) x.count) x.sent ∧ y.backoff = 0)) ∧
  (∀ (s : State) (gi phase block src : Nat) (id : Nat) (g : Group) (o : LOp) (r : Receiving), groupAt s gi = some g →
    findOp s gi (BitVec.ofNat 32 id) = some o → o.group = gi → recvOf o phase block src = some r → r.acked < ackable o r →
    ∃ t o2, exec (.ackHoldExpiry gi id phase block src) s = .next t ∧ findOp t gi (BitVec.ofNat 32 id) = some o2 ∧
      (recvOf o2 phase block src).map (fun x => x.acked) = some (ackable o r) ∧ t.stackMem = s.stackMem ∧ t.store = s.store)

/-- NOBUF, LADLE_RETRY, REJECT, TARGET_UNRESPONSIVE, PROBE and OP_TMO_EXPIRY: an unanswered target is retried after a backoff
of 1 µs doubled to at most 64 µs; a rejected operation, and one other than a multicast whose target gives up, ends
ST_COLL_FAILED with rank and cause; a multicast goes on without the target; a PROBE makes its sender the source (R261, R262,
R267, R268). -/
def Obligations.TargetsThatDoNotAnswer : Prop :=
  (∀ (s : State) (port : Nat) (p : IfpPacket) (g : Group) (o : LOp) (x : Sending), (Arrives s port p ifpMcastT ∨ Arrives s port p ifpCollT) →
    lKind p = 3 → 16 ≤ p.payload.length → sendFor s p = some (g, o, x) → findOp s o.group o.opId = some o →
    o.sends.find? (sameSend x.phase x.block x.target) = some x →
    ∃ t o2 y, exec (.nobuf port p) s = .next t ∧ findOp t o.group o.opId = some o2 ∧ o2.sends.find? (sameSend x.phase x.block x.target) = some y ∧
      y.backoff = (if x.backoff = 0 then 1 else Nat.min 64 (2 * x.backoff)) ∧ y.acked = x.acked ∧ y.since.isSome = true ∧
      t = { linkAcked s port with ladle := { s.ladle with ops := t.ladle.ops } }) ∧
  (∀ (s : State) (gi id phase block target : Nat) (g : Group) (o : LOp) (x : Sending), groupAt s gi = some g →
    findOp s gi (BitVec.ofNat 32 id) = some o → o.sends.find? (sameSend phase block target) = some x → unanswered x = true →
    (∃ t o2 y, exec (.ladleRetry gi id phase block target true) s = .next t ∧ findOp t gi (BitVec.ofNat 32 id) = some o2 ∧
      o2.sends.find? (sameSend phase block target) = some y ∧ y.backoff = (if x.backoff = 0 then 1 else Nat.min 64 (2 * x.backoff)) ∧
      t = { s with ladle := { s.ladle with ops := t.ladle.ops } }) ∧
    (x.backoff ≠ 0 → GroupFits g → (x.probing = true ∨ (keptSeg o x.phase x.block x.acked).isSome = true) →
      ∃ t, exec (.ladleRetry gi id phase block target false) s = .next t ∧
      rd t (ldReg 0x1C) = BitVec.ofNat 32 (Nat.min ((rd s (ldReg 0x1C)).toNat + 1) 0xFFFFFFFF) ∧ SameWords [ldReg 0x1C] s t ∧
      Emits s t (g.ids.getD x.target 0) g.stream (fun k => leAt k.payload 0 1 = (if x.probing then 5 else 1)) ∧ t.ladle = s.ladle)) ∧
  (∀ (s : State) (port : Nat) (p : IfpPacket) (g : Group) (o : LOp) (x : Sending) (r : MbxRef),
    (Arrives s port p ifpMcastT ∨ Arrives s port p ifpCollT) → lKind p = 4 → 16 ≤ p.payload.length → opFor s p = some (g, o) → o.done = false →
    o.sends.find? (sameSend (lPhase p) (lBlock p) (g.ids.idxOf (hSrc p))) = some x → o.mbx = some r → (mbxAt s r.id).epoch = r.epoch →
    ∃ t, exec (.reject port p) s = .next t ∧ findOp t o.group o.opId = none ∧ (mbxAt t r.id).final = true ∧ (mbxAt t r.id).async = false ∧
      (mbxAt t r.id).rsp = memWrite [] 0 (rspBytes stCollFailed r.op (errBytes (g.ids.idxOf (hSrc p)) (lCount p))) ∧
      t.stackMem = s.stackMem ∧ t.store = s.store ∧ t.cw = s.cw) ∧
  (∀ (s : State) (gi id phase block target : Nat) (g : Group) (o : LOp) (x : Sending) (r : MbxRef), groupAt s gi = some g →
    findOp s gi (BitVec.ofNat 32 id) = some o → o.sends.find? (sameSend phase block target) = some x → unanswered x = true →
    x.since.isSome = true → o.op ≠ 0 → o.mbx = some r → (mbxAt s r.id).epoch = r.epoch →
    ∃ t, exec (.targetUnresponsive gi id phase block target) s = .next t ∧ findOp t gi (BitVec.ofNat 32 id) = none ∧
      rd t (ldReg 0x20) = BitVec.ofNat 32 (Nat.min ((rd s (ldReg 0x20)).toNat + 1) 0xFFFF) ∧ (mbxAt t r.id).final = true ∧
      (mbxAt t r.id).rsp = memWrite [] 0 (rspBytes stCollFailed r.op (errBytes target 4)) ∧ t.stackMem = s.stackMem ∧ t.store = s.store) ∧
  (∀ (s : State) (gi id phase block target : Nat) (g : Group) (o : LOp) (x : Sending), groupAt s gi = some g →
    findOp s gi (BitVec.ofNat 32 id) = some o → o.sends.find? (sameSend phase block target) = some x → unanswered x = true →
    x.since.isSome = true → o.op = 0 → NoBadData s →
    ∃ t o2, exec (.targetUnresponsive gi id phase block target) s = .next t ∧ findOp t gi (BitVec.ofNat 32 id) = some o2 ∧ target ∈ o2.dead ∧
      rd t (ldReg 0x20) = BitVec.ofNat 32 (Nat.min ((rd s (ldReg 0x20)).toNat + 1) 0xFFFF) ∧ t.stackMem = s.stackMem ∧ t.store = s.store) ∧
  (∀ (s : State) (port : Nat) (p : IfpPacket) (g : Group) (o : LOp) (r : Receiving), (Arrives s port p ifpMcastT ∨ Arrives s port p ifpCollT) →
    lKind p = 5 → 16 ≤ p.payload.length → opFor s p = some (g, o) → o.recvs.find? (fun r => r.phase == lPhase p && r.block == lBlock p) = some r →
    (∀ q ∈ o.recvs, sameRecv r.phase r.block (g.ids.idxOf (hSrc p)) q = true → q = r) →
    ∃ t, exec (.probe port p) s = .next t ∧ t.stackMem = s.stackMem ∧ t.store = s.store ∧
      (∃ o2 ∈ t.ladle.ops, o2.group = o.group ∧ o2.opId = o.opId ∧
        (recvOf o2 r.phase r.block (g.ids.idxOf (hSrc p))).map (fun x => (x.next, x.acked)) = some (r.next, ackable o { r with src := g.ids.idxOf (hSrc p) }))) ∧
  (∀ (s : State) (gi id : Nat) (g : Group) (o : LOp) (x : Receiving) (r : MbxRef), groupAt s gi = some g → findOp s gi (BitVec.ofNat 32 id) = some o →
    o.done = false → o.op ≠ 4 → o.recvs.find? (fun r => decide (r.next < r.count)) = some x → o.mbx = some r →
    (mbxAt s r.id).epoch = r.epoch →
    ∃ t, exec (.opTmoExpiry gi id) s = .next t ∧ findOp t gi (BitVec.ofNat 32 id) = none ∧ (mbxAt t r.id).final = true ∧
      (mbxAt t r.id).rsp = memWrite [] 0 (rspBytes stCollFailed r.op (errBytes x.src 5)) ∧ t.stackMem = s.stackMem ∧ t.store = s.store ∧
      t.cw = s.cw)

/-- ARRIVE, RELEASE, FAIL and BARRIER_TMO_EXPIRY: an early ARRIVE waits for the post; a leader counts a rank once; a RELEASE
completes the barrier with ST_OK and vector 68, a FAIL with ST_BARRIER_TIMEOUT, and 100 ms after its first ARRIVE the root fails
it and remembers that it has (R269, R271). -/
def Obligations.BarriersReleaseOrFail : Prop :=
  (∀ (s : State) (port : Nat) (p : IfpPacket) (gi : Nat) (g : Group), Arrives s port p ifpBarrierT → lKind p = 1 → p.payload.length = 16 →
    s.ladle.groups.find? (fun x => x.2.tag == lTag p && x.2.stream == hStream p) = some (gi, g) → findOp s gi (lOpId p) = none →
    (g.tag, lOpId p) ∉ s.ladle.failedBars → (g.tag, lOpId p, g.ids.idxOf (hSrc p)) ∉ s.ladle.early →
    ∃ t, exec (.arrive port p) s = .next t ∧
      t = { linkAcked s port with ladle := { s.ladle with early := s.ladle.early ++ [(g.tag, lOpId p, g.ids.idxOf (hSrc p))] } }) ∧
  (∀ (s : State) (port : Nat) (p : IfpPacket) (gi : Nat) (g : Group) (o : LOp), Arrives s port p ifpBarrierT → lKind p = 1 →
    p.payload.length = 16 → s.ladle.groups.find? (fun x => x.2.tag == lTag p && x.2.stream == hStream p) = some (gi, g) →
    findOp s gi (lOpId p) = some o → o.op = 4 → o.done = false → (g.tag, lOpId p) ∉ s.ladle.failedBars →
    rackOf (g.ids.getD (g.ids.idxOf (hSrc p)) 0) = rackOf (g.ids.getD (myRank s g) 0) → o.group = gi →
    ∃ t o2, exec (.arrive port p) s = .next t ∧ findOp t gi (lOpId p) = some o2 ∧ g.ids.idxOf (hSrc p) ∈ o2.arrived ∧
      (∀ r ∈ o.arrived, r ∈ o2.arrived) ∧ t.stackMem = s.stackMem ∧ t.store = s.store) ∧
  (∀ (s : State) (port : Nat) (p : IfpPacket) (gi : Nat) (g : Group) (o : LOp) (r : MbxRef), Arrives s port p ifpBarrierT → lKind p = 2 →
    p.payload.length = 16 → s.ladle.groups.find? (fun x => x.2.tag == lTag p && x.2.stream == hStream p) = some (gi, g) →
    findOp s gi (lOpId p) = some o → o.op = 4 → o.done = false → o.mbx = some r → (mbxAt s r.id).epoch = r.epoch → mbxWf r.id = true →
    ∃ t, exec (.release port p) s = .next t ∧ (findOp t gi (lOpId p)).map (fun x => x.done) = some true ∧ (mbxAt t r.id).final = true ∧
      (mbxAt t r.id).rsp = memWrite [] 0 (rspBytes stOk r.op []) ∧
      mapGet 0 t.vecCount (vecKey 0 68) = mapGet 0 s.vecCount (vecKey 0 68) + 1 ∧ t.stackMem = s.stackMem ∧ t.store = s.store) ∧
  (∀ (s : State) (port : Nat) (p : IfpPacket) (gi : Nat) (g : Group) (o : LOp) (r : MbxRef), Arrives s port p ifpBarrierT → lKind p = 3 →
    p.payload.length = 16 → s.ladle.groups.find? (fun x => x.2.tag == lTag p && x.2.stream == hStream p) = some (gi, g) →
    findOp s gi (lOpId p) = some o → o.op = 4 → o.done = false → (g.tag, lOpId p) ∉ s.ladle.failedBars → o.mbx = some r →
    (mbxAt s r.id).epoch = r.epoch →
    ∃ t, exec (.fail port p) s = .next t ∧ (findOp t gi (lOpId p)).map (fun x => x.done) = some true ∧ (mbxAt t r.id).final = true ∧
      (mbxAt t r.id).rsp = memWrite [] 0 (rspBytes stBarrierTimeout r.op (errBytes o.opId.toNat 0)) ∧ t.stackMem = s.stackMem ∧
      t.store = s.store ∧ (leaderOf g (myRank s g) = myRank s g → (g.tag, lOpId p) ∈ t.ladle.failedBars)) ∧
  (∀ (s : State) (gi id : Nat) (g : Group) (o : LOp) (r : MbxRef), groupAt s gi = some g → myRank s g = leaderOf g 0 →
    (g.tag, BitVec.ofNat 32 id) ∉ s.ladle.failedBars → findOp s gi (BitVec.ofNat 32 id) = some o → o.op = 4 → o.done = false →
    o.firstAt.isSome = true → o.mbx = some r → (mbxAt s r.id).epoch = r.epoch →
    ∃ t, exec (.barrierTmoExpiry gi id) s = .next t ∧ (g.tag, BitVec.ofNat 32 id) ∈ t.ladle.failedBars ∧
      (findOp t gi (BitVec.ofNat 32 id)).map (fun x => x.done) = some true ∧ (mbxAt t r.id).final = true ∧
      (mbxAt t r.id).rsp = memWrite [] 0 (rspBytes stBarrierTimeout r.op (errBytes o.opId.toNat 0)))

/-- REPORT, ECHO, COLLECTOR_RECORD_EXPIRY, ECHO_WAIT_EXPIRY and FAULT_EPOCH_END complete: a collector opens one suspect for each suspect
and epoch, counts its reporters once each, and writes one record of it with their number; any other part only notes that it has heard of the suspect; an ECHO ends the wait for
one, and a wait that expires signals vector 64 once; at an epoch's end reports, exclusions and recorded suspects of an
earlier one are dropped (R278-R281). -/
def Obligations.SuspectsAndNotices : Prop :=
  (∀ (s : State) (port : Nat) (p : IfpPacket), Arrives s port p ifpNoticeT → leAt p.payload 0 1 = 1 → p.payload.length = 32 →
    isCollector s = true → (∀ x ∈ s.ladle.suspects, ¬(x.key = nKey p ∧ x.epoch = nEpoch p)) →
    (s.ladle.suspects.filter (fun x => x.epoch == nEpoch p)).length < 64 →
    ∃ t x, exec (.report port p) s = .next t ∧ t.ladle.suspects = s.ladle.suspects ++ [x] ∧ x.key = nKey p ∧ x.epoch = nEpoch p ∧
      x.cause = nCause p ∧ x.reporters = [hSrc p] ∧ x.record = none ∧
      rd t (ldReg 0x58) = BitVec.ofNat 32 (Nat.min ((rd s (ldReg 0x58)).toNat + 1) 0xFFFFFFFF) ∧ SameWords [ldReg 0x58] s t ∧
      t.faults = s.faults ∧ t.insts = s.insts ∧ t.stackMem = s.stackMem) ∧
  (∀ (s : State) (port : Nat) (p : IfpPacket) (x : Suspect), Arrives s port p ifpNoticeT → leAt p.payload 0 1 = 1 → p.payload.length = 32 →
    isCollector s = true → s.ladle.suspects.find? (fun x => x.key == nKey p && x.epoch == nEpoch p) = some x →
    ∃ t y, exec (.report port p) s = .next t ∧ t.ladle.suspects.length = s.ladle.suspects.length ∧
      t.ladle.suspects.find? (fun x => x.key == nKey p && x.epoch == nEpoch p) = some y ∧
      y.reporters = (if hSrc p ∈ x.reporters then x.reporters else x.reporters ++ [hSrc p]) ∧ y.cause = x.cause ∧ y.time = x.time ∧
      t.faults.length = s.faults.length) ∧
  (∀ (s : State) (port : Nat) (p : IfpPacket), Arrives s port p ifpNoticeT → leAt p.payload 0 1 = 1 → p.payload.length = 32 →
    isCollector s = false →
    ∃ t, exec (.report port p) s = .next t ∧ (nKey p, nEpoch p) ∈ t.ladle.heard ∧ t.ladle.suspects = s.ladle.suspects ∧ t.faults = s.faults) ∧
  (∀ (s : State) (port : Nat) (p : IfpPacket), Arrives s port p ifpNoticeT → leAt p.payload 0 1 = 2 → p.payload.length = 32 →
    ∃ t, exec (.echo port p) s = .next t ∧ (nKey p, nEpoch p) ∉ t.ladle.echoWait ∧ (nKey p, nEpoch p) ∈ t.ladle.heard ∧
      (∀ k, k ≠ (nKey p, nEpoch p) → k ∈ s.ladle.echoWait → k ∈ t.ladle.echoWait) ∧
      rd t (ldReg 0x58) = BitVec.ofNat 32 (Nat.min ((rd s (ldReg 0x58)).toNat + 1) 0xFFFFFFFF) ∧ SameWords [ldReg 0x58] s t ∧
      t.insts = s.insts ∧ t.faults = s.faults) ∧
  (∀ (s : State) (key : Nat) (x : Suspect), s.ladle.suspects.find? (fun x => x.key == key && x.record.isNone) = some x →
    (∀ r ∈ s.faults, r.seq ≠ rd s (fltReg 8)) → s.faults.any (sameFault (faultEpoch s) (suspectFault x)) = false →
    ∃ t r, exec (.collectorRecordExpiry key) s = .next t ∧ r ∈ t.faults ∧ r.seq = rd s (fltReg 8) ∧ r.collector = true ∧
      r.reporters = x.reporters.length ∧ r.time = x.time ∧ r.epoch = x.epoch ∧
      (∀ y ∈ t.ladle.suspects, y.key = x.key → y.epoch = x.epoch → y.record = some r.seq) ∧
      rd t (ldReg 0x5C) = BitVec.ofNat 32 (Nat.min ((rd s (ldReg 0x5C)).toNat + 1) 0xFFFF) ∧
      mapGet 0 t.vecCount (vecKey 0 64) = mapGet 0 s.vecCount (vecKey 0 64) + 1) ∧
  (∀ (s : State) (key : Nat) (k : Nat × Nat), s.ladle.echoWait.find? (fun x => x.1 == key) = some k → k ∉ s.ladle.signalled →
    ∃ t, exec (.echoWaitExpiry key) s = .next t ∧ k ∉ t.ladle.echoWait ∧ k ∈ t.ladle.signalled ∧
      mapGet 0 t.vecCount (vecKey 0 64) = mapGet 0 s.vecCount (vecKey 0 64) + 1 ∧
      rd t (ldReg 0x5C) = BitVec.ofNat 32 (Nat.min ((rd s (ldReg 0x5C)).toNat + 1) 0xFFFF) ∧ SameWords [ldReg 0x5C] s t) ∧
  (∀ (s : State), ∃ t, exec .faultEpochEnd s = .next t ∧
      (∀ x, x ∈ t.ladle.reported ↔ x ∈ s.ladle.reported ∧ faultEpoch s ≤ x.2) ∧
      (∀ x, x ∈ t.ladle.suspects ↔ x ∈ s.ladle.suspects ∧ (faultEpoch s ≤ x.epoch ∨ x.record = none)) ∧
      (∀ x, x ∈ t.fab.excluded ↔ x ∈ s.fab.excluded ∧ faultEpoch s ≤ x.2.2.2) ∧
      t = { s with ladle := t.ladle, fab := { s.fab with excluded := t.fab.excluded } })

/-- STACK_OCC_SAMPLE and STOCKPOT_WINDOW_END complete: a sample adds the lines waiting in the base die's queue to the stack's
window; a window that ends at a boundary of the 1 ms windows shows mean and peak of every stack in `SK_OCC` and starts a new
one; with no hot stack the key stays and no page is planned to move; with a hot one, REKEY set and REKEY_MIN ms since the last
draw, a new key is drawn and counted. A stack is hot when its mean is above HOT_RATIO sixteenths of the mean of the UP stacks'
means and at least MIN_OCC (R224, R225). -/
def Obligations.OccupancyWindows : Prop :=
  (∀ (s : State) (n : Nat), n < 24 →
    ∃ t, exec (.stackOccSample n) s = .next t ∧
      mapGet (0, 0, 0) t.pot.occ n = ((mapGet (0, 0, 0) s.pot.occ n).1 + 1, (mapGet (0, 0, 0) s.pot.occ n).2.1 + queueLines s n,
        Nat.max (mapGet (0, 0, 0) s.pot.occ n).2.2 (queueLines s n)) ∧
      (∀ k, k ≠ n → mapGet (0, 0, 0) t.pot.occ k = mapGet (0, 0, 0) s.pot.occ k) ∧ t = { s with pot := { s.pot with occ := t.pot.occ } }) ∧
  (∀ (s : State), s.rackTime.toNat % msCycles = 0 → s.potWinAt ≠ some s.rackTime →
    ∃ t, exec .stockpotWindowEnd s = .next t ∧ t.pot.occ = [] ∧ t.pot.tracker = [] ∧
      (∀ n, n < 24 → ∀ c sum peak, mapGet (0, 0, 0) s.pot.occ n = (c, sum, peak) → c ≠ 0 → sum ≤ 512 * c → peak ≤ 512 →
        rdF t (skReg n 4) 9 0 = sum / c ∧ rdF t (skReg n 4) 25 16 = peak) ∧
      t.stackMem = s.stackMem ∧ t.insts = s.insts ∧ t.arrays = s.arrays) ∧
  (∀ (s : State), s.rackTime.toNat % msCycles = 0 → s.potWinAt ≠ some s.rackTime → (∀ n, n < 24 → isHot (latchOcc s) n = false) →
    ∃ t, exec .stockpotWindowEnd s = .next t ∧ t.pot.key = s.pot.key ∧ t.pot.migs = s.pot.migs ∧ t.pot.migPlan = [] ∧
      t.pot.objs = s.pot.objs ∧ t.freeNo = s.freeNo) ∧
  (∀ (s : State) (n : Nat), s.rackTime.toNat % msCycles = 0 → s.potWinAt ≠ some s.rackTime →
    n < 24 → isHot (latchOcc s) n = true → rbit s (spReg 0) 1 = true →
    (∀ u, s.pot.rekeyAt = some u → Nat.max 1 (rdF s (spReg 4) 23 16) * msCycles ≤ elapsed s u) →
    ∃ t, exec .stockpotWindowEnd s = .next t ∧ t.pot.key = Config.entropy64 s.freeNo ∧ t.pot.rekeyAt = some s.rackTime ∧
      rd t (spReg 0x10) = rd s (spReg 0x10) + 1 ∧ rd t (spReg 0x28) = rd s (spReg 0x28) + 1) ∧
  (∀ (s : State) (n : Nat), isHot s n = true ↔ n < 24 ∧ skUp s n = true ∧
    Nat.max 17 (rdF s (spReg 4) 7 0) * ((upStacks s).map (skMean s)).sum < 16 * (upStacks s).length * skMean s n ∧
    rdF s (spReg 4) 31 24 ≤ skMean s n)

/-- PAGE_MIGRATE_START, PAGE_MIGRATE_ROUND and COPY_ON_WRITE complete: the first planned page that may still move gets a frame of
its stack; a round that ends with dirty blocks is counted, and a page that would need a fifth stays where it is; a round that
ends with none, its old frame without an uncorrectable line, switches the entry to the new frame, which holds what the old one held, and
the old frame returns to the pool, at once where no access to it is queued (R225, R226). A shared page with one holder is
written in place; with more, FILL blocks are copied into the page reserved for it, the entry points at that page, the old count
falls by one and the copy is counted (R221). -/
def Obligations.PagesMigrateAndAreCopied : Prop :=
  (∀ (s : State) (m : Nat × Nat × Nat) (ms : List (Nat × Nat × Nat)) (o : Obj) (p : Page) (f : Nat), s.pot.migPlan = m :: ms →
    objAt s m.1 = some o → trackedPage s (m.1 * 65536 + m.2.1) = some p → m.2.1 < 65536 → p.pinned = false → p.migrating = false →
    p.lost = false → findFrame s o.secure m.2.2 (Config.freeNat s.freeNo % stackFrames) stackFrames = some f →
    ∃ t, exec .pageMigrateStart s = .next t ∧ t.pot.migPlan = ms ∧
      t.pot.migs = s.pot.migs ++ [{ handle := m.1, page := m.2.1, dest := f, rounds := 0 }] ∧ f ∈ t.pot.used ∧
      objAt t m.1 = some (setPage o m.2.1 { p with migrating := true }) ∧ (∀ h, h ≠ m.1 → objAt t h = objAt s h) ∧
      t.stackMem = s.stackMem ∧ t.cw = s.cw) ∧
  (∀ (s : State), s.pot.migPlan = [] → exec .pageMigrateStart s = .next s) ∧
  (∀ (s : State) (h i : Nat) (m : Migration) (p : Page), findMig s h i = some m → trackedPage s (h * 65536 + i) = some p →
    m.dirty ≠ [] → m.rounds < 3 →
    ∃ t, exec (.pageMigrateRound h i) s = .next t ∧ findMig t h i = some { m with rounds := m.rounds + 1, dirty := [] } ∧
      t = { s with pot := { s.pot with migs := t.pot.migs } }) ∧
  (∀ (s : State) (h i : Nat) (m : Migration) (p : Page), findMig s h i = some m → trackedPage s (h * 65536 + i) = some p →
    i < 65536 → m.dirty ≠ [] → 3 ≤ m.rounds →
    ∃ t, exec (.pageMigrateRound h i) s = .next t ∧ findMig t h i = none ∧ (frameQueued s m.dest = false → m.dest ∉ t.pot.used) ∧
      trackedPage t (h * 65536 + i) = some { p with migrating := false } ∧ t.stackMem = s.stackMem ∧ t.cw = s.cw) ∧
  (∀ (s : State) (h i : Nat) (m : Migration) (p : Page), findMig s h i = some m → trackedPage s (h * 65536 + i) = some p → i < 65536 →
    p.remote = none → m.dirty = [] → (∀ l ∈ s.pot.badLines, lineIn (p.frame * frameBytes) frameBytes l = false) →
    memWf s.stackMem = true →
    ∃ t, exec (.pageMigrateRound h i) s = .next t ∧ findMig t h i = none ∧
      trackedPage t (h * 65536 + i) = some { p with frame := m.dest, migrating := false } ∧
      (frameQueued s p.frame = false → p.frame ∉ t.pot.used) ∧ (frameQueued s p.frame = true → (p.frame, false) ∈ t.pot.draining) ∧
      (∀ j, j < frameBytes → memByte t.stackMem (m.dest * frameBytes + j) = memByte s.stackMem (p.frame * frameBytes + j)) ∧
      (∀ a, a < m.dest * frameBytes ∨ m.dest * frameBytes + frameBytes ≤ a → memByte t.stackMem a = memByte s.stackMem a) ∧
      rd t (spReg 0x24) = rd s (spReg 0x24) + 1 ∧ SameWords [spReg 0x24, skReg (stackOf p.frame) 8] s t) ∧
  (∀ (s : State) (slot h i : Nat) (x : Instance) (o : Obj) (p : Page), slot < 64 → instOf s slot = some x → objAt s h = some o →
    o.inst = slot → o.pages[i]? = some p → p.shared = true → p.lost = false → findMig s h i = none → refCount s (refKey p) ≤ 1 →
    ∃ t, exec (.copyOnWrite slot h i) s = .next t ∧ objAt t h = some (setPage o i { p with shared := false, migrating := false }) ∧
      (∀ g, g ≠ h → objAt t g = objAt s g) ∧ t = { s with pot := { s.pot with objs := t.pot.objs } }) ∧
  (∀ (s : State) (slot h i : Nat) (x : Instance) (o : Obj) (p q : Page), slot < 64 → instOf s slot = some x → objAt s h = some o →
    o.inst = slot → o.pages[i]? = some p → p.shared = true → p.lost = false → findMig s h i = none → 1 < refCount s (refKey p) →
    cowPage x h = some q → p.remote = none → q.remote = none → p.fill ≤ 512 →
    (∀ l ∈ s.pot.badLines, lineIn (p.frame * frameBytes) (4096 * p.fill) l = false) → memWf s.stackMem = true →
    ∃ t, exec (.copyOnWrite slot h i) s = .next t ∧ objAt t h = some (setPage o i { q with fill := p.fill }) ∧
      refCount t (refKey p) = refCount s (refKey p) - 1 ∧
      (∀ j, j < 4096 * p.fill → memByte t.stackMem (q.frame * frameBytes + j) = memByte s.stackMem (p.frame * frameBytes + j)) ∧
      (∀ a, a < q.frame * frameBytes ∨ q.frame * frameBytes + 4096 * p.fill ≤ a → memByte t.stackMem a = memByte s.stackMem a) ∧
      rd t (spReg 0x20) = rd s (spReg 0x20) + 1 ∧ SameWords [spReg 0x20, skReg (stackOf p.frame) 8] s t ∧
      (∀ g, g ≠ h → objAt t g = objAt s g))

/-- REMOTE_PAGE_REQUEST, REMOTE_PAGE_RELEASE and REMOTE_HOLD_EXPIRY complete: a frame is granted to a peer as a pinned class 7
page while the free count is at or above LOW, and none below it; frames the peer releases leave the holding, and all of them do
1 s after its last access; a frame goes back to the pool at once where no access to it is queued (R222, R228, R229). -/
def Obligations.PagesForOtherParts : Prop :=
  (∀ (s : State) (peer f : Nat) (secure : Bool) (o : Obj), spLow s ≤ spFree s →
    o = (objAt s (heldHandle peer secure)).getD { inst := 64, secure := secure } → o.pages.length < 65536 →
    placeOn s secure (placeHash s (heldHandle peer secure) o.pages.length) 24 = some f → rdF s (spReg 0x38) 19 0 < 0xFFFFF →
    ∃ t, exec (.remotePageRequest peer secure 1) s = .next t ∧
      objAt t (heldHandle peer secure) = some { o with pages := o.pages ++ [{ frame := f, pinned := true }] } ∧
      (∀ g, g ≠ heldHandle peer secure → objAt t g = objAt s g) ∧ f ∈ t.pot.used ∧ f ∉ s.pot.used ∧
      rdF t (spReg 0x38) 19 0 = rdF s (spReg 0x38) 19 0 + 1 ∧ t.stackMem = s.stackMem) ∧
  (∀ (s : State) (peer n : Nat) (secure : Bool), spFree s < spLow s → exec (.remotePageRequest peer secure n) s = .next s) ∧
  (∀ (s : State) (peer : Nat) (fs : List Nat), peer < 8192 →
    ∃ t, exec (.remotePageRelease peer fs) s = .next t ∧
      (∀ w, objFrames t (some (heldHandle peer w)) = (objFrames s (some (heldHandle peer w))).filter (fun f => !fs.contains f)) ∧
      (∀ f, f ∈ heldFrames s peer → f ∈ fs → frameQueued s f = false → f ∉ t.pot.used) ∧
      (∀ f, f ∈ heldFrames s peer → f ∈ fs → (peer, f) ∈ t.pot.lapsed) ∧
      (∀ f, f ∉ heldFrames s peer ∨ f ∉ fs → f ∈ s.pot.used → f ∈ t.pot.used) ∧
      (∀ k, k ≠ heldHandle peer false → k ≠ heldHandle peer true → objAt t k = objAt s k) ∧ t.stackMem = s.stackMem) ∧
  (∀ (s : State) (peer : Nat) (u : W64), mapFind s.pot.seen peer = some u → 1000 * msCycles ≤ elapsed s u →
    ∃ t, exec (.remoteHoldExpiry peer) s = .next t ∧ heldFrames t peer = [] ∧
      (∀ f, f ∈ heldFrames s peer → frameQueued s f = false → f ∉ t.pot.used) ∧
      (∀ k, k ≠ heldHandle peer false → k ≠ heldHandle peer true → objAt t k = objAt s k) ∧ t.stackMem = s.stackMem) ∧
  (∀ (s : State) (peer : Nat) (u : W64), mapFind s.pot.seen peer = some u → elapsed s u < 1000 * msCycles →
    exec (.remoteHoldExpiry peer) s = .next s)

/-- HKS_CONVERSION and SLOW_ROUND_END complete: a temperature that counts joins the channel's round, block and near-limit values; two in a row at or above
the level shut the part down with the channel as cause; the third without a temperature marks the sensor broken; a rail
channel joins its round; channels 156-159 are discarded (R404-R406, R410, R413, R414). At the end of a slow round in which the firmware runs and no
reading of channel 152 was off, every converted channel shows the mean of its round; F_THR follows the hottest channel at 0.4 GHz per °C above 95 °C, down by any amount and up by one step; P_EST is the
corrected sum over the rails; above the cap F_CAP falls by one step, or by four above 102 % (R401, R402, R404, R411). The
rounding of means and of P_EST to the nearest, ties to even, is the model's choice (log 22). -/
def Obligations.ConversionsAndSlowRounds : Prop :=
  (∀ (s : State) (c code : Nat) (v : Int), c < 128 → vhkOn s = true → givesTemp code v = true → v < levelTrip s c →
    ∃ t, exec (.hksConversion c code v) s = .next t ∧ (chanAt t c).sum = (chanAt s c).sum + v ∧ (chanAt t c).count = (chanAt s c).count + 1 ∧
      (chanAt t c).bad = 0 ∧ (chanAt t c).prev = some v ∧ (chanAt t c).last5 = (v :: (chanAt s c).last5).take 5 ∧
      (chanAt t c).bsum = (chanAt s c).bsum + v ∧ (chanAt t c).bcount = (chanAt s c).bcount + 1 ∧ (chanAt t c).mean = (chanAt s c).mean ∧
      (∀ k, k ≠ c → chanAt t k = chanAt s k) ∧ t = { s with hk := { s.hk with chans := t.hk.chans } }) ∧
  (∀ (s : State) (c code : Nat) (v w : Int), c < 128 → vhkOn s = true → s.hk.tripped = false → givesTemp code v = true →
    (chanAt s c).prev = some w → levelTrip s c ≤ v → levelTrip s c ≤ w →
    ∃ t, exec (.hksConversion c code v) s = .next t ∧ t.hk.tripped = true ∧ rdF t (hkReg 0x50) 3 0 = 1 ∧ rdF t (hkReg 0x50) 10 4 = c ∧
      t.life.rails = 1 ∧ t.life.fw = none ∧ t.insts = [] ∧ t.arrays = s.arrays ∧ t.ledger = s.ledger) ∧
  (∀ (s : State) (c code : Nat) (v : Int), c < 128 → vhkOn s = true → givesTemp code v = false → (chanAt s c).bad = 2 →
    sensorBroken s c = false → kettleRuns s = true →
    ∃ t, exec (.hksConversion c code v) s = .next t ∧ sensorBroken t c = true ∧ rbit t (hkReg 8) 8 = true ∧ (chanAt t c).bad = 3 ∧
      (chanAt t c).prev = none ∧ (chanAt t c).count = (chanAt s c).count ∧ (∃ r, r ∈ t.faults ∧ r.cause = 18 ∧ r.unit = c) ∧
      (∀ k, k < 128 → k ≠ c → sensorBroken t k = sensorBroken s k)) ∧
  (∀ (s : State) (c code : Nat) (v : Int), 128 ≤ c → c < 156 → c ≠ 152 → vhkOn s = true →
    ∃ t, exec (.hksConversion c code v) s = .next t ∧ (chanAt t c).sum = (chanAt s c).sum + v ∧ (chanAt t c).count = (chanAt s c).count + 1 ∧
      (∀ k, k ≠ c → chanAt t k = chanAt s k) ∧ t = { s with hk := { s.hk with chans := t.hk.chans } }) ∧
  (∀ (s : State) (code : Nat) (v : Int), vhkOn s = true →
    ∃ t, exec (.hksConversion 152 code v) s = .next t ∧ t.hk.dacBad = (s.hk.dacBad || decide (8 < Nat.dist code (4 * dacCode s))) ∧
      t.hk.dacIndex = s.hk.dacIndex + 1 ∧ t.cw = s.cw) ∧
  (∀ (s : State) (c code : Nat) (v : Int), 156 ≤ c → c < 160 → exec (.hksConversion c code v) s = .next s) ∧
  (∀ (s : State) (temp : Int) (c : Nat), vhkOn s = true → kettleRuns s = true → s.hk.dacBad = false → hottest ((List.range 156).foldl closeRound s) = some (temp, c) →
    (∀ k, k < 128 → isStuck ((List.range 156).foldl closeRound s) k = false) →
    ∃ t, exec .slowRoundEnd s = .next t ∧ t.hk.ms = s.hk.ms + 1 ∧
      (∀ k, k < 156 → (chanAt s k).count ≠ 0 →
        rdF t (hkReg (0x100 + 4 * k)) 15 0 = unsgn 16 (roundEven (chanAt s k).sum (chanAt s k).count) ∧ (chanAt t k).sum = 0 ∧ (chanAt t k).count = 0) ∧
      rdF t (hkReg 0x1C) 15 0 = unsgn 16 temp ∧ rdF t (hkReg 0x1C) 22 16 = c ∧
      fThr t = (if throttleAt s temp ≤ fThr s then throttleAt s temp else Nat.min (throttleAt s temp) (fThr s + 1)) ∧
      rdF t (hkReg 0x10) 15 0 = Nat.min 0xFFFF (roundEven ((railSum ((List.range 156).foldl closeRound s) * 100 * s.hk.corrNum : Nat) : Int)
        (97000 * s.hk.corrDen)).toNat ∧
      (capForce t * 16 * (97000 * s.hk.corrDen) < railSum ((List.range 156).foldl closeRound s) * 100 * s.hk.corrNum → 0 < s.hk.corrDen →
        fCap t = Nat.max 12 (fCap s - (if capForce t * 16 * 102 * (97000 * s.hk.corrDen) <
          railSum ((List.range 156).foldl closeRound s) * 100 * s.hk.corrNum * 100 then 4 else 1))))

/-- HKI_WINDOW_END, RATE_BLOCK_END and ARITH_CLOCK_STEP complete: a window's codes and input power are shown, and a third window in a
row that differs by more than 2 % marks HKI_FAULT; a rise of 20 °C/ms trips, one of 2 °C/ms warns, one of 6 °C/ms clamps the
clock; the clock rises to where VARITH stands, one step at a time (R399, R400, R408, R409, R412). -/
def Obligations.WindowsBlocksAndTheClock : Prop :=
  (∀ (s : State) (vin iin iib : Nat), vhkOn s = true →
    ∃ t, exec (.hkiWindowEnd vin iin iib) s = .next t ∧ rdF t (hkReg 0x28) 19 0 = vin % 2 ^ 20 ∧ rdF t (hkReg 0x28) 31 31 = 1 ∧
      rdF t (hkReg 0x2C) 19 0 = iin % 2 ^ 20 ∧ rdF t (hkReg 0x30) 19 0 = iib % 2 ^ 20 ∧
      rdF t (hkReg 0x10) 31 16 = Nat.min 0xFFFF (roundEven ((vin * iin : Nat) : Int) (2 ^ 24)).toNat ∧
      t.hk.hkiFails = (if vinDiffers s vin then s.hk.hkiFails + 1 else 0) ∧
      (kettleRuns s = true → vinDiffers s vin = true → 2 ≤ s.hk.hkiFails → rbit t (hkReg 4) 7 = true) ∧
      t.hk.rawSum = 0 ∧ t.hk.rawCount = 0 ∧ t.insts = s.insts) ∧
  (∀ (s : State) (r : Int) (c : Nat), vhkOn s = true → s.hk.tripped = false → c < 128 →
    fastest ((List.range 128).foldl (fun s c => setChan s c (closeBlock (chanAt s c))) s) = (r, c) → 20 * 256 ≤ r →
    ∃ t, exec .rateBlockEnd s = .next t ∧ t.hk.tripped = true ∧ rdF t (hkReg 0x50) 3 0 = 2 ∧ rdF t (hkReg 0x50) 10 4 = c ∧ t.life.rails = 1) ∧
  (∀ (s : State) (r : Int) (c : Nat), kettleRuns s = true → vhkOn s = true →
    fastest ((List.range 128).foldl (fun s c => setChan s c (closeBlock (chanAt s c))) s) = (r, c) → 2 * 256 ≤ r → r < 20 * 256 →
    ∃ t, exec .rateBlockEnd s = .next t ∧ rbit t (hkReg 4) 1 = true ∧ t.hk.clampQuiet = 0 ∧
      (6 * 256 ≤ r → rbit s (hkReg 4) 2 = false → rbit t (hkReg 4) 2 = true ∧ fClamp t = clampClock s ∧
        rd t (hkReg 0x48) = BitVec.ofNat 32 (Nat.min ((rd s (hkReg 0x48)).toNat + 1) 0xFFFF) ∧ fAct t ≤ clampClock s) ∧
      (r < 6 * 256 → fAct t = fAct s ∧ fClamp t = fClamp s) ∧ t.insts = s.insts) ∧
  (∀ (s : State), kettleRuns s = true → fAct s < s.hk.varith → s.hk.varith ≤ targetClock s → s.hk.varith < 64 →
    ∃ t, exec .arithClockStep s = .next t ∧ fAct t = s.hk.varith ∧ SameWords [hkReg 0x0C] s t ∧
      t.hk.varith = (if s.hk.varith < targetClock s then s.hk.varith + 1 else s.hk.varith) ∧ t = { s with cw := t.cw, hk := t.hk }) ∧
  (∀ (s : State), s.hk.varith ≤ fAct s → exec .arithClockStep s = .next s)

/-- INPUT_OVERCURRENT_SHUTDOWN, OVERVOLTAGE_SHUTDOWN, TRIVET_RESTART, TRIP_CLEAR and VIN_REMOVED complete: a trip turns every rail but VHK off, records
its cause and, as the fourth of 60 minutes, latches; after 5 s of cooling with VIN in range an unlatched part starts cold, with
the trip recorded; TRIP_CLEAR ends the latch; without VIN no rail is up (R397, R414, R415). -/
def Obligations.TripsAndRestarts : Prop :=
  (∀ (s : State) (c : Instr) (k : Nat), (c = .inputOvercurrentShutdown ∧ k = 3 ∨ c = .overvoltageShutdown ∧ k = 4) → vhkOn s = true →
    s.hk.tripped = false →
    ∃ t, exec c s = .next t ∧ t.hk.tripped = true ∧ t.hk.cool = 0 ∧ rdF t (hkReg 0x50) 3 0 = k ∧ t.hk.trips = recentTrips s ++ [s.hk.ms] ∧
      rdF t (hkReg 0x50) 23 16 = Nat.min 255 (rdF s (hkReg 0x50) 23 16 + 1) ∧
      latched t = (latched s || decide (4 ≤ (recentTrips s).length + 1)) ∧ t.life.rails = 1 ∧ t.life.fw = none ∧ t.life.partState = 0 ∧
      t.insts = [] ∧ t.arrays = s.arrays ∧ t.ledger = s.ledger ∧ t.sec.cores = s.sec.cores ∧ t.sec.keys = s.sec.keys) ∧
  (∀ (s : State) (c : Instr), (c = .inputOvercurrentShutdown ∨ c = .overvoltageShutdown) → s.hk.tripped = true → exec c s = .next s) ∧
  (∀ (s : State), s.hk.tripped = true → latched s = false → 5000 ≤ s.hk.cool → vinInRange s = true →
    ∃ t, exec .trivetRestart s = .next t ∧ t.hk.tripped = false ∧ rbit t (hkReg 8) 9 = true ∧ t.life.rails = 1 ∧ t.life.stage = 0 ∧
      t.fab.accepted = false ∧ (∃ r, r ∈ t.faults ∧ r.cls = 4 ∧ r.cause = 21) ∧ t.arrays = s.arrays ∧ t.ledger = s.ledger) ∧
  (∀ (s : State), s.hk.tripped = false ∨ latched s = true ∨ s.hk.cool < 5000 → exec .trivetRestart s = .next s) ∧
  (∀ (s : State), vhkOn s = true →
    ∃ t, exec .tripClear s = .next t ∧ latched t = false ∧ t.hk.cool = 0 ∧ t.hk.tripped = s.hk.tripped ∧ SameWords [hkReg 0x50] s t ∧
      t = { s with cw := t.cw, hk := { s.hk with cool := 0 } }) ∧
  (∀ (s : State), ∃ t, exec .vinRemoved s = .next t ∧ t.hk.vinOn = false ∧ t.life.rails = 0 ∧ t.life.fw = none ∧ t.hk.tripped = false ∧
      t.insts = [] ∧ t.arrays = s.arrays ∧ t.ledger = s.ledger ∧ exec (.railInRegulation 0) t = .next t)

/-- HKS_SLICE_DWELL_END, NEAR_LIMIT_RECORD, NEAR_LIMIT_EPISODE_END, SLED_CAP_WRITE, HK_EVENTS_CLEAR, HK_TDAC_WRITE and
POWER_SET complete: where no slice has failed, the spare moves to the next slice where its codes agree within 2 at the four points, and the slice
it stands beside fails at the third dwell in a row that does not (R407); a near-limit record goes to its place in the host's ring,
and 1 ms without one ends the episode (R416); the sled's cap is taken down, and a written HK_EVENTS bit clears (R417); the test
DAC is written in TEST and RETURN alone (R418); POWER_SET sets host cap and mode and gives the cap in force (R402). -/
def Obligations.HousekeepingWrites : Prop :=
  (∀ (s : State) (a b : List Int), vhkOn s = true → failedSlices s = [] → slicesTested s = false →
    (∀ i, i < 4 → (a.getD i 0 - b.getD i 0).natAbs ≤ 2) →
    ∃ t, exec (.hksSliceDwellEnd a b) s = .next t ∧ spareAt t = (spareAt s + 1) % 16 ∧ t.hk.dwellFails = 0 ∧ SameWords [hkReg 0x24] s t ∧
      t.faults = s.faults) ∧
  (∀ (s : State) (a b : List Int) (i : Nat), vhkOn s = true → failedSlices s = [] → slicesTested s = false → i < 4 →
    2 < (a.getD i 0 - b.getD i 0).natAbs → s.hk.dwellFails < 2 →
    ∃ t, exec (.hksSliceDwellEnd a b) s = .next t ∧ t = { s with hk := { s.hk with dwellFails := s.hk.dwellFails + 1 } }) ∧
  (∀ (s : State) (a b : List Int) (i : Nat), vhkOn s = true → failedSlices s = [] → slicesTested s = false → i < 4 →
    2 < (a.getD i 0 - b.getD i 0).natAbs → s.hk.dwellFails = 2 → spareAt s < 16 →
    ∃ t, exec (.hksSliceDwellEnd a b) s = .next t ∧ sliceFailed t (spareAt s) = true ∧ spareAt t = spareAt s ∧ t.hk.dwellFails = 0 ∧
      (kettleRuns s = true → ∃ r, r ∈ t.faults ∧ r.cause = 17 ∧ r.unit = spareAt s)) ∧
  (∀ (s : State) (size : Nat) (l : List (Nat × Int)), kettleRuns s = true → rbit s (hkReg 0) 1 = true → rdF s (hkReg 0x3C) 15 0 = size → 0 < size →
    nearList s = l → l ≠ [] → s.bme0 = true →
    ∃ t, exec .nearLimitRecord s = .next t ∧ t.hk.nlSeq = s.hk.nlSeq + 1 ∧ t.hk.nlIndex = (s.hk.nlIndex + 1) % size ∧ rbit t (hkReg 4) 5 = true ∧
      t.hostMem = memWrite s.hostMem (rd s (hkReg 0x38) ++ rd s (hkReg 0x34) + BitVec.ofNat 64 (s.hk.nlIndex % size * 64)).toNat (nearRecord s l) ∧
      SameWords [hkReg 4, hkReg 8] s t ∧ t.insts = s.insts) ∧
  (∀ (s : State), kettleRuns s = true →
    ∃ t, exec .nearLimitEpisodeEnd s = .next t ∧ rbit t (hkReg 4) 5 = false ∧
      (rbit s (hkReg 4) 5 = true → rbit t (hkReg 8) 5 = true) ∧ SameWords [hkReg 4, hkReg 8] s t ∧ t.hk = s.hk) ∧
  (∀ (s : State) (v : Nat), vhkOn s = true → s.hk.sledCap ≠ v % 2048 →
    ∃ t, exec (.sledCapWrite v) s = .next t ∧ t.hk.sledCap = v % 2048 ∧ t.hk.sledEff = s.hk.sledEff ∧
      (kettleRuns s = true → rbit t (hkReg 8) 10 = true) ∧ SameWords [hkReg 8] s t ∧ t.insts = s.insts) ∧
  (∀ (s : State) (v : W32), ∃ t, exec (.hkEventsClear v) s = .next t ∧ rd t (hkReg 8) = rd s (hkReg 8) &&& ~~~ (v &&& 0x7FF) ∧
      SameWords [hkReg 8] s t ∧ t = { s with cw := t.cw }) ∧
  (∀ (s : State) (v : W32), s.life.lcState = 0 ∨ s.life.lcState = 3 →
    ∃ t, exec (.hkTdacWrite v) s = .next t ∧ rd t (hkReg 0x20) = (rd s (hkReg 0x20) &&& ~~~ 0x801F03FF) ||| (v &&& 0x801F03FF) ∧
      SameWords [hkReg 0x20] s t ∧ t = { s with cw := t.cw }) ∧
  (∀ (s : State) (v : W32), s.life.lcState ≠ 0 → s.life.lcState ≠ 3 → exec (.hkTdacWrite v) s = .next s) ∧
  (∀ (s : State) (m : MbxId), Ready s m 0x0701 8 → 800 ≤ reqN s m 8 2 → reqN s m 8 2 ≤ 1800 → reqN s m 10 1 ≤ 1 → ZeroAt s m 11 5 →
    ∃ t, exec (.powerSet m) s = .next t ∧ rdF t (hkReg 0x14) 10 0 = reqN s m 8 2 ∧ rdF t (hkReg 0) 1 1 = reqN s m 10 1 ∧
      capForce t = (if s.hk.sledEff = 0 then reqN s m 8 2 else Nat.min (reqN s m 8 2) s.hk.sledEff) ∧
      Responds s t m stOk (leBytes 2 (capForce t) ++ zeros 6) true ∧ SameWords [hkReg 0, hkReg 0x14] s t ∧ t.butReplyWords = s.butReplyWords)

/-- COLD_RESET, PERST_N_ASSERT, PERST_N_DEASSERT, RAIL_IN_REGULATION, RESET_WARM, RESET_FABRIC_PORT, RESET_DRAIN_END and
FUNCTION_LEVEL_RESET complete. A cold start leaves arrays, ledger, worlds, keys, life cycle and grade, and every register but
SEC_CERT at its reset value; PERST_N resets the part warm, which keeps COORD and its acceptance, stacks that are DOWN,
POLICY_LOCK and the counts since cold reset; the rails come up in order; RESET of KIND 1 answers and drains the ACTIVE ports, and the
drain's end resets the part warm; RESET of KIND 2 answers and restarts one port, one in QUARANTINE in DISCOVERY (R241, R247,
R397, R441, R443, R445, R448). A function-level reset returns every mailbox of its function, Bus Master Enable and the MSI-X
state to their reset values and discards its requests not yet taken; the other function's mailboxes, the instances, the
registers and Stockpot stay (R371, R447). -/
def Obligations.ResetsKeepAndLose : Prop :=
  (∀ (s : State), s.hk.vinOn = false →
    ∃ t, exec .coldReset s = .next t ∧ t.hk.vinOn = true ∧ t.life.rails = 0 ∧ t.life.stage = 0 ∧ t.life.partState = psBoot ∧ t.life.fw = none ∧
      t.insts = [] ∧ t.tiles = [] ∧ t.cores = [] ∧ t.mbx = [] ∧ t.order = [] ∧ t.pot = {} ∧ t.ladle = {} ∧ t.faults = [] ∧ t.rackTime = 0 ∧
      t.fab = {} ∧ t.arrays = s.arrays ∧ t.ledger = s.ledger ∧ t.sec.cores = s.sec.cores ∧ t.sec.regions = s.sec.regions ∧
      t.sec.keys = s.sec.keys ∧ t.life.lcState = s.life.lcState ∧ t.life.secMin = s.life.secMin ∧ t.grade = s.grade ∧
      (∀ o, certWord o = false → rd t o = regReset o)) ∧
  (∀ (s : State), s.hk.vinOn = true → s.life.lcReset = false → exec .coldReset s = .next s) ∧
  (∀ (s : State), s.hk.vinOn = true → s.life.lcReset = true →
    ∃ t, exec .coldReset s = .next t ∧ t.life.lcReset = false ∧ t.life.rails = 1 ∧ t.life.stage = 0 ∧ t.insts = [] ∧ t.fab = {} ∧
      t.arrays = s.arrays ∧ t.ledger = s.ledger ∧ t.life.lcState = s.life.lcState ∧ rbit t (secReg 0) 10 = false) ∧
  (∀ (s : State), vhkOn s = true → s.hk.tripped = false →
    ∃ t, exec .perstNAssert s = .next t ∧ t.life.perst = true ∧ t.life.linkUp = false ∧ t.life.rails = Nat.min 4 s.life.rails ∧
      t.life.stage = 0 ∧ t.life.fw = none ∧ t.insts = [] ∧ t.pot = {} ∧ t.arrays = s.arrays ∧ t.ledger = s.ledger ∧
      t.fab.coord = s.fab.coord ∧ t.fab.accepted = s.fab.accepted ∧ (s.fab.accepted = true → partId t = s.fab.idCoord.toNat ∧ idValid t = true) ∧
      (∀ n, n < 24 → skDown t n = skDown s n) ∧ rbit t (secReg 0) 10 = rbit s (secReg 0) 10 ∧
      rd t (chReg 0x28) = rd s (chReg 0x28) ∧ rd t (fltReg 0x18) = rd s (fltReg 0x18) ∧ rd t (hkReg 0x50) = rd s (hkReg 0x50)) ∧
  (∀ (s : State), vhkOn s = false ∨ s.hk.tripped = true → exec .perstNAssert s = .next { s with life := { s.life with perst := true } }) ∧
  (∀ (s : State), ∃ t, exec .perstNDeassert s = .next t ∧ t.life.perst = false ∧ (1 ≤ s.life.stage → s.life.perst = true → t.life.linkUp = true) ∧
      t = { s with life := { s.life with perst := false, linkUp := t.life.linkUp } }) ∧
  (∀ (s : State) (r : Nat), r < 7 → s.hk.vinOn = true → s.hk.tripped = false → r = s.life.rails →
    ∃ t, exec (.railInRegulation r) s = .next t ∧ t.life.rails = r + 1 ∧ (r = 0 → t.life.strap = Config.slotStrap % 4) ∧
      (r ≠ 0 → t.life.strap = s.life.strap) ∧ t = { s with life := { s.life with rails := t.life.rails, strap := t.life.strap } }) ∧
  (∀ (s : State) (r : Nat), r < 7 → r ≠ s.life.rails → exec (.railInRegulation r) s = .next s) ∧
  (∀ (s : State) (m : MbxId), Ready s m 0x0005 8 → reqN s m 8 1 = 1 → ZeroAt s m 10 6 →
    ∃ t, exec (.resetWarm m) s = .next t ∧ Responds s t m stOk [] true ∧ t.life.drainReset = true ∧
      (∀ p, p < 18 → portState t p = (if portState s p = fpActive then fpDraining else portState s p)) ∧ (∀ j, instView t j = instView s j)) ∧
  (∀ (s : State) (m : MbxId), Ready s m 0x0005 8 → reqN s m 8 1 = 2 → reqN s m 9 1 < 18 → ZeroAt s m 10 6 →
    portState s (reqN s m 9 1) ≠ fpQuarantine → portCarries s (reqN s m 9 1) = false →
    ∃ t, exec (.resetFabricPort m) s = .next t ∧ Responds s t m stOk [] true ∧ portAt t (reqN s m 9 1) = {} ∧
      portState t (reqN s m 9 1) = (if portsLive s && !portDisabled s (reqN s m 9 1) then fpTraining else fpDown) ∧
      SameWords [fpReg (reqN s m 9 1) 0] s t ∧ (∀ j, instView t j = instView s j)) ∧
  (∀ (s : State) (m : MbxId), Ready s m 0x0005 8 → reqN s m 8 1 = 2 → reqN s m 9 1 < 18 → ZeroAt s m 10 6 →
    portState s (reqN s m 9 1) = fpQuarantine →
    ∃ t, exec (.resetFabricPort m) s = .next t ∧ Responds s t m stOk [] true ∧ portState t (reqN s m 9 1) = fpDiscovery ∧
      SameWords [fpReg (reqN s m 9 1) 0] s t ∧ (∀ j, instView t j = instView s j)) ∧
  (∀ (s : State) (m : MbxId), mbxWf m = true → reqN s m 8 1 = 2 → exec (.resetWarm m) s = .next s) ∧
  (∀ (s : State) (m : MbxId), mbxWf m = true → reqN s m 8 1 ≠ 2 → exec (.resetFabricPort m) s = .next s) ∧
  (∀ (s : State), s.life.drainReset = true →
    ∃ t, exec .resetDrainEnd s = .next t ∧ t.life.drainReset = false ∧ t.life.stage = 0 ∧ t.life.fw = none ∧ t.insts = [] ∧
      t.life.rails = Nat.min 4 s.life.rails ∧ t.arrays = s.arrays ∧ t.ledger = s.ledger ∧ t.fab.coord = s.fab.coord) ∧
  (∀ (s : State), s.life.drainReset = false → exec .resetDrainEnd s = .next s) ∧
  (∀ (s : State) (pf : Nat), pf < 2 → s.life.linkUp = true →
    ∃ t, exec (.functionLevelReset pf) s = .next t ∧
      (∀ m, mbxWf m = true → m.pf = pf → mbxAt t m = { epoch := (mbxAt t m).epoch }) ∧
      (∀ m, mbxWf m = true → m.pf ≠ pf → mbxAt t m = mbxAt s m) ∧
      t.order = s.order.filter (fun m => m.pf != pf) ∧ busMaster t pf = false ∧ busMaster t (1 - pf) = busMaster s (1 - pf) ∧
      (∀ k, k ∈ t.unmasked ↔ k ∈ s.unmasked ∧ k / 128 ≠ pf) ∧ (∀ k, k ∈ t.msixPend ↔ k ∈ s.msixPend ∧ k / 128 ≠ pf) ∧
      t.insts = s.insts ∧ t.cw = s.cw ∧ t.pot = s.pot ∧ t.heldDma = s.heldDma ∧ t.hostMem = s.hostMem ∧ t.dmaWait = s.dmaWait ∧
      t.ladle = s.ladle ∧ t.fab = s.fab ∧ t.vecCount = s.vecCount ∧ (pf = 0 → t.sec = s.sec) ∧
      (pf = 1 → t.sec = { s.sec with spdm := false, doeOut := [] })) ∧
  (∀ (s : State) (pf : Nat), pf < 2 → s.life.linkUp = false → exec (.functionLevelReset pf) s = .next s)

/-- FW_LOAD, STARTUP_STAGE_COMPLETE, DISCOVERY_TIMEOUT and HEARTBEAT_TICK complete: an image whose layout, signature and security
version pass runs, at stage 3; one that fails waits again; the stages follow each other in the order of Table 19.2 up to READY,
where the security minimum rises to the image's (R437-R444, R429, R379). -/
def Obligations.PartsStartUp : Prop :=
  (∀ (s : State) (m : MbxId) (img : Bytes), Ready s m 0x0806 16 → heldCmd s m 0x0806 = none → busMaster s m.pf = true → ZeroAt s m 20 4 →
    img.length = reqN s m 16 4 → fwLayout img img.length = none →
    ∃ t, exec (.fwLoad m img) s = .next t ∧ t.life.secMin = s.life.secMin ∧
      (fwVerified s img = true → Responds s t m stOk [] true ∧ t.life.partState = psStarting ∧ t.life.stage = 3 ∧ t.cw = s.cw ∧
        ∃ f, t.life.fw = some f ∧ f.release = leAt img 8 2 ∧ f.mbxIf = leAt img 10 2 ∧ f.build = BitVec.ofNat 32 (leAt img 12 4) ∧
          f.secVer = leAt img 16 4 ∧ f.measure = shake256 64 img) ∧
      (fwVerified s img = false → Responds s t m stAuthFailed (errBytes 0 0) true ∧ t.life.stage = 1 ∧ t.life.fw = s.life.fw)) ∧
  (∀ (s : State) (m : MbxId) (img : Bytes) (o : Nat), Ready s m 0x0806 16 → heldCmd s m 0x0806 = none → busMaster s m.pf = true →
    ZeroAt s m 20 4 → img.length = reqN s m 16 4 → fwLayout img img.length = some o →
    ∃ t, exec (.fwLoad m img) s = .next t ∧ Responds s t m stBadParam (errBytes o 0) true ∧ t.life.stage = 1 ∧ t.life.fw = s.life.fw) ∧
  (∀ (s : State), s.hk.vinOn = true → s.hk.tripped = false → s.life.stage = 0 → 2 ≤ s.life.rails → s.sec.intent = none →
    ∃ t, exec .startupStageComplete s = .next t ∧ t = { s with life := { s.life with stage := 1, linkUp := !s.life.perst } }) ∧
  (∀ (s : State), s.hk.vinOn = true → s.hk.tripped = false → s.life.stage = 3 → s.life.partState = psStarting → 4 ≤ s.life.rails →
    ∃ t, exec .startupStageComplete s = .next t ∧ t.life.stage = 4 ∧ (∀ n, n < 24 → (n ∈ t.pot.retrain ↔ skDown t n = false)) ∧
      t.arrays = s.arrays ∧ t.insts = s.insts) ∧
  (∀ (s : State), s.hk.vinOn = true → s.hk.tripped = false → s.life.stage = 4 → s.life.partState = psStarting → 5 ≤ s.life.rails →
    s.pot.retrain = [] →
    ∃ t, exec .startupStageComplete s = .next t ∧ t.life.stage = 5 ∧ t.pot.formed = true ∧ t.pot.key = Config.entropy64 s.freeNo ∧
      (∀ n, n < 24 → skDown s n = false → skUp t n = true) ∧ t.arrays = s.arrays ∧ t.insts = s.insts) ∧
  (∀ (s : State), s.hk.vinOn = true → s.hk.tripped = false → s.life.stage = 5 → s.life.partState = psStarting → s.life.rails = 7 →
    ∃ t, exec .startupStageComplete s = .next t ∧ t.life.stage = 6 ∧ t.ledger.length = s.ledger.length ∧ rbit t (imgReg 8) 0 = true ∧
      rbit t (imgReg 8) 1 = s.ledger.any (fun p => (pairRec p).isNone) ∧ t.arrays = s.arrays) ∧
  (∀ (s : State), s.hk.vinOn = true → s.hk.tripped = false → s.life.stage = 6 → s.life.partState = psStarting → calComplete s = true →
    ∃ t, exec .startupStageComplete s = .next t ∧
      t = { s with life := { s.life with stage := if s.fab.accepted then 8 else 7 } }) ∧
  (∀ (s : State), s.hk.vinOn = true → s.hk.tripped = false → s.life.stage = 7 → s.life.partState = psStarting → s.fab.accepted = true →
    ∃ t, exec .startupStageComplete s = .next t ∧ t = { s with life := { s.life with stage := 8 } }) ∧
  (∀ (s : State), s.hk.vinOn = true → s.hk.tripped = false → s.life.stage = 8 → s.life.partState = psStarting → discoveryOver s = true →
    ∃ t, exec .startupStageComplete s = .next t ∧ t.life.partState = psReady ∧ t.life.stage = 15 ∧
      t.life.secMin = Nat.max s.life.secMin (s.life.fw.elim 0 (fun f => f.minVer)) ∧
      t = { s with life := { s.life with partState := psReady, stage := 15, secMin := t.life.secMin } }) ∧
  (∀ (s : State), s.life.partState = psStarting → 4 ≤ s.life.stage →
    ∃ t, exec .discoveryTimeout s = .next t ∧ t.life.discOver = true ∧
      t.life.partState = (if s.life.stage = 8 then psReady else psStarting) ∧ t = { s with life := t.life }) ∧
  (∀ (s : State), kettleRuns s = true →
    ∃ t, exec .heartbeatTick s = .next t ∧ t = { s with life := { s.life with heartbeat := s.life.heartbeat + 1 } }) ∧
  (∀ (s : State), kettleRuns s = false → exec .heartbeatTick s = .next s)

/-- FENCE, ROUTER_FAIL, CORE_FAILED, STANDIN_BLOCKS_LOADED and SPARE_SITE_SETTLED complete: a part whose firmware runs and that holds no
instance becomes FENCED with its cause, every ACTIVE port drains, and every port that carries nothing goes DOWN; a fenced part stays as
it is; a failing core's tiles are OFF, its router forwards only, it is counted and recorded; a member's shadow block is loaded into a slot
block of its stand-in core where one is free; when the spare site has settled, the arrays of the failed core's placed slots are written
there (R462-R467). -/
def Obligations.PartsAndCoresFail : Prop :=
  (∀ (s : State) (host : Bool) (cause : Nat), s.life.partState ≠ psFenced → s.life.fw ≠ none → s.insts = [] →
    ∃ t, exec (.fence host cause) s = .next t ∧ t.life.partState = psFenced ∧ rbit t (fltReg 4) 0 = true ∧
      rdF t (fltReg 4) 5 1 = (if host then 0 else cause % 32) ∧ (∃ r, r ∈ t.faults ∧ r.cause = (if host then 0 else cause) ∧ r.unit = Config.noUnit) ∧
      (∀ p, p < 18 → portState t p = (if portState s p = fpActive ∨ portState s p = fpDraining then fpDraining else fpDown)) ∧
      t.stackMem = s.stackMem ∧ t.arrays = s.arrays ∧ t.sec = s.sec) ∧
  (∀ (s : State) (site : Nat), site < 800 → s.life.partState ≠ psFenced → s.life.fw ≠ none → s.insts = [] →
    ∃ t, exec (.routerFail site) s = .next t ∧ t.life.partState = psFenced ∧ rdF t (fltReg 4) 5 1 = 8 ∧
      (∃ r, r ∈ t.faults ∧ r.cause = 8 ∧ r.unit = site)) ∧
  (∀ (s : State) (host : Bool) (cause slot : Nat) (i : Instance), s.life.partState ≠ psFenced → s.life.fw ≠ none → s.insts = [(slot, i)] →
    exitHere s i = false → i.waiting = [] →
    ∃ t j, exec (.fence host cause) s = .next t ∧ t.life.partState = psFenced ∧ instOf t slot = some j ∧ j.flight = [] ∧ j.passStep = none) ∧
  (∀ (s : State) (host : Bool) (cause : Nat), s.life.partState = psFenced → exec (.fence host cause) s = .next s) ∧
  (∀ (s : State) (site : Nat), site < 800 → (coreAt s site).failed = false → coreOff s site = false →
    ∃ t, exec (.coreFailed site) s = .next t ∧ (coreAt t site).failed = true ∧ coreOff t site = true ∧
      (∀ k, k < 16 → tileState t (tkey site k) = 0) ∧
      rd t (fltReg 0x18) = BitVec.ofNat 32 (Nat.min ((rd s (fltReg 0x18)).toNat + 1) 0xFFFF) ∧
      (∃ r, r ∈ t.faults ∧ r.cause = 9 ∧ r.unit = site) ∧ t.stackMem = s.stackMem ∧ t.store = s.store ∧ t.arrays = s.arrays) ∧
  (∀ (s : State) (site : Nat), site < 800 → (coreAt s site).failed = true ∨ coreOff s site = true → exec (.coreFailed site) s = .next s) ∧
  (∀ (s : State) (site : Nat), site < 800 → (coreAt s site).failed = true →
    ∃ t, exec (.standinBlocksLoaded site) s = .next t ∧ (coreAt t site).blocksIn = true ∧ (coreAt t site).failed = true ∧
      (∀ k c, k < 16 → standinOf s site k = some c → (blockAt t c (tkey site k)).isSome = true ∨ freeBlock t c = none) ∧
      (∀ k, (∀ j, j < 16 → standinOf s site j ≠ some k) → (coreAt t k).blocks = (coreAt s k).blocks) ∧
      t = { s with cores := t.cores, store := t.store, storeBad := t.storeBad }) ∧
  (∀ (s : State) (site : Nat), site < 800 → (coreAt s site).failed = false → exec (.standinBlocksLoaded site) s = .next s) ∧
  (∀ (s : State) (row : Nat) (r : Rebuild), row < 32 → s.rebuilds.find? (fun r => r.site / 25 == row && !r.settled) = some r →
    ∃ t, exec (.spareSiteSettled row) s = .next t ∧
      t.rebuilds = s.rebuilds.map (fun x => if x.site = r.site then
        { x with settled := true, left := (ownedSlots s r.site).map (fun k => spareSiteKey (tkey r.site k)) } else x) ∧
      (∀ k ∈ ownedSlots s r.site, tileState t (spareSiteKey (tkey r.site k)) = 3 ∧
        (tileAt t (spareSiteKey (tkey r.site k))).prog.isSome = true) ∧
      t.stackMem = s.stackMem ∧ t.arrays = s.arrays ∧ t.insts = s.insts)


/-- TEST_RUN, BIST_SLICE_START, BIST_SLICE_COMPLETE and BIST_BUDGET_EXPIRY complete: a run lists the units of its scope and is
answered ACCEPTED; its slices start in zone order, one per zone; a slice that cannot be covered or outlasts its budget is
INCOMPLETE and counted; a finished one is counted, a failed one recorded; the last one ends the run with its RESULT
(R450-R453, Table 19.6). -/
def Obligations.SelfTestRuns : Prop :=
  (∀ (s : State) (m : MbxId), Ready s m 0x0702 8 → reqN s m 8 1 < 8 → ZeroAt s m 9 1 → (reqN s m 10 2 < 800 ∨ reqN s m 10 2 = 0xFFFF) →
    ZeroAt s m 12 4 → s.bist = none → scopeUnits s (reqN s m 8 1) (reqN s m 10 2) ≠ [] →
    ∃ t, exec (.testRun m) s = .next t ∧ Responds s t m stAccepted [] false ∧
      t.bist = some { test := reqN s m 8 1, mbx := mref s m, todo := scopeUnits s (reqN s m 8 1) (reqN s m 10 2) } ∧
      rdF t (btReg 4) 3 1 = reqN s m 8 1 ∧ SameWords [btReg 4] s t ∧ t.arrays = s.arrays ∧ t.stackMem = s.stackMem) ∧
  (∀ (s : State) (m : MbxId), Ready s m 0x0702 8 → reqN s m 8 1 < 8 → ZeroAt s m 9 1 → (reqN s m 10 2 < 800 ∨ reqN s m 10 2 = 0xFFFF) →
    ZeroAt s m 12 4 → s.bist = none → scopeUnits s (reqN s m 8 1) (reqN s m 10 2) = [] →
    ∃ t, exec (.testRun m) s = .next t ∧ Responds s t m stOk (zeros 8) true ∧ t.bist = none) ∧
  (∀ (s : State) (b : Bist) (u : Nat), s.bist = some b → (b.test = 1 ∨ b.test = 6) → u ∉ b.covering → nextUnit s b = some u →
    ∃ t, exec (.bistSliceStart u true) s = .next t ∧
      t = { s with bist := some { b with todo := b.todo.filter (fun x => x != u), covering := b.covering.filter (fun x => x != u),
                                          running := b.running ++ [u] } }) ∧
  (∀ (s : State) (b : Bist) (u v : Nat), s.bist = some b → u ∉ b.covering → nextUnit s b = some u → v ∈ b.running →
    ∃ t, exec (.bistSliceStart u false) s = .next t ∧
      (t.bist.map (fun x => (x.missed, x.running))) = some (b.missed + 1, b.running) ∧ (∀ x, t.bist = some x → u ∉ x.todo) ∧
      rd t (btReg 0x0C) = BitVec.ofNat 32 (Nat.min ((rd s (btReg 0x0C)).toNat + 1) 0xFFFF) ∧ SameWords [btReg 0x0C] s t) ∧
  (∀ (s : State) (b : Bist) (u v : Nat), s.bist = some b → b.test = 6 → u ∈ b.running → v ∈ b.running → v ≠ u →
    (∃ t, exec (.bistSliceComplete u false) s = .next t ∧ (t.bist.map (fun x => (x.running, x.failed))) = some (b.running.filter (fun x => x != u), b.failed) ∧
      rd t (btReg 8) = rd s (btReg 8) + 1 ∧ SameWords [btReg 8] s t ∧ t.faults = s.faults) ∧
    (∃ t, exec (.bistSliceComplete u true) s = .next t ∧ (t.bist.map (fun x => (x.running, x.failed))) =
        some (b.running.filter (fun x => x != u), some (b.failed.getD u)) ∧ rd t (btReg 8) = rd s (btReg 8) + 1 ∧
      rd t (btReg 0x10) = BitVec.ofNat 32 (Nat.min ((rd s (btReg 0x10)).toNat + 1) 0xFFFF) ∧ (∃ r, r ∈ t.faults ∧ r.cause = 22 ∧ r.unit = u / 48)) ∧
    (∃ t, exec (.bistBudgetExpiry u) s = .next t ∧ (t.bist.map (fun x => (x.running, x.missed))) =
        some (b.running.filter (fun x => x != u), b.missed + 1) ∧
      rd t (btReg 0x0C) = BitVec.ofNat 32 (Nat.min ((rd s (btReg 0x0C)).toNat + 1) 0xFFFF) ∧ SameWords [btReg 0x0C] s t)) ∧
  (∀ (s : State) (u : Nat) (r : MbxRef), s.bist = some { test := 6, mbx := r, todo := [], running := [u] } → (mbxAt s r.id).epoch = r.epoch →
    ∃ t, exec (.bistSliceComplete u false) s = .next t ∧ t.bist = none ∧ (mbxAt t r.id).final = true ∧
      (mbxAt t r.id).rsp = memWrite [] 0 (rspBytes stOk r.op (zeros 8)) ∧ rd t (btReg 8) = rd s (btReg 8) + 1)

/-- WORLD_ASSIGN and UNIT_CLEARING_COMPLETE complete: every unit of the range takes the world, every other unit keeps its own; a unit that
leaves the secure world is cleared; a cleared region reads zero and nothing outside it changes, and the command's last unit
signals PF1 vector 11 (R420-R422). -/
def Obligations.WorldsAreAssigned : Prop :=
  (∀ (s : State) (m : MbxId) (kind : Nat), Ready s m 0x0801 16 → reqN s m 8 1 = kind → 1 ≤ kind → kind ≤ 3 → reqN s m 9 1 ≤ 1 → ZeroAt s m 10 2 →
    reqN s m 12 4 < unitCount kind → ¬(kind = 2 ∧ reqN s m 12 4 = 0 ∧ reqN s m 16 4 ≠ 0) → reqN s m 12 4 + reqN s m 16 4 ≤ unitCount kind →
    ZeroAt s m 20 4 → unitHeld s kind (reqN s m 9 1 == 1) (reqN s m 12 4) (reqN s m 16 4) = false →
    ∃ t, exec (.worldAssign m) s = .next t ∧ Responds s t m stOk [] true ∧
      (∀ u, reqN s m 12 4 ≤ u → u < reqN s m 12 4 + reqN s m 16 4 → unitSecure t kind u = (reqN s m 9 1 == 1) ∧
        (reqN s m 9 1 = 0 → unitSecure s kind u = true → unitClearing t kind u = true)) ∧
      (∀ k u, 1 ≤ k → k ≤ 3 → k ≠ kind ∨ u < reqN s m 12 4 ∨ reqN s m 12 4 + reqN s m 16 4 ≤ u →
        unitSecure t k u = unitSecure s k u ∧ (unitClearing t k u = true → unitClearing s k u = true)) ∧
      t.sec.ranges = s.sec.ranges ∧ t.stackMem = s.stackMem ∧ t.store = s.store ∧ t.cw = s.cw) ∧
  (∀ (s : State) (m : MbxId), Ready s m 0x0801 16 → reqN s m 8 1 = 4 → reqN s m 9 1 ≤ 1 → ZeroAt s m 10 2 → reqN s m 12 4 < 0x1000000 →
    reqN s m 12 4 + reqN s m 16 4 ≤ 0x1000000 → (newRanges s (reqN s m 9 1 == 1) (reqN s m 12 4) (reqN s m 16 4)).length ≤ 64 → ZeroAt s m 20 4 →
    streamHeld s (reqN s m 12 4) (reqN s m 16 4) = false →
    ∃ t, exec (.worldAssign m) s = .next t ∧ Responds s t m stOk [] true ∧
      (∀ x, streamSecure t x = if reqN s m 12 4 ≤ x ∧ x < reqN s m 12 4 + reqN s m 16 4 then reqN s m 9 1 == 1 else streamSecure s x) ∧
      t.sec.cores = s.sec.cores ∧ t.sec.regions = s.sec.regions ∧ t.sec.mbxs = s.sec.mbxs ∧ t.cw = s.cw) ∧
  (∀ (s : State) (u no : Nat), s.sec.clearing.find? (fun c => c.1 == 2 && c.2.1 == u) = some (2, u, no) →
    ∃ t, exec (.unitClearingComplete 2 u) s = .next t ∧
      (∀ a, memByte t.stackMem a = if regionOf (a / frameBytes) = u then 0 else memByte s.stackMem a) ∧
      (2, u, no) ∉ t.sec.clearing ∧ (∀ c, c ≠ (2, u, no) → (c ∈ t.sec.clearing ↔ c ∈ s.sec.clearing)) ∧ t.store = s.store ∧
      ((∀ c ∈ s.sec.clearing, c.2.2 = no → c = (2, u, no)) → mapGet 0 t.vecCount (vecKey 1 11) = mapGet 0 s.vecCount (vecKey 1 11) + 1)) ∧
  (∀ (s : State) (u no : Nat), u < 64 → s.sec.clearing.find? (fun c => c.1 == 3 && c.2.1 == u) = some (3, u, no) →
    ∃ t, exec (.unitClearingComplete 3 u) s = .next t ∧ (mbxAt t { pf := 0, idx := u }).req = [] ∧ (mbxAt t { pf := 0, idx := u }).rsp = [] ∧
      (3, u, no) ∉ t.sec.clearing ∧ t.stackMem = s.stackMem ∧ t.store = s.store) ∧
  (∀ (s : State) (u no : Nat), u < 800 → s.sec.clearing.find? (fun c => c.1 == 1 && c.2.1 == u) = some (1, u, no) → arraysCleared s u = true →
    ∃ t, exec (.unitClearingComplete 1 u) s = .next t ∧
      (∀ a, memByte t.store a = if u * 0x100000 ≤ a ∧ a < u * 0x100000 + 0x100000 then 0 else memByte s.store a) ∧
      (1, u, no) ∉ t.sec.clearing ∧ t.stackMem = s.stackMem)

/-- KEY_REGISTER, KEY_REVOKE, ATTEST_QUOTE, LIFECYCLE_SET, SPDM_REQUEST, SET_POLICY_LOCK, PEER_COMMIT and CERT_COMMIT complete: a free key slot takes the key and is answered with
its digest; a key that no image is placed or staged under is taken out; a quote is the three measurements and the identity key's
signature; an authorised transition changes the state, counts, and makes a cold reset due, and one that is not authorised
changes nothing of the life cycle; the policy lock is set and from then on a write of PORT_POLICY leaves SECURE; the staging copy of
the peer list becomes the list, and an exchange under way keeps the list it began with; the certificate area is kept in PROVISION only (R427, R428, R430-R436, Table 18.7). What a message of SPDM 1.2 does the spec leaves to that standard. -/
def Obligations.KeysQuotesLocksAndLifeCycle : Prop :=
  (∀ (s : State) (m : MbxId), Ready s m 0x0802 72 → reqN s m 8 1 ≤ 1 → reqN s m 9 1 ≤ 15 → ZeroAt s m 10 6 → ZeroAt s m 73 7 →
    mapFind s.sec.keys (keyIndex s m) = none →
    ∃ t, exec (.keyRegister m) s = .next t ∧ Responds s t m stOk (keyDigest (reqBytes s m 16 57)) true ∧
      mapFind t.sec.keys (keyIndex s m) = some (reqBytes s m 16 57) ∧
      (∀ k, k ≠ keyIndex s m → mapFind t.sec.keys k = mapFind s.sec.keys k) ∧ t.cw = s.cw ∧ t.life = s.life) ∧
  (∀ (s : State) (m : MbxId), Ready s m 0x0803 8 → reqN s m 8 1 ≤ 1 → reqN s m 9 1 ≤ 15 → ZeroAt s m 10 6 →
    (∀ k, mapFind s.sec.keys (keyIndex s m) = some k → keyHolds s (keyDigest k) = false ∧ keyLoads s (keyDigest k) = false) →
    ∃ t, exec (.keyRevoke m) s = .next t ∧ Responds s t m stOk [] true ∧ mapFind t.sec.keys (keyIndex s m) = none ∧
      (∀ k, k ≠ keyIndex s m → mapFind t.sec.keys k = mapFind s.sec.keys k) ∧ t.cw = s.cw ∧ t.life = s.life) ∧
  (∀ (s : State) (m : MbxId), Ready s m 0x0804 32 →
    ∃ t, exec (.attestQuote m) s = .next t ∧
      Responds s t m stOk (firmwareMeasure s ++ layoutMeasure s ++ worldMeasure s ++
        slice (Config.ed448Sign s.sec.idKey (quoteInput s (reqBytes s m 8 32))) 0 114) true ∧
      t.butReply = s.butReply) ∧
  (∀ (s : State) (m : MbxId), Ready s m 0x0805 122 → ZeroAt s m 9 7 → lcAllowed s (reqN s m 8 1) = true → (∀ e ∈ s.insts, e.2.placed = false) →
    ∃ t, exec (.lifecycleSet m) s = .next t ∧
      (lcAuthorised s (reqN s m 8 1) (reqBytes s m 16 114) = true → Responds s t m stOk [] true ∧ t.life.lcState = reqN s m 8 1 ∧
        t.life.lcCount = s.life.lcCount + 1 ∧ t.life.lcReset = true ∧ t.sec.intent = none ∧
        (s.life.lcState = 2 → t.stackMem = [] ∧ t.store = [] ∧ t.ledger = [] ∧ t.sec.keys = [] ∧ t.sec.cores = [] ∧ t.sec.regions = [0])) ∧
      (lcAuthorised s (reqN s m 8 1) (reqBytes s m 16 114) = false → Responds s t m stAuthFailed (errBytes 0 0) true ∧ t.life = s.life ∧
        t.sec = s.sec ∧ t.stackMem = s.stackMem ∧ t.store = s.store ∧ t.ledger = s.ledger)) ∧
  (∀ (s : State) (msg : Bytes), s.life.linkUp = true →
    ∃ t, exec (.spdmRequest msg) s = .next t ∧ t.sec.doeOut = s.sec.doeOut ++ [Config.spdmAnswer s.freeNo msg] ∧ t.cw = s.cw ∧
      t.sec.keys = s.sec.keys ∧ t.life = s.life ∧ t.insts = s.insts) ∧
  (∀ (s : State), ∃ t, exec .setPolicyLock s = .next t ∧ rbit t (secReg 0) 10 = true ∧ SameWords [secReg 0] s t ∧ t = { s with cw := t.cw } ∧
      (∀ v, ∃ w, exec (.portPolicyWrite v) t = .next w ∧ rdF w (fabReg 0) 1 1 = rdF s (fabReg 0) 1 1)) ∧
  (∀ (s : State), ∃ t, exec .peerCommit s = .next t ∧
      (∀ i, i < 0x40000 → mapGet 0 t.sec.peers i = byteAt (leBytes 4 (rd s (0x0EE10000 + i / 4 * 4)).toNat) (i % 4)) ∧
      (∀ p, p < 18 → (portAt t p).oldPeers = if portState s p = fpDiscovery ∧ (portAt s p).oldPeers = none then some s.sec.peers
        else (portAt s p).oldPeers) ∧
      t = { s with fab := t.fab, sec := { s.sec with peers := t.sec.peers } }) ∧
  (∀ (s : State), s.life.lcState = 1 →
    ∃ t, exec .certCommit s = .next t ∧ (∀ o, certWord o = true → mapGet 0 t.sec.cert o = rd s o) ∧
      t = { s with sec := { s.sec with cert := t.sec.cert } }) ∧
  (∀ (s : State), s.life.lcState ≠ 1 → exec .certCommit s = .next s)
/-- EDGE_SLICE_CONVERT and TILE_PASS complete: a slice in its turn, with a run of the chain's narrow adders free, is widened, rotated,
sieved and quantised for every member; a granted one becomes the 8-bit slice; while the first run is in work the next vector
takes the second; one ahead of its turn waits; an invalid chain fails the frame in work. A tile pass leaves a run of 512 sums
of at most 15,420 in magnitude and is counted; a tile that is not SERVING, or not enabled, or has no latched planes left runs none (R39, R41, R42, R47, R50, R52, R61,
R74-R80, R100, R101). -/
def Obligations.SlicesAndPasses : Prop :=
  (∀ (s : State) (site head vec : Nat) (members : List Bytes) (o : Owner), site < 800 → head < 16 → sliceOwner s site head = some o →
    isHead s site head = true → chainInvalid s site head = false → passStopped s o.slot = false →
    vec = (tileAt s (tkey site head)).nextVec → chainBusy s site head = false → chainFull s site head = false →
    fbState s site head ≠ 1 →
    ∃ t, exec (.edgeSliceConvert site head vec members) s = .next t ∧
      (let ts := chainMembers s site head
       let c := edgeCfg s site head
       let data := (mapFind (tileAt s (tkey site head)).inBuf vec).getD members
       let z (i : Nat) : Sieved := sieveMember c (tileAt s (tkey site (ts.getD i 0))).lostRows
         (edgeRotate s site head (ts.getD i 0) (edgeWiden s site head (data.getD i [])))
       let sh := if c.mode = 1 then shift4 ((List.range ts.length).map (fun i => (z i).vals)).flatten c.inexp else 0
       (∀ i, i < ts.length →
         (workOf t (tkey site (ts.getD i 0))).planes = (z i).vals.map (fun v => planesOf (quant4 c.inexp sh v).1) ∧
         (workOf t (tkey site (ts.getD i 0))).shift = sh ∧ (workOf t (tkey site (ts.getD i 0))).latched = true ∧
         (workOf t (tkey site (ts.getD i 0))).vec = vec ∧
         (workOf t (tkey site (ts.getD i 0))).runDone = false ∧ (workOf t (tkey site (ts.getD i 0))).removed = (z i).removed) ∧
       rd t (edgeReg site head 8) = BitVec.ofNat 32 sh) ∧
      rd t (edgeReg site head 0x18) = rd s (edgeReg site head 0x18) + 1 ∧
      SameWords [edgeReg site head 8, edgeReg site head 0x10, edgeReg site head 0x14, edgeReg site head 0x18, sfbSlotReg site head 0x10,
        sfbSlotReg site head 0x14, engReg site 0x40, engReg site 0x44, engReg site 0x48] s t ∧
      t.arrays = s.arrays ∧ t.store = s.store ∧ t.stackMem = s.stackMem ∧ t.pot = s.pot) ∧
  (∀ (s : State) (site head vec : Nat) (members : List Bytes) (o : Owner), site < 800 → head < 16 → sliceOwner s site head = some o →
    isHead s site head = true → chainInvalid s site head = false → passStopped s o.slot = false →
    vec = (tileAt s (tkey site head)).nextVec → chainBusy s site head = false → chainFull s site head = false →
    fbState s site head = 1 →
    ∃ t, exec (.edgeSliceConvert site head vec members) s = .next t ∧
      (let ts := chainMembers s site head
       let c := edgeCfg s site head
       let data := (mapFind (tileAt s (tkey site head)).inBuf vec).getD members
       let v (i : Nat) : List W32 := edgeRotate s site head (ts.getD i 0) (edgeWiden s site head (data.getD i []))
       let s8 := shift8 ((List.range ts.length).map v).flatten c.inexp
       (∀ i, i < ts.length →
         (workOf t (tkey site (ts.getD i 0))).x8 = (v i).map (fun x => (quant8 c.inexp s8 x).1) ∧
         (workOf t (tkey site (ts.getD i 0))).s8 = s8 ∧ (workOf t (tkey site (ts.getD i 0))).fbReady = true ∧
         (workOf t (tkey site (ts.getD i 0))).vec = vec ∧ (workOf t (tkey site (ts.getD i 0))).latched = false) ∧
       rd t (edgeReg site head 8) = BitVec.ofNat 32 s8) ∧
      rd t (edgeReg site head 0x18) = rd s (edgeReg site head 0x18) + 1 ∧
      SameWords [edgeReg site head 8, edgeReg site head 0x14, edgeReg site head 0x18, sfbSlotReg site head 0x20, engReg site 0x40] s t ∧
      t.arrays = s.arrays ∧ t.store = s.store ∧ t.stackMem = s.stackMem ∧ t.pot = s.pot) ∧
  (∀ (s : State) (site head vec : Nat) (members : List Bytes) (o : Owner), site < 800 → head < 16 → sliceOwner s site head = some o →
    isHead s site head = true → chainInvalid s site head = false → passStopped s o.slot = false →
    vec = (tileAt s (tkey site head)).nextVec + 1 → chainBusy s site head = true → chainFull s site head = false →
    ∃ t, exec (.edgeSliceConvert site head vec members) s = .next t ∧
      (∀ n ∈ chainMembers s site head, workOf t (tkey site n) = workOf s (tkey site n) ∧
        (tileAt t (tkey site n)).next.vec = vec ∧ workBusy (tileAt t (tkey site n)).next = true) ∧
      rd t (edgeReg site head 0x18) = rd s (edgeReg site head 0x18) + 1 ∧
      t.arrays = s.arrays ∧ t.store = s.store ∧ t.stackMem = s.stackMem ∧ t.pot = s.pot) ∧
  (∀ (s : State) (site head vec : Nat) (members : List Bytes) (o : Owner), site < 800 → head < 16 → sliceOwner s site head = some o →
    isHead s site head = true → chainInvalid s site head = false → passStopped s o.slot = false →
    (tileAt s (tkey site head)).nextVec + (if chainBusy s site head then 1 else 0) ≤ vec →
    (vec ≠ (tileAt s (tkey site head)).nextVec + (if chainBusy s site head then 1 else 0) ∨ chainFull s site head = true) →
    ∃ t, exec (.edgeSliceConvert site head vec members) s = .next t ∧
      tileAt t (tkey site head) = { tileAt s (tkey site head) with inBuf := mapSet (tileAt s (tkey site head)).inBuf vec members } ∧
      (∀ k, k ≠ tkey site head → tileAt t k = tileAt s k) ∧ t = { s with tiles := t.tiles }) ∧
  (∀ (s : State) (site head vec : Nat) (members : List Bytes) (o : Owner) (i : Instance) (n : W64), site < 800 → head < 16 →
    sliceOwner s site head = some o → isHead s site head = true → chainInvalid s site head = true → passStopped s o.slot = false →
    instOf s o.slot = some i → i.passStep = some n →
    ∃ t, exec (.edgeSliceConvert site head vec members) s = .next t ∧
      instOf t o.slot = some { i with flight := i.flight.map (fun f =>
        if f.msg.step == n then
          { f with msg := if f.msg.marker.isSome then f.msg else { f.msg with marker := some (.failed stCollFailed i.ordinal) } }
        else f) } ∧
      (∀ k ∈ ownedKeys s o.slot, workOf t k = {} ∧ (tileAt t k).inBuf = []) ∧
      t.arrays = s.arrays ∧ t.store = s.store ∧ t.stackMem = s.stackMem ∧ t.pot = s.pot) ∧
  (∀ (s : State) (site slot m : Nat) (o : Owner), tileWf site slot = true → memberOf s (tkey site slot) = some m →
    sliceOwner s (m / 32) (headOf s (m / 32) (m % 32)) = some o → tileState s (tkey site slot) = 2 →
    rdFA s (tileReg (tkey site slot) 0) 0 0 = 1 → (workOf s m).latched = true → (workOf s m).runDone = false →
    fbState s (m / 32) (headOf s (m / 32) (m % 32)) ≠ 1 →
    ∃ t, exec (.tilePass site slot) s = .next t ∧ (workOf t m).runDone = true ∧ (workOf t m).latched = true ∧
      (workOf t m).run.length = 512 ∧ (∀ x ∈ (workOf t m).run, -15420 ≤ x ∧ x ≤ 15420) ∧ (workOf t m).planes = (workOf s m).planes ∧
      (workOf t m).promoted = (workOf s m).promoted ∧
      rd t (tileReg (tkey site slot) 0x4C) = rd s (tileReg (tkey site slot) 0x4C) + 1 ∧
      (∀ k, k ≠ tkey site slot → k ≠ m → tileAt t k = tileAt s k) ∧ t.arrays = s.arrays ∧ t.store = s.store ∧
      t.stackMem = s.stackMem ∧ t.pot = s.pot) ∧
  (∀ (s : State) (site slot m : Nat) (o : Owner), tileWf site slot = true → memberOf s (tkey site slot) = some m →
    sliceOwner s (m / 32) (headOf s (m / 32) (m % 32)) = some o → tileState s (tkey site slot) = 2 →
    rdFA s (tileReg (tkey site slot) 0) 0 0 = 1 → (workOf s m).runDone = true → (tileAt s m).next.latched = true →
    (tileAt s m).next.runDone = false → fbState s (m / 32) (headOf s (m / 32) (m % 32)) ≠ 1 →
    ∃ t, exec (.tilePass site slot) s = .next t ∧ workOf t m = workOf s m ∧ (tileAt t m).next.runDone = true ∧
      (tileAt t m).next.run.length = 512 ∧ (∀ x ∈ (tileAt t m).next.run, -15420 ≤ x ∧ x ≤ 15420) ∧
      rd t (tileReg (tkey site slot) 0x4C) = rd s (tileReg (tkey site slot) 0x4C) + 1) ∧
  (∀ (s : State) (site slot : Nat), tileWf site slot = true →
    (tileState s (tkey site slot) ≠ 2 ∨ rdFA s (tileReg (tkey site slot) 0) 0 0 ≠ 1 ∨
      ∃ m, memberOf s (tkey site slot) = some m ∧ (workOf s m).latched = false ∧ (tileAt s m).next.latched = false) →
    exec (.tilePass site slot) s = .next s)

/-- COLUMN_CLOSE completes: after the promotion and every add-back the periphery forms every output of the chain, clears its
accumulators, and the chain goes on with the next input vector; until then nothing closes (R41, R42, R55, R59, R95). -/
def Obligations.ColumnsClose : Prop :=
  (∀ (s : State) (site head : Nat), site < 800 → head < 16 → isHead s site head = true → (workOf s (tkey site head)).promoted = true →
    (∀ n ∈ chainMembers s site head, (workOf s (tkey site n)).sieveDue = false ∧ (workOf s (tkey site n)).deltaDue = false) →
    ∃ t, exec (.columnClose site head) s = .next t ∧
      (tileAt t (tkey site head)).outBuf = (periphery (periCfg s (physTile s (tkey site head))) (wideAt (tileAt s (tkey site head)))).1 ∧
      (tileAt t (tkey site head)).outScales = (periphery (periCfg s (physTile s (tkey site head))) (wideAt (tileAt s (tkey site head)))).2.1 ∧
      (∀ c, wideAt (tileAt t (tkey site head)) c = 0) ∧ (tileAt t (tkey site head)).nextVec = (tileAt s (tkey site head)).nextVec + 1 ∧
      (∀ n ∈ chainMembers s site head, workOf t (tkey site n) = (tileAt s (tkey site n)).next ∧ (tileAt t (tkey site n)).next = {}) ∧
      rd t (tileReg (physTile s (tkey site head)) 0x48) = BitVec.ofNat 32 (Nat.min ((rd s (tileReg (physTile s (tkey site head)) 0x48)).toNat +
        (periphery (periCfg s (physTile s (tkey site head))) (wideAt (tileAt s (tkey site head)))).2.2) 0xFFFF) ∧
      SameWords [tileReg (physTile s (tkey site head)) 0x48] s t ∧
      (∀ k, (∀ n ∈ chainMembers s site head, k ≠ tkey site n) → tileAt t k = tileAt s k) ∧ t = { s with cw := t.cw, tiles := t.tiles, cores := t.cores }) ∧
  (∀ (s : State) (site head : Nat), site < 800 → head < 16 →
    ((workOf s (tkey site head)).promoted = false ∨ ∃ n ∈ chainMembers s site head, (workOf s (tkey site n)).sieveDue = true) →
    exec (.columnClose site head) s = .next s)

/-- R53: promotion adds V times 2^(k + s) to every column's 32-bit wide accumulator, saturating, and every result that saturates
advances `TILE_WIDE_SAT`. -/
def Obligations.PromotionAddsTheRun : Prop :=
  ∀ (s : State) (site head : Nat), site < 800 → head < 16 → promotable s site head = true → chainInvalid s site head = false →
    ∃ t, exec (.chainPromotion site head) s = .next t ∧
      (let V (c : Nat) : Int := ((chainMembers s site head).map (fun n => (workOf s (tkey site n)).run.getD c 0)).sum
       let k (c : Nat) : Nat := colStep s (physTile s (tkey site head)) c
       let x (c : Nat) : Int := wideAt (tileAt s (tkey site head)) c + V c * 2 ^ (k c + (workOf s (tkey site head)).shift)
       (∀ c, c < 512 → wideAt (tileAt t (tkey site head)) c = clampI (-2147483648) 2147483647 (x c)) ∧
       rd t (tileReg (physTile s (tkey site head)) 0x44) =
         BitVec.ofNat 32 (Nat.min ((rd s (tileReg (physTile s (tkey site head)) 0x44)).toNat +
           ((List.range 512).filter (fun c => decide (x c < -2147483648 ∨ 2147483647 < x c))).length) 0xFFFF)) ∧
      (workOf t (tkey site head)).promoted = true ∧ SameWords [tileReg (physTile s (tkey site head)) 0x44] s t ∧
      (∀ j, j ≠ tkey site head → tileAt t j = tileAt s j) ∧ t = { s with cw := t.cw, tiles := t.tiles }

/-- R95: after the promotion the Sieve's terms of every member are added to the wide accumulators, saturating, each saturation
counted in the head's `TILE_WIDE_SAT`; it comes before the column close, which waits for it, and the next promotion waits for that
close. A_c is R94's sum. -/
def Obligations.AddBackFollowsPromotion : Prop :=
  (∀ (s : State) (site head : Nat) (o : Owner), site < 800 → head < 16 → sliceOwner s site head = some o → sieveReady s site head = true →
    StoreSound s site →
    ∃ t, exec (.sieveAddback site head) s = .next t ∧
      (let A (c : Nat) : Int := ((chainMembers s site head).map (fun n =>
         ((workOf s (tkey site n)).removed.map (fun r =>
           8 * 2 ^ (edgeCfg s site head).tgt * shadowW (tileAt s (tkey site n)) r.1 c * r.2)).sum)).sum
       let x (c : Nat) : Int := wideAt (tileAt s (tkey site head)) c + A c
       (∀ c, c < 512 → wideAt (tileAt t (tkey site head)) c = clampI (-2147483648) 2147483647 (x c)) ∧
       rd t (tileReg (physTile s (tkey site head)) 0x44) =
         BitVec.ofNat 32 (Nat.min ((rd s (tileReg (physTile s (tkey site head)) 0x44)).toNat +
           ((List.range 512).filter (fun c => decide (x c < -2147483648 ∨ 2147483647 < x c))).length) 0xFFFF)) ∧
      (∀ n ∈ chainMembers s site head, (workOf t (tkey site n)).sieveDue = false) ∧
      SameWords [tileReg (physTile s (tkey site head)) 0x44, engReg site 0x10] s t ∧
      (∀ j, (∀ n ∈ chainMembers s site head, j ≠ tkey site n) → tileAt t j = tileAt s j) ∧
      t = { s with cw := t.cw, tiles := t.tiles, cores := t.cores }) ∧
  (∀ (s : State) (site head : Nat), site < 800 → head < 16 → (∀ c ∈ s.cores, c.2.ueFatal = false) →
    (workOf s (tkey site head)).promoted = false → exec (.sieveAddback site head) s = .next s) ∧
  (∀ (s : State) (site head : Nat), site < 800 → head < 16 → (∃ n ∈ chainMembers s site head, (workOf s (tkey site n)).sieveDue = true) →
    exec (.columnClose site head) s = .next s) ∧
  (∀ (s : State) (site head : Nat), site < 800 → head < 16 → (workOf s (tkey site head)).promoted = true →
    exec (.chainPromotion site head) s = .next s)

/-- SHADOW_ROW_ARRIVAL, FALLBACK_PASS, DELTA_ITEM and STANDIN_PASS complete: a row that is waited for is waited for no longer, and is
the most recent of at most 512 cached rows where the cache is on (R129); under a grant the exact products with the 8-bit slice are added and counted
(R102); with no item of a higher class ready the active delta block's terms are added (R130, R136); a slice of a failed core runs on its stand-ins, whose
periphery forms its outputs (R143). -/
def Obligations.OtherTermsAreAdded : Prop :=
  (∀ (s : State) (site slot row : Nat), tileWf site slot = true → row ∈ (workOf s (tkey site slot)).rowsDue →
    ∃ t, exec (.shadowRowArrival site slot row) s = .next t ∧
      workOf t (tkey site slot) = { workOf s (tkey site slot) with rowsDue := (workOf s (tkey site slot)).rowsDue.filter (fun r => r != row) } ∧
      (rdF s (engReg site 0) 2 2 = 1 → (coreAt t site).srcCache.head? = some (slot, row) ∧ (coreAt t site).srcCache.length ≤ 512) ∧
      (rdF s (engReg site 0) 2 2 ≠ 1 → t.cores = s.cores ∧ t.store = s.store ∧ t.storeBad = s.storeBad) ∧
      (∀ k, k ≠ tkey site slot → tileAt t k = tileAt s k) ∧
      t = { s with tiles := t.tiles, cores := t.cores, store := t.store, storeBad := t.storeBad }) ∧
  (∀ (s : State) (site slot row : Nat), tileWf site slot = true → row ∉ (workOf s (tkey site slot)).rowsDue →
    exec (.shadowRowArrival site slot row) s = .next s) ∧
  (∀ (s : State) (site head : Nat) (o : Owner), site < 800 → head < 16 → sliceOwner s site head = some o → fallbackReady s site head = true →
    StoreSound s site →
    ∃ t, exec (.fallbackPass site head) s = .next t ∧
      (∀ c, c < 512 → wideAt (tileAt t (tkey site head)) c = clampI (-2147483648) 2147483647 (wideAt (tileAt s (tkey site head)) c +
        2 ^ (workOf s (tkey site head)).s8 * ((chainMembers s site head).map (fun n =>
          ((List.range 512).map (fun r => shadowW (tileAt s (tkey site n)) r c * (workOf s (tkey site n)).x8.getD r 0)).sum)).sum)) ∧
      (workOf t (tkey site head)).promoted = true ∧
      rd t (sfbSlotReg site head 0x18) = rd s (sfbSlotReg site head 0x18) + BitVec.ofNat 32 (chainMembers s site head).length ∧
      SameWords [tileReg (physTile s (tkey site head)) 0x44, sfbSlotReg site head 0x18, engReg site 0x18] s t ∧
      (∀ j, j ≠ tkey site head → tileAt t j = tileAt s j) ∧ t = { s with cw := t.cw, tiles := t.tiles, cores := t.cores }) ∧
  (∀ (s : State) (site head : Nat) (o : Owner) (b : DeltaBlock), site < 800 → head < 16 → deltaReady s site head = true →
    higherReady s site 4 = false → sliceOwner s site head = some o → activeDelta s site o (workOf s (tkey site head)).vec = some b →
    objLost s (activeVersion s o (workOf s (tkey site head)).vec) = false → StoreSound s site →
    ∃ t, exec (.deltaItem site head) s = .next t ∧
      (∀ c, c < 512 → wideAt (tileAt t (tkey site head)) c = clampI (-2147483648) 2147483647 (wideAt (tileAt s (tkey site head)) c +
        roundEven (((b.entries.filter (fun e => e.col == c && (chainMembers s site head).contains e.slot)).map (fun e =>
          e.val * (workOf s (tkey site e.slot)).xd.getD e.row 0)).sum * 2 ^ (workOf s (tkey site head)).s8d) (2 ^ b.dexp))) ∧
      (∀ n ∈ chainMembers s site head, (workOf t (tkey site n)).deltaDue = false) ∧
      SameWords [tileReg (physTile s (tkey site head)) 0x44, engReg site 0x1C] s t ∧
      (∀ j, (∀ n ∈ chainMembers s site head, j ≠ tkey site n) → tileAt t j = tileAt s j) ∧
      t = { s with cw := t.cw, tiles := t.tiles, cores := t.cores }) ∧
  (∀ (s : State) (site head : Nat) (members : List Bytes) (o : Owner), site < 800 → head < 16 → sliceOwner s site head = some o →
    passStopped s o.slot = false → standinReady s site head = true →
    objLost s (activeVersion s o (tileAt s (tkey site head)).nextVec) = false → (∀ c ∈ s.cores, c.2.ueFatal = false) →
    (∀ n ∈ standinMembers s site head, ∀ c, standinOf s site n = some c → StoreSound s c) →
    ∃ t, exec (.standinPass site head members) s = .next t ∧
      (tileAt t (tkey site head)).nextVec = (tileAt s (tkey site head)).nextVec + 1 ∧
      (∀ n ∈ standinMembers s site head, workOf t (tkey site n) = (tileAt s (tkey site n)).next) ∧
      (∀ j, (∀ n ∈ standinMembers s site head, j ≠ tkey site n) → tileAt t j = tileAt s j) ∧
      t = { s with cw := t.cw, tiles := t.tiles, cores := t.cores, meshQ := t.meshQ } ∧
      (activeDelta s site o (tileAt s (tkey site head)).nextVec = none →
        (let ts := standinMembers s site head
         let c := edgeCfg s site head
         let v (i : Nat) : List W32 := edgeRotate s site head (ts.getD i 0) (edgeWiden s site head (members.getD i []))
         let s8 := shift8 ((List.range ts.length).map v).flatten c.inexp
         let sum (col : Nat) : Int := 2 ^ s8 * ((List.range ts.length).map (fun i =>
           digitalSum (tileAt s (tkey site (ts.getD i 0))) ((v i).map (fun x => (quant8 c.inexp s8 x).1)) col)).sum
         (tileAt t (tkey site head)).outBuf = (periphery (standinPeri s (tkey site head)) (fun col =>
           if col < 512 then clampI (-2147483648) 2147483647 (sum col) else 0)).1)))

/-- PASS_BOUNDARY and FB_WINDOW_END complete: with no input vector in work, the pass of the next live frame begins where the command
names its step, every tile of the instance with its dither generator at its seed and its first vector (R47, R60, R285); at a
boundary of the windows every slice's count is latched and starts again, and an auto slice above its threshold is escalated
(R97-R99). -/
def Obligations.BoundariesAndWindows : Prop :=
  (∀ (s : State) (slot : Nat) (step : W64) (i : Instance), slot < 64 → instOf s slot = some i → chainsIdle s slot = true →
    ∃ t j, exec (.passBoundary slot step) s = .next t ∧ instView t slot = some j ∧
      j.flight = i.flight.map (fun f => if i.passStep == some f.msg.step then { f with passed := true } else f) ∧
      j.passStep = (if (j.flight.find? (fun f => f.msg.marker.isNone && !f.passed)).map (fun f => f.msg.step) = some step then some step else none) ∧
      (j.passStep = some step → ∀ k ∈ ownedKeys t slot, (tileAt t k).nextVec = 0 ∧ (tileAt t k).inBuf = [] ∧
        (tileAt t k).dither = passSeed i.seed step (unitId 1 i.ordinal (k / 32 / 25) (logCol t (k / 32)) (k % 32))) ∧
      j.step = i.step ∧ j.ctxs = i.ctxs ∧ j.waiting = i.waiting ∧ (∀ n, n ≠ slot → instView t n = instView s n) ∧
      t.stackMem = s.stackMem ∧ t.pot = s.pot) ∧
  (∀ (s : State) (slot : Nat) (step : W64), slot < 64 → chainsIdle s slot = false → exec (.passBoundary slot step) s = .next s) ∧
  (∀ (s : State), s.rackTime.toNat % msCycles = 0 → s.fbWinAt ≠ some s.rackTime →
    (∀ a ∈ placedSites s, ∀ b ∈ placedSites s, a % 800 = b % 800 → a = b) →
    ∃ t, exec .fbWindowEnd s = .next t ∧ t = { s with cw := t.cw, cores := t.cores, fbWinAt := some s.rackTime } ∧
      (∀ site ∈ placedSites s, ∀ head, head < 16 → isHead s site head = true →
        rd t (sfbSlotReg site head 0x0C) = BitVec.ofNat 32 (Nat.min (mapGet 0 (coreAt s site).winCount head) 0xFFFFFFFF) ∧
        mapGet 0 (coreAt t site).winCount head = 0 ∧
        (fbEn s site = true → head ∉ (coreAt s site).fbOff → fbMode s site head = 0 →
          rdFA s (sfbSlotReg site head 4) 15 0 < mapGet 0 (coreAt s site).winCount head → head ∈ (coreAt t site).escal) ∧
        (fbMode s site head ≠ 0 → (head ∈ (coreAt t site).escal ↔ head ∈ (coreAt s site).escal)))) ∧
  (∀ (s : State), s.rackTime.toNat % msCycles ≠ 0 ∨ s.fbWinAt = some s.rackTime → exec .fbWindowEnd s = .next s)

/-- COMPILED_PROGRAM_ITEM completes: an item that may start and whose operands and rows can be read writes its result's bytes in
the core store and no other byte of it; RoPE's angle is the low 32 bits of position times frequency, with its sine and cosine; an
INT8 group is exact and saturates once; a new row is written to its page of the cache; a double-bit error in an operand is
recorded and fails the frame in work (R119, R123, R126, R127, R130, R138, R139). -/
def Obligations.EngineItems : Prop :=
  (∀ (s : State) (site slot : Nat) (it : EngineItem), MayStart s site slot it → (∀ mx src d dst, it ≠ .cacheRow mx src d dst) →
    (readsAll (objRead site slot (itemFar it)) (itemRows it) s).1.isSome = true → StoreSound s site →
    ∃ t, exec (.compiledProgramItem site slot it []) s = .next t ∧
      (∀ a, a < storeAddr site (itemWrite it).1 ∨ storeAddr site (itemWrite it).1 + (itemWrite it).2 ≤ a → memByte t.store a = memByte s.store a) ∧
      t.stackMem = s.stackMem ∧ t.insts = s.insts ∧ t.tiles = s.tiles ∧ t.arrays = s.arrays ∧
      (itemRows it = [] → SameWords [engReg site 0x20, engReg site 0x2C] s t ∧ (∀ c, c ≠ site → coreAt t c = coreAt s c) ∧
        t = { s with store := t.store, storeBad := t.storeBad, cw := t.cw, cores := t.cores, freeNo := s.freeNo + 1 })) ∧
  (∀ (s : State) (site slot pos dst : Nat) (freq : W32), MayStart s site slot (.rope pos freq dst) → StoreSound s site →
    ∃ t, exec (.compiledProgramItem site slot (.rope pos freq dst) []) s = .next t ∧
      storeRead t site dst 4 = leBytes 4 (pos * freq.toNat % 2 ^ 32) ∧
      storeRead t site (dst + 4) 4 = leBytes 4 (fSin (BitVec.ofNat 32 (pos * freq.toNat))).toNat ∧
      storeRead t site (dst + 8) 4 = leBytes 4 (fCos (BitVec.ofNat 32 (pos * freq.toNat))).toNat) ∧
  (∀ (s : State) (site slot a b acc n scale : Nat), MayStart s site slot (.mac .i8 a b acc n scale) → n ≤ 32 → StoreSound s site →
    ∃ t, exec (.compiledProgramItem site slot (.mac .i8 a b acc n scale) []) s = .next t ∧
      storeRead t site acc 4 = leBytes 4 (unsgn 32 (clampI (-2147483648) 2147483647
        (sgn 32 (store32 s site acc).toNat + ((List.range n).map (fun i =>
          sgn 8 (byteAt (storeRead s site a n) i).toNat * sgn 8 (byteAt (storeRead s site b n) i).toNat)).sum)))) ∧
  (∀ (s : State) (site slot src d : Nat) (mx : Bool) (dst : ObjPlace) (p : Page), MayStart s site slot (.cacheRow mx src d dst) →
    reqRoom s = true → StoreSound s site → objClass dst.handle = 1 → instPage s slot dst.handle dst.off = some p → p.remote = none →
    p.shared = false → p.frame < frameCount → dst.off % frameBytes + rowLen mx d ≤ frameBytes →
    accessCode s .inside (siteSecure s site) (stackGma 0 p.frame (dst.off % frameBytes)) 1 = none → memWf s.stackMem = true →
    ∃ t, exec (.compiledProgramItem site slot (.cacheRow mx src d dst) []) s = .next t ∧
      memRead t.stackMem (p.frame * frameBytes + dst.off % frameBytes) (rowLen mx d) = rowBytes mx (loadLanes s site src 32 d) ∧
      (∀ a, a < p.frame * frameBytes + dst.off % frameBytes ∨ p.frame * frameBytes + dst.off % frameBytes + rowLen mx d ≤ a →
        memByte t.stackMem a = memByte s.stackMem a) ∧ t.store = s.store ∧ t.tiles = s.tiles) ∧
  (∀ (s : State) (site slot : Nat) (it : EngineItem) (us : List (Nat × Nat)) (w : Nat), MayStart s site slot it →
    (∀ mx src d dst, it ≠ .cacheRow mx src d dst) →
    (∃ r ∈ itemReads it, r.1 < 8 * w + 8 ∧ 8 * w < r.1 + r.2) → mapGet 0 (addUpsets s site us).storeBad (storeAddr site (8 * w) / 8) = 2 →
    ∃ t, exec (.compiledProgramItem site slot it us) s = .next t ∧ t.store = s.store ∧ t.stackMem = s.stackMem ∧
      (∃ r ∈ t.faults, r.cause = 6 ∧ r.unit = site) ∧ rdF t (engReg site 0x38) 31 31 = 1 ∧
      ((passFlight s slot).isSome = true → passStopped t slot = true))

/-- ENGINE_ROUND_END and CORE_STORE_SCRUB complete: a round is counted, but on a failed core; a sweep corrects and counts the
single bits of a core's store, and words with more stay but where the firmware loads them again; PERIOD 0 stops the sweeps (R126,
R131, R143). -/
def Obligations.RoundsAndScrubbing : Prop :=
  (∀ (s : State) (site : Nat), site < 800 → (coreAt s site).failed = false →
    ∃ t, exec (.engineRoundEnd site) s = .next t ∧ rd t (engReg site 0x28) = rd s (engReg site 0x28) + 1 ∧
      SameWords [engReg site 0x28] s t ∧ t = { s with cw := t.cw }) ∧
  (∀ (s : State) (site : Nat), site < 800 → (coreAt s site).failed = true → exec (.engineRoundEnd site) s = .next s) ∧
  (∀ (s : State) (site : Nat) (us : List (Nat × Nat)), site < 800 → rdF s (engReg site 0x3C) 7 0 ≠ 0 → coreAway s site = false →
    (∀ c ∈ s.cores, c.2.ueFatal = false) → (∀ w, w < 0x20000 → mapGet 0 (addUpsets s site us).storeBad (site * 0x20000 + w) < 2) →
    (rd s (engReg site 0x30)).toNat ≤ 0xFFFF → (s.storeBad.map Prod.fst).Pairwise (· < ·) →
    ∃ t, exec (.coreStoreScrub site us) s = .next t ∧ t.store = s.store ∧
      (∀ w, w < 0x20000 → mapGet 0 t.storeBad (site * 0x20000 + w) = 0) ∧
      rd t (engReg site 0x30) = BitVec.ofNat 32 (Nat.min ((rd s (engReg site 0x30)).toNat +
        ((List.range 0x20000).filter (fun w => mapGet 0 (addUpsets s site us).storeBad (site * 0x20000 + w) == 1)).length) 0xFFFF) ∧
      SameWords [engReg site 0x30] s t ∧ t.stackMem = s.stackMem ∧ t.tiles = s.tiles ∧ t.insts = s.insts ∧ t.faults = s.faults) ∧
  (∀ (s : State) (site : Nat) (us : List (Nat × Nat)), site < 800 → rdF s (engReg site 0x3C) 7 0 ≠ 0 → coreAway s site = false →
    ∃ t, exec (.coreStoreScrub site us) s = .next t ∧ t.stackMem = s.stackMem ∧
      (∀ w, w < 0x20000 → mapGet 0 t.storeBad (site * 0x20000 + w) =
        if mapGet 0 (addUpsets s site us).storeBad (site * 0x20000 + w) = 1 ∨ storeReloaded (8 * w) = true then 0
        else mapGet 0 (addUpsets s site us).storeBad (site * 0x20000 + w))) ∧
  (∀ (s : State) (site : Nat) (us : List (Nat × Nat)), site < 800 → (rdF s (engReg site 0x3C) 7 0 = 0 ∨ coreAway s site = true) →
    (∀ c ∈ s.cores, c.2.ueFatal = false) → exec (.coreStoreScrub site us) s = .next (addUpsets s site us))

/-- SPOON_RUN, SPOON_CAPTURE_EXPIRY, SPOON_RECOMPUTE, SPOON_READ, SPOON_RING_SIZE_WRITE and RESIDUAL_READ complete: a run waits on its tile,
or drives its test vector at once; a live capture 10 ms old is dropped and an on-demand one goes to class 5; a complete capture,
with no item of classes 1-5 ready, becomes one report a member, which goes to the ring, or is discarded where the ring is full; reading advances the tail; a new ring
size frees the old ring (R109-R115, R162, R394). -/
def Obligations.SpoonRunsReportsAndRings : Prop :=
  (∀ (s : State) (m : MbxId), Ready s m 0x0501 16 → reqN s m 8 2 < 800 → tileWf (reqN s m 8 2) (reqN s m 10 1) = true → ZeroAt s m 11 5 →
    tileGone s (tkey (reqN s m 8 2) (reqN s m 10 1)) = false → runPending s (tkey (reqN s m 8 2) (reqN s m 10 1)) = false →
    ringEntries s ≠ 0 → testWeights s (tkey (reqN s m 8 2) (reqN s m 10 1)) = true →
    (drivesTest s (tkey (reqN s m 8 2) (reqN s m 10 1)) = false ∨
      (coreAt s (spoonSite s (tkey (reqN s m 8 2) (reqN s m 10 1)))).capture.isSome = true) →
    ∃ t, exec (.spoonRun m) s = .next t ∧ Responds s t m stAccepted [] false ∧
      (tileAt t (tkey (reqN s m 8 2) (reqN s m 10 1))).spoonReq =
        some { mbx := mref s m, tile := tkey (reqN s m 8 2) (reqN s m 10 1), seed := BitVec.ofNat 64 (reqN s m 16 8) } ∧
      (∀ k, k ≠ tkey (reqN s m 8 2) (reqN s m 10 1) → tileAt t k = tileAt s k) ∧ t.cores = s.cores ∧ t.cw = s.cw ∧ t.arrays = s.arrays) ∧
  (∀ (s : State) (m : MbxId), Ready s m 0x0501 16 → reqN s m 8 2 < 800 → tileWf (reqN s m 8 2) (reqN s m 10 1) = true → ZeroAt s m 11 5 →
    tileGone s (tkey (reqN s m 8 2) (reqN s m 10 1)) = false → runPending s (tkey (reqN s m 8 2) (reqN s m 10 1)) = false →
    ringEntries s ≠ 0 → testWeights s (tkey (reqN s m 8 2) (reqN s m 10 1)) = true →
    drivesTest s (tkey (reqN s m 8 2) (reqN s m 10 1)) = true →
    (coreAt s (spoonSite s (tkey (reqN s m 8 2) (reqN s m 10 1)))).capture = none →
    ∃ t c, exec (.spoonRun m) s = .next t ∧ Responds s t m stAccepted [] false ∧
      (tileAt t (tkey (reqN s m 8 2) (reqN s m 10 1))).spoonReq = none ∧
      (coreAt t (spoonSite s (tkey (reqN s m 8 2) (reqN s m 10 1)))).capture = some c ∧ c.test = true ∧ c.closed = true ∧
      c.phys = [tkey (reqN s m 8 2) (reqN s m 10 1)] ∧ c.onDemand.isSome = true ∧
      c.outs = (periphery (periCfg s (tkey (reqN s m 8 2) (reqN s m 10 1))) (fun i => c.wides.getD i 0)).1 ∧
      SameWords [tileReg (tkey (reqN s m 8 2) (reqN s m 10 1)) 0x18] s t ∧ t.arrays = s.arrays) ∧
  (∀ (s : State) (site : Nat) (c : Capture), site < 800 → (coreAt s site).capture = some c → 10 * msCycles ≤ elapsed s c.time →
    c.onDemand = none → NoRunWaits s →
    ∃ t, exec (.spoonCaptureExpiry site) s = .next t ∧ coreAt t site = { coreAt s site with capture := none } ∧
      (∀ k, k ≠ site → coreAt t k = coreAt s k) ∧
      rd t (spoonReg 0x14) = BitVec.ofNat 32 (Nat.min ((rd s (spoonReg 0x14)).toNat + 1) 0xFFFFFFFF) ∧ SameWords [spoonReg 0x14] s t ∧
      t = { s with cw := t.cw, cores := t.cores }) ∧
  (∀ (s : State) (site : Nat) (c : Capture), site < 800 → (coreAt s site).capture = some c → 10 * msCycles ≤ elapsed s c.time →
    c.onDemand.isSome = true →
    ∃ t, exec (.spoonCaptureExpiry site) s = .next t ∧ coreAt t site = { coreAt s site with capture := some { c with raised := true } } ∧
      (∀ k, k ≠ site → coreAt t k = coreAt s k) ∧ t = { s with cores := t.cores }) ∧
  (∀ (s : State) (site : Nat) (c : Capture), site < 800 → (coreAt s site).capture = some c → elapsed s c.time < 10 * msCycles →
    exec (.spoonCaptureExpiry site) s = .next s) ∧
  (∀ (s : State) (site : Nat) (c : Capture), site < 800 → (coreAt s site).capture = some c → c.closed = true →
    higherReady s site 6 = false → StoreSound s site →
    ∃ t, exec (.spoonRecompute site) s = .next t ∧ t.spoonSeq = s.spoonSeq + BitVec.ofNat 32 c.phys.length ∧
      (NoRunWaits s → (coreAt t site).capture = none) ∧ t.store = s.store ∧ (∀ j, instView t j = instView s j)) ∧
  (∀ (s : State) (site k : Nat) (c : Capture), site < 800 → (coreAt s site).capture = some c → c.closed = true → c.phys = [k] →
    higherReady s site 6 = false → StoreSound s site →
    ringEntries s ≠ 0 → (ringHead s + 1) % ringEntries s ≠ ringTail s % ringEntries s →
    ∃ t, exec (.spoonRecompute site) s = .next t ∧ ringHead t = (ringHead s + 1) % ringEntries s ∧ ringTail t = ringTail s ∧
      rd t (spoonReg 0x10) = rd s (spoonReg 0x10) + 1 ∧ rd t (spoonReg 0x14) = rd s (spoonReg 0x14) ∧
      memRead t.stackMem (ringOffset s (ringHead s)) 4 = leBytes 4 s.spoonSeq.toNat) ∧
  (∀ (s : State) (site k : Nat) (c : Capture), site < 800 → (coreAt s site).capture = some c → c.closed = true → c.phys = [k] →
    higherReady s site 6 = false → StoreSound s site →
    (ringEntries s = 0 ∨ (ringHead s + 1) % ringEntries s = ringTail s % ringEntries s) →
    ∃ t, exec (.spoonRecompute site) s = .next t ∧ ringHead t = ringHead s ∧ t.stackMem = s.stackMem ∧
      rd t (spoonReg 0x10) = rd s (spoonReg 0x10) ∧
      rd t (spoonReg 0x14) = BitVec.ofNat 32 (Nat.min ((rd s (spoonReg 0x14)).toNat + 1) 0xFFFFFFFF)) ∧
  (∀ (s : State) (m : MbxId), Ready s m 0x0502 16 → 1 ≤ reqN s m 8 2 → reqN s m 8 2 ≤ 1024 → ZeroAt s m 10 6 → reqN s m 16 8 % 4096 = 0 →
    ∃ t n f, exec (.spoonRead m) s = .next t ∧ n = Nat.min (reqN s m 8 2) (ringCount s) ∧
      Responds s t m stOk (leBytes 2 n ++ zeros 2 ++ leBytes 4 f) true ∧
      ringTail t = (if n = 0 then ringTail s else (ringTail s + n) % ringEntries s) ∧ SameWords [spoonReg 0x30] s t ∧
      (n ≠ 0 → f = leAt (memRead s.stackMem (ringOffset s (ringTail s % ringEntries s)) 4096) 0 4) ∧
      t.hostMem = (dmaWrite s m.pf (BitVec.ofNat 64 (reqN s m 16 8)) ((List.range n).map (fun i =>
        reportFor s (mbxSecure s m) (memRead s.stackMem (ringOffset s ((ringTail s + i) % ringEntries s)) 4096))).flatten).hostMem ∧
      t.stackMem = s.stackMem ∧ (∀ j, instView t j = instView s j)) ∧
  (∀ (s : State) (v : W32), ringSizeOk (fld v 15 0) = false → exec (.spoonRingSizeWrite v) s = .next s) ∧
  (∀ (s : State) (v : W32), fld v 15 0 = 0 →
    ∃ t, exec (.spoonRingSizeWrite v) s = .next t ∧ ringEntries t = 0 ∧ t.ringH = none ∧ (∀ h, s.ringH = some h → objAt t h = none) ∧
      t.stackMem = s.stackMem ∧ t.insts = s.insts) ∧
  (∀ (s u : State) (v : W32) (h : Nat), ringSizeOk (fld v 15 0) = true → fld v 15 0 ≠ 0 →
    newObjPages (freeObjOpt { s with ringH := none } s.ringH) 6 64 true true (ceilDiv (fld v 15 0) 512) = some (h, u) →
    ∃ t, exec (.spoonRingSizeWrite v) s = .next t ∧ ringEntries t = fld v 15 0 ∧ ringHead t = 0 ∧ ringTail t = 0 ∧
      t.ringH = some h ∧ (objFrames t (some h)).length = ceilDiv (fld v 15 0) 512 ∧ t.stackMem = s.stackMem ∧ t.insts = s.insts) ∧
  (∀ (s : State) (v : W32), ringSizeOk (fld v 15 0) = true → fld v 15 0 ≠ 0 →
    newObjPages (freeObjOpt { s with ringH := none } s.ringH) 6 64 true true (ceilDiv (fld v 15 0) 512) = none →
    exec (.spoonRingSizeWrite v) s = .next s) ∧
  (∀ (s : State) (m : MbxId) (r : ResidualRec) (rs : List ResidualRec), Ready s m 0x0503 16 → 1 ≤ reqN s m 12 2 → reqN s m 12 2 ≤ 4096 →
    ZeroAt s m 14 2 → reqN s m 16 8 % 32 = 0 → mbxSecure s m = true →
    (s.resids.filter (fun x => reqN s m 8 4 ≤ x.seq.toNat)).take (reqN s m 12 2) = r :: rs →
    ∃ t, exec (.residualRead m) s = .next t ∧
      Responds s t m stOk (leBytes 4 (rs.length + 1) ++ leBytes 4 r.seq.toNat ++
        leBytes 4 ((s.resids.head?.map (fun x => x.seq.toNat)).getD 0 - reqN s m 8 4) ++ zeros 4) true ∧
      t.hostMem = (dmaWrite s m.pf (BitVec.ofNat 64 (reqN s m 16 8)) ((r :: rs).map residBytes).flatten).hostMem ∧
      t.resids = s.resids ∧ t.cw = s.cw)

/-- CAL_RUN, CAL_RUN_START, CAL_STAGE_COMPLETE and CAL_RUN_END complete: a command requests a run and waits for it; an IDLE tile's run
starts while fewer than CONC run, and a SERVING tile under a fall-back grant runs without leaving SERVING; the stages follow each other in
order; a run that agrees sets what it measured and ends the request; one that does not leaves every value and counts a failure, and the
third in a row marks the tile CAL_FAILED (R172-R174, R177, Tables 07.2, 07.3). -/
def Obligations.CalibrationRuns : Prop :=
  (∀ (s : State) (m : MbxId), Ready s m 0x0504 8 → reqN s m 8 2 < 800 → tileWf (reqN s m 8 2) (reqN s m 10 1) = true →
    (reqN s m 11 1 = 1 ∨ reqN s m 11 1 = 2) → ZeroAt s m 12 4 → tileGone s (tkey (reqN s m 8 2) (reqN s m 10 1)) = false →
    (reqN s m 11 1 = 1 ∨ shadowThere s (tkey (reqN s m 8 2) (reqN s m 10 1)) = true) →
    ∃ t, exec (.calRun m) s = .next t ∧ Responds s t m stAccepted [] false ∧
      (tileAt t (tkey (reqN s m 8 2) (reqN s m 10 1))).calWait = (tileAt s (tkey (reqN s m 8 2) (reqN s m 10 1))).calWait ++ [mref s m] ∧
      (calDeaf s (tkey (reqN s m 8 2) (reqN s m 10 1)) = false → calCovered s (tkey (reqN s m 8 2) (reqN s m 10 1)) 3 (reqN s m 11 1) = false →
        calStatus t (tkey (reqN s m 8 2) (reqN s m 10 1)) 4 3 =
          Nat.max (calStatus s (tkey (reqN s m 8 2) (reqN s m 10 1)) 4 3) (reqN s m 11 1) ∧
        calStatus t (tkey (reqN s m 8 2) (reqN s m 10 1)) 12 10 =
          (if calStatus s (tkey (reqN s m 8 2) (reqN s m 10 1)) 12 10 = 0 then 3
           else Nat.min (calStatus s (tkey (reqN s m 8 2) (reqN s m 10 1)) 12 10) 3) ∧
        rd t (calReg 0x18) = rd s (calReg 0x18) + 1) ∧
      (calDeaf s (tkey (reqN s m 8 2) (reqN s m 10 1)) = true → t.cw = s.cw) ∧
      SameWords [tileReg (tkey (reqN s m 8 2) (reqN s m 10 1)) 0x1000, calReg 0x18] s t ∧
      (∀ k, k ≠ tkey (reqN s m 8 2) (reqN s m 10 1) → tileAt t k = tileAt s k) ∧ t.arrays = s.arrays ∧ t.cores = s.cores) ∧
  (∀ (s : State) (site slot : Nat), tileWf site slot = true → initialCal s (tkey site slot) = false → startable s (tkey site slot) = true →
    calRunning s < Nat.max 1 (rdF s (calReg 4) 7 0) → calFirstOf s (tkey site slot) = true → tileState s (tkey site slot) = 1 →
    ∃ t, exec (.calRunStart site slot) s = .next t ∧ tileState t (tkey site slot) = 4 ∧ calStatus t (tkey site slot) 0 0 = 1 ∧
      calStatus t (tkey site slot) 2 1 = calStatus s (tkey site slot) 4 3 ∧ calStatus t (tkey site slot) 4 3 = 0 ∧
      calStatus t (tkey site slot) 12 10 = 0 ∧
      (tileAt t (tkey site slot)).calRun = some { cls := calStatus s (tkey site slot) 4 3, row := calStatus s (tkey site slot) 12 10, temp := tileTemp s (tkey site slot), time := s.rackTime, cover := if (tileAt s (tkey site slot)).coverRun then .spare else .none, prior := 1 } ∧
      SameWords [tileReg (tkey site slot) 4, tileReg (tkey site slot) 0x1000] s t ∧
      (∀ k, k ≠ tkey site slot → tileAt t k = tileAt s k) ∧ t = { s with cw := t.cw, tiles := t.tiles }) ∧
  (∀ (s : State) (site slot m : Nat) (o : Owner), tileWf site slot = true → initialCal s (tkey site slot) = false →
    startable s (tkey site slot) = true → calRunning s < Nat.max 1 (rdF s (calReg 4) 7 0) → calFirstOf s (tkey site slot) = true →
    tileState s (tkey site slot) = 2 → memberOf s (tkey site slot) = some m → (tileAt s m).owner = some o →
    fbState s (m / 32) (headOf s (m / 32) (m % 32)) = 1 →
    ∃ t, exec (.calRunStart site slot) s = .next t ∧ tileState t (tkey site slot) = 2 ∧ calStatus t (tkey site slot) 0 0 = 1 ∧
      calStatus t (tkey site slot) 2 1 = calStatus s (tkey site slot) 4 3 ∧ calStatus t (tkey site slot) 4 3 = 0 ∧
      (tileAt t (tkey site slot)).calRun = some { cls := calStatus s (tkey site slot) 4 3, row := calStatus s (tkey site slot) 12 10, temp := tileTemp s (tkey site slot), time := s.rackTime, cover := .none, prior := 2 } ∧
      SameWords [tileReg (tkey site slot) 0x1000] s t ∧
      (∀ k, k ≠ tkey site slot → tileAt t k = tileAt s k) ∧ t = { s with cw := t.cw, tiles := t.tiles }) ∧
  (∀ (s : State) (site slot : Nat), tileWf site slot = true → initialCal s (tkey site slot) = false →
    (startable s (tkey site slot) = false ∨ Nat.max 1 (rdF s (calReg 4) 7 0) ≤ calRunning s ∨ calFirstOf s (tkey site slot) = false) →
    exec (.calRunStart site slot) s = .next s) ∧
  (∀ (s : State) (site slot : Nat) (r : CalRun) (l : List AdcSets) (x : RefReads) (cs : List (List Int)), tileWf site slot = true →
    (tileAt s (tkey site slot)).calRun = some r → l.length = 521 → cs.length = 520 →
    ∃ t1 t2 t3 t4, exec (.calStageComplete site slot .settled) s = .next t1 ∧ exec (.calStageComplete site slot (.trims l)) s = .next t2 ∧
      exec (.calStageComplete site slot (.refs x)) s = .next t3 ∧ exec (.calStageComplete site slot (.columns cs)) s = .next t4 ∧
      (tileAt t1 (tkey site slot)).calRun = some (if r.stage = .k1 then { r with stage := .k2 } else r) ∧
      (tileAt t2 (tkey site slot)).calRun = some (if r.stage = .k2 then { r with stage := .k3, adc := l } else r) ∧
      (tileAt t3 (tkey site slot)).calRun = some (if r.stage = .k3 then { r with stage := .k4, refs := some x } else r) ∧
      (tileAt t4 (tkey site slot)).calRun =
        some (if r.stage = .k4 ∧ r.cls = 2 then { r with stage := .k6, cols := colFits s (tkey site slot) r.time cs } else r) ∧
      (∀ t ∈ [t1, t2, t3, t4], t = { s with tiles := t.tiles } ∧ ∀ k, k ≠ tkey site slot → tileAt t k = tileAt s k)) ∧
  (∀ (s : State) (site slot : Nat) (r : CalRun) (x : RefReads), tileWf site slot = true → (tileAt s (tkey site slot)).calRun = some r →
    runDone r = true → r.refs = some x → runPasses s (tkey site slot) r = true → NoRunWaits s →
    ∃ t, exec (.calRunEnd site slot) s = .next t ∧ (tileAt t (tkey site slot)).calRun = none ∧ calStatus t (tkey site slot) 0 0 = 0 ∧
      calStatus t (tkey site slot) 6 5 = 0 ∧ (r.cls = 2 → calStatus t (tkey site slot) 7 7 = 1) ∧ rbit t (tileReg (tkey site slot) 4) 7 = false ∧
      rdF t (tileReg (tkey site slot) 0x1004) 15 0 = unsgn 16 r.temp ∧ rdF t (tileReg (tkey site slot) 0x100C) 15 0 = refCode x ∧
      rdF t (tileReg (tkey site slot) 0x1010) 15 0 = tiCode x ∧
      (r.cls = 2 → rdF t (tileReg (tkey site slot) 0x1014) 16 0 = (arrayAt s (tkey site slot)).cycles % 2 ^ 17) ∧
      rd t (tileReg (tkey site slot) 0x1018) = rd s (tileReg (tkey site slot) 0x1018) + 1 ∧
      rd t (tileReg (tkey site slot) 0x101C) = rd s (tileReg (tkey site slot) 0x101C) ∧ (tileAt t (tkey site slot)).calWait = [] ∧
      t.arrays = s.arrays ∧ t.store = s.store ∧ t.stackMem = s.stackMem) ∧
  (∀ (s : State) (site slot : Nat) (r : CalRun), tileWf site slot = true → (tileAt s (tkey site slot)).calRun = some r →
    runDone r = true → (r.refs = none ∨ runPasses s (tkey site slot) r = false) → calStatus s (tkey site slot) 6 5 < 2 → NoRunWaits s →
    ∃ t, exec (.calRunEnd site slot) s = .next t ∧ (tileAt t (tkey site slot)).calRun = none ∧ calStatus t (tkey site slot) 0 0 = 0 ∧
      calStatus t (tkey site slot) 6 5 = calStatus s (tkey site slot) 6 5 + 1 ∧
      (r.row ≠ 0 → calStatus t (tkey site slot) 4 3 = Nat.max (calStatus s (tkey site slot) 4 3) r.cls) ∧
      rd t (tileReg (tkey site slot) 0x101C) =
        BitVec.ofNat 32 (Nat.min ((rd s (tileReg (tkey site slot) 0x101C)).toNat + 1) 0xFFFF) ∧
      SameWords ([tileReg (tkey site slot) 0, tileReg (tkey site slot) 4, tileReg (tkey site slot) 0x1000,
        tileReg (tkey site slot) 0x101C, calReg 0x20] ++ (List.range 32).map remapReg) s t ∧
      (tileState s (tkey site slot) ≠ 4 → t.act = s.act) ∧ t.stagedAt = s.stagedAt ∧ t.arrays = s.arrays ∧ t.store = s.store ∧
      t.stackMem = s.stackMem) ∧
  (∀ (s : State) (site slot : Nat) (r : CalRun), tileWf site slot = true → (tileAt s (tkey site slot)).calRun = some r →
    runDone r = true → (r.refs = none ∨ runPasses s (tkey site slot) r = false) → 2 ≤ calStatus s (tkey site slot) 6 5 →
    rbit s (tileReg (tkey site slot) 4) 7 = false → NoRunWaits s →
    ∃ t, exec (.calRunEnd site slot) s = .next t ∧ (tileAt t (tkey site slot)).calRun = none ∧ calStatus t (tkey site slot) 6 5 = 3 ∧
      rbit t (tileReg (tkey site slot) 4) 7 = true ∧
      rd t (calReg 0x24) = BitVec.ofNat 32 (Nat.min ((rd s (calReg 0x24)).toNat + 1) 0xFFFF) ∧ (tileAt t (tkey site slot)).calWait = [] ∧
      (tileState s (tkey site slot) ≠ 4 → t.act = s.act) ∧ t.arrays = s.arrays ∧ t.store = s.store ∧ t.stackMem = s.stackMem) ∧
  (∀ (s : State) (site slot : Nat), tileWf site slot = true → NoRunWaits s →
    (∀ r, (tileAt s (tkey site slot)).calRun = some r → runDone r = false) →
    ∃ t, exec (.calRunEnd site slot) s = .next t ∧ SameWords ((List.range 32).map remapReg) s t ∧ t = { s with cw := t.cw })

/-- ADC_DWELL_COMPLETE completes: a dwell that agrees sets the trims of the converter that converter 520 stood in for, and the next one
begins; one that does not is repeated; the third in a row marks an in-service converter failed and enters its column for a free spare
column; where ROT_EN is 0, or the rotation is stopped, a dwell does nothing (R48, R49, R169, R170). -/
def Obligations.ConvertersDwell : Prop :=
  (∀ (s u : State) (site slot : Nat) (a : AdcSets), tileWf site slot = true → rotStart s (tkey site slot) = u →
    rdFA s (tileReg (tkey site slot) 0) 13 13 ≠ 0 → calStatus s (tkey site slot) 9 9 ≠ 1 →
    tileState s (tkey site slot) ∉ [0, 4, 5] → (tileState s (tkey site slot) = 2 → 8 ≤ (tileAt u (tkey site slot)).dwell) →
    setsAgree s a = true →
    ∃ t, exec (.adcDwellComplete site slot a) s = .next t ∧
      rd t (tileReg (tkey site slot) (0x1200 + 4 * rotPos u (tkey site slot))) = trimWord u (tkey site slot) (rotPos u (tkey site slot)) a ∧
      (tileAt t (tkey site slot)).dwell = 0 ∧ (tileAt t (tkey site slot)).dwellFails = 0 ∧
      (tileState s (tkey site slot) = 2 → t.act = s.act) ∧
      SameWords [tileReg (tkey site slot) (0x1200 + 4 * rotPos u (tkey site slot)), tileReg (tkey site slot) 0x18] s t ∧
      (∀ k, k ≠ tkey site slot → tileAt t k = tileAt s k) ∧
      t = { s with cw := t.cw, act := t.act, stagedAt := t.stagedAt, tiles := t.tiles }) ∧
  (∀ (s u : State) (site slot : Nat) (a : AdcSets), tileWf site slot = true → rotStart s (tkey site slot) = u →
    rdFA s (tileReg (tkey site slot) 0) 13 13 ≠ 0 → calStatus s (tkey site slot) 9 9 ≠ 1 →
    tileState s (tkey site slot) ∉ [0, 4, 5] → (tileState s (tkey site slot) = 2 → 8 ≤ (tileAt u (tkey site slot)).dwell) →
    setsAgree s a = false → (tileAt u (tkey site slot)).dwellFails < 2 →
    ∃ t, exec (.adcDwellComplete site slot a) s = .next t ∧
      tileAt t (tkey site slot) = { tileAt u (tkey site slot) with dwell := 0, dwellFails := (tileAt u (tkey site slot)).dwellFails + 1 } ∧
      rotPos t (tkey site slot) = rotPos u (tkey site slot) ∧
      rd t (tileReg (tkey site slot) 0x101C) =
        BitVec.ofNat 32 (Nat.min ((rd s (tileReg (tkey site slot) 0x101C)).toNat + 1) 0xFFFF) ∧
      SameWords [tileReg (tkey site slot) 0x101C, tileReg (tkey site slot) 0x18] s t ∧
      (∀ k, k ≠ tkey site slot → tileAt t k = tileAt s k) ∧ t = { s with cw := t.cw, tiles := t.tiles }) ∧
  (∀ (s u : State) (site slot i n : Nat) (a : AdcSets), tileWf site slot = true → rotStart s (tkey site slot) = u →
    rdFA s (tileReg (tkey site slot) 0) 13 13 ≠ 0 → calStatus s (tkey site slot) 9 9 ≠ 1 →
    tileState s (tkey site slot) ∉ [0, 4, 5] → (tileState s (tkey site slot) = 2 → 8 ≤ (tileAt u (tkey site slot)).dwell) →
    setsAgree s a = false → 2 ≤ (tileAt u (tkey site slot)).dwellFails → rotPos u (tkey site slot) = i → i < 512 →
    spareColFree u (tkey site slot) = some n →
    ∃ t, exec (.adcDwellComplete site slot a) s = .next t ∧ rbit t (tileReg (tkey site slot) (0x1200 + 4 * i)) 30 = true ∧
      rdF t (tileReg (tkey site slot) (0x20 + 4 * n)) 15 15 = 1 ∧ rdF t (tileReg (tkey site slot) (0x20 + 4 * n)) 8 0 = i ∧
      (∃ r ∈ t.faults, r.cause = 10 ∧ r.unit = i) ∧
      (tileState s (tkey site slot) = 2 → calStatus t (tkey site slot) 9 9 = 1 ∧ rotPos t (tkey site slot) = i ∧
        rbit t (tileReg (tkey site slot) (0x20 + 4 * n)) 16 = true) ∧
      (∀ k, k ≠ tkey site slot → arrayAt t k = arrayAt s k)) ∧
  (∀ (s : State) (site slot : Nat) (a : AdcSets), tileWf site slot = true →
    (rdFA s (tileReg (tkey site slot) 0) 13 13 = 0 ∨ calStatus s (tkey site slot) 9 9 = 1 ∨ tileState s (tkey site slot) ∈ [0, 4, 5]) →
    exec (.adcDwellComplete site slot a) s = .next s)

/-- REFRESH_DUE, REFRESH_START, ARRAY_PROGRAM_START and ARRAY_WRITE_COMPLETE complete: an array whose equivalent age has reached the
period is due; its refresh starts on an available spare tile, and otherwise in place at a boundary; a write clears FLAG before anything
else; an array without defective cells holds its target's levels after it, reads as committed unless it was cleared, and has one program
cycle more and age zero; what was written for a load, a rewrite or a refresh asks for a column run (R148, R150, R151, R154, R175, R325,
R326). -/
def Obligations.ArraysAreRefreshedAndWritten : Prop :=
  (∀ (s : State) (site slot m : Nat), tileWf site slot = true → memberOf s (tkey site slot) = some m → rbit s (chReg 0) 0 = true →
    (tileAt s m).shadowIn = true → tileState s (tkey site slot) = 2 → (tileAt s m).owner.isSome = true →
    refreshPeriod s ≤ (arrayAt s (tkey site slot)).age →
    ∃ t, exec (.refreshDue site slot) s = .next t ∧ tileAt t m = { tileAt s m with due := true } ∧
      (∀ k, k ≠ m → tileAt t k = tileAt s k) ∧ t = { s with tiles := t.tiles }) ∧
  (∀ (s : State) (site slot m : Nat), tileWf site slot = true → memberOf s (tkey site slot) = some m →
    (rbit s (chReg 0) 0 = false ∨ (tileAt s m).shadowIn = false ∨ (arrayAt s (tkey site slot)).age < refreshPeriod s ∧ (tileAt s m).early = false ∧
      (tileAt s m).driftAgain = false) →
    exec (.refreshDue site slot) s = .next s) ∧
  (∀ (s : State) (site slot : Nat), tileWf site slot = true → memberOf s (tkey site slot) = some (tkey site slot) →
    rbit s (chReg 0) 0 = true → (tileAt s (tkey site slot)).due = true → (tileAt s (tkey site slot)).shadowIn = true →
    tileState s (tkey site slot) = 2 → (tileAt s (tkey site slot)).refresh = none → (tileAt s (tkey site slot)).calRun = none → pairRefreshing s (tkey site slot) = false →
    rewriteWaits s (tkey site slot) = false → loadWaits s = false → refreshActive s < Nat.max 1 (rdF s (chReg 4) 23 16) →
    spareAvailable s (tkey site slot) = true →
    ∃ t, exec (.refreshStart site slot) s = .next t ∧ tileState t (spareKey (tkey site slot)) = 3 ∧
      tileAt t (tkey site slot) = { tileAt s (tkey site slot) with refresh := some .h1, due := false } ∧
      tileAt t (spareKey (tkey site slot)) = { tileAt s (spareKey (tkey site slot)) with
        prog := some (replaceJob s (tkey site slot) .refresh), lastServed := some (tkey site slot) } ∧
      (∀ k, k ≠ tkey site slot → k ≠ spareKey (tkey site slot) → tileAt t k = tileAt s k) ∧
      SameWords [tileReg (spareKey (tkey site slot)) 4] s t ∧ t = { s with cw := t.cw, tiles := t.tiles }) ∧
  (∀ (s : State) (site slot m : Nat), tileWf site slot = true → memberOf s (tkey site slot) = some m → rbit s (chReg 0) 0 = true →
    (tileAt s m).due = true → (tileAt s m).shadowIn = true → tileState s (tkey site slot) = 2 → (tileAt s m).refresh = none → (tileAt s (tkey site slot)).calRun = none →
    pairRefreshing s m = false → rewriteWaits s m = false → loadWaits s = false → refreshActive s < Nat.max 1 (rdF s (chReg 4) 23 16) →
    (spareAvailable s m = false ∨ tkey site slot ≠ m) → atBoundary s m = true →
    ∃ t, exec (.refreshStart site slot) s = .next t ∧ tileState t (tkey site slot) = 3 ∧ (tileAt t m).refresh = some .inPlace ∧
      (tileAt t m).due = false ∧ (tileAt t (tkey site slot)).prog = some (replaceJob s m .refresh) ∧
      (∀ k, k ≠ tkey site slot → k ≠ m → tileAt t k = tileAt s k) ∧ t.arrays = s.arrays ∧ t.insts = s.insts) ∧
  (∀ (s : State) (site slot m : Nat), tileWf site slot = true → memberOf s (tkey site slot) = some m →
    (rbit s (chReg 0) 0 = false ∨ (tileAt s m).due = false ∨ pairRefreshing s m = true ∨ rewriteWaits s m = true ∨ loadWaits s = true ∨
      Nat.max 1 (rdF s (chReg 4) 23 16) ≤ refreshActive s) →
    exec (.refreshStart site slot) s = .next s) ∧
  (∀ (s : State) (site slot : Nat) (j : ProgJob), tileWf site slot = true → (tileAt s (tkey site slot)).prog = some j → j.started = false →
    mayProgram s (tkey site slot) j = true →
    ∃ t, exec (.arrayProgramStart site slot) s = .next t ∧ tileState t (tkey site slot) = 3 ∧
      tileAt t (tkey site slot) = { tileAt s (tkey site slot) with prog := some { j with started := true } } ∧
      (∀ b, b < 16 → (arrayAt t (tkey site slot)).commit.getLsbD b = decide (8 ≤ b)) ∧
      (∀ b, 16 ≤ b → (arrayAt t (tkey site slot)).commit.getLsbD b = (arrayAt s (tkey site slot)).commit.getLsbD b) ∧
      (arrayAt t (tkey site slot)).levels = (arrayAt s (tkey site slot)).levels ∧ calStatus t (tkey site slot) 7 7 = 0 ∧
      SameWords [tileReg (tkey site slot) 4, tileReg (tkey site slot) 0x1000] s t ∧
      (∀ k, k ≠ tkey site slot → tileAt t k = tileAt s k ∧ arrayAt t k = arrayAt s k) ∧
      t = { s with cw := t.cw, tiles := t.tiles, arrays := t.arrays }) ∧
  (∀ (s : State) (site slot : Nat) (j : ProgJob), tileWf site slot = true → (tileAt s (tkey site slot)).prog = some j →
    (j.started = true ∨ mayProgram s (tkey site slot) j = false) → exec (.arrayProgramStart site slot) s = .next s) ∧
  (∀ (s : State) (site slot : Nat) (j : ProgJob), tileWf site slot = true → (tileAt s (tkey site slot)).prog = some j → j.started = true →
    (j.why = .load ∨ j.why = .rewrite) → j.blank = false → (arrayAt s (tkey site slot)).defects = [] →
    (tileAt s (tkey site slot)).calRun = none → NoRunWaits s →
    (∀ c ∈ s.sec.clearing, c.1 ≠ 1 ∨ c.2.1 ≠ clearSite s (tkey site slot)) →
    ∃ t, exec (.arrayWriteComplete site slot [] []) s = .next t ∧
      (∀ r c, r < 512 → c < 512 → mapGet 0 (arrayAt t (tkey site slot)).levels (1048 * r + 2 * c) = (jobLevels j r c).1 ∧
        mapGet 0 (arrayAt t (tkey site slot)).levels (1048 * r + 2 * c + 1) = (jobLevels j r c).2) ∧
      committed (arrayAt t (tkey site slot)) = true ∧ commitNat (arrayAt t (tkey site slot)) 16 32 = j.gen % 2 ^ 32 ∧
      commitNat (arrayAt t (tkey site slot)) 80 16 = j.layer % 2 ^ 16 ∧
      (arrayAt t (tkey site slot)).cycles = (arrayAt s (tkey site slot)).cycles + 1 ∧ (arrayAt t (tkey site slot)).age = 0 ∧
      (∀ k, k ≠ tkey site slot → arrayAt t k = arrayAt s k) ∧ tileState t (tkey site slot) = 1 ∧ (tileAt t (tkey site slot)).prog = none ∧
      rbit t (tileReg (tkey site slot) 4) 8 = false ∧ calStatus t (tkey site slot) 4 3 = 2 ∧ calStatus t (tkey site slot) 12 10 = 1 ∧
      rd t (imgReg 0x1C) = rd s (imgReg 0x1C) + 1 ∧ t.stackMem = s.stackMem ∧ t.store = s.store ∧ t.insts = s.insts) ∧
  (∀ (s : State) (site m : Nat) (j : ProgJob), tileWf site 16 = true → (tileAt s (tkey site 16)).prog = some j → j.started = true →
    (j.why = .refresh ∨ j.why = .cover) → j.blank = false → (arrayAt s (tkey site 16)).defects = [] →
    (tileAt s (tkey site 16)).lastServed = some m → m % 32 < 16 →
    (tileAt s ((contentsOf s (tkey site 16)).getD (tkey site 16))).refresh ≠ some .inPlace →
    (tileAt s (tkey site 16)).calRun = none → NoRunWaits s →
    (∀ c ∈ s.sec.clearing, c.1 ≠ 1 ∨ c.2.1 ≠ clearSite s (tkey site 16)) →
    ∃ t, exec (.arrayWriteComplete site 16 [] []) s = .next t ∧ (tileAt t m).refresh = some .h2 ∧
      (∀ r c, r < 512 → c < 512 → mapGet 0 (arrayAt t (tkey site 16)).levels (1048 * r + 2 * c) = (jobLevels j r c).1 ∧
        mapGet 0 (arrayAt t (tkey site 16)).levels (1048 * r + 2 * c + 1) = (jobLevels j r c).2) ∧
      committed (arrayAt t (tkey site 16)) = true ∧ (arrayAt t (tkey site 16)).cycles = (arrayAt s (tkey site 16)).cycles + 1 ∧
      (arrayAt t (tkey site 16)).age = 0 ∧ tileState t (tkey site 16) = 1 ∧ (tileAt t (tkey site 16)).prog = none ∧
      calStatus t (tkey site 16) 4 3 = 2 ∧ calStatus t (tkey site 16) 12 10 = 1 ∧
      (∀ k, k ≠ m → k ≠ tkey site 16 → tileAt t k = tileAt s k) ∧ t.stackMem = s.stackMem ∧ t.store = s.store ∧ t.insts = s.insts) ∧
  (∀ (s : State) (site slot : Nat) (j : ProgJob), tileWf site slot = true → (tileAt s (tkey site slot)).prog = some j → j.started = true →
    j.why = .clear → j.blank = true → j.target = [] → j.levels = [] → (arrayAt s (tkey site slot)).defects = [] → NoRunWaits s →
    ∃ t, exec (.arrayWriteComplete site slot [] []) s = .next t ∧ (∀ c, mapGet 0 (arrayAt t (tkey site slot)).levels c = 0) ∧
      committed (arrayAt t (tkey site slot)) = false ∧ rbit t (tileReg (tkey site slot) 4) 8 = true ∧
      (arrayAt t (tkey site slot)).cycles = (arrayAt s (tkey site slot)).cycles + 1 ∧ (tileAt t (tkey site slot)).prog = none ∧
      (tileAt t (tkey site slot)).zeroed = true ∧ tileState t (tkey site slot) = (if s.retiredTiles.contains (tkey site slot) then 5 else 1) ∧
      (∀ k, k ≠ tkey site slot → tileAt t k = tileAt s k ∧ arrayAt t k = arrayAt s k) ∧ t.stackMem = s.stackMem ∧ t.insts = s.insts) ∧
  (∀ (s : State) (site slot : Nat) (found : List Defect) (misread : List Nat), tileWf site slot = true → NoRunWaits s →
    (∀ j, (tileAt s (tkey site slot)).prog = some j → j.started = false) → exec (.arrayWriteComplete site slot found misread) s = .next s)

/-- IMAGE_LOAD_PLACE, IMAGE_LOAD_STAGE, IMAGE_MANIFEST, IMAGE_SECTION, IMAGE_VERDICT, IMAGE_REJECTION (its reasons 0 and 9 are the
model's numbers, log 172) and IMAGE_MISMATCH complete: an accepted load stands in its instance; the reader ends it with the first reason of Table 13.4 that its head has; a manifest lists the part's own
sections and makes the load's objects; a section's body waits for its verdict; a verdict that fails, a rejection or a mismatch at the
reader ends the load; a layer whose sections have passed is held; a STAGE load whose sections have all passed leaves its layers staged
and replaces an earlier one (R319, R320, R333, R424, Table 13.4). -/
def Obligations.ImagesLoad : Prop :=
  (∀ (s : State) (m : MbxId) (head : ImageHead) (i : Instance) (c : Instr) (mode : Nat), (c, mode) ∈ [(Instr.imageLoadPlace m head, 0), (Instr.imageLoadStage m head, 1)] →
    Ready s m 0x0301 32 → heldCmd s m 0x0301 = none → reqN s m 9 1 = mode → reqN s m 12 2 ≠ partId s → loadCheck s m = none →
    instOf s (reqN s m 8 1) = some i →
    ∃ t, exec c s = .next t ∧ Responds s t m stAccepted [] false ∧
      instOf t (reqN s m 8 1) = some { i with load := some (newLoad s (mref s m) i) } ∧
      (∀ j, j ≠ reqN s m 8 1 → instOf t j = instOf s j) ∧ t.butReply = s.butReply) ∧
  (∀ (s : State) (m : MbxId) (head : ImageHead) (i : Instance) (c : Instr) (mode x : Nat), (c, mode) ∈ [(Instr.imageLoadPlace m head, 0), (Instr.imageLoadStage m head, 1)] →
    Ready s m 0x0301 32 → heldCmd s m 0x0301 = none → busMaster s m.pf = true → reqN s m 9 1 = mode → reqN s m 12 2 = partId s →
    loadCheck s m = none → instOf s (reqN s m 8 1) = some i →
    headReason s i head (reqN s m 16 4) (reqN s m 32 8 % 2 ^ 64) ((mapFind s.ladle.groups (reqN s m 10 1)).elim 0 (fun g => g.ids.length)) = x →
    (x = 0 → ∃ t, exec c s = .next t ∧ Responds s t m stAccepted [] false ∧ loadOf t (reqN s m 8 1) = some (newLoad s (mref s m) i) ∧
      t.butReply = s.butReply) ∧
    (x ≠ 0 → ∃ t, exec c s = .next t ∧ LoadEnds s t (reqN s m 8 1) (newLoad s (mref s m) i) (rejection x 0) ∧ rdF t (imgReg 0x24) 7 0 = x ∧
      rd t (secReg 0x10) = (if x = 3 ∨ x = 4 then BitVec.ofNat 32 (Nat.min ((rd s (secReg 0x10)).toNat + 1) 0xFFFF) else rd s (secReg 0x10)))) ∧
  (∀ (s : State) (slot rank a b : Nat) (u : State) (head : ImageHead) (i : Instance) (l : Load), slot < 64 → instOf s slot = some i →
    i.load = some l → l.manifest = false → l.repair = false → rankIn s l.group = some rank → ownSecs rank head.entries ≠ [] →
    (l.stage = true → stageMatches (setLoad s slot (loadListed s l head rank)) slot i (loadListed s l head rank) rank (imgGen head) = true) →
    loadObjects (setLoad s slot (loadListed s l head rank)) slot i (ownBytes rank head.entries (fun k => k == 3))
      (ownBytes rank head.entries (fun k => k != 3)) = some (a, b, u) →
    ∃ t j, exec (.imageManifest slot head (seedDigest i)) s = .next t ∧ instOf t slot = some j ∧
      j.load = some { loadListed s l head rank with stageH := some b, shadH := if l.stage then some a else l.shadH } ∧
      (l.stage = false → j.layers = [] ∧ j.group = l.group ∧ j.ordinal = rank ∧ j.shadowH = some a ∧ j.shadowSecH = none) ∧
      (l.stage = true → i.placed = true → { j with load := none } = { i with load := none }) ∧
      (l.stage = true → i.placed = false → j.layers = [] ∧ j.group = l.group ∧ j.ordinal = rank ∧ j.shadowH = i.shadowH) ∧
      (∀ k, k ≠ slot → instOf t k = instOf s k) ∧ (i.shadowH = none → i.shadowSecH = none → t.cw = u.cw) ∧ t.mbx = s.mbx ∧ t.ledger = s.ledger ∧ t.arrays = s.arrays) ∧
  (∀ (s : State) (slot rank : Nat) (head : ImageHead) (i : Instance) (l : Load), slot < 64 → instOf s slot = some i →
    i.load = some l → l.manifest = false → l.repair = false → rankIn s l.group = some rank →
    (l.stage = true → stageMatches (setLoad s slot (loadListed s l head rank)) slot i (loadListed s l head rank) rank (imgGen head) = true) →
    loadObjects (setLoad s slot (loadListed s l head rank)) slot i (ownBytes rank head.entries (fun k => k == 3))
      (ownBytes rank head.entries (fun k => k != 3)) = none →
    ∃ t, exec (.imageManifest slot head (seedDigest i)) s = .next t ∧ LoadEnds s t slot l (rejection 7 0) ∧ rdF t (imgReg 0x24) 7 0 = 7) ∧
  (∀ (s : State) (slot rank : Nat) (head : ImageHead) (i : Instance) (l : Load), slot < 64 → instOf s slot = some i →
    i.load = some l → l.manifest = false → l.repair = true → rankIn s l.group = some rank → imgGen head ≠ genCur s slot →
    ∃ t, exec (.imageManifest slot head (seedDigest i)) s = .next t ∧ LoadEnds s t slot l { st := stBusy }) ∧
  (∀ (s : State) (slot : Nat) (head : ImageHead) (d : Bytes) (i : Instance), slot < 64 → instOf s slot = some i → seedDigest i ≠ d →
    exec (.imageManifest slot head d) s = .next s) ∧
  (∀ (s : State) (slot index : Nat) (b : Section) (l : Load), slot < 64 → loadOf s slot = some l →
    ∃ t, exec (.imageSection slot index b) s = .next t ∧ loadOf t slot = some (loadBodied l index b) ∧
      (∀ k, k ≠ slot → instOf t k = instOf s k) ∧ t.butInsts = s.butInsts) ∧
  (∀ (s : State) (slot index : Nat) (l : Load), slot < 64 → loadOf s slot = some l →
    ∃ t, exec (.imageVerdict slot index false) s = .next t ∧ LoadEnds s t slot l (rejection 6 index) ∧ rdF t (imgReg 0x24) 7 0 = 6) ∧
  (∀ (s : State) (slot index : Nat) (l : Load) (x y : SecSt), slot < 64 → loadOf s slot = some l → l.secs.find? (fun z => z.index == index) = some x →
    x.body ≠ none → x.verdict = none → y ∈ l.secs → y.index ≠ index → y.layer = x.layer → y.verdict ≠ some true →
    ∃ t, exec (.imageVerdict slot index true) s = .next t ∧ loadOf t slot = some (loadPassed l index) ∧
      (∀ k, k ≠ slot → instOf t k = instOf s k) ∧ t.butInsts = s.butInsts) ∧
  (∀ (s u : State) (slot index : Nat) (i : Instance) (l : Load) (x : SecSt) (L : LayerSt) (h : Option Nat), slot < 64 → instOf s slot = some i →
    i.load = some l → l.stage = false → l.repair = false → l.secs.find? (fun z => z.index == index) = some x →
    x.body ≠ none → x.verdict = none → x.layer ≠ 0xFFFF → (∀ y ∈ l.secs, y.layer = x.layer → y.index = index ∨ y.verdict = some true) →
    L = layerOf (loadPassed l index) x.layer .none → deniedSite s i l.skey L = none →
    growSecure (setLoad s slot (loadPassed l index)) slot (secureBlocks s i (i.layers ++ [L])) i.shadowSecH = some (h, u) →
    ∃ t, exec (.imageVerdict slot index true) s = .next t ∧
      instOf t slot = some { i with load := some (loadPassed l index), layers := i.layers ++ [L], shadowSecH := h } ∧
      (∀ k, k ≠ slot → instOf t k = instOf s k) ∧ t.ledger = s.ledger ∧ t.arrays = s.arrays ∧ t.tiles = s.tiles) ∧
  (∀ (s : State) (slot index site : Nat) (i : Instance) (l : Load) (x : SecSt), slot < 64 → instOf s slot = some i →
    i.load = some l → l.secs.find? (fun z => z.index == index) = some x →
    x.body ≠ none → x.verdict = none → x.layer ≠ 0xFFFF → (∀ y ∈ l.secs, y.layer = x.layer → y.index = index ∨ y.verdict = some true) →
    deniedSite s i l.skey (layerOf (loadPassed l index) x.layer .none) = some site →
    ∃ t, exec (.imageVerdict slot index true) s = .next t ∧ LoadEnds s t slot l { st := stWorldDenied, d0 := site } ∧ t.ledger = s.ledger ∧
      t.arrays = s.arrays) ∧
  (∀ (s : State) (slot index : Nat) (i : Instance) (l : Load) (x : SecSt), slot < 64 → instOf s slot = some i →
    i.load = some l → l.manifest = true → l.stage = true → l.repair = false → l.secs.find? (fun z => z.index == index) = some x →
    x.body ≠ none → x.verdict = none → x.layer = 0xFFFF → (∀ y ∈ l.secs, y.index = index ∨ y.verdict = some true) →
    ∃ t j, exec (.imageVerdict slot index true) s = .next t ∧ instOf t slot = some j ∧ j.load = none ∧
      j.staged = (loadLayers (loadPassed l index)).map (fun y => layerOf (loadPassed l index) y .staged) ∧
      j.stagedId = l.imageId ∧ j.stagedDigest = l.digest ∧ j.stagedKey = l.ownerKey ∧ j.layers = i.layers ∧ j.imageId = i.imageId ∧
      j.shadowH = i.shadowH ∧ j.nextShadowH = l.shadH ∧ rd t (imgSlotReg slot 4) = BitVec.ofNat 32 l.gen ∧ genState t slot = 0 ∧
      rd t (imgSlotReg slot 0) = rd s (imgSlotReg slot 0) ∧
      rd t (imgReg 0x14) = BitVec.ofNat 32 (Nat.min ((rd s (imgReg 0x14)).toNat + 1) 0xFFFFFFFF) ∧
      ((mbxAt s l.mbx.id).epoch = l.mbx.epoch → (mbxAt t l.mbx.id).final = true ∧ (mbxAt t l.mbx.id).rsp = memWrite [] 0 (rspBytes stOk l.mbx.op
        (leBytes 4 (loadLayers (loadPassed l index)).length ++ leBytes 4 l.secs.length))) ∧
      t.ledger = s.ledger ∧ t.arrays = s.arrays ∧ t.tiles = s.tiles) ∧
  (∀ (s : State) (slot reason detail : Nat) (l : Load), slot < 64 → 1 ≤ reason → reason ≤ 8 → loadOf s slot = some l →
    ∃ t, exec (.imageRejection slot reason detail) s = .next t ∧ LoadEnds s t slot l (rejection reason detail) ∧ rdF t (imgReg 0x24) 7 0 = reason) ∧
  (∀ (s : State) (slot rank cause : Nat) (l : Load), slot < 64 → rank < 65536 → loadOf s slot = some l →
    ∃ t, exec (.imageRejection slot 9 (cause * 65536 + rank)) s = .next t ∧ LoadEnds s t slot l { st := stCollFailed, d0 := rank, d1 := cause } ∧
      rd t (imgReg 0x24) = rd s (imgReg 0x24)) ∧
  (∀ (s : State) (slot detail : Nat) (l : Load), slot < 64 → loadOf s slot = some l →
    ∃ t, exec (.imageRejection slot 0 detail) s = .next t ∧ LoadEnds s t slot l { st := stStateMismatch, d0 := 1 } ∧ rd t (imgReg 0x24) = rd s (imgReg 0x24)) ∧
  (∀ (s : State) (slot : Nat) (l : Load), slot < 64 → loadOf s slot = some l →
    (l.reader = true → ∃ t, exec (.imageMismatch slot) s = .next t ∧ LoadEnds s t slot l { st := stStateMismatch, d0 := 1 }) ∧
    (l.reader = false → exec (.imageMismatch slot) s = .next s))

/-- LAYER_WRITE and IMAGE_STATUS complete: a layer's ledger record is WRITING while its arrays are written, and COMMITTED, with its tiles SERVING
(those in a run after it), when they are; a layer that may be skipped is COMMITTED without a write; a layer that fails a check is recorded FAILED and ends the load;
with its last layer the load completes; IMAGE_STATUS lists up to 114 layers with their states (R321, R322, R328, R331, Table 16.6). -/
def Obligations.LayersAreWritten : Prop :=
  (∀ (s : State) (slot layer : Nat) (i : Instance) (l : Load) (L : LayerSt), slot < 64 → instOf s slot = some i → i.load = some l →
    l.stage = false → l.repair = false → i.layers.find? (fun y => y.layer == layer) = some L → L.state = .none → layerHeld s L = false →
    layerCause s slot L = none → (l.skip && mayskip s slot layer l.imageId l.gen) = false → NoRunWaits s →
    ∃ t, exec (.layerWrite slot layer) s = .next t ∧
      ledgerRec t slot layer = some { layerRecord s slot i L .writing l.imageId l.gen 0 0 with seq := s.ledgerSeq } ∧
      (∀ g y, (g, y) ≠ (slot, layer) → ledgerRec t g y = ledgerRec s g y) ∧
      instOf t slot = some { i with layers := i.layers.map (fun y => if y.layer = layer then { L with state := .writing } else y) } ∧
      (∀ a ∈ L.arrs, (coreAt s (physTile s (recKey s a) / 32)).failed = false →
        tileState t (physTile s (recKey s a)) = 3 ∧ (tileAt t (physTile s (recKey s a))).prog.isSome = true) ∧
      t.arrays = s.arrays ∧ t.mbx = s.mbx ∧ t.pot = s.pot) ∧
  (∀ (s : State) (slot layer : Nat) (i : Instance) (l : Load) (L : LayerSt), slot < 64 → instOf s slot = some i → i.load = some l →
    l.stage = false → l.repair = false → i.layers.find? (fun y => y.layer == layer) = some L → L.state = .writing → allWritten s L = true →
    (∃ y ∈ i.layers, y.layer ≠ layer ∧ y.state ≠ .committed) → NoRunWaits s →
    ∃ t, exec (.layerWrite slot layer) s = .next t ∧
      ledgerRec t slot layer = some { layerRecord s slot i L .committed l.imageId l.gen 0 0 with seq := s.ledgerSeq } ∧
      instOf t slot = some { i with layers := i.layers.map (fun y => if y.layer = layer then { L with state := .committed } else y),
                                    load := some { l with done := l.done + 1 } } ∧
      (∀ a ∈ L.arrs, (coreAt s (physTile s (recKey s a) / 32)).failed = false →
        ((tileAt s (physTile s (recKey s a))).calRun = none → tileState t (physTile s (recKey s a)) = 2) ∧
        (∀ r, (tileAt s (physTile s (recKey s a))).calRun = some r → tileState s (physTile s (recKey s a)) = 4 →
          tileState t (physTile s (recKey s a)) = 4)) ∧
      ((L.arrs.map (recKey s)).Nodup → ∀ a ∈ L.arrs, (tileAt t (recKey s a)).owner = some (recOwner slot L a) ∧ (tileAt t (recKey s a)).shadowIn = true) ∧
      t.arrays = s.arrays ∧ t.mbx = s.mbx ∧ (l.stageH = none → t.pot = s.pot)) ∧
  (∀ (s : State) (slot layer : Nat) (i : Instance) (l : Load) (L : LayerSt), slot < 64 → instOf s slot = some i → i.load = some l →
    l.manifest = true → (∀ x ∈ l.secs, x.verdict = some true) →
    l.stage = false → l.repair = false → i.layers.find? (fun y => y.layer == layer) = some L → L.state = .writing → allWritten s L = true →
    (∀ y ∈ i.layers, y.layer = layer ∨ y.state = .committed) → NoRunWaits s →
    ∃ t j, exec (.layerWrite slot layer) s = .next t ∧
      ledgerRec t slot layer = some { layerRecord s slot i L .committed l.imageId l.gen 0 0 with seq := s.ledgerSeq } ∧
      instOf t slot = some j ∧ j.placed = true ∧ j.load = none ∧ j.imageId = l.imageId ∧ j.manifest = l.digest ∧ j.ownerKey = l.ownerKey ∧
      (∀ y ∈ j.layers, y.state = .committed) ∧ rd t (imgSlotReg slot 0) = BitVec.ofNat 32 l.gen ∧
      rd t (imgReg 0x14) = BitVec.ofNat 32 (Nat.min ((rd s (imgReg 0x14)).toNat + 1) 0xFFFFFFFF) ∧
      ((mbxAt s l.mbx.id).epoch = l.mbx.epoch → (mbxAt t l.mbx.id).final = true ∧
        (mbxAt t l.mbx.id).rsp = memWrite [] 0 (rspBytes stOk l.mbx.op (leBytes 4 (l.done + 1) ++ leBytes 4 l.secs.length))) ∧ t.arrays = s.arrays) ∧
  (∀ (s : State) (slot layer : Nat) (i : Instance) (l : Load) (L : LayerSt), slot < 64 → instOf s slot = some i → i.load = some l →
    l.stage = false → l.repair = false → i.layers.find? (fun y => y.layer == layer) = some L → L.state = .none → layerHeld s L = false →
    layerCause s slot L = none → l.skip = true → mayskip s slot layer l.imageId l.gen = true → NoRunWaits s →
    ∃ t, exec (.layerWrite slot layer) s = .next t ∧
      ledgerRec t slot layer = some { layerRecord s slot i L .committed l.imageId l.gen 0 0 with seq := s.ledgerSeq } ∧
      (∀ a ∈ L.arrs, (coreAt s (physTile s (recKey s a) / 32)).failed = false → tileState t (physTile s (recKey s a)) = 2) ∧
      t.arrays = s.arrays) ∧
  (∀ (s : State) (slot layer cause : Nat) (i : Instance) (l : Load) (L : LayerSt), slot < 64 → layer < 65536 → instOf s slot = some i → i.load = some l →
    l.stage = false → l.repair = false → i.layers.find? (fun y => y.layer == layer) = some L → L.state = .none → layerHeld s L = false →
    layerCause s slot L = some cause → NoRunWaits s →
    ∃ t, exec (.layerWrite slot layer) s = .next t ∧
      ledgerRec t slot layer = some { layerRecord s slot i L .failed l.imageId l.gen 0 0 with arrays := [], seq := s.ledgerSeq } ∧
      LoadEnds s t slot l { st := stLayerFailed, d0 := layer, d1 := cause } ∧ rdF t (imgReg 0x24) 7 0 = 8 ∧ rdF t (imgReg 0x24) 31 16 = layer ∧
      t.arrays = s.arrays) ∧
  (∀ (s : State) (slot layer : Nat) (i : Instance) (l : Load) (L : LayerSt), slot < 64 → instOf s slot = some i → i.load = some l →
    i.layers.find? (fun y => y.layer == layer) = some L → (L.state = .none ∧ layerHeld s L = true ∨ L.state = .writing ∧ allWritten s L = false) →
    NoRunWaits s → exec (.layerWrite slot layer) s = .next s) ∧
  (∀ (s : State) (m : MbxId) (rows : List (Nat × Nat)), Ready s m 0x0302 8 → reqN s m 8 1 < 64 → ZeroAt s m 9 1 → ZeroAt s m 12 4 →
    (∀ i, instOf s (reqN s m 8 1) = some i → i.secure = false ∨ mbxSecure s m = true) →
    ((statusRows s (reqN s m 8 1)).filter (fun x => reqN s m 10 2 ≤ x.1)).take 114 = rows →
    ∃ t, exec (.imageStatus m) s = .next t ∧
      Responds s t m stOk (leBytes 2 rows.length ++ zeros 6 ++ (rows.map (fun x => leBytes 2 x.1 ++ leBytes 1 x.2 ++ zeros 1)).flatten) true ∧
      (∀ j, instView t j = instView s j) ∧ t.butReply = s.butReply)
/-- GEN_BEGIN, GEN_COMMIT, GEN_ABORT, GEN_LAYER_REWRITE and GEN_BARRIER_OPEN complete: a staged generation is ready unless a layer fails on
some part; a commit raises the barrier and counts the layers left; an abort frees what was staged; a layer that every frame of the old
generation has left is rewritten, its record naming the old generation beside the new one; with no layer left the barrier opens, the new
generation is current and PF0 vector 68 is signalled (R334-R337, R340). -/
def Obligations.GenerationsChange : Prop :=
  (∀ (s : State) (m : MbxId) (fails : List (Nat × Nat × Nat)) (slot : Nat) (i : Instance), Ready s m 0x0303 8 → ZeroAt s m 10 6 →
    NamesEntry s m slot i → genState s slot ≠ 2 → genNext s slot ≠ 0 →
    (firstFail s i (allFails s slot i fails) = none →
      ∃ t, exec (.genBegin m fails) s = .next t ∧ Responds s t m stOk [] true ∧ genState t slot = 1 ∧ barrierUp t slot = barrierUp s slot ∧
        SameWords [imgSlotReg slot 8] s t ∧ (∀ j, instView t j = instView s j) ∧ t.butReplyWords = s.butReplyWords) ∧
    (∀ f, firstFail s i (allFails s slot i fails) = some f →
      ∃ t, exec (.genBegin m fails) s = .next t ∧ Responds s t m stGenNotReady (errBytes f.1 (f.2.1 * 65536 + f.2.2)) true ∧
        (∀ j, instView t j = instView s j) ∧ t.butReply = s.butReply)) ∧
  (∀ (s : State) (m : MbxId) (slot : Nat) (i : Instance), Ready s m 0x0304 8 → ZeroAt s m 10 6 → NamesEntry s m slot i →
    (genState s slot = 1 ∨ (genState s slot = 2 ∧ i.genJob = none)) → i.save = none → i.pause = false →
    ∃ t, exec (.genCommit m) s = .next t ∧ Responds s t m stAccepted [] false ∧ genState t slot = 2 ∧ barrierUp t slot = true ∧
      rdF t (imgSlotReg slot 8) 31 16 = i.staged.length % 65536 ∧ rbit t (imgSlotReg slot 8) 2 = rbit s (imgSlotReg slot 8) 2 ∧
      SameWords [imgSlotReg slot 8] s t ∧ instOf t slot = some { i with genJob := some (mref s m) } ∧
      (∀ j, j ≠ slot → instOf t j = instOf s j) ∧ t.butReplyWords = s.butReplyWords) ∧
  (∀ (s : State) (m : MbxId) (slot : Nat) (i : Instance), Ready s m 0x0304 8 → ZeroAt s m 10 6 → NamesEntry s m slot i →
    genState s slot ≠ 1 → (genState s slot ≠ 2 ∨ i.genJob ≠ none) →
    ∃ t, exec (.genCommit m) s = .next t ∧ Responds s t m stGenNotReady (errBytes (partId s) 0) true ∧
      (∀ j, instView t j = instView s j) ∧ t.butReply = s.butReply) ∧
  (∀ (s : State) (m : MbxId) (slot : Nat) (i : Instance), Ready s m 0x0305 8 → ZeroAt s m 10 6 → NamesEntry s m slot i → genState s slot = 1 →
    ∃ t j, exec (.genAbort m) s = .next t ∧ Responds s t m stOk [] true ∧ genState t slot = 0 ∧ genNext t slot = 0 ∧
      instView t slot = some j ∧ j.staged = [] ∧ j.stagedH = none ∧ j.nextShadowH = none ∧ j.layers = i.layers ∧ j.imageId = i.imageId ∧
      rd t (imgSlotReg slot 0) = rd s (imgSlotReg slot 0) ∧ t.ledger = s.ledger ∧ t.tiles = s.tiles ∧ t.arrays = s.arrays) ∧
  (∀ (s : State) (slot layer : Nat) (i : Instance) (L O : LayerSt), slot < 64 → instOf s slot = some i →
    i.staged.find? (fun y => y.layer == layer) = some L → i.layers.find? (fun y => y.layer == layer) = some O → genMoving s slot i = true →
    L.state = .staged → layerHeld s O = false → (∀ f ∈ i.flight, f.msg.gen = genCur s slot → leftLayer s i O f = true) → NoRunWaits s →
    ∃ t, exec (.genLayerRewrite slot layer) s = .next t ∧
      ledgerRec t slot layer = some { layerRecord s slot i L .writing i.stagedId (genNext s slot) i.imageId (genCur s slot) with seq := s.ledgerSeq } ∧
      (∀ g y, (g, y) ≠ (slot, layer) → ledgerRec t g y = ledgerRec s g y) ∧
      instOf t slot = some { i with staged := i.staged.map (fun y => if y.layer = layer then { L with state := .writing } else y) } ∧
      (∀ a ∈ L.arrs, (coreAt s (physTile s (recKey s a) / 32)).failed = false →
        tileState t (physTile s (recKey s a)) = 3 ∧ (tileAt t (physTile s (recKey s a))).prog.isSome = true) ∧
      t.arrays = s.arrays ∧ t.mbx = s.mbx ∧ t.pot = s.pot) ∧
  (∀ (s : State) (slot layer : Nat) (i : Instance) (L O : LayerSt), slot < 64 → instOf s slot = some i →
    i.staged.find? (fun y => y.layer == layer) = some L → i.layers.find? (fun y => y.layer == layer) = some O → genMoving s slot i = true →
    L.state = .writing → allWritten s L = true → NoRunWaits s → (∀ c ∈ s.cores, c.2.capture = none) →
    ∃ t j, exec (.genLayerRewrite slot layer) s = .next t ∧
      ledgerRec t slot layer = some { layerRecord s slot i L .committed i.stagedId (genNext s slot) i.imageId (genCur s slot) with seq := s.ledgerSeq } ∧
      instOf t slot = some j ∧ j.staged = i.staged.filter (fun y => y.layer != layer) ∧ layer ∈ j.prepared ∧
      j.layers = i.layers.map (fun y => if y.layer = layer then { L with state := .committed } else y) ∧ j.imageId = i.imageId ∧
      (j.staged = [] → j.shadowH = i.nextShadowH ∧ j.shadowSecH = i.nextShadowSecH ∧ j.stagedH = none) ∧
      (j.staged ≠ [] → j.shadowH = i.shadowH ∧ j.nextShadowH = i.nextShadowH) ∧
      rdF t (imgSlotReg slot 8) 31 16 = (i.staged.length - 1) % 65536 ∧ genCur t slot = genCur s slot ∧ genNext t slot = genNext s slot ∧
      (∀ a ∈ L.arrs, (coreAt s (physTile s (recKey s a) / 32)).failed = false → (tileAt s (physTile s (recKey s a))).calRun = none →
        tileState t (physTile s (recKey s a)) = 2) ∧
      t.arrays = s.arrays) ∧
  (∀ (s : State) (slot layer : Nat) (i : Instance) (L O : LayerSt), slot < 64 → instOf s slot = some i →
    i.staged.find? (fun y => y.layer == layer) = some L → i.layers.find? (fun y => y.layer == layer) = some O →
    (genMoving s slot i = false ∨ L.state = .writing ∧ allWritten s L = false ∨
      L.state = .staged ∧ (layerHeld s O = true ∨ ∃ f ∈ i.flight, f.msg.gen = genCur s slot ∧ leftLayer s i O f = false)) →
    NoRunWaits s → exec (.genLayerRewrite slot layer) s = .next s) ∧
  (∀ (s : State) (slot : Nat) (i : Instance), slot < 64 → instOf s slot = some i → genMoving s slot i = true → i.staged = [] →
    calWaited s slot i = true → (∀ x ∈ i.sets, x.2.pending = none) →
    ∃ t j, exec (.genBarrierOpen slot) s = .next t ∧ instView t slot = some j ∧ j.placed = true ∧ j.imageId = i.stagedId ∧ j.manifest = i.stagedDigest ∧
      j.ownerKey = i.stagedKey ∧ j.program = i.stagedProgram ∧ j.genJob = none ∧ j.layers = i.layers ∧ j.sets = i.sets ∧
      rd t (imgSlotReg slot 0) = rd s (imgSlotReg slot 4) ∧ genNext t slot = 0 ∧ genState t slot = 0 ∧ barrierUp t slot = false ∧
      rdF t (imgSlotReg slot 8) 31 16 = 0 ∧ rd t (imgReg 0x20) = rd s (imgReg 0x20) + 1 ∧
      SameWords [imgSlotReg slot 0, imgSlotReg slot 4, imgSlotReg slot 8, imgReg 0x20] s t ∧
      (vecKey 0 68 ∈ t.msixSent ∨ vecKey 0 68 ∈ t.msixPend) ∧
      (∀ r, i.genJob = some r → (mbxAt s r.id).epoch = r.epoch →
        (mbxAt t r.id).final = true ∧ (mbxAt t r.id).rsp = memWrite [] 0 (rspBytes stOk r.op [])) ∧
      t.ledger = s.ledger ∧ t.tiles = s.tiles ∧ t.arrays = s.arrays ∧ t.pot = s.pot) ∧
  (∀ (s : State) (slot h v : Nat) (r : MbxRef) (i : Instance) (d : DeltaSet) (y : DeltaVer), slot < 64 → instOf s slot = some i → genMoving s slot i = true →
    i.staged = [] → calWaited s slot i = true → i.sets = [(h, d)] → d.pending = some (v, r) → mapFind i.vers v = some y → y.gen = genNext s slot →
    ∃ t j, exec (.genBarrierOpen slot) s = .next t ∧ instView t slot = some j ∧ mapFind j.sets h = some { d with cur := v, pending := none } ∧
      genState t slot = 0 ∧ rd t (imgSlotReg slot 0) = rd s (imgSlotReg slot 4)) ∧
  (∀ (s : State) (slot : Nat) (i : Instance), slot < 64 → instOf s slot = some i →
    (genMoving s slot i = false ∨ i.staged ≠ [] ∨ calWaited s slot i = false) → exec (.genBarrierOpen slot) s = .next s)
/-- A write of 1 to a bit of a clear register makes the counters that the bit names read 0; every other register reads as
before and nothing but registers changes (the counter rows of Tables 02.13, 03.8, 04.5, 04.7, 05.7). The units of
`ENG_BUSYn` below 16 clocks go too: the model's choice, log 41. The same of the clear registers of the chip, the mesh, the stacks and Stockpot (Tables 06.7, 07.8, 08.7, 09.9, 09.10). -/
def Obligations.ClearRegisters : Prop :=
  (∀ (s : State) (site slot : Nat) (v : W32), tileWf site slot = true →
    ∃ t, exec (.tileCntClr site slot v) s = .next t ∧ ClearsWords v
      [(0, tileReg (tkey site slot) 0x40 :: words (tileReg (tkey site slot) 0x50) 16), (1, [tileReg (tkey site slot) 0x44]),
       (2, [tileReg (tkey site slot) 0x48]), (3, [tileReg (tkey site slot) 0x4C])] s t) ∧
  (∀ (s : State) (site slot : Nat) (v : W32), site < 800 → slot < 16 →
    ∃ t, exec (.edgeCntClr site slot v) s = .next t ∧ ClearsWords v
      [(0, [edgeReg site slot 0x10]), (1, [edgeReg site slot 0x14]), (2, [edgeReg site slot 0x18])] s t) ∧
  (∀ (s : State) (site : Nat) (v : W32), site < 800 →
    ∃ t, exec (.sfbCntClr site v) s = .next t ∧ ClearsWords v
      [(0, (List.range 16).flatMap (fun n => [sfbSlotReg site n 0x10, sfbSlotReg site n 0x14])),
       (1, (List.range 16).flatMap (fun n => [sfbSlotReg site n 0x18, sfbSlotReg site n 0x1C, sfbSlotReg site n 0x20]))] s t) ∧
  (∀ (s : State) (v : W32), ∃ t, exec (.spoonCntClr v) s = .next t ∧ ClearsWords v
      [(0, [spoonReg 0x10]), (1, [spoonReg 0x14]), (2, [spoonReg 0x18])] s t) ∧
  (∀ (s : State) (site : Nat) (v : W32), site < 800 →
    ∃ t, exec (.engCntClr site v) s = .next t ∧
      (∀ p, p ≠ engReg site 0x38 → rd t p =
        if (fld v 0 0 = 1 ∧ p ∈ words (engReg site 0x10) 7) ∨ (fld v 1 1 = 1 ∧ p = engReg site 0x2C) ∨
          (fld v 2 2 = 1 ∧ (p = engReg site 0x30 ∨ p = engReg site 0x34)) ∨ (fld v 3 3 = 1 ∧ p = engReg site 0x40) ∨
          (fld v 4 4 = 1 ∧ (p = engReg site 0x44 ∨ p = engReg site 0x48)) then 0 else rd s p) ∧
      (rdF t (engReg site 0x38) 31 31 = if fld v 2 2 = 1 then 0 else rdF s (engReg site 0x38) 31 31) ∧
      (rdF t (engReg site 0x38) 16 0 = rdF s (engReg site 0x38) 16 0) ∧
      (coreAt t site).busyRem = (if fld v 0 0 = 1 then [] else (coreAt s site).busyRem) ∧
      t = { s with cw := t.cw, cores := t.cores }) ∧
  (∀ (s : State) (v : W32), ∃ t, exec (.chCntClr v) s = .next t ∧ ClearsWords v
      [(0, words (chReg 0x14) 5), (1, [chReg 0x2C, chReg 0x30, chReg 0x38])] s t) ∧
  (∀ (s : State) (v : W32), ∃ t, exec (.calCntClr v) s = .next t ∧ ClearsWords v [(0, words (calReg 0x10) 4), (1, [calReg 0x20])] s t) ∧
  (∀ (s : State) (v : W32), ∃ t, exec (.meshCntClr v) s = .next t ∧ ClearsWords v [(0, [meshReg 0x84])] s t) ∧
  (∀ (s : State) (site : Nat) (v : W32), site < 800 →
    ∃ t, exec (.meshRtCntClr site v) s = .next t ∧ ClearsWords v
      [(0, [routerReg site 4, routerReg site 8]), (1, words (routerReg site 0x0C) 6)] s t) ∧
  (∀ (s : State) (v : W32), ∃ t, exec (.spCntClr v) s = .next t ∧ ClearsWords v
      [(0, words (spReg 0x18) 3), (1, [spReg 0x24, spReg 0x28]), (2, [spReg 0x2C, spReg 0x30])] s t) ∧
  (∀ (s : State) (n : Nat) (v : W32), n < 24 →
    ∃ t, exec (.skCntClr n v) s = .next t ∧
      (∀ p, p ≠ skReg n 0x10 → rd t p =
        if (fld v 0 0 = 1 ∧ (p = skReg n 8 ∨ p = skReg n 0x0C)) ∨ (fld v 1 1 = 1 ∧ p ∈ words (skReg n 0x14) 3) then 0 else rd s p) ∧
      (rdF t (skReg n 0x10) 31 31 = if fld v 0 0 = 1 then 0 else rdF s (skReg n 0x10) 31 31) ∧
      (rdF t (skReg n 0x10) 30 0 = rdF s (skReg n 0x10) 30 0) ∧ t = { s with cw := t.cw }) ∧
  (∀ (s : State) (v : W32), ∃ t, exec (.fabCntClr v) s = .next t ∧ ClearsWords v [(0, [fabReg 0x24])] s t) ∧
  (∀ (s : State) (p : Nat) (v : W32), p < 18 →
    ∃ t, exec (.fpCntClr p v) s = .next t ∧ ClearsWords v [(0, words (fpReg p 0x10) 6)] s t) ∧
  (∀ (s : State) (v : W32), ∃ t, exec (.ldCntClr v) s = .next t ∧ ClearsWords v [(0, words (ldReg 0x10) 10)] s t) ∧
  (∀ (s : State) (v : W32), ∃ t, exec (.lfCntClr v) s = .next t ∧ ClearsWords v [(0, words (ldReg 0x50) 5)] s t) ∧
  (∀ (s : State) (slot : Nat) (v : W32), slot < 64 →
    ∃ t, exec (.svCntClr slot v) s = .next t ∧ ClearsWords v [(0, words (svReg slot 0x1C) 6)] s t) ∧
  (∀ (s : State) (v : W32), ∃ t, exec (.imgCntClr v) s = .next t ∧ ClearsWords v [(0, words (imgReg 0x14) 4)] s t) ∧
  (∀ (s : State) (v : W32), ∃ t, exec (.hkCntClr v) s = .next t ∧ ClearsWords v [(0, words (hkReg 0x44) 3)] s t) ∧
  (∀ (s : State) (v : W32), ∃ t, exec (.secCntClr v) s = .next t ∧ ClearsWords v [(0, [secReg 0x0C, secReg 0x10])] s t) ∧
  (∀ (s : State) (v : W32), ∃ t, exec (.btCntClr v) s = .next t ∧ ClearsWords v [(0, words (btReg 8) 3)] s t) ∧
  (∀ (s : State) (v : W32), ∃ t, exec (.fltCntClr v) s = .next t ∧ ClearsWords v [(0, [fltReg 0x10, fltReg 0x14, fltReg 0x1C])] s t)
end

