-- ==== Sys2Proof/Laws/Maps.lean ====
section
/-! SUPPORT. Sparse tables and byte memories: a read after a write, and that every operation keeps the canonical form. -/

namespace Sys2Proof.Machine

variable {α : Type}

@[simp] theorem mapFind_mapSet_same (m : SMap α) (i : Nat) (v : α) : mapFind (mapSet m i v) i = some v := by
  induction m with
  | nil => simp [mapSet, mapFind]
  | cons e m ih =>
    obtain ⟨k, w⟩ := e
    simp only [mapSet]
    split
    · simp [mapFind]
    · split
      · simp [mapFind]
      · rename_i h _
        simp [mapFind, h, ih]

theorem mapFind_mapSet_ne (m : SMap α) {i j : Nat} (v : α) (h : j ≠ i) : mapFind (mapSet m i v) j = mapFind m j := by
  induction m with
  | nil => simp [mapSet, mapFind, h]
  | cons e m ih =>
    obtain ⟨k, w⟩ := e
    simp only [mapSet]
    split
    · rename_i hk; subst hk; simp [mapFind, h]
    · split
      · simp [mapFind, h]
      · simp [mapFind, ih]

@[simp] theorem mapFind_mapDel_same (m : SMap α) (i : Nat) : mapFind (mapDel m i) i = none := by
  induction m with
  | nil => rfl
  | cons e m ih =>
    obtain ⟨k, w⟩ := e
    simp only [mapDel]
    split
    · exact ih
    · rename_i h; simp [mapFind, h, ih]

theorem mapFind_mapDel_ne (m : SMap α) {i j : Nat} (h : j ≠ i) : mapFind (mapDel m i) j = mapFind m j := by
  induction m with
  | nil => rfl
  | cons e m ih =>
    obtain ⟨k, w⟩ := e
    simp only [mapDel]
    split
    · rename_i hk; subst hk; simp [mapFind, h, ih]
    · simp [mapFind, ih]

/-- A table gives back the value put under a key. -/
@[simp] theorem mapGet_mapPut_same [DecidableEq α] (d : α) (m : SMap α) (i : Nat) (v : α) : mapGet d (mapPut d m i v) i = v := by
  unfold mapGet mapPut
  split
  · rename_i h; simp [h]
  · simp

/-- Other keys keep their values, whatever each key's unlisted value is. -/
theorem mapGet_mapPut_ne [DecidableEq α] (d e : α) (m : SMap α) {i j : Nat} (v : α) (h : j ≠ i) :
    mapGet e (mapPut d m i v) j = mapGet e m j := by
  unfold mapGet mapPut
  split
  · rw [mapFind_mapDel_ne _ h]
  · rw [mapFind_mapSet_ne _ _ h]

/-! ### The canonical form -/

theorem mapAbove_weaken {m : SMap α} {a b : Nat} (h : a ≤ b) (hm : mapAbove b m = true) : mapAbove a m = true := by
  cases m with
  | nil => rfl
  | cons e m =>
    simp only [mapAbove, Bool.and_eq_true, decide_eq_true_eq] at *
    exact ⟨by omega, hm.2⟩

theorem mapAbove_mapDel {m : SMap α} {b i : Nat} (hm : mapAbove b m = true) : mapAbove b (mapDel m i) = true := by
  induction m generalizing b with
  | nil => rfl
  | cons e m ih =>
    simp only [mapAbove, Bool.and_eq_true, decide_eq_true_eq] at hm
    simp only [mapDel]
    split
    · exact ih (mapAbove_weaken (by omega) hm.2)
    · simp only [mapAbove, Bool.and_eq_true, decide_eq_true_eq]
      exact ⟨hm.1, ih hm.2⟩

theorem mapAbove_mapSet {m : SMap α} {b i : Nat} (v : α) (hi : b < i) (hm : mapAbove b m = true) :
    mapAbove b (mapSet m i v) = true := by
  induction m generalizing b with
  | nil => simp [mapSet, mapAbove, hi]
  | cons e m ih =>
    simp only [mapAbove, Bool.and_eq_true, decide_eq_true_eq] at hm
    simp only [mapSet]
    split
    · rename_i h; simp [mapAbove, h, hm]
    · split
      · rename_i h; simp [mapAbove, hi, h, hm.2]
      · rename_i h1 h2; simp [mapAbove, hm.1, ih (show e.1 < i by omega) hm.2]

theorem mapRising_iff (m : SMap α) : mapRising m = true ↔ m = [] ∨ ∃ e l, m = e :: l ∧ mapAbove e.1 l = true := by
  cases m <;> simp [mapRising]

theorem mapRising_mapDel {m : SMap α} {i : Nat} (hm : mapRising m = true) : mapRising (mapDel m i) = true := by
  induction m with
  | nil => rfl
  | cons e m ih =>
    simp only [mapRising] at hm
    simp only [mapDel]
    split
    · apply ih
      cases m with
      | nil => rfl
      | cons f m => simp only [mapAbove, Bool.and_eq_true] at hm; exact hm.2
    · exact mapAbove_mapDel hm

theorem mapRising_mapSet {m : SMap α} {i : Nat} (v : α) (hm : mapRising m = true) : mapRising (mapSet m i v) = true := by
  cases m with
  | nil => rfl
  | cons e m =>
    simp only [mapRising] at hm
    simp only [mapSet]
    split
    · rename_i h; simp [mapRising, h, hm]
    · split
      · rename_i h; simp [mapRising, mapAbove, h, hm]
      · exact mapAbove_mapSet v (by omega) hm

theorem mapNoDefault_mapDel [DecidableEq α] {d : α} {m : SMap α} {i : Nat} (hm : mapNoDefault d m = true) :
    mapNoDefault d (mapDel m i) = true := by
  induction m with
  | nil => rfl
  | cons e m ih =>
    simp only [mapNoDefault, Bool.and_eq_true] at hm
    simp only [mapDel]
    split
    · exact ih hm.2
    · simp [mapNoDefault, hm.1, ih hm.2]

theorem mapNoDefault_mapSet [DecidableEq α] {d : α} {m : SMap α} {i : Nat} {v : α} (hv : v ≠ d) (hm : mapNoDefault d m = true) :
    mapNoDefault d (mapSet m i v) = true := by
  induction m with
  | nil => simp [mapSet, mapNoDefault, hv]
  | cons e m ih =>
    simp only [mapNoDefault, Bool.and_eq_true] at hm
    simp only [mapSet]
    split
    · simp [mapNoDefault, hv, hm.2]
    · split
      · simp [mapNoDefault, hv, hm]
      · simp [mapNoDefault, hm.1, ih hm.2]

/-- Putting a value keeps the canonical form. -/
theorem mapWf_mapPut [DecidableEq α] {d : α} {m : SMap α} (i : Nat) (v : α) (hm : mapWf d m = true) :
    mapWf d (mapPut d m i v) = true := by
  simp only [mapWf, Bool.and_eq_true] at *
  unfold mapPut
  split
  · exact ⟨mapRising_mapDel hm.1, mapNoDefault_mapDel hm.2⟩
  · rename_i h; exact ⟨mapRising_mapSet v hm.1, mapNoDefault_mapSet h hm.2⟩

theorem mapAbove_filter {m : SMap α} {b : Nat} (p : Nat × α → Bool) (hm : mapAbove b m = true) : mapAbove b (m.filter p) = true := by
  induction m generalizing b with
  | nil => rfl
  | cons e m ih =>
    simp only [mapAbove, Bool.and_eq_true, decide_eq_true_eq] at hm
    simp only [List.filter]
    split
    · simp [mapAbove, hm.1, ih hm.2]
    · exact ih (mapAbove_weaken (by omega) hm.2)

/-- Taking entries out keeps the canonical form. -/
theorem mapWf_filter [DecidableEq α] {d : α} {m : SMap α} (p : Nat × α → Bool) (hm : mapWf d m = true) : mapWf d (m.filter p) = true := by
  simp only [mapWf, Bool.and_eq_true] at *
  constructor
  · cases m with
    | nil => rfl
    | cons e m =>
      simp only [mapRising] at hm
      simp only [List.filter]
      split
      · exact mapAbove_filter p hm.1
      · have := mapAbove_filter p hm.1
        revert this
        cases m.filter p <;> simp [mapRising, mapAbove]
  · have h := hm.2
    clear hm
    induction m with
    | nil => rfl
    | cons e m ih =>
      simp only [mapNoDefault, Bool.and_eq_true] at h
      simp only [List.filter]
      split
      · simp [mapNoDefault, h.1, ih h.2]
      · exact ih h.2

/-! ### Byte memories -/

@[simp] theorem memByte_memSet_same (m : List Host.Cell) (a : Nat) (b : Byte) : memByte (memSet m a b) a = b :=
  mapGet_mapPut_same 0 m a b

theorem memByte_memSet_ne (m : List Host.Cell) {a c : Nat} (b : Byte) (h : c ≠ a) : memByte (memSet m a b) c = memByte m c :=
  mapGet_mapPut_ne 0 0 m b h

/-- A write leaves every byte outside its range. -/
theorem memByte_memWrite_out (m : List Host.Cell) (a : Nat) (bs : Bytes) (c : Nat) (h : c < a ∨ a + bs.length ≤ c) :
    memByte (memWrite m a bs) c = memByte m c := by
  induction bs generalizing m a with
  | nil => rfl
  | cons b bs ih =>
    simp only [memWrite]
    rw [ih, memByte_memSet_ne]
    · simp at h; omega
    · simp at h ⊢; omega

/-- A read after a write of the same bytes gives them. -/
theorem memByte_memWrite_in (m : List Host.Cell) (a : Nat) (bs : Bytes) (j : Nat) (h : j < bs.length) :
    memByte (memWrite m a bs) (a + j) = bs.getD j 0 := by
  induction bs generalizing m a j with
  | nil => simp at h
  | cons b bs ih =>
    simp only [memWrite]
    cases j with
    | zero => rw [memByte_memWrite_out _ _ _ _ (by omega)]; simp
    | succ j =>
      have := ih (memSet m a b) (a + 1) j (by simpa using h)
      rw [show a + (j + 1) = a + 1 + j by omega, this]
      simp

theorem memRead_memWrite (m : List Host.Cell) (a : Nat) (bs : Bytes) : memRead (memWrite m a bs) a bs.length = bs := by
  have key : ∀ (n k : Nat), k + n = bs.length → memRead (memWrite m a bs) (a + k) n = bs.drop k := by
    intro n
    induction n with
    | zero => intro k h; simp only [memRead]; rw [List.drop_eq_nil_of_le (by omega)]
    | succ n ih =>
      intro k h
      simp only [memRead]
      rw [memByte_memWrite_in m a bs k (by omega), show a + k + 1 = a + (k + 1) by omega, ih (k + 1) (by omega)]
      rw [List.getD_eq_getElem _ _ (by omega)]
      exact (List.drop_eq_getElem_cons (by omega)).symm
  have := key bs.length 0 (by omega)
  simpa using this

theorem memWf_memSet {m : List Host.Cell} (a : Nat) (b : Byte) (h : memWf m = true) : memWf (memSet m a b) = true :=
  mapWf_mapPut a b h

/-- A write keeps the canonical form. -/
theorem memWf_memWrite {m : List Host.Cell} (a : Nat) (bs : Bytes) (h : memWf m = true) : memWf (memWrite m a bs) = true := by
  induction bs generalizing m a with
  | nil => exact h
  | cons b bs ih => exact ih _ (memWf_memSet a b h)

theorem memWf_memZero {m : List Host.Cell} (a n : Nat) (h : memWf m = true) : memWf (memZero m a n) = true := mapWf_filter _ h

end Sys2Proof.Machine
end

