-- ==== Sys2Proof/Laws/Regs.lean ====
section
/-! SUPPORT. Registers: a read after a write, fields, counters and clears; which of the state a register write leaves. -/

namespace Sys2Proof.Machine

/-! ### One word -/

@[simp] theorem rd_wr_same (s : State) (o : Nat) (v : W32) : rd (wr s o v) o = v := mapGet_mapPut_same _ _ _ _

theorem rd_wr_ne (s : State) {o p : Nat} (v : W32) (h : p ≠ o) : rd (wr s o v) p = rd s p := mapGet_mapPut_ne _ _ _ _ h

theorem rd_wr (s : State) (o p : Nat) (v : W32) : rd (wr s o v) p = if p = o then v else rd s p := by
  split
  · rename_i h; subst h; simp
  · rename_i h; exact rd_wr_ne s v h

@[simp] theorem rdA_wr (s : State) (o p : Nat) (v : W32) : rdA (wr s o v) p = rdA s p := rfl
@[simp] theorem rdA_wrA_same (s : State) (o : Nat) (v : W32) : rdA (wrA s o v) o = v := mapGet_mapPut_same _ _ _ _
theorem rdA_wrA_ne (s : State) {o p : Nat} (v : W32) (h : p ≠ o) : rdA (wrA s o v) p = rdA s p := mapGet_mapPut_ne _ _ _ _ h
@[simp] theorem rd_wrA (s : State) (o p : Nat) (v : W32) : rd (wrA s o v) p = rd s p := rfl

/-- A read looks at the words alone. -/
theorem rd_of_cw {s t : State} (h : t.cw = s.cw) (o : Nat) : rd t o = rd s o := by unfold rd; rw [h]
theorem rdF_of_cw {s t : State} (h : t.cw = s.cw) (o hi lo : Nat) : rdF t o hi lo = rdF s o hi lo := by unfold rdF; rw [rd_of_cw h]
theorem rbit_of_cw {s t : State} (h : t.cw = s.cw) (o i : Nat) : rbit t o i = rbit s o i := by unfold rbit; rw [rdF_of_cw h]

/-- A register write changes the words and nothing else. -/
theorem wr_eq (s : State) (o : Nat) (v : W32) : wr s o v = { s with cw := (wr s o v).cw } := rfl

/-! ### Fields -/

theorem fmask_toNat {hi lo : Nat} (h : hi < 32) (hl : lo ≤ hi) : (fmask hi lo).toNat = (2 ^ (hi + 1 - lo) - 1) * 2 ^ lo := by
  unfold fmask
  rw [BitVec.toNat_ofNat]
  apply Nat.mod_eq_of_lt
  have h1 : 2 ^ (hi + 1 - lo) * 2 ^ lo = 2 ^ (hi + 1) := by rw [← pow_add]; congr 1; omega
  have h2 : 2 ^ (hi + 1) ≤ 2 ^ 32 := Nat.pow_le_pow_right (by omega) (by omega)
  have h3 : 0 < 2 ^ lo := by positivity
  calc (2 ^ (hi + 1 - lo) - 1) * 2 ^ lo = 2 ^ (hi + 1 - lo) * 2 ^ lo - 2 ^ lo := by rw [Nat.sub_mul, one_mul]
    _ < 2 ^ 32 := by omega

theorem getLsbD_fmask {hi lo : Nat} (h : hi < 32) (hl : lo ≤ hi) (i : Nat) :
    (fmask hi lo).getLsbD i = (decide (lo ≤ i) && decide (i ≤ hi)) := by
  rw [← BitVec.testBit_toNat, fmask_toNat h hl, Nat.testBit_mul_two_pow, Nat.testBit_two_pow_sub_one]
  by_cases h1 : lo ≤ i
  · simp only [h1, decide_true, Bool.true_and]
    congr 1; apply propext; omega
  · simp [h1]

theorem getLsbD_setFld {hi lo : Nat} (w : W32) (v : Nat) (h : hi < 32) (hl : lo ≤ hi) (i : Nat) (hi32 : i < 32) :
    (setFld w hi lo v).getLsbD i = if lo ≤ i ∧ i ≤ hi then v.testBit (i - lo) else w.getLsbD i := by
  unfold setFld
  rw [BitVec.getLsbD_or, BitVec.getLsbD_and, BitVec.getLsbD_not, getLsbD_fmask h hl, BitVec.getLsbD_ofNat,
    Nat.testBit_mul_two_pow, Nat.testBit_mod_two_pow]
  by_cases h1 : lo ≤ i <;> by_cases h2 : i ≤ hi <;> simp [h1, h2, hi32]
  · intro h3; omega
  · omega

theorem fld_testBit (w : W32) (hi lo i : Nat) (h : hi < 32) :
    (fld w hi lo).testBit i = (decide (i < hi + 1 - lo) && w.getLsbD (lo + i)) := by
  unfold fld nbits
  rw [Nat.testBit_mod_two_pow, Nat.testBit_div_two_pow, BitVec.testBit_toNat, Nat.add_comm lo i]

/-- The field that was set. -/
theorem fld_setFld_same {hi lo : Nat} (w : W32) (v : Nat) (h : hi < 32) (hl : lo ≤ hi) :
    fld (setFld w hi lo v) hi lo = v % 2 ^ (hi + 1 - lo) := by
  apply Nat.eq_of_testBit_eq
  intro i
  rw [fld_testBit _ _ _ _ h, Nat.testBit_mod_two_pow]
  by_cases h1 : i < hi + 1 - lo
  · rw [getLsbD_setFld w v h hl _ (by omega)]
    simp [h1, show lo ≤ lo + i by omega, show lo + i ≤ hi by omega]
  · simp [h1]

/-- A field beside the one that was set. -/
theorem fld_setFld_other {hi lo hi' lo' : Nat} (w : W32) (v : Nat) (h : hi < 32) (hl : lo ≤ hi) (h' : hi' < 32)
    (hd : hi' < lo ∨ hi < lo') : fld (setFld w hi lo v) hi' lo' = fld w hi' lo' := by
  apply Nat.eq_of_testBit_eq
  intro i
  rw [fld_testBit _ _ _ _ h', fld_testBit _ _ _ _ h']
  by_cases h1 : i < hi' + 1 - lo'
  · rw [getLsbD_setFld w v h hl _ (by omega)]
    rw [if_neg (by omega)]
  · simp [h1]

theorem rdF_wrF_same (s : State) (o : Nat) {hi lo : Nat} (v : Nat) (h : hi < 32) (hl : lo ≤ hi) :
    rdF (wrF s o hi lo v) o hi lo = v % 2 ^ (hi + 1 - lo) := by
  unfold rdF wrF; rw [rd_wr_same, fld_setFld_same _ _ h hl]

theorem rdF_wrF_other (s : State) (o : Nat) {hi lo hi' lo' : Nat} (v : Nat) (h : hi < 32) (hl : lo ≤ hi) (h' : hi' < 32)
    (hd : hi' < lo ∨ hi < lo') : rdF (wrF s o hi lo v) o hi' lo' = rdF s o hi' lo' := by
  unfold rdF wrF; rw [rd_wr_same, fld_setFld_other _ _ h hl h' hd]

theorem rdF_wrF_ne (s : State) {o p : Nat} (hi lo v hi' lo' : Nat) (h : p ≠ o) :
    rdF (wrF s o hi lo v) p hi' lo' = rdF s p hi' lo' := by
  unfold rdF wrF; rw [rd_wr_ne _ _ h]

theorem rd_wrF_ne (s : State) {o p : Nat} (hi lo v : Nat) (h : p ≠ o) : rd (wrF s o hi lo v) p = rd s p := rd_wr_ne _ _ h

theorem rbit_wbit_same (s : State) (o : Nat) {i : Nat} (b : Bool) (h : i < 32) : rbit (wbit s o i b) o i = b := by
  unfold rbit wbit
  rw [rdF_wrF_same _ _ _ h (Nat.le_refl i)]
  cases b <;> simp

theorem rbit_wbit_ne (s : State) {o p : Nat} (i j : Nat) (b : Bool) (h : p ≠ o) : rbit (wbit s o i b) p j = rbit s p j := by
  unfold rbit wbit; rw [rdF_wrF_ne _ _ _ _ _ _ h]

theorem rd_wbit_ne (s : State) {o p : Nat} (i : Nat) (b : Bool) (h : p ≠ o) : rd (wbit s o i b) p = rd s p := rd_wr_ne _ _ h

/-! ### Counters -/

@[simp] theorem rd_incWrap_same (s : State) (o n : Nat) : rd (incWrap s o n) o = rd s o + BitVec.ofNat 32 n := rd_wr_same _ _ _
theorem rd_incWrap_ne (s : State) {o p : Nat} (n : Nat) (h : p ≠ o) : rd (incWrap s o n) p = rd s p := rd_wr_ne _ _ h
@[simp] theorem rd_incHold_same (s : State) (o n by_ : Nat) :
    rd (incHold s o n by_) o = BitVec.ofNat 32 (Nat.min ((rd s o).toNat + by_) (2 ^ n - 1)) := rd_wr_same _ _ _
theorem rd_incHold_ne (s : State) {o p : Nat} (n by_ : Nat) (h : p ≠ o) : rd (incHold s o n by_) p = rd s p := rd_wr_ne _ _ h

theorem rd_clearRegs (os : List Nat) (s : State) (p : Nat) : rd (clearRegs s os) p = if p ∈ os then 0 else rd s p := by
  induction os generalizing s with
  | nil => simp [clearRegs]
  | cons o os ih =>
    simp only [clearRegs, ih, rd_wr, List.mem_cons]
    by_cases h1 : p ∈ os <;> by_cases h2 : p = o <;> simp [h1, h2]

/-- A clear bit clears its registers where 1 is written, and nothing else. -/
theorem rd_clearIf (w : W32) (bit : Nat) (os : List Nat) (s : State) (p : Nat) :
    rd (clearIf w bit os s) p = if fld w bit bit = 1 ∧ p ∈ os then 0 else rd s p := by
  unfold clearIf
  split
  · rename_i h; simp [rd_clearRegs, h]
  · rename_i h; simp [h]

theorem clearRegs_eq (os : List Nat) (s : State) : clearRegs s os = { s with cw := (clearRegs s os).cw } := by
  induction os generalizing s with
  | nil => rfl
  | cons o os ih => simp only [clearRegs]; rw [ih]; rfl

/-- A clear changes the words and nothing else. -/
theorem clearIf_eq (w : W32) (bit : Nat) (os : List Nat) (s : State) :
    clearIf w bit os s = { s with cw := (clearIf w bit os s).cw } := by
  unfold clearIf
  split
  · exact clearRegs_eq os s
  · rfl

end Sys2Proof.Machine
end

