-- ==== Sys2Proof/Laws/State.lean ====
section
/-! SUPPORT. Which fields the setters leave: one lemma for a field of a setter, so that no proof unfolds an update. -/

namespace Sys2Proof.Machine

variable (s : State)

/-! ### Setters whose form depends on the state -/

theorem modInst_butInsts (k : Nat) (f : Instance → Instance) : (modInst s k f).butInsts = s.butInsts := by
  unfold modInst; split <;> rfl

theorem signal_butHost (pf v : Nat) : (signal s pf v).butHost = s.butHost := by
  unfold signal; dsimp only; split <;> split <;> rfl

theorem signal_hostMem (pf v : Nat) : (signal s pf v).hostMem = s.hostMem ∧ (signal s pf v).heldDma = s.heldDma := by
  unfold signal; dsimp only; split <;> split <;> exact ⟨rfl, rfl⟩

theorem dmaWrite_butHost (pf : Nat) (a : W64) (bs : Bytes) : (dmaWrite s pf a bs).butHost = s.butHost := by
  unfold dmaWrite; split <;> rfl

theorem dmaWrite_msix (pf : Nat) (a : W64) (bs : Bytes) : (dmaWrite s pf a bs).vecCount = s.vecCount ∧
    (dmaWrite s pf a bs).msixSent = s.msixSent ∧ (dmaWrite s pf a bs).msixPend = s.msixPend := by
  unfold dmaWrite; split <;> exact ⟨rfl, rfl, rfl⟩


/-! ### wr -/

@[simp] theorem wr_grade (o : Nat) (v : W32) : (wr s o v).grade = s.grade := rfl
@[simp] theorem wr_act (o : Nat) (v : W32) : (wr s o v).act = s.act := rfl
@[simp] theorem wr_stagedAt (o : Nat) (v : W32) : (wr s o v).stagedAt = s.stagedAt := rfl
@[simp] theorem wr_stepLatch (o : Nat) (v : W32) : (wr s o v).stepLatch = s.stepLatch := rfl
@[simp] theorem wr_timeLatch (o : Nat) (v : W32) : (wr s o v).timeLatch = s.timeLatch := rfl
@[simp] theorem wr_mbx (o : Nat) (v : W32) : (wr s o v).mbx = s.mbx := rfl
@[simp] theorem wr_dmaWait (o : Nat) (v : W32) : (wr s o v).dmaWait = s.dmaWait := rfl
@[simp] theorem wr_order (o : Nat) (v : W32) : (wr s o v).order = s.order := rfl
@[simp] theorem wr_bme0 (o : Nat) (v : W32) : (wr s o v).bme0 = s.bme0 := rfl
@[simp] theorem wr_bme1 (o : Nat) (v : W32) : (wr s o v).bme1 = s.bme1 := rfl
@[simp] theorem wr_heldDma (o : Nat) (v : W32) : (wr s o v).heldDma = s.heldDma := rfl
@[simp] theorem wr_hostMem (o : Nat) (v : W32) : (wr s o v).hostMem = s.hostMem := rfl
@[simp] theorem wr_unmasked (o : Nat) (v : W32) : (wr s o v).unmasked = s.unmasked := rfl
@[simp] theorem wr_msixPend (o : Nat) (v : W32) : (wr s o v).msixPend = s.msixPend := rfl
@[simp] theorem wr_msixSent (o : Nat) (v : W32) : (wr s o v).msixSent = s.msixSent := rfl
@[simp] theorem wr_vecCount (o : Nat) (v : W32) : (wr s o v).vecCount = s.vecCount := rfl
@[simp] theorem wr_arrays (o : Nat) (v : W32) : (wr s o v).arrays = s.arrays := rfl
@[simp] theorem wr_tiles (o : Nat) (v : W32) : (wr s o v).tiles = s.tiles := rfl
@[simp] theorem wr_cores (o : Nat) (v : W32) : (wr s o v).cores = s.cores := rfl
@[simp] theorem wr_fbWinAt (o : Nat) (v : W32) : (wr s o v).fbWinAt = s.fbWinAt := rfl
@[simp] theorem wr_potWinAt (o : Nat) (v : W32) : (wr s o v).potWinAt = s.potWinAt := rfl
@[simp] theorem wr_remapNow (o : Nat) (v : W32) : (wr s o v).remapNow = s.remapNow := rfl
@[simp] theorem wr_store (o : Nat) (v : W32) : (wr s o v).store = s.store := rfl
@[simp] theorem wr_storeBad (o : Nat) (v : W32) : (wr s o v).storeBad = s.storeBad := rfl
@[simp] theorem wr_stackMem (o : Nat) (v : W32) : (wr s o v).stackMem = s.stackMem := rfl
@[simp] theorem wr_meshQ (o : Nat) (v : W32) : (wr s o v).meshQ = s.meshQ := rfl
@[simp] theorem wr_meshOut (o : Nat) (v : W32) : (wr s o v).meshOut = s.meshOut := rfl
@[simp] theorem wr_stackQ (o : Nat) (v : W32) : (wr s o v).stackQ = s.stackQ := rfl
@[simp] theorem wr_pot (o : Nat) (v : W32) : (wr s o v).pot = s.pot := rfl
@[simp] theorem wr_fab (o : Nat) (v : W32) : (wr s o v).fab = s.fab := rfl
@[simp] theorem wr_rackTime (o : Nat) (v : W32) : (wr s o v).rackTime = s.rackTime := rfl
@[simp] theorem wr_ifpOut (o : Nat) (v : W32) : (wr s o v).ifpOut = s.ifpOut := rfl
@[simp] theorem wr_ladle (o : Nat) (v : W32) : (wr s o v).ladle = s.ladle := rfl
@[simp] theorem wr_insts (o : Nat) (v : W32) : (wr s o v).insts = s.insts := rfl
@[simp] theorem wr_slotWorld (o : Nat) (v : W32) : (wr s o v).slotWorld = s.slotWorld := rfl
@[simp] theorem wr_ledger (o : Nat) (v : W32) : (wr s o v).ledger = s.ledger := rfl
@[simp] theorem wr_ledgerSeq (o : Nat) (v : W32) : (wr s o v).ledgerSeq = s.ledgerSeq := rfl
@[simp] theorem wr_retiredTiles (o : Nat) (v : W32) : (wr s o v).retiredTiles = s.retiredTiles := rfl
@[simp] theorem wr_spoonSeq (o : Nat) (v : W32) : (wr s o v).spoonSeq = s.spoonSeq := rfl
@[simp] theorem wr_ringH (o : Nat) (v : W32) : (wr s o v).ringH = s.ringH := rfl
@[simp] theorem wr_faultH (o : Nat) (v : W32) : (wr s o v).faultH = s.faultH := rfl
@[simp] theorem wr_residH (o : Nat) (v : W32) : (wr s o v).residH = s.residH := rfl
@[simp] theorem wr_resids (o : Nat) (v : W32) : (wr s o v).resids = s.resids := rfl
@[simp] theorem wr_residSeq (o : Nat) (v : W32) : (wr s o v).residSeq = s.residSeq := rfl
@[simp] theorem wr_faults (o : Nat) (v : W32) : (wr s o v).faults = s.faults := rfl
@[simp] theorem wr_rebuilds (o : Nat) (v : W32) : (wr s o v).rebuilds = s.rebuilds := rfl
@[simp] theorem wr_bist (o : Nat) (v : W32) : (wr s o v).bist = s.bist := rfl
@[simp] theorem wr_hk (o : Nat) (v : W32) : (wr s o v).hk = s.hk := rfl
@[simp] theorem wr_sec (o : Nat) (v : W32) : (wr s o v).sec = s.sec := rfl
@[simp] theorem wr_life (o : Nat) (v : W32) : (wr s o v).life = s.life := rfl
@[simp] theorem wr_freeNo (o : Nat) (v : W32) : (wr s o v).freeNo = s.freeNo := rfl
@[simp] theorem wr_pending (o : Nat) (v : W32) : (wr s o v).pending = s.pending := rfl

/-! ### wrA -/

@[simp] theorem wrA_grade (o : Nat) (v : W32) : (wrA s o v).grade = s.grade := rfl
@[simp] theorem wrA_cw (o : Nat) (v : W32) : (wrA s o v).cw = s.cw := rfl
@[simp] theorem wrA_stagedAt (o : Nat) (v : W32) : (wrA s o v).stagedAt = s.stagedAt := rfl
@[simp] theorem wrA_stepLatch (o : Nat) (v : W32) : (wrA s o v).stepLatch = s.stepLatch := rfl
@[simp] theorem wrA_timeLatch (o : Nat) (v : W32) : (wrA s o v).timeLatch = s.timeLatch := rfl
@[simp] theorem wrA_mbx (o : Nat) (v : W32) : (wrA s o v).mbx = s.mbx := rfl
@[simp] theorem wrA_dmaWait (o : Nat) (v : W32) : (wrA s o v).dmaWait = s.dmaWait := rfl
@[simp] theorem wrA_order (o : Nat) (v : W32) : (wrA s o v).order = s.order := rfl
@[simp] theorem wrA_bme0 (o : Nat) (v : W32) : (wrA s o v).bme0 = s.bme0 := rfl
@[simp] theorem wrA_bme1 (o : Nat) (v : W32) : (wrA s o v).bme1 = s.bme1 := rfl
@[simp] theorem wrA_heldDma (o : Nat) (v : W32) : (wrA s o v).heldDma = s.heldDma := rfl
@[simp] theorem wrA_hostMem (o : Nat) (v : W32) : (wrA s o v).hostMem = s.hostMem := rfl
@[simp] theorem wrA_unmasked (o : Nat) (v : W32) : (wrA s o v).unmasked = s.unmasked := rfl
@[simp] theorem wrA_msixPend (o : Nat) (v : W32) : (wrA s o v).msixPend = s.msixPend := rfl
@[simp] theorem wrA_msixSent (o : Nat) (v : W32) : (wrA s o v).msixSent = s.msixSent := rfl
@[simp] theorem wrA_vecCount (o : Nat) (v : W32) : (wrA s o v).vecCount = s.vecCount := rfl
@[simp] theorem wrA_arrays (o : Nat) (v : W32) : (wrA s o v).arrays = s.arrays := rfl
@[simp] theorem wrA_tiles (o : Nat) (v : W32) : (wrA s o v).tiles = s.tiles := rfl
@[simp] theorem wrA_cores (o : Nat) (v : W32) : (wrA s o v).cores = s.cores := rfl
@[simp] theorem wrA_fbWinAt (o : Nat) (v : W32) : (wrA s o v).fbWinAt = s.fbWinAt := rfl
@[simp] theorem wrA_potWinAt (o : Nat) (v : W32) : (wrA s o v).potWinAt = s.potWinAt := rfl
@[simp] theorem wrA_remapNow (o : Nat) (v : W32) : (wrA s o v).remapNow = s.remapNow := rfl
@[simp] theorem wrA_store (o : Nat) (v : W32) : (wrA s o v).store = s.store := rfl
@[simp] theorem wrA_storeBad (o : Nat) (v : W32) : (wrA s o v).storeBad = s.storeBad := rfl
@[simp] theorem wrA_stackMem (o : Nat) (v : W32) : (wrA s o v).stackMem = s.stackMem := rfl
@[simp] theorem wrA_meshQ (o : Nat) (v : W32) : (wrA s o v).meshQ = s.meshQ := rfl
@[simp] theorem wrA_meshOut (o : Nat) (v : W32) : (wrA s o v).meshOut = s.meshOut := rfl
@[simp] theorem wrA_stackQ (o : Nat) (v : W32) : (wrA s o v).stackQ = s.stackQ := rfl
@[simp] theorem wrA_pot (o : Nat) (v : W32) : (wrA s o v).pot = s.pot := rfl
@[simp] theorem wrA_fab (o : Nat) (v : W32) : (wrA s o v).fab = s.fab := rfl
@[simp] theorem wrA_rackTime (o : Nat) (v : W32) : (wrA s o v).rackTime = s.rackTime := rfl
@[simp] theorem wrA_ifpOut (o : Nat) (v : W32) : (wrA s o v).ifpOut = s.ifpOut := rfl
@[simp] theorem wrA_ladle (o : Nat) (v : W32) : (wrA s o v).ladle = s.ladle := rfl
@[simp] theorem wrA_insts (o : Nat) (v : W32) : (wrA s o v).insts = s.insts := rfl
@[simp] theorem wrA_slotWorld (o : Nat) (v : W32) : (wrA s o v).slotWorld = s.slotWorld := rfl
@[simp] theorem wrA_ledger (o : Nat) (v : W32) : (wrA s o v).ledger = s.ledger := rfl
@[simp] theorem wrA_ledgerSeq (o : Nat) (v : W32) : (wrA s o v).ledgerSeq = s.ledgerSeq := rfl
@[simp] theorem wrA_retiredTiles (o : Nat) (v : W32) : (wrA s o v).retiredTiles = s.retiredTiles := rfl
@[simp] theorem wrA_spoonSeq (o : Nat) (v : W32) : (wrA s o v).spoonSeq = s.spoonSeq := rfl
@[simp] theorem wrA_ringH (o : Nat) (v : W32) : (wrA s o v).ringH = s.ringH := rfl
@[simp] theorem wrA_faultH (o : Nat) (v : W32) : (wrA s o v).faultH = s.faultH := rfl
@[simp] theorem wrA_residH (o : Nat) (v : W32) : (wrA s o v).residH = s.residH := rfl
@[simp] theorem wrA_resids (o : Nat) (v : W32) : (wrA s o v).resids = s.resids := rfl
@[simp] theorem wrA_residSeq (o : Nat) (v : W32) : (wrA s o v).residSeq = s.residSeq := rfl
@[simp] theorem wrA_faults (o : Nat) (v : W32) : (wrA s o v).faults = s.faults := rfl
@[simp] theorem wrA_rebuilds (o : Nat) (v : W32) : (wrA s o v).rebuilds = s.rebuilds := rfl
@[simp] theorem wrA_bist (o : Nat) (v : W32) : (wrA s o v).bist = s.bist := rfl
@[simp] theorem wrA_hk (o : Nat) (v : W32) : (wrA s o v).hk = s.hk := rfl
@[simp] theorem wrA_sec (o : Nat) (v : W32) : (wrA s o v).sec = s.sec := rfl
@[simp] theorem wrA_life (o : Nat) (v : W32) : (wrA s o v).life = s.life := rfl
@[simp] theorem wrA_freeNo (o : Nat) (v : W32) : (wrA s o v).freeNo = s.freeNo := rfl
@[simp] theorem wrA_pending (o : Nat) (v : W32) : (wrA s o v).pending = s.pending := rfl

/-! ### wrF -/

@[simp] theorem wrF_grade (o hi lo v : Nat) : (wrF s o hi lo v).grade = s.grade := rfl
@[simp] theorem wrF_act (o hi lo v : Nat) : (wrF s o hi lo v).act = s.act := rfl
@[simp] theorem wrF_stagedAt (o hi lo v : Nat) : (wrF s o hi lo v).stagedAt = s.stagedAt := rfl
@[simp] theorem wrF_stepLatch (o hi lo v : Nat) : (wrF s o hi lo v).stepLatch = s.stepLatch := rfl
@[simp] theorem wrF_timeLatch (o hi lo v : Nat) : (wrF s o hi lo v).timeLatch = s.timeLatch := rfl
@[simp] theorem wrF_mbx (o hi lo v : Nat) : (wrF s o hi lo v).mbx = s.mbx := rfl
@[simp] theorem wrF_dmaWait (o hi lo v : Nat) : (wrF s o hi lo v).dmaWait = s.dmaWait := rfl
@[simp] theorem wrF_order (o hi lo v : Nat) : (wrF s o hi lo v).order = s.order := rfl
@[simp] theorem wrF_bme0 (o hi lo v : Nat) : (wrF s o hi lo v).bme0 = s.bme0 := rfl
@[simp] theorem wrF_bme1 (o hi lo v : Nat) : (wrF s o hi lo v).bme1 = s.bme1 := rfl
@[simp] theorem wrF_heldDma (o hi lo v : Nat) : (wrF s o hi lo v).heldDma = s.heldDma := rfl
@[simp] theorem wrF_hostMem (o hi lo v : Nat) : (wrF s o hi lo v).hostMem = s.hostMem := rfl
@[simp] theorem wrF_unmasked (o hi lo v : Nat) : (wrF s o hi lo v).unmasked = s.unmasked := rfl
@[simp] theorem wrF_msixPend (o hi lo v : Nat) : (wrF s o hi lo v).msixPend = s.msixPend := rfl
@[simp] theorem wrF_msixSent (o hi lo v : Nat) : (wrF s o hi lo v).msixSent = s.msixSent := rfl
@[simp] theorem wrF_vecCount (o hi lo v : Nat) : (wrF s o hi lo v).vecCount = s.vecCount := rfl
@[simp] theorem wrF_arrays (o hi lo v : Nat) : (wrF s o hi lo v).arrays = s.arrays := rfl
@[simp] theorem wrF_tiles (o hi lo v : Nat) : (wrF s o hi lo v).tiles = s.tiles := rfl
@[simp] theorem wrF_cores (o hi lo v : Nat) : (wrF s o hi lo v).cores = s.cores := rfl
@[simp] theorem wrF_fbWinAt (o hi lo v : Nat) : (wrF s o hi lo v).fbWinAt = s.fbWinAt := rfl
@[simp] theorem wrF_potWinAt (o hi lo v : Nat) : (wrF s o hi lo v).potWinAt = s.potWinAt := rfl
@[simp] theorem wrF_remapNow (o hi lo v : Nat) : (wrF s o hi lo v).remapNow = s.remapNow := rfl
@[simp] theorem wrF_store (o hi lo v : Nat) : (wrF s o hi lo v).store = s.store := rfl
@[simp] theorem wrF_storeBad (o hi lo v : Nat) : (wrF s o hi lo v).storeBad = s.storeBad := rfl
@[simp] theorem wrF_stackMem (o hi lo v : Nat) : (wrF s o hi lo v).stackMem = s.stackMem := rfl
@[simp] theorem wrF_meshQ (o hi lo v : Nat) : (wrF s o hi lo v).meshQ = s.meshQ := rfl
@[simp] theorem wrF_meshOut (o hi lo v : Nat) : (wrF s o hi lo v).meshOut = s.meshOut := rfl
@[simp] theorem wrF_stackQ (o hi lo v : Nat) : (wrF s o hi lo v).stackQ = s.stackQ := rfl
@[simp] theorem wrF_pot (o hi lo v : Nat) : (wrF s o hi lo v).pot = s.pot := rfl
@[simp] theorem wrF_fab (o hi lo v : Nat) : (wrF s o hi lo v).fab = s.fab := rfl
@[simp] theorem wrF_rackTime (o hi lo v : Nat) : (wrF s o hi lo v).rackTime = s.rackTime := rfl
@[simp] theorem wrF_ifpOut (o hi lo v : Nat) : (wrF s o hi lo v).ifpOut = s.ifpOut := rfl
@[simp] theorem wrF_ladle (o hi lo v : Nat) : (wrF s o hi lo v).ladle = s.ladle := rfl
@[simp] theorem wrF_insts (o hi lo v : Nat) : (wrF s o hi lo v).insts = s.insts := rfl
@[simp] theorem wrF_slotWorld (o hi lo v : Nat) : (wrF s o hi lo v).slotWorld = s.slotWorld := rfl
@[simp] theorem wrF_ledger (o hi lo v : Nat) : (wrF s o hi lo v).ledger = s.ledger := rfl
@[simp] theorem wrF_ledgerSeq (o hi lo v : Nat) : (wrF s o hi lo v).ledgerSeq = s.ledgerSeq := rfl
@[simp] theorem wrF_retiredTiles (o hi lo v : Nat) : (wrF s o hi lo v).retiredTiles = s.retiredTiles := rfl
@[simp] theorem wrF_spoonSeq (o hi lo v : Nat) : (wrF s o hi lo v).spoonSeq = s.spoonSeq := rfl
@[simp] theorem wrF_ringH (o hi lo v : Nat) : (wrF s o hi lo v).ringH = s.ringH := rfl
@[simp] theorem wrF_faultH (o hi lo v : Nat) : (wrF s o hi lo v).faultH = s.faultH := rfl
@[simp] theorem wrF_residH (o hi lo v : Nat) : (wrF s o hi lo v).residH = s.residH := rfl
@[simp] theorem wrF_resids (o hi lo v : Nat) : (wrF s o hi lo v).resids = s.resids := rfl
@[simp] theorem wrF_residSeq (o hi lo v : Nat) : (wrF s o hi lo v).residSeq = s.residSeq := rfl
@[simp] theorem wrF_faults (o hi lo v : Nat) : (wrF s o hi lo v).faults = s.faults := rfl
@[simp] theorem wrF_rebuilds (o hi lo v : Nat) : (wrF s o hi lo v).rebuilds = s.rebuilds := rfl
@[simp] theorem wrF_bist (o hi lo v : Nat) : (wrF s o hi lo v).bist = s.bist := rfl
@[simp] theorem wrF_hk (o hi lo v : Nat) : (wrF s o hi lo v).hk = s.hk := rfl
@[simp] theorem wrF_sec (o hi lo v : Nat) : (wrF s o hi lo v).sec = s.sec := rfl
@[simp] theorem wrF_life (o hi lo v : Nat) : (wrF s o hi lo v).life = s.life := rfl
@[simp] theorem wrF_freeNo (o hi lo v : Nat) : (wrF s o hi lo v).freeNo = s.freeNo := rfl
@[simp] theorem wrF_pending (o hi lo v : Nat) : (wrF s o hi lo v).pending = s.pending := rfl

/-! ### wbit -/

@[simp] theorem wbit_grade (o i : Nat) (b : Bool) : (wbit s o i b).grade = s.grade := rfl
@[simp] theorem wbit_act (o i : Nat) (b : Bool) : (wbit s o i b).act = s.act := rfl
@[simp] theorem wbit_stagedAt (o i : Nat) (b : Bool) : (wbit s o i b).stagedAt = s.stagedAt := rfl
@[simp] theorem wbit_stepLatch (o i : Nat) (b : Bool) : (wbit s o i b).stepLatch = s.stepLatch := rfl
@[simp] theorem wbit_timeLatch (o i : Nat) (b : Bool) : (wbit s o i b).timeLatch = s.timeLatch := rfl
@[simp] theorem wbit_mbx (o i : Nat) (b : Bool) : (wbit s o i b).mbx = s.mbx := rfl
@[simp] theorem wbit_dmaWait (o i : Nat) (b : Bool) : (wbit s o i b).dmaWait = s.dmaWait := rfl
@[simp] theorem wbit_order (o i : Nat) (b : Bool) : (wbit s o i b).order = s.order := rfl
@[simp] theorem wbit_bme0 (o i : Nat) (b : Bool) : (wbit s o i b).bme0 = s.bme0 := rfl
@[simp] theorem wbit_bme1 (o i : Nat) (b : Bool) : (wbit s o i b).bme1 = s.bme1 := rfl
@[simp] theorem wbit_heldDma (o i : Nat) (b : Bool) : (wbit s o i b).heldDma = s.heldDma := rfl
@[simp] theorem wbit_hostMem (o i : Nat) (b : Bool) : (wbit s o i b).hostMem = s.hostMem := rfl
@[simp] theorem wbit_unmasked (o i : Nat) (b : Bool) : (wbit s o i b).unmasked = s.unmasked := rfl
@[simp] theorem wbit_msixPend (o i : Nat) (b : Bool) : (wbit s o i b).msixPend = s.msixPend := rfl
@[simp] theorem wbit_msixSent (o i : Nat) (b : Bool) : (wbit s o i b).msixSent = s.msixSent := rfl
@[simp] theorem wbit_vecCount (o i : Nat) (b : Bool) : (wbit s o i b).vecCount = s.vecCount := rfl
@[simp] theorem wbit_arrays (o i : Nat) (b : Bool) : (wbit s o i b).arrays = s.arrays := rfl
@[simp] theorem wbit_tiles (o i : Nat) (b : Bool) : (wbit s o i b).tiles = s.tiles := rfl
@[simp] theorem wbit_cores (o i : Nat) (b : Bool) : (wbit s o i b).cores = s.cores := rfl
@[simp] theorem wbit_fbWinAt (o i : Nat) (b : Bool) : (wbit s o i b).fbWinAt = s.fbWinAt := rfl
@[simp] theorem wbit_potWinAt (o i : Nat) (b : Bool) : (wbit s o i b).potWinAt = s.potWinAt := rfl
@[simp] theorem wbit_remapNow (o i : Nat) (b : Bool) : (wbit s o i b).remapNow = s.remapNow := rfl
@[simp] theorem wbit_store (o i : Nat) (b : Bool) : (wbit s o i b).store = s.store := rfl
@[simp] theorem wbit_storeBad (o i : Nat) (b : Bool) : (wbit s o i b).storeBad = s.storeBad := rfl
@[simp] theorem wbit_stackMem (o i : Nat) (b : Bool) : (wbit s o i b).stackMem = s.stackMem := rfl
@[simp] theorem wbit_meshQ (o i : Nat) (b : Bool) : (wbit s o i b).meshQ = s.meshQ := rfl
@[simp] theorem wbit_meshOut (o i : Nat) (b : Bool) : (wbit s o i b).meshOut = s.meshOut := rfl
@[simp] theorem wbit_stackQ (o i : Nat) (b : Bool) : (wbit s o i b).stackQ = s.stackQ := rfl
@[simp] theorem wbit_pot (o i : Nat) (b : Bool) : (wbit s o i b).pot = s.pot := rfl
@[simp] theorem wbit_fab (o i : Nat) (b : Bool) : (wbit s o i b).fab = s.fab := rfl
@[simp] theorem wbit_rackTime (o i : Nat) (b : Bool) : (wbit s o i b).rackTime = s.rackTime := rfl
@[simp] theorem wbit_ifpOut (o i : Nat) (b : Bool) : (wbit s o i b).ifpOut = s.ifpOut := rfl
@[simp] theorem wbit_ladle (o i : Nat) (b : Bool) : (wbit s o i b).ladle = s.ladle := rfl
@[simp] theorem wbit_insts (o i : Nat) (b : Bool) : (wbit s o i b).insts = s.insts := rfl
@[simp] theorem wbit_slotWorld (o i : Nat) (b : Bool) : (wbit s o i b).slotWorld = s.slotWorld := rfl
@[simp] theorem wbit_ledger (o i : Nat) (b : Bool) : (wbit s o i b).ledger = s.ledger := rfl
@[simp] theorem wbit_ledgerSeq (o i : Nat) (b : Bool) : (wbit s o i b).ledgerSeq = s.ledgerSeq := rfl
@[simp] theorem wbit_retiredTiles (o i : Nat) (b : Bool) : (wbit s o i b).retiredTiles = s.retiredTiles := rfl
@[simp] theorem wbit_spoonSeq (o i : Nat) (b : Bool) : (wbit s o i b).spoonSeq = s.spoonSeq := rfl
@[simp] theorem wbit_ringH (o i : Nat) (b : Bool) : (wbit s o i b).ringH = s.ringH := rfl
@[simp] theorem wbit_faultH (o i : Nat) (b : Bool) : (wbit s o i b).faultH = s.faultH := rfl
@[simp] theorem wbit_residH (o i : Nat) (b : Bool) : (wbit s o i b).residH = s.residH := rfl
@[simp] theorem wbit_resids (o i : Nat) (b : Bool) : (wbit s o i b).resids = s.resids := rfl
@[simp] theorem wbit_residSeq (o i : Nat) (b : Bool) : (wbit s o i b).residSeq = s.residSeq := rfl
@[simp] theorem wbit_faults (o i : Nat) (b : Bool) : (wbit s o i b).faults = s.faults := rfl
@[simp] theorem wbit_rebuilds (o i : Nat) (b : Bool) : (wbit s o i b).rebuilds = s.rebuilds := rfl
@[simp] theorem wbit_bist (o i : Nat) (b : Bool) : (wbit s o i b).bist = s.bist := rfl
@[simp] theorem wbit_hk (o i : Nat) (b : Bool) : (wbit s o i b).hk = s.hk := rfl
@[simp] theorem wbit_sec (o i : Nat) (b : Bool) : (wbit s o i b).sec = s.sec := rfl
@[simp] theorem wbit_life (o i : Nat) (b : Bool) : (wbit s o i b).life = s.life := rfl
@[simp] theorem wbit_freeNo (o i : Nat) (b : Bool) : (wbit s o i b).freeNo = s.freeNo := rfl
@[simp] theorem wbit_pending (o i : Nat) (b : Bool) : (wbit s o i b).pending = s.pending := rfl

/-! ### incHold -/

@[simp] theorem incHold_grade (o n k : Nat) : (incHold s o n k).grade = s.grade := rfl
@[simp] theorem incHold_act (o n k : Nat) : (incHold s o n k).act = s.act := rfl
@[simp] theorem incHold_stagedAt (o n k : Nat) : (incHold s o n k).stagedAt = s.stagedAt := rfl
@[simp] theorem incHold_stepLatch (o n k : Nat) : (incHold s o n k).stepLatch = s.stepLatch := rfl
@[simp] theorem incHold_timeLatch (o n k : Nat) : (incHold s o n k).timeLatch = s.timeLatch := rfl
@[simp] theorem incHold_mbx (o n k : Nat) : (incHold s o n k).mbx = s.mbx := rfl
@[simp] theorem incHold_dmaWait (o n k : Nat) : (incHold s o n k).dmaWait = s.dmaWait := rfl
@[simp] theorem incHold_order (o n k : Nat) : (incHold s o n k).order = s.order := rfl
@[simp] theorem incHold_bme0 (o n k : Nat) : (incHold s o n k).bme0 = s.bme0 := rfl
@[simp] theorem incHold_bme1 (o n k : Nat) : (incHold s o n k).bme1 = s.bme1 := rfl
@[simp] theorem incHold_heldDma (o n k : Nat) : (incHold s o n k).heldDma = s.heldDma := rfl
@[simp] theorem incHold_hostMem (o n k : Nat) : (incHold s o n k).hostMem = s.hostMem := rfl
@[simp] theorem incHold_unmasked (o n k : Nat) : (incHold s o n k).unmasked = s.unmasked := rfl
@[simp] theorem incHold_msixPend (o n k : Nat) : (incHold s o n k).msixPend = s.msixPend := rfl
@[simp] theorem incHold_msixSent (o n k : Nat) : (incHold s o n k).msixSent = s.msixSent := rfl
@[simp] theorem incHold_vecCount (o n k : Nat) : (incHold s o n k).vecCount = s.vecCount := rfl
@[simp] theorem incHold_arrays (o n k : Nat) : (incHold s o n k).arrays = s.arrays := rfl
@[simp] theorem incHold_tiles (o n k : Nat) : (incHold s o n k).tiles = s.tiles := rfl
@[simp] theorem incHold_cores (o n k : Nat) : (incHold s o n k).cores = s.cores := rfl
@[simp] theorem incHold_fbWinAt (o n k : Nat) : (incHold s o n k).fbWinAt = s.fbWinAt := rfl
@[simp] theorem incHold_potWinAt (o n k : Nat) : (incHold s o n k).potWinAt = s.potWinAt := rfl
@[simp] theorem incHold_remapNow (o n k : Nat) : (incHold s o n k).remapNow = s.remapNow := rfl
@[simp] theorem incHold_store (o n k : Nat) : (incHold s o n k).store = s.store := rfl
@[simp] theorem incHold_storeBad (o n k : Nat) : (incHold s o n k).storeBad = s.storeBad := rfl
@[simp] theorem incHold_stackMem (o n k : Nat) : (incHold s o n k).stackMem = s.stackMem := rfl
@[simp] theorem incHold_meshQ (o n k : Nat) : (incHold s o n k).meshQ = s.meshQ := rfl
@[simp] theorem incHold_meshOut (o n k : Nat) : (incHold s o n k).meshOut = s.meshOut := rfl
@[simp] theorem incHold_stackQ (o n k : Nat) : (incHold s o n k).stackQ = s.stackQ := rfl
@[simp] theorem incHold_pot (o n k : Nat) : (incHold s o n k).pot = s.pot := rfl
@[simp] theorem incHold_fab (o n k : Nat) : (incHold s o n k).fab = s.fab := rfl
@[simp] theorem incHold_rackTime (o n k : Nat) : (incHold s o n k).rackTime = s.rackTime := rfl
@[simp] theorem incHold_ifpOut (o n k : Nat) : (incHold s o n k).ifpOut = s.ifpOut := rfl
@[simp] theorem incHold_ladle (o n k : Nat) : (incHold s o n k).ladle = s.ladle := rfl
@[simp] theorem incHold_insts (o n k : Nat) : (incHold s o n k).insts = s.insts := rfl
@[simp] theorem incHold_slotWorld (o n k : Nat) : (incHold s o n k).slotWorld = s.slotWorld := rfl
@[simp] theorem incHold_ledger (o n k : Nat) : (incHold s o n k).ledger = s.ledger := rfl
@[simp] theorem incHold_ledgerSeq (o n k : Nat) : (incHold s o n k).ledgerSeq = s.ledgerSeq := rfl
@[simp] theorem incHold_retiredTiles (o n k : Nat) : (incHold s o n k).retiredTiles = s.retiredTiles := rfl
@[simp] theorem incHold_spoonSeq (o n k : Nat) : (incHold s o n k).spoonSeq = s.spoonSeq := rfl
@[simp] theorem incHold_ringH (o n k : Nat) : (incHold s o n k).ringH = s.ringH := rfl
@[simp] theorem incHold_faultH (o n k : Nat) : (incHold s o n k).faultH = s.faultH := rfl
@[simp] theorem incHold_residH (o n k : Nat) : (incHold s o n k).residH = s.residH := rfl
@[simp] theorem incHold_resids (o n k : Nat) : (incHold s o n k).resids = s.resids := rfl
@[simp] theorem incHold_residSeq (o n k : Nat) : (incHold s o n k).residSeq = s.residSeq := rfl
@[simp] theorem incHold_faults (o n k : Nat) : (incHold s o n k).faults = s.faults := rfl
@[simp] theorem incHold_rebuilds (o n k : Nat) : (incHold s o n k).rebuilds = s.rebuilds := rfl
@[simp] theorem incHold_bist (o n k : Nat) : (incHold s o n k).bist = s.bist := rfl
@[simp] theorem incHold_hk (o n k : Nat) : (incHold s o n k).hk = s.hk := rfl
@[simp] theorem incHold_sec (o n k : Nat) : (incHold s o n k).sec = s.sec := rfl
@[simp] theorem incHold_life (o n k : Nat) : (incHold s o n k).life = s.life := rfl
@[simp] theorem incHold_freeNo (o n k : Nat) : (incHold s o n k).freeNo = s.freeNo := rfl
@[simp] theorem incHold_pending (o n k : Nat) : (incHold s o n k).pending = s.pending := rfl

/-! ### incWrap -/

@[simp] theorem incWrap_grade (o k : Nat) : (incWrap s o k).grade = s.grade := rfl
@[simp] theorem incWrap_act (o k : Nat) : (incWrap s o k).act = s.act := rfl
@[simp] theorem incWrap_stagedAt (o k : Nat) : (incWrap s o k).stagedAt = s.stagedAt := rfl
@[simp] theorem incWrap_stepLatch (o k : Nat) : (incWrap s o k).stepLatch = s.stepLatch := rfl
@[simp] theorem incWrap_timeLatch (o k : Nat) : (incWrap s o k).timeLatch = s.timeLatch := rfl
@[simp] theorem incWrap_mbx (o k : Nat) : (incWrap s o k).mbx = s.mbx := rfl
@[simp] theorem incWrap_dmaWait (o k : Nat) : (incWrap s o k).dmaWait = s.dmaWait := rfl
@[simp] theorem incWrap_order (o k : Nat) : (incWrap s o k).order = s.order := rfl
@[simp] theorem incWrap_bme0 (o k : Nat) : (incWrap s o k).bme0 = s.bme0 := rfl
@[simp] theorem incWrap_bme1 (o k : Nat) : (incWrap s o k).bme1 = s.bme1 := rfl
@[simp] theorem incWrap_heldDma (o k : Nat) : (incWrap s o k).heldDma = s.heldDma := rfl
@[simp] theorem incWrap_hostMem (o k : Nat) : (incWrap s o k).hostMem = s.hostMem := rfl
@[simp] theorem incWrap_unmasked (o k : Nat) : (incWrap s o k).unmasked = s.unmasked := rfl
@[simp] theorem incWrap_msixPend (o k : Nat) : (incWrap s o k).msixPend = s.msixPend := rfl
@[simp] theorem incWrap_msixSent (o k : Nat) : (incWrap s o k).msixSent = s.msixSent := rfl
@[simp] theorem incWrap_vecCount (o k : Nat) : (incWrap s o k).vecCount = s.vecCount := rfl
@[simp] theorem incWrap_arrays (o k : Nat) : (incWrap s o k).arrays = s.arrays := rfl
@[simp] theorem incWrap_tiles (o k : Nat) : (incWrap s o k).tiles = s.tiles := rfl
@[simp] theorem incWrap_cores (o k : Nat) : (incWrap s o k).cores = s.cores := rfl
@[simp] theorem incWrap_fbWinAt (o k : Nat) : (incWrap s o k).fbWinAt = s.fbWinAt := rfl
@[simp] theorem incWrap_potWinAt (o k : Nat) : (incWrap s o k).potWinAt = s.potWinAt := rfl
@[simp] theorem incWrap_remapNow (o k : Nat) : (incWrap s o k).remapNow = s.remapNow := rfl
@[simp] theorem incWrap_store (o k : Nat) : (incWrap s o k).store = s.store := rfl
@[simp] theorem incWrap_storeBad (o k : Nat) : (incWrap s o k).storeBad = s.storeBad := rfl
@[simp] theorem incWrap_stackMem (o k : Nat) : (incWrap s o k).stackMem = s.stackMem := rfl
@[simp] theorem incWrap_meshQ (o k : Nat) : (incWrap s o k).meshQ = s.meshQ := rfl
@[simp] theorem incWrap_meshOut (o k : Nat) : (incWrap s o k).meshOut = s.meshOut := rfl
@[simp] theorem incWrap_stackQ (o k : Nat) : (incWrap s o k).stackQ = s.stackQ := rfl
@[simp] theorem incWrap_pot (o k : Nat) : (incWrap s o k).pot = s.pot := rfl
@[simp] theorem incWrap_fab (o k : Nat) : (incWrap s o k).fab = s.fab := rfl
@[simp] theorem incWrap_rackTime (o k : Nat) : (incWrap s o k).rackTime = s.rackTime := rfl
@[simp] theorem incWrap_ifpOut (o k : Nat) : (incWrap s o k).ifpOut = s.ifpOut := rfl
@[simp] theorem incWrap_ladle (o k : Nat) : (incWrap s o k).ladle = s.ladle := rfl
@[simp] theorem incWrap_insts (o k : Nat) : (incWrap s o k).insts = s.insts := rfl
@[simp] theorem incWrap_slotWorld (o k : Nat) : (incWrap s o k).slotWorld = s.slotWorld := rfl
@[simp] theorem incWrap_ledger (o k : Nat) : (incWrap s o k).ledger = s.ledger := rfl
@[simp] theorem incWrap_ledgerSeq (o k : Nat) : (incWrap s o k).ledgerSeq = s.ledgerSeq := rfl
@[simp] theorem incWrap_retiredTiles (o k : Nat) : (incWrap s o k).retiredTiles = s.retiredTiles := rfl
@[simp] theorem incWrap_spoonSeq (o k : Nat) : (incWrap s o k).spoonSeq = s.spoonSeq := rfl
@[simp] theorem incWrap_ringH (o k : Nat) : (incWrap s o k).ringH = s.ringH := rfl
@[simp] theorem incWrap_faultH (o k : Nat) : (incWrap s o k).faultH = s.faultH := rfl
@[simp] theorem incWrap_residH (o k : Nat) : (incWrap s o k).residH = s.residH := rfl
@[simp] theorem incWrap_resids (o k : Nat) : (incWrap s o k).resids = s.resids := rfl
@[simp] theorem incWrap_residSeq (o k : Nat) : (incWrap s o k).residSeq = s.residSeq := rfl
@[simp] theorem incWrap_faults (o k : Nat) : (incWrap s o k).faults = s.faults := rfl
@[simp] theorem incWrap_rebuilds (o k : Nat) : (incWrap s o k).rebuilds = s.rebuilds := rfl
@[simp] theorem incWrap_bist (o k : Nat) : (incWrap s o k).bist = s.bist := rfl
@[simp] theorem incWrap_hk (o k : Nat) : (incWrap s o k).hk = s.hk := rfl
@[simp] theorem incWrap_sec (o k : Nat) : (incWrap s o k).sec = s.sec := rfl
@[simp] theorem incWrap_life (o k : Nat) : (incWrap s o k).life = s.life := rfl
@[simp] theorem incWrap_freeNo (o k : Nat) : (incWrap s o k).freeNo = s.freeNo := rfl
@[simp] theorem incWrap_pending (o k : Nat) : (incWrap s o k).pending = s.pending := rfl

/-! ### wrBoth -/

@[simp] theorem wrBoth_grade (o : Nat) (v : W32) : (wrBoth s o v).grade = s.grade := rfl
@[simp] theorem wrBoth_stagedAt (o : Nat) (v : W32) : (wrBoth s o v).stagedAt = s.stagedAt := rfl
@[simp] theorem wrBoth_stepLatch (o : Nat) (v : W32) : (wrBoth s o v).stepLatch = s.stepLatch := rfl
@[simp] theorem wrBoth_timeLatch (o : Nat) (v : W32) : (wrBoth s o v).timeLatch = s.timeLatch := rfl
@[simp] theorem wrBoth_mbx (o : Nat) (v : W32) : (wrBoth s o v).mbx = s.mbx := rfl
@[simp] theorem wrBoth_dmaWait (o : Nat) (v : W32) : (wrBoth s o v).dmaWait = s.dmaWait := rfl
@[simp] theorem wrBoth_order (o : Nat) (v : W32) : (wrBoth s o v).order = s.order := rfl
@[simp] theorem wrBoth_bme0 (o : Nat) (v : W32) : (wrBoth s o v).bme0 = s.bme0 := rfl
@[simp] theorem wrBoth_bme1 (o : Nat) (v : W32) : (wrBoth s o v).bme1 = s.bme1 := rfl
@[simp] theorem wrBoth_heldDma (o : Nat) (v : W32) : (wrBoth s o v).heldDma = s.heldDma := rfl
@[simp] theorem wrBoth_hostMem (o : Nat) (v : W32) : (wrBoth s o v).hostMem = s.hostMem := rfl
@[simp] theorem wrBoth_unmasked (o : Nat) (v : W32) : (wrBoth s o v).unmasked = s.unmasked := rfl
@[simp] theorem wrBoth_msixPend (o : Nat) (v : W32) : (wrBoth s o v).msixPend = s.msixPend := rfl
@[simp] theorem wrBoth_msixSent (o : Nat) (v : W32) : (wrBoth s o v).msixSent = s.msixSent := rfl
@[simp] theorem wrBoth_vecCount (o : Nat) (v : W32) : (wrBoth s o v).vecCount = s.vecCount := rfl
@[simp] theorem wrBoth_arrays (o : Nat) (v : W32) : (wrBoth s o v).arrays = s.arrays := rfl
@[simp] theorem wrBoth_tiles (o : Nat) (v : W32) : (wrBoth s o v).tiles = s.tiles := rfl
@[simp] theorem wrBoth_cores (o : Nat) (v : W32) : (wrBoth s o v).cores = s.cores := rfl
@[simp] theorem wrBoth_fbWinAt (o : Nat) (v : W32) : (wrBoth s o v).fbWinAt = s.fbWinAt := rfl
@[simp] theorem wrBoth_potWinAt (o : Nat) (v : W32) : (wrBoth s o v).potWinAt = s.potWinAt := rfl
@[simp] theorem wrBoth_remapNow (o : Nat) (v : W32) : (wrBoth s o v).remapNow = s.remapNow := rfl
@[simp] theorem wrBoth_store (o : Nat) (v : W32) : (wrBoth s o v).store = s.store := rfl
@[simp] theorem wrBoth_storeBad (o : Nat) (v : W32) : (wrBoth s o v).storeBad = s.storeBad := rfl
@[simp] theorem wrBoth_stackMem (o : Nat) (v : W32) : (wrBoth s o v).stackMem = s.stackMem := rfl
@[simp] theorem wrBoth_meshQ (o : Nat) (v : W32) : (wrBoth s o v).meshQ = s.meshQ := rfl
@[simp] theorem wrBoth_meshOut (o : Nat) (v : W32) : (wrBoth s o v).meshOut = s.meshOut := rfl
@[simp] theorem wrBoth_stackQ (o : Nat) (v : W32) : (wrBoth s o v).stackQ = s.stackQ := rfl
@[simp] theorem wrBoth_pot (o : Nat) (v : W32) : (wrBoth s o v).pot = s.pot := rfl
@[simp] theorem wrBoth_fab (o : Nat) (v : W32) : (wrBoth s o v).fab = s.fab := rfl
@[simp] theorem wrBoth_rackTime (o : Nat) (v : W32) : (wrBoth s o v).rackTime = s.rackTime := rfl
@[simp] theorem wrBoth_ifpOut (o : Nat) (v : W32) : (wrBoth s o v).ifpOut = s.ifpOut := rfl
@[simp] theorem wrBoth_ladle (o : Nat) (v : W32) : (wrBoth s o v).ladle = s.ladle := rfl
@[simp] theorem wrBoth_insts (o : Nat) (v : W32) : (wrBoth s o v).insts = s.insts := rfl
@[simp] theorem wrBoth_slotWorld (o : Nat) (v : W32) : (wrBoth s o v).slotWorld = s.slotWorld := rfl
@[simp] theorem wrBoth_ledger (o : Nat) (v : W32) : (wrBoth s o v).ledger = s.ledger := rfl
@[simp] theorem wrBoth_ledgerSeq (o : Nat) (v : W32) : (wrBoth s o v).ledgerSeq = s.ledgerSeq := rfl
@[simp] theorem wrBoth_retiredTiles (o : Nat) (v : W32) : (wrBoth s o v).retiredTiles = s.retiredTiles := rfl
@[simp] theorem wrBoth_spoonSeq (o : Nat) (v : W32) : (wrBoth s o v).spoonSeq = s.spoonSeq := rfl
@[simp] theorem wrBoth_ringH (o : Nat) (v : W32) : (wrBoth s o v).ringH = s.ringH := rfl
@[simp] theorem wrBoth_faultH (o : Nat) (v : W32) : (wrBoth s o v).faultH = s.faultH := rfl
@[simp] theorem wrBoth_residH (o : Nat) (v : W32) : (wrBoth s o v).residH = s.residH := rfl
@[simp] theorem wrBoth_resids (o : Nat) (v : W32) : (wrBoth s o v).resids = s.resids := rfl
@[simp] theorem wrBoth_residSeq (o : Nat) (v : W32) : (wrBoth s o v).residSeq = s.residSeq := rfl
@[simp] theorem wrBoth_faults (o : Nat) (v : W32) : (wrBoth s o v).faults = s.faults := rfl
@[simp] theorem wrBoth_rebuilds (o : Nat) (v : W32) : (wrBoth s o v).rebuilds = s.rebuilds := rfl
@[simp] theorem wrBoth_bist (o : Nat) (v : W32) : (wrBoth s o v).bist = s.bist := rfl
@[simp] theorem wrBoth_hk (o : Nat) (v : W32) : (wrBoth s o v).hk = s.hk := rfl
@[simp] theorem wrBoth_sec (o : Nat) (v : W32) : (wrBoth s o v).sec = s.sec := rfl
@[simp] theorem wrBoth_life (o : Nat) (v : W32) : (wrBoth s o v).life = s.life := rfl
@[simp] theorem wrBoth_freeNo (o : Nat) (v : W32) : (wrBoth s o v).freeNo = s.freeNo := rfl
@[simp] theorem wrBoth_pending (o : Nat) (v : W32) : (wrBoth s o v).pending = s.pending := rfl

/-! ### setMbx -/

@[simp] theorem setMbx_grade (m : MbxId) (b : Mailbox) : (setMbx s m b).grade = s.grade := rfl
@[simp] theorem setMbx_cw (m : MbxId) (b : Mailbox) : (setMbx s m b).cw = s.cw := rfl
@[simp] theorem setMbx_act (m : MbxId) (b : Mailbox) : (setMbx s m b).act = s.act := rfl
@[simp] theorem setMbx_stagedAt (m : MbxId) (b : Mailbox) : (setMbx s m b).stagedAt = s.stagedAt := rfl
@[simp] theorem setMbx_stepLatch (m : MbxId) (b : Mailbox) : (setMbx s m b).stepLatch = s.stepLatch := rfl
@[simp] theorem setMbx_timeLatch (m : MbxId) (b : Mailbox) : (setMbx s m b).timeLatch = s.timeLatch := rfl
@[simp] theorem setMbx_dmaWait (m : MbxId) (b : Mailbox) : (setMbx s m b).dmaWait = s.dmaWait := rfl
@[simp] theorem setMbx_order (m : MbxId) (b : Mailbox) : (setMbx s m b).order = s.order := rfl
@[simp] theorem setMbx_bme0 (m : MbxId) (b : Mailbox) : (setMbx s m b).bme0 = s.bme0 := rfl
@[simp] theorem setMbx_bme1 (m : MbxId) (b : Mailbox) : (setMbx s m b).bme1 = s.bme1 := rfl
@[simp] theorem setMbx_heldDma (m : MbxId) (b : Mailbox) : (setMbx s m b).heldDma = s.heldDma := rfl
@[simp] theorem setMbx_hostMem (m : MbxId) (b : Mailbox) : (setMbx s m b).hostMem = s.hostMem := rfl
@[simp] theorem setMbx_unmasked (m : MbxId) (b : Mailbox) : (setMbx s m b).unmasked = s.unmasked := rfl
@[simp] theorem setMbx_msixPend (m : MbxId) (b : Mailbox) : (setMbx s m b).msixPend = s.msixPend := rfl
@[simp] theorem setMbx_msixSent (m : MbxId) (b : Mailbox) : (setMbx s m b).msixSent = s.msixSent := rfl
@[simp] theorem setMbx_vecCount (m : MbxId) (b : Mailbox) : (setMbx s m b).vecCount = s.vecCount := rfl
@[simp] theorem setMbx_arrays (m : MbxId) (b : Mailbox) : (setMbx s m b).arrays = s.arrays := rfl
@[simp] theorem setMbx_tiles (m : MbxId) (b : Mailbox) : (setMbx s m b).tiles = s.tiles := rfl
@[simp] theorem setMbx_cores (m : MbxId) (b : Mailbox) : (setMbx s m b).cores = s.cores := rfl
@[simp] theorem setMbx_fbWinAt (m : MbxId) (b : Mailbox) : (setMbx s m b).fbWinAt = s.fbWinAt := rfl
@[simp] theorem setMbx_potWinAt (m : MbxId) (b : Mailbox) : (setMbx s m b).potWinAt = s.potWinAt := rfl
@[simp] theorem setMbx_remapNow (m : MbxId) (b : Mailbox) : (setMbx s m b).remapNow = s.remapNow := rfl
@[simp] theorem setMbx_store (m : MbxId) (b : Mailbox) : (setMbx s m b).store = s.store := rfl
@[simp] theorem setMbx_storeBad (m : MbxId) (b : Mailbox) : (setMbx s m b).storeBad = s.storeBad := rfl
@[simp] theorem setMbx_stackMem (m : MbxId) (b : Mailbox) : (setMbx s m b).stackMem = s.stackMem := rfl
@[simp] theorem setMbx_meshQ (m : MbxId) (b : Mailbox) : (setMbx s m b).meshQ = s.meshQ := rfl
@[simp] theorem setMbx_meshOut (m : MbxId) (b : Mailbox) : (setMbx s m b).meshOut = s.meshOut := rfl
@[simp] theorem setMbx_stackQ (m : MbxId) (b : Mailbox) : (setMbx s m b).stackQ = s.stackQ := rfl
@[simp] theorem setMbx_pot (m : MbxId) (b : Mailbox) : (setMbx s m b).pot = s.pot := rfl
@[simp] theorem setMbx_fab (m : MbxId) (b : Mailbox) : (setMbx s m b).fab = s.fab := rfl
@[simp] theorem setMbx_rackTime (m : MbxId) (b : Mailbox) : (setMbx s m b).rackTime = s.rackTime := rfl
@[simp] theorem setMbx_ifpOut (m : MbxId) (b : Mailbox) : (setMbx s m b).ifpOut = s.ifpOut := rfl
@[simp] theorem setMbx_ladle (m : MbxId) (b : Mailbox) : (setMbx s m b).ladle = s.ladle := rfl
@[simp] theorem setMbx_insts (m : MbxId) (b : Mailbox) : (setMbx s m b).insts = s.insts := rfl
@[simp] theorem setMbx_slotWorld (m : MbxId) (b : Mailbox) : (setMbx s m b).slotWorld = s.slotWorld := rfl
@[simp] theorem setMbx_ledger (m : MbxId) (b : Mailbox) : (setMbx s m b).ledger = s.ledger := rfl
@[simp] theorem setMbx_ledgerSeq (m : MbxId) (b : Mailbox) : (setMbx s m b).ledgerSeq = s.ledgerSeq := rfl
@[simp] theorem setMbx_retiredTiles (m : MbxId) (b : Mailbox) : (setMbx s m b).retiredTiles = s.retiredTiles := rfl
@[simp] theorem setMbx_spoonSeq (m : MbxId) (b : Mailbox) : (setMbx s m b).spoonSeq = s.spoonSeq := rfl
@[simp] theorem setMbx_ringH (m : MbxId) (b : Mailbox) : (setMbx s m b).ringH = s.ringH := rfl
@[simp] theorem setMbx_faultH (m : MbxId) (b : Mailbox) : (setMbx s m b).faultH = s.faultH := rfl
@[simp] theorem setMbx_residH (m : MbxId) (b : Mailbox) : (setMbx s m b).residH = s.residH := rfl
@[simp] theorem setMbx_resids (m : MbxId) (b : Mailbox) : (setMbx s m b).resids = s.resids := rfl
@[simp] theorem setMbx_residSeq (m : MbxId) (b : Mailbox) : (setMbx s m b).residSeq = s.residSeq := rfl
@[simp] theorem setMbx_faults (m : MbxId) (b : Mailbox) : (setMbx s m b).faults = s.faults := rfl
@[simp] theorem setMbx_rebuilds (m : MbxId) (b : Mailbox) : (setMbx s m b).rebuilds = s.rebuilds := rfl
@[simp] theorem setMbx_bist (m : MbxId) (b : Mailbox) : (setMbx s m b).bist = s.bist := rfl
@[simp] theorem setMbx_hk (m : MbxId) (b : Mailbox) : (setMbx s m b).hk = s.hk := rfl
@[simp] theorem setMbx_sec (m : MbxId) (b : Mailbox) : (setMbx s m b).sec = s.sec := rfl
@[simp] theorem setMbx_life (m : MbxId) (b : Mailbox) : (setMbx s m b).life = s.life := rfl
@[simp] theorem setMbx_freeNo (m : MbxId) (b : Mailbox) : (setMbx s m b).freeNo = s.freeNo := rfl
@[simp] theorem setMbx_pending (m : MbxId) (b : Mailbox) : (setMbx s m b).pending = s.pending := rfl

/-! ### setTile -/

@[simp] theorem setTile_grade (k : Nat) (x : TileSt) : (setTile s k x).grade = s.grade := rfl
@[simp] theorem setTile_cw (k : Nat) (x : TileSt) : (setTile s k x).cw = s.cw := rfl
@[simp] theorem setTile_act (k : Nat) (x : TileSt) : (setTile s k x).act = s.act := rfl
@[simp] theorem setTile_stagedAt (k : Nat) (x : TileSt) : (setTile s k x).stagedAt = s.stagedAt := rfl
@[simp] theorem setTile_stepLatch (k : Nat) (x : TileSt) : (setTile s k x).stepLatch = s.stepLatch := rfl
@[simp] theorem setTile_timeLatch (k : Nat) (x : TileSt) : (setTile s k x).timeLatch = s.timeLatch := rfl
@[simp] theorem setTile_mbx (k : Nat) (x : TileSt) : (setTile s k x).mbx = s.mbx := rfl
@[simp] theorem setTile_dmaWait (k : Nat) (x : TileSt) : (setTile s k x).dmaWait = s.dmaWait := rfl
@[simp] theorem setTile_order (k : Nat) (x : TileSt) : (setTile s k x).order = s.order := rfl
@[simp] theorem setTile_bme0 (k : Nat) (x : TileSt) : (setTile s k x).bme0 = s.bme0 := rfl
@[simp] theorem setTile_bme1 (k : Nat) (x : TileSt) : (setTile s k x).bme1 = s.bme1 := rfl
@[simp] theorem setTile_heldDma (k : Nat) (x : TileSt) : (setTile s k x).heldDma = s.heldDma := rfl
@[simp] theorem setTile_hostMem (k : Nat) (x : TileSt) : (setTile s k x).hostMem = s.hostMem := rfl
@[simp] theorem setTile_unmasked (k : Nat) (x : TileSt) : (setTile s k x).unmasked = s.unmasked := rfl
@[simp] theorem setTile_msixPend (k : Nat) (x : TileSt) : (setTile s k x).msixPend = s.msixPend := rfl
@[simp] theorem setTile_msixSent (k : Nat) (x : TileSt) : (setTile s k x).msixSent = s.msixSent := rfl
@[simp] theorem setTile_vecCount (k : Nat) (x : TileSt) : (setTile s k x).vecCount = s.vecCount := rfl
@[simp] theorem setTile_arrays (k : Nat) (x : TileSt) : (setTile s k x).arrays = s.arrays := rfl
@[simp] theorem setTile_cores (k : Nat) (x : TileSt) : (setTile s k x).cores = s.cores := rfl
@[simp] theorem setTile_fbWinAt (k : Nat) (x : TileSt) : (setTile s k x).fbWinAt = s.fbWinAt := rfl
@[simp] theorem setTile_potWinAt (k : Nat) (x : TileSt) : (setTile s k x).potWinAt = s.potWinAt := rfl
@[simp] theorem setTile_remapNow (k : Nat) (x : TileSt) : (setTile s k x).remapNow = s.remapNow := rfl
@[simp] theorem setTile_store (k : Nat) (x : TileSt) : (setTile s k x).store = s.store := rfl
@[simp] theorem setTile_storeBad (k : Nat) (x : TileSt) : (setTile s k x).storeBad = s.storeBad := rfl
@[simp] theorem setTile_stackMem (k : Nat) (x : TileSt) : (setTile s k x).stackMem = s.stackMem := rfl
@[simp] theorem setTile_meshQ (k : Nat) (x : TileSt) : (setTile s k x).meshQ = s.meshQ := rfl
@[simp] theorem setTile_meshOut (k : Nat) (x : TileSt) : (setTile s k x).meshOut = s.meshOut := rfl
@[simp] theorem setTile_stackQ (k : Nat) (x : TileSt) : (setTile s k x).stackQ = s.stackQ := rfl
@[simp] theorem setTile_pot (k : Nat) (x : TileSt) : (setTile s k x).pot = s.pot := rfl
@[simp] theorem setTile_fab (k : Nat) (x : TileSt) : (setTile s k x).fab = s.fab := rfl
@[simp] theorem setTile_rackTime (k : Nat) (x : TileSt) : (setTile s k x).rackTime = s.rackTime := rfl
@[simp] theorem setTile_ifpOut (k : Nat) (x : TileSt) : (setTile s k x).ifpOut = s.ifpOut := rfl
@[simp] theorem setTile_ladle (k : Nat) (x : TileSt) : (setTile s k x).ladle = s.ladle := rfl
@[simp] theorem setTile_insts (k : Nat) (x : TileSt) : (setTile s k x).insts = s.insts := rfl
@[simp] theorem setTile_slotWorld (k : Nat) (x : TileSt) : (setTile s k x).slotWorld = s.slotWorld := rfl
@[simp] theorem setTile_ledger (k : Nat) (x : TileSt) : (setTile s k x).ledger = s.ledger := rfl
@[simp] theorem setTile_ledgerSeq (k : Nat) (x : TileSt) : (setTile s k x).ledgerSeq = s.ledgerSeq := rfl
@[simp] theorem setTile_retiredTiles (k : Nat) (x : TileSt) : (setTile s k x).retiredTiles = s.retiredTiles := rfl
@[simp] theorem setTile_spoonSeq (k : Nat) (x : TileSt) : (setTile s k x).spoonSeq = s.spoonSeq := rfl
@[simp] theorem setTile_ringH (k : Nat) (x : TileSt) : (setTile s k x).ringH = s.ringH := rfl
@[simp] theorem setTile_faultH (k : Nat) (x : TileSt) : (setTile s k x).faultH = s.faultH := rfl
@[simp] theorem setTile_residH (k : Nat) (x : TileSt) : (setTile s k x).residH = s.residH := rfl
@[simp] theorem setTile_resids (k : Nat) (x : TileSt) : (setTile s k x).resids = s.resids := rfl
@[simp] theorem setTile_residSeq (k : Nat) (x : TileSt) : (setTile s k x).residSeq = s.residSeq := rfl
@[simp] theorem setTile_faults (k : Nat) (x : TileSt) : (setTile s k x).faults = s.faults := rfl
@[simp] theorem setTile_rebuilds (k : Nat) (x : TileSt) : (setTile s k x).rebuilds = s.rebuilds := rfl
@[simp] theorem setTile_bist (k : Nat) (x : TileSt) : (setTile s k x).bist = s.bist := rfl
@[simp] theorem setTile_hk (k : Nat) (x : TileSt) : (setTile s k x).hk = s.hk := rfl
@[simp] theorem setTile_sec (k : Nat) (x : TileSt) : (setTile s k x).sec = s.sec := rfl
@[simp] theorem setTile_life (k : Nat) (x : TileSt) : (setTile s k x).life = s.life := rfl
@[simp] theorem setTile_freeNo (k : Nat) (x : TileSt) : (setTile s k x).freeNo = s.freeNo := rfl
@[simp] theorem setTile_pending (k : Nat) (x : TileSt) : (setTile s k x).pending = s.pending := rfl

/-! ### modTile -/

@[simp] theorem modTile_grade (k : Nat) (f : TileSt → TileSt) : (modTile s k f).grade = s.grade := rfl
@[simp] theorem modTile_cw (k : Nat) (f : TileSt → TileSt) : (modTile s k f).cw = s.cw := rfl
@[simp] theorem modTile_act (k : Nat) (f : TileSt → TileSt) : (modTile s k f).act = s.act := rfl
@[simp] theorem modTile_stagedAt (k : Nat) (f : TileSt → TileSt) : (modTile s k f).stagedAt = s.stagedAt := rfl
@[simp] theorem modTile_stepLatch (k : Nat) (f : TileSt → TileSt) : (modTile s k f).stepLatch = s.stepLatch := rfl
@[simp] theorem modTile_timeLatch (k : Nat) (f : TileSt → TileSt) : (modTile s k f).timeLatch = s.timeLatch := rfl
@[simp] theorem modTile_mbx (k : Nat) (f : TileSt → TileSt) : (modTile s k f).mbx = s.mbx := rfl
@[simp] theorem modTile_dmaWait (k : Nat) (f : TileSt → TileSt) : (modTile s k f).dmaWait = s.dmaWait := rfl
@[simp] theorem modTile_order (k : Nat) (f : TileSt → TileSt) : (modTile s k f).order = s.order := rfl
@[simp] theorem modTile_bme0 (k : Nat) (f : TileSt → TileSt) : (modTile s k f).bme0 = s.bme0 := rfl
@[simp] theorem modTile_bme1 (k : Nat) (f : TileSt → TileSt) : (modTile s k f).bme1 = s.bme1 := rfl
@[simp] theorem modTile_heldDma (k : Nat) (f : TileSt → TileSt) : (modTile s k f).heldDma = s.heldDma := rfl
@[simp] theorem modTile_hostMem (k : Nat) (f : TileSt → TileSt) : (modTile s k f).hostMem = s.hostMem := rfl
@[simp] theorem modTile_unmasked (k : Nat) (f : TileSt → TileSt) : (modTile s k f).unmasked = s.unmasked := rfl
@[simp] theorem modTile_msixPend (k : Nat) (f : TileSt → TileSt) : (modTile s k f).msixPend = s.msixPend := rfl
@[simp] theorem modTile_msixSent (k : Nat) (f : TileSt → TileSt) : (modTile s k f).msixSent = s.msixSent := rfl
@[simp] theorem modTile_vecCount (k : Nat) (f : TileSt → TileSt) : (modTile s k f).vecCount = s.vecCount := rfl
@[simp] theorem modTile_arrays (k : Nat) (f : TileSt → TileSt) : (modTile s k f).arrays = s.arrays := rfl
@[simp] theorem modTile_cores (k : Nat) (f : TileSt → TileSt) : (modTile s k f).cores = s.cores := rfl
@[simp] theorem modTile_fbWinAt (k : Nat) (f : TileSt → TileSt) : (modTile s k f).fbWinAt = s.fbWinAt := rfl
@[simp] theorem modTile_potWinAt (k : Nat) (f : TileSt → TileSt) : (modTile s k f).potWinAt = s.potWinAt := rfl
@[simp] theorem modTile_remapNow (k : Nat) (f : TileSt → TileSt) : (modTile s k f).remapNow = s.remapNow := rfl
@[simp] theorem modTile_store (k : Nat) (f : TileSt → TileSt) : (modTile s k f).store = s.store := rfl
@[simp] theorem modTile_storeBad (k : Nat) (f : TileSt → TileSt) : (modTile s k f).storeBad = s.storeBad := rfl
@[simp] theorem modTile_stackMem (k : Nat) (f : TileSt → TileSt) : (modTile s k f).stackMem = s.stackMem := rfl
@[simp] theorem modTile_meshQ (k : Nat) (f : TileSt → TileSt) : (modTile s k f).meshQ = s.meshQ := rfl
@[simp] theorem modTile_meshOut (k : Nat) (f : TileSt → TileSt) : (modTile s k f).meshOut = s.meshOut := rfl
@[simp] theorem modTile_stackQ (k : Nat) (f : TileSt → TileSt) : (modTile s k f).stackQ = s.stackQ := rfl
@[simp] theorem modTile_pot (k : Nat) (f : TileSt → TileSt) : (modTile s k f).pot = s.pot := rfl
@[simp] theorem modTile_fab (k : Nat) (f : TileSt → TileSt) : (modTile s k f).fab = s.fab := rfl
@[simp] theorem modTile_rackTime (k : Nat) (f : TileSt → TileSt) : (modTile s k f).rackTime = s.rackTime := rfl
@[simp] theorem modTile_ifpOut (k : Nat) (f : TileSt → TileSt) : (modTile s k f).ifpOut = s.ifpOut := rfl
@[simp] theorem modTile_ladle (k : Nat) (f : TileSt → TileSt) : (modTile s k f).ladle = s.ladle := rfl
@[simp] theorem modTile_insts (k : Nat) (f : TileSt → TileSt) : (modTile s k f).insts = s.insts := rfl
@[simp] theorem modTile_slotWorld (k : Nat) (f : TileSt → TileSt) : (modTile s k f).slotWorld = s.slotWorld := rfl
@[simp] theorem modTile_ledger (k : Nat) (f : TileSt → TileSt) : (modTile s k f).ledger = s.ledger := rfl
@[simp] theorem modTile_ledgerSeq (k : Nat) (f : TileSt → TileSt) : (modTile s k f).ledgerSeq = s.ledgerSeq := rfl
@[simp] theorem modTile_retiredTiles (k : Nat) (f : TileSt → TileSt) : (modTile s k f).retiredTiles = s.retiredTiles := rfl
@[simp] theorem modTile_spoonSeq (k : Nat) (f : TileSt → TileSt) : (modTile s k f).spoonSeq = s.spoonSeq := rfl
@[simp] theorem modTile_ringH (k : Nat) (f : TileSt → TileSt) : (modTile s k f).ringH = s.ringH := rfl
@[simp] theorem modTile_faultH (k : Nat) (f : TileSt → TileSt) : (modTile s k f).faultH = s.faultH := rfl
@[simp] theorem modTile_residH (k : Nat) (f : TileSt → TileSt) : (modTile s k f).residH = s.residH := rfl
@[simp] theorem modTile_resids (k : Nat) (f : TileSt → TileSt) : (modTile s k f).resids = s.resids := rfl
@[simp] theorem modTile_residSeq (k : Nat) (f : TileSt → TileSt) : (modTile s k f).residSeq = s.residSeq := rfl
@[simp] theorem modTile_faults (k : Nat) (f : TileSt → TileSt) : (modTile s k f).faults = s.faults := rfl
@[simp] theorem modTile_rebuilds (k : Nat) (f : TileSt → TileSt) : (modTile s k f).rebuilds = s.rebuilds := rfl
@[simp] theorem modTile_bist (k : Nat) (f : TileSt → TileSt) : (modTile s k f).bist = s.bist := rfl
@[simp] theorem modTile_hk (k : Nat) (f : TileSt → TileSt) : (modTile s k f).hk = s.hk := rfl
@[simp] theorem modTile_sec (k : Nat) (f : TileSt → TileSt) : (modTile s k f).sec = s.sec := rfl
@[simp] theorem modTile_life (k : Nat) (f : TileSt → TileSt) : (modTile s k f).life = s.life := rfl
@[simp] theorem modTile_freeNo (k : Nat) (f : TileSt → TileSt) : (modTile s k f).freeNo = s.freeNo := rfl
@[simp] theorem modTile_pending (k : Nat) (f : TileSt → TileSt) : (modTile s k f).pending = s.pending := rfl

/-! ### setCore -/

@[simp] theorem setCore_grade (k : Nat) (x : CoreSt) : (setCore s k x).grade = s.grade := rfl
@[simp] theorem setCore_cw (k : Nat) (x : CoreSt) : (setCore s k x).cw = s.cw := rfl
@[simp] theorem setCore_act (k : Nat) (x : CoreSt) : (setCore s k x).act = s.act := rfl
@[simp] theorem setCore_stagedAt (k : Nat) (x : CoreSt) : (setCore s k x).stagedAt = s.stagedAt := rfl
@[simp] theorem setCore_stepLatch (k : Nat) (x : CoreSt) : (setCore s k x).stepLatch = s.stepLatch := rfl
@[simp] theorem setCore_timeLatch (k : Nat) (x : CoreSt) : (setCore s k x).timeLatch = s.timeLatch := rfl
@[simp] theorem setCore_mbx (k : Nat) (x : CoreSt) : (setCore s k x).mbx = s.mbx := rfl
@[simp] theorem setCore_dmaWait (k : Nat) (x : CoreSt) : (setCore s k x).dmaWait = s.dmaWait := rfl
@[simp] theorem setCore_order (k : Nat) (x : CoreSt) : (setCore s k x).order = s.order := rfl
@[simp] theorem setCore_bme0 (k : Nat) (x : CoreSt) : (setCore s k x).bme0 = s.bme0 := rfl
@[simp] theorem setCore_bme1 (k : Nat) (x : CoreSt) : (setCore s k x).bme1 = s.bme1 := rfl
@[simp] theorem setCore_heldDma (k : Nat) (x : CoreSt) : (setCore s k x).heldDma = s.heldDma := rfl
@[simp] theorem setCore_hostMem (k : Nat) (x : CoreSt) : (setCore s k x).hostMem = s.hostMem := rfl
@[simp] theorem setCore_unmasked (k : Nat) (x : CoreSt) : (setCore s k x).unmasked = s.unmasked := rfl
@[simp] theorem setCore_msixPend (k : Nat) (x : CoreSt) : (setCore s k x).msixPend = s.msixPend := rfl
@[simp] theorem setCore_msixSent (k : Nat) (x : CoreSt) : (setCore s k x).msixSent = s.msixSent := rfl
@[simp] theorem setCore_vecCount (k : Nat) (x : CoreSt) : (setCore s k x).vecCount = s.vecCount := rfl
@[simp] theorem setCore_arrays (k : Nat) (x : CoreSt) : (setCore s k x).arrays = s.arrays := rfl
@[simp] theorem setCore_tiles (k : Nat) (x : CoreSt) : (setCore s k x).tiles = s.tiles := rfl
@[simp] theorem setCore_fbWinAt (k : Nat) (x : CoreSt) : (setCore s k x).fbWinAt = s.fbWinAt := rfl
@[simp] theorem setCore_potWinAt (k : Nat) (x : CoreSt) : (setCore s k x).potWinAt = s.potWinAt := rfl
@[simp] theorem setCore_remapNow (k : Nat) (x : CoreSt) : (setCore s k x).remapNow = s.remapNow := rfl
@[simp] theorem setCore_store (k : Nat) (x : CoreSt) : (setCore s k x).store = s.store := rfl
@[simp] theorem setCore_storeBad (k : Nat) (x : CoreSt) : (setCore s k x).storeBad = s.storeBad := rfl
@[simp] theorem setCore_stackMem (k : Nat) (x : CoreSt) : (setCore s k x).stackMem = s.stackMem := rfl
@[simp] theorem setCore_meshQ (k : Nat) (x : CoreSt) : (setCore s k x).meshQ = s.meshQ := rfl
@[simp] theorem setCore_meshOut (k : Nat) (x : CoreSt) : (setCore s k x).meshOut = s.meshOut := rfl
@[simp] theorem setCore_stackQ (k : Nat) (x : CoreSt) : (setCore s k x).stackQ = s.stackQ := rfl
@[simp] theorem setCore_pot (k : Nat) (x : CoreSt) : (setCore s k x).pot = s.pot := rfl
@[simp] theorem setCore_fab (k : Nat) (x : CoreSt) : (setCore s k x).fab = s.fab := rfl
@[simp] theorem setCore_rackTime (k : Nat) (x : CoreSt) : (setCore s k x).rackTime = s.rackTime := rfl
@[simp] theorem setCore_ifpOut (k : Nat) (x : CoreSt) : (setCore s k x).ifpOut = s.ifpOut := rfl
@[simp] theorem setCore_ladle (k : Nat) (x : CoreSt) : (setCore s k x).ladle = s.ladle := rfl
@[simp] theorem setCore_insts (k : Nat) (x : CoreSt) : (setCore s k x).insts = s.insts := rfl
@[simp] theorem setCore_slotWorld (k : Nat) (x : CoreSt) : (setCore s k x).slotWorld = s.slotWorld := rfl
@[simp] theorem setCore_ledger (k : Nat) (x : CoreSt) : (setCore s k x).ledger = s.ledger := rfl
@[simp] theorem setCore_ledgerSeq (k : Nat) (x : CoreSt) : (setCore s k x).ledgerSeq = s.ledgerSeq := rfl
@[simp] theorem setCore_retiredTiles (k : Nat) (x : CoreSt) : (setCore s k x).retiredTiles = s.retiredTiles := rfl
@[simp] theorem setCore_spoonSeq (k : Nat) (x : CoreSt) : (setCore s k x).spoonSeq = s.spoonSeq := rfl
@[simp] theorem setCore_ringH (k : Nat) (x : CoreSt) : (setCore s k x).ringH = s.ringH := rfl
@[simp] theorem setCore_faultH (k : Nat) (x : CoreSt) : (setCore s k x).faultH = s.faultH := rfl
@[simp] theorem setCore_residH (k : Nat) (x : CoreSt) : (setCore s k x).residH = s.residH := rfl
@[simp] theorem setCore_resids (k : Nat) (x : CoreSt) : (setCore s k x).resids = s.resids := rfl
@[simp] theorem setCore_residSeq (k : Nat) (x : CoreSt) : (setCore s k x).residSeq = s.residSeq := rfl
@[simp] theorem setCore_faults (k : Nat) (x : CoreSt) : (setCore s k x).faults = s.faults := rfl
@[simp] theorem setCore_rebuilds (k : Nat) (x : CoreSt) : (setCore s k x).rebuilds = s.rebuilds := rfl
@[simp] theorem setCore_bist (k : Nat) (x : CoreSt) : (setCore s k x).bist = s.bist := rfl
@[simp] theorem setCore_hk (k : Nat) (x : CoreSt) : (setCore s k x).hk = s.hk := rfl
@[simp] theorem setCore_sec (k : Nat) (x : CoreSt) : (setCore s k x).sec = s.sec := rfl
@[simp] theorem setCore_life (k : Nat) (x : CoreSt) : (setCore s k x).life = s.life := rfl
@[simp] theorem setCore_freeNo (k : Nat) (x : CoreSt) : (setCore s k x).freeNo = s.freeNo := rfl
@[simp] theorem setCore_pending (k : Nat) (x : CoreSt) : (setCore s k x).pending = s.pending := rfl

/-! ### modCore -/

@[simp] theorem modCore_grade (k : Nat) (f : CoreSt → CoreSt) : (modCore s k f).grade = s.grade := rfl
@[simp] theorem modCore_cw (k : Nat) (f : CoreSt → CoreSt) : (modCore s k f).cw = s.cw := rfl
@[simp] theorem modCore_act (k : Nat) (f : CoreSt → CoreSt) : (modCore s k f).act = s.act := rfl
@[simp] theorem modCore_stagedAt (k : Nat) (f : CoreSt → CoreSt) : (modCore s k f).stagedAt = s.stagedAt := rfl
@[simp] theorem modCore_stepLatch (k : Nat) (f : CoreSt → CoreSt) : (modCore s k f).stepLatch = s.stepLatch := rfl
@[simp] theorem modCore_timeLatch (k : Nat) (f : CoreSt → CoreSt) : (modCore s k f).timeLatch = s.timeLatch := rfl
@[simp] theorem modCore_mbx (k : Nat) (f : CoreSt → CoreSt) : (modCore s k f).mbx = s.mbx := rfl
@[simp] theorem modCore_dmaWait (k : Nat) (f : CoreSt → CoreSt) : (modCore s k f).dmaWait = s.dmaWait := rfl
@[simp] theorem modCore_order (k : Nat) (f : CoreSt → CoreSt) : (modCore s k f).order = s.order := rfl
@[simp] theorem modCore_bme0 (k : Nat) (f : CoreSt → CoreSt) : (modCore s k f).bme0 = s.bme0 := rfl
@[simp] theorem modCore_bme1 (k : Nat) (f : CoreSt → CoreSt) : (modCore s k f).bme1 = s.bme1 := rfl
@[simp] theorem modCore_heldDma (k : Nat) (f : CoreSt → CoreSt) : (modCore s k f).heldDma = s.heldDma := rfl
@[simp] theorem modCore_hostMem (k : Nat) (f : CoreSt → CoreSt) : (modCore s k f).hostMem = s.hostMem := rfl
@[simp] theorem modCore_unmasked (k : Nat) (f : CoreSt → CoreSt) : (modCore s k f).unmasked = s.unmasked := rfl
@[simp] theorem modCore_msixPend (k : Nat) (f : CoreSt → CoreSt) : (modCore s k f).msixPend = s.msixPend := rfl
@[simp] theorem modCore_msixSent (k : Nat) (f : CoreSt → CoreSt) : (modCore s k f).msixSent = s.msixSent := rfl
@[simp] theorem modCore_vecCount (k : Nat) (f : CoreSt → CoreSt) : (modCore s k f).vecCount = s.vecCount := rfl
@[simp] theorem modCore_arrays (k : Nat) (f : CoreSt → CoreSt) : (modCore s k f).arrays = s.arrays := rfl
@[simp] theorem modCore_tiles (k : Nat) (f : CoreSt → CoreSt) : (modCore s k f).tiles = s.tiles := rfl
@[simp] theorem modCore_fbWinAt (k : Nat) (f : CoreSt → CoreSt) : (modCore s k f).fbWinAt = s.fbWinAt := rfl
@[simp] theorem modCore_potWinAt (k : Nat) (f : CoreSt → CoreSt) : (modCore s k f).potWinAt = s.potWinAt := rfl
@[simp] theorem modCore_remapNow (k : Nat) (f : CoreSt → CoreSt) : (modCore s k f).remapNow = s.remapNow := rfl
@[simp] theorem modCore_store (k : Nat) (f : CoreSt → CoreSt) : (modCore s k f).store = s.store := rfl
@[simp] theorem modCore_storeBad (k : Nat) (f : CoreSt → CoreSt) : (modCore s k f).storeBad = s.storeBad := rfl
@[simp] theorem modCore_stackMem (k : Nat) (f : CoreSt → CoreSt) : (modCore s k f).stackMem = s.stackMem := rfl
@[simp] theorem modCore_meshQ (k : Nat) (f : CoreSt → CoreSt) : (modCore s k f).meshQ = s.meshQ := rfl
@[simp] theorem modCore_meshOut (k : Nat) (f : CoreSt → CoreSt) : (modCore s k f).meshOut = s.meshOut := rfl
@[simp] theorem modCore_stackQ (k : Nat) (f : CoreSt → CoreSt) : (modCore s k f).stackQ = s.stackQ := rfl
@[simp] theorem modCore_pot (k : Nat) (f : CoreSt → CoreSt) : (modCore s k f).pot = s.pot := rfl
@[simp] theorem modCore_fab (k : Nat) (f : CoreSt → CoreSt) : (modCore s k f).fab = s.fab := rfl
@[simp] theorem modCore_rackTime (k : Nat) (f : CoreSt → CoreSt) : (modCore s k f).rackTime = s.rackTime := rfl
@[simp] theorem modCore_ifpOut (k : Nat) (f : CoreSt → CoreSt) : (modCore s k f).ifpOut = s.ifpOut := rfl
@[simp] theorem modCore_ladle (k : Nat) (f : CoreSt → CoreSt) : (modCore s k f).ladle = s.ladle := rfl
@[simp] theorem modCore_insts (k : Nat) (f : CoreSt → CoreSt) : (modCore s k f).insts = s.insts := rfl
@[simp] theorem modCore_slotWorld (k : Nat) (f : CoreSt → CoreSt) : (modCore s k f).slotWorld = s.slotWorld := rfl
@[simp] theorem modCore_ledger (k : Nat) (f : CoreSt → CoreSt) : (modCore s k f).ledger = s.ledger := rfl
@[simp] theorem modCore_ledgerSeq (k : Nat) (f : CoreSt → CoreSt) : (modCore s k f).ledgerSeq = s.ledgerSeq := rfl
@[simp] theorem modCore_retiredTiles (k : Nat) (f : CoreSt → CoreSt) : (modCore s k f).retiredTiles = s.retiredTiles := rfl
@[simp] theorem modCore_spoonSeq (k : Nat) (f : CoreSt → CoreSt) : (modCore s k f).spoonSeq = s.spoonSeq := rfl
@[simp] theorem modCore_ringH (k : Nat) (f : CoreSt → CoreSt) : (modCore s k f).ringH = s.ringH := rfl
@[simp] theorem modCore_faultH (k : Nat) (f : CoreSt → CoreSt) : (modCore s k f).faultH = s.faultH := rfl
@[simp] theorem modCore_residH (k : Nat) (f : CoreSt → CoreSt) : (modCore s k f).residH = s.residH := rfl
@[simp] theorem modCore_resids (k : Nat) (f : CoreSt → CoreSt) : (modCore s k f).resids = s.resids := rfl
@[simp] theorem modCore_residSeq (k : Nat) (f : CoreSt → CoreSt) : (modCore s k f).residSeq = s.residSeq := rfl
@[simp] theorem modCore_faults (k : Nat) (f : CoreSt → CoreSt) : (modCore s k f).faults = s.faults := rfl
@[simp] theorem modCore_rebuilds (k : Nat) (f : CoreSt → CoreSt) : (modCore s k f).rebuilds = s.rebuilds := rfl
@[simp] theorem modCore_bist (k : Nat) (f : CoreSt → CoreSt) : (modCore s k f).bist = s.bist := rfl
@[simp] theorem modCore_hk (k : Nat) (f : CoreSt → CoreSt) : (modCore s k f).hk = s.hk := rfl
@[simp] theorem modCore_sec (k : Nat) (f : CoreSt → CoreSt) : (modCore s k f).sec = s.sec := rfl
@[simp] theorem modCore_life (k : Nat) (f : CoreSt → CoreSt) : (modCore s k f).life = s.life := rfl
@[simp] theorem modCore_freeNo (k : Nat) (f : CoreSt → CoreSt) : (modCore s k f).freeNo = s.freeNo := rfl
@[simp] theorem modCore_pending (k : Nat) (f : CoreSt → CoreSt) : (modCore s k f).pending = s.pending := rfl

/-! ### setArray -/

@[simp] theorem setArray_grade (k : Nat) (x : ArraySt) : (setArray s k x).grade = s.grade := rfl
@[simp] theorem setArray_cw (k : Nat) (x : ArraySt) : (setArray s k x).cw = s.cw := rfl
@[simp] theorem setArray_act (k : Nat) (x : ArraySt) : (setArray s k x).act = s.act := rfl
@[simp] theorem setArray_stagedAt (k : Nat) (x : ArraySt) : (setArray s k x).stagedAt = s.stagedAt := rfl
@[simp] theorem setArray_stepLatch (k : Nat) (x : ArraySt) : (setArray s k x).stepLatch = s.stepLatch := rfl
@[simp] theorem setArray_timeLatch (k : Nat) (x : ArraySt) : (setArray s k x).timeLatch = s.timeLatch := rfl
@[simp] theorem setArray_mbx (k : Nat) (x : ArraySt) : (setArray s k x).mbx = s.mbx := rfl
@[simp] theorem setArray_dmaWait (k : Nat) (x : ArraySt) : (setArray s k x).dmaWait = s.dmaWait := rfl
@[simp] theorem setArray_order (k : Nat) (x : ArraySt) : (setArray s k x).order = s.order := rfl
@[simp] theorem setArray_bme0 (k : Nat) (x : ArraySt) : (setArray s k x).bme0 = s.bme0 := rfl
@[simp] theorem setArray_bme1 (k : Nat) (x : ArraySt) : (setArray s k x).bme1 = s.bme1 := rfl
@[simp] theorem setArray_heldDma (k : Nat) (x : ArraySt) : (setArray s k x).heldDma = s.heldDma := rfl
@[simp] theorem setArray_hostMem (k : Nat) (x : ArraySt) : (setArray s k x).hostMem = s.hostMem := rfl
@[simp] theorem setArray_unmasked (k : Nat) (x : ArraySt) : (setArray s k x).unmasked = s.unmasked := rfl
@[simp] theorem setArray_msixPend (k : Nat) (x : ArraySt) : (setArray s k x).msixPend = s.msixPend := rfl
@[simp] theorem setArray_msixSent (k : Nat) (x : ArraySt) : (setArray s k x).msixSent = s.msixSent := rfl
@[simp] theorem setArray_vecCount (k : Nat) (x : ArraySt) : (setArray s k x).vecCount = s.vecCount := rfl
@[simp] theorem setArray_tiles (k : Nat) (x : ArraySt) : (setArray s k x).tiles = s.tiles := rfl
@[simp] theorem setArray_cores (k : Nat) (x : ArraySt) : (setArray s k x).cores = s.cores := rfl
@[simp] theorem setArray_fbWinAt (k : Nat) (x : ArraySt) : (setArray s k x).fbWinAt = s.fbWinAt := rfl
@[simp] theorem setArray_potWinAt (k : Nat) (x : ArraySt) : (setArray s k x).potWinAt = s.potWinAt := rfl
@[simp] theorem setArray_remapNow (k : Nat) (x : ArraySt) : (setArray s k x).remapNow = s.remapNow := rfl
@[simp] theorem setArray_store (k : Nat) (x : ArraySt) : (setArray s k x).store = s.store := rfl
@[simp] theorem setArray_storeBad (k : Nat) (x : ArraySt) : (setArray s k x).storeBad = s.storeBad := rfl
@[simp] theorem setArray_stackMem (k : Nat) (x : ArraySt) : (setArray s k x).stackMem = s.stackMem := rfl
@[simp] theorem setArray_meshQ (k : Nat) (x : ArraySt) : (setArray s k x).meshQ = s.meshQ := rfl
@[simp] theorem setArray_meshOut (k : Nat) (x : ArraySt) : (setArray s k x).meshOut = s.meshOut := rfl
@[simp] theorem setArray_stackQ (k : Nat) (x : ArraySt) : (setArray s k x).stackQ = s.stackQ := rfl
@[simp] theorem setArray_pot (k : Nat) (x : ArraySt) : (setArray s k x).pot = s.pot := rfl
@[simp] theorem setArray_fab (k : Nat) (x : ArraySt) : (setArray s k x).fab = s.fab := rfl
@[simp] theorem setArray_rackTime (k : Nat) (x : ArraySt) : (setArray s k x).rackTime = s.rackTime := rfl
@[simp] theorem setArray_ifpOut (k : Nat) (x : ArraySt) : (setArray s k x).ifpOut = s.ifpOut := rfl
@[simp] theorem setArray_ladle (k : Nat) (x : ArraySt) : (setArray s k x).ladle = s.ladle := rfl
@[simp] theorem setArray_insts (k : Nat) (x : ArraySt) : (setArray s k x).insts = s.insts := rfl
@[simp] theorem setArray_slotWorld (k : Nat) (x : ArraySt) : (setArray s k x).slotWorld = s.slotWorld := rfl
@[simp] theorem setArray_ledger (k : Nat) (x : ArraySt) : (setArray s k x).ledger = s.ledger := rfl
@[simp] theorem setArray_ledgerSeq (k : Nat) (x : ArraySt) : (setArray s k x).ledgerSeq = s.ledgerSeq := rfl
@[simp] theorem setArray_retiredTiles (k : Nat) (x : ArraySt) : (setArray s k x).retiredTiles = s.retiredTiles := rfl
@[simp] theorem setArray_spoonSeq (k : Nat) (x : ArraySt) : (setArray s k x).spoonSeq = s.spoonSeq := rfl
@[simp] theorem setArray_ringH (k : Nat) (x : ArraySt) : (setArray s k x).ringH = s.ringH := rfl
@[simp] theorem setArray_faultH (k : Nat) (x : ArraySt) : (setArray s k x).faultH = s.faultH := rfl
@[simp] theorem setArray_residH (k : Nat) (x : ArraySt) : (setArray s k x).residH = s.residH := rfl
@[simp] theorem setArray_resids (k : Nat) (x : ArraySt) : (setArray s k x).resids = s.resids := rfl
@[simp] theorem setArray_residSeq (k : Nat) (x : ArraySt) : (setArray s k x).residSeq = s.residSeq := rfl
@[simp] theorem setArray_faults (k : Nat) (x : ArraySt) : (setArray s k x).faults = s.faults := rfl
@[simp] theorem setArray_rebuilds (k : Nat) (x : ArraySt) : (setArray s k x).rebuilds = s.rebuilds := rfl
@[simp] theorem setArray_bist (k : Nat) (x : ArraySt) : (setArray s k x).bist = s.bist := rfl
@[simp] theorem setArray_hk (k : Nat) (x : ArraySt) : (setArray s k x).hk = s.hk := rfl
@[simp] theorem setArray_sec (k : Nat) (x : ArraySt) : (setArray s k x).sec = s.sec := rfl
@[simp] theorem setArray_life (k : Nat) (x : ArraySt) : (setArray s k x).life = s.life := rfl
@[simp] theorem setArray_freeNo (k : Nat) (x : ArraySt) : (setArray s k x).freeNo = s.freeNo := rfl
@[simp] theorem setArray_pending (k : Nat) (x : ArraySt) : (setArray s k x).pending = s.pending := rfl

/-! ### setInst -/

@[simp] theorem setInst_grade (k : Nat) (x : Instance) : (setInst s k x).grade = s.grade := rfl
@[simp] theorem setInst_cw (k : Nat) (x : Instance) : (setInst s k x).cw = s.cw := rfl
@[simp] theorem setInst_act (k : Nat) (x : Instance) : (setInst s k x).act = s.act := rfl
@[simp] theorem setInst_stagedAt (k : Nat) (x : Instance) : (setInst s k x).stagedAt = s.stagedAt := rfl
@[simp] theorem setInst_stepLatch (k : Nat) (x : Instance) : (setInst s k x).stepLatch = s.stepLatch := rfl
@[simp] theorem setInst_timeLatch (k : Nat) (x : Instance) : (setInst s k x).timeLatch = s.timeLatch := rfl
@[simp] theorem setInst_mbx (k : Nat) (x : Instance) : (setInst s k x).mbx = s.mbx := rfl
@[simp] theorem setInst_dmaWait (k : Nat) (x : Instance) : (setInst s k x).dmaWait = s.dmaWait := rfl
@[simp] theorem setInst_order (k : Nat) (x : Instance) : (setInst s k x).order = s.order := rfl
@[simp] theorem setInst_bme0 (k : Nat) (x : Instance) : (setInst s k x).bme0 = s.bme0 := rfl
@[simp] theorem setInst_bme1 (k : Nat) (x : Instance) : (setInst s k x).bme1 = s.bme1 := rfl
@[simp] theorem setInst_heldDma (k : Nat) (x : Instance) : (setInst s k x).heldDma = s.heldDma := rfl
@[simp] theorem setInst_hostMem (k : Nat) (x : Instance) : (setInst s k x).hostMem = s.hostMem := rfl
@[simp] theorem setInst_unmasked (k : Nat) (x : Instance) : (setInst s k x).unmasked = s.unmasked := rfl
@[simp] theorem setInst_msixPend (k : Nat) (x : Instance) : (setInst s k x).msixPend = s.msixPend := rfl
@[simp] theorem setInst_msixSent (k : Nat) (x : Instance) : (setInst s k x).msixSent = s.msixSent := rfl
@[simp] theorem setInst_vecCount (k : Nat) (x : Instance) : (setInst s k x).vecCount = s.vecCount := rfl
@[simp] theorem setInst_arrays (k : Nat) (x : Instance) : (setInst s k x).arrays = s.arrays := rfl
@[simp] theorem setInst_tiles (k : Nat) (x : Instance) : (setInst s k x).tiles = s.tiles := rfl
@[simp] theorem setInst_cores (k : Nat) (x : Instance) : (setInst s k x).cores = s.cores := rfl
@[simp] theorem setInst_fbWinAt (k : Nat) (x : Instance) : (setInst s k x).fbWinAt = s.fbWinAt := rfl
@[simp] theorem setInst_potWinAt (k : Nat) (x : Instance) : (setInst s k x).potWinAt = s.potWinAt := rfl
@[simp] theorem setInst_remapNow (k : Nat) (x : Instance) : (setInst s k x).remapNow = s.remapNow := rfl
@[simp] theorem setInst_store (k : Nat) (x : Instance) : (setInst s k x).store = s.store := rfl
@[simp] theorem setInst_storeBad (k : Nat) (x : Instance) : (setInst s k x).storeBad = s.storeBad := rfl
@[simp] theorem setInst_stackMem (k : Nat) (x : Instance) : (setInst s k x).stackMem = s.stackMem := rfl
@[simp] theorem setInst_meshQ (k : Nat) (x : Instance) : (setInst s k x).meshQ = s.meshQ := rfl
@[simp] theorem setInst_meshOut (k : Nat) (x : Instance) : (setInst s k x).meshOut = s.meshOut := rfl
@[simp] theorem setInst_stackQ (k : Nat) (x : Instance) : (setInst s k x).stackQ = s.stackQ := rfl
@[simp] theorem setInst_pot (k : Nat) (x : Instance) : (setInst s k x).pot = s.pot := rfl
@[simp] theorem setInst_fab (k : Nat) (x : Instance) : (setInst s k x).fab = s.fab := rfl
@[simp] theorem setInst_rackTime (k : Nat) (x : Instance) : (setInst s k x).rackTime = s.rackTime := rfl
@[simp] theorem setInst_ifpOut (k : Nat) (x : Instance) : (setInst s k x).ifpOut = s.ifpOut := rfl
@[simp] theorem setInst_ladle (k : Nat) (x : Instance) : (setInst s k x).ladle = s.ladle := rfl
@[simp] theorem setInst_slotWorld (k : Nat) (x : Instance) : (setInst s k x).slotWorld = s.slotWorld := rfl
@[simp] theorem setInst_ledger (k : Nat) (x : Instance) : (setInst s k x).ledger = s.ledger := rfl
@[simp] theorem setInst_ledgerSeq (k : Nat) (x : Instance) : (setInst s k x).ledgerSeq = s.ledgerSeq := rfl
@[simp] theorem setInst_retiredTiles (k : Nat) (x : Instance) : (setInst s k x).retiredTiles = s.retiredTiles := rfl
@[simp] theorem setInst_spoonSeq (k : Nat) (x : Instance) : (setInst s k x).spoonSeq = s.spoonSeq := rfl
@[simp] theorem setInst_ringH (k : Nat) (x : Instance) : (setInst s k x).ringH = s.ringH := rfl
@[simp] theorem setInst_faultH (k : Nat) (x : Instance) : (setInst s k x).faultH = s.faultH := rfl
@[simp] theorem setInst_residH (k : Nat) (x : Instance) : (setInst s k x).residH = s.residH := rfl
@[simp] theorem setInst_resids (k : Nat) (x : Instance) : (setInst s k x).resids = s.resids := rfl
@[simp] theorem setInst_residSeq (k : Nat) (x : Instance) : (setInst s k x).residSeq = s.residSeq := rfl
@[simp] theorem setInst_faults (k : Nat) (x : Instance) : (setInst s k x).faults = s.faults := rfl
@[simp] theorem setInst_rebuilds (k : Nat) (x : Instance) : (setInst s k x).rebuilds = s.rebuilds := rfl
@[simp] theorem setInst_bist (k : Nat) (x : Instance) : (setInst s k x).bist = s.bist := rfl
@[simp] theorem setInst_hk (k : Nat) (x : Instance) : (setInst s k x).hk = s.hk := rfl
@[simp] theorem setInst_sec (k : Nat) (x : Instance) : (setInst s k x).sec = s.sec := rfl
@[simp] theorem setInst_life (k : Nat) (x : Instance) : (setInst s k x).life = s.life := rfl
@[simp] theorem setInst_freeNo (k : Nat) (x : Instance) : (setInst s k x).freeNo = s.freeNo := rfl
@[simp] theorem setInst_pending (k : Nat) (x : Instance) : (setInst s k x).pending = s.pending := rfl

/-! ### setObj -/

@[simp] theorem setObj_grade (k : Nat) (x : Obj) : (setObj s k x).grade = s.grade := rfl
@[simp] theorem setObj_cw (k : Nat) (x : Obj) : (setObj s k x).cw = s.cw := rfl
@[simp] theorem setObj_act (k : Nat) (x : Obj) : (setObj s k x).act = s.act := rfl
@[simp] theorem setObj_stagedAt (k : Nat) (x : Obj) : (setObj s k x).stagedAt = s.stagedAt := rfl
@[simp] theorem setObj_stepLatch (k : Nat) (x : Obj) : (setObj s k x).stepLatch = s.stepLatch := rfl
@[simp] theorem setObj_timeLatch (k : Nat) (x : Obj) : (setObj s k x).timeLatch = s.timeLatch := rfl
@[simp] theorem setObj_mbx (k : Nat) (x : Obj) : (setObj s k x).mbx = s.mbx := rfl
@[simp] theorem setObj_dmaWait (k : Nat) (x : Obj) : (setObj s k x).dmaWait = s.dmaWait := rfl
@[simp] theorem setObj_order (k : Nat) (x : Obj) : (setObj s k x).order = s.order := rfl
@[simp] theorem setObj_bme0 (k : Nat) (x : Obj) : (setObj s k x).bme0 = s.bme0 := rfl
@[simp] theorem setObj_bme1 (k : Nat) (x : Obj) : (setObj s k x).bme1 = s.bme1 := rfl
@[simp] theorem setObj_heldDma (k : Nat) (x : Obj) : (setObj s k x).heldDma = s.heldDma := rfl
@[simp] theorem setObj_hostMem (k : Nat) (x : Obj) : (setObj s k x).hostMem = s.hostMem := rfl
@[simp] theorem setObj_unmasked (k : Nat) (x : Obj) : (setObj s k x).unmasked = s.unmasked := rfl
@[simp] theorem setObj_msixPend (k : Nat) (x : Obj) : (setObj s k x).msixPend = s.msixPend := rfl
@[simp] theorem setObj_msixSent (k : Nat) (x : Obj) : (setObj s k x).msixSent = s.msixSent := rfl
@[simp] theorem setObj_vecCount (k : Nat) (x : Obj) : (setObj s k x).vecCount = s.vecCount := rfl
@[simp] theorem setObj_arrays (k : Nat) (x : Obj) : (setObj s k x).arrays = s.arrays := rfl
@[simp] theorem setObj_tiles (k : Nat) (x : Obj) : (setObj s k x).tiles = s.tiles := rfl
@[simp] theorem setObj_cores (k : Nat) (x : Obj) : (setObj s k x).cores = s.cores := rfl
@[simp] theorem setObj_fbWinAt (k : Nat) (x : Obj) : (setObj s k x).fbWinAt = s.fbWinAt := rfl
@[simp] theorem setObj_potWinAt (k : Nat) (x : Obj) : (setObj s k x).potWinAt = s.potWinAt := rfl
@[simp] theorem setObj_remapNow (k : Nat) (x : Obj) : (setObj s k x).remapNow = s.remapNow := rfl
@[simp] theorem setObj_store (k : Nat) (x : Obj) : (setObj s k x).store = s.store := rfl
@[simp] theorem setObj_storeBad (k : Nat) (x : Obj) : (setObj s k x).storeBad = s.storeBad := rfl
@[simp] theorem setObj_stackMem (k : Nat) (x : Obj) : (setObj s k x).stackMem = s.stackMem := rfl
@[simp] theorem setObj_meshQ (k : Nat) (x : Obj) : (setObj s k x).meshQ = s.meshQ := rfl
@[simp] theorem setObj_meshOut (k : Nat) (x : Obj) : (setObj s k x).meshOut = s.meshOut := rfl
@[simp] theorem setObj_stackQ (k : Nat) (x : Obj) : (setObj s k x).stackQ = s.stackQ := rfl
@[simp] theorem setObj_fab (k : Nat) (x : Obj) : (setObj s k x).fab = s.fab := rfl
@[simp] theorem setObj_rackTime (k : Nat) (x : Obj) : (setObj s k x).rackTime = s.rackTime := rfl
@[simp] theorem setObj_ifpOut (k : Nat) (x : Obj) : (setObj s k x).ifpOut = s.ifpOut := rfl
@[simp] theorem setObj_ladle (k : Nat) (x : Obj) : (setObj s k x).ladle = s.ladle := rfl
@[simp] theorem setObj_insts (k : Nat) (x : Obj) : (setObj s k x).insts = s.insts := rfl
@[simp] theorem setObj_slotWorld (k : Nat) (x : Obj) : (setObj s k x).slotWorld = s.slotWorld := rfl
@[simp] theorem setObj_ledger (k : Nat) (x : Obj) : (setObj s k x).ledger = s.ledger := rfl
@[simp] theorem setObj_ledgerSeq (k : Nat) (x : Obj) : (setObj s k x).ledgerSeq = s.ledgerSeq := rfl
@[simp] theorem setObj_retiredTiles (k : Nat) (x : Obj) : (setObj s k x).retiredTiles = s.retiredTiles := rfl
@[simp] theorem setObj_spoonSeq (k : Nat) (x : Obj) : (setObj s k x).spoonSeq = s.spoonSeq := rfl
@[simp] theorem setObj_ringH (k : Nat) (x : Obj) : (setObj s k x).ringH = s.ringH := rfl
@[simp] theorem setObj_faultH (k : Nat) (x : Obj) : (setObj s k x).faultH = s.faultH := rfl
@[simp] theorem setObj_residH (k : Nat) (x : Obj) : (setObj s k x).residH = s.residH := rfl
@[simp] theorem setObj_resids (k : Nat) (x : Obj) : (setObj s k x).resids = s.resids := rfl
@[simp] theorem setObj_residSeq (k : Nat) (x : Obj) : (setObj s k x).residSeq = s.residSeq := rfl
@[simp] theorem setObj_faults (k : Nat) (x : Obj) : (setObj s k x).faults = s.faults := rfl
@[simp] theorem setObj_rebuilds (k : Nat) (x : Obj) : (setObj s k x).rebuilds = s.rebuilds := rfl
@[simp] theorem setObj_bist (k : Nat) (x : Obj) : (setObj s k x).bist = s.bist := rfl
@[simp] theorem setObj_hk (k : Nat) (x : Obj) : (setObj s k x).hk = s.hk := rfl
@[simp] theorem setObj_sec (k : Nat) (x : Obj) : (setObj s k x).sec = s.sec := rfl
@[simp] theorem setObj_life (k : Nat) (x : Obj) : (setObj s k x).life = s.life := rfl
@[simp] theorem setObj_freeNo (k : Nat) (x : Obj) : (setObj s k x).freeNo = s.freeNo := rfl
@[simp] theorem setObj_pending (k : Nat) (x : Obj) : (setObj s k x).pending = s.pending := rfl

/-! ### delObj -/

@[simp] theorem delObj_grade (k : Nat) : (delObj s k).grade = s.grade := rfl
@[simp] theorem delObj_cw (k : Nat) : (delObj s k).cw = s.cw := rfl
@[simp] theorem delObj_act (k : Nat) : (delObj s k).act = s.act := rfl
@[simp] theorem delObj_stagedAt (k : Nat) : (delObj s k).stagedAt = s.stagedAt := rfl
@[simp] theorem delObj_stepLatch (k : Nat) : (delObj s k).stepLatch = s.stepLatch := rfl
@[simp] theorem delObj_timeLatch (k : Nat) : (delObj s k).timeLatch = s.timeLatch := rfl
@[simp] theorem delObj_mbx (k : Nat) : (delObj s k).mbx = s.mbx := rfl
@[simp] theorem delObj_dmaWait (k : Nat) : (delObj s k).dmaWait = s.dmaWait := rfl
@[simp] theorem delObj_order (k : Nat) : (delObj s k).order = s.order := rfl
@[simp] theorem delObj_bme0 (k : Nat) : (delObj s k).bme0 = s.bme0 := rfl
@[simp] theorem delObj_bme1 (k : Nat) : (delObj s k).bme1 = s.bme1 := rfl
@[simp] theorem delObj_heldDma (k : Nat) : (delObj s k).heldDma = s.heldDma := rfl
@[simp] theorem delObj_hostMem (k : Nat) : (delObj s k).hostMem = s.hostMem := rfl
@[simp] theorem delObj_unmasked (k : Nat) : (delObj s k).unmasked = s.unmasked := rfl
@[simp] theorem delObj_msixPend (k : Nat) : (delObj s k).msixPend = s.msixPend := rfl
@[simp] theorem delObj_msixSent (k : Nat) : (delObj s k).msixSent = s.msixSent := rfl
@[simp] theorem delObj_vecCount (k : Nat) : (delObj s k).vecCount = s.vecCount := rfl
@[simp] theorem delObj_arrays (k : Nat) : (delObj s k).arrays = s.arrays := rfl
@[simp] theorem delObj_tiles (k : Nat) : (delObj s k).tiles = s.tiles := rfl
@[simp] theorem delObj_cores (k : Nat) : (delObj s k).cores = s.cores := rfl
@[simp] theorem delObj_fbWinAt (k : Nat) : (delObj s k).fbWinAt = s.fbWinAt := rfl
@[simp] theorem delObj_potWinAt (k : Nat) : (delObj s k).potWinAt = s.potWinAt := rfl
@[simp] theorem delObj_remapNow (k : Nat) : (delObj s k).remapNow = s.remapNow := rfl
@[simp] theorem delObj_store (k : Nat) : (delObj s k).store = s.store := rfl
@[simp] theorem delObj_storeBad (k : Nat) : (delObj s k).storeBad = s.storeBad := rfl
@[simp] theorem delObj_stackMem (k : Nat) : (delObj s k).stackMem = s.stackMem := rfl
@[simp] theorem delObj_meshQ (k : Nat) : (delObj s k).meshQ = s.meshQ := rfl
@[simp] theorem delObj_meshOut (k : Nat) : (delObj s k).meshOut = s.meshOut := rfl
@[simp] theorem delObj_stackQ (k : Nat) : (delObj s k).stackQ = s.stackQ := rfl
@[simp] theorem delObj_fab (k : Nat) : (delObj s k).fab = s.fab := rfl
@[simp] theorem delObj_rackTime (k : Nat) : (delObj s k).rackTime = s.rackTime := rfl
@[simp] theorem delObj_ifpOut (k : Nat) : (delObj s k).ifpOut = s.ifpOut := rfl
@[simp] theorem delObj_ladle (k : Nat) : (delObj s k).ladle = s.ladle := rfl
@[simp] theorem delObj_insts (k : Nat) : (delObj s k).insts = s.insts := rfl
@[simp] theorem delObj_slotWorld (k : Nat) : (delObj s k).slotWorld = s.slotWorld := rfl
@[simp] theorem delObj_ledger (k : Nat) : (delObj s k).ledger = s.ledger := rfl
@[simp] theorem delObj_ledgerSeq (k : Nat) : (delObj s k).ledgerSeq = s.ledgerSeq := rfl
@[simp] theorem delObj_retiredTiles (k : Nat) : (delObj s k).retiredTiles = s.retiredTiles := rfl
@[simp] theorem delObj_spoonSeq (k : Nat) : (delObj s k).spoonSeq = s.spoonSeq := rfl
@[simp] theorem delObj_ringH (k : Nat) : (delObj s k).ringH = s.ringH := rfl
@[simp] theorem delObj_faultH (k : Nat) : (delObj s k).faultH = s.faultH := rfl
@[simp] theorem delObj_residH (k : Nat) : (delObj s k).residH = s.residH := rfl
@[simp] theorem delObj_resids (k : Nat) : (delObj s k).resids = s.resids := rfl
@[simp] theorem delObj_residSeq (k : Nat) : (delObj s k).residSeq = s.residSeq := rfl
@[simp] theorem delObj_faults (k : Nat) : (delObj s k).faults = s.faults := rfl
@[simp] theorem delObj_rebuilds (k : Nat) : (delObj s k).rebuilds = s.rebuilds := rfl
@[simp] theorem delObj_bist (k : Nat) : (delObj s k).bist = s.bist := rfl
@[simp] theorem delObj_hk (k : Nat) : (delObj s k).hk = s.hk := rfl
@[simp] theorem delObj_sec (k : Nat) : (delObj s k).sec = s.sec := rfl
@[simp] theorem delObj_life (k : Nat) : (delObj s k).life = s.life := rfl
@[simp] theorem delObj_freeNo (k : Nat) : (delObj s k).freeNo = s.freeNo := rfl
@[simp] theorem delObj_pending (k : Nat) : (delObj s k).pending = s.pending := rfl

/-! ### modInst -/

@[simp] theorem modInst_grade (k : Nat) (f : Instance → Instance) : (modInst s k f).grade = s.grade := (congrArg State.grade (modInst_butInsts s k f) :)
@[simp] theorem modInst_cw (k : Nat) (f : Instance → Instance) : (modInst s k f).cw = s.cw := (congrArg State.cw (modInst_butInsts s k f) :)
@[simp] theorem modInst_act (k : Nat) (f : Instance → Instance) : (modInst s k f).act = s.act := (congrArg State.act (modInst_butInsts s k f) :)
@[simp] theorem modInst_stagedAt (k : Nat) (f : Instance → Instance) : (modInst s k f).stagedAt = s.stagedAt := (congrArg State.stagedAt (modInst_butInsts s k f) :)
@[simp] theorem modInst_stepLatch (k : Nat) (f : Instance → Instance) : (modInst s k f).stepLatch = s.stepLatch := (congrArg State.stepLatch (modInst_butInsts s k f) :)
@[simp] theorem modInst_timeLatch (k : Nat) (f : Instance → Instance) : (modInst s k f).timeLatch = s.timeLatch := (congrArg State.timeLatch (modInst_butInsts s k f) :)
@[simp] theorem modInst_mbx (k : Nat) (f : Instance → Instance) : (modInst s k f).mbx = s.mbx := (congrArg State.mbx (modInst_butInsts s k f) :)
@[simp] theorem modInst_dmaWait (k : Nat) (f : Instance → Instance) : (modInst s k f).dmaWait = s.dmaWait := (congrArg State.dmaWait (modInst_butInsts s k f) :)
@[simp] theorem modInst_order (k : Nat) (f : Instance → Instance) : (modInst s k f).order = s.order := (congrArg State.order (modInst_butInsts s k f) :)
@[simp] theorem modInst_bme0 (k : Nat) (f : Instance → Instance) : (modInst s k f).bme0 = s.bme0 := (congrArg State.bme0 (modInst_butInsts s k f) :)
@[simp] theorem modInst_bme1 (k : Nat) (f : Instance → Instance) : (modInst s k f).bme1 = s.bme1 := (congrArg State.bme1 (modInst_butInsts s k f) :)
@[simp] theorem modInst_heldDma (k : Nat) (f : Instance → Instance) : (modInst s k f).heldDma = s.heldDma := (congrArg State.heldDma (modInst_butInsts s k f) :)
@[simp] theorem modInst_hostMem (k : Nat) (f : Instance → Instance) : (modInst s k f).hostMem = s.hostMem := (congrArg State.hostMem (modInst_butInsts s k f) :)
@[simp] theorem modInst_unmasked (k : Nat) (f : Instance → Instance) : (modInst s k f).unmasked = s.unmasked := (congrArg State.unmasked (modInst_butInsts s k f) :)
@[simp] theorem modInst_msixPend (k : Nat) (f : Instance → Instance) : (modInst s k f).msixPend = s.msixPend := (congrArg State.msixPend (modInst_butInsts s k f) :)
@[simp] theorem modInst_msixSent (k : Nat) (f : Instance → Instance) : (modInst s k f).msixSent = s.msixSent := (congrArg State.msixSent (modInst_butInsts s k f) :)
@[simp] theorem modInst_vecCount (k : Nat) (f : Instance → Instance) : (modInst s k f).vecCount = s.vecCount := (congrArg State.vecCount (modInst_butInsts s k f) :)
@[simp] theorem modInst_arrays (k : Nat) (f : Instance → Instance) : (modInst s k f).arrays = s.arrays := (congrArg State.arrays (modInst_butInsts s k f) :)
@[simp] theorem modInst_tiles (k : Nat) (f : Instance → Instance) : (modInst s k f).tiles = s.tiles := (congrArg State.tiles (modInst_butInsts s k f) :)
@[simp] theorem modInst_cores (k : Nat) (f : Instance → Instance) : (modInst s k f).cores = s.cores := (congrArg State.cores (modInst_butInsts s k f) :)
@[simp] theorem modInst_fbWinAt (k : Nat) (f : Instance → Instance) : (modInst s k f).fbWinAt = s.fbWinAt := (congrArg State.fbWinAt (modInst_butInsts s k f) :)
@[simp] theorem modInst_potWinAt (k : Nat) (f : Instance → Instance) : (modInst s k f).potWinAt = s.potWinAt := (congrArg State.potWinAt (modInst_butInsts s k f) :)
@[simp] theorem modInst_remapNow (k : Nat) (f : Instance → Instance) : (modInst s k f).remapNow = s.remapNow := (congrArg State.remapNow (modInst_butInsts s k f) :)
@[simp] theorem modInst_store (k : Nat) (f : Instance → Instance) : (modInst s k f).store = s.store := (congrArg State.store (modInst_butInsts s k f) :)
@[simp] theorem modInst_storeBad (k : Nat) (f : Instance → Instance) : (modInst s k f).storeBad = s.storeBad := (congrArg State.storeBad (modInst_butInsts s k f) :)
@[simp] theorem modInst_stackMem (k : Nat) (f : Instance → Instance) : (modInst s k f).stackMem = s.stackMem := (congrArg State.stackMem (modInst_butInsts s k f) :)
@[simp] theorem modInst_meshQ (k : Nat) (f : Instance → Instance) : (modInst s k f).meshQ = s.meshQ := (congrArg State.meshQ (modInst_butInsts s k f) :)
@[simp] theorem modInst_meshOut (k : Nat) (f : Instance → Instance) : (modInst s k f).meshOut = s.meshOut := (congrArg State.meshOut (modInst_butInsts s k f) :)
@[simp] theorem modInst_stackQ (k : Nat) (f : Instance → Instance) : (modInst s k f).stackQ = s.stackQ := (congrArg State.stackQ (modInst_butInsts s k f) :)
@[simp] theorem modInst_pot (k : Nat) (f : Instance → Instance) : (modInst s k f).pot = s.pot := (congrArg State.pot (modInst_butInsts s k f) :)
@[simp] theorem modInst_fab (k : Nat) (f : Instance → Instance) : (modInst s k f).fab = s.fab := (congrArg State.fab (modInst_butInsts s k f) :)
@[simp] theorem modInst_rackTime (k : Nat) (f : Instance → Instance) : (modInst s k f).rackTime = s.rackTime := (congrArg State.rackTime (modInst_butInsts s k f) :)
@[simp] theorem modInst_ifpOut (k : Nat) (f : Instance → Instance) : (modInst s k f).ifpOut = s.ifpOut := (congrArg State.ifpOut (modInst_butInsts s k f) :)
@[simp] theorem modInst_ladle (k : Nat) (f : Instance → Instance) : (modInst s k f).ladle = s.ladle := (congrArg State.ladle (modInst_butInsts s k f) :)
@[simp] theorem modInst_slotWorld (k : Nat) (f : Instance → Instance) : (modInst s k f).slotWorld = s.slotWorld := (congrArg State.slotWorld (modInst_butInsts s k f) :)
@[simp] theorem modInst_ledger (k : Nat) (f : Instance → Instance) : (modInst s k f).ledger = s.ledger := (congrArg State.ledger (modInst_butInsts s k f) :)
@[simp] theorem modInst_ledgerSeq (k : Nat) (f : Instance → Instance) : (modInst s k f).ledgerSeq = s.ledgerSeq := (congrArg State.ledgerSeq (modInst_butInsts s k f) :)
@[simp] theorem modInst_retiredTiles (k : Nat) (f : Instance → Instance) : (modInst s k f).retiredTiles = s.retiredTiles := (congrArg State.retiredTiles (modInst_butInsts s k f) :)
@[simp] theorem modInst_spoonSeq (k : Nat) (f : Instance → Instance) : (modInst s k f).spoonSeq = s.spoonSeq := (congrArg State.spoonSeq (modInst_butInsts s k f) :)
@[simp] theorem modInst_ringH (k : Nat) (f : Instance → Instance) : (modInst s k f).ringH = s.ringH := (congrArg State.ringH (modInst_butInsts s k f) :)
@[simp] theorem modInst_faultH (k : Nat) (f : Instance → Instance) : (modInst s k f).faultH = s.faultH := (congrArg State.faultH (modInst_butInsts s k f) :)
@[simp] theorem modInst_residH (k : Nat) (f : Instance → Instance) : (modInst s k f).residH = s.residH := (congrArg State.residH (modInst_butInsts s k f) :)
@[simp] theorem modInst_resids (k : Nat) (f : Instance → Instance) : (modInst s k f).resids = s.resids := (congrArg State.resids (modInst_butInsts s k f) :)
@[simp] theorem modInst_residSeq (k : Nat) (f : Instance → Instance) : (modInst s k f).residSeq = s.residSeq := (congrArg State.residSeq (modInst_butInsts s k f) :)
@[simp] theorem modInst_faults (k : Nat) (f : Instance → Instance) : (modInst s k f).faults = s.faults := (congrArg State.faults (modInst_butInsts s k f) :)
@[simp] theorem modInst_rebuilds (k : Nat) (f : Instance → Instance) : (modInst s k f).rebuilds = s.rebuilds := (congrArg State.rebuilds (modInst_butInsts s k f) :)
@[simp] theorem modInst_bist (k : Nat) (f : Instance → Instance) : (modInst s k f).bist = s.bist := (congrArg State.bist (modInst_butInsts s k f) :)
@[simp] theorem modInst_hk (k : Nat) (f : Instance → Instance) : (modInst s k f).hk = s.hk := (congrArg State.hk (modInst_butInsts s k f) :)
@[simp] theorem modInst_sec (k : Nat) (f : Instance → Instance) : (modInst s k f).sec = s.sec := (congrArg State.sec (modInst_butInsts s k f) :)
@[simp] theorem modInst_life (k : Nat) (f : Instance → Instance) : (modInst s k f).life = s.life := (congrArg State.life (modInst_butInsts s k f) :)
@[simp] theorem modInst_freeNo (k : Nat) (f : Instance → Instance) : (modInst s k f).freeNo = s.freeNo := (congrArg State.freeNo (modInst_butInsts s k f) :)
@[simp] theorem modInst_pending (k : Nat) (f : Instance → Instance) : (modInst s k f).pending = s.pending := (congrArg State.pending (modInst_butInsts s k f) :)

/-! ### signal -/

@[simp] theorem signal_grade (pf v : Nat) : (signal s pf v).grade = s.grade := (congrArg State.grade (signal_butHost s pf v) :)
@[simp] theorem signal_cw (pf v : Nat) : (signal s pf v).cw = s.cw := (congrArg State.cw (signal_butHost s pf v) :)
@[simp] theorem signal_act (pf v : Nat) : (signal s pf v).act = s.act := (congrArg State.act (signal_butHost s pf v) :)
@[simp] theorem signal_stagedAt (pf v : Nat) : (signal s pf v).stagedAt = s.stagedAt := (congrArg State.stagedAt (signal_butHost s pf v) :)
@[simp] theorem signal_stepLatch (pf v : Nat) : (signal s pf v).stepLatch = s.stepLatch := (congrArg State.stepLatch (signal_butHost s pf v) :)
@[simp] theorem signal_timeLatch (pf v : Nat) : (signal s pf v).timeLatch = s.timeLatch := (congrArg State.timeLatch (signal_butHost s pf v) :)
@[simp] theorem signal_mbx (pf v : Nat) : (signal s pf v).mbx = s.mbx := (congrArg State.mbx (signal_butHost s pf v) :)
@[simp] theorem signal_dmaWait (pf v : Nat) : (signal s pf v).dmaWait = s.dmaWait := (congrArg State.dmaWait (signal_butHost s pf v) :)
@[simp] theorem signal_order (pf v : Nat) : (signal s pf v).order = s.order := (congrArg State.order (signal_butHost s pf v) :)
@[simp] theorem signal_bme0 (pf v : Nat) : (signal s pf v).bme0 = s.bme0 := (congrArg State.bme0 (signal_butHost s pf v) :)
@[simp] theorem signal_bme1 (pf v : Nat) : (signal s pf v).bme1 = s.bme1 := (congrArg State.bme1 (signal_butHost s pf v) :)
@[simp] theorem signal_unmasked (pf v : Nat) : (signal s pf v).unmasked = s.unmasked := (congrArg State.unmasked (signal_butHost s pf v) :)
@[simp] theorem signal_arrays (pf v : Nat) : (signal s pf v).arrays = s.arrays := (congrArg State.arrays (signal_butHost s pf v) :)
@[simp] theorem signal_tiles (pf v : Nat) : (signal s pf v).tiles = s.tiles := (congrArg State.tiles (signal_butHost s pf v) :)
@[simp] theorem signal_cores (pf v : Nat) : (signal s pf v).cores = s.cores := (congrArg State.cores (signal_butHost s pf v) :)
@[simp] theorem signal_fbWinAt (pf v : Nat) : (signal s pf v).fbWinAt = s.fbWinAt := (congrArg State.fbWinAt (signal_butHost s pf v) :)
@[simp] theorem signal_potWinAt (pf v : Nat) : (signal s pf v).potWinAt = s.potWinAt := (congrArg State.potWinAt (signal_butHost s pf v) :)
@[simp] theorem signal_remapNow (pf v : Nat) : (signal s pf v).remapNow = s.remapNow := (congrArg State.remapNow (signal_butHost s pf v) :)
@[simp] theorem signal_store (pf v : Nat) : (signal s pf v).store = s.store := (congrArg State.store (signal_butHost s pf v) :)
@[simp] theorem signal_storeBad (pf v : Nat) : (signal s pf v).storeBad = s.storeBad := (congrArg State.storeBad (signal_butHost s pf v) :)
@[simp] theorem signal_stackMem (pf v : Nat) : (signal s pf v).stackMem = s.stackMem := (congrArg State.stackMem (signal_butHost s pf v) :)
@[simp] theorem signal_meshQ (pf v : Nat) : (signal s pf v).meshQ = s.meshQ := (congrArg State.meshQ (signal_butHost s pf v) :)
@[simp] theorem signal_meshOut (pf v : Nat) : (signal s pf v).meshOut = s.meshOut := (congrArg State.meshOut (signal_butHost s pf v) :)
@[simp] theorem signal_stackQ (pf v : Nat) : (signal s pf v).stackQ = s.stackQ := (congrArg State.stackQ (signal_butHost s pf v) :)
@[simp] theorem signal_pot (pf v : Nat) : (signal s pf v).pot = s.pot := (congrArg State.pot (signal_butHost s pf v) :)
@[simp] theorem signal_fab (pf v : Nat) : (signal s pf v).fab = s.fab := (congrArg State.fab (signal_butHost s pf v) :)
@[simp] theorem signal_rackTime (pf v : Nat) : (signal s pf v).rackTime = s.rackTime := (congrArg State.rackTime (signal_butHost s pf v) :)
@[simp] theorem signal_ifpOut (pf v : Nat) : (signal s pf v).ifpOut = s.ifpOut := (congrArg State.ifpOut (signal_butHost s pf v) :)
@[simp] theorem signal_ladle (pf v : Nat) : (signal s pf v).ladle = s.ladle := (congrArg State.ladle (signal_butHost s pf v) :)
@[simp] theorem signal_insts (pf v : Nat) : (signal s pf v).insts = s.insts := (congrArg State.insts (signal_butHost s pf v) :)
@[simp] theorem signal_slotWorld (pf v : Nat) : (signal s pf v).slotWorld = s.slotWorld := (congrArg State.slotWorld (signal_butHost s pf v) :)
@[simp] theorem signal_ledger (pf v : Nat) : (signal s pf v).ledger = s.ledger := (congrArg State.ledger (signal_butHost s pf v) :)
@[simp] theorem signal_ledgerSeq (pf v : Nat) : (signal s pf v).ledgerSeq = s.ledgerSeq := (congrArg State.ledgerSeq (signal_butHost s pf v) :)
@[simp] theorem signal_retiredTiles (pf v : Nat) : (signal s pf v).retiredTiles = s.retiredTiles := (congrArg State.retiredTiles (signal_butHost s pf v) :)
@[simp] theorem signal_spoonSeq (pf v : Nat) : (signal s pf v).spoonSeq = s.spoonSeq := (congrArg State.spoonSeq (signal_butHost s pf v) :)
@[simp] theorem signal_ringH (pf v : Nat) : (signal s pf v).ringH = s.ringH := (congrArg State.ringH (signal_butHost s pf v) :)
@[simp] theorem signal_faultH (pf v : Nat) : (signal s pf v).faultH = s.faultH := (congrArg State.faultH (signal_butHost s pf v) :)
@[simp] theorem signal_residH (pf v : Nat) : (signal s pf v).residH = s.residH := (congrArg State.residH (signal_butHost s pf v) :)
@[simp] theorem signal_resids (pf v : Nat) : (signal s pf v).resids = s.resids := (congrArg State.resids (signal_butHost s pf v) :)
@[simp] theorem signal_residSeq (pf v : Nat) : (signal s pf v).residSeq = s.residSeq := (congrArg State.residSeq (signal_butHost s pf v) :)
@[simp] theorem signal_faults (pf v : Nat) : (signal s pf v).faults = s.faults := (congrArg State.faults (signal_butHost s pf v) :)
@[simp] theorem signal_rebuilds (pf v : Nat) : (signal s pf v).rebuilds = s.rebuilds := (congrArg State.rebuilds (signal_butHost s pf v) :)
@[simp] theorem signal_bist (pf v : Nat) : (signal s pf v).bist = s.bist := (congrArg State.bist (signal_butHost s pf v) :)
@[simp] theorem signal_hk (pf v : Nat) : (signal s pf v).hk = s.hk := (congrArg State.hk (signal_butHost s pf v) :)
@[simp] theorem signal_sec (pf v : Nat) : (signal s pf v).sec = s.sec := (congrArg State.sec (signal_butHost s pf v) :)
@[simp] theorem signal_life (pf v : Nat) : (signal s pf v).life = s.life := (congrArg State.life (signal_butHost s pf v) :)
@[simp] theorem signal_freeNo (pf v : Nat) : (signal s pf v).freeNo = s.freeNo := (congrArg State.freeNo (signal_butHost s pf v) :)
@[simp] theorem signal_pending (pf v : Nat) : (signal s pf v).pending = s.pending := (congrArg State.pending (signal_butHost s pf v) :)

/-! ### dmaWrite -/

@[simp] theorem dmaWrite_grade (pf : Nat) (a : W64) (bs : Bytes) : (dmaWrite s pf a bs).grade = s.grade := (congrArg State.grade (dmaWrite_butHost s pf a bs) :)
@[simp] theorem dmaWrite_cw (pf : Nat) (a : W64) (bs : Bytes) : (dmaWrite s pf a bs).cw = s.cw := (congrArg State.cw (dmaWrite_butHost s pf a bs) :)
@[simp] theorem dmaWrite_act (pf : Nat) (a : W64) (bs : Bytes) : (dmaWrite s pf a bs).act = s.act := (congrArg State.act (dmaWrite_butHost s pf a bs) :)
@[simp] theorem dmaWrite_stagedAt (pf : Nat) (a : W64) (bs : Bytes) : (dmaWrite s pf a bs).stagedAt = s.stagedAt := (congrArg State.stagedAt (dmaWrite_butHost s pf a bs) :)
@[simp] theorem dmaWrite_stepLatch (pf : Nat) (a : W64) (bs : Bytes) : (dmaWrite s pf a bs).stepLatch = s.stepLatch := (congrArg State.stepLatch (dmaWrite_butHost s pf a bs) :)
@[simp] theorem dmaWrite_timeLatch (pf : Nat) (a : W64) (bs : Bytes) : (dmaWrite s pf a bs).timeLatch = s.timeLatch := (congrArg State.timeLatch (dmaWrite_butHost s pf a bs) :)
@[simp] theorem dmaWrite_mbx (pf : Nat) (a : W64) (bs : Bytes) : (dmaWrite s pf a bs).mbx = s.mbx := (congrArg State.mbx (dmaWrite_butHost s pf a bs) :)
@[simp] theorem dmaWrite_dmaWait (pf : Nat) (a : W64) (bs : Bytes) : (dmaWrite s pf a bs).dmaWait = s.dmaWait := (congrArg State.dmaWait (dmaWrite_butHost s pf a bs) :)
@[simp] theorem dmaWrite_order (pf : Nat) (a : W64) (bs : Bytes) : (dmaWrite s pf a bs).order = s.order := (congrArg State.order (dmaWrite_butHost s pf a bs) :)
@[simp] theorem dmaWrite_bme0 (pf : Nat) (a : W64) (bs : Bytes) : (dmaWrite s pf a bs).bme0 = s.bme0 := (congrArg State.bme0 (dmaWrite_butHost s pf a bs) :)
@[simp] theorem dmaWrite_bme1 (pf : Nat) (a : W64) (bs : Bytes) : (dmaWrite s pf a bs).bme1 = s.bme1 := (congrArg State.bme1 (dmaWrite_butHost s pf a bs) :)
@[simp] theorem dmaWrite_unmasked (pf : Nat) (a : W64) (bs : Bytes) : (dmaWrite s pf a bs).unmasked = s.unmasked := (congrArg State.unmasked (dmaWrite_butHost s pf a bs) :)
@[simp] theorem dmaWrite_arrays (pf : Nat) (a : W64) (bs : Bytes) : (dmaWrite s pf a bs).arrays = s.arrays := (congrArg State.arrays (dmaWrite_butHost s pf a bs) :)
@[simp] theorem dmaWrite_tiles (pf : Nat) (a : W64) (bs : Bytes) : (dmaWrite s pf a bs).tiles = s.tiles := (congrArg State.tiles (dmaWrite_butHost s pf a bs) :)
@[simp] theorem dmaWrite_cores (pf : Nat) (a : W64) (bs : Bytes) : (dmaWrite s pf a bs).cores = s.cores := (congrArg State.cores (dmaWrite_butHost s pf a bs) :)
@[simp] theorem dmaWrite_fbWinAt (pf : Nat) (a : W64) (bs : Bytes) : (dmaWrite s pf a bs).fbWinAt = s.fbWinAt := (congrArg State.fbWinAt (dmaWrite_butHost s pf a bs) :)
@[simp] theorem dmaWrite_potWinAt (pf : Nat) (a : W64) (bs : Bytes) : (dmaWrite s pf a bs).potWinAt = s.potWinAt := (congrArg State.potWinAt (dmaWrite_butHost s pf a bs) :)
@[simp] theorem dmaWrite_remapNow (pf : Nat) (a : W64) (bs : Bytes) : (dmaWrite s pf a bs).remapNow = s.remapNow := (congrArg State.remapNow (dmaWrite_butHost s pf a bs) :)
@[simp] theorem dmaWrite_store (pf : Nat) (a : W64) (bs : Bytes) : (dmaWrite s pf a bs).store = s.store := (congrArg State.store (dmaWrite_butHost s pf a bs) :)
@[simp] theorem dmaWrite_storeBad (pf : Nat) (a : W64) (bs : Bytes) : (dmaWrite s pf a bs).storeBad = s.storeBad := (congrArg State.storeBad (dmaWrite_butHost s pf a bs) :)
@[simp] theorem dmaWrite_stackMem (pf : Nat) (a : W64) (bs : Bytes) : (dmaWrite s pf a bs).stackMem = s.stackMem := (congrArg State.stackMem (dmaWrite_butHost s pf a bs) :)
@[simp] theorem dmaWrite_meshQ (pf : Nat) (a : W64) (bs : Bytes) : (dmaWrite s pf a bs).meshQ = s.meshQ := (congrArg State.meshQ (dmaWrite_butHost s pf a bs) :)
@[simp] theorem dmaWrite_meshOut (pf : Nat) (a : W64) (bs : Bytes) : (dmaWrite s pf a bs).meshOut = s.meshOut := (congrArg State.meshOut (dmaWrite_butHost s pf a bs) :)
@[simp] theorem dmaWrite_stackQ (pf : Nat) (a : W64) (bs : Bytes) : (dmaWrite s pf a bs).stackQ = s.stackQ := (congrArg State.stackQ (dmaWrite_butHost s pf a bs) :)
@[simp] theorem dmaWrite_pot (pf : Nat) (a : W64) (bs : Bytes) : (dmaWrite s pf a bs).pot = s.pot := (congrArg State.pot (dmaWrite_butHost s pf a bs) :)
@[simp] theorem dmaWrite_fab (pf : Nat) (a : W64) (bs : Bytes) : (dmaWrite s pf a bs).fab = s.fab := (congrArg State.fab (dmaWrite_butHost s pf a bs) :)
@[simp] theorem dmaWrite_rackTime (pf : Nat) (a : W64) (bs : Bytes) : (dmaWrite s pf a bs).rackTime = s.rackTime := (congrArg State.rackTime (dmaWrite_butHost s pf a bs) :)
@[simp] theorem dmaWrite_ifpOut (pf : Nat) (a : W64) (bs : Bytes) : (dmaWrite s pf a bs).ifpOut = s.ifpOut := (congrArg State.ifpOut (dmaWrite_butHost s pf a bs) :)
@[simp] theorem dmaWrite_ladle (pf : Nat) (a : W64) (bs : Bytes) : (dmaWrite s pf a bs).ladle = s.ladle := (congrArg State.ladle (dmaWrite_butHost s pf a bs) :)
@[simp] theorem dmaWrite_insts (pf : Nat) (a : W64) (bs : Bytes) : (dmaWrite s pf a bs).insts = s.insts := (congrArg State.insts (dmaWrite_butHost s pf a bs) :)
@[simp] theorem dmaWrite_slotWorld (pf : Nat) (a : W64) (bs : Bytes) : (dmaWrite s pf a bs).slotWorld = s.slotWorld := (congrArg State.slotWorld (dmaWrite_butHost s pf a bs) :)
@[simp] theorem dmaWrite_ledger (pf : Nat) (a : W64) (bs : Bytes) : (dmaWrite s pf a bs).ledger = s.ledger := (congrArg State.ledger (dmaWrite_butHost s pf a bs) :)
@[simp] theorem dmaWrite_ledgerSeq (pf : Nat) (a : W64) (bs : Bytes) : (dmaWrite s pf a bs).ledgerSeq = s.ledgerSeq := (congrArg State.ledgerSeq (dmaWrite_butHost s pf a bs) :)
@[simp] theorem dmaWrite_retiredTiles (pf : Nat) (a : W64) (bs : Bytes) : (dmaWrite s pf a bs).retiredTiles = s.retiredTiles := (congrArg State.retiredTiles (dmaWrite_butHost s pf a bs) :)
@[simp] theorem dmaWrite_spoonSeq (pf : Nat) (a : W64) (bs : Bytes) : (dmaWrite s pf a bs).spoonSeq = s.spoonSeq := (congrArg State.spoonSeq (dmaWrite_butHost s pf a bs) :)
@[simp] theorem dmaWrite_ringH (pf : Nat) (a : W64) (bs : Bytes) : (dmaWrite s pf a bs).ringH = s.ringH := (congrArg State.ringH (dmaWrite_butHost s pf a bs) :)
@[simp] theorem dmaWrite_faultH (pf : Nat) (a : W64) (bs : Bytes) : (dmaWrite s pf a bs).faultH = s.faultH := (congrArg State.faultH (dmaWrite_butHost s pf a bs) :)
@[simp] theorem dmaWrite_residH (pf : Nat) (a : W64) (bs : Bytes) : (dmaWrite s pf a bs).residH = s.residH := (congrArg State.residH (dmaWrite_butHost s pf a bs) :)
@[simp] theorem dmaWrite_resids (pf : Nat) (a : W64) (bs : Bytes) : (dmaWrite s pf a bs).resids = s.resids := (congrArg State.resids (dmaWrite_butHost s pf a bs) :)
@[simp] theorem dmaWrite_residSeq (pf : Nat) (a : W64) (bs : Bytes) : (dmaWrite s pf a bs).residSeq = s.residSeq := (congrArg State.residSeq (dmaWrite_butHost s pf a bs) :)
@[simp] theorem dmaWrite_faults (pf : Nat) (a : W64) (bs : Bytes) : (dmaWrite s pf a bs).faults = s.faults := (congrArg State.faults (dmaWrite_butHost s pf a bs) :)
@[simp] theorem dmaWrite_rebuilds (pf : Nat) (a : W64) (bs : Bytes) : (dmaWrite s pf a bs).rebuilds = s.rebuilds := (congrArg State.rebuilds (dmaWrite_butHost s pf a bs) :)
@[simp] theorem dmaWrite_bist (pf : Nat) (a : W64) (bs : Bytes) : (dmaWrite s pf a bs).bist = s.bist := (congrArg State.bist (dmaWrite_butHost s pf a bs) :)
@[simp] theorem dmaWrite_hk (pf : Nat) (a : W64) (bs : Bytes) : (dmaWrite s pf a bs).hk = s.hk := (congrArg State.hk (dmaWrite_butHost s pf a bs) :)
@[simp] theorem dmaWrite_sec (pf : Nat) (a : W64) (bs : Bytes) : (dmaWrite s pf a bs).sec = s.sec := (congrArg State.sec (dmaWrite_butHost s pf a bs) :)
@[simp] theorem dmaWrite_life (pf : Nat) (a : W64) (bs : Bytes) : (dmaWrite s pf a bs).life = s.life := (congrArg State.life (dmaWrite_butHost s pf a bs) :)
@[simp] theorem dmaWrite_freeNo (pf : Nat) (a : W64) (bs : Bytes) : (dmaWrite s pf a bs).freeNo = s.freeNo := (congrArg State.freeNo (dmaWrite_butHost s pf a bs) :)
@[simp] theorem dmaWrite_pending (pf : Nat) (a : W64) (bs : Bytes) : (dmaWrite s pf a bs).pending = s.pending := (congrArg State.pending (dmaWrite_butHost s pf a bs) :)

end Sys2Proof.Machine
end

