-- ==== Sys2Proof/Laws/Mailbox.lean ====
section
/-! SUPPORT. What writing a record, posting a response, refusing, accepting and completing a command leave: everything but
the mailbox, the order of submissions, the host's memory and interrupts, and the recordings of instances. -/

namespace Sys2Proof.Machine

open Sys2Proof

variable {β : Type}

/-! ### Host writes and interrupts -/

@[simp] theorem dmaWrite_butReply (s : State) (pf : Nat) (a : W64) (bs : Bytes) : (dmaWrite s pf a bs).butReply = s.butReply := by
  unfold dmaWrite; split <;> rfl

@[simp] theorem signal_butReply (s : State) (pf v : Nat) : (signal s pf v).butReply = s.butReply := by
  unfold signal; dsimp only; split <;> split <;> rfl

/-! ### Instances -/

@[simp] theorem instOf_setInst_same (s : State) (k : Nat) (i : Instance) : instOf (setInst s k i) k = some i :=
  mapFind_mapSet_same _ _ _

theorem instOf_setInst_ne (s : State) {k j : Nat} (i : Instance) (h : j ≠ k) : instOf (setInst s k i) j = instOf s j :=
  mapFind_mapSet_ne _ _ h

@[simp] theorem modInst_butReply (s : State) (k : Nat) (f : Instance → Instance) : (modInst s k f).butReply = s.butReply := by
  unfold modInst; split <;> rfl

theorem instOf_modInst (s : State) (k j : Nat) (f : Instance → Instance) :
    instOf (modInst s k f) j = if j = k then (instOf s k).map f else instOf s j := by
  unfold modInst
  split
  · rename_i i hi
    by_cases h : j = k
    · subst h; simp [hi]
    · simp [h, instOf_setInst_ne]
  · rename_i hi
    by_cases h : j = k
    · subst h; simp [hi]
    · simp [h]

theorem instOf_of_insts {s t : State} (h : t.insts = s.insts) (j : Nat) : instOf t j = instOf s j := by unfold instOf; rw [h]

/-! ### Records (14 R351-R353): they change their instance's recording and the host's memory -/

/-- A step that leaves all but what a response may change, mailboxes and order among it too, and instances but for their
recordings. -/
structure RecordOnly (s t : State) : Prop where
  rest  : t.butReply = s.butReply
  mbx   : t.mbx = s.mbx
  order : t.order = s.order
  insts : ∀ j, instView t j = instView s j

theorem RecordOnly.refl (s : State) : RecordOnly s s := ⟨rfl, rfl, rfl, fun _ => rfl⟩

theorem RecordOnly.trans {s t u : State} (h : RecordOnly s t) (k : RecordOnly t u) : RecordOnly s u :=
  ⟨k.rest.trans h.rest, k.mbx.trans h.mbx, k.order.trans h.order, fun j => (k.insts j).trans (h.insts j)⟩

theorem recordOnly_dmaWrite (s : State) (pf : Nat) (a : W64) (bs : Bytes) : RecordOnly s (dmaWrite s pf a bs) :=
  ⟨by simp, dmaWrite_mbx .., dmaWrite_order .., fun j => by unfold instView; rw [instOf_of_insts (dmaWrite_insts s pf a bs)]⟩

theorem recordOnly_recPutBytes (s : State) (r : Recording) (bs : Bytes) : RecordOnly s (recPutBytes s r bs) := by
  unfold recPutBytes
  dsimp only
  split
  · exact (recordOnly_dmaWrite _ _ _ _).trans (recordOnly_dmaWrite _ _ _ _)
  · exact recordOnly_dmaWrite _ _ _ _

theorem recordOnly_setInst (s : State) (k : Nat) (i : Instance) (r : Recording) (h : instView s k = some i.unrecorded) :
    RecordOnly s (setInst s k { i with record := r }) := by
  refine ⟨rfl, rfl, rfl, fun j => ?_⟩
  unfold instView at *
  by_cases hj : j = k
  · subst hj; rw [h, instOf_setInst_same]; rfl
  · rw [instOf_setInst_ne _ _ hj]

theorem recordOnly_recWrite (s : State) (k : Nat) (i : Instance) (hi : instOf s k = some i) (kind flags : Nat) (step : W64) (p : Bytes) :
    RecordOnly s (recWrite s k i kind flags step p) := by
  unfold recWrite
  have h := recordOnly_recPutBytes s i.record
    (recHeader kind flags p.length step s.rackTime i.record.seq ++ p ++ zeros (recSize p.length - 32 - p.length))
  refine h.trans (recordOnly_setInst _ _ _ _ ?_)
  rw [h.insts]; unfold instView; rw [hi]; rfl

theorem recordOnly_modRecord (s : State) (k : Nat) (f : Recording → Recording) :
    RecordOnly s (modInst s k (fun i => { i with record := f i.record })) := by
  unfold modInst
  split
  · rename_i i hi
    exact recordOnly_setInst s k i _ (by unfold instView; rw [hi]; rfl)
  · exact .refl s

theorem recordOnly_recEnd (s : State) (k flags : Nat) (b : Bool) : RecordOnly s (recEnd s k flags b) := by
  unfold recEnd
  split
  · exact .refl s
  · rename_i i hi
    dsimp only
    split
    · exact (recordOnly_recWrite s k i hi _ _ _ _).trans (recordOnly_modRecord _ k (fun r => { r with on := false, overrun := b }))
    · exact recordOnly_modRecord _ k (fun r => { r with on := false, overrun := b })

/-- R353: a record that finds room, or the end of the recording. -/
theorem recordOnly_recordAny (s : State) (k kind : Nat) (step : W64) (p : Bytes) : RecordOnly s (recordAny s k kind step p) := by
  unfold recordAny
  split
  · exact .refl s
  · rename_i i hi
    split
    · exact .refl s
    · split
      · exact recordOnly_recWrite s k i hi _ _ _ _
      · exact recordOnly_recEnd s k _ _

theorem recordOnly_recordFrame (s : State) (k kind : Nat) (step : W64) (p : Bytes) : RecordOnly s (recordFrame s k kind step p) := by
  unfold recordFrame
  split
  · exact .refl s
  · rename_i i hi
    split
    · exact recordOnly_recWrite s k i hi _ _ _ _
    · exact .refl s

theorem recordOnly_recordCommand (s : State) (m : MbxId) (op st : Nat) : RecordOnly s (recordCommand s m op st) := by
  unfold recordCommand
  generalize cmdSlots s m op = l
  induction l generalizing s with
  | nil => exact .refl s
  | cons a l ih =>
    simp only [List.foldl_cons]
    refine RecordOnly.trans ?_ (ih _)
    split
    · exact recordOnly_recordAny _ _ _ _ _
    · exact .refl s

/-! ### Responses (15 R366, 16 R383) -/

@[simp] theorem mbxAt_setMbx_same (s : State) (m : MbxId) (b : Mailbox) : mbxAt (setMbx s m b) m = b := mapGet_mapPut_same _ _ _ _

theorem mbxAt_setMbx_ne (s : State) {m n : MbxId} (b : Mailbox) (h : mbxKey n ≠ mbxKey m) : mbxAt (setMbx s m b) n = mbxAt s n :=
  mapGet_mapPut_ne _ _ _ _ h

theorem mbxAt_of_mbx {s t : State} (h : t.mbx = s.mbx) (m : MbxId) : mbxAt t m = mbxAt s m := by unfold mbxAt; rw [h]

/-- The record that a final response writes first. -/
def recorded (s : State) (m : MbxId) (op st : Nat) (f : Bool) : State := if f then recordCommand s m op st else s

theorem recordOnly_recorded (s : State) (m : MbxId) (op st : Nat) (f : Bool) : RecordOnly s (recorded s m op st f) := by
  unfold recorded; split
  · exact recordOnly_recordCommand s m op st
  · exact .refl s

/-- A mailbox takes a response, and its place in the order is free. -/
def answered (s : State) (m : MbxId) (b : Mailbox) : State :=
  let u := setMbx s m b
  { u with order := u.order.filter (fun x => x != m) }

@[simp] theorem mbxAt_answered (s : State) (m : MbxId) (b : Mailbox) : mbxAt (answered s m b) m = b := mapGet_mapPut_same _ _ _ _
@[simp] theorem answered_order (s : State) (m : MbxId) (b : Mailbox) : (answered s m b).order = s.order.filter (fun x => x != m) := rfl
@[simp] theorem answered_butReply (s : State) (m : MbxId) (b : Mailbox) : (answered s m b).butReply = s.butReply := rfl
@[simp] theorem answered_insts (s : State) (m : MbxId) (b : Mailbox) : (answered s m b).insts = s.insts := rfl

theorem post_eq (s : State) (m : MbxId) (st op : Nat) (p : Bytes) (f : Bool) :
    post s m st op p f =
      (let u := answered (recorded s m op st f) m (postedBox (mbxAt s m) st op p f)
       if (postedBox (mbxAt s m) st op p f).intEn then signal u m.pf m.idx else u) := by
  have h := mbxAt_of_mbx (recordOnly_recorded s m op st f).mbx m
  have e : post s m st op p f =
      (let u := answered (recorded s m op st f) m (postedBox (mbxAt (recorded s m op st f) m) st op p f)
       if (mbxAt u m).intEn then signal u m.pf m.idx else u) := rfl
  rw [e, h]
  dsimp only
  rw [mbxAt_answered]

/-- Posting a response changes the mailbox, the order, the host's memory and interrupts, and recordings. -/
@[simp] theorem post_butReply (s : State) (m : MbxId) (st op : Nat) (p : Bytes) (f : Bool) : (post s m st op p f).butReply = s.butReply := by
  rw [post_eq]
  dsimp only
  split
  · rw [signal_butReply, answered_butReply, (recordOnly_recorded s m op st f).rest]
  · rw [answered_butReply, (recordOnly_recorded s m op st f).rest]

theorem post_mbx (s : State) (m : MbxId) (st op : Nat) (p : Bytes) (f : Bool) :
    mbxAt (post s m st op p f) m = postedBox (mbxAt s m) st op p f := by
  rw [post_eq]
  dsimp only
  split
  · rw [mbxAt_of_mbx (signal_mbx _ _ _), mbxAt_answered]
  · rw [mbxAt_answered]

theorem post_order (s : State) (m : MbxId) (st op : Nat) (p : Bytes) (f : Bool) :
    (post s m st op p f).order = s.order.filter (fun x => x != m) := by
  rw [post_eq]
  dsimp only
  split
  · rw [signal_order, answered_order, (recordOnly_recorded s m op st f).order]
  · rw [answered_order, (recordOnly_recorded s m op st f).order]

theorem post_instView (s : State) (m : MbxId) (st op : Nat) (p : Bytes) (f : Bool) (j : Nat) :
    instView (post s m st op p f) j = instView s j := by
  rw [← (recordOnly_recorded s m op st f).insts j, post_eq]
  dsimp only
  unfold instView
  split
  · rw [instOf_of_insts (signal_insts _ _ _), instOf_of_insts (answered_insts _ _ _)]
  · rw [instOf_of_insts (answered_insts _ _ _)]

/-- A post is a response. -/
theorem post_responds (s : State) (m : MbxId) (st : Nat) (p : Bytes) (f : Bool) : Responds s (post s m st (reqOp s m) p f) m st p f := by
  unfold Responds
  rw [post_mbx, post_order]
  unfold postedBox
  cases f <;> simp

/-- The response to a long command that completes: it stands in the mailbox as it would had it come at once. -/
theorem finish_responds (s u : State) (m : MbxId) (st : Nat) (p : Bytes) (hm : mbxAt u m = mbxAt (accept s m) m)
    (ho : u.order = (accept s m).order) : Responds s (finish u (mref s m) st p) m st p true := by
  have ha : mbxAt (accept s m) m = postedBox (mbxAt s m) stAccepted (reqOp s m) [] false := post_mbx _ _ _ _ _ _
  have he : (mbxAt u m).epoch = (mref s m).epoch := by rw [hm, ha]; rfl
  have e : finish u (mref s m) st p = post u m st (reqOp s m) p true := by
    unfold finish
    rw [show (mref s m).id = m from rfl, if_pos he]
    rfl
  rw [e]
  unfold Responds
  rw [post_mbx, post_order, ho, hm, ha, show (accept s m).order = s.order.filter (fun x => x != m) from post_order _ _ _ _ _ _]
  unfold postedBox
  simp [List.filter_filter]

/-! ### Commands that are ready -/

/-- The effect of a ready command whose own checks pass. -/
theorem runCmd_ready {s : State} {m : MbxId} {op len : Nat} (h : Ready s m op len) {chk : Option Err} (hc : chk = none) (eff : State) :
    onMbx m (runCmd s m op len chk eff) = .next eff := by
  obtain ⟨h1, h2, h3, _⟩ := h
  subst hc
  simp [onMbx, onUnit, h1, runCmd, h2, h3, firstErr]

/-- A ready command that a check of its own refuses. -/
theorem runCmd_refused {s : State} {m : MbxId} {op len : Nat} (h : Ready s m op len) {chk : Option Err} {e : Err} (hc : chk = some e)
    (eff : State) : onMbx m (runCmd s m op len chk eff) = .next (refuse s m e) := by
  obtain ⟨h1, h2, h3, _⟩ := h
  subst hc
  simp [onMbx, onUnit, h1, runCmd, h2, h3, firstErr]

theorem fieldCheck_ready {s : State} {m : MbxId} {op len : Nat} (h : Ready s m op len) (l : List (Nat × Bool)) :
    fieldCheck s m l = fieldsOk l := by
  unfold fieldCheck reqZero
  rw [h.2.2.2]
  rfl

/-! ### What a command names -/

theorem instIs_of {s : State} {m : MbxId} {slot : Nat} {i : Instance} (h : Names s m slot i) (f : Instance → Bool) :
    instIs s m 8 f = f i := by unfold instIs; rw [h.1]

theorem withInst_of {s : State} {m : MbxId} {slot : Nat} {i : Instance} (h : Names s m slot i) (f : Nat → Instance → State) :
    withInst s m 8 f = f slot i := by unfold withInst; rw [h.1]

theorem instOk_of {s : State} {m : MbxId} {slot : Nat} {i : Instance} (h : Names s m slot i) : instOk s m 8 = none := by
  unfold instOk; rw [h.1]; rcases h.2.2 with h | h <;> simp [need, h]

theorem entryOk_of {s : State} {m : MbxId} {slot : Nat} {i : Instance} (h : NamesEntry s m slot i) : entryOk s m 8 = none := by
  unfold entryOk; rw [instOk_of h.1, h.1.1]; simp [need, entryHere, h.2]

theorem handleOk_of {s : State} {m : MbxId} {slot h : Nat} {i : Instance} {f : Instance → Bool} (hn : Names s m slot i)
    (ho : HandleOpen s m h) (hf : f i = true) : handleOk s m h f = none := by
  have hw : (!(objAt s h).any (fun o => o.secure) || mbxSecure s m) = true := by
    cases e : objAt s h with
    | none => simp
    | some o => rcases ho o e with h | h <;> simp [h]
  unfold handleOk firstErr need
  rw [instIs_of hn, hf]
  simp [hw, firstErr]

theorem instView_post_of (s : State) (m : MbxId) (st op : Nat) (p : Bytes) (f : Bool) (j : Nat) (i : Instance)
    (h : instOf s j = some i) : instView (post s m st op p f) j = some i.unrecorded := by
  rw [post_instView]; unfold instView; rw [h]; rfl

/-! ### The fields a response leaves -/

variable (s : State) (m : MbxId) (st op : Nat) (p : Bytes) (f : Bool)

@[simp] theorem post_grade : (post s m st op p f).grade = s.grade := (congrArg State.grade (post_butReply s m st op p f) :)
@[simp] theorem post_cw : (post s m st op p f).cw = s.cw := (congrArg State.cw (post_butReply s m st op p f) :)
@[simp] theorem post_act : (post s m st op p f).act = s.act := (congrArg State.act (post_butReply s m st op p f) :)
@[simp] theorem post_stagedAt : (post s m st op p f).stagedAt = s.stagedAt := (congrArg State.stagedAt (post_butReply s m st op p f) :)
@[simp] theorem post_stepLatch : (post s m st op p f).stepLatch = s.stepLatch := (congrArg State.stepLatch (post_butReply s m st op p f) :)
@[simp] theorem post_timeLatch : (post s m st op p f).timeLatch = s.timeLatch := (congrArg State.timeLatch (post_butReply s m st op p f) :)
@[simp] theorem post_dmaWait : (post s m st op p f).dmaWait = s.dmaWait := (congrArg State.dmaWait (post_butReply s m st op p f) :)
@[simp] theorem post_bme0 : (post s m st op p f).bme0 = s.bme0 := (congrArg State.bme0 (post_butReply s m st op p f) :)
@[simp] theorem post_bme1 : (post s m st op p f).bme1 = s.bme1 := (congrArg State.bme1 (post_butReply s m st op p f) :)
@[simp] theorem post_unmasked : (post s m st op p f).unmasked = s.unmasked := (congrArg State.unmasked (post_butReply s m st op p f) :)
@[simp] theorem post_arrays : (post s m st op p f).arrays = s.arrays := (congrArg State.arrays (post_butReply s m st op p f) :)
@[simp] theorem post_tiles : (post s m st op p f).tiles = s.tiles := (congrArg State.tiles (post_butReply s m st op p f) :)
@[simp] theorem post_cores : (post s m st op p f).cores = s.cores := (congrArg State.cores (post_butReply s m st op p f) :)
@[simp] theorem post_fbWinAt : (post s m st op p f).fbWinAt = s.fbWinAt := (congrArg State.fbWinAt (post_butReply s m st op p f) :)
@[simp] theorem post_potWinAt : (post s m st op p f).potWinAt = s.potWinAt := (congrArg State.potWinAt (post_butReply s m st op p f) :)
@[simp] theorem post_remapNow : (post s m st op p f).remapNow = s.remapNow := (congrArg State.remapNow (post_butReply s m st op p f) :)
@[simp] theorem post_store : (post s m st op p f).store = s.store := (congrArg State.store (post_butReply s m st op p f) :)
@[simp] theorem post_storeBad : (post s m st op p f).storeBad = s.storeBad := (congrArg State.storeBad (post_butReply s m st op p f) :)
@[simp] theorem post_stackMem : (post s m st op p f).stackMem = s.stackMem := (congrArg State.stackMem (post_butReply s m st op p f) :)
@[simp] theorem post_meshQ : (post s m st op p f).meshQ = s.meshQ := (congrArg State.meshQ (post_butReply s m st op p f) :)
@[simp] theorem post_meshOut : (post s m st op p f).meshOut = s.meshOut := (congrArg State.meshOut (post_butReply s m st op p f) :)
@[simp] theorem post_stackQ : (post s m st op p f).stackQ = s.stackQ := (congrArg State.stackQ (post_butReply s m st op p f) :)
@[simp] theorem post_pot : (post s m st op p f).pot = s.pot := (congrArg State.pot (post_butReply s m st op p f) :)
@[simp] theorem post_fab : (post s m st op p f).fab = s.fab := (congrArg State.fab (post_butReply s m st op p f) :)
@[simp] theorem post_rackTime : (post s m st op p f).rackTime = s.rackTime := (congrArg State.rackTime (post_butReply s m st op p f) :)
@[simp] theorem post_ifpOut : (post s m st op p f).ifpOut = s.ifpOut := (congrArg State.ifpOut (post_butReply s m st op p f) :)
@[simp] theorem post_ladle : (post s m st op p f).ladle = s.ladle := (congrArg State.ladle (post_butReply s m st op p f) :)
@[simp] theorem post_slotWorld : (post s m st op p f).slotWorld = s.slotWorld := (congrArg State.slotWorld (post_butReply s m st op p f) :)
@[simp] theorem post_ledger : (post s m st op p f).ledger = s.ledger := (congrArg State.ledger (post_butReply s m st op p f) :)
@[simp] theorem post_ledgerSeq : (post s m st op p f).ledgerSeq = s.ledgerSeq := (congrArg State.ledgerSeq (post_butReply s m st op p f) :)
@[simp] theorem post_retiredTiles : (post s m st op p f).retiredTiles = s.retiredTiles := (congrArg State.retiredTiles (post_butReply s m st op p f) :)
@[simp] theorem post_spoonSeq : (post s m st op p f).spoonSeq = s.spoonSeq := (congrArg State.spoonSeq (post_butReply s m st op p f) :)
@[simp] theorem post_ringH : (post s m st op p f).ringH = s.ringH := (congrArg State.ringH (post_butReply s m st op p f) :)
@[simp] theorem post_faultH : (post s m st op p f).faultH = s.faultH := (congrArg State.faultH (post_butReply s m st op p f) :)
@[simp] theorem post_residH : (post s m st op p f).residH = s.residH := (congrArg State.residH (post_butReply s m st op p f) :)
@[simp] theorem post_resids : (post s m st op p f).resids = s.resids := (congrArg State.resids (post_butReply s m st op p f) :)
@[simp] theorem post_residSeq : (post s m st op p f).residSeq = s.residSeq := (congrArg State.residSeq (post_butReply s m st op p f) :)
@[simp] theorem post_faults : (post s m st op p f).faults = s.faults := (congrArg State.faults (post_butReply s m st op p f) :)
@[simp] theorem post_rebuilds : (post s m st op p f).rebuilds = s.rebuilds := (congrArg State.rebuilds (post_butReply s m st op p f) :)
@[simp] theorem post_bist : (post s m st op p f).bist = s.bist := (congrArg State.bist (post_butReply s m st op p f) :)
@[simp] theorem post_hk : (post s m st op p f).hk = s.hk := (congrArg State.hk (post_butReply s m st op p f) :)
@[simp] theorem post_sec : (post s m st op p f).sec = s.sec := (congrArg State.sec (post_butReply s m st op p f) :)
@[simp] theorem post_life : (post s m st op p f).life = s.life := (congrArg State.life (post_butReply s m st op p f) :)
@[simp] theorem post_freeNo : (post s m st op p f).freeNo = s.freeNo := (congrArg State.freeNo (post_butReply s m st op p f) :)
@[simp] theorem post_pending : (post s m st op p f).pending = s.pending := (congrArg State.pending (post_butReply s m st op p f) :)

end Sys2Proof.Machine
end

