-- ==== Sys2Proof/Tests/Slice0.lean ====
section
/-! SUPPORT. The model's own tests: ill-formed commands, the spec's worked examples, and for every statement with hypotheses a
state and operands that meet each clause's hypotheses together. -/

namespace Sys2Proof.Tests


open Sys2Proof Sys2Proof.Machine

/-! ### Small states -/

/-- Mailbox 0 of PF1 and of PF0. -/
abbrev p1 : MbxId := { pf := 1, idx := 0 }
abbrev h0 : MbxId := { pf := 0, idx := 0 }

/-- A part that serves: READY, link up, both functions masters of the bus. -/
def part : State :=
  { State.reset with
    bme0 := true
    bme1 := true
    life := { rails := 7, partState := psReady, stage := 15, linkUp := true
              fw := some { release := 3, mbxIf := 3, build := 0, secVer := 0, measure := [], minVer := 0 } } }

/-- Bytes of a request area, by (offset, width, value). -/
def area (fs : List (Nat × Nat × Nat)) : SMap Byte :=
  fs.foldl (fun r f => ((leBytes f.2.1 f.2.2).zipIdx).foldl (fun r b => mapPut 0 r (f.1 + b.2) b.1) r) []

/-- A request that waits first in the order. -/
def cmd (s : State) (m : MbxId) (op len : Nat) (fs : List (Nat × Nat × Nat)) : State :=
  { setMbx s m { mbxAt s m with own := true, seq := 5, req := area ((0, 2, op) :: (2, 2, len) :: fs) } with order := [m] }

/-- A part with an instance in slot 3. -/
def hold (i : Instance) (s : State := part) : State := setInst s 3 i

/-- Instance 7. -/
def i7 : Instance := { number := 7, seed := [1, 2, 3] }

/-- A command's reference to mailbox 0 of PF1. -/
def r7 : MbxRef := { id := p1, epoch := 1, op := 0x0102 }

/-- A fault record. -/
def fault : FaultRec :=
  { seq := 4, cls := 1, cause := 17, secure := false, coalesced := false, collector := false, unit := 2, slot := 0xFFFF, inst := 0xFFFF
    time := 0, epoch := 0, count := 1, reporters := 1, step := 0, detail := 0 }

/-- Bytes by (offset, width, value). -/
def blob (n : Nat) (fs : List (Nat × Nat × Nat)) : Bytes := (List.range n).map (fun i => mapGet 0 (area fs) i)

/-- A frame of one sequence without a context, of one token, that waits. -/
def w7 (inst : Nat) : Waiting :=
  { desc := blob 32 [(0, 8, 77), (8, 2, inst), (10, 2, 1)], seqs := [blob 64 [(26, 2, 1), (28, 4, 4), (50, 2, 1)]], submit := 0 }

/-- The instance with a frame that waits. -/
def iw (inst : Nat) : Instance :=
  { i7 with placed := true, waiting := [w7 inst], submits := [{ id := 0, mbx := r7, left := 1 }], nextSubmit := 1 }

/-- A sequence and a frame as they travel. -/
def q7 : SeqMsg :=
  { hostTag := 0, ctx := 0, pfx := 0, delta := 0, version := 0, gen := 0, k := 0, kUsed := 0, inLen := 1, outCap := 4, inAddr := 0
    outAddr := 0, temp := 0, topK := 1, drafts := [] }
def f7 : FrameMsg :=
  { tag := 77, step := 4, gen := 0, qrecAddr := 0, qrecCap := 0, seqs := [q7], tally := [], clipped := false, crossGen := false
    replayed := false, marker := none }
def fl7 : Flight := { msg := f7, passed := true, atExit := true, counted := true }

/-- A request of 64 bytes to a line of frame 1, on stack 1. -/
def pk (t : MeshType) : MeshPacket :=
  { dest := .port 1, vc := 2, type := t, src := 0, tag := 3, secure := false, gma := 0x200040, arg := [64], payload := [] }

/-- Stack 1 is up. -/
def up1 (s : State := part) : State := wr s (skReg 1 0) 1

/-- A port in a state, on its own plane. -/
def port (p st : Nat) (s : State := part) : State := wr s (fpReg p 0) (BitVec.ofNat 32 (st + 0x1000 * (p % 16)))

/-- A packet from part 9. -/
def ifp (f : IfpFields) (s : State := part) : IfpPacket := ifpPacket (wrF s (fabReg 4) 12 0 9) f

/-- A request to part 9 that waits for its answer. -/
def req9 (pt : Option Nat) (resent : Bool) : FabReq :=
  { tag := 5, pkt := ifpPacket part { type := ifpReadT, vc := 0, dest := 9, stream := 3, tag := 5, spec := 64 }, atomic := false
    src := some (pk .read), port := pt, resent := resent }

/-- Group 1: parts 9 and 0, this one second; an operation of it; a Ladle packet of part 9 about it. -/
def g9 : Group := { stream := 3, ids := [9, 0], tag := 0x77 }
def lop (op : Nat) : LOp :=
  { group := 1, opId := 5, op := op, fmtRed := 4, root := 0, src := 0, dst := 0x200000, len := 64, targets := [1], mbx := some r7 }
def lad (o : LOp) (g : Group := g9) (s : State := port 2 4) : State := { s with ladle := { groups := [(1, g)], ops := [o] } }
def lpk (type kind op count n : Nat) (s : State := part) : IfpPacket :=
  ifp { type := type, vc := 2, dest := 0, stream := 3, payload := ladleHdr kind op 0 4 0x77 5 count ++ zeros n } s
def bpk (kind id : Nat) : IfpPacket :=
  ifp { type := ifpBarrierT, vc := 0, dest := 0, stream := 3, payload := leBytes 1 kind ++ zeros 3 ++ leBytes 4 0x77 ++ leBytes 4 id ++ zeros 4 }
def tx : Sending := { phase := 0, block := 0, target := 0, count := 2, sent := 1 }
def npk (kind : Nat) : IfpPacket :=
  ifp { type := ifpNoticeT, vc := 0, dest := 0, stream := 3, tag := 4, payload := [BitVec.ofNat 8 kind, 2, 17, 0, 5, 3] ++ zeros 26 }
def susp : Suspect := { key := nKey (npk 1), epoch := 0, cause := 3, reporters := [9], time := 0, record := none }

/-- Instance 7 in its pass of step 4, and a state with tiles of it: slot 0 of site 0, and more. -/
def ip : Instance := { i7 with placed := true, passStep := some 4, flight := [{ msg := f7 }] }
def own : Owner := { slot := 3, layer := 0, block := 0, fp4 := false, outDim := 512 }
def til (x : TileSt) (i : Instance := ip) (s : State := part) : State :=
  { s with insts := [(3, i)], tiles := [(tkey 0 0, { x with owner := some own })] }
/-- The tile serves, enabled. -/
def srv (s : State) : State := wrA (setTileState s (tkey 0 0) 2) (tileReg (tkey 0 0) 0) 0x3001
/-- A vector of which two rows differ from 0: BF16 1.0 and -2.0. -/
def xin : List Bytes := [[0x80, 0x3F, 0x00, 0xC0] ++ zeros 1020]

/-- A capture of tile 0 of site 5, and a residual record. -/
def cap : Capture :=
  { head := 0, vec := 0, members := [0], phys := [tkey 5 0], work := [{}], wides := [], outs := [], closed := true, regs := [], onDemand := none
    test := false, raised := false, time := 0, step := 4, inst := 7, layer := 0, outDim := 512, zero := false }
def res7 : ResidualRec :=
  { seq := 9, inst := 7, layer := 0, site := 1, slot := 2, cause := 3, block := 4, row := 5, col := 6, target := -7, placed := -6
    gPlus := 0, gMinus := 6, rotated := false }
/-- Tile 3 of site 0, IDLE with a column run asked for; the run; readings of K4. -/
def cal3 (x : TileSt) (st word : Nat) : State :=
  wr (setTileState { part with tiles := [(tkey 0 3, x)] } (tkey 0 3) st) (tileReg (tkey 0 3) 0x1000) (BitVec.ofNat 32 word)
def run3 : CalRun := { cls := 2, row := 3, temp := 6400, time := 0, stage := .k6, refs := none }
def refs3 : RefReads := { tiPlus := (3072, 3072), tiMinus := (-3072, -3072), ref0 := (0, 0), ref1 := (3000, 3000), ref2 := (-3000, -3000), ref3 := (0, 0) }
def sets3 (d : Int) : AdcSets := { zeroA := 0, plusA := 100, minusA := -100, zeroB := d, plusB := 100, minusB := -100 }
/-- A write of tile 3 of site 0. -/
def job3 : ProgJob :=
  { why := .load, target := [(0, 5), (1537, -9)], levels := [], fp4 := false, gen := 7, imageId := 8, layer := 2, block := 0, slot := 3, blank := false }

/-- A layer of one array on site 0, slot 0; its load, alone and in instance 7. -/
def tc0 : TileCfg :=
  { row := 0, col := 0, slot := 0, block := 0, ctrl := 0x3000, fs0 := 0x00DB6DB6, fs1 := 0x00DB6DB6, act := 0, peri := 8, edge := 0, sieve := 0, fb := 0x10000
    table := [], scale := [], bias := [] }
def ar0 : ArrayRec := { row := 0, col := 0, slot := 0, block := 0, fp4 := false, cells := [(0, 5), (513, 0x90)] }
def ly0 (st : LayerState) : LayerSt :=
  { layer := 2, state := st, cfg := some { whiskSeed := 1, outDim := 512, cacheBytes := 0, tiles := [tc0] }, arrs := [ar0], shad := [{ cells := [(0, 5)] }] }
def ld0 : Load := { stage := false, skip := false, mbx := r7, group := 1, reader := true, imageId := 8, imageLen := 0, repair := false, gen := 5 }
def sc0 (index layer : Nat) (v : Option Bool := none) : SecSt := { index := index, kind := 2, layer := layer, body := some (.arrays []), verdict := v }
def il (l : Load) (ls : List LayerSt := []) : Instance := { i7 with load := some l, layers := ls }
def hold1 (i : Instance) (s : State := part) : State := { hold i s with ladle := { groups := [(1, { g9 with ids := [0] })] } }
/-- The head of an image of one section of layer 2 for part 0, of a length. -/
def hd0 (n : Nat) : ImageHead :=
  { header := imgMagic ++ zeros 120, entries := [[3, 0] ++ leBytes 2 2 ++ leBytes 2 0 ++ leBytes 2 1 ++ zeros 8 ++ leBytes 8 0 ++ leBytes 8 n], sig := [] }
/-- Instance 7 in a change of generation, a layer staged or in writing. -/
def ig (st : LayerState) : Instance := { i7 with placed := true, imageId := 7, stagedId := 8, genJob := some r7, layers := [ly0 .committed], staged := [ly0 st] }
def gens (s : State) (state : Nat) : State := wrF (wr (wr s (imgSlotReg 3 0) 4) (imgSlotReg 3 4) 5) (imgSlotReg 3 8) 1 0 state

/-! ### The words of claims, decided -/

theorem ready_of {s : State} {m : MbxId} {op len : Nat}
    (h : (mbxWf m && taken s m op && (preCheck s m len).isNone && reqN s m 4 4 == 0) = true) : Ready s m op len := by
  simp only [Bool.and_eq_true, Option.isNone_iff_eq_none, beq_iff_eq] at h
  exact ⟨h.1.1.1, h.1.1.2, h.1.2, h.2⟩

theorem zeroAt_of {s : State} {m : MbxId} {o n : Nat} (h : (reqN s m o n == 0) = true) : ZeroAt s m o n := by
  simpa [ZeroAt] using h

theorem names_of {s : State} {m : MbxId} {slot : Nat} {i : Instance} (h : instNamed s m 8 = some (slot, i))
    (k : instOf s slot = some i) (w : (!i.secure || mbxSecure s m) = true) : Names s m slot i :=
  ⟨h, k, by simpa using w⟩

theorem namesEntry_of {s : State} {m : MbxId} {slot : Nat} {i : Instance} (h : instNamed s m 8 = some (slot, i))
    (k : instOf s slot = some i) (w : (!i.secure || mbxSecure s m) = true) (e : i.entry = partId s) : NamesEntry s m slot i :=
  ⟨names_of h k w, e⟩

theorem handleOpen_of {s : State} {m : MbxId} {h : Nat}
    (w : ((objAt s h).all (fun o => !o.secure || mbxSecure s m)) = true) : HandleOpen s m h := by
  intro o ho
  rw [ho] at w
  simpa using w

theorem noRunWaits_of {s : State} (h : (s.tiles.all (fun x => x.2.spoonReq.isNone)) = true) : NoRunWaits s := by
  intro x hx
  simpa using List.all_eq_true.mp h x hx

theorem arrives_of {s : State} {port : Nat} {p : IfpPacket} {type : Nat}
    (h : (decide (port < 18) && portCarries s port && hType p == type && hLen p == p.payload.length && decide (p.payload.length ≤ 4096) &&
      hDest p == partId s && hcrcOk p && worldOk s port p) = true) : Arrives s port p type := by
  simp only [Bool.and_eq_true, decide_eq_true_eq, beq_iff_eq] at h
  exact ⟨h.1.1.1.1.1.1.1, h.1.1.1.1.1.1.2, h.1.1.1.1.1.2, h.1.1.1.1.2, h.1.1.1.2, h.1.1.2, h.1.2, h.2⟩

theorem discArrives_of {s : State} {port : Nat} {p : IfpPacket} {sub : Nat}
    (h : (decide (port < 18) && discCarries s port && hcrcOk p && hType p == ifpDiscT && hVc p == 0 && hLen p == p.payload.length &&
      leAt p.payload 0 1 == sub) = true) : DiscArrives s port p sub := by
  simp only [Bool.and_eq_true, decide_eq_true_eq, beq_iff_eq] at h
  exact ⟨h.1.1.1.1.1.1, h.1.1.1.1.1.2, h.1.1.1.1.2, h.1.1.1.2, h.1.1.2, h.1.2, h.2⟩

theorem noBadData_of {s : State} (h : (s.pot.badLines.isEmpty && s.storeBad.all (fun e => e.2 != 2)) = true) : NoBadData s := by
  simp only [Bool.and_eq_true, List.isEmpty_iff, List.all_eq_true, bne_iff_ne] at h
  exact h

theorem storeSound_of {s : State} {site : Nat}
    (h : (s.storeBad.all (fun w => w.1 / 0x20000 != site) && s.cores.all (fun c => !c.2.ueFatal)) = true) : StoreSound s site := by
  simp only [Bool.and_eq_true, List.all_eq_true, bne_iff_ne, Bool.not_eq_true'] at h
  exact h

theorem mapGet_lt (m : SMap Nat) (n k : Nat) (h0 : 0 < n) (h : (m.all (fun e => decide (e.2 < n))) = true) : mapGet 0 m k < n := by
  unfold mapGet
  induction m with
  | nil => exact h0
  | cons e m ih =>
    simp only [List.all_cons, Bool.and_eq_true, decide_eq_true_eq] at h
    simp only [mapFind]
    split
    · exact h.1
    · exact ih h.2

theorem sound_words {s : State} {site : Nat} (h : (s.storeBad.all (fun e => decide (e.2 < 2))) = true) :
    ∀ w, w < 0x20000 → mapGet 0 (addUpsets s site []).storeBad (site * 0x20000 + w) < 2 :=
  fun w _ => mapGet_lt _ _ _ (by decide) h

theorem mayStart_of {s : State} {site slot : Nat} {it : EngineItem}
    (h : (decide (site < 800) && decide (slot < 64) && !coreAway s site && hasProgram s site slot && !passStopped s slot && itemFits it &&
      !higherReady s site 5) = true) : MayStart s site slot it := by
  simp only [Bool.and_eq_true, decide_eq_true_eq, Bool.not_eq_true'] at h
  exact ⟨h.1.1.1.1.1.1, h.1.1.1.1.1.2, h.1.1.1.1.2, h.1.1.1.2, h.1.1.2, h.1.2, h.2⟩

theorem groupFits_of {g : Group} (h : (g.ids.all (fun x => decide (x < 8192)) && decide (g.stream < 2 ^ 24)) = true) : GroupFits g := by
  simp only [Bool.and_eq_true, List.all_eq_true, decide_eq_true_eq] at h
  exact h

theorem authBad_off {s : State} {p : Nat} {c : Bytes} (h : secureDisc s = false) : authBad s p c = false := by
  simp [authBad, h]

theorem authBad_nonce {s : State} {p : Nat} {c : Bytes} (h : secureDisc s = true) (k : (slice c 68 16 != (portAt s p).nonce) = true) :
    authBad s p c = true := by
  simp [authBad, h, k]

/-- A DISC frame of another part: its digest differs from this part's. -/
def other (h : Bytes) : Bytes := h ++ zeros (36 - h.length) ++ [Config.serialByte 0 + 1]

theorem succ_ne (x : Byte) : x + 1 ≠ x := by
  intro h
  have := congrArg (fun y => y - x) h
  simp at this

theorem other_ne {c : Bytes} (h : (slice c 36 32).headD 0 = Config.serialByte 0 + 1) : slice c 36 32 ≠ serialDigest := by
  intro e
  rw [e] at h
  exact succ_ne _ h.symm

theorem confirm_other {s : State} {p : Nat} {c : Bytes} {k : Option Nat} (h : secureDisc s = false) (hd : slice c 36 32 ≠ serialDigest)
    (hk : (if (settledMinor (leAt c 6 1) (leAt c 7 1)).isNone then some 3
      else if leAt c 1 1 ≠ (if p < 16 then 1 else 0) then some 4
      else if p < 16 then
        if leAt c 2 2 / 64 % 128 ≠ partId s / 64 then some 5
        else if leAt c 5 1 ≠ 4 * (partId s / 4 % 16) + partId s % 4 then some 6
        else none
      else if leAt c 2 2 ≠ (partId s ^^^ (if p = 16 then 1 else 2)) ∨ leAt c 4 1 ≠ p then some 8
      else none) = k) :
    confirmReason s p c = k := by
  unfold confirmReason
  rw [authBad_off h, if_neg (by simp), if_neg (by simpa using hd)]
  exact hk

theorem freshFrom_free (s : State) (c start n : Nat) (h : objAt s (c * 0x10000000 + start % 0x10000000) = none) :
    freshFrom s c start (n + 1) = some (c * 0x10000000 + start % 0x10000000) := by
  simp [freshFrom, h]

theorem mapFind_none {α : Type} (m : SMap α) (k : Nat) (h : ∀ p ∈ m, k ≠ p.1) : mapFind m k = none := by
  induction m with
  | nil => rfl
  | cons p m ih =>
    simp only [mapFind]
    rw [if_neg (h p (by simp))]
    exact ih (fun q hq => h q (by simp [hq]))

/-- A new object of a class that has none. -/
theorem newObj_of {s : State} {c inst : Nat} {sec : Bool} (h : (s.pot.objs.all (fun p => objClass p.1 != c)) = true) :
    newObj s c inst sec = some (c * 0x10000000 + Config.freeNat s.freeNo % 0x10000000,
      useFree (setObj s (c * 0x10000000 + Config.freeNat s.freeNo % 0x10000000) { inst := inst, secure := sec })) := by
  have hk : ∀ p ∈ s.pot.objs, (objClass p.1 == c) = false := by
    intro p hp
    have := List.all_eq_true.mp h p hp
    simpa using this
  have h0 : classCount s c = 0 := by
    unfold classCount
    rw [List.filter_eq_nil_iff.mpr (fun p hp => by simp [hk p hp])]
    rfl
  have h1 : objAt s (c * 0x10000000 + Config.freeNat s.freeNo % 0x10000000) = none := by
    apply mapFind_none
    intro p hp e
    have := hk p hp
    rw [← e] at this
    simp only [objClass, beq_eq_false_iff_ne] at this
    omega
  unfold newObj
  rw [h0, if_pos (by decide), freshFrom_free s c _ _ h1]

theorem newObj_one {s : State} {c inst : Nat} {sec : Bool} (k : Nat) (o : Obj) (h : s.pot.objs = [(k, o)]) :
    ∃ v u, newObj s c inst sec = some (v, u) := by
  have hc : classCount s c < 0x100000 := by
    unfold classCount
    rw [h]
    exact Nat.lt_of_le_of_lt (List.length_filter_le _ _) (by simp)
  have hf : ∃ v, freshFrom s c (Config.freeNat s.freeNo) (s.pot.objs.length + 1) = some v := by
    rw [h]
    simp only [List.length_cons, List.length_nil, freshFrom]
    split
    · next h1 =>
      have h2 : (objAt s (c * 0x10000000 + (Config.freeNat s.freeNo + 1) % 0x10000000)).isSome = false := by
        unfold objAt at h1 ⊢
        rw [h] at h1 ⊢
        simp only [mapFind] at h1 ⊢
        split at h1
        · split
          · omega
          · rfl
        · simp at h1
      rw [if_neg (by simp [h2])]
      exact ⟨_, rfl⟩
    · exact ⟨_, rfl⟩
  obtain ⟨v, hv⟩ := hf
  refine ⟨v, useFree (setObj s v { inst := inst, secure := sec }), ?_⟩
  unfold newObj
  rw [if_pos hc, hv]

theorem makeVersion_empty {s u : State} {slot gen v : Nat} {i : Instance} (h : newObj s 3 slot i.secure = some (v, u)) :
    ∃ w, makeVersion s slot i gen [] = .ok (v, w) := by
  have e : newObjPages s 3 slot i.secure false (pagesFor 0) = some (v, setObj u v { inst := slot, secure := i.secure }) := by
    unfold newObjPages
    rw [h]
    rfl
  cases hm : makeVersion s slot i gen [] with
  | ok x =>
    obtain ⟨a, b⟩ := x
    unfold makeVersion at hm
    change (match newObjPages s 3 slot i.secure false (pagesFor 0) with
      | none => _
      | some (v, s1) => Except.ok (v, _)) = _ at hm
    rw [e] at hm
    injection hm with hm
    injection hm with h1 h2
    exact ⟨b, by rw [h1]⟩
  | error x =>
    unfold makeVersion at hm
    change (match newObjPages s 3 slot i.secure false (pagesFor 0) with
      | none => _
      | some (v, s1) => Except.ok (v, _)) = _ at hm
    rw [e] at hm
    cases hm

/-- A stack that is up, not the first, whose regions are all of a world, in a pool that has given nothing. -/
def openStack (s : State) (sec : Bool) (n : Nat) : Bool :=
  decide (1 ≤ n) && decide (n < 24) && skUp s n && (List.range 48).all (fun i => s.sec.regions.contains (48 * n + i) == sec) &&
    s.sec.clearing == [] && s.bist.isNone && s.pot.used == []

theorem frameFree_of {s : State} {sec : Bool} {n : Nat} (x : Nat) (h : openStack s sec n = true) :
    frameFree s sec (n + 24 * (x % stackFrames)) = true := by
  simp only [openStack, Bool.and_eq_true, decide_eq_true_eq, beq_iff_eq, Option.isNone_iff_eq_none] at h
  obtain ⟨⟨⟨⟨⟨⟨h1, h2⟩, h3⟩, h4⟩, h5⟩, h6⟩, h7⟩ := h
  have e1 : (n + 24 * (x % stackFrames)) % 24 = n := by omega
  have hx : x % stackFrames < stackFrames := Nat.mod_lt _ (by decide)
  have hd : (n + 24 * (x % stackFrames)) / 24 < 24576 := by
    simp only [stackFrames] at hx ⊢
    omega
  have h8 := List.all_eq_true.mp h4 ((n + 24 * (x % stackFrames)) / 24 / 512) (by simp only [List.mem_range]; omega)
  rw [beq_iff_eq] at h8
  simp only [frameFree, stackOf, regionOf, regionSecure, unitClearing, regionTested, e1, h3, h5, h6, h7, h8]
  simp
  constructor
  · simp only [stackFrames, frameCount] at hd ⊢
    omega
  · omega

theorem findFrame_of {s : State} {sec : Bool} {n : Nat} (x k : Nat) (h : openStack s sec n = true) :
    findFrame s sec n x (k + 1) = some (n + 24 * (x % stackFrames)) := by
  simp only [findFrame]
  rw [if_pos (frameFree_of x h)]

theorem placeOn_of {s : State} {sec : Bool} {n : Nat} (h : openStack s sec n = true) (k x : Nat) (e : ∃ i, i < k ∧ (x + i) % 24 = n) :
    ∃ f, placeOn s sec x k = some f := by
  induction k generalizing x with
  | zero => obtain ⟨i, hi, _⟩ := e; omega
  | succ k ih =>
    simp only [placeOn]
    cases hf : findFrame s sec (x % 24) (Config.freeNat s.freeNo % stackFrames) stackFrames with
    | some f => exact ⟨f, rfl⟩
    | none =>
      obtain ⟨i, hi, he⟩ := e
      apply ih
      cases i with
      | zero =>
        rw [Nat.add_zero] at he
        rw [he] at hf
        rw [show stackFrames = 24575 + 1 from rfl, findFrame_of _ _ h] at hf
        cases hf
      | succ i => exact ⟨i, by omega, by rw [← he]; congr 1; omega⟩

theorem allocPage_of {s : State} (sec : Bool) (n handle i : Nat) (h : openStack s sec n = true) :
    ∃ p u, allocPage s sec handle i = some (p, u) := by
  have hn : n < 24 := by
    simp only [openStack, Bool.and_eq_true, decide_eq_true_eq] at h
    exact h.1.1.1.1.1.2
  obtain ⟨f, hf⟩ := placeOn_of h 24 (placeHash s handle i) ⟨(n + 24 - placeHash s handle i % 24) % 24, Nat.mod_lt _ (by decide), by omega⟩
  exact ⟨{ frame := f }, lowCheck (incWrap (useFree (takeFrame s f)) (spReg 0x18) 1), by unfold allocPage; rw [hf]⟩

theorem placeOn_open {s : State} (sec : Bool) (n handle i : Nat) (h : openStack s sec n = true) :
    ∃ f, placeOn s sec (placeHash s handle i) 24 = some f := by
  have hn : n < 24 := by
    simp only [openStack, Bool.and_eq_true, decide_eq_true_eq] at h
    exact h.1.1.1.1.1.2
  exact placeOn_of h 24 (placeHash s handle i) ⟨(n + 24 - placeHash s handle i % 24) % 24, Nat.mod_lt _ (by decide), by omega⟩

theorem allocPages_one {s : State} (sec : Bool) (n handle i : Nat) (h : openStack s sec n = true) :
    ∃ ps u, allocPages s sec handle i 1 = some (ps, u) := by
  obtain ⟨p, u, e⟩ := allocPage_of sec n handle i h
  exact ⟨[p], u, by unfold allocPages; rw [e]; rfl⟩

/-- With every stack down nothing is given. -/
theorem allocPages_none {s : State} (sec : Bool) (handle i k : Nat) (h : ((List.range 24).all (fun n => !skUp s n)) = true) :
    allocPages s sec handle i (k + 1) = none := by
  have hf : ∀ f, frameFree s sec f = false := by
    intro f
    have := List.all_eq_true.mp h (f % 24) (by simp only [List.mem_range]; omega)
    simp only [Bool.not_eq_true'] at this
    unfold frameFree stackOf; rw [this]; simp only [Bool.and_false, Bool.false_and]
  have hk : ∀ k n x, findFrame s sec n x k = none := by
    intro k
    induction k with
    | zero => intro n x; rfl
    | succ k ih => intro n x; simp only [findFrame]; rw [if_neg (by simp [hf]), ih]
  have hp : ∀ k x, placeOn s sec x k = none := by
    intro k
    induction k with
    | zero => intro x; rfl
    | succ k ih => intro x; simp only [placeOn, hk, ih]
  have ha : allocPage s sec handle i = none := by unfold allocPage; rw [hp]
  unfold allocPages; rw [ha]

theorem loadObjects_empty {s : State} {slot : Nat} {i : Instance} (h : s.pot.objs = []) : ∃ a b u, loadObjects s slot i 0 0 = some (a, b, u) := by
  have h5 : (s.pot.objs.all (fun p => objClass p.1 != 5)) = true := by rw [h]; rfl
  have e5 : ∀ sec pin (n : State) c v u, newObj n c slot sec = some (v, u) →
      newObjPages n c slot sec pin 0 = some (v, setObj u v { inst := slot, secure := sec }) := by
    intro sec pin n c v u e
    unfold newObjPages
    rw [e]
    rfl
  have a5 := e5 i.secure false s 5 _ _ (newObj_of h5)
  obtain ⟨v, u, hv⟩ := newObj_one (s := setObj (useFree (setObj s (5 * 0x10000000 + Config.freeNat s.freeNo % 0x10000000)
    { inst := slot, secure := i.secure })) (5 * 0x10000000 + Config.freeNat s.freeNo % 0x10000000) { inst := slot, secure := i.secure })
    (c := 6) (inst := slot) (sec := i.secure) (5 * 0x10000000 + Config.freeNat s.freeNo % 0x10000000) { inst := slot, secure := i.secure }
    (by simp [setObj, useFree, h, mapSet])
  have b6 := e5 i.secure true _ 6 v u hv
  refine ⟨5 * 0x10000000 + Config.freeNat s.freeNo % 0x10000000, v, setObj u v { inst := slot, secure := i.secure }, ?_⟩
  unfold loadObjects
  simp only [show pagesFor 0 = 0 from rfl, a5, b6]

theorem newObjPages_none {s : State} {slot n : Nat} {i : Instance} (h : s.pot.objs = []) (hp : pagesFor n = 1)
    (d : ((List.range 24).all (fun n => !skUp s n)) = true) : newObjPages s 5 slot i.secure false (pagesFor n) = none := by
  have h5 : (s.pot.objs.all (fun p => objClass p.1 != 5)) = true := by rw [h]; rfl
  unfold newObjPages
  rw [newObj_of h5, hp]
  have g (x : Nat) (o : Obj) : allocPages (useFree (setObj s x o)) i.secure x 0 1 = none :=
    allocPages_none i.secure x 0 0 (by
      have k : ∀ n, skUp (useFree (setObj s x o)) n = skUp s n := fun _ => rfl
      simpa only [k] using d)
  simp only [g]
  split <;> rfl

theorem loadObjects_none {s : State} {slot n m : Nat} {i : Instance} (h : s.pot.objs = []) (hp : pagesFor n = 1)
    (d : ((List.range 24).all (fun n => !skUp s n)) = true) : loadObjects s slot i n m = none := by
  unfold loadObjects
  rw [newObjPages_none h hp d]

/-- An object of one page, of a class that has none, where the pool is open. -/
theorem newObjPages_some {s : State} {c inst n : Nat} {sec pin : Bool} (h : (s.pot.objs.all (fun p => objClass p.1 != c)) = true)
    (d : openStack s sec n = true) : ∃ h u, newObjPages s c inst sec pin 1 = some (h, u) := by
  have e0 := newObj_of (inst := inst) (sec := sec) h
  generalize c * 0x10000000 + Config.freeNat s.freeNo % 0x10000000 = x at e0
  obtain ⟨ps, u, e⟩ := @allocPages_one (useFree (setObj s x { inst := inst, secure := sec })) sec n x 0 d
  refine ⟨x, setObj u x { inst := inst, secure := sec, pages := ps.map (fun p => { p with pinned := pin }) }, ?_⟩
  unfold newObjPages
  rw [if_neg (by decide), e0]
  simp only [e]

theorem newObjPages_none6 {s : State} (h : s.pot.objs = []) (d : ((List.range 24).all (fun n => !skUp s n)) = true) :
    newObjPages s 6 64 true true 1 = none := by
  have h5 : (s.pot.objs.all (fun p => objClass p.1 != 6)) = true := by rw [h]; rfl
  unfold newObjPages
  rw [newObj_of h5]
  have g (x : Nat) (o : Obj) : allocPages (useFree (setObj s x o)) true x 0 1 = none :=
    allocPages_none true x 0 0 (by
      have k : ∀ n, skUp (useFree (setObj s x o)) n = skUp s n := fun _ => rfl
      simpa only [k] using d)
  simp only [g]
  split <;> rfl

/-- Stack 1 is up, with all of its regions and those of stack 0's first secure. -/
def up1s : State := { up1 with sec := { regions := 0 :: (List.range 48).map (· + 48) } }

theorem tileBlock (o t x : Nat) (ht : t < 17) (hs : x < 800) (ho : 0x01000000 + x * 0x40000 + t * 0x2000 + 4 = o) :
    regBlock o = .unmapped ∨ ∃ j, regBlock o = .tile j 4 := by
  have e : o % 0x40000 = t * 0x2000 + 4 := by omega
  have h1 : ¬ o % 4 ≠ 0 := by omega
  have h2 : ¬ o < 0x01000000 := by omega
  have h3 : o < 0x01000000 + 800 * 0x40000 := by omega
  have h4 : o % 0x40000 < 0x22000 := by omega
  have h5 : o % 0x40000 % 0x2000 = 4 := by omega
  unfold regBlock
  simp only [if_neg h1, if_neg h2, if_pos h3, if_pos h4, h5]
  split
  · exact Or.inr ⟨_, rfl⟩
  · exact Or.inl rfl
theorem reset_of {o : Nat} (h : regBlock o = .unmapped ∨ ∃ j, regBlock o = .tile j 4) : regReset o = 0 := by
  unfold regReset regDesc
  obtain h | ⟨j, h⟩ := h <;> rw [h] <;> rfl

theorem rd_nothing {s : State} (h : s.cw = []) {o : Nat} (e : regReset o = 0) : rd s o = 0 := by
  unfold rd; rw [h]; exact e

theorem calComplete_of {s : State} (h : (calRunning s == 0 && s.cw == []) = true) : calComplete s = true := by
  simp only [Bool.and_eq_true, beq_iff_eq] at h
  have f : ∀ k, initialCal s k = false := by
    intro k
    have r : rd s (tileReg k 4) = 0 :=
      rd_nothing h.2 (reset_of (tileBlock _ _ _ (Nat.mod_lt _ (by decide)) (Nat.mod_lt _ (by decide)) rfl))
    unfold initialCal tileState rdF
    rw [r]
    simp [fld, nbits]
  simp [calComplete, f, h.1]

section Checks

set_option maxRecDepth 100000

/-! ### Ill-formed commands -/

/-- A mailbox the part does not have. -/
theorem test_wf_mailbox : Instr.wf (.getInfo ⟨0, 64⟩) = false := by decide

/-- PF1 has eight mailboxes, and there is no third function. -/
theorem test_wf_control_mailbox : Instr.wf (.mbxCtlWrite ⟨1, 8⟩ 0 0) = false := by decide

/-- A failing DMA read names a mailbox of the part. -/
theorem test_wf_dma_mailbox : Instr.wf (.dmaReadError (.command ⟨2, 0⟩) 0) = false := by decide

/-- A failing DMA read names one of 64 slots. -/
theorem test_wf_dma_slot : Instr.wf (.dmaReadError (.frame 64 0) 0) = false := by decide

/-- 64 slots. -/
theorem test_wf_slot : Instr.wf (.passBoundary 64 0) = false := by decide

/-- 800 sites. -/
theorem test_wf_site : Instr.wf (.engineRoundEnd 800) = false := by decide

/-- 16 slots in a core. -/
theorem test_wf_head : Instr.wf (.columnClose 0 16) = false := by decide

/-- Slot 16 is at the lower-numbered site of a pair. -/
theorem test_wf_tile : Instr.wf (.tilePass 1 16) = false := by decide

/-- Column 12 carries no spare tile. -/
theorem test_wf_spare_column : Instr.wf (.tilePass 12 16) = false := by decide

/-- 24 stacks. -/
theorem test_wf_stack : Instr.wf (.stackScrub 24 []) = false := by decide

/-- 18 ports. -/
theorem test_wf_port : Instr.wf (.drainComplete 18) = false := by decide

/-- Two functions. -/
theorem test_wf_function : Instr.wf (.functionLevelReset 2) = false := by decide

/-- 80 vectors on PF0 and 16 on PF1. -/
theorem test_wf_vector : Instr.wf (.msixUnmask 1 16) = false := by decide

/-- Seven rails. -/
theorem test_wf_rail : Instr.wf (.railInRegulation 7) = false := by decide

/-- 160 channels. -/
theorem test_wf_channel : Instr.wf (.hksConversion 160 0 0) = false := by decide

/-- 32 rows. -/
theorem test_wf_row : Instr.wf (.spareSiteSettled 32) = false := by decide

/-- A mesh destination the part has. -/
theorem test_wf_mesh_destination : Instr.wf (.meshPacketInject { pk .read with dest := .site 800 }) = false := by decide

/-- 24 logical columns. -/
theorem test_wf_mesh_column : Instr.wf (.meshPacketInject { pk .read with dest := .logical 24 0 }) = false := by decide

/-- 44 external ports of the mesh. -/
theorem test_wf_mesh_port : Instr.wf (.meshPacketInject { pk .read with dest := .port 44 }) = false := by decide

/-- Four virtual channels. -/
theorem test_wf_mesh_channel : Instr.wf (.meshPacketInject { pk .read with vc := 4 }) = false := by decide

/-- A mesh source the part has. -/
theorem test_wf_mesh_source : Instr.wf (.meshPacketInject { pk .read with src := 0x42C }) = false := by decide

/-- At most 2 flits on VC0. -/
theorem test_wf_mesh_length : Instr.wf (.meshPacketInject { pk .read with vc := 0, payload := zeros 65 }) = false := by decide

/-- The other site of a pair is slot 16's, and a tile of it is well formed. -/
theorem test_wf_good : Instr.wf (.tilePass 0 16) = true ∧ Instr.wf (.tilePass 13 16) = true ∧ Instr.wf (.getInfo ⟨1, 7⟩) = true := by decide

/-- An ill-formed command stops by name (log entry 1). -/
theorem test_exec_ill_formed : exec (.tilePass 1 16) State.reset = .fault .noSuchUnit := rfl

/-! ### Worked examples of the spec -/

/-- The two steps of R348's example. -/
theorem test_lfsr_example : lfsrStep 0xC000000000000000 = 0x8000000000000000 ∧ lfsrStep 0x8000000000000000 = 1 ∧
    (lfsrDraw 2 0xC000000000000000 0).1 = 3 := by decide

/-- The check value of the header CRC (10): "123456789". -/
theorem test_crc16_example : crc16 [0x31, 0x32, 0x33, 0x34, 0x35, 0x36, 0x37, 0x38, 0x39] = 0x29B1 := by decide

/-- Table 02.14: (b, S in units, dither) of the sixteen phases, with k = 3. -/
def workedPass : List (Nat × Int × Int) :=
  [(0, 37, 1), (0, -22, -2), (0, 15, 0), (0, -9, -1), (1, 41, 1), (1, -18, 0), (1, 131, -2), (1, -5, 1),
   (2, 29, -1), (2, -25, 0), (2, 12, 1), (2, 3, -2), (3, -33, 0), (3, 20, 1), (3, -14, -1), (3, 7, 0)]

/-- Table 02.14: the codes. -/
theorem test_worked_codes : workedPass.map (fun x => clampI (-64) 63 (idealCode x.2.1 3 x.2.2)) =
    [19, -11, 8, -5, 21, -9, 63, -2, 14, -12, 6, 1, -16, 10, -7, 4] := by decide

/-- Table 02.14: the run's narrow sum V is 1,070. -/
theorem test_worked_sum : (workedPass.map (fun x => planeWeight x.1 * (4 * clampI (-64) 63 (idealCode x.2.1 3 x.2.2) - x.2.2))).sum = 1070 := by
  decide

/-! ### The hypotheses of the statements are met -/


theorem test_WellFormedCommandsComplete_meets :
    (∃ (c : Instr) (s : State), c.wf = true) ∧
    (∃ (c : Instr) (s : State), c.wf = false) :=
  ⟨⟨.getInfo p1, part, by decide⟩,
   ⟨.getInfo { pf := 0, idx := 64 }, part, by decide⟩⟩

theorem test_ResetValuesAndIdling_meets :
    ∃ (s : State), s.pending = [] :=
  ⟨part, by decide⟩

theorem test_StepsKeepMemoriesCanonical_meets :
    ∃ (s : State) (t : State), step s = .next t :=
  ⟨part, part, by rfl⟩

theorem test_RegistersAreReadAndWritten_meets :
    (∃ (s : State) (m : MbxId), Ready s m 0x0001 0) ∧
    (∃ (s : State) (m : MbxId), Ready s m 0x0002 16 ∧ reqN s m 8 8 % 4 = 0 ∧ reqN s m 8 8 < 2 ^ 41 ∧ 1 ≤ reqN s m 16 2 ∧ reqN s m 16 2 ≤ 116 ∧ ZeroAt s m 20 4 ∧ (mbxSecure s m = true ∨ ∀ w ∈ regOffsets s m, regSecure s w.2 = false)) ∧
    (∃ (s : State) (m : MbxId) (w : Nat × Nat), Ready s m 0x0002 16 ∧ reqN s m 8 8 % 4 = 0 ∧ reqN s m 8 8 < 2 ^ 41 ∧ 1 ≤ reqN s m 16 2 ∧ reqN s m 16 2 ≤ 116 ∧ ZeroAt s m 20 4 ∧ mbxSecure s m = false ∧ (regOffsets s m).find? (fun w => regSecure s w.2) = some w) ∧
    (∃ (s : State) (m : MbxId) (e : Err), Ready s m 0x0003 (16 + 4 * reqN s m 16 2) ∧ reqN s m 8 8 % 4 = 0 ∧ reqN s m 8 8 < 2 ^ 41 ∧ 1 ≤ reqN s m 16 2 ∧ reqN s m 16 2 ≤ 114 ∧ ZeroAt s m 20 4 ∧ writeCheck s m = some e) ∧
    (∃ (s : State) (m : MbxId) (o : Nat), Ready s m 0x0003 20 ∧ reqN s m 8 8 = o ∧ reqN s m 16 2 = 1 ∧ ZeroAt s m 20 4 ∧ mbxSecure s m = true ∧ o ∈ [chReg 0, chReg 4, chReg 8, calReg 0, calReg 4, spReg 0, spReg 4, spReg 8, ldReg 0, ldReg 4, ldReg 0x40, ldReg 0x44, imgReg 0, hkReg 0, btReg 0]) ∧
    (∃ (s : State) (m : MbxId) (r : FaultRec) (rs : List FaultRec), Ready s m 0x0004 16 ∧ 1 ≤ reqN s m 12 2 ∧ reqN s m 12 2 ≤ 1024 ∧ ZeroAt s m 14 2 ∧ mbxSecure s m = true ∧ (s.faults.filter (fun x => reqN s m 8 4 ≤ x.seq.toNat)).take (reqN s m 12 2) = r :: rs) ∧
    (∃ (s : State) (m : MbxId), Ready s m 0x0004 16 ∧ 1 ≤ reqN s m 12 2 ∧ reqN s m 12 2 ≤ 1024 ∧ ZeroAt s m 14 2 ∧ (∀ x ∈ s.faults, reqN s m 8 4 ≤ x.seq.toNat → mbxSecure s m = false ∧ faultHidden s x = true)) :=
  ⟨⟨cmd part p1 0x0001 0 [], p1, ready_of (by decide)⟩,
   ⟨cmd part p1 0x0002 16 [(8, 8, 0x0E300000), (16, 2, 2), (18, 2, 1)], p1, ready_of (by decide), by decide, by decide, by decide, by decide, zeroAt_of (by decide), Or.inl (by decide)⟩,
   ⟨cmd { part with sec := { cores := [0] } } h0 0x0002 16 [(8, 8, 0x01000000), (16, 2, 116), (18, 2, 1)], h0, (0, 0x01000000), ready_of (by decide), by decide, by decide, by decide, by decide, zeroAt_of (by decide), by decide, by rfl⟩,
   ⟨cmd part p1 0x0003 472 [(8, 8, 0x0E000000 - 4), (16, 2, 114), (18, 2, 1), (24, 4, 1)], p1, { st := stBadParam, d0 := 24 }, ready_of (by decide), by decide, by decide, by decide, by decide, zeroAt_of (by decide), by rfl⟩,
   ⟨cmd part p1 0x0003 20 [(8, 8, 0x0E300000), (16, 2, 1), (18, 2, 1), (24, 4, 7)], p1, calReg 0, ready_of (by decide), by decide, by decide, zeroAt_of (by decide), by decide, by decide⟩,
   ⟨cmd { part with faults := [fault] } p1 0x0004 16 [(8, 4, 4), (12, 2, 1024)], p1, fault, [], ready_of (by decide), by decide, by decide, zeroAt_of (by decide), by decide, by decide⟩,
   ⟨cmd { part with faults := [fault] } p1 0x0004 16 [(8, 4, 5), (12, 2, 1)], p1, ready_of (by decide), by decide, by decide, zeroAt_of (by decide), by decide⟩⟩

theorem test_InstancesComeAndGo_meets :
    (∃ (s : State) (m : MbxId), Ready s m 0x0101 64 ∧ reqN s m 10 1 < 64 ∧ reqN s m 11 1 < 4 ∧ reqN s m 12 2 < 8192 ∧ reqN s m 14 2 < 8192 ∧ (reqN s m 14 2 = partId s → reqN s m 56 8 % 64 = 0 ∧ 9 ≤ reqN s m 64 1 ∧ reqN s m 64 1 ≤ 24 ∧ reqN s m 65 1 < 64) ∧ ZeroAt s m 67 1 ∧ (reqN s m 68 2 = 0 ↔ reqN s m 11 1 % 2 = 0) ∧ (reqN s m 70 2 = 0 ↔ reqN s m 11 1 / 2 = 0) ∧ instOf s (reqN s m 10 1) = none ∧ instSlot s (reqN s m 8 2) = none) ∧
    (∃ (s : State) (m : MbxId) (slot : Nat) (i : Instance), Ready s m 0x0102 8 ∧ ZeroAt s m 10 6 ∧ Names s m slot i ∧ i.genJob = none ∧ (∀ y ∈ i.staged, y.state ≠ .writing) ∧ i.save = none ∧ i.record.on = false ∧ i.replay = none ∧ i.removing = none) ∧
    (∃ (s : State) (slot : Nat) (i : Instance) (r : MbxRef), slot < 64 ∧ instOf s slot = some i ∧ i.removing = some r ∧ i.flight = [] ∧ i.markers = []) :=
  ⟨⟨cmd part p1 0x0101 64 [(8, 2, 7), (10, 1, 3), (16, 8, 9), (56, 8, 0x1000), (64, 1, 9)], p1, ready_of (by decide), by decide, by decide, by decide, by decide, by decide, zeroAt_of (by decide), by decide, by decide, by decide, by decide⟩,
   ⟨cmd (hold i7) p1 0x0102 8 [(8, 2, 7)], p1, 3, i7, ready_of (by decide), zeroAt_of (by decide), names_of rfl rfl (by decide), by rfl, by decide, by rfl, by rfl, by rfl, by rfl⟩,
   ⟨hold { i7 with removing := some r7 }, 3, { i7 with removing := some r7 }, r7, by decide, by rfl, by rfl, by rfl, by rfl⟩⟩

theorem test_HandlesComeAndGo_meets :
    (∃ (s : State) (m : MbxId) (slot : Nat) (i : Instance), Ready s m 0x0110 8 ∧ ZeroAt s m 10 6 ∧ NamesEntry s m slot i ∧ classCount s 1 < 0x100000) ∧
    (∃ (s : State) (m : MbxId) (slot : Nat) (i : Instance) (c : Ctx), Ready s m 0x0111 8 ∧ ZeroAt s m 10 2 ∧ NamesEntry s m slot i ∧ HandleOpen s m (reqN s m 12 4) ∧ mapFind i.ctxs (reqN s m 12 4) = some c ∧ c.busy = false) ∧
    (∃ (s : State) (m : MbxId) (slot : Nat) (i : Instance) (c : Ctx) (o : Obj), Ready s m 0x0112 16 ∧ ZeroAt s m 10 2 ∧ reqN s m 16 4 ≠ 0 ∧ ZeroAt s m 20 4 ∧ NamesEntry s m slot i ∧ HandleOpen s m (reqN s m 12 4) ∧ mapFind i.ctxs (reqN s m 12 4) = some c ∧ c.busy = false ∧ reqN s m 16 4 ≤ c.len ∧ objAt s (reqN s m 12 4) = some o ∧ classCount s 2 < 0x100000 ∧ (holdPages (o.pages.take (cachePages i (reqN s m 16 4))) s).isSome = true) ∧
    (∃ (s : State) (m : MbxId) (slot : Nat) (i : Instance) (p : Pfx), Ready s m 0x0113 8 ∧ ZeroAt s m 10 2 ∧ NamesEntry s m slot i ∧ HandleOpen s m (reqN s m 12 4) ∧ mapFind i.pfxs (reqN s m 12 4) = some p) :=
  ⟨⟨cmd (hold i7) p1 0x0110 8 [(8, 2, 7)], p1, 3, i7, ready_of (by decide), zeroAt_of (by decide), namesEntry_of rfl rfl (by decide) (by decide), by decide⟩,
   ⟨cmd ({ hold { i7 with ctxs := [(0x10000005, { len := 40, gen := 0 })] } with pot := { objs := [(0x10000005, { inst := 3, secure := false })] } }) p1 0x0111 8 [(8, 2, 7), (12, 4, 0x10000005)], p1, 3, { i7 with ctxs := [(0x10000005, { len := 40, gen := 0 })] }, { len := 40, gen := 0 }, ready_of (by decide), zeroAt_of (by decide), namesEntry_of rfl rfl (by decide) (by decide), handleOpen_of (by decide), by rfl, by decide⟩,
   ⟨cmd ({ hold { i7 with ctxs := [(0x10000005, { len := 40, gen := 0 })] } with pot := { objs := [(0x10000005, { inst := 3, secure := false })] } }) p1 0x0112 16 [(8, 2, 7), (12, 4, 0x10000005), (16, 4, 40)], p1, 3, { i7 with ctxs := [(0x10000005, { len := 40, gen := 0 })] }, { len := 40, gen := 0 }, { inst := 3, secure := false }, ready_of (by decide), zeroAt_of (by decide), by decide, zeroAt_of (by decide), namesEntry_of rfl rfl (by decide) (by decide), handleOpen_of (by decide), by rfl, by decide, by decide, by rfl, by decide, by decide⟩,
   ⟨cmd ({ hold { i7 with pfxs := [(0x20000005, { len := 40, gen := 0 })] } with pot := { objs := [(0x20000005, { inst := 3, secure := false })] } }) p1 0x0113 8 [(8, 2, 7), (12, 4, 0x20000005)], p1, 3, { i7 with pfxs := [(0x20000005, { len := 40, gen := 0 })] }, { len := 40, gen := 0 }, ready_of (by decide), zeroAt_of (by decide), namesEntry_of rfl rfl (by decide) (by decide), handleOpen_of (by decide), by rfl⟩⟩

theorem test_DeltaSetsComeAndGo_meets :
    (∃ (s : State) (u : State) (w : State) (m : MbxId) (src : Bytes) (slot : Nat) (h : Nat) (v : Nat) (i : Instance), Ready s m 0x0114 24 ∧ heldCmd s m 0x0114 = none ∧ busMaster s m.pf = true ∧ reqN s m 10 1 < 64 ∧ ZeroAt s m 11 1 ∧ NamesEntry s m slot i ∧ groupHere s m = none ∧ deltaGenOk s m = none ∧ newObj (accept s m) 3 slot i.secure = some (h, u) ∧ makeVersion u slot ((instOf (accept s m) slot).getD i) (deltaGen s m slot) src = .ok (v, w)) ∧
    (∃ (s : State) (m : MbxId) (src : Bytes) (slot : Nat) (i : Instance) (bs : List SrcBlock), Ready s m 0x0114 24 ∧ heldCmd s m 0x0114 = none ∧ busMaster s m.pf = true ∧ reqN s m 10 1 < 64 ∧ ZeroAt s m 11 1 ∧ NamesEntry s m slot i ∧ groupHere s m = none ∧ deltaGenOk s m = none ∧ readSource src = some bs ∧ bs.all (fun b => b.ordinal != i.ordinal) = true ∧ classCount s 3 < 0xFFFFF) ∧
    (∃ (s : State) (m : MbxId) (src : Bytes) (slot : Nat) (i : Instance) (d : DeltaSet) (bs : List SrcBlock), Ready s m 0x0115 32 ∧ heldCmd s m 0x0115 = none ∧ busMaster s m.pf = true ∧ reqN s m 10 1 < 64 ∧ ZeroAt s m 11 1 ∧ ZeroAt s m 36 4 ∧ NamesEntry s m slot i ∧ groupHere s m = none ∧ HandleOpen s m (reqN s m 32 4) ∧ mapFind i.sets (reqN s m 32 4) = some d ∧ d.loading = none ∧ d.pending = none ∧ deltaGenOk s m = none ∧ genState s slot ≠ 2 ∧ readSource src = some bs ∧ bs.all (fun b => b.ordinal != i.ordinal) = true ∧ classCount s 3 < 0x100000) ∧
    (∃ (s : State) (w : State) (m : MbxId) (src : Bytes) (slot : Nat) (v : Nat) (i : Instance) (d : DeltaSet), Ready s m 0x0115 32 ∧ heldCmd s m 0x0115 = none ∧ busMaster s m.pf = true ∧ reqN s m 10 1 < 64 ∧ ZeroAt s m 11 1 ∧ ZeroAt s m 36 4 ∧ NamesEntry s m slot i ∧ groupHere s m = none ∧ HandleOpen s m (reqN s m 32 4) ∧ mapFind i.sets (reqN s m 32 4) = some d ∧ d.loading = none ∧ d.pending = none ∧ deltaGenOk s m = none ∧ genState s slot ≠ 2 ∧ makeVersion (accept s m) slot ((instOf (accept s m) slot).getD i) (deltaGen s m slot) src = .ok (v, w)) ∧
    (∃ (s : State) (slot : Nat) (h : Nat) (v : Nat) (i : Instance) (d : DeltaSet) (r : MbxRef), slot < 64 ∧ instOf s slot = some i ∧ mapFind i.sets h = some d ∧ d.loading = some (v, r)) ∧
    (∃ (s : State) (m : MbxId) (slot : Nat) (i : Instance) (d : DeltaSet), Ready s m 0x0116 8 ∧ ZeroAt s m 10 2 ∧ NamesEntry s m slot i ∧ HandleOpen s m (reqN s m 12 4) ∧ mapFind i.sets (reqN s m 12 4) = some d ∧ d.loading = none ∧ d.pending = none) :=
  ⟨by
    obtain ⟨v, x, hx⟩ := newObj_one (s := useFree (setObj (accept (cmd (hold i7 { part with ladle := { groups := [(2, { stream := 0, ids := [5, 0], tag := 9 })] } }) p1 0x0114 24 [(8, 2, 7), (10, 1, 2)]) p1) (3 * 0x10000000 + Config.freeNat (cmd (hold i7 { part with ladle := { groups := [(2, { stream := 0, ids := [5, 0], tag := 9 })] } }) p1 0x0114 24 [(8, 2, 7), (10, 1, 2)]).freeNo % 0x10000000) { inst := 3, secure := false })) (c := 3) (inst := 3)
      (sec := false) (3 * 0x10000000 + Config.freeNat (cmd (hold i7 { part with ladle := { groups := [(2, { stream := 0, ids := [5, 0], tag := 9 })] } }) p1 0x0114 24 [(8, 2, 7), (10, 1, 2)]).freeNo % 0x10000000) { inst := 3, secure := false } rfl
    obtain ⟨w, hw⟩ := makeVersion_empty (gen := 0) (i := i7) hx
    exact ⟨_, _, w, p1, [], 3, _, v, i7, ready_of (by decide), rfl, rfl, by decide, zeroAt_of (by decide),
      namesEntry_of rfl rfl (by decide) (by decide), by decide, by decide, newObj_of (by decide), hw⟩,
   ⟨cmd (hold i7 { part with ladle := { groups := [(2, { stream := 0, ids := [5, 0], tag := 9 })] } }) p1 0x0114 24 [(8, 2, 7), (10, 1, 2)], p1, [], 3, i7, [], ready_of (by decide), by decide, by decide, by decide, zeroAt_of (by decide), namesEntry_of rfl rfl (by decide) (by decide), by decide, by decide, by rfl, by decide, by decide⟩,
   ⟨cmd (hold { i7 with sets := [(0x30000001, { cur := 0x30000002 })], vers := [(0x30000002, { gen := 0, refs := 1, blocks := [] })] } { part with ladle := { groups := [(2, { stream := 0, ids := [5, 0], tag := 9 })] } }) p1 0x0115 32 [(8, 2, 7), (10, 1, 2), (32, 4, 0x30000001)], p1, [], 3, { i7 with sets := [(0x30000001, { cur := 0x30000002 })], vers := [(0x30000002, { gen := 0, refs := 1, blocks := [] })] }, { cur := 0x30000002 }, [], ready_of (by decide), by decide, by decide, by decide, zeroAt_of (by decide), zeroAt_of (by decide), namesEntry_of rfl rfl (by decide) (by decide), by decide, handleOpen_of (by decide), by rfl, by decide, by decide, by decide, by decide, by rfl, by decide, by decide⟩,
   by
    obtain ⟨w, hw⟩ := makeVersion_empty (gen := 0) (slot := 3) (i := { i7 with sets := [(0x30000001, { cur := 0x30000002 })], vers := [(0x30000002, { gen := 0, refs := 1, blocks := [] })] })
      (newObj_of (s := accept (cmd (hold { i7 with sets := [(0x30000001, { cur := 0x30000002 })], vers := [(0x30000002, { gen := 0, refs := 1, blocks := [] })] } { part with ladle := { groups := [(2, { stream := 0, ids := [5, 0], tag := 9 })] } }) p1 0x0115 32 [(8, 2, 7), (10, 1, 2), (32, 4, 0x30000001)]) p1) (c := 3) (inst := 3) (sec := false) (by decide))
    exact ⟨_, w, p1, [], 3, _, _, _, ready_of (by decide), rfl, rfl, by decide, zeroAt_of (by decide), zeroAt_of (by decide),
      namesEntry_of rfl rfl (by decide) (by decide), by decide, handleOpen_of (by decide), rfl, rfl, rfl, by decide, by decide, hw⟩,
   ⟨hold { i7 with sets := [(0x30000001, { cur := 0x30000002, loading := some (0x30000003, r7) })], vers := [(0x30000002, { gen := 0, refs := 1, blocks := [] }), (0x30000003, { gen := 0, refs := 1, blocks := [] })] }, 3, 0x30000001, 0x30000003, { i7 with sets := [(0x30000001, { cur := 0x30000002, loading := some (0x30000003, r7) })], vers := [(0x30000002, { gen := 0, refs := 1, blocks := [] }), (0x30000003, { gen := 0, refs := 1, blocks := [] })] }, { cur := 0x30000002, loading := some (0x30000003, r7) }, r7, by decide, by rfl, by rfl, by rfl⟩,
   ⟨cmd (hold { i7 with sets := [(0x30000001, { cur := 0x30000002 })], vers := [(0x30000002, { gen := 0, refs := 1, blocks := [] })] }) p1 0x0116 8 [(8, 2, 7), (12, 4, 0x30000001)], p1, 3, { i7 with sets := [(0x30000001, { cur := 0x30000002 })], vers := [(0x30000002, { gen := 0, refs := 1, blocks := [] })] }, { cur := 0x30000002 }, ready_of (by decide), zeroAt_of (by decide), namesEntry_of rfl rfl (by decide) (by decide), handleOpen_of (by decide), by rfl, by decide, by decide⟩⟩

theorem test_FramesAreAdmittedInOrder_meets :
    (∃ (s : State) (m : MbxId) (descs : List Bytes) (seqs : List (List Bytes)) (slot : Nat) (i : Instance), Ready s m 0x0201 16 ∧ heldCmd s m 0x0201 = none ∧ busMaster s m.pf = true ∧ 1 ≤ reqN s m 10 2 ∧ reqN s m 10 2 ≤ 1024 ∧ ZeroAt s m 12 4 ∧ reqN s m 16 8 % 32 = 0 ∧ NamesEntry s m slot i ∧ i.removing = none ∧ i.replay = none) ∧
    (∃ (s : State) (slot : Nat) (inputs : List Bytes) (supply : FrameSupply) (i : Instance) (w : Waiting) (ws : List Waiting) (r : Resv), slot < 64 ∧ instOf s slot = some i ∧ i.replay = none ∧ i.waiting = w :: ws ∧ entryHere s i = true ∧ s.life.partState = psReady ∧ inFlight i < inFlightMax s slot ∧ barrierFree s slot i = true ∧ recordRoom i w = true ∧ busMaster s (submitPf i w) = true ∧ admitCheck s slot i w = none ∧ resvFrame s slot i (resvList i (frameOf s slot i w inputs).seqs) supply = .ok r) ∧
    (∃ (s : State) (slot : Nat) (inputs : List Bytes) (supply : FrameSupply) (i : Instance) (w : Waiting) (ws : List Waiting) (k : Nat), slot < 64 ∧ instOf s slot = some i ∧ i.replay = none ∧ i.waiting = w :: ws ∧ entryHere s i = true ∧ s.life.partState = psReady ∧ inFlight i < inFlightMax s slot ∧ barrierFree s slot i = true ∧ recordRoom i w = true ∧ busMaster s (submitPf i w) = true ∧ admitCheck s slot i w = none ∧ resvFrame s slot i (resvList i (frameOf s slot i w inputs).seqs) supply = .error k) ∧
    (∃ (s : State) (slot : Nat) (inputs : List Bytes) (supply : FrameSupply) (i : Instance) (w : Waiting) (ws : List Waiting) (st : Nat) (k : Nat), slot < 64 ∧ instOf s slot = some i ∧ i.replay = none ∧ i.waiting = w :: ws ∧ entryHere s i = true ∧ s.life.partState = psReady ∧ inFlight i < inFlightMax s slot ∧ barrierFree s slot i = true ∧ recordRoom i w = true ∧ busMaster s (submitPf i w) = true ∧ admitCheck s slot i w = some (st, k) ∧ st ≠ stStockpotFull) ∧
    (∃ (s : State) (slot : Nat) (inputs : List Bytes) (supply : FrameSupply) (i : Instance), slot < 64 ∧ instOf s slot = some i ∧ i.replay = none ∧ (inFlightMax s slot ≤ inFlight i ∨ barrierFree s slot i = false)) ∧
    (∃ (s : State) (slot : Nat) (inputs : List Bytes) (supply : FrameSupply) (i : Instance), slot < 64 ∧ instOf s slot = some i ∧ i.replay = none ∧ (inFlightMax s slot ≤ inFlight i ∨ barrierFree s slot i = false)) :=
  ⟨⟨cmd (hold i7) p1 0x0201 16 [(8, 2, 7), (10, 2, 1024), (16, 8, 32)], p1, [], [], 3, i7, ready_of (by decide), by decide, by decide, by decide, by decide, zeroAt_of (by decide), by decide, namesEntry_of rfl rfl (by decide) (by decide), by rfl, by rfl⟩,
   ⟨hold (iw 7), 3, [], {}, iw 7, w7 7, [], _, by decide, by rfl, by rfl, by rfl, by decide, by decide, by decide, by decide, by decide, by decide, by decide, rfl⟩,
   ⟨hold (iw 7), 3, [], { spill := 65537 }, iw 7, w7 7, [], 0, by decide, by rfl, by rfl, by rfl, by decide, by decide, by decide, by decide, by decide, by decide, by decide, by rfl⟩,
   ⟨hold (iw 8), 3, [], {}, iw 8, w7 8, [], stBadDescriptor, 0, by decide, by rfl, by rfl, by rfl, by decide, by decide, by decide, by decide, by decide, by decide, by rfl, by decide⟩,
   ⟨wr (hold { iw 7 with flight := [fl7] }) (svReg 3 4) 1, 3, [], {}, { iw 7 with flight := [fl7] }, by decide, by rfl, by rfl, Or.inl (by decide)⟩,
   ⟨wbit (hold (iw 7)) (imgSlotReg 3 8) 3 true, 3, [], {}, iw 7, by decide, by rfl, by rfl, Or.inr (by decide)⟩⟩

theorem test_FramesCommitInOrder_meets :
    (∃ (s : State) (slot : Nat) (f : FrameMsg) (supply : FrameSupply) (i : Instance) (r : Resv), slot < 64 ∧ instOf s slot = some i ∧ i.replay = none ∧ entryHere s i = false ∧ i.placed = true ∧ i.flight.any (fun g => g.msg.step == f.step) = false ∧ f.marker = none ∧ stageResv s slot f supply = some r) ∧
    (∃ (s : State) (slot : Nat) (results : List SeqResult) (i : Instance) (f : Flight) (fs : List Flight), slot < 64 ∧ instOf s slot = some i ∧ i.replay = none ∧ exitHere s i = true ∧ i.markers = [] ∧ i.flight = f :: fs ∧ f.msg.marker = none ∧ passOver s slot i f = true ∧ f.abortSeen = false ∧ 1 + f.msg.seqs.length ≤ ringFree i.ring) ∧
    (∃ (s : State) (slot : Nat) (results : List SeqResult) (i : Instance) (f : Flight) (fs : List Flight), slot < 64 ∧ instOf s slot = some i ∧ i.replay = none ∧ exitHere s i = true ∧ i.markers = [] ∧ i.flight = f :: fs ∧ f.msg.marker = none ∧ passOver s slot i f = true ∧ f.abortSeen = false ∧ ringFree i.ring < 1 + f.msg.seqs.length) ∧
    (∃ (s : State) (slot : Nat) (out : OutcomeMsg) (i : Instance) (f : Flight), slot < 64 ∧ instOf s slot = some i ∧ i.replay = none ∧ exitHere s i = false ∧ i.flight.find? (fun g => g.msg.step == out.step) = some f) :=
  ⟨⟨hold { i7 with entry := 4, placed := true }, 3, f7, {}, { i7 with entry := 4, placed := true }, _, by decide, by rfl, by rfl, by decide, by rfl, by rfl, by decide, rfl⟩,
   ⟨hold { i7 with placed := true, flight := [fl7] }, 3, [.logits [[]]], { i7 with placed := true, flight := [fl7] }, fl7, [], by decide, by rfl, by rfl, by decide, by rfl, by rfl, by decide, by decide, by decide, by decide⟩,
   ⟨hold { ({ i7 with placed := true, flight := [fl7] }) with ring := { head := 511 } }, 3, [.logits [[]]], { ({ i7 with placed := true, flight := [fl7] }) with ring := { head := 511 } }, fl7, [], by decide, by rfl, by rfl, by decide, by rfl, by rfl, by decide, by decide, by decide, by decide⟩,
   ⟨hold { ({ i7 with placed := true, flight := [fl7] }) with exit := 4 }, 3, { step := 4, tag := 77, outcome := .completed, accepted := [0] }, { ({ i7 with placed := true, flight := [fl7] }) with exit := 4 }, fl7, by decide, by rfl, by rfl, by decide, by rfl⟩⟩

theorem test_AbortDecides_meets :
    (∃ (s : State) (m : MbxId) (slot : Nat) (i : Instance) (f : Flight), Ready s m 0x0202 16 ∧ ZeroAt s m 10 6 ∧ NamesEntry s m slot i ∧ i.flight.find? (fun f => f.msg.tag == BitVec.ofNat 64 (reqN s m 16 8)) = some f ∧ f.msg.replayed = false ∧ i.exit = partId s ∧ i.passStep ≠ some f.msg.step) ∧
    (∃ (s : State) (m : MbxId) (slot : Nat) (i : Instance) (f : Flight), Ready s m 0x0202 16 ∧ ZeroAt s m 10 6 ∧ NamesEntry s m slot i ∧ i.flight.find? (fun f => f.msg.tag == BitVec.ofNat 64 (reqN s m 16 8)) = some f ∧ f.msg.replayed = false ∧ i.exit = partId s) ∧
    (∃ (s : State) (m : MbxId) (slot : Nat) (i : Instance) (f : Flight), Ready s m 0x0202 16 ∧ ZeroAt s m 10 6 ∧ NamesEntry s m slot i ∧ i.flight.find? (fun f => f.msg.tag == BitVec.ofNat 64 (reqN s m 16 8)) = some f ∧ f.msg.replayed = false ∧ i.exit ≠ partId s) ∧
    (∃ (s : State) (m : MbxId) (slot : Nat) (i : Instance) (w : Waiting), Ready s m 0x0202 16 ∧ ZeroAt s m 10 6 ∧ NamesEntry s m slot i ∧ i.flight.find? (fun f => f.msg.tag == BitVec.ofNat 64 (reqN s m 16 8)) = none ∧ i.waiting.find? (fun w => dTag w.desc == BitVec.ofNat 64 (reqN s m 16 8)) = some w ∧ i.submits.all (fun b => decide (b.mbx.id ≠ m)) = true) ∧
    (∃ (s : State) (m : MbxId) (slot : Nat) (i : Instance), Ready s m 0x0202 16 ∧ ZeroAt s m 10 6 ∧ NamesEntry s m slot i ∧ i.flight.find? (fun f => f.msg.tag == BitVec.ofNat 64 (reqN s m 16 8)) = none ∧ i.waiting.find? (fun w => dTag w.desc == BitVec.ofNat 64 (reqN s m 16 8)) = none) ∧
    (∃ (s : State) (slot : Nat) (step : W64) (i : Instance), slot < 64 ∧ instOf s slot = some i ∧ entryHere s i = false) :=
  ⟨⟨cmd (hold { i7 with placed := true, flight := [fl7] }) p1 0x0202 16 [(8, 2, 7), (16, 8, 77)], p1, 3, { i7 with placed := true, flight := [fl7] }, fl7, ready_of (by decide), zeroAt_of (by decide), namesEntry_of rfl rfl (by decide) (by decide), by rfl, by decide, by rfl, by decide⟩,
   ⟨cmd (hold { i7 with placed := true, flight := [fl7] }) p1 0x0202 16 [(8, 2, 7), (16, 8, 77)], p1, 3, { i7 with placed := true, flight := [fl7] }, fl7, ready_of (by decide), zeroAt_of (by decide), namesEntry_of rfl rfl (by decide) (by decide), by rfl, by decide, by rfl⟩,
   ⟨cmd (hold { ({ i7 with placed := true, flight := [fl7] }) with exit := 4 }) p1 0x0202 16 [(8, 2, 7), (16, 8, 77)], p1, 3, { ({ i7 with placed := true, flight := [fl7] }) with exit := 4 }, fl7, ready_of (by decide), zeroAt_of (by decide), namesEntry_of rfl rfl (by decide) (by decide), by rfl, by decide, by decide⟩,
   ⟨cmd (hold { iw 7 with submits := [] }) p1 0x0202 16 [(8, 2, 7), (16, 8, 77)], p1, 3, { iw 7 with submits := [] }, w7 7, ready_of (by decide), zeroAt_of (by decide), namesEntry_of rfl rfl (by decide) (by decide), by rfl, by rfl, by rfl⟩,
   ⟨cmd (hold { i7 with placed := true, flight := [fl7] }) p1 0x0202 16 [(8, 2, 7), (16, 8, 78)], p1, 3, { i7 with placed := true, flight := [fl7] }, ready_of (by decide), zeroAt_of (by decide), namesEntry_of rfl rfl (by decide) (by decide), by rfl, by rfl⟩,
   ⟨hold { ({ i7 with placed := true, flight := [fl7] }) with entry := 4 }, 3, 4, { ({ i7 with placed := true, flight := [fl7] }) with entry := 4 }, by decide, by rfl, by decide⟩⟩

theorem test_RecordingsAndReplays_meets :
    (∃ (s : State) (m : MbxId) (slot : Nat) (i : Instance), Ready s m 0x0601 24 ∧ ZeroAt s m 10 6 ∧ reqN s m 16 8 % 4096 = 0 ∧ 20 ≤ reqN s m 24 1 ∧ reqN s m 24 1 ≤ 40 ∧ ZeroAt s m 25 7 ∧ Names s m slot i ∧ i.record.on = false ∧ i.replay = none) ∧
    (∃ (s : State) (m : MbxId) (slot : Nat) (i : Instance), Ready s m 0x0602 8 ∧ ZeroAt s m 10 6 ∧ Names s m slot i ∧ i.record.on = true ∧ i.record.overrun = false ∧ 64 ≤ recRoom i.record) ∧
    (∃ (s : State) (m : MbxId) (slot : Nat) (i : Instance), Ready s m 0x0603 16 ∧ ZeroAt s m 10 6 ∧ Names s m slot i ∧ reqN s m 16 8 ≤ i.record.wr.toNat) ∧
    (∃ (s : State) (m : MbxId) (slot : Nat) (i : Instance) (step : W64) (image : Nat) (gen : Nat) (grade : Nat) (ord : Nat) (rs : List ReplayRec), Ready s m 0x0604 32 ∧ heldCmd s m 0x0604 = none ∧ busMaster s m.pf = true ∧ ZeroAt s m 10 6 ∧ reqN s m 16 8 % 4096 = 0 ∧ 20 ≤ reqN s m 24 1 ∧ reqN s m 24 1 ≤ 40 ∧ ZeroAt s m 25 7 ∧ NamesEntry s m slot i ∧ i.flight = [] ∧ i.record.on = false ∧ i.replay = none ∧ i.placed = true ∧ i.imageId = image ∧ genCur s slot = gen ∧ gradeCode s.grade = grade) :=
  ⟨⟨cmd (hold i7) p1 0x0601 24 [(8, 2, 7), (16, 8, 0x1000), (24, 1, 40)], p1, 3, i7, ready_of (by decide), zeroAt_of (by decide), by decide, by decide, by decide, zeroAt_of (by decide), names_of rfl rfl (by decide), by rfl, by rfl⟩,
   ⟨cmd (hold { i7 with record := { on := true } }) p1 0x0602 8 [(8, 2, 7)], p1, 3, { i7 with record := { on := true } }, ready_of (by decide), zeroAt_of (by decide), names_of rfl rfl (by decide), by rfl, by rfl, by decide⟩,
   ⟨cmd (hold { i7 with record := { on := true } }) p1 0x0603 16 [(8, 2, 7)], p1, 3, { i7 with record := { on := true } }, ready_of (by decide), zeroAt_of (by decide), names_of rfl rfl (by decide), by decide⟩,
   ⟨cmd (hold { i7 with placed := true }) p1 0x0604 32 [(8, 2, 7), (16, 8, 0x1000), (24, 1, 20)], p1, 3, { i7 with placed := true }, 9, 0, 0, 24, 0, [.stop 9], ready_of (by decide), by decide, by decide, zeroAt_of (by decide), by decide, by decide, by decide, zeroAt_of (by decide), namesEntry_of rfl rfl (by decide) (by decide), by rfl, by rfl, by rfl, by rfl, by rfl, by decide, by decide⟩⟩

theorem test_SaveAndRestore_meets :
    (∃ (s : State) (m : MbxId) (slot : Nat) (i : Instance), Ready s m 0x0605 24 ∧ reqN s m 10 1 < 2 ∧ ZeroAt s m 11 5 ∧ Names s m slot i ∧ genState s slot ≠ 2 ∧ i.save = none) ∧
    (∃ (s : State) (slot : Nat) (i : Instance) (v : Save), slot < 64 ∧ instOf s slot = some i ∧ i.save = some v ∧ i.flight = []) ∧
    (∃ (s : State) (w : State) (m : MbxId) (saved : SavedState) (slot : Nat) (i : Instance), Ready s m 0x0606 24 ∧ heldCmd s m 0x0606 = none ∧ busMaster s m.pf = true ∧ ZeroAt s m 10 6 ∧ Names s m slot i ∧ i.flight = [] ∧ setsQuiet i = true ∧ restoreDiff s slot i saved = none ∧ saved.objs.any (fun e => (objAt ((savedHandles i).foldl freeObj (modInst (accept s m) slot (fun i => { i with restoring := false }))) e.1).isSome) = false ∧ restoreObjs slot i.secure saved.objs [] ((savedHandles i).foldl freeObj (modInst (accept s m) slot (fun i => { i with restoring := false }))) = some w) ∧
    (∃ (s : State) (m : MbxId) (saved : SavedState) (slot : Nat) (i : Instance), Ready s m 0x0606 24 ∧ heldCmd s m 0x0606 = none ∧ busMaster s m.pf = true ∧ ZeroAt s m 10 6 ∧ Names s m slot i ∧ i.flight = [] ∧ setsQuiet i = true ∧ restoreDiff s slot i saved = none ∧ (∀ e ∈ saved.objs, e.2 = [] ∧ objAt s e.1 = none)) ∧
    (∃ (s : State) (m : MbxId) (slot : Nat) (i : Instance), Ready s m 0x0607 8 ∧ ZeroAt s m 10 6 ∧ NamesEntry s m slot i ∧ i.pause = true) :=
  ⟨⟨cmd (hold i7) p1 0x0605 24 [(8, 2, 7), (10, 1, 1)], p1, 3, i7, ready_of (by decide), by decide, zeroAt_of (by decide), names_of rfl rfl (by decide), by decide, by rfl⟩,
   ⟨hold { i7 with save := some { mbx := r7, pause := true, addr := 0, cap := 0xFFFFFFFFFFFFFFFF } }, 3, { i7 with save := some { mbx := r7, pause := true, addr := 0, cap := 0xFFFFFFFFFFFFFFFF } }, { mbx := r7, pause := true, addr := 0, cap := 0xFFFFFFFFFFFFFFFF }, by decide, by rfl, by rfl, by rfl⟩,
   ⟨cmd (hold { i7 with entry := 4, placed := true }) p1 0x0606 24 [(8, 2, 7)], modInst (accept (cmd (hold { i7 with entry := 4, placed := true }) p1 0x0606 24 [(8, 2, 7)]) p1) 3 (fun i => { i with restoring := false }), p1, { head := none, objs := [], ctxs := [], pfxs := [], sets := [], vers := [] }, 3, { i7 with entry := 4, placed := true }, ready_of (by decide), by decide, by decide, zeroAt_of (by decide), names_of rfl rfl (by decide), by rfl, by decide, by decide, by decide, by rfl⟩,
   ⟨cmd (hold { i7 with entry := 4, placed := true }) p1 0x0606 24 [(8, 2, 7)], p1, { head := none, objs := [], ctxs := [], pfxs := [], sets := [], vers := [] }, 3, { i7 with entry := 4, placed := true }, ready_of (by decide), by decide, by decide, zeroAt_of (by decide), names_of rfl rfl (by decide), by rfl, by decide, by decide, by decide⟩,
   ⟨cmd (hold { i7 with pause := true }) p1 0x0607 8 [(8, 2, 7)], p1, 3, { i7 with pause := true }, ready_of (by decide), zeroAt_of (by decide), namesEntry_of rfl rfl (by decide) (by decide), by rfl⟩⟩

theorem test_HostWritesAndVectors_meets :
    (∃ (s : State) (m : MbxId) (v : W32), mbxWf m = true ∧ mbxOpen s m = true ∧ fld v 0 0 = 0) ∧
    (∃ (s : State) (m : MbxId) (v : W32), mbxWf m = true) ∧
    (∃ (s : State) (m : MbxId) (off : Nat) (bs : Bytes), mbxWf m = true ∧ mbxOpen s m = true ∧ mbxBusy (mbxAt s m) = false) ∧
    (∃ (s : State) (m : MbxId) (off : Nat) (bs : Bytes), mbxWf m = true ∧ mbxOpen s m = true ∧ mbxBusy (mbxAt s m) = true) ∧
    (∃ (s : State) (m : MbxId) (v : W32), mbxWf m = true ∧ mbxOpen s m = true ∧ fld v 0 0 = 1 ∧ mbxBusy (mbxAt s m) = false ∧ (cmdRow (reqOp s m)).isSome = true) ∧
    (∃ (s : State) (m : MbxId) (v : W32), mbxWf m = true ∧ mbxOpen s m = true ∧ fld v 0 0 = 1 ∧ mbxBusy (mbxAt s m) = true) ∧
    (∃ (s : State) (pf : Nat), pf < 2 ∧ s.life.linkUp = true) ∧
    (∃ (s : State) (pf : Nat), pf < 2 ∧ s.life.linkUp = true) ∧
    (∃ (s : State) (pf : Nat) (v : Nat), vecWf pf v = true ∧ s.life.linkUp = true) ∧
    (∃ (s : State) (pf : Nat) (v : Nat), vecWf pf v = true) :=
  ⟨⟨part, p1, 8, by decide, by decide, by decide⟩,
   ⟨part, h0, 1, by decide⟩,
   ⟨part, h0, 478, [1, 2, 3], by decide, by decide, by decide⟩,
   ⟨{ setMbx part p1 { own := true } with order := [p1] }, p1, 0, [1], by decide, by decide, by decide⟩,
   ⟨setMbx part p1 { req := area [(0, 2, 1)] }, p1, 0x0509, by decide, by decide, by decide, by decide, by decide⟩,
   ⟨{ setMbx part p1 { own := true } with order := [p1] }, p1, 1, by decide, by decide, by decide, by decide⟩,
   ⟨{ part with heldDma := [(0, 0x1000, [7]), (1, 0x2000, [8])], bme0 := false, bme1 := false }, 1, by decide, by decide⟩,
   ⟨part, 0, by decide, by decide⟩,
   ⟨{ part with msixPend := [vecKey 0 71] }, 0, 71, by decide, by decide⟩,
   ⟨part, 1, 11, by decide⟩⟩

theorem test_RingTailAndHoldoff_meets :
    (∃ (s : State) (slot : Nat) (tail : W64) (i : Instance), slot < 64 ∧ instOf s slot = some i ∧ ringWaits s slot i = true ∧ s.bme0 = true ∧ i.ring.tail.toNat ≤ tail.toNat ∧ tail.toNat ≤ i.ring.head.toNat) ∧
    (∃ (s : State) (slot : Nat) (tail : W64) (i : Instance), slot < 64 ∧ instOf s slot = some i ∧ ringWaits s slot i = true ∧ s.bme0 = true ∧ i.ring.tail.toNat ≤ tail.toNat ∧ tail.toNat ≤ i.ring.head.toNat) ∧
    (∃ (s : State) (slot : Nat) (tail : W64) (i : Instance), slot < 64 ∧ instOf s slot = some i ∧ ringWaits s slot i = true ∧ s.bme0 = true ∧ (tail.toNat < i.ring.tail.toNat ∨ i.ring.head.toNat < tail.toNat)) ∧
    (∃ (s : State) (slot : Nat) (tail : W64) (i : Instance), slot < 64 ∧ instOf s slot = some i ∧ ringWaits s slot i = true ∧ s.bme0 = true ∧ (tail.toNat < i.ring.tail.toNat ∨ i.ring.head.toNat < tail.toNat)) ∧
    (∃ (s : State) (slot : Nat) (i : Instance), slot < 64 ∧ instOf s slot = some i ∧ i.ring.quiet = true ∧ i.ring.unsignalled = true) ∧
    (∃ (s : State) (slot : Nat) (i : Instance), slot < 64 ∧ instOf s slot = some i ∧ i.ring.quiet = true ∧ i.ring.unsignalled = false) ∧
    (∃ (s : State) (slot : Nat) (es : List Bytes) (i : Instance), instOf s slot = some i) ∧
    (∃ (s : State) (slot : Nat) (es : List Bytes) (i : Instance), instOf s slot = some i) :=
  ⟨⟨hold { i7 with flight := [fl7], ring := { head := 511 } }, 3, 0, { i7 with flight := [fl7], ring := { head := 511 } }, by decide, by rfl, by decide, by decide, by rfl, by decide⟩,
   ⟨hold { i7 with flight := [fl7], ring := { head := 511 } }, 3, 511, { i7 with flight := [fl7], ring := { head := 511 } }, by decide, by rfl, by decide, by decide, by decide, by decide⟩,
   ⟨hold { i7 with flight := [fl7], ring := { head := 511 } }, 3, 512, { i7 with flight := [fl7], ring := { head := 511 } }, by decide, by rfl, by decide, by decide, Or.inr (by decide)⟩,
   ⟨hold { i7 with flight := [fl7], ring := { head := 515, tail := 3 } }, 3, 2, { i7 with flight := [fl7], ring := { head := 515, tail := 3 } }, by decide, by rfl, by decide, by decide, Or.inl (by decide)⟩,
   ⟨hold { i7 with ring := { quiet := true, unsignalled := true } }, 3, { i7 with ring := { quiet := true, unsignalled := true } }, by decide, by rfl, by rfl, by rfl⟩,
   ⟨hold { i7 with ring := { quiet := true } }, 3, { i7 with ring := { quiet := true } }, by decide, by rfl, by rfl, by rfl⟩,
   ⟨hold { i7 with ring := { holdoff := 4 } }, 3, [[1], [2]], { i7 with ring := { holdoff := 4 } }, by rfl⟩,
   ⟨hold { i7 with ring := { quiet := true } }, 3, [], { i7 with ring := { quiet := true } }, by rfl⟩⟩

theorem test_HostReadsAreHeldOrFail_meets :
    (∃ (s : State) (slot : Nat) (step : W64) (addr : W64) (i : Instance), slot < 64 ∧ instOf s slot = some i ∧ entryHere s i = true ∧ i.flight.any (fun f => f.msg.step == step && f.msg.marker.isNone) = true) ∧
    (∃ (s : State) (m : MbxId) (addr : W64) (w : MbxRef × SMap Byte), mbxWf m = true ∧ busMaster s m.pf = true ∧ heldOf s m = some w ∧ w.1.op = 0x0201 ∧ (mbxAt s m).epoch = w.1.epoch) ∧
    (∃ (s : State) (slot : Nat) (addr : W64) (i : Instance), slot < 64 ∧ s.bme0 = true ∧ instOf s slot = some i ∧ ringWaits s slot i = true) ∧
    (∃ (s : State) (m : MbxId) (op : Nat) (len : Nat) (chk : Option Err) (eff : State → MbxRef → State → State), Ready s m op len ∧ heldCmd s m op = none ∧ busMaster s m.pf = false ∧ chk = none) :=
  ⟨⟨hold { i7 with flight := [fl7] }, 3, 4, 0x1000, { i7 with flight := [fl7] }, by decide, by rfl, by decide, by rfl⟩,
   ⟨{ part with dmaWait := [({ id := p1, epoch := 1, op := 0x0201 }, [])] }, p1, 0xFFFFFFFFFFFFFFFF, ({ id := p1, epoch := 1, op := 0x0201 }, []), by decide, by decide, by rfl, by decide, by decide⟩,
   ⟨hold { i7 with flight := [fl7], ring := { head := 511 } }, 3, 0, { i7 with flight := [fl7], ring := { head := 511 } }, by decide, by decide, by rfl, by decide⟩,
   ⟨{ cmd (hold i7) p1 0x0201 16 [(8, 2, 7), (10, 2, 1)] with bme1 := false }, p1, 0x0201, 16, none, fun _ _ s => s, ready_of (by decide), by decide, by decide, by decide⟩⟩

theorem test_MeshPacketsTravel_meets :
    (∃ (s : State) (p : MeshPacket), meshWf p = true ∧ vcAllowed p = true ∧ (p.type = .read ∨ p.type = .write ∨ p.type = .atomic → gmaPart p.gma = 0 ∨ s.fab.accepted = true)) ∧
    (∃ (s : State) (p : MeshPacket), meshWf p = true ∧ vcAllowed p = true ∧ (p.type = .read ∨ p.type = .write ∨ p.type = .atomic → gmaPart p.gma = 0 ∨ s.fab.accepted = true)) ∧
    (∃ (s : State) (p : MeshPacket), meshWf p = true ∧ vcAllowed p = false) ∧
    (∃ (s : State) (p : MeshPacket), meshWf p = true ∧ vcAllowed p = false) ∧
    (∃ (s : State) (p : MeshPacket), meshWf p = true ∧ vcAllowed p = true ∧ (p.type = .read ∨ p.type = .write ∨ p.type = .atomic) ∧ gmaPart p.gma ≠ 0 ∧ s.fab.accepted = false) ∧
    (∃ (s : State) (n : Nat) (p : MeshPacket), s.meshQ[n]? = some p ∧ meshTurn s.meshQ n p = true ∧ p.vc = 1 ∧ (p.type = .readResp ∨ p.type = .writeAck ∨ p.type = .atomicResp ∨ p.type = .errorResp) ∧ inService s p.dest = true) ∧
    (∃ (s : State) (n : Nat) (router : Nat) (p : MeshPacket), router < 800 ∧ s.meshQ[n]? = some p ∧ meshTurn s.meshQ n p = true ∧ takesPacket s p = true ∧ router ∈ (meshPath s p).map Prod.fst) ∧
    (∃ (s : State) (n : Nat) (router : Nat) (p : MeshPacket), router < 800 ∧ s.meshQ[n]? = some p ∧ meshTurn s.meshQ n p = true ∧ (p.type = .readResp ∨ p.type = .writeAck ∨ p.type = .atomicResp ∨ p.type = .errorResp ∨ p.type = .msg) ∧ p.payload ≠ [] ∧ router ∈ (meshPath s p).map Prod.fst) ∧
    (∃ (s : State) (n : Nat) (k : Nat) (p : MeshPacket), s.meshQ[n]? = some p ∧ meshTurn s.meshQ n p = true ∧ takesPacket s p = true ∧ (p.type = .read ∨ p.type = .write ∨ p.type = .atomic) ∧ p.dest = .port k ∧ 24 ≤ k ∧ k < 42 ∧ inService s p.dest = true ∧ gmaPart p.gma ≠ partId s) ∧
    (∃ (s : State) (n : Nat) (p : MeshPacket), s.meshQ[n]? = some p ∧ meshTurn s.meshQ n p = false) :=
  ⟨⟨part, pk .write, by decide, by decide, fun _ => by decide⟩,
   ⟨part, { pk .readResp with dest := .site 26, vc := 1, src := 0x401 }, by decide, by decide, fun _ => by decide⟩,
   ⟨part, { pk .read with vc := 1 }, by decide, by decide⟩,
   ⟨part, { pk .msg with vc := 0 }, by decide, by decide⟩,
   ⟨part, { pk .read with gma := 0x20000200040 }, by decide, by decide, Or.inl rfl, by decide, by decide⟩,
   ⟨{ part with meshQ := [{ pk .readResp with dest := .site 26, vc := 1, src := 0x401 }] }, 0, { pk .readResp with dest := .site 26, vc := 1, src := 0x401 }, by rfl, by decide, by decide, Or.inl rfl, by decide⟩,
   ⟨{ part with meshQ := [{ pk .readResp with dest := .site 26, vc := 1, src := 0x401 }] }, 0, 3, { pk .readResp with dest := .site 26, vc := 1, src := 0x401 }, by decide, by rfl, by decide, by decide, by decide⟩,
   ⟨{ part with meshQ := [{ pk .readResp with dest := .site 26, vc := 1, src := 0x401, payload := [1] }] }, 0, 26, { pk .readResp with dest := .site 26, vc := 1, src := 0x401, payload := [1] }, by decide, by rfl, by decide, Or.inl rfl, by decide, by decide⟩,
   ⟨{ port 0 4 with meshQ := [{ pk .read with dest := .port 24, vc := 3, gma := 0x20000200040 }] }, 0, 24, { pk .read with dest := .port 24, vc := 3, gma := 0x20000200040 }, by rfl, by decide, by decide, Or.inl rfl, by decide, by decide, by decide, by decide, by decide⟩,
   ⟨{ part with meshQ := [pk .read, pk .write] }, 1, pk .write, by rfl, by decide⟩⟩

theorem test_StacksServeRequests_meets :
    (∃ (s : State) (n : Nat) (k : Nat) (p : MeshPacket), s.meshQ[n]? = some p ∧ meshTurn s.meshQ n p = true ∧ takesPacket s p = true ∧ (p.type = .read ∨ p.type = .write ∨ p.type = .atomic) ∧ p.dest = .port k ∧ k < 24 ∧ skUp s k = true ∧ gmaSpace p.gma = 0 ∧ stackOf (gmaOffset p.gma / frameBytes) = k ∧ gmaPart p.gma = partId s ∧ accessCode s (if p.src = 0x42B then .kettle else .inside) p.secure p.gma (accessLen p) = none) ∧
    (∃ (s : State) (n : Nat) (k : Nat) (c : Nat) (p : MeshPacket), s.meshQ[n]? = some p ∧ meshTurn s.meshQ n p = true ∧ takesPacket s p = true ∧ (p.type = .read ∨ p.type = .write ∨ p.type = .atomic) ∧ p.dest = .port k ∧ k < 24 ∧ skUp s k = true ∧ gmaSpace p.gma = 0 ∧ stackOf (gmaOffset p.gma / frameBytes) = k ∧ gmaPart p.gma = partId s ∧ accessCode s (if p.src = 0x42B then .kettle else .inside) p.secure p.gma (accessLen p) = some c) ∧
    (∃ (s : State) (a : W64) (len : Nat) (src : Source) (sec : Bool), (gmaHigh a ≠ 0 ∨ gmaSpace a = 3)) ∧
    (∃ (s : State) (a : W64) (len : Nat) (src : Source) (sec : Bool), (gmaHigh a ≠ 0 ∨ gmaSpace a = 3)) ∧
    (∃ (s : State) (a : W64) (len : Nat) (src : Source), gmaHigh a = 0 ∧ gmaSpace a = 0 ∧ gmaOffset a / frameBytes < frameCount ∧ holderOk s (gmaOffset a / frameBytes) src = true ∧ unitClearing s 2 (regionOf (gmaOffset a / frameBytes)) = false ∧ regionSecure s (regionOf (gmaOffset a / frameBytes)) = true) ∧
    (∃ (s : State) (a : W64) (len : Nat) (src : Source), gmaHigh a = 0 ∧ gmaSpace a = 0 ∧ gmaOffset a / frameBytes < frameCount ∧ holderOk s (gmaOffset a / frameBytes) src = true ∧ unitClearing s 2 (regionOf (gmaOffset a / frameBytes)) = false ∧ skDown s (stackOf (gmaOffset a / frameBytes)) = false) ∧
    (∃ (s : State) (a : W64) (len : Nat) (src : Source), gmaHigh a = 0 ∧ gmaSpace a = 0 ∧ gmaOffset a / frameBytes < frameCount ∧ holderOk s (gmaOffset a / frameBytes) src = true ∧ unitClearing s 2 (regionOf (gmaOffset a / frameBytes)) = false ∧ skDown s (stackOf (gmaOffset a / frameBytes)) = false) ∧
    (∃ (s : State) (n : Nat) (p : MeshPacket), n < 24 ∧ (n, p) ∈ s.stackQ ∧ p.type = .read ∧ n ∉ s.pot.retrain ∧ skDown s n = false ∧ (∀ l ∈ linesOf (gmaOffset p.gma) (accessLen p), l ∉ s.pot.badLines ∧ l ∉ s.pot.softLines)) ∧
    (∃ (s : State) (n : Nat) (l : Nat) (p : MeshPacket), n < 24 ∧ (n, p) ∈ s.stackQ ∧ p.type = .read ∧ n ∉ s.pot.retrain ∧ skDown s n = false ∧ l ∈ linesOf (gmaOffset p.gma) (accessLen p) ∧ l ∈ s.pot.badLines) ∧
    (∃ (s : State) (n : Nat) (p : MeshPacket), n < 24 ∧ (n, p) ∈ s.stackQ ∧ p.type = .write ∧ n ∉ s.pot.retrain ∧ skDown s n = false ∧ sharedHeld s (gmaOffset p.gma / frameBytes) = false) ∧
    (∃ (s : State) (n : Nat) (p : MeshPacket) (v : W64), n < 24 ∧ (n, p) ∈ s.stackQ ∧ p.type = .atomic ∧ n ∉ s.pot.retrain ∧ skDown s n = false ∧ sharedHeld s (gmaOffset p.gma / frameBytes) = false ∧ gmaOffset p.gma % 8 = 0 ∧ meshSpec p < 8 ∧ (∀ l ∈ linesOf (gmaOffset p.gma) 8, l ∉ s.pot.badLines) ∧ atomicOp (meshSpec p) (w64At (memRead s.stackMem (gmaOffset p.gma) 8) 0) (w64At p.payload 0) (w64At p.payload 8) = some v) :=
  ⟨⟨{ up1 with meshQ := [pk .read] }, 0, 1, pk .read, by rfl, by decide, by decide, Or.inl rfl, by decide, by decide, by decide, by decide, by decide, by decide, by decide⟩,
   ⟨{ up1 with meshQ := [{ pk .read with gma := 0x200FF0 }] }, 0, 1, 6, { pk .read with gma := 0x200FF0 }, by rfl, by decide, by decide, Or.inl rfl, by decide, by decide, by decide, by decide, by decide, by decide, by rfl⟩,
   ⟨part, 0x00C0000000000000, 1, .inside, true, by decide⟩,
   ⟨part, 0x0100000000000000, 1, .inside, true, by decide⟩,
   ⟨part, 0, 1, .inside, by decide, by decide, by decide, by decide, by decide, by decide⟩,
   ⟨part, 0x200000, 4096, .inside, by decide, by decide, by decide, by decide, by decide, by decide⟩,
   ⟨part, 0x200001, 4096, .inside, by decide, by decide, by decide, by decide, by decide, by decide⟩,
   ⟨{ part with stackQ := [(1, pk .read)] }, 1, pk .read, by decide, by decide, by decide, by decide, by decide, by decide⟩,
   ⟨{ part with stackQ := [(1, pk .read)], pot := { badLines := [0x8001] } }, 1, 0x8001, pk .read, by decide, by decide, by decide, by decide, by decide, by decide, by decide⟩,
   ⟨{ part with stackQ := [(1, { pk .write with payload := List.replicate 64 7 })] }, 1, { pk .write with payload := List.replicate 64 7 }, by decide, by decide, by decide, by decide, by decide, by decide⟩,
   ⟨{ part with stackQ := [(1, { pk .atomic with arg := [0], payload := [1, 0, 0, 0, 0, 0, 0, 0] })] }, 1, { pk .atomic with arg := [0], payload := [1, 0, 0, 0, 0, 0, 0, 0] }, 1, by decide, by decide, by decide, by decide, by decide, by decide, by decide, by decide, by decide, by rfl⟩⟩

theorem test_StackLinksAndScrubbing_meets :
    (∃ (s : State) (n : Nat), n < 24 ∧ skUp s n = true ∧ rdF s (skReg n 0x20) 7 0 ≠ 0 ∧ (∀ l ∈ s.pot.badLines, stackOf (l / 32768) ≠ n) ∧ (∀ l ∈ s.pot.softLines, l ∉ s.pot.badLines) ∧ s.pot.softLines.Nodup ∧ (rd s (skReg n 8)).toNat ≤ 0xFFFF) ∧
    (∃ (s : State) (n : Nat) (failed : Bool), n < 24 ∧ skUp s n = true ∧ n ∉ s.pot.retrain) ∧
    (∃ (s : State) (n : Nat), n < 24 ∧ skUp s n = true ∧ 8 ≤ mapGet 0 s.pot.replays n ∧ n ∉ s.pot.retrain) ∧
    (∃ (s : State) (n : Nat), n < 24 ∧ n ∈ s.pot.retrain) ∧
    (∃ (s : State) (n : Nat), n < 24 ∧ n ∈ s.pot.retrain) :=
  ⟨⟨{ wr up1 (skReg 1 0x20) 1 with pot := { softLines := [0x8001] } }, 1, by decide, by decide, by decide, by decide, by decide, by decide, by decide⟩,
   ⟨up1, 1, true, by decide, by decide, by decide⟩,
   ⟨{ up1 with pot := { replays := [(1, 8)] } }, 1, by decide, by decide, by decide, by decide⟩,
   ⟨{ up1 with pot := { retrain := [1] } }, 1, by decide, by decide⟩,
   ⟨{ up1 with pot := { retrain := [1] } }, 1, by decide, by decide⟩⟩

theorem test_PortsTrain_meets :
    (∃ (s : State) (p : Nat), p < 18 ∧ portState s p = fpDown ∧ portDisabled s p = false ∧ portsLive s = true ∧ portTested s p = false) ∧
    (∃ (s : State) (p : Nat), p < 18 ∧ portState s p = fpTraining) ∧
    (∃ (s : State) (p : Nat), p < 18 ∧ portState s p = fpTraining) ∧
    (∃ (s : State) (p : Nat), p < 18 ∧ portState s p = fpTraining) ∧
    (∃ (s : State) (p : Nat) (ce : Nat) (ue : Nat) (failed : Bool), p < 18 ∧ (portState s p = fpActive ∨ portState s p = fpDraining ∨ portState s p = fpDiscovery ∨ portState s p = fpQuarantine)) ∧
    (∃ (s : State) (p : Nat) (ce : Nat) (ue : Nat) (failed : Bool), p < 18 ∧ (portState s p = fpActive ∨ portState s p = fpDraining ∨ portState s p = fpDiscovery ∨ portState s p = fpQuarantine)) ∧
    (∃ (s : State) (p : Nat) (ce : Nat) (ue : Nat) (failed : Bool), p < 18 ∧ (portState s p = fpActive ∨ portState s p = fpDraining ∨ portState s p = fpDiscovery ∨ portState s p = fpQuarantine)) ∧
    (∃ (s : State) (p : Nat) (ce : Nat) (ue : Nat) (failed : Bool), p < 18 ∧ (portState s p = fpActive ∨ portState s p = fpDraining ∨ portState s p = fpDiscovery ∨ portState s p = fpQuarantine)) ∧
    (∃ (s : State) (p : Nat), p < 18 ∧ portState s p = fpDiscovery) ∧
    (∃ (s : State) (p : Nat), p < 18 ∧ (portState s p = fpActive ∨ portState s p = fpDraining) ∧ s.faults.length < 4000) ∧
    (∃ (s : State) (p : Nat), p < 18 ∧ (portState s p = fpActive ∨ portState s p = fpDraining) ∧ s.faults.length < 4000) :=
  ⟨⟨part, 17, by decide, by decide, by decide, by decide, by decide⟩,
   ⟨port 0 1, 0, by decide, by decide⟩,
   ⟨port 17 1, 17, by decide, by decide⟩,
   ⟨port 3 1, 3, by decide, by decide⟩,
   ⟨port 0 4, 0, 3, 0, true, by decide, by decide⟩,
   ⟨port 0 5, 0, 3, 0, true, by decide, by decide⟩,
   ⟨port 0 2, 0, 3, 0, true, by decide, by decide⟩,
   ⟨port 0 3, 0, 3, 0, true, by decide, by decide⟩,
   ⟨port 0 2, 0, by decide, by decide⟩,
   ⟨port 0 4, 0, by decide, by decide, by decide⟩,
   ⟨port 17 5, 17, by decide, by decide, by decide⟩⟩

theorem test_PortsDiscover_meets :
    (∃ (s : State) (p : Nat) (k : IfpPacket), DiscArrives s p k 1 ∧ portState s p = fpDiscovery ∧ idValid s = true ∧ (portAt s p).passed = false ∧ ((portAt s p).hellos = 0 ∨ (portAt s p).nonce.length = 16)) ∧
    (∃ (s : State) (p : Nat) (k : IfpPacket), DiscArrives s p k 1 ∧ portState s p = fpDiscovery ∧ idValid s = false) ∧
    (∃ (s : State) (p : Nat), p < 18 ∧ portState s p = fpDiscovery ∧ 1 ≤ (portAt s p).hellos ∧ (portAt s p).passed = false) ∧
    (∃ (s : State) (p : Nat), p < 18 ∧ portState s p = fpDiscovery ∧ 1 ≤ (portAt s p).hellos ∧ (portAt s p).passed = false) ∧
    (∃ (s : State) (p : Nat) (k : Nat) (f : IfpPacket), DiscArrives s p f 2 ∧ portState s p = fpDiscovery ∧ idValid s = true ∧ confirmReason s p f.payload = some k ∧ k < 16) ∧
    (∃ (s : State) (p : Nat) (f : IfpPacket), DiscArrives s p f 2 ∧ portState s p = fpDiscovery ∧ idValid s = true ∧ confirmReason s p f.payload = none ∧ p < 16 ∧ leAt f.payload 4 1 = p ∧ mapPlane s p = p ∧ (portAt s p).confirmTx = true ∧ remapAllowed s = false) ∧
    (∃ (s : State) (p : Nat) (f : IfpPacket), DiscArrives s p f 2 ∧ portState s p = fpDiscovery ∧ idValid s = true ∧ confirmReason s p f.payload = none ∧ p < 16 ∧ leAt f.payload 4 1 ≠ p ∧ s.fab.decided = false ∧ remapAllowed s = false) ∧
    (∃ (s : State) (p : Nat) (f : IfpPacket), DiscArrives s p f 4 ∧ leAt f.payload 1 1 = 9 ∧ (portState s p = fpDiscovery ∨ portState s p = fpActive)) ∧
    (∃ (s : State) (p : Nat) (f : IfpPacket), DiscArrives s p f 4 ∧ leAt f.payload 1 1 = 9 ∧ (portState s p = fpDiscovery ∨ portState s p = fpActive)) ∧
    (∃ (s : State) (p : Nat) (c : Bytes), authBad s p c = true) ∧
    (∃ (s : State) (p : Nat) (c : Bytes), authBad s p c = false ∧ slice c 36 32 = serialDigest) ∧
    (∃ (s : State) (p : Nat) (c : Bytes), authBad s p c = false ∧ slice c 36 32 ≠ serialDigest ∧ (leAt c 6 1 / 16 ≠ 4 ∨ leAt c 7 1 / 16 ≠ 4 ∨ Nat.min 3 (leAt c 7 1 % 16) < leAt c 6 1 % 16)) ∧
    (∃ (s : State) (p : Nat) (c : Bytes), authBad s p c = false ∧ slice c 36 32 ≠ serialDigest ∧ settledMinor (leAt c 6 1) (leAt c 7 1) ≠ none ∧ leAt c 1 1 ≠ (if p < 16 then 1 else 0)) ∧
    (∃ (s : State) (p : Nat) (c : Bytes), p < 16 ∧ authBad s p c = false ∧ slice c 36 32 ≠ serialDigest ∧ settledMinor (leAt c 6 1) (leAt c 7 1) ≠ none ∧ leAt c 1 1 = 1) ∧
    (∃ (s : State) (p : Nat) (c : Bytes), 16 ≤ p ∧ authBad s p c = false ∧ slice c 36 32 ≠ serialDigest ∧ settledMinor (leAt c 6 1) (leAt c 7 1) ≠ none ∧ leAt c 1 1 = 0) :=
  ⟨⟨(wbit (port 0 2) (fabReg 4) 13 true), 0, ifp { type := ifpDiscT, vc := 0, dest := 0, stream := 0, payload := [1, 1, 0, 0, 0, 0, 0x40, 0x43] }, discArrives_of (by decide), by decide, by decide, by decide, Or.inl rfl⟩,
   ⟨port 17 2, 17, ifp { type := ifpDiscT, vc := 0, dest := 0, stream := 0, payload := [1] }, discArrives_of (by decide), by decide, by decide⟩,
   ⟨{ port 0 2 with fab := { ports := [(0, { hellos := 1 })] } }, 0, by decide, by decide, by decide, by decide⟩,
   ⟨{ port 0 2 with fab := { ports := [(0, { hellos := 3 })] } }, 0, by decide, by decide, by decide, by decide⟩,
   ⟨(wbit (port 0 2) (fabReg 4) 13 true), 0, 3, ifp { type := ifpDiscT, vc := 0, dest := 0, stream := 0, payload := other [2] }, discArrives_of (by decide), by decide, by decide, confirm_other (by decide) (other_ne rfl) (by decide), by decide⟩,
   ⟨{ (wr (wbit (port 0 2) (fabReg 4) 13 true) (fabReg 8) 0x76543210) with fab := { ports := [(0, { confirmTx := true })] } }, 0, ifp { type := ifpDiscT, vc := 0, dest := 0, stream := 0, payload := other [2, 1, 0, 0, 0, 0, 0x40, 0x43] }, discArrives_of (by decide), by decide, by decide, confirm_other (by decide) (other_ne rfl) (by decide), by decide, by decide, by decide, by decide, by decide⟩,
   ⟨(wbit (port 0 2) (fabReg 4) 13 true), 0, ifp { type := ifpDiscT, vc := 0, dest := 0, stream := 0, payload := other [2, 1, 0, 0, 3, 0, 0x40, 0x43] }, discArrives_of (by decide), by decide, by decide, confirm_other (by decide) (other_ne rfl) (by decide), by decide, by decide, by decide, by decide⟩,
   ⟨port 0 2, 0, ifp { type := ifpDiscT, vc := 0, dest := 0, stream := 0, payload := [4, 9] }, discArrives_of (by decide), by decide, Or.inl (by decide)⟩,
   ⟨port 17 4, 17, ifp { type := ifpDiscT, vc := 0, dest := 0, stream := 0, payload := [4, 9] }, discArrives_of (by decide), by decide, Or.inr (by decide)⟩,
   ⟨wbit part (fabReg 0) 1 true, 0, zeros 84, authBad_nonce (by decide) (by decide)⟩,
   ⟨part, 0, zeros 36 ++ serialDigest, authBad_off (by decide), rfl⟩,
   ⟨part, 0, other [2, 1], authBad_off (by decide), other_ne rfl, by decide⟩,
   ⟨part, 0, other [2, 0, 0, 0, 0, 0, 0x40, 0x43], authBad_off (by decide), other_ne rfl, by decide, by decide⟩,
   ⟨part, 15, other [2, 1, 64, 0, 0, 0, 0x40, 0x43], by decide, authBad_off (by decide), other_ne rfl, by decide, by decide⟩,
   ⟨part, 16, other [2, 0, 1, 0, 16, 0, 0x40, 0x43], by decide, authBad_off (by decide), other_ne rfl, by decide, by decide⟩⟩

theorem test_PortControl_meets :
    (∃ (s : State) (p : Nat), p < 18 ∧ portState s p = fpDraining) ∧
    (∃ (s : State) (p : Nat), p < 18 ∧ portState s p = fpActive) ∧
    (∃ (s : State) (p : Nat), p < 18 ∧ portState s p = fpQuarantine) ∧
    (∃ (s : State) (p : Nat), p < 18 ∧ portCarries s p = false ∧ portState s p ≠ fpQuarantine) ∧
    (∃ (s : State) (p : Nat), p < 18 ∧ portCarries s p = false) ∧
    (∃ (s : State) (p : Nat), p < 18) ∧
    (∃ (s : State) (v : W32), (∀ p, p < 18 → portState s p ≠ fpQuarantine) ∧ (∀ p, p < 16 → (portAt s p).passed = false ∧ (portAt s p).held = false)) ∧
    (∃ (s : State) (p : Nat), remapAllowed s = true ∧ s.fab.decided = false ∧ p < 16 ∧ (portAt s p).passed = true ∧ (portAt s p).held = true ∧ (allPassed s && isPermutation s) = false ∧ (∀ q, q < 16 → (portAt s q).held = true → portCarries s q = false)) :=
  ⟨⟨port 0 5, 0, by decide, by decide⟩,
   ⟨port 17 4, 17, by decide, by decide⟩,
   ⟨port 0 3, 0, by decide, by decide⟩,
   ⟨port 0 2, 0, by decide, by decide, by decide⟩,
   ⟨port 0 2, 0, by decide, by decide⟩,
   ⟨port 0 1, 0, by decide⟩,
   ⟨part, 5, by decide, fun p _ => ⟨rfl, rfl⟩⟩,
   ⟨{ (wbit part (fabReg 0) 0 true) with fab := { ports := [(3, { passed := true, held := true })] } }, 3, by decide, by decide, by decide, by decide, by decide, by decide, by decide⟩⟩

theorem test_CoordinatesAndRackTime_meets :
    (∃ (s : State) (c : Nat), s.fab.accepted = false ∧ c % 4 = s.life.strap ∧ (∀ p, p < 18 → portState s p ≠ fpDiscovery)) ∧
    (∃ (s : State) (c : Nat), s.fab.accepted = false ∧ c % 4 ≠ s.life.strap) ∧
    (∃ (s : State) (c : Nat), s.fab.accepted = true) ∧
    (∃ (s : State) (c : Nat), s.fab.accepted = true ∧ c % 4 = s.life.strap ∧ (∀ e ∈ s.insts, e.2.placed = false) ∧ (∀ p, p < 18 → portState s p ≠ fpDiscovery ∧ portState s p ≠ fpQuarantine)) ∧
    (∃ (s : State) (c : Nat), s.fab.accepted = true ∧ c % 4 = s.life.strap ∧ (∀ e ∈ s.insts, e.2.placed = false) ∧ (∀ p, p < 18 → portState s p ≠ fpDiscovery ∧ portState s p ≠ fpQuarantine)) ∧
    (∃ (s : State) (c : Nat), s.fab.accepted = true ∧ c % 4 = s.life.strap ∧ (∃ e ∈ s.insts, e.2.placed = true)) ∧
    (∃ (s : State), s.fab.running = false ∧ s.fab.nextTick = none) ∧
    (∃ (s : State) (d : Int) (k : Nat), s.fab.running = true ∧ s.fab.nextTick = none ∧ -2 ≤ d ∧ d ≤ 2 ∧ s.rackTime = BitVec.ofInt 64 (65536 * (k : Int) + d)) ∧
    (∃ (s : State) (d : Int) (k : Nat), s.fab.running = true ∧ s.fab.nextTick = none ∧ -2 ≤ d ∧ d ≤ 2 ∧ s.rackTime = BitVec.ofInt 64 (65536 * (k : Int) + d)) ∧
    (∃ (s : State), s.fab.running = true ∧ 2 < s.rackTime.toNat % 65536 ∧ s.rackTime.toNat % 65536 < 65534) ∧
    (∃ (s : State), s.fab.running = true ∧ 2 < s.rackTime.toNat % 65536 ∧ s.rackTime.toNat % 65536 < 65534) ∧
    (∃ (s : State) (p : Nat) (k : IfpPacket), DiscArrives s p k 3 ∧ p < 16 ∧ portState s p = fpActive ∧ (∀ q, q < p → portState s q ≠ fpActive) ∧ rbit s (fabReg 0x14) 0 = false) ∧
    (∃ (s : State) (p : Nat) (k : IfpPacket), DiscArrives s p k 3 ∧ p < 16 ∧ portState s p = fpActive ∧ (∀ q, q < p → portState s q ≠ fpActive) ∧ rbit s (fabReg 0x14) 0 = true ∧ leAt k.payload 2 8 ≠ (s.rackTime.toNat / 65536 + 1) * 65536) :=
  ⟨⟨part, 8188, by decide, by decide, by decide⟩,
   ⟨part, 1, by decide, by decide⟩,
   ⟨{ part with fab := { accepted := true } }, 1, by decide⟩,
   ⟨{ part with fab := { accepted := true } }, 8188, by decide, by decide, by decide, by decide⟩,
   ⟨{ port 2 4 with fab := { accepted := true } }, 4, by decide, by decide, by decide, by decide⟩,
   ⟨{ { part with fab := { accepted := true } } with insts := [(3, { i7 with placed := true })] }, 4, by decide, by decide, ⟨(3, { i7 with placed := true }), by simp, rfl⟩⟩,
   ⟨part, by decide, by decide⟩,
   ⟨{ part with fab := { running := true }, rackTime := BitVec.ofInt 64 (65536 * 7 + (-2)) }, -2, 7, by decide, by decide, by decide, by decide, by decide⟩,
   ⟨{ part with fab := { running := true }, rackTime := BitVec.ofInt 64 (65536 * 7 + (2)) }, 2, 7, by decide, by decide, by decide, by decide, by decide⟩,
   ⟨{ part with fab := { running := true }, rackTime := 65536 * 7 + 3 }, by decide, by decide, by decide⟩,
   ⟨{ part with fab := { running := true }, rackTime := 65536 * 7 + 65533 }, by decide, by decide, by decide⟩,
   ⟨port 15 4, 15, ifp { type := ifpDiscT, vc := 0, dest := 0, stream := 0, payload := [3, 0, 0x56, 0x34, 0x12, 0, 0, 0, 0, 0] }, discArrives_of (by decide), by decide, by decide, by decide, by decide⟩,
   ⟨{ wbit (port 2 4) (fabReg 0x14) 0 true with rackTime := 65535 }, 2, ifp { type := ifpDiscT, vc := 0, dest := 0, stream := 0, payload := [3, 0, 0, 0, 2, 0, 0, 0, 0, 0] }, discArrives_of (by decide), by decide, by decide, by decide, by decide, by decide⟩⟩

theorem test_AccessesFromOtherParts_meets :
    (∃ (s : State) (port : Nat) (p : IfpPacket), Arrives s port p ifpWriteT ∧ retraining s p = false ∧ stackHolds s p ifpWriteT p.payload.length = false ∧ ifpCode s p p.payload.length = none ∧ replayRefuses s (hSrc p) (hGma p) = false ∧ gmaSpace (hGma p) = 0) ∧
    (∃ (s : State) (port : Nat) (p : IfpPacket), Arrives s port p ifpReadT ∧ retraining s p = false ∧ stackHolds s p ifpReadT (hSpec p) = false ∧ ifpCode s p (hSpec p) = none ∧ gmaSpace (hGma p) = 0 ∧ (∀ l ∈ linesOf (gmaOffset (hGma p)) (hSpec p), l ∉ s.pot.badLines)) ∧
    (∃ (s : State) (port : Nat) (p : IfpPacket) (v : W64), Arrives s port p ifpAtomicT ∧ p.payload.length = 16 ∧ retraining s p = false ∧ stackHolds s p ifpAtomicT 8 = false ∧ ifpCode s p 8 = none ∧ replayRefuses s (hSrc p) (hGma p) = false ∧ gmaSpace (hGma p) = 0 ∧ gmaOffset (hGma p) % 8 = 0 ∧ (∀ l ∈ linesOf (gmaOffset (hGma p)) 8, l ∉ s.pot.badLines) ∧ atomicOp (hSpec p % 16) (w64At (memRead s.stackMem (gmaOffset (hGma p)) 8) 0) (w64At p.payload 0) (w64At p.payload 8) = some v) ∧
    (∃ (s : State) (port : Nat) (c : Nat) (p : IfpPacket), Arrives s port p ifpReadT ∧ retraining s p = false ∧ stackHolds s p ifpReadT (hSpec p) = false ∧ ifpCode s p (hSpec p) = some c) ∧
    (∃ (s : State) (port : Nat) (p : IfpPacket), port < 18 ∧ portCarries s port = true ∧ hcrcOk p = false) ∧
    (∃ (s : State) (port : Nat) (p : IfpPacket), port < 18 ∧ portCarries s port = true ∧ hType p = ifpWriteT ∧ hAck p = false ∧ hLen p = p.payload.length ∧ p.payload.length ≤ 4096 ∧ hDest p = partId s ∧ hcrcOk p = true ∧ worldOk s port p = false) :=
  ⟨⟨port 2 4, 2, ifp { type := ifpWriteT, vc := 0, dest := 0, gma := 0x200040, stream := 3, tag := 4, payload := List.replicate 64 7 }, arrives_of (by decide), by decide, by decide, by decide, by decide, by decide⟩,
   ⟨port 2 4, 2, ifp { type := ifpReadT, vc := 0, dest := 0, gma := 0x200040, stream := 3, tag := 4, spec := 64 }, arrives_of (by decide), by decide, by decide, by decide, by decide, by decide⟩,
   ⟨port 2 4, 2, ifp { type := ifpAtomicT, vc := 0, dest := 0, gma := 0x200040, stream := 3, tag := 4, spec := 1, payload := List.replicate 16 1 }, 0x0101010101010101, arrives_of (by decide), by decide, by decide, by decide, by decide, by decide, by decide, by decide, by decide, by rfl⟩,
   ⟨port 2 4, 2, 1, ifp { type := ifpReadT, vc := 0, dest := 0, gma := 0x00C0000000000000, stream := 3, tag := 4, spec := 64 }, arrives_of (by decide), by decide, by decide, by rfl⟩,
   ⟨port 2 4, 2, { ifp { type := ifpReadT, vc := 0, dest := 0, gma := 0x200040, stream := 3, tag := 4, spec := 64 } with hdr := (ifp { type := ifpReadT, vc := 0, dest := 0, gma := 0x200040, stream := 3, tag := 4, spec := 64 }).hdr.set 30 0 }, by decide, by decide, by decide⟩,
   ⟨{ port 2 4 with sec := { ranges := [(3, 1)] } }, 2, ifp { type := ifpWriteT, vc := 0, dest := 0, gma := 0x200040, stream := 3, tag := 4, payload := List.replicate 64 7 }, by decide, by decide, by decide, by decide, by decide, by decide, by decide, by decide, by decide⟩⟩

theorem test_KeptRequests_meets :
    (∃ (s : State) (port : Nat) (p : IfpPacket) (r : FabReq) (q : MeshPacket), Arrives s port p ifpRespT ∧ (linkAcked s port).fab.reqs.find? (fun r => r.tag == hTag p && hDest r.pkt == hSrc p) = some r ∧ r.src = some q ∧ hSpec p % 256 = 0 ∧ (q.type = .write → meshAck q = true)) ∧
    (∃ (s : State) (tag : Nat) (r : FabReq), s.fab.reqs.find? (fun r => r.tag == tag) = some r ∧ r.port.isSome = true ∧ r.resent = false) ∧
    (∃ (s : State) (tag : Nat) (r : FabReq) (q : MeshPacket), s.fab.reqs.find? (fun r => r.tag == tag) = some r ∧ r.port.isSome = true ∧ r.resent = true ∧ r.src = some q) ∧
    (∃ (s : State), planeList s = []) ∧
    (∃ (s : State), planeList s ≠ []) ∧
    (∃ (s : State) (peer : Nat) (u : W64), peer < 8192 ∧ mapFind s.pot.outReads peer = some u ∧ framesOn s peer ≠ [] ∧ 100 * msCycles ≤ elapsed s u ∧ reqRoom s = true) ∧
    (∃ (s : State) (port : Nat) (p : IfpPacket), Arrives s port p ifpNoticeT ∧ p.payload.length = 32 ∧ leAt p.payload 0 1 = 1 ∧ nCause p = 3 ∧ leAt p.payload 1 1 ≠ 3) :=
  ⟨⟨{ port 2 4 with fab := { reqs := [req9 (some 2) false] } }, 2, ifp { type := ifpRespT, vc := 1, dest := 0, stream := 3, tag := 5, payload := List.replicate 64 7 }, req9 (some 2) false, pk .read, arrives_of (by decide), by rfl, by rfl, by decide, by decide⟩,
   ⟨{ port 2 4 with fab := { reqs := [req9 (some 2) false] } }, 5, req9 (some 2) false, by rfl, by decide, by decide⟩,
   ⟨{ port 2 4 with fab := { reqs := [req9 (some 2) true] } }, 5, req9 (some 2) true, pk .read, by rfl, by decide, by decide, by rfl⟩,
   ⟨{ part with fab := { reqs := [req9 none false] } }, by decide⟩,
   ⟨port 2 4, by decide⟩,
   ⟨{ part with rackTime := 0xFFFFFFFFFF, pot := { outReads := [(9, 0)], objs := [(0x10000005, { inst := 3, secure := false, pages := [{ frame := 4, remote := some 9 }] })] } }, 9, 0, by decide, by rfl, by decide, by decide, by decide⟩,
   ⟨port 2 4, 2, ifp { type := ifpNoticeT, vc := 0, dest := 0, stream := 3, tag := 4, payload := [1, 2, 17, 0, 5, 3] ++ zeros 26 }, arrives_of (by decide), by decide, by decide, by decide, by decide⟩⟩

theorem test_GroupsComeAndGo_meets :
    (∃ (s : State) (m : MbxId) (list : Bytes), Ready s m 0x0401 16 ∧ heldCmd s m 0x0401 = none ∧ busMaster s m.pf = true ∧ reqN s m 8 1 < 64 ∧ ZeroAt s m 9 1 ∧ 1 ≤ reqN s m 10 2 ∧ reqN s m 10 2 ≤ 1024 ∧ reqN s m 12 4 < 2 ^ 24 ∧ groupDenied s m (reqN s m 8 1) = none ∧ (mbxSecure s m = true ∨ streamSecure s (reqN s m 12 4) = false) ∧ groupOps s (reqN s m 8 1) = [] ∧ (groupIds (reqN s m 10 2) list).Nodup ∧ partId s ∈ groupIds (reqN s m 10 2) list) ∧
    (∃ (s : State) (m : MbxId) (g : Group), Ready s m 0x0402 8 ∧ reqN s m 8 1 < 64 ∧ ZeroAt s m 9 7 ∧ groupAt s (reqN s m 8 1) = some g ∧ (mbxSecure s m = true ∨ g.secure = false) ∧ groupOps s (reqN s m 8 1) = []) :=
  ⟨⟨cmd part p1 0x0401 16 [(8, 1, 2), (10, 2, 2), (12, 4, 3)], p1, [9, 0, 0, 0], ready_of (by decide), by decide, by decide, by decide, zeroAt_of (by decide), by decide, by decide, by decide, by decide, by decide, by decide, by decide, by decide⟩,
   ⟨cmd { part with ladle := { groups := [(2, g9)] } } p1 0x0402 8 [(8, 1, 2)], p1, g9, ready_of (by decide), by decide, zeroAt_of (by decide), by rfl, by decide, by decide⟩⟩

theorem test_LadlePosts_meets :
    (∃ (s : State) (m : MbxId) (g : Group) (op : Nat) (c : Instr), Ready s m 0x0403 176 ∧ reqN s m 9 1 = op ∧ ((op = 0 ∧ c = .multicast m) ∨ (op = 1 ∧ c = .allReduce m) ∨ (op = 2 ∧ c = .reduceScatter m) ∨ (op = 3 ∧ c = .allGather m)) ∧ postChk s m = none ∧ groupAt s (reqN s m 8 1) = some g ∧ NoBadData s) ∧
    (∃ (s : State) (m : MbxId) (g : Group) (op : Nat) (c : Instr), Ready s m 0x0403 176 ∧ reqN s m 9 1 = op ∧ ((op = 0 ∧ c = .multicast m) ∨ (op = 1 ∧ c = .allReduce m) ∨ (op = 2 ∧ c = .reduceScatter m) ∨ (op = 3 ∧ c = .allGather m)) ∧ postChk s m = none ∧ groupAt s (reqN s m 8 1) = some g ∧ NoBadData s) ∧
    (∃ (s : State) (m : MbxId) (g : Group) (op : Nat) (c : Instr), Ready s m 0x0403 176 ∧ reqN s m 9 1 = op ∧ ((op = 0 ∧ c = .multicast m) ∨ (op = 1 ∧ c = .allReduce m) ∨ (op = 2 ∧ c = .reduceScatter m) ∨ (op = 3 ∧ c = .allGather m)) ∧ postChk s m = none ∧ groupAt s (reqN s m 8 1) = some g ∧ NoBadData s) ∧
    (∃ (s : State) (m : MbxId) (g : Group) (op : Nat) (c : Instr), Ready s m 0x0403 176 ∧ reqN s m 9 1 = op ∧ ((op = 0 ∧ c = .multicast m) ∨ (op = 1 ∧ c = .allReduce m) ∨ (op = 2 ∧ c = .reduceScatter m) ∨ (op = 3 ∧ c = .allGather m)) ∧ postChk s m = none ∧ groupAt s (reqN s m 8 1) = some g ∧ NoBadData s) ∧
    (∃ (s : State) (m : MbxId) (g : Group), Ready s m 0x0403 176 ∧ reqN s m 9 1 = 4 ∧ postChk s m = none ∧ groupAt s (reqN s m 8 1) = some g ∧ GroupFits g ∧ leaderOf g (myRank s g) ≠ myRank s g ∧ (g.tag, BitVec.ofNat 32 (reqN s m 16 4)) ∉ s.ladle.failedBars) ∧
    (∃ (s : State) (m : MbxId) (g : Group), Ready s m 0x0403 176 ∧ reqN s m 9 1 = 4 ∧ postChk s m = none ∧ groupAt s (reqN s m 8 1) = some g ∧ g.ids = [partId s] ∧ (g.tag, BitVec.ofNat 32 (reqN s m 16 4)) ∉ s.ladle.failedBars ∧ s.ladle.early = []) :=
  ⟨⟨cmd { (port 2 4) with ladle := { groups := [(2, g9)] } } p1 0x0403 176 [(8, 1, 2), (9, 1, 0)], p1, g9, 0, .multicast p1, ready_of (by decide), by decide, Or.inl ⟨rfl, rfl⟩, by decide, by rfl, noBadData_of (by decide)⟩,
   ⟨cmd { (port 2 4) with ladle := { groups := [(2, g9)] } } p1 0x0403 176 [(8, 1, 2), (9, 1, 1), (10, 1, 1)], p1, g9, 1, .allReduce p1, ready_of (by decide), by decide, Or.inr (Or.inl ⟨rfl, rfl⟩), by decide, by rfl, noBadData_of (by decide)⟩,
   ⟨cmd { (port 2 4) with ladle := { groups := [(2, g9)] } } p1 0x0403 176 [(8, 1, 2), (9, 1, 2), (10, 1, 1)], p1, g9, 2, .reduceScatter p1, ready_of (by decide), by decide, Or.inr (Or.inr (Or.inl ⟨rfl, rfl⟩)), by decide, by rfl, noBadData_of (by decide)⟩,
   ⟨cmd { (port 2 4) with ladle := { groups := [(2, g9)] } } p1 0x0403 176 [(8, 1, 2), (9, 1, 3)], p1, g9, 3, .allGather p1, ready_of (by decide), by decide, Or.inr (Or.inr (Or.inr ⟨rfl, rfl⟩)), by decide, by rfl, noBadData_of (by decide)⟩,
   ⟨cmd { (port 2 4) with ladle := { groups := [(2, g9)] } } p1 0x0403 176 [(8, 1, 2), (9, 1, 4)], p1, g9, ready_of (by decide), by decide, by decide, by rfl, groupFits_of (by decide), by decide, by decide⟩,
   ⟨cmd { (port 2 4) with ladle := { groups := [(2, { g9 with ids := [0] })] } } p1 0x0403 176 [(8, 1, 2), (9, 1, 4)], p1, { g9 with ids := [0] }, ready_of (by decide), by decide, by decide, by rfl, by decide, by decide, by decide⟩⟩

theorem test_SegmentsAreAcceptedInOrder_meets :
    (∃ (s : State) (port : Nat) (p : IfpPacket) (g : Group) (o : LOp) (r : Receiving), (Arrives s port p ifpMcastT ∨ Arrives s port p ifpCollT) ∧ lKind p = 1 ∧ 16 ≤ p.payload.length ∧ opFor s p = some (g, o) ∧ rejectReason g o p = none ∧ lPhase p = 0 ∧ recvOf o 0 (lBlock p) (g.ids.idxOf (hSrc p)) = some r ∧ lSeg p = r.next ∧ replayRefuses s (hSrc p) (gmaPlus (delivPlace o g.ids.length r.block) (segMax * r.next)) = false ∧ gmaHeld s (gmaPlus (delivPlace o g.ids.length r.block) (segMax * r.next)) = false ∧ NoBadData s) ∧
    (∃ (s : State) (port : Nat) (p : IfpPacket) (g : Group) (o : LOp) (r : Receiving), (Arrives s port p ifpMcastT ∨ Arrives s port p ifpCollT) ∧ lKind p = 1 ∧ 16 ≤ p.payload.length ∧ opFor s p = some (g, o) ∧ rejectReason g o p = none ∧ recvOf o (lPhase p) (lBlock p) (g.ids.idxOf (hSrc p)) = some r ∧ lSeg p < r.next) ∧
    (∃ (s : State) (port : Nat) (p : IfpPacket), (Arrives s port p ifpMcastT ∨ Arrives s port p ifpCollT) ∧ lKind p = 1 ∧ 16 ≤ p.payload.length ∧ opFor s p = none) ∧
    (∃ (s : State) (port : Nat) (p : IfpPacket) (g : Group) (o : LOp) (k : Nat), (Arrives s port p ifpMcastT ∨ Arrives s port p ifpCollT) ∧ lKind p = 1 ∧ 16 ≤ p.payload.length ∧ opFor s p = some (g, o) ∧ rejectReason g o p = some k) ∧
    (∃ (s : State) (port : Nat) (p : IfpPacket) (g : Group) (o : LOp) (k : Nat), (Arrives s port p ifpMcastT ∨ Arrives s port p ifpCollT) ∧ lKind p = 1 ∧ 16 ≤ p.payload.length ∧ opFor s p = some (g, o) ∧ rejectReason g o p = some k) ∧
    (∃ (s : State) (gi : Nat) (phase : Nat) (block : Nat) (target : Nat) (seg : Nat) (id : W32) (g : Group) (o : LOp) (x : Sending), s.ladle.heldTx.find? (txReady s) = some (gi, id, phase, block, target, seg) ∧ groupAt s gi = some g ∧ findOp s gi id = some o ∧ o.sends.find? (sameSend phase block target) = some x ∧ NoBadData s) ∧
    (∃ (s : State) (port : Nat) (p : IfpPacket) (g : Group) (o : LOp) (x : Sending), (Arrives s port p ifpMcastT ∨ Arrives s port p ifpCollT) ∧ lKind p = 2 ∧ 16 ≤ p.payload.length ∧ sendFor s p = some (g, o, x) ∧ findOp s o.group o.opId = some o ∧ x.probing = false ∧ x.acked < Nat.min (Nat.min (lCount p) x.count) x.sent ∧ NoBadData s) ∧
    (∃ (s : State) (gi : Nat) (phase : Nat) (block : Nat) (src : Nat) (id : Nat) (g : Group) (o : LOp) (r : Receiving), groupAt s gi = some g ∧ findOp s gi (BitVec.ofNat 32 id) = some o ∧ o.group = gi ∧ recvOf o phase block src = some r ∧ r.acked < ackable o r) :=
  ⟨⟨lad ({ lop 0 with recvs := [{ phase := 0, block := 0, src := 0, count := 1 }] }), 2, lpk ifpMcastT 1 0 1 64, g9, { lop 0 with recvs := [{ phase := 0, block := 0, src := 0, count := 1 }] }, { phase := 0, block := 0, src := 0, count := 1 }, Or.inl (arrives_of (by decide)), by decide, by decide, by rfl, by decide, by decide, by rfl, by decide, by decide, by decide, noBadData_of (by decide)⟩,
   ⟨lad ({ lop 0 with recvs := [{ phase := 0, block := 0, src := 0, count := 1, next := 1 }] }), 2, lpk ifpMcastT 1 0 1 64, g9, { lop 0 with recvs := [{ phase := 0, block := 0, src := 0, count := 1, next := 1 }] }, { phase := 0, block := 0, src := 0, count := 1, next := 1 }, Or.inl (arrives_of (by decide)), by decide, by decide, by rfl, by decide, by rfl, by decide⟩,
   ⟨port 2 4, 2, lpk ifpCollT 1 1 1 64, Or.inr (arrives_of (by decide)), by decide, by decide, by decide⟩,
   ⟨lad ({ lop 0 with recvs := [{ phase := 0, block := 0, src := 0, count := 1, next := 1 }] }), 2, lpk ifpMcastT 1 1 1 64, g9, { lop 0 with recvs := [{ phase := 0, block := 0, src := 0, count := 1, next := 1 }] }, 3, Or.inl (arrives_of (by decide)), by decide, by decide, by rfl, by rfl⟩,
   ⟨lad ({ lop 0 with recvs := [{ phase := 0, block := 0, src := 0, count := 1, next := 1 }] }), 2, lpk ifpMcastT 1 0 2 64, g9, { lop 0 with recvs := [{ phase := 0, block := 0, src := 0, count := 1, next := 1 }] }, 2, Or.inl (arrives_of (by decide)), by decide, by decide, by rfl, by rfl⟩,
   ⟨{ lad ({ lop 1 with sends := [tx] }) with ladle := { groups := [(1, g9)], ops := [{ lop 1 with sends := [tx] }], heldTx := [(1, 5, 0, 0, 0, 1)] } }, 1, 0, 0, 0, 1, 5, g9, { lop 1 with sends := [tx] }, tx, by rfl, by rfl, by rfl, by rfl, noBadData_of (by decide)⟩,
   ⟨lad ({ lop 1 with sends := [tx] }), 2, lpk ifpCollT 2 1 1 0, g9, { lop 1 with sends := [tx] }, tx, Or.inr (arrives_of (by decide)), by decide, by decide, by rfl, by rfl, by decide, by decide, noBadData_of (by decide)⟩,
   ⟨lad ({ lop 0 with recvs := [{ phase := 0, block := 0, src := 0, count := 1, next := 1 }] }), 1, 0, 0, 0, 5, g9, { lop 0 with recvs := [{ phase := 0, block := 0, src := 0, count := 1, next := 1 }] }, { phase := 0, block := 0, src := 0, count := 1, next := 1 }, by rfl, by rfl, by decide, by rfl, by decide⟩⟩

theorem test_TargetsThatDoNotAnswer_meets :
    (∃ (s : State) (port : Nat) (p : IfpPacket) (g : Group) (o : LOp) (x : Sending), (Arrives s port p ifpMcastT ∨ Arrives s port p ifpCollT) ∧ lKind p = 3 ∧ 16 ≤ p.payload.length ∧ sendFor s p = some (g, o, x) ∧ findOp s o.group o.opId = some o ∧ o.sends.find? (sameSend x.phase x.block x.target) = some x) ∧
    (∃ (s : State) (gi : Nat) (id : Nat) (phase : Nat) (block : Nat) (target : Nat) (g : Group) (o : LOp) (x : Sending), groupAt s gi = some g ∧ findOp s gi (BitVec.ofNat 32 id) = some o ∧ o.sends.find? (sameSend phase block target) = some x ∧ unanswered x = true) ∧
    (∃ (s : State) (gi : Nat) (id : Nat) (phase : Nat) (block : Nat) (target : Nat) (g : Group) (o : LOp) (x : Sending), groupAt s gi = some g ∧ findOp s gi (BitVec.ofNat 32 id) = some o ∧ o.sends.find? (sameSend phase block target) = some x ∧ unanswered x = true ∧ x.backoff ≠ 0 ∧ GroupFits g ∧ (x.probing = true ∨ (keptSeg o x.phase x.block x.acked).isSome = true)) ∧
    (∃ (s : State) (port : Nat) (p : IfpPacket) (g : Group) (o : LOp) (x : Sending) (r : MbxRef), (Arrives s port p ifpMcastT ∨ Arrives s port p ifpCollT) ∧ lKind p = 4 ∧ 16 ≤ p.payload.length ∧ opFor s p = some (g, o) ∧ o.done = false ∧ o.sends.find? (sameSend (lPhase p) (lBlock p) (g.ids.idxOf (hSrc p))) = some x ∧ o.mbx = some r ∧ (mbxAt s r.id).epoch = r.epoch) ∧
    (∃ (s : State) (gi : Nat) (id : Nat) (phase : Nat) (block : Nat) (target : Nat) (g : Group) (o : LOp) (x : Sending) (r : MbxRef), groupAt s gi = some g ∧ findOp s gi (BitVec.ofNat 32 id) = some o ∧ o.sends.find? (sameSend phase block target) = some x ∧ unanswered x = true ∧ x.since.isSome = true ∧ o.op ≠ 0 ∧ o.mbx = some r ∧ (mbxAt s r.id).epoch = r.epoch) ∧
    (∃ (s : State) (gi : Nat) (id : Nat) (phase : Nat) (block : Nat) (target : Nat) (g : Group) (o : LOp) (x : Sending), groupAt s gi = some g ∧ findOp s gi (BitVec.ofNat 32 id) = some o ∧ o.sends.find? (sameSend phase block target) = some x ∧ unanswered x = true ∧ x.since.isSome = true ∧ o.op = 0 ∧ NoBadData s) ∧
    (∃ (s : State) (port : Nat) (p : IfpPacket) (g : Group) (o : LOp) (r : Receiving), (Arrives s port p ifpMcastT ∨ Arrives s port p ifpCollT) ∧ lKind p = 5 ∧ 16 ≤ p.payload.length ∧ opFor s p = some (g, o) ∧ o.recvs.find? (fun r => r.phase == lPhase p && r.block == lBlock p) = some r ∧ (∀ q ∈ o.recvs, sameRecv r.phase r.block (g.ids.idxOf (hSrc p)) q = true → q = r)) ∧
    (∃ (s : State) (gi : Nat) (id : Nat) (g : Group) (o : LOp) (x : Receiving) (r : MbxRef), groupAt s gi = some g ∧ findOp s gi (BitVec.ofNat 32 id) = some o ∧ o.done = false ∧ o.op ≠ 4 ∧ o.recvs.find? (fun r => decide (r.next < r.count)) = some x ∧ o.mbx = some r ∧ (mbxAt s r.id).epoch = r.epoch) :=
  ⟨⟨lad ({ lop 1 with sends := [tx] }), 2, lpk ifpCollT 3 1 1 0, g9, { lop 1 with sends := [tx] }, tx, Or.inr (arrives_of (by decide)), by decide, by decide, by rfl, by rfl, by rfl⟩,
   ⟨lad ({ lop 1 with sends := [tx] }), 1, 5, 0, 0, 0, g9, { lop 1 with sends := [tx] }, tx, by rfl, by rfl, by rfl, by decide⟩,
   ⟨lad ({ lop 1 with sends := [{ tx with backoff := 4, since := some 0, probing := true }] }), 1, 5, 0, 0, 0, g9, { lop 1 with sends := [{ tx with backoff := 4, since := some 0, probing := true }] }, { tx with backoff := 4, since := some 0, probing := true }, by rfl, by rfl, by rfl, by decide, by decide, groupFits_of (by decide), Or.inl rfl⟩,
   ⟨lad ({ lop 1 with sends := [tx] }), 2, lpk ifpCollT 4 1 1 0, g9, { lop 1 with sends := [tx] }, tx, r7, Or.inr (arrives_of (by decide)), by decide, by decide, by rfl, by decide, by rfl, by rfl, by decide⟩,
   ⟨lad ({ lop 1 with sends := [{ tx with backoff := 4, since := some 0 }] }), 1, 5, 0, 0, 0, g9, { lop 1 with sends := [{ tx with backoff := 4, since := some 0 }] }, { tx with backoff := 4, since := some 0 }, r7, by rfl, by rfl, by rfl, by decide, by decide, by decide, by rfl, by decide⟩,
   ⟨lad ({ lop 0 with sends := [{ tx with backoff := 4, since := some 0 }] }), 1, 5, 0, 0, 0, g9, { lop 0 with sends := [{ tx with backoff := 4, since := some 0 }] }, { tx with backoff := 4, since := some 0 }, by rfl, by rfl, by rfl, by decide, by decide, by decide, noBadData_of (by decide)⟩,
   ⟨lad ({ lop 0 with recvs := [{ phase := 0, block := 0, src := 0, count := 1, next := 1 }] }), 2, lpk ifpMcastT 5 0 1 0, g9, { lop 0 with recvs := [{ phase := 0, block := 0, src := 0, count := 1, next := 1 }] }, { phase := 0, block := 0, src := 0, count := 1, next := 1 }, Or.inl (arrives_of (by decide)), by decide, by decide, by rfl, by rfl, by simp⟩,
   ⟨lad ({ lop 0 with recvs := [{ phase := 0, block := 0, src := 0, count := 1 }] }), 1, 5, g9, { lop 0 with recvs := [{ phase := 0, block := 0, src := 0, count := 1 }] }, { phase := 0, block := 0, src := 0, count := 1 }, r7, by rfl, by rfl, by decide, by decide, by rfl, by rfl, by decide⟩⟩

theorem test_BarriersReleaseOrFail_meets :
    (∃ (s : State) (port : Nat) (p : IfpPacket) (gi : Nat) (g : Group), Arrives s port p ifpBarrierT ∧ lKind p = 1 ∧ p.payload.length = 16 ∧ s.ladle.groups.find? (fun x => x.2.tag == lTag p && x.2.stream == hStream p) = some (gi, g) ∧ findOp s gi (lOpId p) = none ∧ (g.tag, lOpId p) ∉ s.ladle.failedBars ∧ (g.tag, lOpId p, g.ids.idxOf (hSrc p)) ∉ s.ladle.early) ∧
    (∃ (s : State) (port : Nat) (p : IfpPacket) (gi : Nat) (g : Group) (o : LOp), Arrives s port p ifpBarrierT ∧ lKind p = 1 ∧ p.payload.length = 16 ∧ s.ladle.groups.find? (fun x => x.2.tag == lTag p && x.2.stream == hStream p) = some (gi, g) ∧ findOp s gi (lOpId p) = some o ∧ o.op = 4 ∧ o.done = false ∧ (g.tag, lOpId p) ∉ s.ladle.failedBars ∧ rackOf (g.ids.getD (g.ids.idxOf (hSrc p)) 0) = rackOf (g.ids.getD (myRank s g) 0) ∧ o.group = gi) ∧
    (∃ (s : State) (port : Nat) (p : IfpPacket) (gi : Nat) (g : Group) (o : LOp) (r : MbxRef), Arrives s port p ifpBarrierT ∧ lKind p = 2 ∧ p.payload.length = 16 ∧ s.ladle.groups.find? (fun x => x.2.tag == lTag p && x.2.stream == hStream p) = some (gi, g) ∧ findOp s gi (lOpId p) = some o ∧ o.op = 4 ∧ o.done = false ∧ o.mbx = some r ∧ (mbxAt s r.id).epoch = r.epoch ∧ mbxWf r.id = true) ∧
    (∃ (s : State) (port : Nat) (p : IfpPacket) (gi : Nat) (g : Group) (o : LOp) (r : MbxRef), Arrives s port p ifpBarrierT ∧ lKind p = 3 ∧ p.payload.length = 16 ∧ s.ladle.groups.find? (fun x => x.2.tag == lTag p && x.2.stream == hStream p) = some (gi, g) ∧ findOp s gi (lOpId p) = some o ∧ o.op = 4 ∧ o.done = false ∧ (g.tag, lOpId p) ∉ s.ladle.failedBars ∧ o.mbx = some r ∧ (mbxAt s r.id).epoch = r.epoch) ∧
    (∃ (s : State) (gi : Nat) (id : Nat) (g : Group) (o : LOp) (r : MbxRef), groupAt s gi = some g ∧ myRank s g = leaderOf g 0 ∧ (g.tag, BitVec.ofNat 32 id) ∉ s.ladle.failedBars ∧ findOp s gi (BitVec.ofNat 32 id) = some o ∧ o.op = 4 ∧ o.done = false ∧ o.firstAt.isSome = true ∧ o.mbx = some r ∧ (mbxAt s r.id).epoch = r.epoch) :=
  ⟨⟨{ port 2 4 with ladle := { groups := [(1, g9)] } }, 2, bpk 1 5, 1, g9, arrives_of (by decide), by decide, by decide, by rfl, by decide, by decide, by decide⟩,
   ⟨lad (lop 4), 2, bpk 1 5, 1, g9, lop 4, arrives_of (by decide), by decide, by decide, by rfl, by rfl, by decide, by decide, by decide, by decide, by decide⟩,
   ⟨lad (lop 4), 2, bpk 2 5, 1, g9, lop 4, r7, arrives_of (by decide), by decide, by decide, by rfl, by rfl, by decide, by decide, by rfl, by decide, by decide⟩,
   ⟨lad (lop 4), 2, bpk 3 5, 1, g9, lop 4, r7, arrives_of (by decide), by decide, by decide, by rfl, by rfl, by decide, by decide, by decide, by rfl, by decide⟩,
   ⟨lad { lop 4 with firstAt := some 0 } { g9 with ids := [0, 9] }, 1, 5, { g9 with ids := [0, 9] }, { lop 4 with firstAt := some 0 }, r7, by rfl, by decide, by decide, by rfl, by decide, by decide, by decide, by rfl, by decide⟩⟩

theorem test_SuspectsAndNotices_meets :
    (∃ (s : State) (port : Nat) (p : IfpPacket), Arrives s port p ifpNoticeT ∧ leAt p.payload 0 1 = 1 ∧ p.payload.length = 32 ∧ isCollector s = true ∧ (∀ x ∈ s.ladle.suspects, ¬(x.key = nKey p ∧ x.epoch = nEpoch p)) ∧ (s.ladle.suspects.filter (fun x => x.epoch == nEpoch p)).length < 64) ∧
    (∃ (s : State) (port : Nat) (p : IfpPacket) (x : Suspect), Arrives s port p ifpNoticeT ∧ leAt p.payload 0 1 = 1 ∧ p.payload.length = 32 ∧ isCollector s = true ∧ s.ladle.suspects.find? (fun x => x.key == nKey p && x.epoch == nEpoch p) = some x) ∧
    (∃ (s : State) (port : Nat) (p : IfpPacket), Arrives s port p ifpNoticeT ∧ leAt p.payload 0 1 = 1 ∧ p.payload.length = 32 ∧ isCollector s = false) ∧
    (∃ (s : State) (port : Nat) (p : IfpPacket), Arrives s port p ifpNoticeT ∧ leAt p.payload 0 1 = 2 ∧ p.payload.length = 32) ∧
    (∃ (s : State) (key : Nat) (x : Suspect), s.ladle.suspects.find? (fun x => x.key == key && x.record.isNone) = some x ∧ (∀ r ∈ s.faults, r.seq ≠ rd s (fltReg 8)) ∧ s.faults.any (sameFault (faultEpoch s) (suspectFault x)) = false) ∧
    (∃ (s : State) (key : Nat) (k : Nat × Nat), s.ladle.echoWait.find? (fun x => x.1 == key) = some k ∧ k ∉ s.ladle.signalled) :=
  ⟨⟨port 2 4, 2, npk 1, arrives_of (by decide), by decide, by decide, by decide, by simp [port, part, wr, State.reset], by decide⟩,
   ⟨{ port 2 4 with ladle := { suspects := [susp] } }, 2, npk 1, susp, arrives_of (by decide), by decide, by decide, by decide, by rfl⟩,
   ⟨wr (port 2 4) (ldReg 0x40) 0x2009, 2, npk 1, arrives_of (by decide), by decide, by decide, by decide⟩,
   ⟨{ port 2 4 with ladle := { echoWait := [(nKey (npk 2), 0)] } }, 2, npk 2, arrives_of (by decide), by decide, by decide⟩,
   ⟨{ port 2 4 with ladle := { suspects := [susp] } }, nKey (npk 1), susp, by rfl, by simp [port, part, wr, State.reset], by decide⟩,
   ⟨{ part with ladle := { echoWait := [(7, 0)] } }, 7, (7, 0), by rfl, by decide⟩⟩

theorem test_OccupancyWindows_meets :
    (∃ (s : State) (n : Nat), n < 24) ∧
    (∃ (s : State), s.rackTime.toNat % msCycles = 0 ∧ s.potWinAt ≠ some s.rackTime) ∧
    (∃ (s : State), s.rackTime.toNat % msCycles = 0 ∧ s.potWinAt ≠ some s.rackTime ∧ (∀ n, n < 24 → isHot (latchOcc s) n = false)) ∧
    (∃ (s : State) (n : Nat), s.rackTime.toNat % msCycles = 0 ∧ s.potWinAt ≠ some s.rackTime ∧ n < 24 ∧ isHot (latchOcc s) n = true ∧ rbit s (spReg 0) 1 = true ∧ (∀ u, s.pot.rekeyAt = some u → Nat.max 1 (rdF s (spReg 4) 23 16) * msCycles ≤ elapsed s u)) :=
  ⟨⟨part, 23, by decide⟩,
   ⟨{ part with pot := { formed := true, occ := [(5, 2, 600, 400)] } }, by decide, by decide⟩,
   ⟨part, by decide, by decide, by decide⟩,
   ⟨(wr { up1 (wr part (skReg 2 0) 1) with pot := { formed := true, occ := [(1, 1, 500, 500), (2, 1, 10, 10)] } } (spReg 0) 2), 1, by decide, by decide, by decide, by decide, by decide, by intro u h; cases h⟩⟩

theorem test_PagesMigrateAndAreCopied_meets :
    (∃ (s : State) (m : Nat × Nat × Nat) (ms : List (Nat × Nat × Nat)) (o : Obj) (p : Page) (f : Nat), s.pot.migPlan = m :: ms ∧ objAt s m.1 = some o ∧ trackedPage s (m.1 * 65536 + m.2.1) = some p ∧ m.2.1 < 65536 ∧ p.pinned = false ∧ p.migrating = false ∧ p.lost = false ∧ findFrame s o.secure m.2.2 (Config.freeNat s.freeNo % stackFrames) stackFrames = some f) ∧
    (∃ (s : State), s.pot.migPlan = []) ∧
    (∃ (s : State) (h : Nat) (i : Nat) (m : Migration) (p : Page), findMig s h i = some m ∧ trackedPage s (h * 65536 + i) = some p ∧ m.dirty ≠ [] ∧ m.rounds < 3) ∧
    (∃ (s : State) (h : Nat) (i : Nat) (m : Migration) (p : Page), findMig s h i = some m ∧ trackedPage s (h * 65536 + i) = some p ∧ i < 65536 ∧ m.dirty ≠ [] ∧ 3 ≤ m.rounds) ∧
    (∃ (s : State) (h : Nat) (i : Nat) (m : Migration) (p : Page), findMig s h i = some m ∧ trackedPage s (h * 65536 + i) = some p ∧ i < 65536 ∧ p.remote = none ∧ m.dirty = [] ∧ (∀ l ∈ s.pot.badLines, lineIn (p.frame * frameBytes) frameBytes l = false) ∧ memWf s.stackMem = true) ∧
    (∃ (s : State) (slot : Nat) (h : Nat) (i : Nat) (x : Instance) (o : Obj) (p : Page), slot < 64 ∧ instOf s slot = some x ∧ objAt s h = some o ∧ o.inst = slot ∧ o.pages[i]? = some p ∧ p.shared = true ∧ p.lost = false ∧ findMig s h i = none ∧ refCount s (refKey p) ≤ 1) ∧
    (∃ (s : State) (slot : Nat) (h : Nat) (i : Nat) (x : Instance) (o : Obj) (p : Page) (q : Page), slot < 64 ∧ instOf s slot = some x ∧ objAt s h = some o ∧ o.inst = slot ∧ o.pages[i]? = some p ∧ p.shared = true ∧ p.lost = false ∧ findMig s h i = none ∧ 1 < refCount s (refKey p) ∧ cowPage x h = some q ∧ p.remote = none ∧ q.remote = none ∧ p.fill ≤ 512 ∧ (∀ l ∈ s.pot.badLines, lineIn (p.frame * frameBytes) (4096 * p.fill) l = false) ∧ memWf s.stackMem = true) :=
  ⟨⟨{ up1 with pot := { formed := true, objs := [(0x10000005, { inst := 3, secure := false, pages := [{ frame := 25 }] })], migPlan := [(0x10000005, 0, 1)] } }, (0x10000005, 0, 1), [], { inst := 3, secure := false, pages := [{ frame := 25 }] }, { frame := 25 }, 1 + 24 * (Config.freeNat 0 % stackFrames % stackFrames), by decide, by rfl, by rfl, by decide, by decide, by decide, by decide, findFrame_of _ 24575 (by decide)⟩,
   ⟨part, by decide⟩,
   ⟨{ up1 with stackMem := [(0x3200000, 7)], pot := { formed := true, used := [25, 30], objs := [(0x10000005, { inst := 3, secure := false, pages := [{ frame := 25 }] })], migs := [{ handle := 0x10000005, page := 0, dest := 30, rounds := 2, dirty := [9] }] } }, 0x10000005, 0, { handle := 0x10000005, page := 0, dest := 30, rounds := 2, dirty := [9] }, { frame := 25 }, by rfl, by rfl, by decide, by decide⟩,
   ⟨{ up1 with stackMem := [(0x3200000, 7)], pot := { formed := true, used := [25, 30], objs := [(0x10000005, { inst := 3, secure := false, pages := [{ frame := 25 }] })], migs := [{ handle := 0x10000005, page := 0, dest := 30, rounds := 3, dirty := [9] }] } }, 0x10000005, 0, { handle := 0x10000005, page := 0, dest := 30, rounds := 3, dirty := [9] }, { frame := 25 }, by rfl, by rfl, by decide, by decide, by decide⟩,
   ⟨{ up1 with stackMem := [(0x3200000, 7)], pot := { formed := true, used := [25, 30], objs := [(0x10000005, { inst := 3, secure := false, pages := [{ frame := 25 }] })], migs := [{ handle := 0x10000005, page := 0, dest := 30, rounds := 0 }] } }, 0x10000005, 0, { handle := 0x10000005, page := 0, dest := 30, rounds := 0 }, { frame := 25 }, by rfl, by rfl, by decide, by decide, by decide, by decide, by decide⟩,
   ⟨{ part with stackMem := [(0x3200000, 7)], insts := [(3, { i7 with flight := [] })], pot := { formed := true, used := [25, 30], refs := [], objs := [(0x10000005, { inst := 3, secure := false, pages := [{ frame := 25, shared := true, fill := 1 }] })] } }, 3, 0x10000005, 0, i7, { inst := 3, secure := false, pages := [{ frame := 25, shared := true, fill := 1 }] }, { frame := 25, shared := true, fill := 1 }, by decide, by rfl, by rfl, by decide, by rfl, by decide, by decide, by decide, by decide⟩,
   ⟨{ part with stackMem := [(0x3200000, 7)], insts := [(3, { i7 with flight := [{ fl7 with cow := [(0x10000005, { frame := 30 })] }] })], pot := { formed := true, used := [25, 30], refs := [(25, 2)], objs := [(0x10000005, { inst := 3, secure := false, pages := [{ frame := 25, shared := true, fill := 1 }] })] } }, 3, 0x10000005, 0, { i7 with flight := [{ fl7 with cow := [(0x10000005, { frame := 30 })] }] }, { inst := 3, secure := false, pages := [{ frame := 25, shared := true, fill := 1 }] }, { frame := 25, shared := true, fill := 1 }, { frame := 30 }, by decide, by rfl, by rfl, by decide, by rfl, by decide, by decide, by decide, by decide, by rfl, by decide, by decide, by decide, by decide, by decide⟩⟩

theorem test_PagesForOtherParts_meets :
    (∃ (s : State) (peer : Nat) (f : Nat) (secure : Bool) (o : Obj), spLow s ≤ spFree s ∧ o = (objAt s (heldHandle peer secure)).getD { inst := 64, secure := secure } ∧ o.pages.length < 65536 ∧ placeOn s secure (placeHash s (heldHandle peer secure) o.pages.length) 24 = some f ∧ rdF s (spReg 0x38) 19 0 < 0xFFFFF) ∧
    (∃ (s : State) (peer : Nat) (n : Nat) (secure : Bool), spFree s < spLow s) ∧
    (∃ (s : State) (peer : Nat) (fs : List Nat), peer < 8192) ∧
    (∃ (s : State) (peer : Nat) (u : W64), mapFind s.pot.seen peer = some u ∧ 1000 * msCycles ≤ elapsed s u) ∧
    (∃ (s : State) (peer : Nat) (u : W64), mapFind s.pot.seen peer = some u ∧ elapsed s u < 1000 * msCycles) :=
  ⟨by obtain ⟨f, h⟩ := @placeOn_open ({ up1 with pot := { formed := true } }) false 1 (heldHandle 9 false) 0 (by decide); exact ⟨_, 9, f, false, _, by decide, rfl, by decide, h, by decide⟩,
   ⟨wr part (spReg 8) 1, 9, 4, false, by decide⟩,
   ⟨{ up1 with rackTime := 0, pot := { formed := true, used := [25, 30, 31], seen := [(9, 0)], objs := [(0x70000012, { inst := 64, secure := false, pages := [{ frame := 25, pinned := true }, { frame := 30, pinned := true }] })] } }, 9, [25, 7], by decide⟩,
   ⟨{ up1 with rackTime := 0xFFFFFFFFFFFF, pot := { formed := true, used := [25, 30, 31], seen := [(9, 0)], objs := [(0x70000012, { inst := 64, secure := false, pages := [{ frame := 25, pinned := true }, { frame := 30, pinned := true }] })] } }, 9, 0, by rfl, by decide⟩,
   ⟨{ up1 with rackTime := 5, pot := { formed := true, used := [25, 30, 31], seen := [(9, 0)], objs := [(0x70000012, { inst := 64, secure := false, pages := [{ frame := 25, pinned := true }, { frame := 30, pinned := true }] })] } }, 9, 0, by rfl, by decide⟩⟩

theorem test_ConversionsAndSlowRounds_meets :
    (∃ (s : State) (c : Nat) (code : Nat) (v : Int), c < 128 ∧ vhkOn s = true ∧ givesTemp code v = true ∧ v < levelTrip s c) ∧
    (∃ (s : State) (c : Nat) (code : Nat) (v : Int), c < 128 ∧ vhkOn s = true ∧ givesTemp code v = true ∧ v < levelTrip s c) ∧
    (∃ (s : State) (c : Nat) (code : Nat) (v : Int) (w : Int), c < 128 ∧ vhkOn s = true ∧ s.hk.tripped = false ∧ givesTemp code v = true ∧ (chanAt s c).prev = some w ∧ levelTrip s c ≤ v ∧ levelTrip s c ≤ w) ∧
    (∃ (s : State) (c : Nat) (code : Nat) (v : Int), c < 128 ∧ vhkOn s = true ∧ givesTemp code v = false ∧ (chanAt s c).bad = 2 ∧ sensorBroken s c = false ∧ kettleRuns s = true) ∧
    (∃ (s : State) (c : Nat) (code : Nat) (v : Int), 128 ≤ c ∧ c < 156 ∧ c ≠ 152 ∧ vhkOn s = true) ∧
    (∃ (s : State) (c : Nat) (code : Nat) (v : Int), 128 ≤ c ∧ c < 156 ∧ c ≠ 152 ∧ vhkOn s = true) ∧
    (∃ (s : State) (code : Nat) (v : Int), vhkOn s = true) ∧
    (∃ (s : State) (c : Nat) (code : Nat) (v : Int), 156 ≤ c ∧ c < 160) ∧
    (∃ (s : State) (c : Nat) (code : Nat) (v : Int), 156 ≤ c ∧ c < 160) ∧
    (∃ (s : State) (temp : Int) (c : Nat), vhkOn s = true ∧ kettleRuns s = true ∧ s.hk.dacBad = false ∧ hottest ((List.range 156).foldl closeRound s) = some (temp, c) ∧ (∀ k, k < 128 → isStuck ((List.range 156).foldl closeRound s) k = false)) :=
  ⟨⟨part, 127, 2000, 28671, by decide, by decide, by decide, by decide⟩,
   ⟨part, 0, 1, -(40 * 256), by decide, by decide, by decide, by decide⟩,
   ⟨{ part with hk := { chans := [(5, { prev := some 28672 })] } }, 5, 2000, 28672, 28672, by decide, by decide, by decide, by decide, by rfl, by decide, by decide⟩,
   ⟨{ part with hk := { chans := [(5, { bad := 2 })] } }, 5, 0, 0, by decide, by decide, by decide, by decide, by decide, by decide⟩,
   ⟨part, 128, 9, 77, by decide, by decide, by decide, by decide⟩,
   ⟨part, 155, 9, 77, by decide, by decide, by decide, by decide⟩,
   ⟨part, 1999, 9, by decide⟩,
   ⟨part, 156, 9, 77, by decide, by decide⟩,
   ⟨part, 159, 9, 77, by decide, by decide⟩,
   ⟨{ wrF part (hkReg 0x0C) 29 24 33 with hk := { chans := [(5, { sum := 50001, count := 2 }), (130, { sum := 6000, count := 2 })] } }, 25000, 5, by decide, by decide, by decide, by rfl, by decide⟩⟩

theorem test_WindowsBlocksAndTheClock_meets :
    (∃ (s : State) (vin : Nat) (iin : Nat) (iib : Nat), vhkOn s = true) ∧
    (∃ (s : State) (vin : Nat) (iin : Nat) (iib : Nat), vhkOn s = true) ∧
    (∃ (s : State) (r : Int) (c : Nat), vhkOn s = true ∧ s.hk.tripped = false ∧ c < 128 ∧ fastest ((List.range 128).foldl (fun s c => setChan s c (closeBlock (chanAt s c))) s) = (r, c) ∧ 20 * 256 ≤ r) ∧
    (∃ (s : State) (r : Int) (c : Nat), kettleRuns s = true ∧ vhkOn s = true ∧ fastest ((List.range 128).foldl (fun s c => setChan s c (closeBlock (chanAt s c))) s) = (r, c) ∧ 2 * 256 ≤ r ∧ r < 20 * 256) ∧
    (∃ (s : State) (r : Int) (c : Nat), kettleRuns s = true ∧ vhkOn s = true ∧ fastest ((List.range 128).foldl (fun s c => setChan s c (closeBlock (chanAt s c))) s) = (r, c) ∧ 2 * 256 ≤ r ∧ r < 20 * 256) ∧
    (∃ (s : State) (r : Int) (c : Nat), kettleRuns s = true ∧ vhkOn s = true ∧ fastest ((List.range 128).foldl (fun s c => setChan s c (closeBlock (chanAt s c))) s) = (r, c) ∧ 2 * 256 ≤ r ∧ r < 20 * 256) ∧
    (∃ (s : State) (r : Int) (c : Nat), kettleRuns s = true ∧ vhkOn s = true ∧ fastest ((List.range 128).foldl (fun s c => setChan s c (closeBlock (chanAt s c))) s) = (r, c) ∧ 2 * 256 ≤ r ∧ r < 20 * 256) ∧
    (∃ (s : State), kettleRuns s = true ∧ fAct s < s.hk.varith ∧ s.hk.varith ≤ targetClock s ∧ s.hk.varith < 64) ∧
    (∃ (s : State), s.hk.varith ≤ fAct s) :=
  ⟨⟨{ part with hk := { chans := [(155, { mean := some 48000 })] } }, 786432, 5000, 77, by decide⟩,
   ⟨{ part with hk := { chans := [(155, { mean := some 48000 })], hkiFails := 2 } }, 700000, 5000, 77, by decide⟩,
   ⟨{ part with hk := { chans := [(5, { bsum := 5120, bcount := 1, blocks := [none, none, none, none, none, none, none, none, none, some (0, 1)] })] } }, 5120, 5, by decide, by decide, by decide, by decide +kernel, by decide⟩,
   ⟨{ (wrF part (hkReg 0x0C) 5 0 20) with hk := { chans := [(5, { bsum := 512, bcount := 1, blocks := [none, none, none, none, none, none, none, none, none, some (0, 1)] })] } }, 512, 5, by decide, by decide, by decide +kernel, by decide, by decide⟩,
   ⟨{ (wrF part (hkReg 0x0C) 5 0 20) with hk := { chans := [(5, { bsum := 1535, bcount := 1, blocks := [none, none, none, none, none, none, none, none, none, some (0, 1)] })] } }, 1535, 5, by decide, by decide, by decide +kernel, by decide, by decide⟩,
   ⟨{ (wrF part (hkReg 0x0C) 5 0 20) with hk := { chans := [(5, { bsum := 1536, bcount := 1, blocks := [none, none, none, none, none, none, none, none, none, some (0, 1)] })] } }, 1536, 5, by decide, by decide, by decide +kernel, by decide, by decide⟩,
   ⟨{ (wrF part (hkReg 0x0C) 5 0 20) with hk := { chans := [(5, { bsum := 5119, bcount := 1, blocks := [none, none, none, none, none, none, none, none, none, some (0, 1)] })] } }, 5119, 5, by decide, by decide, by decide +kernel, by decide, by decide⟩,
   ⟨{ (wr part (hkReg 0x0C) 0x2121210C) with hk := { varith := 13 } }, by decide, by decide, by decide, by decide⟩,
   ⟨part, by decide⟩⟩

theorem test_TripsAndRestarts_meets :
    (∃ (s : State) (c : Instr) (k : Nat), (c = .inputOvercurrentShutdown ∧ k = 3 ∨ c = .overvoltageShutdown ∧ k = 4) ∧ vhkOn s = true ∧ s.hk.tripped = false) ∧
    (∃ (s : State) (c : Instr) (k : Nat), (c = .inputOvercurrentShutdown ∧ k = 3 ∨ c = .overvoltageShutdown ∧ k = 4) ∧ vhkOn s = true ∧ s.hk.tripped = false) ∧
    (∃ (s : State) (c : Instr), (c = .inputOvercurrentShutdown ∨ c = .overvoltageShutdown) ∧ s.hk.tripped = true) ∧
    (∃ (s : State), s.hk.tripped = true ∧ latched s = false ∧ 5000 ≤ s.hk.cool ∧ vinInRange s = true) ∧
    (∃ (s : State), (s.hk.tripped = false ∨ latched s = true ∨ s.hk.cool < 5000)) ∧
    (∃ (s : State), vhkOn s = true) :=
  ⟨⟨{ part with hk := { trips := [5, 6, 7], ms := 900 } }, .inputOvercurrentShutdown, 3, Or.inl ⟨rfl, rfl⟩, by decide, by decide⟩,
   ⟨part, .overvoltageShutdown, 4, Or.inr ⟨rfl, rfl⟩, by decide, by decide⟩,
   ⟨{ part with hk := { tripped := true } }, .overvoltageShutdown, Or.inr rfl, by decide⟩,
   ⟨{ part with hk := { chans := [(155, { mean := some 44000 })], tripped := true, cool := 5000 } }, by decide, by decide, by decide, by decide⟩,
   ⟨{ part with hk := { tripped := true, cool := 4999 } }, by decide⟩,
   ⟨wbit part (hkReg 0x50) 11 true, by decide⟩⟩

theorem test_HousekeepingWrites_meets :
    (∃ (s : State) (a : List Int) (b : List Int), vhkOn s = true ∧ failedSlices s = [] ∧ slicesTested s = false ∧ (∀ i, i < 4 → (a.getD i 0 - b.getD i 0).natAbs ≤ 2)) ∧
    (∃ (s : State) (a : List Int) (b : List Int) (i : Nat), vhkOn s = true ∧ failedSlices s = [] ∧ slicesTested s = false ∧ i < 4 ∧ 2 < (a.getD i 0 - b.getD i 0).natAbs ∧ s.hk.dwellFails < 2) ∧
    (∃ (s : State) (a : List Int) (b : List Int) (i : Nat), vhkOn s = true ∧ failedSlices s = [] ∧ slicesTested s = false ∧ i < 4 ∧ 2 < (a.getD i 0 - b.getD i 0).natAbs ∧ s.hk.dwellFails = 2 ∧ spareAt s < 16) ∧
    (∃ (s : State) (size : Nat) (l : List (Nat × Int)), kettleRuns s = true ∧ rbit s (hkReg 0) 1 = true ∧ rdF s (hkReg 0x3C) 15 0 = size ∧ 0 < size ∧ nearList s = l ∧ l ≠ [] ∧ s.bme0 = true) ∧
    (∃ (s : State), kettleRuns s = true) ∧
    (∃ (s : State) (v : Nat), vhkOn s = true ∧ s.hk.sledCap ≠ v % 2048) ∧
    (∃ (s : State) (v : W32), (s.life.lcState = 0 ∨ s.life.lcState = 3)) ∧
    (∃ (s : State) (v : W32), s.life.lcState ≠ 0 ∧ s.life.lcState ≠ 3) ∧
    (∃ (s : State) (m : MbxId), Ready s m 0x0701 8 ∧ 800 ≤ reqN s m 8 2 ∧ reqN s m 8 2 ≤ 1800 ∧ reqN s m 10 1 ≤ 1 ∧ ZeroAt s m 11 5) ∧
    (∃ (s : State) (m : MbxId), Ready s m 0x0701 8 ∧ 800 ≤ reqN s m 8 2 ∧ reqN s m 8 2 ≤ 1800 ∧ reqN s m 10 1 ≤ 1 ∧ ZeroAt s m 11 5) :=
  ⟨⟨part, [1, 2, 3, 4], [3, 0, 3, 4], by decide, by decide, by decide, by decide⟩,
   ⟨part, [1, 2, 3, 4], [4, 2, 3, 4], 0, by decide, by decide, by decide, by decide, by decide, by decide⟩,
   ⟨{ part with hk := { dwellFails := 2 } }, [1, 2, 3, 4], [4, 2, 3, 4], 0, by decide, by decide, by decide, by decide, by decide, by decide, by decide⟩,
   ⟨{ wrF (wbit part (hkReg 0) 1 true) (hkReg 0x3C) 15 0 2 with hk := { chans := [(7, { last5 := [23040, 23041] })] } }, 2, [(7, 23040)], by decide, by decide, by decide, by decide, by decide, by decide, by decide⟩,
   ⟨wbit part (hkReg 4) 5 true, by decide⟩,
   ⟨part, 2047, by decide, by decide⟩,
   ⟨{ part with life := { lcState := 3 } }, 0x800003FF, Or.inr rfl⟩,
   ⟨part, 0x800003FF, by decide, by decide⟩,
   ⟨cmd part p1 0x0701 8 [(8, 2, 800), (10, 1, 1)], p1, ready_of (by decide), by decide, by decide, by decide, zeroAt_of (by decide)⟩,
   ⟨cmd { part with hk := { sledEff := 900 } } p1 0x0701 8 [(8, 2, 1800), (10, 1, 0)], p1, ready_of (by decide), by decide, by decide, by decide, zeroAt_of (by decide)⟩⟩

theorem test_ResetsKeepAndLose_meets :
    (∃ (s : State), s.hk.vinOn = false) ∧
    (∃ (s : State), s.hk.vinOn = true ∧ s.life.lcReset = false) ∧
    (∃ (s : State), s.hk.vinOn = true ∧ s.life.lcReset = true) ∧
    (∃ (s : State), vhkOn s = true ∧ s.hk.tripped = false) ∧
    (∃ (s : State), (vhkOn s = false ∨ s.hk.tripped = true)) ∧
    (∃ (s : State), (vhkOn s = false ∨ s.hk.tripped = true)) ∧
    (∃ (s : State) (r : Nat), r < 7 ∧ s.hk.vinOn = true ∧ s.hk.tripped = false ∧ r = s.life.rails) ∧
    (∃ (s : State) (r : Nat), r < 7 ∧ s.hk.vinOn = true ∧ s.hk.tripped = false ∧ r = s.life.rails) ∧
    (∃ (s : State) (r : Nat), r < 7 ∧ r ≠ s.life.rails) ∧
    (∃ (s : State) (m : MbxId), Ready s m 0x0005 8 ∧ reqN s m 8 1 = 1 ∧ ZeroAt s m 10 6) ∧
    (∃ (s : State) (m : MbxId), Ready s m 0x0005 8 ∧ reqN s m 8 1 = 2 ∧ reqN s m 9 1 < 18 ∧ ZeroAt s m 10 6 ∧ portState s (reqN s m 9 1) ≠ fpQuarantine ∧ portCarries s (reqN s m 9 1) = false) ∧
    (∃ (s : State) (m : MbxId), Ready s m 0x0005 8 ∧ reqN s m 8 1 = 2 ∧ reqN s m 9 1 < 18 ∧ ZeroAt s m 10 6 ∧ portState s (reqN s m 9 1) ≠ fpQuarantine ∧ portCarries s (reqN s m 9 1) = false) ∧
    (∃ (s : State) (m : MbxId), Ready s m 0x0005 8 ∧ reqN s m 8 1 = 2 ∧ reqN s m 9 1 < 18 ∧ ZeroAt s m 10 6 ∧ portState s (reqN s m 9 1) = fpQuarantine) ∧
    (∃ (s : State) (m : MbxId), mbxWf m = true ∧ reqN s m 8 1 = 2) ∧
    (∃ (s : State) (m : MbxId), mbxWf m = true ∧ reqN s m 8 1 ≠ 2) ∧
    (∃ (s : State), s.life.drainReset = true) ∧
    (∃ (s : State), s.life.drainReset = false) ∧
    (∃ (s : State) (pf : Nat), pf < 2 ∧ s.life.linkUp = true) ∧
    (∃ (s : State) (pf : Nat), pf < 2 ∧ s.life.linkUp = true) ∧
    (∃ (s : State) (pf : Nat), pf < 2 ∧ s.life.linkUp = false) :=
  ⟨⟨{ part with hk := { vinOn := false } }, by decide⟩,
   ⟨{ part with life := { lcReset := false, rails := 7 } }, by decide, by decide⟩,
   ⟨{ part with life := { lcReset := true, rails := 7 } }, by decide, by decide⟩,
   ⟨wr { part with fab := { coord := 5, accepted := true } } (skReg 2 0) 2, by decide, by decide⟩,
   ⟨{ part with life := { rails := 0 } }, Or.inl (by decide)⟩,
   ⟨{ part with hk := { tripped := true } }, Or.inr (by decide)⟩,
   ⟨{ part with life := { rails := 0 } }, 0, by decide, by decide, by decide, by decide⟩,
   ⟨{ part with life := { rails := 6 } }, 6, by decide, by decide, by decide, by decide⟩,
   ⟨part, 6, by decide, by decide⟩,
   ⟨cmd (port 2 4) p1 0x0005 8 [(8, 1, 1)], p1, ready_of (by decide), by decide, zeroAt_of (by decide)⟩,
   ⟨cmd (port 2 1) p1 0x0005 8 [(8, 1, 2), (9, 1, 2)], p1, ready_of (by decide), by decide, by decide, zeroAt_of (by decide), by decide, by decide⟩,
   ⟨cmd (port 17 2) p1 0x0005 8 [(8, 1, 2), (9, 1, 17)], p1, ready_of (by decide), by decide, by decide, zeroAt_of (by decide), by decide, by decide⟩,
   ⟨cmd (port 2 3) p1 0x0005 8 [(8, 1, 2), (9, 1, 2)], p1, ready_of (by decide), by decide, by decide, zeroAt_of (by decide), by decide⟩,
   ⟨cmd part p1 0x0005 8 [(8, 1, 2)], p1, by decide, by decide⟩,
   ⟨cmd part p1 0x0005 8 [(8, 1, 1)], p1, by decide, by decide⟩,
   ⟨{ part with life := { drainReset := true, rails := 7 } }, by decide⟩,
   ⟨part, by decide⟩,
   ⟨cmd { part with life := { rails := 7, stage := 9, linkUp := true, fw := part.life.fw }, unmasked := [5, 133] } h0 0x0005 8 [(8, 1, 1)], 0, by decide, by decide⟩,
   ⟨cmd { part with life := { rails := 7, stage := 9, linkUp := true, fw := part.life.fw }, unmasked := [5, 133] } p1 0x0005 8 [(8, 1, 1)], 1, by decide, by decide⟩,
   ⟨{ part with life := { linkUp := false } }, 1, by decide, by decide⟩⟩

theorem test_PartsStartUp_meets :
    (∃ (s : State) (m : MbxId) (img : Bytes), Ready s m 0x0806 16 ∧ heldCmd s m 0x0806 = none ∧ busMaster s m.pf = true ∧ ZeroAt s m 20 4 ∧ img.length = reqN s m 16 4 ∧ fwLayout img img.length = none) ∧
    (∃ (s : State) (m : MbxId) (img : Bytes) (o : Nat), Ready s m 0x0806 16 ∧ heldCmd s m 0x0806 = none ∧ busMaster s m.pf = true ∧ ZeroAt s m 20 4 ∧ img.length = reqN s m 16 4 ∧ fwLayout img img.length = some o) ∧
    (∃ (s : State) (m : MbxId) (img : Bytes) (o : Nat), Ready s m 0x0806 16 ∧ heldCmd s m 0x0806 = none ∧ busMaster s m.pf = true ∧ ZeroAt s m 20 4 ∧ img.length = reqN s m 16 4 ∧ fwLayout img img.length = some o) ∧
    (∃ (s : State) (m : MbxId) (img : Bytes) (o : Nat), Ready s m 0x0806 16 ∧ heldCmd s m 0x0806 = none ∧ busMaster s m.pf = true ∧ ZeroAt s m 20 4 ∧ img.length = reqN s m 16 4 ∧ fwLayout img img.length = some o) ∧
    (∃ (s : State), s.hk.vinOn = true ∧ s.hk.tripped = false ∧ s.life.stage = 0 ∧ 2 ≤ s.life.rails ∧ s.sec.intent = none) ∧
    (∃ (s : State), s.hk.vinOn = true ∧ s.hk.tripped = false ∧ s.life.stage = 3 ∧ s.life.partState = psStarting ∧ 4 ≤ s.life.rails) ∧
    (∃ (s : State), s.hk.vinOn = true ∧ s.hk.tripped = false ∧ s.life.stage = 4 ∧ s.life.partState = psStarting ∧ 5 ≤ s.life.rails ∧ s.pot.retrain = []) ∧
    (∃ (s : State), s.hk.vinOn = true ∧ s.hk.tripped = false ∧ s.life.stage = 5 ∧ s.life.partState = psStarting ∧ s.life.rails = 7) ∧
    (∃ (s : State), s.hk.vinOn = true ∧ s.hk.tripped = false ∧ s.life.stage = 6 ∧ s.life.partState = psStarting ∧ calComplete s = true) ∧
    (∃ (s : State), s.hk.vinOn = true ∧ s.hk.tripped = false ∧ s.life.stage = 7 ∧ s.life.partState = psStarting ∧ s.fab.accepted = true) ∧
    (∃ (s : State), s.hk.vinOn = true ∧ s.hk.tripped = false ∧ s.life.stage = 8 ∧ s.life.partState = psStarting ∧ discoveryOver s = true) ∧
    (∃ (s : State), s.life.partState = psStarting ∧ 4 ≤ s.life.stage) ∧
    (∃ (s : State), s.life.partState = psStarting ∧ 4 ≤ s.life.stage) ∧
    (∃ (s : State), kettleRuns s = true) ∧
    (∃ (s : State), kettleRuns s = false) :=
  ⟨⟨cmd { part with life := { rails := 2, stage := 1, linkUp := true } } p1 0x0806 16 [(8, 8, 0x1000), (16, 4, 192)], p1, (fwMagic ++ leBytes 2 4 ++ zeros 10 ++ leBytes 4 0 ++ [0] ++ zeros 39 ++ zeros 128), ready_of (by decide), by decide, by decide, zeroAt_of (by decide), by decide, by decide⟩,
   ⟨cmd { part with life := { rails := 2, stage := 1, linkUp := true } } p1 0x0806 16 [(8, 8, 0x1000), (16, 4, 192)], p1, (fwMagic ++ leBytes 2 4 ++ zeros 10 ++ leBytes 4 0 ++ [0] ++ zeros 39 ++ zeros 128).set 0 0, 0, ready_of (by decide), by decide, by decide, zeroAt_of (by decide), by decide, by rfl⟩,
   ⟨cmd { part with life := { rails := 2, stage := 1, linkUp := true } } p1 0x0806 16 [(8, 8, 0x1000), (16, 4, 193)], p1, (fwMagic ++ leBytes 2 4 ++ zeros 10 ++ leBytes 4 0 ++ [0] ++ zeros 39 ++ zeros 128) ++ [0], 20, ready_of (by decide), by decide, by decide, zeroAt_of (by decide), by decide, by rfl⟩,
   ⟨cmd { part with life := { rails := 2, stage := 1, linkUp := true } } p1 0x0806 16 [(8, 8, 0x1000), (16, 4, 192)], p1, ((fwMagic ++ leBytes 2 4 ++ zeros 10 ++ leBytes 4 0 ++ [0] ++ zeros 39 ++ zeros 128)).set 191 1, 191, ready_of (by decide), by decide, by decide, zeroAt_of (by decide), by decide, by rfl⟩,
   ⟨{ part with life := { rails := 2, stage := 0 } }, by decide, by decide, by decide, by decide, by decide⟩,
   ⟨{ part with life := { rails := 4, stage := 3, partState := psStarting, fw := part.life.fw } }, by decide, by decide, by decide, by decide, by decide⟩,
   ⟨{ part with life := { rails := 5, stage := 4, partState := psStarting, fw := part.life.fw } }, by decide, by decide, by decide, by decide, by decide, by decide⟩,
   ⟨{ part with life := { rails := 7, stage := 5, partState := psStarting, fw := part.life.fw } }, by decide, by decide, by decide, by decide, by decide⟩,
   ⟨{ part with life := { rails := 7, stage := 6, partState := psStarting, fw := part.life.fw } }, by decide, by decide, by decide, by decide, calComplete_of (by decide)⟩,
   ⟨{ part with life := { rails := 7, stage := 7, partState := psStarting, fw := part.life.fw }, fab := { accepted := true } }, by decide, by decide, by decide, by decide, by decide⟩,
   ⟨{ part with life := { rails := 7, stage := 8, partState := psStarting, fw := part.life.fw } }, by decide, by decide, by decide, by decide, by decide⟩,
   ⟨{ part with life := { rails := 7, stage := 4, partState := psStarting, fw := part.life.fw } }, by decide, by decide⟩,
   ⟨{ part with life := { rails := 7, stage := 8, partState := psStarting, fw := part.life.fw } }, by decide, by decide⟩,
   ⟨part, by decide⟩,
   ⟨State.reset, by decide⟩⟩

theorem test_PartsAndCoresFail_meets :
    (∃ (s : State) (host : Bool) (cause : Nat), s.life.partState ≠ psFenced ∧ s.life.fw ≠ none ∧ s.insts = []) ∧
    (∃ (s : State) (host : Bool) (cause : Nat), s.life.partState ≠ psFenced ∧ s.life.fw ≠ none ∧ s.insts = []) ∧
    (∃ (s : State) (site : Nat), site < 800 ∧ s.life.partState ≠ psFenced ∧ s.life.fw ≠ none ∧ s.insts = []) ∧
    (∃ (s : State) (host : Bool) (cause : Nat) (slot : Nat) (i : Instance), s.life.partState ≠ psFenced ∧ s.life.fw ≠ none ∧ s.insts = [(slot, i)] ∧ exitHere s i = false ∧ i.waiting = []) ∧
    (∃ (s : State) (host : Bool) (cause : Nat), s.life.partState = psFenced) ∧
    (∃ (s : State) (site : Nat), site < 800 ∧ (coreAt s site).failed = false ∧ coreOff s site = false) ∧
    (∃ (s : State) (site : Nat), site < 800 ∧ ((coreAt s site).failed = true ∨ coreOff s site = true)) ∧
    (∃ (s : State) (site : Nat), site < 800 ∧ (coreAt s site).failed = true) ∧
    (∃ (s : State) (site : Nat), site < 800 ∧ (coreAt s site).failed = false) ∧
    (∃ (s : State) (row : Nat) (r : Rebuild), row < 32 ∧ s.rebuilds.find? (fun r => r.site / 25 == row && !r.settled) = some r) :=
  ⟨⟨port 2 4, true, 9, by decide, by decide, by decide⟩,
   ⟨port 2 4, false, 9, by decide, by decide, by decide⟩,
   ⟨port 2 4, 799, by decide, by decide, by decide, by decide⟩,
   ⟨hold { i7 with exit := 9, flight := [fl7] }, false, 9, 3, { i7 with exit := 9, flight := [fl7] }, by decide, by decide, by decide, by decide, by rfl⟩,
   ⟨{ part with life := { partState := psFenced } }, true, 3, by decide⟩,
   ⟨part, 799, by decide, by decide, by decide⟩,
   ⟨{ part with cores := [(5, { failed := true })] }, 5, by decide, Or.inl (by decide)⟩,
   ⟨{ part with cores := [(5, { failed := true })] }, 5, by decide, by decide⟩,
   ⟨part, 5, by decide, by decide⟩,
   ⟨{ part with cores := [(5, { failed := true })], rebuilds := [{ site := 5 }], tiles := [(tkey 5 0, { owner := some { slot := 3, layer := 0, block := 0, fp4 := false, outDim := 512 } })] }, 0, { site := 5 }, by decide, by rfl⟩⟩

theorem test_SelfTestRuns_meets :
    (∃ (s : State) (m : MbxId), Ready s m 0x0702 8 ∧ reqN s m 8 1 < 8 ∧ ZeroAt s m 9 1 ∧ (reqN s m 10 2 < 800 ∨ reqN s m 10 2 = 0xFFFF) ∧ ZeroAt s m 12 4 ∧ s.bist = none ∧ scopeUnits s (reqN s m 8 1) (reqN s m 10 2) ≠ []) ∧
    (∃ (s : State) (m : MbxId), Ready s m 0x0702 8 ∧ reqN s m 8 1 < 8 ∧ ZeroAt s m 9 1 ∧ (reqN s m 10 2 < 800 ∨ reqN s m 10 2 = 0xFFFF) ∧ ZeroAt s m 12 4 ∧ s.bist = none ∧ scopeUnits s (reqN s m 8 1) (reqN s m 10 2) ≠ []) ∧
    (∃ (s : State) (m : MbxId), Ready s m 0x0702 8 ∧ reqN s m 8 1 < 8 ∧ ZeroAt s m 9 1 ∧ (reqN s m 10 2 < 800 ∨ reqN s m 10 2 = 0xFFFF) ∧ ZeroAt s m 12 4 ∧ s.bist = none ∧ scopeUnits s (reqN s m 8 1) (reqN s m 10 2) = []) ∧
    (∃ (s : State) (b : Bist) (u : Nat), s.bist = some b ∧ (b.test = 1 ∨ b.test = 6) ∧ u ∉ b.covering ∧ nextUnit s b = some u) ∧
    (∃ (s : State) (b : Bist) (u : Nat) (v : Nat), s.bist = some b ∧ u ∉ b.covering ∧ nextUnit s b = some u ∧ v ∈ b.running) ∧
    (∃ (s : State) (b : Bist) (u : Nat) (v : Nat), s.bist = some b ∧ b.test = 6 ∧ u ∈ b.running ∧ v ∈ b.running ∧ v ≠ u) ∧
    (∃ (s : State) (b : Bist) (u : Nat) (v : Nat), s.bist = some b ∧ b.test = 6 ∧ u ∈ b.running ∧ v ∈ b.running ∧ v ≠ u) ∧
    (∃ (s : State) (b : Bist) (u : Nat) (v : Nat), s.bist = some b ∧ b.test = 6 ∧ u ∈ b.running ∧ v ∈ b.running ∧ v ≠ u) ∧
    (∃ (s : State) (u : Nat) (r : MbxRef), s.bist = some { test := 6, mbx := r, todo := [], running := [u] } ∧ (mbxAt s r.id).epoch = r.epoch) :=
  ⟨⟨cmd part p1 0x0702 8 [(8, 1, 0), (10, 2, 65535)], p1, ready_of (by decide), by decide, zeroAt_of (by decide), Or.inr (by decide), zeroAt_of (by decide), by decide, by decide⟩,
   ⟨cmd part p1 0x0702 8 [(8, 1, 3), (10, 2, 799)], p1, ready_of (by decide), by decide, zeroAt_of (by decide), Or.inl (by decide), zeroAt_of (by decide), by decide, by decide⟩,
   ⟨cmd part p1 0x0702 8 [(8, 1, 7), (10, 2, 5)], p1, ready_of (by decide), by decide, zeroAt_of (by decide), Or.inl (by decide), zeroAt_of (by decide), by decide, by decide⟩,
   ⟨{ part with bist := some { test := 6, mbx := r7, todo := [100, 200], running := [] } }, { test := 6, mbx := r7, todo := [100, 200], running := [] }, 100, by rfl, Or.inr rfl, by decide, by rfl⟩,
   ⟨{ part with bist := some { test := 6, mbx := r7, todo := [100, 200], running := [48] } }, { test := 6, mbx := r7, todo := [100, 200], running := [48] }, 100, 48, by rfl, by decide, by rfl, by decide⟩,
   ⟨{ part with bist := some { test := 6, mbx := r7, todo := [100, 200], running := [48, 96] } }, { test := 6, mbx := r7, todo := [100, 200], running := [48, 96] }, 96, 48, by rfl, by decide, by decide, by decide, by decide⟩,
   ⟨{ part with bist := some { test := 6, mbx := r7, todo := [100, 200], running := [48, 96] } }, { test := 6, mbx := r7, todo := [100, 200], running := [48, 96] }, 96, 48, by rfl, by decide, by decide, by decide, by decide⟩,
   ⟨{ part with bist := some { test := 6, mbx := r7, todo := [100, 200], running := [48, 96] } }, { test := 6, mbx := r7, todo := [100, 200], running := [48, 96] }, 96, 48, by rfl, by decide, by decide, by decide, by decide⟩,
   ⟨{ part with bist := some { test := 6, mbx := r7, todo := [], running := [48] } }, 48, r7, by rfl, by decide⟩⟩

theorem test_WorldsAreAssigned_meets :
    (∃ (s : State) (m : MbxId) (kind : Nat), Ready s m 0x0801 16 ∧ reqN s m 8 1 = kind ∧ 1 ≤ kind ∧ kind ≤ 3 ∧ reqN s m 9 1 ≤ 1 ∧ ZeroAt s m 10 2 ∧ reqN s m 12 4 < unitCount kind ∧ ¬(kind = 2 ∧ reqN s m 12 4 = 0 ∧ reqN s m 16 4 ≠ 0) ∧ reqN s m 12 4 + reqN s m 16 4 ≤ unitCount kind ∧ ZeroAt s m 20 4 ∧ unitHeld s kind (reqN s m 9 1 == 1) (reqN s m 12 4) (reqN s m 16 4) = false) ∧
    (∃ (s : State) (m : MbxId) (kind : Nat), Ready s m 0x0801 16 ∧ reqN s m 8 1 = kind ∧ 1 ≤ kind ∧ kind ≤ 3 ∧ reqN s m 9 1 ≤ 1 ∧ ZeroAt s m 10 2 ∧ reqN s m 12 4 < unitCount kind ∧ ¬(kind = 2 ∧ reqN s m 12 4 = 0 ∧ reqN s m 16 4 ≠ 0) ∧ reqN s m 12 4 + reqN s m 16 4 ≤ unitCount kind ∧ ZeroAt s m 20 4 ∧ unitHeld s kind (reqN s m 9 1 == 1) (reqN s m 12 4) (reqN s m 16 4) = false) ∧
    (∃ (s : State) (m : MbxId) (kind : Nat), Ready s m 0x0801 16 ∧ reqN s m 8 1 = kind ∧ 1 ≤ kind ∧ kind ≤ 3 ∧ reqN s m 9 1 ≤ 1 ∧ ZeroAt s m 10 2 ∧ reqN s m 12 4 < unitCount kind ∧ ¬(kind = 2 ∧ reqN s m 12 4 = 0 ∧ reqN s m 16 4 ≠ 0) ∧ reqN s m 12 4 + reqN s m 16 4 ≤ unitCount kind ∧ ZeroAt s m 20 4 ∧ unitHeld s kind (reqN s m 9 1 == 1) (reqN s m 12 4) (reqN s m 16 4) = false) ∧
    (∃ (s : State) (m : MbxId), Ready s m 0x0801 16 ∧ reqN s m 8 1 = 4 ∧ reqN s m 9 1 ≤ 1 ∧ ZeroAt s m 10 2 ∧ reqN s m 12 4 < 0x1000000 ∧ reqN s m 12 4 + reqN s m 16 4 ≤ 0x1000000 ∧ (newRanges s (reqN s m 9 1 == 1) (reqN s m 12 4) (reqN s m 16 4)).length ≤ 64 ∧ ZeroAt s m 20 4 ∧ streamHeld s (reqN s m 12 4) (reqN s m 16 4) = false) ∧
    (∃ (s : State) (m : MbxId), Ready s m 0x0801 16 ∧ reqN s m 8 1 = 4 ∧ reqN s m 9 1 ≤ 1 ∧ ZeroAt s m 10 2 ∧ reqN s m 12 4 < 0x1000000 ∧ reqN s m 12 4 + reqN s m 16 4 ≤ 0x1000000 ∧ (newRanges s (reqN s m 9 1 == 1) (reqN s m 12 4) (reqN s m 16 4)).length ≤ 64 ∧ ZeroAt s m 20 4 ∧ streamHeld s (reqN s m 12 4) (reqN s m 16 4) = false) ∧
    (∃ (s : State) (u : Nat) (no : Nat), s.sec.clearing.find? (fun c => c.1 == 2 && c.2.1 == u) = some (2, u, no)) ∧
    (∃ (s : State) (u : Nat) (no : Nat), u < 64 ∧ s.sec.clearing.find? (fun c => c.1 == 3 && c.2.1 == u) = some (3, u, no)) ∧
    (∃ (s : State) (u : Nat) (no : Nat), u < 800 ∧ s.sec.clearing.find? (fun c => c.1 == 1 && c.2.1 == u) = some (1, u, no) ∧ arraysCleared s u = true) :=
  ⟨⟨cmd part p1 0x0801 16 [(8, 1, 1), (9, 1, 1), (12, 4, 798), (16, 4, 2)], p1, 1, ready_of (by decide), by decide, by decide, by decide, by decide, zeroAt_of (by decide), by decide, by decide, by decide, zeroAt_of (by decide), by decide⟩,
   ⟨cmd { part with sec := { regions := [0, 1, 2] } } p1 0x0801 16 [(8, 1, 2), (9, 1, 0), (12, 4, 1), (16, 4, 3)], p1, 2, ready_of (by decide), by decide, by decide, by decide, by decide, zeroAt_of (by decide), by decide, by decide, by decide, zeroAt_of (by decide), by decide⟩,
   ⟨cmd { part with sec := { mbxs := [63] } } p1 0x0801 16 [(8, 1, 3), (9, 1, 0), (12, 4, 63), (16, 4, 1)], p1, 3, ready_of (by decide), by decide, by decide, by decide, by decide, zeroAt_of (by decide), by decide, by decide, by decide, zeroAt_of (by decide), by decide⟩,
   ⟨cmd { part with sec := { ranges := [(5, 10)] } } p1 0x0801 16 [(8, 1, 4), (9, 1, 1), (12, 4, 10), (16, 4, 20)], p1, ready_of (by decide), by decide, by decide, zeroAt_of (by decide), by decide, by decide, by decide, zeroAt_of (by decide), by decide⟩,
   ⟨cmd { part with sec := { ranges := [(0xFFFFF0, 16)] } } p1 0x0801 16 [(8, 1, 4), (9, 1, 0), (12, 4, 16777215), (16, 4, 1)], p1, ready_of (by decide), by decide, by decide, zeroAt_of (by decide), by decide, by decide, by decide, zeroAt_of (by decide), by decide⟩,
   ⟨{ part with stackMem := [(0x200000, 3), (0x1200000, 7)], sec := { clearing := [(2, 48, 4)] } }, 48, 4, by rfl⟩,
   ⟨{ part with sec := { clearing := [(3, 63, 4), (1, 3, 4)] } }, 63, 4, by decide, by rfl⟩,
   ⟨{ part with store := [(0x300000, 3), (0x400000, 7)], sec := { clearing := [(3, 63, 4), (1, 3, 4)] } }, 3, 4, by decide, by rfl, by decide⟩⟩

theorem test_KeysQuotesLocksAndLifeCycle_meets :
    (∃ (s : State) (m : MbxId), Ready s m 0x0802 72 ∧ reqN s m 8 1 ≤ 1 ∧ reqN s m 9 1 ≤ 15 ∧ ZeroAt s m 10 6 ∧ ZeroAt s m 73 7 ∧ mapFind s.sec.keys (keyIndex s m) = none) ∧
    (∃ (s : State) (m : MbxId), Ready s m 0x0803 8 ∧ reqN s m 8 1 ≤ 1 ∧ reqN s m 9 1 ≤ 15 ∧ ZeroAt s m 10 6 ∧ (∀ k, mapFind s.sec.keys (keyIndex s m) = some k → keyHolds s (keyDigest k) = false ∧ keyLoads s (keyDigest k) = false)) ∧
    (∃ (s : State) (m : MbxId), Ready s m 0x0804 32) ∧
    (∃ (s : State) (m : MbxId), Ready s m 0x0805 122 ∧ ZeroAt s m 9 7 ∧ lcAllowed s (reqN s m 8 1) = true ∧ (∀ e ∈ s.insts, e.2.placed = false)) ∧
    (∃ (s : State) (msg : Bytes), s.life.linkUp = true) ∧
    (∃ (s : State), s.life.lcState = 1) ∧
    (∃ (s : State), s.life.lcState ≠ 1) :=
  ⟨⟨cmd { part with sec := { keys := [(1, [1, 2])] } } p1 0x0802 72 [(8, 1, 1), (9, 1, 15), (16, 8, 0x1234)], p1, ready_of (by decide), by decide, by decide, zeroAt_of (by decide), zeroAt_of (by decide), by decide⟩,
   ⟨cmd { part with sec := { keys := [(1, [1, 2])] } } p1 0x0803 8 [(8, 1, 0), (9, 1, 1)], p1, ready_of (by decide), by decide, by decide, zeroAt_of (by decide), fun k _ => ⟨rfl, rfl⟩⟩,
   ⟨cmd part p1 0x0804 32 [(8, 8, 0x1234)], p1, ready_of (by decide)⟩,
   ⟨cmd { part with sec := { keys := [(16, [1, 2])] } } p1 0x0805 122 [(8, 1, 3)], p1, ready_of (by decide), zeroAt_of (by decide), by decide, by intro e h; simp [cmd, setMbx, part, State.reset] at h⟩,
   ⟨part, [1, 2, 3], by decide⟩,
   ⟨{ part with life := { lcState := 1 } }, by decide⟩,
   ⟨part, by decide⟩⟩

theorem test_SlicesAndPasses_meets :
    (∃ (s : State) (site : Nat) (head : Nat) (vec : Nat) (members : List Bytes) (o : Owner), site < 800 ∧ head < 16 ∧ sliceOwner s site head = some o ∧ isHead s site head = true ∧ chainInvalid s site head = false ∧ passStopped s o.slot = false ∧ vec = (tileAt s (tkey site head)).nextVec ∧ chainBusy s site head = false ∧ chainFull s site head = false ∧ fbState s site head ≠ 1) ∧
    (∃ (s : State) (site : Nat) (head : Nat) (vec : Nat) (members : List Bytes) (o : Owner), site < 800 ∧ head < 16 ∧ sliceOwner s site head = some o ∧ isHead s site head = true ∧ chainInvalid s site head = false ∧ passStopped s o.slot = false ∧ vec = (tileAt s (tkey site head)).nextVec ∧ chainBusy s site head = false ∧ chainFull s site head = false ∧ fbState s site head = 1) ∧
    (∃ (s : State) (site : Nat) (head : Nat) (vec : Nat) (members : List Bytes) (o : Owner), site < 800 ∧ head < 16 ∧ sliceOwner s site head = some o ∧ isHead s site head = true ∧ chainInvalid s site head = false ∧ passStopped s o.slot = false ∧ vec = (tileAt s (tkey site head)).nextVec + 1 ∧ chainBusy s site head = true ∧ chainFull s site head = false) ∧
    (∃ (s : State) (site : Nat) (head : Nat) (vec : Nat) (members : List Bytes) (o : Owner), site < 800 ∧ head < 16 ∧ sliceOwner s site head = some o ∧ isHead s site head = true ∧ chainInvalid s site head = false ∧ passStopped s o.slot = false ∧ (tileAt s (tkey site head)).nextVec + (if chainBusy s site head then 1 else 0) ≤ vec ∧ (vec ≠ (tileAt s (tkey site head)).nextVec + (if chainBusy s site head then 1 else 0) ∨ chainFull s site head = true)) ∧
    (∃ (s : State) (site : Nat) (head : Nat) (vec : Nat) (members : List Bytes) (o : Owner), site < 800 ∧ head < 16 ∧ sliceOwner s site head = some o ∧ isHead s site head = true ∧ chainInvalid s site head = false ∧ passStopped s o.slot = false ∧ (tileAt s (tkey site head)).nextVec + (if chainBusy s site head then 1 else 0) ≤ vec ∧ (vec ≠ (tileAt s (tkey site head)).nextVec + (if chainBusy s site head then 1 else 0) ∨ chainFull s site head = true)) ∧
    (∃ (s : State) (site : Nat) (head : Nat) (vec : Nat) (members : List Bytes) (o : Owner) (i : Instance) (n : W64), site < 800 ∧ head < 16 ∧ sliceOwner s site head = some o ∧ isHead s site head = true ∧ chainInvalid s site head = true ∧ passStopped s o.slot = false ∧ instOf s o.slot = some i ∧ i.passStep = some n) ∧
    (∃ (s : State) (site : Nat) (slot : Nat) (m : Nat) (o : Owner), tileWf site slot = true ∧ memberOf s (tkey site slot) = some m ∧ sliceOwner s (m / 32) (headOf s (m / 32) (m % 32)) = some o ∧ tileState s (tkey site slot) = 2 ∧ rdFA s (tileReg (tkey site slot) 0) 0 0 = 1 ∧ (workOf s m).latched = true ∧ (workOf s m).runDone = false ∧ fbState s (m / 32) (headOf s (m / 32) (m % 32)) ≠ 1) ∧
    (∃ (s : State) (site : Nat) (slot : Nat) (m : Nat) (o : Owner), tileWf site slot = true ∧ memberOf s (tkey site slot) = some m ∧ sliceOwner s (m / 32) (headOf s (m / 32) (m % 32)) = some o ∧ tileState s (tkey site slot) = 2 ∧ rdFA s (tileReg (tkey site slot) 0) 0 0 = 1 ∧ (workOf s m).runDone = true ∧ (tileAt s m).next.latched = true ∧ (tileAt s m).next.runDone = false ∧ fbState s (m / 32) (headOf s (m / 32) (m % 32)) ≠ 1) ∧
    (∃ (s : State) (site : Nat) (slot : Nat), tileWf site slot = true ∧ (tileState s (tkey site slot) ≠ 2 ∨ rdFA s (tileReg (tkey site slot) 0) 0 0 ≠ 1 ∨ ∃ m, memberOf s (tkey site slot) = some m ∧ (workOf s m).latched = false ∧ (tileAt s m).next.latched = false)) ∧
    (∃ (s : State) (site : Nat) (slot : Nat), tileWf site slot = true ∧ (tileState s (tkey site slot) ≠ 2 ∨ rdFA s (tileReg (tkey site slot) 0) 0 0 ≠ 1 ∨ ∃ m, memberOf s (tkey site slot) = some m ∧ (workOf s m).latched = false ∧ (tileAt s m).next.latched = false)) :=
  ⟨⟨srv (til {  } (i := ip) (s := part)), 0, 0, 0, xin, own, by decide, by decide, by rfl, by decide, by decide, by decide, by decide, by decide, by decide, by decide⟩,
   ⟨srv (til {  } (i := ip) (s := (wrF part (sfbSlotReg 0 0 8) 1 0 1))), 0, 0, 0, xin, own, by decide, by decide, by rfl, by decide, by decide, by decide, by decide, by decide, by decide, by decide⟩,
   ⟨srv (til { work := { latched := true, runDone := true } } (i := ip) (s := part)), 0, 0, 1, xin, own, by decide, by decide, by rfl, by decide, by decide, by decide, by decide, by decide, by decide⟩,
   ⟨(til {  } (i := ip) (s := part)), 0, 0, 1, xin, own, by decide, by decide, by rfl, by decide, by decide, by decide, by decide, Or.inl (by decide)⟩,
   ⟨srv (til { work := { latched := true }, next := { latched := true } } (i := ip) (s := part)), 0, 0, 1, xin, own, by decide, by decide, by rfl, by decide, by decide, by decide, by decide, Or.inr (by decide)⟩,
   ⟨wrF (til {  } (i := ip) (s := part)) (tileReg (tkey 0 0) 4) 6 4 1, 0, 0, 0, xin, own, ip, 4, by decide, by decide, by rfl, by decide, by decide, by decide, by rfl, by rfl⟩,
   ⟨srv (til { work := { latched := true, planes := [1, 2, 8] } } (i := ip) (s := part)), 0, 0, tkey 0 0, own, by decide, by rfl, by rfl, by decide, by decide, by decide, by decide, by decide⟩,
   ⟨srv (til { work := { latched := true, runDone := true }, next := { latched := true, planes := [1, 2, 8], vec := 1 } } (i := ip) (s := part)), 0, 0, tkey 0 0, own, by decide, by rfl, by rfl, by decide, by decide, by decide, by decide, by decide, by decide⟩,
   ⟨part, 799, 15, by decide, Or.inl (by decide)⟩,
   ⟨srv (til {  } (i := ip) (s := part)), 0, 0, by decide, Or.inr (Or.inr ⟨tkey 0 0, by decide⟩)⟩⟩

theorem test_ColumnsClose_meets :
    (∃ (s : State) (site : Nat) (head : Nat), site < 800 ∧ head < 16 ∧ isHead s site head = true ∧ (workOf s (tkey site head)).promoted = true ∧ (∀ n ∈ chainMembers s site head, (workOf s (tkey site n)).sieveDue = false ∧ (workOf s (tkey site n)).deltaDue = false)) ∧
    (∃ (s : State) (site : Nat) (head : Nat), site < 800 ∧ head < 16 ∧ ((workOf s (tkey site head)).promoted = false ∨ ∃ n ∈ chainMembers s site head, (workOf s (tkey site n)).sieveDue = true)) ∧
    (∃ (s : State) (site : Nat) (head : Nat), site < 800 ∧ head < 16 ∧ ((workOf s (tkey site head)).promoted = false ∨ ∃ n ∈ chainMembers s site head, (workOf s (tkey site n)).sieveDue = true)) :=
  ⟨⟨(til { work := { promoted := true, runDone := true, latched := true }, wide := [5, -7], next := { latched := true, vec := 1 } } (i := ip) (s := part)), 0, 0, by decide, by decide, by decide, by decide, by decide⟩,
   ⟨(til { work := { runDone := true } } (i := ip) (s := part)), 0, 0, by decide, by decide, Or.inl (by decide)⟩,
   ⟨(til { work := { promoted := true, sieveDue := true } } (i := ip) (s := part)), 0, 0, by decide, by decide, Or.inr ⟨0, by decide, by decide⟩⟩⟩

theorem test_PromotionAddsTheRun_meets :
    (∃ (s : State) (site : Nat) (head : Nat), site < 800 ∧ head < 16 ∧ promotable s site head = true ∧ chainInvalid s site head = false) ∧
    (∃ (s : State) (site : Nat) (head : Nat), site < 800 ∧ head < 16 ∧ promotable s site head = true ∧ chainInvalid s site head = false) ∧
    (∃ (s : State) (site : Nat) (head : Nat), site < 800 ∧ head < 16 ∧ promotable s site head = true ∧ chainInvalid s site head = false) :=
  ⟨⟨(til { work := { runDone := true, run := [15420, -3], shift := 14 }, wide := [2147483647] } (i := ip) (s := part)), 0, 0, by decide, by decide, by decide, by decide⟩,
   ⟨(til { work := { runDone := true, run := [-15420, -3], shift := 14 }, wide := [-2147483648] } (i := ip) (s := part)), 0, 0, by decide, by decide, by decide, by decide⟩,
   ⟨(til { work := { runDone := true, run := [7, -3], shift := 14 }, wide := [9] } (i := ip) (s := part)), 0, 0, by decide, by decide, by decide, by decide⟩⟩

theorem test_AddBackFollowsPromotion_meets :
    (∃ (s : State) (site : Nat) (head : Nat) (o : Owner), site < 800 ∧ head < 16 ∧ sliceOwner s site head = some o ∧ sieveReady s site head = true ∧ StoreSound s site) ∧
    (∃ (s : State) (site : Nat) (head : Nat), site < 800 ∧ head < 16 ∧ (∀ c ∈ s.cores, c.2.ueFatal = false) ∧ (workOf s (tkey site head)).promoted = false) ∧
    (∃ (s : State) (site : Nat) (head : Nat), site < 800 ∧ head < 16 ∧ (∃ n ∈ chainMembers s site head, (workOf s (tkey site n)).sieveDue = true)) ∧
    (∃ (s : State) (site : Nat) (head : Nat), site < 800 ∧ head < 16 ∧ (workOf s (tkey site head)).promoted = true) :=
  ⟨⟨(til { work := { promoted := true, sieveDue := true, removed := [(0, 6), (3, -2)] }, shadow := [(0, 5), (1536, -7)], wide := [2147483600] } (i := ip) (s := part)), 0, 0, own, by decide, by decide, by rfl, by decide, storeSound_of (by decide)⟩,
   ⟨part, 0, 15, by decide, by decide, by decide, by decide⟩,
   ⟨(til { work := { promoted := true, sieveDue := true } } (i := ip) (s := part)), 0, 0, by decide, by decide, ⟨0, by decide, by decide⟩⟩,
   ⟨(til { work := { promoted := true } } (i := ip) (s := part)), 0, 0, by decide, by decide, by decide⟩⟩

theorem test_OtherTermsAreAdded_meets :
    (∃ (s : State) (site : Nat) (slot : Nat) (row : Nat), tileWf site slot = true ∧ row ∈ (workOf s (tkey site slot)).rowsDue) ∧
    (∃ (s : State) (site : Nat) (slot : Nat) (row : Nat), tileWf site slot = true ∧ row ∈ (workOf s (tkey site slot)).rowsDue) ∧
    (∃ (s : State) (site : Nat) (slot : Nat) (row : Nat), tileWf site slot = true ∧ row ∉ (workOf s (tkey site slot)).rowsDue) ∧
    (∃ (s : State) (site : Nat) (head : Nat) (o : Owner), site < 800 ∧ head < 16 ∧ sliceOwner s site head = some o ∧ fallbackReady s site head = true ∧ StoreSound s site) ∧
    (∃ (s : State) (site : Nat) (head : Nat) (o : Owner) (b : DeltaBlock), site < 800 ∧ head < 16 ∧ deltaReady s site head = true ∧ higherReady s site 4 = false ∧ sliceOwner s site head = some o ∧ activeDelta s site o (workOf s (tkey site head)).vec = some b ∧ objLost s (activeVersion s o (workOf s (tkey site head)).vec) = false ∧ StoreSound s site) ∧
    (∃ (s : State) (site : Nat) (head : Nat) (members : List Bytes) (o : Owner), site < 800 ∧ head < 16 ∧ sliceOwner s site head = some o ∧ passStopped s o.slot = false ∧ standinReady s site head = true ∧ objLost s (activeVersion s o (tileAt s (tkey site head)).nextVec) = false ∧ (∀ c ∈ s.cores, c.2.ueFatal = false) ∧ (∀ n ∈ standinMembers s site head, ∀ c, standinOf s site n = some c → StoreSound s c)) :=
  ⟨⟨(til { work := { rowsDue := [4, 9] } } (i := ip) (s := (wrF part (engReg 0 0) 2 2 1))), 0, 0, 4, by decide, by decide⟩,
   ⟨(til { work := { rowsDue := [4, 9] } } (i := ip) (s := (wrF part (engReg 0 0) 2 2 0))), 0, 0, 4, by decide, by decide⟩,
   ⟨part, 799, 15, 4, by decide, by decide⟩,
   ⟨(til { work := { fbReady := true, s8 := 3, x8 := [1, 2, -128] }, shadow := [(0, 5), (512, -7)], wide := [2147483647] } (i := ip) (s := part)), 0, 0, own, by decide, by decide, by rfl, by decide, storeSound_of (by decide)⟩,
   ⟨(til { work := { promoted := true, deltaDue := true, xd := [1, 2, 3], s8d := 2 }, wide := [0, 0, 0, 2147483640] } (i := ({ ip with vers := [(9, { gen := 1, refs := 1, blocks := [{ site := 0, layer := 0, dexp := 4, entries := [{ row := 2, col := 3, slot := 0, val := 5 }] }] })], flight := [{ msg := { f7 with seqs := [{ q7 with version := 9 }] } }] })) (s := (wrF part (engReg 0 0) 1 1 1))), 0, 0, own, { site := 0, layer := 0, dexp := 4, entries := [{ row := 2, col := 3, slot := 0, val := 5 }] }, by decide, by decide, by decide, by decide, by rfl, by rfl, by decide, storeSound_of (by decide)⟩,
   ⟨{ (til { standin := some 26, shadow := [(0, 5)] } (i := ip) (s := part)) with cores := [(0, { failed := true, blocksIn := true }), (26, { blocks := [(tkey 0 0, 0)] })] }, 0, 0, xin, own, by decide, by decide, by rfl, by decide, by decide, by decide, by decide, fun n hn c hc => storeSound_of (by revert n c; decide)⟩⟩

theorem test_BoundariesAndWindows_meets :
    (∃ (s : State) (slot : Nat) (step : W64) (i : Instance), slot < 64 ∧ instOf s slot = some i ∧ chainsIdle s slot = true) ∧
    (∃ (s : State) (slot : Nat) (step : W64), slot < 64 ∧ chainsIdle s slot = false) ∧
    (∃ (s : State), s.rackTime.toNat % msCycles = 0 ∧ s.fbWinAt ≠ some s.rackTime ∧ (∀ a ∈ placedSites s, ∀ b ∈ placedSites s, a % 800 = b % 800 → a = b)) ∧
    (∃ (s : State), (s.rackTime.toNat % msCycles ≠ 0 ∨ s.fbWinAt = some s.rackTime)) ∧
    (∃ (s : State), (s.rackTime.toNat % msCycles ≠ 0 ∨ s.fbWinAt = some s.rackTime)) :=
  ⟨⟨(til {  } (i := { ip with passStep := none }) (s := part)), 3, 4, { ip with passStep := none }, by decide, by rfl, by decide⟩,
   ⟨(til { work := { latched := true } } (i := ip) (s := part)), 3, 4, by decide, by decide⟩,
   ⟨{ wbit (til {  } (i := ip) (s := part)) (sfbReg 0 0) 3 true with rackTime := 156250, cores := [(0, { winCount := [(0, 70000)] })] }, by decide, by decide, by decide⟩,
   ⟨{ part with rackTime := 7 }, Or.inl (by decide)⟩,
   ⟨{ part with rackTime := 156250, fbWinAt := some 156250 }, Or.inr (by decide)⟩⟩

theorem test_EngineItems_meets :
    (∃ (s : State) (site : Nat) (slot : Nat) (it : EngineItem), MayStart s site slot it ∧ (∀ mx src d dst, it ≠ .cacheRow mx src d dst) ∧ (readsAll (objRead site slot (itemFar it)) (itemRows it) s).1.isSome = true ∧ StoreSound s site) ∧
    (∃ (s : State) (site : Nat) (slot : Nat) (pos : Nat) (dst : Nat) (freq : W32), MayStart s site slot (.rope pos freq dst) ∧ StoreSound s site) ∧
    (∃ (s : State) (site : Nat) (slot : Nat) (a : Nat) (b : Nat) (acc : Nat) (n : Nat) (scale : Nat), MayStart s site slot (.mac .i8 a b acc n scale) ∧ n ≤ 32 ∧ StoreSound s site) ∧
    (∃ (s : State) (site : Nat) (slot : Nat) (src : Nat) (d : Nat) (mx : Bool) (dst : ObjPlace) (p : Page), MayStart s site slot (.cacheRow mx src d dst) ∧ reqRoom s = true ∧ StoreSound s site ∧ objClass dst.handle = 1 ∧ instPage s slot dst.handle dst.off = some p ∧ p.remote = none ∧ p.shared = false ∧ p.frame < frameCount ∧ dst.off % frameBytes + rowLen mx d ≤ frameBytes ∧ accessCode s .inside (siteSecure s site) (stackGma 0 p.frame (dst.off % frameBytes)) 1 = none ∧ memWf s.stackMem = true) ∧
    (∃ (s : State) (site : Nat) (slot : Nat) (it : EngineItem) (us : List (Nat × Nat)) (w : Nat), MayStart s site slot it ∧ (∀ mx src d dst, it ≠ .cacheRow mx src d dst) ∧ (∃ r ∈ itemReads it, r.1 < 8 * w + 8 ∧ 8 * w < r.1 + r.2) ∧ mapGet 0 (addUpsets s site us).storeBad (storeAddr site (8 * w) / 8) = 2) :=
  ⟨⟨{ part with cores := [(3, { programs := [(3, 3, 0)] })] }, 3, 3, .vec .add 0xFFFFC 0xB8000 0xC0000 0xB8000 1, mayStart_of (by decide), (by intro a b c d h; cases h), by decide, storeSound_of (by decide)⟩,
   ⟨{ part with cores := [(3, { programs := [(3, 3, 0)] })] }, 3, 3, 5, 0xFFFF4, 0x40000001, mayStart_of (by decide), storeSound_of (by decide)⟩,
   ⟨{ part with cores := [(3, { programs := [(3, 3, 0)] })], store := [(0x3B8000, 0x80), (0x3B8001, 3), (0x3B8040, 0x7F), (0x3B8041, 0xFF)] }, 3, 3, 0xB8000, 0xB8040, 0xB8080, 2, 0xB80C0, mayStart_of (by decide), by decide, storeSound_of (by decide)⟩,
   ⟨{ up1 with cores := [(3, { programs := [(3, 3, 0)] })], pot := { used := [25], objs := [(0x10000005, { inst := 3, secure := false, pages := [{ frame := 25 }] })] } }, 3, 3, 0xB8000, 32, false, { handle := 0x10000005, off := 64 }, { frame := 25 }, mayStart_of (by decide), by decide, storeSound_of (by decide), by decide, by rfl, by decide, by decide, by decide, by decide, by decide, by decide⟩,
   ⟨{ hold ip with cores := [(3, { programs := [(3, 3, 0)] })], storeBad := [(0x77000, 2)] }, 3, 3, .mac .i8 0xB8000 0xB8040 0xB8080 2 0xB80C0, [], 0x17000, mayStart_of (by decide), (by intro a b c d h; cases h), ⟨(0xB8000, 2), by decide, by decide, by decide⟩, by decide⟩⟩

theorem test_RoundsAndScrubbing_meets :
    (∃ (s : State) (site : Nat), site < 800 ∧ (coreAt s site).failed = false) ∧
    (∃ (s : State) (site : Nat), site < 800 ∧ (coreAt s site).failed = true) ∧
    (∃ (s : State) (site : Nat) (us : List (Nat × Nat)), site < 800 ∧ rdF s (engReg site 0x3C) 7 0 ≠ 0 ∧ coreAway s site = false ∧ (∀ c ∈ s.cores, c.2.ueFatal = false) ∧ (∀ w, w < 0x20000 → mapGet 0 (addUpsets s site us).storeBad (site * 0x20000 + w) < 2) ∧ (rd s (engReg site 0x30)).toNat ≤ 0xFFFF ∧ (s.storeBad.map Prod.fst).Pairwise (· < ·)) ∧
    (∃ (s : State) (site : Nat) (us : List (Nat × Nat)), site < 800 ∧ rdF s (engReg site 0x3C) 7 0 ≠ 0 ∧ coreAway s site = false) ∧
    (∃ (s : State) (site : Nat) (us : List (Nat × Nat)), site < 800 ∧ (rdF s (engReg site 0x3C) 7 0 = 0 ∨ coreAway s site = true) ∧ (∀ c ∈ s.cores, c.2.ueFatal = false)) :=
  ⟨⟨part, 799, by decide, by decide⟩,
   ⟨{ part with cores := [(5, { failed := true })] }, 5, by decide, by decide⟩,
   ⟨wrF { part with storeBad := [(0x60000, 1), (0x64000, 1)] } (engReg 3 0x3C) 7 0 1, 3, [], by decide, by decide, by decide, by decide, sound_words (by decide), by decide, by decide⟩,
   ⟨wrF { part with storeBad := [(0x60000, 1), (0x64000, 2), (0x7FFFF, 2)] } (engReg 3 0x3C) 7 0 1, 3, [], by decide, by decide, by decide⟩,
   ⟨wrF part (engReg 3 0x3C) 7 0 0, 3, [(7, 1)], by decide, Or.inl (by decide), by decide⟩⟩

theorem test_SpoonRunsReportsAndRings_meets :
    (∃ (s : State) (m : MbxId), Ready s m 0x0501 16 ∧ reqN s m 8 2 < 800 ∧ tileWf (reqN s m 8 2) (reqN s m 10 1) = true ∧ ZeroAt s m 11 5 ∧ tileGone s (tkey (reqN s m 8 2) (reqN s m 10 1)) = false ∧ runPending s (tkey (reqN s m 8 2) (reqN s m 10 1)) = false ∧ ringEntries s ≠ 0 ∧ testWeights s (tkey (reqN s m 8 2) (reqN s m 10 1)) = true ∧ (drivesTest s (tkey (reqN s m 8 2) (reqN s m 10 1)) = false ∨ (coreAt s (spoonSite s (tkey (reqN s m 8 2) (reqN s m 10 1)))).capture.isSome = true)) ∧
    (∃ (s : State) (m : MbxId), Ready s m 0x0501 16 ∧ reqN s m 8 2 < 800 ∧ tileWf (reqN s m 8 2) (reqN s m 10 1) = true ∧ ZeroAt s m 11 5 ∧ tileGone s (tkey (reqN s m 8 2) (reqN s m 10 1)) = false ∧ runPending s (tkey (reqN s m 8 2) (reqN s m 10 1)) = false ∧ ringEntries s ≠ 0 ∧ testWeights s (tkey (reqN s m 8 2) (reqN s m 10 1)) = true ∧ (drivesTest s (tkey (reqN s m 8 2) (reqN s m 10 1)) = false ∨ (coreAt s (spoonSite s (tkey (reqN s m 8 2) (reqN s m 10 1)))).capture.isSome = true)) ∧
    (∃ (s : State) (m : MbxId), Ready s m 0x0501 16 ∧ reqN s m 8 2 < 800 ∧ tileWf (reqN s m 8 2) (reqN s m 10 1) = true ∧ ZeroAt s m 11 5 ∧ tileGone s (tkey (reqN s m 8 2) (reqN s m 10 1)) = false ∧ runPending s (tkey (reqN s m 8 2) (reqN s m 10 1)) = false ∧ ringEntries s ≠ 0 ∧ testWeights s (tkey (reqN s m 8 2) (reqN s m 10 1)) = true ∧ drivesTest s (tkey (reqN s m 8 2) (reqN s m 10 1)) = true ∧ (coreAt s (spoonSite s (tkey (reqN s m 8 2) (reqN s m 10 1)))).capture = none) ∧
    (∃ (s : State) (site : Nat) (c : Capture), site < 800 ∧ (coreAt s site).capture = some c ∧ 10 * msCycles ≤ elapsed s c.time ∧ c.onDemand = none ∧ NoRunWaits s) ∧
    (∃ (s : State) (site : Nat) (c : Capture), site < 800 ∧ (coreAt s site).capture = some c ∧ 10 * msCycles ≤ elapsed s c.time ∧ c.onDemand.isSome = true) ∧
    (∃ (s : State) (site : Nat) (c : Capture), site < 800 ∧ (coreAt s site).capture = some c ∧ elapsed s c.time < 10 * msCycles) ∧
    (∃ (s : State) (site : Nat) (c : Capture), site < 800 ∧ (coreAt s site).capture = some c ∧ c.closed = true ∧ higherReady s site 6 = false ∧ StoreSound s site) ∧
    (∃ (s : State) (site : Nat) (k : Nat) (c : Capture), site < 800 ∧ (coreAt s site).capture = some c ∧ c.closed = true ∧ c.phys = [k] ∧ higherReady s site 6 = false ∧ StoreSound s site ∧ ringEntries s ≠ 0 ∧ (ringHead s + 1) % ringEntries s ≠ ringTail s % ringEntries s) ∧
    (∃ (s : State) (site : Nat) (k : Nat) (c : Capture), site < 800 ∧ (coreAt s site).capture = some c ∧ c.closed = true ∧ c.phys = [k] ∧ higherReady s site 6 = false ∧ StoreSound s site ∧ (ringEntries s = 0 ∨ (ringHead s + 1) % ringEntries s = ringTail s % ringEntries s)) ∧
    (∃ (s : State) (site : Nat) (k : Nat) (c : Capture), site < 800 ∧ (coreAt s site).capture = some c ∧ c.closed = true ∧ c.phys = [k] ∧ higherReady s site 6 = false ∧ StoreSound s site ∧ (ringEntries s = 0 ∨ (ringHead s + 1) % ringEntries s = ringTail s % ringEntries s)) ∧
    (∃ (s : State) (m : MbxId), Ready s m 0x0502 16 ∧ 1 ≤ reqN s m 8 2 ∧ reqN s m 8 2 ≤ 1024 ∧ ZeroAt s m 10 6 ∧ reqN s m 16 8 % 4096 = 0) ∧
    (∃ (s : State) (m : MbxId), Ready s m 0x0502 16 ∧ 1 ≤ reqN s m 8 2 ∧ reqN s m 8 2 ≤ 1024 ∧ ZeroAt s m 10 6 ∧ reqN s m 16 8 % 4096 = 0) ∧
    (∃ (s : State) (v : W32), ringSizeOk (fld v 15 0) = false) ∧
    (∃ (s : State) (v : W32), fld v 15 0 = 0) ∧
    (∃ (s : State) (u : State) (v : W32) (h : Nat), ringSizeOk (fld v 15 0) = true ∧ fld v 15 0 ≠ 0 ∧ newObjPages (freeObjOpt { s with ringH := none } s.ringH) 6 64 true true (ceilDiv (fld v 15 0) 512) = some (h, u)) ∧
    (∃ (s : State) (v : W32), ringSizeOk (fld v 15 0) = true ∧ fld v 15 0 ≠ 0 ∧ newObjPages (freeObjOpt { s with ringH := none } s.ringH) 6 64 true true (ceilDiv (fld v 15 0) 512) = none) ∧
    (∃ (s : State) (m : MbxId) (r : ResidualRec) (rs : List ResidualRec), Ready s m 0x0503 16 ∧ 1 ≤ reqN s m 12 2 ∧ reqN s m 12 2 ≤ 4096 ∧ ZeroAt s m 14 2 ∧ reqN s m 16 8 % 32 = 0 ∧ mbxSecure s m = true ∧ (s.resids.filter (fun x => reqN s m 8 4 ≤ x.seq.toNat)).take (reqN s m 12 2) = r :: rs) :=
  ⟨⟨cmd (setTileState { (wr (wr (wr part (spoonReg 0x28) 4) (spoonReg 0x2C) 0) (spoonReg 0x30) 0) with tiles := [(tkey 5 12, { zeroed := true })], cores := [] } (tkey 5 12) 2) p1 0x0501 16 [(8, 2, 5), (10, 1, 12), (16, 8, 77)], p1, ready_of (by decide), by decide, by decide, zeroAt_of (by decide), by decide, by decide, by decide, by decide, Or.inl (by decide)⟩,
   ⟨cmd (setTileState { (wr (wr (wr part (spoonReg 0x28) 4) (spoonReg 0x2C) 0) (spoonReg 0x30) 0) with tiles := [(tkey 5 12, { zeroed := true })], cores := [(5, { capture := some cap })] } (tkey 5 12) 1) p1 0x0501 16 [(8, 2, 5), (10, 1, 12), (16, 8, 77)], p1, ready_of (by decide), by decide, by decide, zeroAt_of (by decide), by decide, by decide, by decide, by decide, Or.inr (by decide)⟩,
   ⟨cmd (setTileState { (wr (wr (wr part (spoonReg 0x28) 4) (spoonReg 0x2C) 0) (spoonReg 0x30) 0) with tiles := [(tkey 5 12, { zeroed := true })], cores := [] } (tkey 5 12) 1) p1 0x0501 16 [(8, 2, 5), (10, 1, 12), (16, 8, 77)], p1, ready_of (by decide), by decide, by decide, zeroAt_of (by decide), by decide, by decide, by decide, by decide, by decide, by decide⟩,
   ⟨{ { part with rackTime := 0xFFFFFFFFFF } with cores := [(5, { capture := some (cap) })] }, 5, cap, by decide, by rfl, by decide, by decide, noRunWaits_of (by decide)⟩,
   ⟨{ { part with rackTime := 0xFFFFFFFFFF } with cores := [(5, { capture := some ({ cap with onDemand := some { mbx := r7, tile := tkey 5 0, seed := 3 } }) })] }, 5, { cap with onDemand := some { mbx := r7, tile := tkey 5 0, seed := 3 } }, by decide, by rfl, by decide, by decide⟩,
   ⟨{ part with cores := [(5, { capture := some (cap) })] }, 5, cap, by decide, by rfl, by decide⟩,
   ⟨{ part with cores := [(5, { capture := some (cap) })] }, 5, cap, by decide, by rfl, by decide, by decide, storeSound_of (by decide)⟩,
   ⟨{ (wr (wr (wr { part with ringH := some 0x60000001, pot := { objs := [(0x60000001, { inst := 64, secure := true, pages := [{ frame := 30, pinned := true }] })], used := [30] } } (spoonReg 0x28) 4) (spoonReg 0x2C) 3) (spoonReg 0x30) 2) with cores := [(5, { capture := some (cap) })] }, 5, tkey 5 0, cap, by decide, by rfl, by decide, by decide, by decide, storeSound_of (by decide), by decide, by decide⟩,
   ⟨{ (wr (wr (wr { part with ringH := some 0x60000001, pot := { objs := [(0x60000001, { inst := 64, secure := true, pages := [{ frame := 30, pinned := true }] })], used := [30] } } (spoonReg 0x28) 4) (spoonReg 0x2C) 3) (spoonReg 0x30) 0) with cores := [(5, { capture := some (cap) })] }, 5, tkey 5 0, cap, by decide, by rfl, by decide, by decide, by decide, storeSound_of (by decide), by decide⟩,
   ⟨{ part with cores := [(5, { capture := some (cap) })] }, 5, tkey 5 0, cap, by decide, by rfl, by decide, by decide, by decide, storeSound_of (by decide), by decide⟩,
   ⟨cmd (wr (wr (wr { part with ringH := some 0x60000001, pot := { objs := [(0x60000001, { inst := 64, secure := true, pages := [{ frame := 30, pinned := true }] })], used := [30] }, stackMem := [(62926848, 9), (62914560, 8)].reverse } (spoonReg 0x28) 4) (spoonReg 0x2C) 1) (spoonReg 0x30) 3) p1 0x0502 16 [(8, 2, 3), (16, 8, 0x10000)], p1, ready_of (by decide), by decide, by decide, zeroAt_of (by decide), by decide⟩,
   ⟨cmd part p1 0x0502 16 [(8, 2, 3), (16, 8, 0x10000)], p1, ready_of (by decide), by decide, by decide, zeroAt_of (by decide), by decide⟩,
   ⟨part, 3, by decide⟩,
   ⟨(wr (wr (wr { part with ringH := some 0x60000001, pot := { objs := [(0x60000001, { inst := 64, secure := true, pages := [{ frame := 30, pinned := true }] })], used := [29, 30] } } (spoonReg 0x28) 4) (spoonReg 0x2C) 1) (spoonReg 0x30) 3), 0x10000, by decide⟩,
   by obtain ⟨h, u, e⟩ := @newObjPages_some { up1s with ringH := none } 6 64 1 true true (by decide) (by decide); exact ⟨up1s, u, 512, h, by decide, by decide, e⟩,
   ⟨part, 512, by decide, by decide, @newObjPages_none6 { part with ringH := none } rfl (by decide)⟩,
   ⟨cmd { part with resids := [res7, { res7 with seq := 10 }] } p1 0x0503 16 [(8, 4, 10), (12, 2, 4096), (16, 8, 0x20000)], p1, { res7 with seq := 10 }, [], ready_of (by decide), by decide, by decide, zeroAt_of (by decide), by decide, by decide, by decide⟩⟩

theorem test_CalibrationRuns_meets :
    (∃ (s : State) (m : MbxId), Ready s m 0x0504 8 ∧ reqN s m 8 2 < 800 ∧ tileWf (reqN s m 8 2) (reqN s m 10 1) = true ∧ (reqN s m 11 1 = 1 ∨ reqN s m 11 1 = 2) ∧ ZeroAt s m 12 4 ∧ tileGone s (tkey (reqN s m 8 2) (reqN s m 10 1)) = false ∧ (reqN s m 11 1 = 1 ∨ shadowThere s (tkey (reqN s m 8 2) (reqN s m 10 1)) = true)) ∧
    (∃ (s : State) (m : MbxId), Ready s m 0x0504 8 ∧ reqN s m 8 2 < 800 ∧ tileWf (reqN s m 8 2) (reqN s m 10 1) = true ∧ (reqN s m 11 1 = 1 ∨ reqN s m 11 1 = 2) ∧ ZeroAt s m 12 4 ∧ tileGone s (tkey (reqN s m 8 2) (reqN s m 10 1)) = false ∧ (reqN s m 11 1 = 1 ∨ shadowThere s (tkey (reqN s m 8 2) (reqN s m 10 1)) = true)) ∧
    (∃ (s : State) (m : MbxId), Ready s m 0x0504 8 ∧ reqN s m 8 2 < 800 ∧ tileWf (reqN s m 8 2) (reqN s m 10 1) = true ∧ (reqN s m 11 1 = 1 ∨ reqN s m 11 1 = 2) ∧ ZeroAt s m 12 4 ∧ tileGone s (tkey (reqN s m 8 2) (reqN s m 10 1)) = false ∧ (reqN s m 11 1 = 1 ∨ shadowThere s (tkey (reqN s m 8 2) (reqN s m 10 1)) = true)) ∧
    (∃ (s : State) (site : Nat) (slot : Nat), tileWf site slot = true ∧ initialCal s (tkey site slot) = false ∧ startable s (tkey site slot) = true ∧ calRunning s < Nat.max 1 (rdF s (calReg 4) 7 0) ∧ calFirstOf s (tkey site slot) = true ∧ tileState s (tkey site slot) = 1) ∧
    (∃ (s : State) (site : Nat) (slot : Nat) (m : Nat) (o : Owner), tileWf site slot = true ∧ initialCal s (tkey site slot) = false ∧ startable s (tkey site slot) = true ∧ calRunning s < Nat.max 1 (rdF s (calReg 4) 7 0) ∧ calFirstOf s (tkey site slot) = true ∧ tileState s (tkey site slot) = 2 ∧ memberOf s (tkey site slot) = some m ∧ (tileAt s m).owner = some o ∧ fbState s (m / 32) (headOf s (m / 32) (m % 32)) = 1) ∧
    (∃ (s : State) (site : Nat) (slot : Nat), tileWf site slot = true ∧ initialCal s (tkey site slot) = false ∧ (startable s (tkey site slot) = false ∨ Nat.max 1 (rdF s (calReg 4) 7 0) ≤ calRunning s ∨ calFirstOf s (tkey site slot) = false)) ∧
    (∃ (s : State) (site : Nat) (slot : Nat), tileWf site slot = true ∧ initialCal s (tkey site slot) = false ∧ (startable s (tkey site slot) = false ∨ Nat.max 1 (rdF s (calReg 4) 7 0) ≤ calRunning s ∨ calFirstOf s (tkey site slot) = false)) ∧
    (∃ (s : State) (site : Nat) (slot : Nat) (r : CalRun) (l : List AdcSets) (x : RefReads) (cs : List (List Int)), tileWf site slot = true ∧ (tileAt s (tkey site slot)).calRun = some r ∧ l.length = 521 ∧ cs.length = 520) ∧
    (∃ (s : State) (site : Nat) (slot : Nat) (r : CalRun) (l : List AdcSets) (x : RefReads) (cs : List (List Int)), tileWf site slot = true ∧ (tileAt s (tkey site slot)).calRun = some r ∧ l.length = 521 ∧ cs.length = 520) ∧
    (∃ (s : State) (site : Nat) (slot : Nat) (r : CalRun) (l : List AdcSets) (x : RefReads) (cs : List (List Int)), tileWf site slot = true ∧ (tileAt s (tkey site slot)).calRun = some r ∧ l.length = 521 ∧ cs.length = 520) ∧
    (∃ (s : State) (site : Nat) (slot : Nat) (r : CalRun) (x : RefReads), tileWf site slot = true ∧ (tileAt s (tkey site slot)).calRun = some r ∧ runDone r = true ∧ r.refs = some x ∧ runPasses s (tkey site slot) r = true ∧ NoRunWaits s) ∧
    (∃ (s : State) (site : Nat) (slot : Nat) (r : CalRun), tileWf site slot = true ∧ (tileAt s (tkey site slot)).calRun = some r ∧ runDone r = true ∧ (r.refs = none ∨ runPasses s (tkey site slot) r = false) ∧ calStatus s (tkey site slot) 6 5 < 2 ∧ NoRunWaits s) ∧
    (∃ (s : State) (site : Nat) (slot : Nat) (r : CalRun), tileWf site slot = true ∧ (tileAt s (tkey site slot)).calRun = some r ∧ runDone r = true ∧ (r.refs = none ∨ runPasses s (tkey site slot) r = false) ∧ calStatus s (tkey site slot) 6 5 < 2 ∧ NoRunWaits s) ∧
    (∃ (s : State) (site : Nat) (slot : Nat) (r : CalRun), tileWf site slot = true ∧ (tileAt s (tkey site slot)).calRun = some r ∧ runDone r = true ∧ (r.refs = none ∨ runPasses s (tkey site slot) r = false) ∧ 2 ≤ calStatus s (tkey site slot) 6 5 ∧ rbit s (tileReg (tkey site slot) 4) 7 = false ∧ NoRunWaits s) ∧
    (∃ (s : State) (site : Nat) (slot : Nat), tileWf site slot = true ∧ NoRunWaits s ∧ (∀ r, (tileAt s (tkey site slot)).calRun = some r → runDone r = false)) :=
  ⟨⟨cmd (cal3 {} 1 0) p1 0x0504 8 [(8, 2, 0), (10, 1, 3), (11, 1, 1)], p1, ready_of (by decide), by decide, by decide, Or.inl (by decide), zeroAt_of (by decide), by decide, Or.inl (by decide)⟩,
   ⟨cmd (cal3 { shadowIn := true } 2 5128) p1 0x0504 8 [(8, 2, 0), (10, 1, 3), (11, 1, 2)], p1, ready_of (by decide), by decide, by decide, Or.inr (by decide), zeroAt_of (by decide), by decide, Or.inr (by decide)⟩,
   ⟨cmd (cal3 {} 4 0) p1 0x0504 8 [(8, 2, 0), (10, 1, 3), (11, 1, 1)], p1, ready_of (by decide), by decide, by decide, Or.inl (by decide), zeroAt_of (by decide), by decide, Or.inl (by decide)⟩,
   ⟨cal3 {} 1 3088, 0, 3, by decide, by decide, by decide, by decide, by decide, by decide⟩,
   ⟨(wrF (wr (setTileState { hold { ip with passStep := none } with tiles := [(tkey 0 0, { owner := some own })] } (tkey 0 0) 2) (tileReg (tkey 0 0) 0x1000) 0xC10) (sfbSlotReg 0 0 8) 1 0 1), 0, 0, tkey 0 0, own, by decide, by decide, by decide, by decide, by decide, by decide, by rfl, by rfl, by decide⟩,
   ⟨cal3 {} 1 0, 0, 3, by decide, by decide, Or.inl (by decide)⟩,
   ⟨setTileState (cal3 {} 1 3088) (tkey 0 4) 4|> (fun s => wrF s (calReg 4) 7 0 1), 0, 3, by decide, by decide, Or.inr (Or.inl (by decide))⟩,
   ⟨(cal3 { calRun := some ({ run3 with stage := .k1, cls := 2 }) } 4 1), 0, 3, { run3 with stage := .k1, cls := 2 }, List.replicate 521 (sets3 0), refs3, List.replicate 520 [1, -2], by decide, by rfl, List.length_replicate, List.length_replicate⟩,
   ⟨(cal3 { calRun := some ({ run3 with stage := .k3, cls := 2 }) } 4 1), 0, 3, { run3 with stage := .k3, cls := 2 }, List.replicate 521 (sets3 0), refs3, List.replicate 520 [1, -2], by decide, by rfl, List.length_replicate, List.length_replicate⟩,
   ⟨(cal3 { calRun := some ({ run3 with stage := .k4, cls := 1 }) } 4 1), 0, 3, { run3 with stage := .k4, cls := 1 }, List.replicate 521 (sets3 0), refs3, List.replicate 520 [1, -2], by decide, by rfl, List.length_replicate, List.length_replicate⟩,
   ⟨(cal3 { calRun := some ({ run3 with refs := some refs3 }) } 4 1), 0, 3, { run3 with refs := some refs3 }, refs3, by decide, by rfl, by decide, by rfl, by decide, noRunWaits_of (by decide)⟩,
   ⟨(cal3 { calRun := some (run3) } 4 33), 0, 3, run3, by decide, by rfl, by decide, Or.inl rfl, by decide, noRunWaits_of (by decide)⟩,
   ⟨(cal3 { calRun := some ({ run3 with refs := some { refs3 with ref0 := (999, 0) } }) } 4 1), 0, 3, { run3 with refs := some { refs3 with ref0 := (999, 0) } }, by decide, by rfl, by decide, Or.inr (by decide), by decide, noRunWaits_of (by decide)⟩,
   ⟨(cal3 { calRun := some (run3) } 4 65), 0, 3, run3, by decide, by rfl, by decide, Or.inl rfl, by decide, by decide, noRunWaits_of (by decide)⟩,
   ⟨(cal3 { calRun := some ({ run3 with stage := .k4 }) } 4 1), 0, 3, by decide, noRunWaits_of (by decide), fun r h => by cases h; rfl⟩⟩

theorem test_ConvertersDwell_meets :
    (∃ (s : State) (u : State) (site : Nat) (slot : Nat) (a : AdcSets), tileWf site slot = true ∧ rotStart s (tkey site slot) = u ∧ rdFA s (tileReg (tkey site slot) 0) 13 13 ≠ 0 ∧ calStatus s (tkey site slot) 9 9 ≠ 1 ∧ tileState s (tkey site slot) ∉ [0, 4, 5] ∧ (tileState s (tkey site slot) = 2 → 8 ≤ (tileAt u (tkey site slot)).dwell) ∧ setsAgree s a = true) ∧
    (∃ (s : State) (u : State) (site : Nat) (slot : Nat) (a : AdcSets), tileWf site slot = true ∧ rotStart s (tkey site slot) = u ∧ rdFA s (tileReg (tkey site slot) 0) 13 13 ≠ 0 ∧ calStatus s (tkey site slot) 9 9 ≠ 1 ∧ tileState s (tkey site slot) ∉ [0, 4, 5] ∧ (tileState s (tkey site slot) = 2 → 8 ≤ (tileAt u (tkey site slot)).dwell) ∧ setsAgree s a = true) ∧
    (∃ (s : State) (u : State) (site : Nat) (slot : Nat) (a : AdcSets), tileWf site slot = true ∧ rotStart s (tkey site slot) = u ∧ rdFA s (tileReg (tkey site slot) 0) 13 13 ≠ 0 ∧ calStatus s (tkey site slot) 9 9 ≠ 1 ∧ tileState s (tkey site slot) ∉ [0, 4, 5] ∧ (tileState s (tkey site slot) = 2 → 8 ≤ (tileAt u (tkey site slot)).dwell) ∧ setsAgree s a = false ∧ (tileAt u (tkey site slot)).dwellFails < 2) ∧
    (∃ (s : State) (u : State) (site : Nat) (slot : Nat) (i : Nat) (n : Nat) (a : AdcSets), tileWf site slot = true ∧ rotStart s (tkey site slot) = u ∧ rdFA s (tileReg (tkey site slot) 0) 13 13 ≠ 0 ∧ calStatus s (tkey site slot) 9 9 ≠ 1 ∧ tileState s (tkey site slot) ∉ [0, 4, 5] ∧ (tileState s (tkey site slot) = 2 → 8 ≤ (tileAt u (tkey site slot)).dwell) ∧ setsAgree s a = false ∧ 2 ≤ (tileAt u (tkey site slot)).dwellFails ∧ rotPos u (tkey site slot) = i ∧ i < 512 ∧ spareColFree u (tkey site slot) = some n) ∧
    (∃ (s : State) (site : Nat) (slot : Nat) (a : AdcSets), tileWf site slot = true ∧ (rdFA s (tileReg (tkey site slot) 0) 13 13 = 0 ∨ calStatus s (tkey site slot) 9 9 = 1 ∨ tileState s (tkey site slot) ∈ [0, 4, 5])) ∧
    (∃ (s : State) (site : Nat) (slot : Nat) (a : AdcSets), tileWf site slot = true ∧ (rdFA s (tileReg (tkey site slot) 0) 13 13 = 0 ∨ calStatus s (tkey site slot) 9 9 = 1 ∨ tileState s (tkey site slot) ∈ [0, 4, 5])) ∧
    (∃ (s : State) (site : Nat) (slot : Nat) (a : AdcSets), tileWf site slot = true ∧ (rdFA s (tileReg (tkey site slot) 0) 13 13 = 0 ∨ calStatus s (tkey site slot) 9 9 = 1 ∨ tileState s (tkey site slot) ∈ [0, 4, 5])) :=
  ⟨⟨cal3 { dwell := 0 } 1 0, _, 0, 3, sets3 0, by decide, rfl, by decide, by decide, by decide, by decide, by decide⟩,
   ⟨wr (setTileState { part with tiles := [(tkey 0 3, { dwell := 8 })] } (tkey 0 3) 2) (tileReg (tkey 0 3) 0x18) 0x80000005, _, 0, 3, sets3 0, by decide, rfl, by decide, by decide, by decide, by decide, by decide⟩,
   ⟨wr (setTileState { part with tiles := [(tkey 0 3, { dwell := 9, dwellFails := 1 })] } (tkey 0 3) 2) (tileReg (tkey 0 3) 0x18) 0x80000005, _, 0, 3, sets3 9999, by decide, rfl, by decide, by decide, by decide, by decide, by decide, by decide⟩,
   ⟨wr (setTileState { part with tiles := [(tkey 0 3, { dwell := 9, dwellFails := 2 })] } (tkey 0 3) 2) (tileReg (tkey 0 3) 0x18) 0x80000005, _, 0, 3, 5, 0, sets3 9999, by decide, rfl, by decide, by decide, by decide, by decide, by decide, by decide, by decide, by decide, by rfl⟩,
   ⟨wrA part (tileReg (tkey 0 3) 0) 0, 0, 3, sets3 0, by decide, Or.inl (by decide)⟩,
   ⟨cal3 {} 2 0x200, 0, 3, sets3 0, by decide, Or.inr (Or.inl (by decide))⟩,
   ⟨cal3 {} 4 0, 0, 3, sets3 0, by decide, Or.inr (Or.inr (by decide))⟩⟩

theorem test_ArraysAreRefreshedAndWritten_meets :
    (∃ (s : State) (site : Nat) (slot : Nat) (m : Nat), tileWf site slot = true ∧ memberOf s (tkey site slot) = some m ∧ rbit s (chReg 0) 0 = true ∧ (tileAt s m).shadowIn = true ∧ tileState s (tkey site slot) = 2 ∧ (tileAt s m).owner.isSome = true ∧ refreshPeriod s ≤ (arrayAt s (tkey site slot)).age) ∧
    (∃ (s : State) (site : Nat) (slot : Nat) (m : Nat), tileWf site slot = true ∧ memberOf s (tkey site slot) = some m ∧ (rbit s (chReg 0) 0 = false ∨ (tileAt s m).shadowIn = false ∨ (arrayAt s (tkey site slot)).age < refreshPeriod s ∧ (tileAt s m).early = false ∧ (tileAt s m).driftAgain = false)) ∧
    (∃ (s : State) (site : Nat) (slot : Nat) (m : Nat), tileWf site slot = true ∧ memberOf s (tkey site slot) = some m ∧ (rbit s (chReg 0) 0 = false ∨ (tileAt s m).shadowIn = false ∨ (arrayAt s (tkey site slot)).age < refreshPeriod s ∧ (tileAt s m).early = false ∧ (tileAt s m).driftAgain = false)) ∧
    (∃ (s : State) (site : Nat) (slot : Nat), tileWf site slot = true ∧ memberOf s (tkey site slot) = some (tkey site slot) ∧ rbit s (chReg 0) 0 = true ∧ (tileAt s (tkey site slot)).due = true ∧ (tileAt s (tkey site slot)).shadowIn = true ∧ tileState s (tkey site slot) = 2 ∧ (tileAt s (tkey site slot)).refresh = none ∧ (tileAt s (tkey site slot)).calRun = none ∧ pairRefreshing s (tkey site slot) = false ∧ rewriteWaits s (tkey site slot) = false ∧ loadWaits s = false ∧ refreshActive s < Nat.max 1 (rdF s (chReg 4) 23 16) ∧ spareAvailable s (tkey site slot) = true) ∧
    (∃ (s : State) (site : Nat) (slot : Nat) (m : Nat), tileWf site slot = true ∧ memberOf s (tkey site slot) = some m ∧ rbit s (chReg 0) 0 = true ∧ (tileAt s m).due = true ∧ (tileAt s m).shadowIn = true ∧ tileState s (tkey site slot) = 2 ∧ (tileAt s m).refresh = none ∧ (tileAt s (tkey site slot)).calRun = none ∧ pairRefreshing s m = false ∧ rewriteWaits s m = false ∧ loadWaits s = false ∧ refreshActive s < Nat.max 1 (rdF s (chReg 4) 23 16) ∧ (spareAvailable s m = false ∨ tkey site slot ≠ m) ∧ atBoundary s m = true) ∧
    (∃ (s : State) (site : Nat) (slot : Nat) (m : Nat), tileWf site slot = true ∧ memberOf s (tkey site slot) = some m ∧ (rbit s (chReg 0) 0 = false ∨ (tileAt s m).due = false ∨ pairRefreshing s m = true ∨ rewriteWaits s m = true ∨ loadWaits s = true ∨ Nat.max 1 (rdF s (chReg 4) 23 16) ≤ refreshActive s)) ∧
    (∃ (s : State) (site : Nat) (slot : Nat) (j : ProgJob), tileWf site slot = true ∧ (tileAt s (tkey site slot)).prog = some j ∧ j.started = false ∧ mayProgram s (tkey site slot) j = true) ∧
    (∃ (s : State) (site : Nat) (slot : Nat) (j : ProgJob), tileWf site slot = true ∧ (tileAt s (tkey site slot)).prog = some j ∧ (j.started = true ∨ mayProgram s (tkey site slot) j = false)) ∧
    (∃ (s : State) (site : Nat) (slot : Nat) (j : ProgJob), tileWf site slot = true ∧ (tileAt s (tkey site slot)).prog = some j ∧ j.started = true ∧ (j.why = .load ∨ j.why = .rewrite) ∧ j.blank = false ∧ (arrayAt s (tkey site slot)).defects = [] ∧ (tileAt s (tkey site slot)).calRun = none ∧ NoRunWaits s ∧ (∀ c ∈ s.sec.clearing, c.1 ≠ 1 ∨ c.2.1 ≠ clearSite s (tkey site slot))) ∧
    (∃ (s : State) (site : Nat) (m : Nat) (j : ProgJob), tileWf site 16 = true ∧ (tileAt s (tkey site 16)).prog = some j ∧ j.started = true ∧ (j.why = .refresh ∨ j.why = .cover) ∧ j.blank = false ∧ (arrayAt s (tkey site 16)).defects = [] ∧ (tileAt s (tkey site 16)).lastServed = some m ∧ m % 32 < 16 ∧ (tileAt s ((contentsOf s (tkey site 16)).getD (tkey site 16))).refresh ≠ some .inPlace ∧ (tileAt s (tkey site 16)).calRun = none ∧ NoRunWaits s ∧ (∀ c ∈ s.sec.clearing, c.1 ≠ 1 ∨ c.2.1 ≠ clearSite s (tkey site 16))) ∧
    (∃ (s : State) (site : Nat) (slot : Nat) (j : ProgJob), tileWf site slot = true ∧ (tileAt s (tkey site slot)).prog = some j ∧ j.started = true ∧ j.why = .clear ∧ j.blank = true ∧ j.target = [] ∧ j.levels = [] ∧ (arrayAt s (tkey site slot)).defects = [] ∧ NoRunWaits s) ∧
    (∃ (s : State) (site : Nat) (slot : Nat) (found : List Defect) (misread : List Nat), tileWf site slot = true ∧ NoRunWaits s ∧ (∀ j, (tileAt s (tkey site slot)).prog = some j → j.started = false)) :=
  ⟨⟨wbit (setTileState { til { shadowIn := true } with arrays := [(tkey 0 0, { age := 99999999999999999 })] } (tkey 0 0) 2) (chReg 0) 0 true, 0, 0, tkey 0 0, by decide, by rfl, by decide, by decide, by decide, by decide, by decide⟩,
   ⟨wbit (setTileState { til { shadowIn := true } with arrays := [(tkey 0 0, { age := 99999999999999999 })] } (tkey 0 0) 2) (chReg 0) 0 false, 0, 0, tkey 0 0, by decide, by rfl, Or.inl (by decide)⟩,
   ⟨til { shadowIn := true }, 0, 0, tkey 0 0, by decide, by rfl, Or.inr (Or.inr (by decide))⟩,
   ⟨setTileState (setTileState { til { shadowIn := true, due := true } with arrays := [(tkey 0 0, { age := 99999999999999999 })] } (tkey 0 0) 2) (spareKey (tkey 0 0)) 1, 0, 0, by decide, by rfl, by decide, by decide, by decide, by decide, by decide, by decide, by decide, by decide, by decide, by decide, by decide⟩,
   ⟨(setTileState { til { shadowIn := true, due := true } with arrays := [(tkey 0 0, { age := 99999999999999999 })] } (tkey 0 0) 2), 0, 0, tkey 0 0, by decide, by rfl, by decide, by decide, by decide, by decide, by decide, by decide, by decide, by decide, by decide, by decide, Or.inl (by decide), by decide⟩,
   ⟨part, 0, 0, tkey 0 0, by decide, by rfl, Or.inr (Or.inl (by decide))⟩,
   ⟨{ cal3 { prog := some job3 } 1 0x81 with arrays := [(tkey 0 3, { commit := 0xFFFFFFFFFFFFFFFF })] }, 0, 3, job3, by decide, by rfl, by decide, by decide⟩,
   ⟨cal3 { prog := some { job3 with started := true } } 3 0, 0, 3, { job3 with started := true }, by decide, by rfl, Or.inl rfl⟩,
   ⟨{ cal3 { prog := some { job3 with started := true } } 3 0 with arrays := [(tkey 0 3, { levels := [(77, 9)], cycles := 4, age := 55 })] }, 0, 3, { job3 with started := true }, by decide, by rfl, by decide, Or.inl rfl, by decide, by decide, by decide, noRunWaits_of (by decide), by decide⟩,
   ⟨setTileState { part with tiles := [(tkey 0 16, { prog := some { job3 with started := true, why := .refresh }, lastServed := some (tkey 0 3) })] } (tkey 0 16) 3, 0, tkey 0 3, { job3 with started := true, why := .refresh }, by decide, by rfl, by decide, Or.inl rfl, by decide, by decide, by rfl, by decide, by decide, by decide, noRunWaits_of (by decide), by decide⟩,
   ⟨{ cal3 { prog := some { job3 with started := true, why := .clear, blank := true, target := [], levels := [] } } 3 0 with arrays := [(tkey 0 3, { levels := [(77, 9)], cycles := 4, age := 55 })] }, 0, 3, { job3 with started := true, why := .clear, blank := true, target := [], levels := [] }, by decide, by rfl, by decide, by decide, by decide, by decide, by decide, by decide, noRunWaits_of (by decide)⟩,
   ⟨cal3 { prog := some job3 } 1 0, 0, 3, [], [], by decide, noRunWaits_of (by decide), fun j h => by cases h; rfl⟩⟩

theorem test_ImagesLoad_meets :
    (∃ (s : State) (m : MbxId) (head : ImageHead) (i : Instance) (c : Instr) (mode : Nat), (c, mode) ∈ [(Instr.imageLoadPlace m head, 0), (Instr.imageLoadStage m head, 1)] ∧ Ready s m 0x0301 32 ∧ heldCmd s m 0x0301 = none ∧ reqN s m 9 1 = mode ∧ reqN s m 12 2 ≠ partId s ∧ loadCheck s m = none ∧ instOf s (reqN s m 8 1) = some i) ∧
    (∃ (s : State) (m : MbxId) (head : ImageHead) (i : Instance) (c : Instr) (mode : Nat), (c, mode) ∈ [(Instr.imageLoadPlace m head, 0), (Instr.imageLoadStage m head, 1)] ∧ Ready s m 0x0301 32 ∧ heldCmd s m 0x0301 = none ∧ reqN s m 9 1 = mode ∧ reqN s m 12 2 ≠ partId s ∧ loadCheck s m = none ∧ instOf s (reqN s m 8 1) = some i) ∧
    (∃ (s : State) (m : MbxId) (head : ImageHead) (i : Instance) (c : Instr) (mode : Nat) (x : Nat), (c, mode) ∈ [(Instr.imageLoadPlace m head, 0), (Instr.imageLoadStage m head, 1)] ∧ Ready s m 0x0301 32 ∧ heldCmd s m 0x0301 = none ∧ busMaster s m.pf = true ∧ reqN s m 9 1 = mode ∧ reqN s m 12 2 = partId s ∧ loadCheck s m = none ∧ instOf s (reqN s m 8 1) = some i ∧ headReason s i head (reqN s m 16 4) (reqN s m 32 8 % 2 ^ 64) ((mapFind s.ladle.groups (reqN s m 10 1)).elim 0 (fun g => g.ids.length)) = x ∧ x ≠ 0) ∧
    (∃ (s : State) (m : MbxId) (head : ImageHead) (i : Instance) (c : Instr) (mode : Nat) (x : Nat), (c, mode) ∈ [(Instr.imageLoadPlace m head, 0), (Instr.imageLoadStage m head, 1)] ∧ Ready s m 0x0301 32 ∧ heldCmd s m 0x0301 = none ∧ busMaster s m.pf = true ∧ reqN s m 9 1 = mode ∧ reqN s m 12 2 = partId s ∧ loadCheck s m = none ∧ instOf s (reqN s m 8 1) = some i ∧ headReason s i head (reqN s m 16 4) (reqN s m 32 8 % 2 ^ 64) ((mapFind s.ladle.groups (reqN s m 10 1)).elim 0 (fun g => g.ids.length)) = x ∧ x ≠ 0) ∧
    (∃ (s : State) (slot : Nat) (rank : Nat) (a : Nat) (b : Nat) (u : State) (head : ImageHead) (i : Instance) (l : Load), slot < 64 ∧ instOf s slot = some i ∧ i.load = some l ∧ l.manifest = false ∧ l.repair = false ∧ rankIn s l.group = some rank ∧ ownSecs rank head.entries ≠ [] ∧ (l.stage = true → stageMatches (setLoad s slot (loadListed s l head rank)) slot i (loadListed s l head rank) rank (imgGen head) = true) ∧ loadObjects (setLoad s slot (loadListed s l head rank)) slot i (ownBytes rank head.entries (fun k => k == 3)) (ownBytes rank head.entries (fun k => k != 3)) = some (a, b, u)) ∧
    (∃ (s : State) (slot : Nat) (rank : Nat) (head : ImageHead) (i : Instance) (l : Load), slot < 64 ∧ instOf s slot = some i ∧ i.load = some l ∧ l.manifest = false ∧ l.repair = false ∧ rankIn s l.group = some rank ∧ (l.stage = true → stageMatches (setLoad s slot (loadListed s l head rank)) slot i (loadListed s l head rank) rank (imgGen head) = true) ∧ loadObjects (setLoad s slot (loadListed s l head rank)) slot i (ownBytes rank head.entries (fun k => k == 3)) (ownBytes rank head.entries (fun k => k != 3)) = none) ∧
    (∃ (s : State) (slot : Nat) (rank : Nat) (head : ImageHead) (i : Instance) (l : Load), slot < 64 ∧ instOf s slot = some i ∧ i.load = some l ∧ l.manifest = false ∧ l.repair = true ∧ rankIn s l.group = some rank ∧ imgGen head ≠ genCur s slot) ∧
    (∃ (s : State) (slot : Nat) (head : ImageHead) (d : Bytes) (i : Instance), slot < 64 ∧ instOf s slot = some i ∧ seedDigest i ≠ d) ∧
    (∃ (s : State) (slot : Nat) (index : Nat) (b : Section) (l : Load), slot < 64 ∧ loadOf s slot = some l) ∧
    (∃ (s : State) (slot : Nat) (index : Nat) (l : Load), slot < 64 ∧ loadOf s slot = some l) ∧
    (∃ (s : State) (slot : Nat) (index : Nat) (l : Load) (x : SecSt) (y : SecSt), slot < 64 ∧ loadOf s slot = some l ∧ l.secs.find? (fun z => z.index == index) = some x ∧ x.body ≠ none ∧ x.verdict = none ∧ y ∈ l.secs ∧ y.index ≠ index ∧ y.layer = x.layer ∧ y.verdict ≠ some true) ∧
    (∃ (s : State) (u : State) (slot : Nat) (index : Nat) (i : Instance) (l : Load) (x : SecSt) (L : LayerSt) (h : Option Nat), slot < 64 ∧ instOf s slot = some i ∧ i.load = some l ∧ l.stage = false ∧ l.repair = false ∧ l.secs.find? (fun z => z.index == index) = some x ∧ x.body ≠ none ∧ x.verdict = none ∧ x.layer ≠ 0xFFFF ∧ (∀ y ∈ l.secs, y.layer = x.layer → y.index = index ∨ y.verdict = some true) ∧ L = layerOf (loadPassed l index) x.layer .none ∧ deniedSite s i l.skey L = none ∧ growSecure (setLoad s slot (loadPassed l index)) slot (secureBlocks s i (i.layers ++ [L])) i.shadowSecH = some (h, u)) ∧
    (∃ (s : State) (slot : Nat) (index : Nat) (site : Nat) (i : Instance) (l : Load) (x : SecSt), slot < 64 ∧ instOf s slot = some i ∧ i.load = some l ∧ l.secs.find? (fun z => z.index == index) = some x ∧ x.body ≠ none ∧ x.verdict = none ∧ x.layer ≠ 0xFFFF ∧ (∀ y ∈ l.secs, y.layer = x.layer → y.index = index ∨ y.verdict = some true) ∧ deniedSite s i l.skey (layerOf (loadPassed l index) x.layer .none) = some site) ∧
    (∃ (s : State) (slot : Nat) (index : Nat) (i : Instance) (l : Load) (x : SecSt), slot < 64 ∧ instOf s slot = some i ∧ i.load = some l ∧ l.manifest = true ∧ l.stage = true ∧ l.repair = false ∧ l.secs.find? (fun z => z.index == index) = some x ∧ x.body ≠ none ∧ x.verdict = none ∧ x.layer = 0xFFFF ∧ (∀ y ∈ l.secs, y.index = index ∨ y.verdict = some true)) ∧
    (∃ (s : State) (slot : Nat) (reason : Nat) (detail : Nat) (l : Load), slot < 64 ∧ 1 ≤ reason ∧ reason ≤ 8 ∧ loadOf s slot = some l) ∧
    (∃ (s : State) (slot : Nat) (rank : Nat) (cause : Nat) (l : Load), slot < 64 ∧ rank < 65536 ∧ loadOf s slot = some l) ∧
    (∃ (s : State) (slot : Nat) (detail : Nat) (l : Load), slot < 64 ∧ loadOf s slot = some l) ∧
    (∃ (s : State) (slot : Nat) (l : Load), slot < 64 ∧ loadOf s slot = some l ∧ l.reader = true) ∧
    (∃ (s : State) (slot : Nat) (l : Load), slot < 64 ∧ loadOf s slot = some l ∧ l.reader = false) :=
  ⟨⟨cmd (hold1 i7) p1 0x0301 32 [(8, 1, 3), (9, 1, 0), (10, 1, 1), (12, 2, 9), (16, 4, 8), (24, 8, 0)], p1, (hd0 0), i7, .imageLoadPlace p1 (hd0 0), 0, by decide, ready_of (by decide), by decide, by decide, by decide, by decide, by rfl⟩,
   ⟨cmd (hold1 i7) p1 0x0301 32 [(8, 1, 3), (9, 1, 1), (10, 1, 1), (12, 2, 9), (16, 4, 8), (24, 8, 0)], p1, (hd0 0), i7, .imageLoadStage p1 (hd0 0), 1, by decide, ready_of (by decide), by decide, by decide, by decide, by decide, by rfl⟩,
   ⟨cmd (hold1 i7) p1 0x0301 32 [(8, 1, 3), (9, 1, 0), (10, 1, 1), (12, 2, 0), (16, 4, 8), (32, 8, 0)], p1, (hd0 0), i7, .imageLoadPlace p1 (hd0 0), 0, 1, by decide, ready_of (by decide), by decide, by decide, by decide, by decide, by decide, by rfl, by decide, by decide⟩,
   ⟨cmd (hold1 i7) p1 0x0301 32 [(8, 1, 3), (9, 1, 1), (10, 1, 1), (12, 2, 0), (16, 4, 8), (32, 8, 0)], p1, (hd0 0), i7, .imageLoadStage p1 (hd0 0), 1, 1, by decide, ready_of (by decide), by decide, by decide, by decide, by decide, by decide, by rfl, by decide, by decide⟩,
   by obtain ⟨a, b, u, h⟩ := @loadObjects_empty (setLoad (hold1 (il ld0)) 3 (loadListed (hold1 (il ld0)) ld0 (hd0 0) 0)) 3 (il ld0) rfl; exact ⟨hold1 (il ld0), 3, 0, a, b, u, hd0 0, il ld0, ld0, by decide, rfl, rfl, rfl, rfl, by decide, by decide, (fun h => by cases h), h⟩,
   ⟨hold1 (il ld0), 3, 0, hd0 1, il ld0, ld0, by decide, by rfl, by rfl, by decide, by decide, by rfl, (fun h => by cases h), loadObjects_none rfl (by decide) (by decide)⟩,
   ⟨wr (hold1 (il { ld0 with repair := true })) (imgSlotReg 3 0) 4, 3, 0, (hd0 0), il { ld0 with repair := true }, { ld0 with repair := true }, by decide, by rfl, by rfl, by decide, by decide, by rfl, by decide⟩,
   ⟨hold1 i7, 3, (hd0 0), [], i7, by decide, by rfl, by decide +kernel⟩,
   ⟨hold1 { il ({ ld0 with manifest := true, secs := [{ sc0 0 2 with body := none }] }) [] with secure := false } (part), 3, 0, .arrays [ar0], { ld0 with manifest := true, secs := [{ sc0 0 2 with body := none }] }, by decide, by rfl⟩,
   ⟨hold1 { il ({ ld0 with manifest := true }) [] with secure := false } (part), 3, 0, { ld0 with manifest := true }, by decide, by rfl⟩,
   ⟨hold1 { il ({ ld0 with manifest := true, secs := [sc0 0 2, sc0 1 2] }) [] with secure := false } (part), 3, 0, { ld0 with manifest := true, secs := [sc0 0 2, sc0 1 2] }, sc0 0 2, sc0 1 2, by decide, by rfl, by rfl, by decide, by decide, by decide, by decide, by decide, by decide⟩,
   ⟨hold1 { il ({ ld0 with manifest := true, secs := [{ sc0 0 2 with body := some (.arrays [ar0]) }] }) [] with secure := false } (part), setLoad (hold1 { il ({ ld0 with manifest := true, secs := [{ sc0 0 2 with body := some (.arrays [ar0]) }] }) [] with secure := false } (part)) 3 (loadPassed ({ ld0 with manifest := true, secs := [{ sc0 0 2 with body := some (.arrays [ar0]) }] }) 0), 3, 0, { il ({ ld0 with manifest := true, secs := [{ sc0 0 2 with body := some (.arrays [ar0]) }] }) [] with secure := false }, { ld0 with manifest := true, secs := [{ sc0 0 2 with body := some (.arrays [ar0]) }] }, { sc0 0 2 with body := some (.arrays [ar0]) }, layerOf (loadPassed ({ ld0 with manifest := true, secs := [{ sc0 0 2 with body := some (.arrays [ar0]) }] }) 0) 2 .none, none, by decide, by rfl, by rfl, by decide, by decide, by rfl, by decide, by decide, by decide, by decide, by decide, by decide, by unfold growSecure; rw [show secureBlocks _ _ _ = 0 by decide]; rfl⟩,
   ⟨hold1 { il ({ ld0 with manifest := true, secs := [{ sc0 0 2 with body := some (.arrays [ar0]) }] }) [] with secure := true } (part), 3, 0, 0, { il ({ ld0 with manifest := true, secs := [{ sc0 0 2 with body := some (.arrays [ar0]) }] }) [] with secure := true }, { ld0 with manifest := true, secs := [{ sc0 0 2 with body := some (.arrays [ar0]) }] }, { sc0 0 2 with body := some (.arrays [ar0]) }, by decide, by rfl, by rfl, by rfl, by decide, by decide, by decide, by decide, by rfl⟩,
   ⟨hold1 { il ({ ld0 with manifest := true, stage := true, secs := [sc0 0 0xFFFF] }) [] with secure := false } (part), 3, 0, { il ({ ld0 with manifest := true, stage := true, secs := [sc0 0 0xFFFF] }) [] with secure := false }, { ld0 with manifest := true, stage := true, secs := [sc0 0 0xFFFF] }, sc0 0 0xFFFF, by decide, by rfl, by rfl, by decide, by decide, by decide, by rfl, by decide, by decide, by decide, by decide⟩,
   ⟨hold1 { il ({ ld0 with manifest := true }) [] with secure := false } (part), 3, 6, 2, { ld0 with manifest := true }, by decide, by decide, by decide, by rfl⟩,
   ⟨hold1 { il ({ ld0 with manifest := true }) [] with secure := false } (part), 3, 3, 2, { ld0 with manifest := true }, by decide, by decide, by rfl⟩,
   ⟨hold1 { il ({ ld0 with manifest := true }) [] with secure := false } (part), 3, 2, { ld0 with manifest := true }, by decide, by rfl⟩,
   ⟨hold1 { il ({ ld0 with manifest := true }) [] with secure := false } (part), 3, { ld0 with manifest := true }, by decide, by rfl, by decide⟩,
   ⟨hold1 { il ({ ld0 with reader := false }) [] with secure := false } (part), 3, { ld0 with reader := false }, by decide, by rfl, by decide⟩⟩

theorem test_LayersAreWritten_meets :
    (∃ (s : State) (slot : Nat) (layer : Nat) (i : Instance) (l : Load) (L : LayerSt), slot < 64 ∧ instOf s slot = some i ∧ i.load = some l ∧ l.stage = false ∧ l.repair = false ∧ i.layers.find? (fun y => y.layer == layer) = some L ∧ L.state = .none ∧ layerHeld s L = false ∧ layerCause s slot L = none ∧ (l.skip && mayskip s slot layer l.imageId l.gen) = false ∧ NoRunWaits s) ∧
    (∃ (s : State) (slot : Nat) (layer : Nat) (i : Instance) (l : Load) (L : LayerSt), slot < 64 ∧ instOf s slot = some i ∧ i.load = some l ∧ l.stage = false ∧ l.repair = false ∧ i.layers.find? (fun y => y.layer == layer) = some L ∧ L.state = .writing ∧ allWritten s L = true ∧ (∃ y ∈ i.layers, y.layer ≠ layer ∧ y.state ≠ .committed) ∧ NoRunWaits s) ∧
    (∃ (s : State) (slot : Nat) (layer : Nat) (i : Instance) (l : Load) (L : LayerSt), slot < 64 ∧ instOf s slot = some i ∧ i.load = some l ∧ l.manifest = true ∧ (∀ x ∈ l.secs, x.verdict = some true) ∧ l.stage = false ∧ l.repair = false ∧ i.layers.find? (fun y => y.layer == layer) = some L ∧ L.state = .writing ∧ allWritten s L = true ∧ (∀ y ∈ i.layers, y.layer = layer ∨ y.state = .committed) ∧ NoRunWaits s) ∧
    (∃ (s : State) (slot : Nat) (layer : Nat) (i : Instance) (l : Load) (L : LayerSt), slot < 64 ∧ instOf s slot = some i ∧ i.load = some l ∧ l.stage = false ∧ l.repair = false ∧ i.layers.find? (fun y => y.layer == layer) = some L ∧ L.state = .none ∧ layerHeld s L = false ∧ layerCause s slot L = none ∧ l.skip = true ∧ mayskip s slot layer l.imageId l.gen = true ∧ NoRunWaits s) ∧
    (∃ (s : State) (slot : Nat) (layer : Nat) (cause : Nat) (i : Instance) (l : Load) (L : LayerSt), slot < 64 ∧ layer < 65536 ∧ instOf s slot = some i ∧ i.load = some l ∧ l.stage = false ∧ l.repair = false ∧ i.layers.find? (fun y => y.layer == layer) = some L ∧ L.state = .none ∧ layerHeld s L = false ∧ layerCause s slot L = some cause ∧ NoRunWaits s) ∧
    (∃ (s : State) (slot : Nat) (layer : Nat) (i : Instance) (l : Load) (L : LayerSt), slot < 64 ∧ instOf s slot = some i ∧ i.load = some l ∧ i.layers.find? (fun y => y.layer == layer) = some L ∧ (L.state = .none ∧ layerHeld s L = true ∨ L.state = .writing ∧ allWritten s L = false) ∧ NoRunWaits s) ∧
    (∃ (s : State) (slot : Nat) (layer : Nat) (i : Instance) (l : Load) (L : LayerSt), slot < 64 ∧ instOf s slot = some i ∧ i.load = some l ∧ i.layers.find? (fun y => y.layer == layer) = some L ∧ (L.state = .none ∧ layerHeld s L = true ∨ L.state = .writing ∧ allWritten s L = false) ∧ NoRunWaits s) ∧
    (∃ (s : State) (m : MbxId) (rows : List (Nat × Nat)), Ready s m 0x0302 8 ∧ reqN s m 8 1 < 64 ∧ ZeroAt s m 9 1 ∧ ZeroAt s m 12 4 ∧ (∀ i, instOf s (reqN s m 8 1) = some i → i.secure = false ∨ mbxSecure s m = true) ∧ ((statusRows s (reqN s m 8 1)).filter (fun x => reqN s m 10 2 ≤ x.1)).take 114 = rows) :=
  ⟨⟨hold1 { il (ld0) [{ ly0 .none with cfg := some { whiskSeed := 1, outDim := 512, cacheBytes := 0, tiles := [] }, arrs := [], shad := [] }] with secure := false } (part), 3, 2, { il (ld0) [{ ly0 .none with cfg := some { whiskSeed := 1, outDim := 512, cacheBytes := 0, tiles := [] }, arrs := [], shad := [] }] with secure := false }, ld0, { ly0 .none with cfg := some { whiskSeed := 1, outDim := 512, cacheBytes := 0, tiles := [] }, arrs := [], shad := [] }, by decide, by rfl, by rfl, by decide, by decide, by rfl, by decide, by decide, by decide, by decide, noRunWaits_of (by decide)⟩,
   ⟨hold1 { il (ld0) [{ ly0 .writing with cfg := some { whiskSeed := 1, outDim := 512, cacheBytes := 0, tiles := [] }, arrs := [], shad := [] }, { ly0 .none with layer := 3 }] with secure := false } (part), 3, 2, { il (ld0) [{ ly0 .writing with cfg := some { whiskSeed := 1, outDim := 512, cacheBytes := 0, tiles := [] }, arrs := [], shad := [] }, { ly0 .none with layer := 3 }] with secure := false }, ld0, { ly0 .writing with cfg := some { whiskSeed := 1, outDim := 512, cacheBytes := 0, tiles := [] }, arrs := [], shad := [] }, by decide, by rfl, by rfl, by decide, by decide, by rfl, by decide, by decide, by decide, noRunWaits_of (by decide)⟩,
   ⟨hold1 { il ({ ld0 with manifest := true, secs := [sc0 0 2 (some true)] }) [{ ly0 .writing with cfg := some { whiskSeed := 1, outDim := 512, cacheBytes := 0, tiles := [] }, arrs := [], shad := [] }] with secure := false } (part), 3, 2, { il ({ ld0 with manifest := true, secs := [sc0 0 2 (some true)] }) [{ ly0 .writing with cfg := some { whiskSeed := 1, outDim := 512, cacheBytes := 0, tiles := [] }, arrs := [], shad := [] }] with secure := false }, { ld0 with manifest := true, secs := [sc0 0 2 (some true)] }, { ly0 .writing with cfg := some { whiskSeed := 1, outDim := 512, cacheBytes := 0, tiles := [] }, arrs := [], shad := [] }, by decide, by rfl, by rfl, by decide, by decide, by decide, by decide, by rfl, by decide, by decide, by decide, noRunWaits_of (by decide)⟩,
   ⟨hold1 { il ({ ld0 with skip := true }) [{ ly0 .none with cfg := some { whiskSeed := 1, outDim := 512, cacheBytes := 0, tiles := [] }, arrs := [], shad := [] }] with secure := false } ({ part with ledger := [{ a := some ({ seq := 1, inst := 7, slot := 3, state := .committed, layer := 2, imageId := 8, gen := 5, prevId := 0, prevGen := 0, arrays := [] }), b := none }] }), 3, 2, { il ({ ld0 with skip := true }) [{ ly0 .none with cfg := some { whiskSeed := 1, outDim := 512, cacheBytes := 0, tiles := [] }, arrs := [], shad := [] }] with secure := false }, { ld0 with skip := true }, { ly0 .none with cfg := some { whiskSeed := 1, outDim := 512, cacheBytes := 0, tiles := [] }, arrs := [], shad := [] }, by decide, by rfl, by rfl, by decide, by decide, by rfl, by decide, by decide, by decide, by decide, by decide, noRunWaits_of (by decide)⟩,
   ⟨hold1 { il (ld0) [{ ly0 .none with cfg := none }] with secure := false } (part), 3, 2, 5, { il (ld0) [{ ly0 .none with cfg := none }] with secure := false }, ld0, { ly0 .none with cfg := none }, by decide, by decide, by rfl, by rfl, by decide, by decide, by rfl, by decide, by decide, by rfl, noRunWaits_of (by decide)⟩,
   ⟨hold1 { il (ld0) [ly0 .none] with secure := false } ({ part with tiles := [(tkey 0 0, { prog := some job3 })] }), 3, 2, { il (ld0) [ly0 .none] with secure := false }, ld0, ly0 .none, by decide, by rfl, by rfl, by rfl, Or.inl (by decide), noRunWaits_of (by decide)⟩,
   ⟨hold1 { il (ld0) [ly0 .writing] with secure := false } ({ part with tiles := [(tkey 0 0, { prog := some job3 })] }), 3, 2, { il (ld0) [ly0 .writing] with secure := false }, ld0, ly0 .writing, by decide, by rfl, by rfl, by rfl, Or.inr (by decide), noRunWaits_of (by decide)⟩,
   ⟨cmd (hold i7 ({ part with ledger := [{ a := some ({ seq := 1, inst := 7, slot := 3, state := .committed, layer := 2, imageId := 8, gen := 5, prevId := 0, prevGen := 0, arrays := [] }), b := none }] })) p1 0x0302 8 [(8, 1, 3)], p1, [(2, 1)], ready_of (by decide), by decide, zeroAt_of (by decide), zeroAt_of (by decide), fun i h => by cases h; exact Or.inl rfl, by decide⟩⟩

theorem test_GenerationsChange_meets :
    (∃ (s : State) (m : MbxId) (fails : List (Nat × Nat × Nat)) (slot : Nat) (i : Instance), Ready s m 0x0303 8 ∧ ZeroAt s m 10 6 ∧ NamesEntry s m slot i ∧ genState s slot ≠ 2 ∧ genNext s slot ≠ 0 ∧ firstFail s i (allFails s slot i fails) = none) ∧
    (∃ (s : State) (m : MbxId) (fails : List (Nat × Nat × Nat)) (slot : Nat) (i : Instance) (f : _), Ready s m 0x0303 8 ∧ ZeroAt s m 10 6 ∧ NamesEntry s m slot i ∧ genState s slot ≠ 2 ∧ genNext s slot ≠ 0 ∧ firstFail s i (allFails s slot i fails) = some f) ∧
    (∃ (s : State) (m : MbxId) (slot : Nat) (i : Instance), Ready s m 0x0304 8 ∧ ZeroAt s m 10 6 ∧ NamesEntry s m slot i ∧ (genState s slot = 1 ∨ (genState s slot = 2 ∧ i.genJob = none)) ∧ i.save = none ∧ i.pause = false) ∧
    (∃ (s : State) (m : MbxId) (slot : Nat) (i : Instance), Ready s m 0x0304 8 ∧ ZeroAt s m 10 6 ∧ NamesEntry s m slot i ∧ (genState s slot = 1 ∨ (genState s slot = 2 ∧ i.genJob = none)) ∧ i.save = none ∧ i.pause = false) ∧
    (∃ (s : State) (m : MbxId) (slot : Nat) (i : Instance), Ready s m 0x0304 8 ∧ ZeroAt s m 10 6 ∧ NamesEntry s m slot i ∧ genState s slot ≠ 1 ∧ (genState s slot ≠ 2 ∨ i.genJob ≠ none)) ∧
    (∃ (s : State) (m : MbxId) (slot : Nat) (i : Instance), Ready s m 0x0304 8 ∧ ZeroAt s m 10 6 ∧ NamesEntry s m slot i ∧ genState s slot ≠ 1 ∧ (genState s slot ≠ 2 ∨ i.genJob ≠ none)) ∧
    (∃ (s : State) (m : MbxId) (slot : Nat) (i : Instance), Ready s m 0x0305 8 ∧ ZeroAt s m 10 6 ∧ NamesEntry s m slot i ∧ genState s slot = 1) ∧
    (∃ (s : State) (slot : Nat) (layer : Nat) (i : Instance) (L : LayerSt) (O : LayerSt), slot < 64 ∧ instOf s slot = some i ∧ i.staged.find? (fun y => y.layer == layer) = some L ∧ i.layers.find? (fun y => y.layer == layer) = some O ∧ genMoving s slot i = true ∧ L.state = .staged ∧ layerHeld s O = false ∧ (∀ f ∈ i.flight, f.msg.gen = genCur s slot → leftLayer s i O f = true) ∧ NoRunWaits s) ∧
    (∃ (s : State) (slot : Nat) (layer : Nat) (i : Instance) (L : LayerSt) (O : LayerSt), slot < 64 ∧ instOf s slot = some i ∧ i.staged.find? (fun y => y.layer == layer) = some L ∧ i.layers.find? (fun y => y.layer == layer) = some O ∧ genMoving s slot i = true ∧ L.state = .writing ∧ allWritten s L = true ∧ NoRunWaits s ∧ (∀ c ∈ s.cores, c.2.capture = none)) ∧
    (∃ (s : State) (slot : Nat) (layer : Nat) (i : Instance) (L : LayerSt) (O : LayerSt), slot < 64 ∧ instOf s slot = some i ∧ i.staged.find? (fun y => y.layer == layer) = some L ∧ i.layers.find? (fun y => y.layer == layer) = some O ∧ (genMoving s slot i = false ∨ L.state = .writing ∧ allWritten s L = false ∨ L.state = .staged ∧ (layerHeld s O = true ∨ ∃ f ∈ i.flight, f.msg.gen = genCur s slot ∧ leftLayer s i O f = false)) ∧ NoRunWaits s) ∧
    (∃ (s : State) (slot : Nat) (layer : Nat) (i : Instance) (L : LayerSt) (O : LayerSt), slot < 64 ∧ instOf s slot = some i ∧ i.staged.find? (fun y => y.layer == layer) = some L ∧ i.layers.find? (fun y => y.layer == layer) = some O ∧ (genMoving s slot i = false ∨ L.state = .writing ∧ allWritten s L = false ∨ L.state = .staged ∧ (layerHeld s O = true ∨ ∃ f ∈ i.flight, f.msg.gen = genCur s slot ∧ leftLayer s i O f = false)) ∧ NoRunWaits s) ∧
    (∃ (s : State) (slot : Nat) (layer : Nat) (i : Instance) (L : LayerSt) (O : LayerSt), slot < 64 ∧ instOf s slot = some i ∧ i.staged.find? (fun y => y.layer == layer) = some L ∧ i.layers.find? (fun y => y.layer == layer) = some O ∧ (genMoving s slot i = false ∨ L.state = .writing ∧ allWritten s L = false ∨ L.state = .staged ∧ (layerHeld s O = true ∨ ∃ f ∈ i.flight, f.msg.gen = genCur s slot ∧ leftLayer s i O f = false)) ∧ NoRunWaits s) ∧
    (∃ (s : State) (slot : Nat) (layer : Nat) (i : Instance) (L : LayerSt) (O : LayerSt), slot < 64 ∧ instOf s slot = some i ∧ i.staged.find? (fun y => y.layer == layer) = some L ∧ i.layers.find? (fun y => y.layer == layer) = some O ∧ (genMoving s slot i = false ∨ L.state = .writing ∧ allWritten s L = false ∨ L.state = .staged ∧ (layerHeld s O = true ∨ ∃ f ∈ i.flight, f.msg.gen = genCur s slot ∧ leftLayer s i O f = false)) ∧ NoRunWaits s) ∧
    (∃ (s : State) (slot : Nat) (i : Instance), slot < 64 ∧ instOf s slot = some i ∧ genMoving s slot i = true ∧ i.staged = [] ∧ calWaited s slot i = true ∧ (∀ x ∈ i.sets, x.2.pending = none)) ∧
    (∃ (s : State) (slot : Nat) (h : Nat) (v : Nat) (r : MbxRef) (i : Instance) (d : DeltaSet) (y : DeltaVer), slot < 64 ∧ instOf s slot = some i ∧ genMoving s slot i = true ∧ i.staged = [] ∧ calWaited s slot i = true ∧ i.sets = [(h, d)] ∧ d.pending = some (v, r) ∧ mapFind i.vers v = some y ∧ y.gen = genNext s slot) ∧
    (∃ (s : State) (slot : Nat) (i : Instance), slot < 64 ∧ instOf s slot = some i ∧ (genMoving s slot i = false ∨ i.staged ≠ [] ∨ calWaited s slot i = false)) ∧
    (∃ (s : State) (slot : Nat) (i : Instance), slot < 64 ∧ instOf s slot = some i ∧ (genMoving s slot i = false ∨ i.staged ≠ [] ∨ calWaited s slot i = false)) ∧
    (∃ (s : State) (slot : Nat) (i : Instance), slot < 64 ∧ instOf s slot = some i ∧ (genMoving s slot i = false ∨ i.staged ≠ [] ∨ calWaited s slot i = false)) :=
  ⟨⟨cmd (gens (hold ({ ig .staged with staged := [] })) 0) p1 0x0303 8 [(8, 2, 7)], p1, [], 3, { ig .staged with staged := [] }, ready_of (by decide), zeroAt_of (by decide), namesEntry_of rfl rfl (by decide) (by decide), by decide, by decide, by decide⟩,
   ⟨cmd (gens (hold ({ ig .staged with staged := [] })) 0) p1 0x0303 8 [(8, 2, 7)], p1, [(9, 2, 3)], 3, { ig .staged with staged := [] }, (9, 2, 3), ready_of (by decide), zeroAt_of (by decide), namesEntry_of rfl rfl (by decide) (by decide), by decide, by decide, by rfl⟩,
   ⟨cmd (gens (hold ({ ig .staged with staged := [] })) 1) p1 0x0304 8 [(8, 2, 7)], p1, 3, { ig .staged with staged := [] }, ready_of (by decide), zeroAt_of (by decide), namesEntry_of rfl rfl (by decide) (by decide), Or.inl (by decide), by rfl, by rfl⟩,
   ⟨cmd (gens (hold ({ ig .staged with genJob := none })) 2) p1 0x0304 8 [(8, 2, 7)], p1, 3, { ig .staged with genJob := none }, ready_of (by decide), zeroAt_of (by decide), namesEntry_of rfl rfl (by decide) (by decide), Or.inr (by decide), by rfl, by rfl⟩,
   ⟨cmd (gens (hold ({ ig .staged with staged := [] })) 0) p1 0x0304 8 [(8, 2, 7)], p1, 3, { ig .staged with staged := [] }, ready_of (by decide), zeroAt_of (by decide), namesEntry_of rfl rfl (by decide) (by decide), by decide, Or.inl (by decide)⟩,
   ⟨cmd (gens (hold ({ ig .staged with staged := [] })) 2) p1 0x0304 8 [(8, 2, 7)], p1, 3, { ig .staged with staged := [] }, ready_of (by decide), zeroAt_of (by decide), namesEntry_of rfl rfl (by decide) (by decide), by decide, Or.inr (by decide)⟩,
   ⟨cmd (gens (hold (ig .staged)) 1) p1 0x0305 8 [(8, 2, 7)], p1, 3, ig .staged, ready_of (by decide), zeroAt_of (by decide), namesEntry_of rfl rfl (by decide) (by decide), by decide⟩,
   ⟨gens (hold ({ ig .staged with staged := [{ ly0 .staged with cfg := some { whiskSeed := 1, outDim := 512, cacheBytes := 0, tiles := [] }, arrs := [], shad := [] }] }) part) 2, 3, 2, { ig .staged with staged := [{ ly0 .staged with cfg := some { whiskSeed := 1, outDim := 512, cacheBytes := 0, tiles := [] }, arrs := [], shad := [] }] }, { ly0 .staged with cfg := some { whiskSeed := 1, outDim := 512, cacheBytes := 0, tiles := [] }, arrs := [], shad := [] }, ly0 .committed, by decide, by rfl, by rfl, by rfl, by decide, by decide, by decide, by decide, noRunWaits_of (by decide)⟩,
   ⟨gens (hold ({ ig .writing with staged := [{ ly0 .writing with cfg := some { whiskSeed := 1, outDim := 512, cacheBytes := 0, tiles := [] }, arrs := [], shad := [] }] }) part) 2, 3, 2, { ig .writing with staged := [{ ly0 .writing with cfg := some { whiskSeed := 1, outDim := 512, cacheBytes := 0, tiles := [] }, arrs := [], shad := [] }] }, { ly0 .writing with cfg := some { whiskSeed := 1, outDim := 512, cacheBytes := 0, tiles := [] }, arrs := [], shad := [] }, ly0 .committed, by decide, by rfl, by rfl, by rfl, by decide, by decide, by decide, noRunWaits_of (by decide), by decide⟩,
   ⟨gens (hold ({ ig .staged with staged := [{ ly0 .staged with cfg := some { whiskSeed := 1, outDim := 512, cacheBytes := 0, tiles := [] }, arrs := [], shad := [] }] }) part) 1, 3, 2, { ig .staged with staged := [{ ly0 .staged with cfg := some { whiskSeed := 1, outDim := 512, cacheBytes := 0, tiles := [] }, arrs := [], shad := [] }] }, { ly0 .staged with cfg := some { whiskSeed := 1, outDim := 512, cacheBytes := 0, tiles := [] }, arrs := [], shad := [] }, ly0 .committed, by decide, by rfl, by rfl, by rfl, Or.inl (by decide), noRunWaits_of (by decide)⟩,
   ⟨gens (hold (ig .writing) { part with tiles := [(tkey 0 0, { prog := some job3 })] }) 2, 3, 2, ig .writing, ly0 .writing, ly0 .committed, by decide, by rfl, by rfl, by rfl, Or.inr (Or.inl (by decide)), noRunWaits_of (by decide)⟩,
   ⟨gens (hold ({ ig .staged with staged := [{ ly0 .staged with cfg := some { whiskSeed := 1, outDim := 512, cacheBytes := 0, tiles := [] }, arrs := [], shad := [] }], flight := [{ msg := { f7 with gen := 4 } }] }) part) 2, 3, 2, { ig .staged with staged := [{ ly0 .staged with cfg := some { whiskSeed := 1, outDim := 512, cacheBytes := 0, tiles := [] }, arrs := [], shad := [] }], flight := [{ msg := { f7 with gen := 4 } }] }, { ly0 .staged with cfg := some { whiskSeed := 1, outDim := 512, cacheBytes := 0, tiles := [] }, arrs := [], shad := [] }, ly0 .committed, by decide, by rfl, by rfl, by rfl, Or.inr (Or.inr (by decide)), noRunWaits_of (by decide)⟩,
   ⟨gens (hold ({ ig .staged with staged := [{ ly0 .staged with cfg := some { whiskSeed := 1, outDim := 512, cacheBytes := 0, tiles := [] }, arrs := [], shad := [] }] }) { part with tiles := [(tkey 0 0, { prog := some job3 })] }) 2, 3, 2, { ig .staged with staged := [{ ly0 .staged with cfg := some { whiskSeed := 1, outDim := 512, cacheBytes := 0, tiles := [] }, arrs := [], shad := [] }] }, { ly0 .staged with cfg := some { whiskSeed := 1, outDim := 512, cacheBytes := 0, tiles := [] }, arrs := [], shad := [] }, ly0 .committed, by decide, by rfl, by rfl, by rfl, Or.inr (Or.inr (by decide)), noRunWaits_of (by decide)⟩,
   ⟨gens (hold ({ ig .staged with staged := [] }) part) 2, 3, { ig .staged with staged := [] }, by decide, by rfl, by decide, by rfl, by decide, by decide⟩,
   ⟨gens (hold ({ ig .staged with staged := [], sets := [(6, { cur := 1, pending := some (4, r7) })], vers := [(4, { gen := 5, refs := 0, blocks := [] })] }) part) 2, 3, 6, 4, r7, { ig .staged with staged := [], sets := [(6, { cur := 1, pending := some (4, r7) })], vers := [(4, { gen := 5, refs := 0, blocks := [] })] }, { cur := 1, pending := some (4, r7) }, { gen := 5, refs := 0, blocks := [] }, by decide, by rfl, by decide, by rfl, by decide, by rfl, by rfl, by rfl, by decide⟩,
   ⟨gens (hold ({ ig .staged with staged := [] }) part) 1, 3, { ig .staged with staged := [] }, by decide, by rfl, Or.inl (by decide)⟩,
   ⟨gens (hold (ig .staged) part) 2, 3, ig .staged, by decide, by rfl, Or.inr (Or.inl (by decide))⟩,
   ⟨wbit (gens (hold ({ ig .staged with staged := [], prepared := [2] })) 2) (imgSlotReg 3 8) 2 true, 3, { ig .staged with staged := [], prepared := [2] }, by decide, by rfl, Or.inr (Or.inr (by decide))⟩⟩

theorem test_ClearRegisters_meets :
    (∃ (s : State) (site : Nat) (slot : Nat) (v : W32), tileWf site slot = true) ∧
    (∃ (s : State) (site : Nat) (slot : Nat) (v : W32), site < 800 ∧ slot < 16) ∧
    (∃ (s : State) (site : Nat) (v : W32), site < 800) ∧
    (∃ (s : State) (site : Nat) (v : W32), site < 800) ∧
    (∃ (s : State) (site : Nat) (v : W32), site < 800) ∧
    (∃ (s : State) (n : Nat) (v : W32), n < 24) ∧
    (∃ (s : State) (p : Nat) (v : W32), p < 18) ∧
    (∃ (s : State) (slot : Nat) (v : W32), slot < 64) :=
  ⟨⟨part, 799, 15, 0xFFFFFFFF, by decide⟩,
   ⟨part, 799, 15, 0xFFFFFFFF, by decide, by decide⟩,
   ⟨part, 799, 0xFFFFFFFF, by decide⟩,
   ⟨part, 799, 0xFFFFFFFF, by decide⟩,
   ⟨part, 799, 0xFFFFFFFF, by decide⟩,
   ⟨part, 23, 0xFFFFFFFF, by decide⟩,
   ⟨part, 17, 0xFFFFFFFF, by decide⟩,
   ⟨part, 63, 0xFFFFFFFF, by decide⟩⟩


/-- An image head that is right in all but its signature, which is zeros. -/
def hdOk : ImageHead :=
  { header := imgMagic ++ leBytes 2 2 ++ zeros 2 ++ [24] ++ zeros 3 ++ leBytes 2 1 ++ zeros 6 ++ leBytes 4 8 ++ leBytes 4 5 ++ zeros 16 ++
      keyDigest (zeros 57) ++ zeros 48
    entries := (hd0 0).entries, sig := zeros 171 }
def rdy : State := cmd { (hold1 i7) with sec := { keys := [(0, zeros 57)] } } p1 0x0301 32 [(8, 1, 3), (9, 1, 0), (10, 1, 1), (12, 2, 0), (16, 4, 8), (32, 8, 0)]

/-- The reader admits a head whose signature verifies: the check itself is a free value. -/
theorem test_ImagesLoad_admits (h : Config.ed448Verify (slice hdOk.sig 114 57) (manifestDigest hdOk) (slice hdOk.sig 0 114) = true) :
    Ready rdy p1 0x0301 32 ∧ heldCmd rdy p1 0x0301 = none ∧ busMaster rdy p1.pf = true ∧ reqN rdy p1 9 1 = 0 ∧ reqN rdy p1 12 2 = partId rdy ∧
    loadCheck rdy p1 = none ∧ instOf rdy (reqN rdy p1 8 1) = some i7 ∧
    headReason rdy i7 hdOk (reqN rdy p1 16 4) (reqN rdy p1 32 8 % 2 ^ 64)
      ((mapFind rdy.ladle.groups (reqN rdy p1 10 1)).elim 0 (fun g => g.ids.length)) = 0 := by
  refine ⟨ready_of (by decide), by decide, by decide, by decide, by decide, by decide, by decide, ?_⟩
  unfold headReason
  rw [if_neg (by decide +kernel), if_neg (by decide +kernel), if_neg (by decide +kernel), if_neg (by rw [h]; decide), if_neg (by decide +kernel)]

end Checks

end Sys2Proof.Tests
end

section
/-! SUPPORT. Clear registers: what a list of clear bits, the clear of one flag and the drop of a core's busy remainder do to
the registers and to the rest of the state. -/

namespace Sys2Proof.Machine

theorem onUnit_of_true {ok : Bool} (h : ok = true) (s : State) : onUnit ok s = .next s := if_pos h

/-! ### A list of clear bits -/

/-- The clear bits of a register, one after the other, each with its registers. -/
def clearGroups (w : W32) (gs : List (Nat × List Nat)) (s : State) : State :=
  gs.foldl (fun s g => clearIf w g.1 g.2 s) s

@[simp] theorem clearGroups_nil (w : W32) (s : State) : clearGroups w [] s = s := rfl

@[simp] theorem clearGroups_cons (w : W32) (g : Nat × List Nat) (gs : List (Nat × List Nat)) (s : State) :
    clearGroups w (g :: gs) s = clearGroups w gs (clearIf w g.1 g.2 s) := rfl

theorem clearIf_butWords (w : W32) (bit : Nat) (os : List Nat) (s : State) : (clearIf w bit os s).butWords = s.butWords := by
  rw [clearIf_eq]; rfl

theorem rd_clearGroups (w : W32) (gs : List (Nat × List Nat)) (s : State) (p : Nat) :
    rd (clearGroups w gs s) p = if gs.any (fun g => fld w g.1 g.1 == 1 && g.2.contains p) then 0 else rd s p := by
  induction gs generalizing s with
  | nil => simp
  | cons g gs ih =>
    rw [clearGroups_cons, ih, rd_clearIf, List.any_cons]
    by_cases hg : fld w g.1 g.1 = 1 ∧ p ∈ g.2
    · simp [hg]
    · have hb : (fld w g.1 g.1 == 1 && g.2.contains p) = false := by simpa using hg
      rw [if_neg hg, hb, Bool.false_or]

/-- A register that no clear bit names. -/
theorem rd_clearGroups_of_notMem (w : W32) {gs : List (Nat × List Nat)} (s : State) {p : Nat} (h : ∀ g ∈ gs, p ∉ g.2) :
    rd (clearGroups w gs s) p = rd s p := by
  rw [rd_clearGroups, if_neg]
  simp only [List.any_eq_true, Bool.and_eq_true, List.contains_iff_mem]
  rintro ⟨g, hg, -, hp⟩
  exact h g hg hp

theorem clearGroups_butWords (w : W32) (gs : List (Nat × List Nat)) (s : State) :
    (clearGroups w gs s).butWords = s.butWords := by
  induction gs generalizing s with
  | nil => rfl
  | cons g gs ih => rw [clearGroups_cons, ih, clearIf_butWords]

/-- Groups cleared one after the other are cleared as a clear register says: no group brings back what another cleared. -/
theorem clearsWords_clearGroups (w : W32) (gs : List (Nat × List Nat)) (s : State) :
    ClearsWords w gs s (clearGroups w gs s) :=
  ⟨rd_clearGroups w gs s, clearGroups_butWords w gs s⟩

/-- A clear register of a unit that the part has; of a register that stands once, `ok` is true. -/
theorem exists_clearsWords {a : Answer} {ok : Bool} {w : W32} {gs : List (Nat × List Nat)} {s : State} (hok : ok = true)
    (ha : a = onUnit ok (clearGroups w gs s)) : ∃ t, a = .next t ∧ ClearsWords w gs s t :=
  ⟨clearGroups w gs s, ha.trans (onUnit_of_true hok _), clearsWords_clearGroups w gs s⟩

/-! ### The clear of one flag -/

/-- A clear bit of a flag: a written 1 clears bit `i` of a register. -/
def clearFlagIf (w : W32) (bit o i : Nat) (s : State) : State := if fld w bit bit = 1 then wbit s o i false else s

theorem rd_clearFlagIf_ne (w : W32) (bit i : Nat) {o p : Nat} (s : State) (h : p ≠ o) :
    rd (clearFlagIf w bit o i s) p = rd s p := by
  unfold clearFlagIf
  split
  · exact rd_wbit_ne s i false h
  · rfl

/-- What the clear of a flag leaves in its register depends on that register alone. -/
theorem rd_clearFlagIf_congr (w : W32) (bit i : Nat) {o : Nat} {s t : State} (h : rd t o = rd s o) :
    rd (clearFlagIf w bit o i t) o = rd (clearFlagIf w bit o i s) o := by
  unfold clearFlagIf
  split
  · simp [wbit, wrF, h]
  · exact h

theorem rdF_clearFlagIf_flag (w : W32) (bit o : Nat) {i : Nat} (s : State) (hi : i < 32) :
    rdF (clearFlagIf w bit o i s) o i i = if fld w bit bit = 1 then 0 else rdF s o i i := by
  unfold clearFlagIf
  split
  · simp [wbit, rdF_wrF_same s o _ hi (Nat.le_refl i)]
  · rfl

theorem rdF_clearFlagIf_below (w : W32) (bit o lo : Nat) {i hi : Nat} (s : State) (hi32 : i < 32) (hlt : hi < i) :
    rdF (clearFlagIf w bit o i s) o hi lo = rdF s o hi lo := by
  unfold clearFlagIf
  split
  · exact rdF_wrF_other s o _ hi32 (Nat.le_refl i) (by omega) (Or.inl hlt)
  · rfl

theorem clearFlagIf_butWords (w : W32) (bit o i : Nat) (s : State) : (clearFlagIf w bit o i s).butWords = s.butWords := by
  unfold clearFlagIf
  split <;> rfl

/-- States that agree but in their words differ by their words alone. -/
theorem eq_withWords_of_butWords {s t : State} (h : t.butWords = s.butWords) : t = { s with cw := t.cw } :=
  congrArg (fun u : State => { u with cw := t.cw }) h

/-! ### The busy remainder of a core -/

/-- A clear bit of a core's busy clocks: a written 1 drops the clocks beyond the last unit (log 41). -/
def dropBusyIf (w : W32) (bit site : Nat) (s : State) : State :=
  if fld w bit bit = 1 then modCore s site (fun c => { c with busyRem := [] }) else s

/-- A clear leaves the cores. -/
theorem cores_of_butWords {s t : State} (h : t.butWords = s.butWords) : t.cores = s.cores :=
  show t.butWords.cores = s.butWords.cores from congrArg State.cores h

theorem dropBusyIf_cw (w : W32) (bit site : Nat) (s : State) : (dropBusyIf w bit site s).cw = s.cw := by
  unfold dropBusyIf
  split <;> rfl

theorem busyRem_dropBusyIf (w : W32) (bit site : Nat) (s : State) :
    (coreAt (dropBusyIf w bit site s) site).busyRem = if fld w bit bit = 1 then [] else (coreAt s site).busyRem := by
  unfold dropBusyIf
  split
  · simp [modCore, setCore, coreAt]
  · rfl

/-- Blanks the words and the cores. -/
def butWordsCores (s : State) : State := { s.butWords with cores := [] }

theorem butWordsCores_of_butWords {s t : State} (h : t.butWords = s.butWords) : butWordsCores t = butWordsCores s :=
  congrArg (fun u : State => { u with cores := [] }) h

theorem dropBusyIf_butWordsCores (w : W32) (bit site : Nat) (s : State) :
    butWordsCores (dropBusyIf w bit site s) = butWordsCores s := by
  unfold dropBusyIf
  split <;> rfl

/-- States that agree but in their words and cores differ by these alone. -/
theorem eq_withWordsCores {s t : State} (h : butWordsCores t = butWordsCores s) :
    t = { s with cw := t.cw, cores := t.cores } :=
  congrArg (fun u : State => { u with cw := t.cw, cores := t.cores }) h

end Sys2Proof.Machine
end

section
/-! SUPPORT. The two clear registers that clear a flag too: an engine's and a stack's. -/

namespace Sys2Proof.Machine

/-! ### A digital engine (05 Table 05.7) -/

/-- The order of an engine's clears: the VALID flag goes between the groups of words, the busy remainder after the first. -/
theorem engClr_eq (s : State) (site : Nat) (v : W32) :
    engClr s site v = clearGroups v [(3, [engReg site 0x40]), (4, [engReg site 0x44, engReg site 0x48])]
      (clearFlagIf v 2 (engReg site 0x38) 31 (clearGroups v [(1, [engReg site 0x2C]), (2, [engReg site 0x30, engReg site 0x34])]
        (dropBusyIf v 0 site (clearIf v 0 (words (engReg site 0x10) 7) s)))) := rfl

theorem rd_engClr_of_ne (s : State) (site : Nat) (v : W32) {p : Nat} (hp : p ≠ engReg site 0x38) :
    rd (engClr s site v) p =
      if (fld v 0 0 = 1 ∧ p ∈ words (engReg site 0x10) 7) ∨ (fld v 1 1 = 1 ∧ p = engReg site 0x2C) ∨
        (fld v 2 2 = 1 ∧ (p = engReg site 0x30 ∨ p = engReg site 0x34)) ∨ (fld v 3 3 = 1 ∧ p = engReg site 0x40) ∨
        (fld v 4 4 = 1 ∧ (p = engReg site 0x44 ∨ p = engReg site 0x48)) then 0 else rd s p := by
  have hdrop := rd_of_cw (dropBusyIf_cw v 0 site (clearIf v 0 (words (engReg site 0x10) 7) s)) p
  rw [engClr_eq, rd_clearGroups, rd_clearFlagIf_ne _ _ _ _ hp, rd_clearGroups, hdrop, rd_clearIf]
  simp only [List.any_cons, List.any_nil, List.contains_eq_mem, List.mem_cons, List.not_mem_nil, Bool.or_eq_true,
    Bool.and_eq_true, beq_iff_eq, decide_eq_true_eq, or_false, Bool.false_eq_true]
  grind

/-- Of `CS_ECC_ADDR` only VALID can change: no group of words holds the register. -/
theorem rd_engClr_eccAddr (s : State) (site : Nat) (v : W32) :
    rd (engClr s site v) (engReg site 0x38) = rd (clearFlagIf v 2 (engReg site 0x38) 31 s) (engReg site 0x38) := by
  have hbusy : rd (clearIf v 0 (words (engReg site 0x10) 7) s) (engReg site 0x38) = rd s (engReg site 0x38) :=
    rd_clearGroups_of_notMem v (gs := [(0, words (engReg site 0x10) 7)]) s (by simp [words, engReg]; omega)
  rw [engClr_eq, rd_clearGroups_of_notMem _ _ (by simp [engReg])]
  apply rd_clearFlagIf_congr
  rw [rd_clearGroups_of_notMem _ _ (by simp [engReg]), rd_of_cw (dropBusyIf_cw v 0 site _), hbusy]

theorem rdF_engClr_eccValid (s : State) (site : Nat) (v : W32) :
    rdF (engClr s site v) (engReg site 0x38) 31 31 = if fld v 2 2 = 1 then 0 else rdF s (engReg site 0x38) 31 31 := by
  rw [rdF, rd_engClr_eccAddr]
  exact rdF_clearFlagIf_flag v 2 _ s (by decide)

theorem rdF_engClr_eccWord (s : State) (site : Nat) (v : W32) :
    rdF (engClr s site v) (engReg site 0x38) 16 0 = rdF s (engReg site 0x38) 16 0 := by
  rw [rdF, rd_engClr_eccAddr]
  exact rdF_clearFlagIf_below v 2 _ 0 s (by decide) (by decide)

theorem engClr_butWords (s : State) (site : Nat) (v : W32) :
    (engClr s site v).butWords = (dropBusyIf v 0 site (clearIf v 0 (words (engReg site 0x10) 7) s)).butWords := by
  rw [engClr_eq, clearGroups_butWords, clearFlagIf_butWords, clearGroups_butWords]

theorem busyRem_engClr (s : State) (site : Nat) (v : W32) :
    (coreAt (engClr s site v) site).busyRem = if fld v 0 0 = 1 then [] else (coreAt s site).busyRem := by
  have hcores := cores_of_butWords (engClr_butWords s site v)
  have hfirst := cores_of_butWords (clearIf_butWords v 0 (words (engReg site 0x10) 7) s)
  have hdrop := busyRem_dropBusyIf v 0 site (clearIf v 0 (words (engReg site 0x10) 7) s)
  unfold coreAt at hdrop ⊢
  rw [hcores, hdrop, hfirst]

theorem engClr_frame (s : State) (site : Nat) (v : W32) :
    engClr s site v = { s with cw := (engClr s site v).cw, cores := (engClr s site v).cores } := by
  apply eq_withWordsCores
  calc butWordsCores (engClr s site v)
      = butWordsCores (dropBusyIf v 0 site (clearIf v 0 (words (engReg site 0x10) 7) s)) :=
        butWordsCores_of_butWords (engClr_butWords s site v)
    _ = butWordsCores (clearIf v 0 (words (engReg site 0x10) 7) s) := dropBusyIf_butWordsCores _ _ _ _
    _ = butWordsCores s := butWordsCores_of_butWords (clearIf_butWords _ _ _ _)

/-! ### A stack (09 Table 09.10) -/

/-- The clears of a stack's register in their order, VALID of `SK_MEM_ADDR` between the groups of words. -/
def skClr (s : State) (n : Nat) (v : W32) : State :=
  clearGroups v [(1, words (skReg n 0x14) 3)]
    (clearFlagIf v 0 (skReg n 0x10) 31 (clearGroups v [(0, [skReg n 8, skReg n 0x0C])] s))

theorem execSkCntClr_eq {n : Nat} (hn : n < 24) (v : W32) (s : State) : execSkCntClr n v s = .next (skClr s n v) :=
  onUnit_of_true (decide_eq_true hn) _

theorem rd_skClr_of_ne (s : State) (n : Nat) (v : W32) {p : Nat} (hp : p ≠ skReg n 0x10) :
    rd (skClr s n v) p =
      if (fld v 0 0 = 1 ∧ (p = skReg n 8 ∨ p = skReg n 0x0C)) ∨ (fld v 1 1 = 1 ∧ p ∈ words (skReg n 0x14) 3) then 0
      else rd s p := by
  rw [skClr, rd_clearGroups, rd_clearFlagIf_ne _ _ _ _ hp, rd_clearGroups]
  simp only [List.any_cons, List.any_nil, List.contains_eq_mem, List.mem_cons, List.not_mem_nil, Bool.or_false,
    Bool.and_eq_true, beq_iff_eq, decide_eq_true_eq, or_false]
  grind

/-- Of `SK_MEM_ADDR` only VALID can change: no group of words holds the register. -/
theorem rd_skClr_memAddr (s : State) (n : Nat) (v : W32) :
    rd (skClr s n v) (skReg n 0x10) = rd (clearFlagIf v 0 (skReg n 0x10) 31 s) (skReg n 0x10) := by
  rw [skClr, rd_clearGroups_of_notMem _ _ (by simp [words, skReg]; omega)]
  apply rd_clearFlagIf_congr
  rw [rd_clearGroups_of_notMem _ _ (by simp [skReg])]

theorem rdF_skClr_memValid (s : State) (n : Nat) (v : W32) :
    rdF (skClr s n v) (skReg n 0x10) 31 31 = if fld v 0 0 = 1 then 0 else rdF s (skReg n 0x10) 31 31 := by
  rw [rdF, rd_skClr_memAddr]
  exact rdF_clearFlagIf_flag v 0 _ s (by decide)

theorem rdF_skClr_memLine (s : State) (n : Nat) (v : W32) :
    rdF (skClr s n v) (skReg n 0x10) 30 0 = rdF s (skReg n 0x10) 30 0 := by
  rw [rdF, rd_skClr_memAddr]
  exact rdF_clearFlagIf_below v 0 _ 0 s (by decide) (by decide)

theorem skClr_butWords (s : State) (n : Nat) (v : W32) : (skClr s n v).butWords = s.butWords := by
  rw [skClr, clearGroups_butWords, clearFlagIf_butWords, clearGroups_butWords]

end Sys2Proof.Machine
end

section
/-! PROOF. O60: what a write of each clear register does. -/

namespace Sys2Proof.Machine

/-- Settles O60: every clear register but an engine's and a stack's is a list of clear bits, each with its counters; these
two clear a flag besides. -/
theorem clearRegisters : Obligations.ClearRegisters := by
  unfold Obligations.ClearRegisters
  refine ⟨?tile, ?edge, ?sfb, ?spoon, ?eng, ?ch, ?cal, ?mesh, ?router, ?sp, ?sk, ?fab, ?fp, ?ld, ?lf, ?sv, ?img, ?hk, ?sec,
    ?bt, ?flt⟩
  case spoon | ch | cal | mesh | sp | fab | ld | lf | img | hk | sec | bt | flt =>
    exact fun s v => exists_clearsWords rfl rfl
  case sfb | router | fp | sv =>
    exact fun s n v hn => exists_clearsWords (decide_eq_true hn) rfl
  case tile =>
    exact fun s site slot v htile => exists_clearsWords htile rfl
  case edge =>
    exact fun s site slot v hsite hslot => exists_clearsWords (by simp [hsite, hslot]) rfl
  case eng =>
    exact fun s site v hsite =>
      ⟨engClr s site v, onUnit_of_true (decide_eq_true hsite) _, fun p hp => rd_engClr_of_ne s site v hp,
        rdF_engClr_eccValid s site v, rdF_engClr_eccWord s site v, busyRem_engClr s site v, engClr_frame s site v⟩
  case sk =>
    exact fun s n v hn =>
      ⟨skClr s n v, execSkCntClr_eq hn v s, fun p hp => rd_skClr_of_ne s n v hp, rdF_skClr_memValid s n v,
        rdF_skClr_memLine s n v, eq_withWords_of_butWords (skClr_butWords s n v)⟩

end Sys2Proof.Machine
end

section
/-! SUPPORT. Tables, rising lists and folds over the state. -/

namespace Sys2Proof.Machine

/-! ### Tables -/

theorem mapGet_mapDel_same {α : Type} (d : α) (m : SMap α) (i : Nat) : mapGet d (mapDel m i) i = d := by
  simp [mapGet]

theorem mapGet_mapDel_ne {α : Type} (d : α) (m : SMap α) {i j : Nat} (h : j ≠ i) : mapGet d (mapDel m i) j = mapGet d m j := by
  unfold mapGet; rw [mapFind_mapDel_ne m h]

theorem mem_of_mapFind {α : Type} {m : SMap α} {i : Nat} {v : α} (h : mapFind m i = some v) : (i, v) ∈ m := by
  induction m with
  | nil => simp [mapFind] at h
  | cons e m ih =>
    unfold mapFind at h
    split at h
    · rename_i hk; subst hk; cases h; exact List.mem_cons_self
    · exact List.mem_cons_of_mem e (ih h)

theorem mem_of_mem_mapDel {α : Type} {m : SMap α} {i : Nat} {p : Nat × α} (h : p ∈ mapDel m i) : p ∈ m := by
  induction m with
  | nil => exact h
  | cons e m ih =>
    unfold mapDel at h
    split at h
    · exact List.mem_cons_of_mem e (ih h)
    · exact (List.mem_cons.mp h).elim (fun h => h ▸ List.mem_cons_self) (fun h => List.mem_cons_of_mem e (ih h))

theorem mem_of_mem_mapSet {α : Type} {m : SMap α} {i : Nat} {v : α} {p : Nat × α} (h : p ∈ mapSet m i v) : p = (i, v) ∨ p ∈ m := by
  induction m with
  | nil => exact .inl (List.mem_singleton.mp h)
  | cons e m ih =>
    unfold mapSet at h
    split at h
    · exact (List.mem_cons.mp h).imp_right (List.mem_cons_of_mem e)
    · split at h
      · exact List.mem_cons.mp h
      · rcases List.mem_cons.mp h with h | h
        · exact .inr (h ▸ List.mem_cons_self)
        · exact (ih h).imp_right (List.mem_cons_of_mem e)

theorem mem_of_mem_mapPut {α : Type} [DecidableEq α] {d : α} {m : SMap α} {i : Nat} {v : α} {p : Nat × α} (h : p ∈ mapPut d m i v) :
    p = (i, v) ∨ p ∈ m := by
  unfold mapPut at h
  split at h
  · exact .inr (mem_of_mem_mapDel h)
  · exact mem_of_mem_mapSet h

/-! ### Rising lists -/

theorem mem_setAdd {l : List Nat} {x y : Nat} : y ∈ setAdd l x ↔ y = x ∨ y ∈ l := by
  induction l with
  | nil => simp [setAdd]
  | cons z l ih =>
    unfold setAdd
    split
    · rename_i h; subst h; simp
    · split
      · simp
      · simp only [List.mem_cons, ih]; tauto

/-! ### Folds over the state -/

/-- Of a step that keeps a view of the state, so does its repetition. -/
theorem foldl_view {α β : Type} {v : State → β} {f : State → α → State} {l : List α}
    (hf : ∀ a ∈ l, ∀ s, v (f s a) = v s) (s : State) : v (l.foldl f s) = v s := by
  induction l generalizing s with
  | nil => rfl
  | cons a l ih =>
    rw [List.foldl_cons, ih (fun b hb => hf b (List.mem_cons_of_mem a hb)), hf a List.mem_cons_self]

/-- A fold takes element `a` in some state; where no other element touches a view, the view is the one that `a` leaves. -/
theorem foldl_view_at {α β : Type} {v : State → β} {f : State → α → State} {l : List α} {a : α} (hnd : l.Nodup) (ha : a ∈ l)
    (hf : ∀ b ∈ l, b ≠ a → ∀ s, v (f s b) = v s) (s : State) : ∃ u, v u = v s ∧ v (l.foldl f s) = v (f u a) := by
  induction l generalizing s with
  | nil => simp at ha
  | cons b l ih =>
    obtain ⟨hb, hnd⟩ := List.nodup_cons.mp hnd
    have hl : ∀ c ∈ l, c ≠ a → ∀ s, v (f s c) = v s := fun c hc => hf c (List.mem_cons_of_mem b hc)
    rw [List.foldl_cons]
    by_cases hba : b = a
    · subst hba
      exact ⟨s, rfl, foldl_view (fun c hc => hl c hc (fun e => hb (e ▸ hc))) _⟩
    · obtain ⟨u, hu, hlast⟩ := ih hnd ((List.mem_cons.mp ha).resolve_left (Ne.symm hba)) hl (f s b)
      exact ⟨u, hu.trans (hf b List.mem_cons_self hba s), hlast⟩

end Sys2Proof.Machine
end

section
/-! SUPPORT. Tiles, cores and arrays: a read after a write of the same unit and of another. -/

namespace Sys2Proof.Machine

variable (s : State) {j k : Nat}

/-! ### Tiles -/

@[simp] theorem tileAt_setTile_same (x : TileSt) : tileAt (setTile s k x) k = x := mapGet_mapPut_same _ _ _ _

theorem tileAt_setTile_ne (x : TileSt) (h : j ≠ k) : tileAt (setTile s k x) j = tileAt s j := mapGet_mapPut_ne _ _ _ _ h

@[simp] theorem tileAt_modTile_same (f : TileSt → TileSt) : tileAt (modTile s k f) k = f (tileAt s k) :=
  tileAt_setTile_same s _

theorem tileAt_modTile_ne (f : TileSt → TileSt) (h : j ≠ k) : tileAt (modTile s k f) j = tileAt s j :=
  tileAt_setTile_ne s _ h

/-- A tile is a matter of the tiles alone. -/
theorem tileAt_of_tiles {s t : State} (h : t.tiles = s.tiles) (k : Nat) : tileAt t k = tileAt s k := by
  unfold tileAt; rw [h]

/-- Of a change that keeps some view of a tile, every tile keeps the view. -/
theorem tileAt_modTile_view {β : Type} {v : TileSt → β} {f : TileSt → TileSt} (hf : ∀ x, v (f x) = v x) (j k : Nat) :
    v (tileAt (modTile s k f) j) = v (tileAt s j) := by
  by_cases h : j = k
  · subst h; rw [tileAt_modTile_same, hf]
  · rw [tileAt_modTile_ne s f h]

/-! ### Cores -/

@[simp] theorem coreAt_setCore_same (x : CoreSt) : coreAt (setCore s k x) k = x := mapGet_mapPut_same _ _ _ _

theorem coreAt_setCore_ne (x : CoreSt) (h : j ≠ k) : coreAt (setCore s k x) j = coreAt s j := mapGet_mapPut_ne _ _ _ _ h

@[simp] theorem coreAt_modCore_same (f : CoreSt → CoreSt) : coreAt (modCore s k f) k = f (coreAt s k) :=
  coreAt_setCore_same s _

theorem coreAt_modCore_ne (f : CoreSt → CoreSt) (h : j ≠ k) : coreAt (modCore s k f) j = coreAt s j :=
  coreAt_setCore_ne s _ h

/-! ### Arrays -/

theorem arrayAt_setArray_ne (a : ArraySt) (h : j ≠ k) : arrayAt (setArray s k a) j = arrayAt s j :=
  mapGet_mapPut_ne _ _ _ _ h

theorem arrayAt_of_arrays {s t : State} (h : t.arrays = s.arrays) (k : Nat) : arrayAt t k = arrayAt s k := by
  unfold arrayAt; rw [h]

/-! ### All but the words and the tiles -/

/-- Blanks the words and the tiles. -/
def butWordsTiles (s : State) : State := { s.butWords with tiles := [] }

@[simp] theorem butWordsTiles_wr (o : Nat) (v : W32) : butWordsTiles (wr s o v) = butWordsTiles s := rfl
@[simp] theorem butWordsTiles_wrF (o hi lo v : Nat) : butWordsTiles (wrF s o hi lo v) = butWordsTiles s := rfl
@[simp] theorem butWordsTiles_wbit (o i : Nat) (b : Bool) : butWordsTiles (wbit s o i b) = butWordsTiles s := rfl
@[simp] theorem butWordsTiles_incHold (o n b : Nat) : butWordsTiles (incHold s o n b) = butWordsTiles s := rfl
@[simp] theorem butWordsTiles_setTile (k : Nat) (x : TileSt) : butWordsTiles (setTile s k x) = butWordsTiles s := rfl
@[simp] theorem butWordsTiles_modTile (k : Nat) (f : TileSt → TileSt) : butWordsTiles (modTile s k f) = butWordsTiles s := rfl

/-- States that agree but in their words and tiles differ by these alone. -/
theorem eq_withWordsTiles {s t : State} (h : butWordsTiles t = butWordsTiles s) :
    t = { s with cw := t.cw, tiles := t.tiles } :=
  congrArg (fun u : State => { u with cw := t.cw, tiles := t.tiles }) h

theorem act_of_butWordsTiles {s t : State} (h : butWordsTiles t = butWordsTiles s) : t.act = s.act := (congrArg State.act h :)
theorem faults_of_butWordsTiles {s t : State} (h : butWordsTiles t = butWordsTiles s) : t.faults = s.faults :=
  (congrArg State.faults h :)
theorem arrays_of_butWordsTiles {s t : State} (h : butWordsTiles t = butWordsTiles s) : t.arrays = s.arrays :=
  (congrArg State.arrays h :)

/-! ### Registers of a tile's block (02 R62) -/

theorem tileReg_ne {a b : Nat} (h : a ≠ b) : tileReg k a ≠ tileReg k b := by unfold tileReg; omega

/-- The blocks of the tiles lie below those of the rest of the window. -/
theorem tileReg_lt {a : Nat} (h : a < 0x2000) : tileReg k a < 0x0E000000 := by unfold tileReg; omega

/-- A field in force is a matter of the copies in force. -/
theorem rdFA_of_act {s t : State} (h : t.act = s.act) (o hi lo : Nat) : rdFA t o hi lo = rdFA s o hi lo := by
  unfold rdFA rdA; rw [h]

/-! ### Chains (02 R51) -/

theorem tkey_inj {site a b : Nat} : tkey site a = tkey site b ↔ a = b := by unfold tkey; omega

/-- Chains are a matter of the tiles and of the copies in force (02 R51). -/
theorem chainMembers_congr {s t : State} (hact : t.act = s.act) (htiles : t.tiles = s.tiles) (site head : Nat) :
    chainMembers t site head = chainMembers s site head := by
  have h : chainMembers t site head = chainMembers { s with act := t.act, tiles := t.tiles } site head := rfl
  rw [h, hact, htiles]

theorem isHead_congr {s t : State} (hact : t.act = s.act) (htiles : t.tiles = s.tiles) {site : Nat} (haway : coreAway t site = coreAway s site)
    (head : Nat) : isHead t site head = isHead s site head := by
  simp only [isHead, chainMembers_congr hact htiles, haway, ownerSlot, tileAt, htiles]

theorem nodup_chainMembers (site head : Nat) : (chainMembers s site head).Nodup := by
  unfold chainMembers
  dsimp only
  split
  · simp
  · exact List.Nodup.filter _ List.nodup_range

theorem head_mem_chainMembers {s : State} {site head : Nat} (h : isHead s site head = true) :
    head ∈ chainMembers s site head := by
  simp only [isHead, Bool.and_eq_true, beq_iff_eq] at h
  exact List.mem_of_head? h.2

end Sys2Proof.Machine
end

section
/-! PROOF. O46: what a column close does to the chain. -/

namespace Sys2Proof.Machine

/-! ### The chain goes on with the next vector -/

/-- A tile that goes on to the next vector (02 R42, 04 Table 04.4). -/
def toNextVector (step : W64) (x : TileSt) : TileSt := { x with work := x.next, next := {}, lastStep := step }

theorem clearWork_cons (site : Nat) (step : W64) (n : Nat) (ms : List Nat) (s : State) :
    clearWork site step (n :: ms) s = clearWork site step ms (modTile s (tkey site n) (toNextVector step)) := rfl

theorem clearWork_cw (site : Nat) (step : W64) (ms : List Nat) (s : State) : (clearWork site step ms s).cw = s.cw := by
  induction ms generalizing s with
  | nil => rfl
  | cons n ms ih => rw [clearWork_cons, ih, modTile_cw]

theorem butWordsTiles_clearWork (site : Nat) (step : W64) (ms : List Nat) (s : State) :
    butWordsTiles (clearWork site step ms s) = butWordsTiles s := by
  induction ms generalizing s with
  | nil => rfl
  | cons n ms ih => rw [clearWork_cons, ih, butWordsTiles_modTile]

theorem tileAt_clearWork_of_notMem (site : Nat) (step : W64) {ms : List Nat} (s : State) {k : Nat}
    (h : ∀ n ∈ ms, k ≠ tkey site n) : tileAt (clearWork site step ms s) k = tileAt s k := by
  induction ms generalizing s with
  | nil => rfl
  | cons n ms ih =>
    rw [clearWork_cons, ih _ (fun m hm => h m (List.mem_cons_of_mem n hm)),
      tileAt_modTile_ne _ _ (h n List.mem_cons_self)]

theorem tileAt_clearWork_of_mem (site : Nat) (step : W64) {ms : List Nat} (s : State) (hnd : ms.Nodup) {n : Nat}
    (h : n ∈ ms) : tileAt (clearWork site step ms s) (tkey site n) = toNextVector step (tileAt s (tkey site n)) := by
  induction ms generalizing s with
  | nil => simp at h
  | cons m ms ih =>
    obtain ⟨hm, hnd⟩ := List.nodup_cons.mp hnd
    rw [clearWork_cons]
    rcases List.mem_cons.mp h with rfl | h
    · rw [tileAt_clearWork_of_notMem _ _ _ (fun x hx e => hm (by rwa [tkey_inj.mp e])), tileAt_modTile_same]
    · have hne : tkey site n ≠ tkey site m := fun e => hm (tkey_inj.mp e ▸ h)
      rw [ih _ hnd h, tileAt_modTile_ne _ _ hne]

/-! ### The close -/

/-- Blanks the words, the tiles and the cores. -/
def butWork (s : State) : State := { butWordsTiles s with cores := [] }

theorem butWork_of_butWordsTiles {s t : State} (h : butWordsTiles t = butWordsTiles s) : butWork t = butWork s :=
  congrArg (fun u : State => { u with cores := [] }) h

/-- States that agree but in words, tiles and cores differ by these alone. -/
theorem eq_withWork {s t : State} (h : butWork t = butWork s) : t = { s with cw := t.cw, tiles := t.tiles, cores := t.cores } :=
  congrArg (fun u : State => { u with cw := t.cw, tiles := t.tiles, cores := t.cores }) h

/-- A capture is a matter of the cores. -/
theorem closeCapture_butCores (s : State) (site head : Nat) (outs : List W16) :
    { closeCapture s site head outs with cores := [] } = { s with cores := [] } := by
  unfold closeCapture
  split
  · split <;> rfl
  · rfl

section CloseCapture

variable (s : State) (site head : Nat) (outs : List W16)

theorem closeCapture_cw : (closeCapture s site head outs).cw = s.cw :=
  (congrArg State.cw (closeCapture_butCores s site head outs) :)

theorem closeCapture_act : (closeCapture s site head outs).act = s.act :=
  (congrArg State.act (closeCapture_butCores s site head outs) :)

theorem closeCapture_tiles : (closeCapture s site head outs).tiles = s.tiles :=
  (congrArg State.tiles (closeCapture_butCores s site head outs) :)

theorem butWork_closeCapture : butWork (closeCapture s site head outs) = butWork s :=
  congrArg (fun u : State => { u with cw := [], tiles := [] }) (closeCapture_butCores s site head outs)

end CloseCapture

/-- What the periphery of the tile that runs a slot's passes makes of the slot's accumulators. -/
def closeOut (s : State) (k : Nat) : List W16 × List Byte × Nat := periphery (periCfg s (physTile s k)) (wideAt (tileAt s k))

/-- The head's tile once its outputs stand in the output buffer (02 R55-R59, R41). -/
def closedTile (p : PeriCfg) (r : List W16 × List Byte × Nat) (t : TileSt) : TileSt :=
  { t with wide := [], outBuf := r.1, outScales := r.2.1, outSeg := packedOut p r.1 r.2.1, nextVec := t.nextVec + 1 }

/-- The capture is filled, and the outputs stand in the head's output buffer. -/
def closeStored (s : State) (site head : Nat) : State :=
  let c := closeCapture s site head (closeOut s (tkey site head)).1
  modTile c (tkey site head) (closedTile (periCfg c (physTile s (tkey site head))) (closeOut s (tkey site head)))

/-- A close but for the move to the next vector: the outputs that saturate are counted. -/
def closeFormed (s : State) (site head : Nat) : State :=
  incHold (closeStored s site head) (tileReg (physTile s (tkey site head)) 0x48) 16 (closeOut s (tkey site head)).2.2

theorem columnClose_of_closable {s : State} {site head : Nat} (h : closable s site head = true) :
    columnClose s site head =
      clearWork site (stepAt (closeStored s site head) (tkey site head)) (chainMembers s site head) (closeFormed s site head) := by
  rw [columnClose, if_pos h, ← chainMembers_congr (closeCapture_act s site head (closeOut s (tkey site head)).1) (closeCapture_tiles ..)]
  rfl

theorem tileAt_closeFormed_head (s : State) (site head : Nat) :
    tileAt (closeFormed s site head) (tkey site head) =
      closedTile (periCfg (closeCapture s site head (closeOut s (tkey site head)).1) (physTile s (tkey site head)))
        (closeOut s (tkey site head)) (tileAt s (tkey site head)) := by
  rw [closeFormed, tileAt_of_tiles (incHold_tiles ..), closeStored, tileAt_modTile_same, tileAt_of_tiles (closeCapture_tiles ..)]

theorem tileAt_closeFormed_ne (s : State) {site head k : Nat} (h : k ≠ tkey site head) :
    tileAt (closeFormed s site head) k = tileAt s k := by
  rw [closeFormed, tileAt_of_tiles (incHold_tiles ..), closeStored, tileAt_modTile_ne _ _ h, tileAt_of_tiles (closeCapture_tiles ..)]

/-- The second run of the narrow adder is not the close's (02 R42). -/
theorem next_closeFormed (s : State) (site head k : Nat) :
    (tileAt (closeFormed s site head) k).next = (tileAt s k).next := by
  by_cases h : k = tkey site head
  · rw [h, tileAt_closeFormed_head]; rfl
  · rw [tileAt_closeFormed_ne s h]

theorem butWork_closeFormed (s : State) (site head : Nat) : butWork (closeFormed s site head) = butWork s := by
  rw [closeFormed, butWork_of_butWordsTiles (butWordsTiles_incHold ..), closeStored,
    butWork_of_butWordsTiles (butWordsTiles_modTile ..), butWork_closeCapture]

theorem rd_closeStored (s : State) (site head p : Nat) : rd (closeStored s site head) p = rd s p :=
  rd_of_cw ((modTile_cw ..).trans (closeCapture_cw ..)) p

theorem rd_closeFormed_count (s : State) (site head : Nat) :
    rd (closeFormed s site head) (tileReg (physTile s (tkey site head)) 0x48) =
      BitVec.ofNat 32 (Nat.min ((rd s (tileReg (physTile s (tkey site head)) 0x48)).toNat + (closeOut s (tkey site head)).2.2) 0xFFFF) := by
  rw [closeFormed, rd_incHold_same, rd_closeStored]
  rfl

theorem rd_closeFormed_ne (s : State) {site head p : Nat} (h : p ≠ tileReg (physTile s (tkey site head)) 0x48) :
    rd (closeFormed s site head) p = rd s p := by
  rw [closeFormed, rd_incHold_ne _ _ _ h, rd_closeStored]

theorem closable_eq_true {s : State} {site head : Nat} (hh : isHead s site head = true)
    (hp : (workOf s (tkey site head)).promoted = true)
    (hd : ∀ n ∈ chainMembers s site head, (workOf s (tkey site n)).sieveDue = false ∧ (workOf s (tkey site n)).deltaDue = false) :
    closable s site head = true := by
  have hall : (chainMembers s site head).all
      (fun t => !(workOf s (tkey site t)).sieveDue && !(workOf s (tkey site t)).deltaDue) = true :=
    List.all_eq_true.mpr fun n hn => by simp [hd n hn]
  simp [closable, hh, hp, hall]

theorem closable_eq_false {s : State} {site head : Nat}
    (h : (workOf s (tkey site head)).promoted = false ∨ ∃ n ∈ chainMembers s site head, (workOf s (tkey site n)).sieveDue = true) :
    closable s site head = false := by
  rcases h with h | ⟨n, hn, h⟩
  · simp [closable, h]
  · have : (chainMembers s site head).all
        (fun t => !(workOf s (tkey site t)).sieveDue && !(workOf s (tkey site t)).deltaDue) = false :=
      List.all_eq_false.mpr ⟨n, hn, by simp [h]⟩
    simp [closable, this]

theorem execColumnClose_eq {site head : Nat} (hs : site < 800) (hh : head < 16) (s : State) :
    exec (.columnClose site head) s = .next (columnClose s site head) :=
  onUnit_of_true (by simp [hs, hh]) _

/-- Settles O46: a close forms the outputs at the head, and every member goes on to its second run. -/
theorem columnsClose : Obligations.ColumnsClose := by
  refine ⟨fun s site head hsite hhead hh hp hd => ?closes, fun s site head hsite hhead h => ?waits⟩
  case waits =>
    rw [execColumnClose_eq hsite hhead, columnClose, closable_eq_false h]
    rfl
  case closes =>
    have hmem := head_mem_chainMembers hh
    have hnd := nodup_chainMembers s site head
    refine ⟨_, execColumnClose_eq hsite hhead s, ?_⟩
    rw [columnClose_of_closable (closable_eq_true hh hp hd)]
    generalize stepAt (closeStored s site head) (tkey site head) = step
    have hhd := tileAt_clearWork_of_mem site step (closeFormed s site head) hnd hmem
    rw [tileAt_closeFormed_head] at hhd
    refine ⟨by rw [hhd]; rfl, by rw [hhd]; rfl, fun c => by rw [hhd]; rfl, by rw [hhd]; rfl, fun n hn => ?members, ?count,
      fun p hp => ?words, fun k hk => ?others, ?rest⟩
    case members =>
      rw [workOf, tileAt_clearWork_of_mem site step _ hnd hn]
      exact ⟨next_closeFormed s site head _, rfl⟩
    case count =>
      rw [rd_of_cw (clearWork_cw ..), rd_closeFormed_count]
      rfl
    case words =>
      rw [rd_of_cw (clearWork_cw ..), rd_closeFormed_ne s (by simpa using hp)]
    case others =>
      rw [tileAt_clearWork_of_notMem site step _ hk, tileAt_closeFormed_ne s (hk head hmem)]
    case rest =>
      exact eq_withWork ((butWork_of_butWordsTiles (butWordsTiles_clearWork ..)).trans (butWork_closeFormed ..))

end Sys2Proof.Machine
end

section
/-! PROOF. O47: promotion, and what the wide accumulators take. -/

namespace Sys2Proof.Machine

/-- A sum that does not fit 32 bits (02 R53). -/
theorem sat32_bne (x : Int) : (sat32 x != x) = decide (x < -2147483648 ∨ 2147483647 < x) := by
  rw [Bool.eq_iff_iff, bne_iff_ne, decide_eq_true_iff, sat32, clampI]
  split
  · omega
  · split <;> omega

theorem wideAt_wideAdd (t : TileSt) (f : Nat → Int) {c : Nat} (h : c < 512) :
    wideAt (wideAdd t f).1 c = sat32 (wideAt t c + f c) := by
  simp [wideAdd, wideAt, h]

/-- The saturations that are counted are those of the columns whose sum does not fit. -/
theorem wideAdd_count (t : TileSt) (f : Nat → Int) :
    (wideAdd t f).2 = ((List.range 512).filter
      (fun c => decide (wideAt t c + f c < -2147483648 ∨ 2147483647 < wideAt t c + f c))).length := by
  simp only [wideAdd, List.filter_map, List.length_map]
  congr 2
  funext c
  exact sat32_bne _

section WideAddCount

variable (s : State) (site head : Nat) (f : Nat → Int)

theorem butWordsTiles_wideAddCount : butWordsTiles (wideAddCount s site head f) = butWordsTiles s := by
  rw [wideAddCount, butWordsTiles_incHold, butWordsTiles_setTile]

theorem tileAt_wideAddCount_head : tileAt (wideAddCount s site head f) (tkey site head) = (wideAdd (tileAt s (tkey site head)) f).1 := by
  rw [wideAddCount, tileAt_of_tiles (incHold_tiles ..), tileAt_setTile_same]

theorem tileAt_wideAddCount_ne {j : Nat} (h : j ≠ tkey site head) : tileAt (wideAddCount s site head f) j = tileAt s j := by
  rw [wideAddCount, tileAt_of_tiles (incHold_tiles ..), tileAt_setTile_ne _ _ h]

theorem rd_wideAddCount_count : rd (wideAddCount s site head f) (tileReg (physTile s (tkey site head)) 0x44) =
    BitVec.ofNat 32 (Nat.min ((rd s (tileReg (physTile s (tkey site head)) 0x44)).toNat +
      (wideAdd (tileAt s (tkey site head)) f).2) 0xFFFF) := by
  rw [wideAddCount, rd_incHold_same]
  rfl

theorem rd_wideAddCount_ne {p : Nat} (h : p ≠ tileReg (physTile s (tkey site head)) 0x44) :
    rd (wideAddCount s site head f) p = rd s p := by
  rw [wideAddCount, rd_incHold_ne _ _ _ h]
  rfl

end WideAddCount

/-! ### The mark of a promoted run -/

section MarkPromoted

variable (s : State) (site head : Nat)

theorem butWordsTiles_markPromoted : butWordsTiles (markPromoted s site head) = butWordsTiles s := rfl

theorem rd_markPromoted (p : Nat) : rd (markPromoted s site head) p = rd s p := rfl

theorem tileAt_markPromoted_head : tileAt (markPromoted s site head) (tkey site head) =
    { tileAt s (tkey site head) with work := { workOf s (tkey site head) with promoted := true } } :=
  tileAt_modTile_same s _

theorem tileAt_markPromoted_ne {j : Nat} (h : j ≠ tkey site head) : tileAt (markPromoted s site head) j = tileAt s j :=
  tileAt_modTile_ne s _ h

theorem wideAt_markPromoted_head (c : Nat) :
    wideAt (tileAt (markPromoted s site head) (tkey site head)) c = wideAt (tileAt s (tkey site head)) c := by
  rw [tileAt_markPromoted_head]; rfl

theorem promoted_markPromoted : (workOf (markPromoted s site head) (tkey site head)).promoted = true := by
  rw [workOf, tileAt_markPromoted_head]

end MarkPromoted

/-! ### The promotion -/

/-- What a promotion adds to a column: the chain's run, scaled by the column's step and the slice's shift (02 R53). -/
def promotedSum (s : State) (site head c : Nat) : Int :=
  chainSum s site (chainMembers s site head) c *
    2 ^ (colStep s (physTile s (tkey site head)) c + (workOf s (tkey site head)).shift)

theorem execChainPromotion_of_promotable {s : State} {site head : Nat} (hs : site < 800) (hh : head < 16)
    (hp : promotable s site head = true) (hv : chainInvalid s site head = false) :
    exec (.chainPromotion site head) s =
      .next (markPromoted (wideAddCount s site head (promotedSum s site head)) site head) := by
  have e : exec (.chainPromotion site head) s = .next (chainPromote s site head) := onUnit_of_true (by simp [hs, hh]) _
  rw [e, chainPromote, hp, hv]
  rfl

theorem wideAt_promote (s : State) (site head : Nat) (f : Nat → Int) {c : Nat} (hc : c < 512) :
    wideAt (tileAt (markPromoted (wideAddCount s site head f) site head) (tkey site head)) c =
      sat32 (wideAt (tileAt s (tkey site head)) c + f c) := by
  rw [wideAt_markPromoted_head, tileAt_wideAddCount_head, wideAt_wideAdd _ _ hc]

theorem rd_promote_count (s : State) (site head : Nat) (f : Nat → Int) :
    rd (markPromoted (wideAddCount s site head f) site head) (tileReg (physTile s (tkey site head)) 0x44) =
      BitVec.ofNat 32 (Nat.min ((rd s (tileReg (physTile s (tkey site head)) 0x44)).toNat + ((List.range 512).filter (fun c =>
        decide (wideAt (tileAt s (tkey site head)) c + f c < -2147483648 ∨
          2147483647 < wideAt (tileAt s (tkey site head)) c + f c))).length) 0xFFFF) := by
  rw [rd_markPromoted, ← wideAdd_count]
  exact rd_wideAddCount_count s site head f

/-- Settles O47: the run goes into the wide accumulators once, and marking it promoted touches nothing else. -/
theorem promotionAddsTheRun : Obligations.PromotionAddsTheRun := by
  intro s site head hsite hhead hp hv
  refine ⟨_, execChainPromotion_of_promotable hsite hhead hp hv,
    ⟨fun c hc => wideAt_promote s site head (promotedSum s site head) hc, rd_promote_count s site head (promotedSum s site head)⟩,
    promoted_markPromoted _ site head, fun p hp => ?words, fun j hj => ?others, ?rest⟩
  case words =>
    exact (rd_markPromoted _ site head p).trans (rd_wideAddCount_ne s site head _ (List.ne_of_not_mem_cons hp))
  case others =>
    exact (tileAt_markPromoted_ne _ site head hj).trans (tileAt_wideAddCount_ne s site head _ hj)
  case rest =>
    exact eq_withWordsTiles ((butWordsTiles_markPromoted _ site head).trans (butWordsTiles_wideAddCount s site head _))

end Sys2Proof.Machine
end

section
/-! SUPPORT. Fault records, and the reads of registers that they leave: a record is there after it is written, and only
registers of the fault block change. -/

namespace Sys2Proof.Machine

variable (s : State) (f : FaultInfo)

theorem rd_signal (pf v p : Nat) : rd (signal s pf v) p = rd s p := rd_of_cw (signal_cw s pf v) p

/-- A recurrence stays in the record that is there (20 R460). -/
theorem exists_mem_coalesce {e : Nat} {f : FaultInfo} {l : List FaultRec} (h : l.any (sameFault e f) = true) :
    ∃ r ∈ coalesce e f l, r.cause = f.cause ∧ r.unit = f.unit := by
  induction l with
  | nil => simp at h
  | cons r l ih =>
    unfold coalesce
    split
    · rename_i hr
      simp only [sameFault, Bool.and_eq_true, beq_iff_eq] at hr
      obtain ⟨⟨⟨-, hcause⟩, hunit⟩, -⟩ := hr
      exact ⟨_, List.mem_cons_self, hcause, hunit⟩
    · rename_i hr
      rw [List.any_cons, Bool.or_eq_true] at h
      obtain ⟨x, hx, hc⟩ := ih (h.resolve_left hr)
      exact ⟨x, List.mem_cons_of_mem r hx, hc⟩

theorem mem_keepFault (r : FaultRec) : r ∈ (keepFault s r).faults := by
  unfold keepFault
  split
  · simp
  · rw [incHold_faults]; simp

theorem rd_keepFault_ne (r : FaultRec) {p : Nat} (h : p ≠ fltReg 0x1C) : rd (keepFault s r) p = rd s p := by
  unfold keepFault
  split
  · rfl
  · exact rd_incHold_ne _ _ _ h

/-- The counts of a new record: its sequence number, and the class's counter. -/
def countFault (s : State) (cls : Nat) : State :=
  let s := incWrap s (fltReg 8) 1
  let s := if cls = 1 then incHold s (fltReg 0x10) 32 1 else s
  if cls = 2 then incHold s (fltReg 0x14) 32 1 else s

theorem incHold_butWords (o n b : Nat) : (incHold s o n b).butWords = s.butWords := rfl
theorem incWrap_butWords (o b : Nat) : (incWrap s o b).butWords = s.butWords := rfl

theorem countFault_butWords (cls : Nat) : (countFault s cls).butWords = s.butWords := by
  simp only [countFault, apply_ite State.butWords, incHold_butWords, incWrap_butWords, ite_self]

theorem rd_countFault_of_lt (cls : Nat) {p : Nat} (h : p < 0x0F000000) : rd (countFault s cls) p = rd s p := by
  have hne : ∀ o, p ≠ fltReg o := fun o => by unfold fltReg; omega
  unfold countFault
  dsimp only
  split <;> split <;> simp [rd_incHold_ne, rd_incWrap_ne, hne]

/-- A fault is recorded: it recurs in its record, or a record is written, counted and signalled (20 R459, R460). -/
theorem faultRecord_eq : faultRecord s f =
    if s.faults.any (sameFault (faultEpoch s) f) then { s with faults := coalesce (faultEpoch s) f s.faults }
    else signal (signal (countFault (keepFault s (newFault s f)) f.cls) 0 64) 1 8 := rfl

theorem exists_mem_faultRecord : ∃ r ∈ (faultRecord s f).faults, r.cause = f.cause ∧ r.unit = f.unit := by
  rw [faultRecord_eq]
  split
  · rename_i h; exact exists_mem_coalesce h
  · have hf : (countFault (keepFault s (newFault s f)) f.cls).faults = (keepFault s (newFault s f)).faults :=
      (congrArg State.faults (countFault_butWords _ _) :)
    refine ⟨newFault s f, ?_, rfl, rfl⟩
    rw [signal_faults, signal_faults, hf]
    exact mem_keepFault s _

theorem rd_faultRecord_of_lt {p : Nat} (h : p < 0x0F000000) : rd (faultRecord s f) p = rd s p := by
  rw [faultRecord_eq]
  split
  · rfl
  · rw [rd_signal, rd_signal, rd_countFault_of_lt _ _ h, rd_keepFault_ne _ _ (by unfold fltReg; omega)]

/-- Blanks what a fault record may change: the records, the words and the interrupts. -/
def butFaults (s : State) : State := { s.butReplyWords with faults := [] }

theorem keepFault_butFaults (r : FaultRec) : butFaults (keepFault s r) = butFaults s := by
  unfold keepFault
  split <;> rfl

theorem faultRecord_butFaults : butFaults (faultRecord s f) = butFaults s := by
  have hsig : ∀ (u : State) (pf v : Nat), butFaults (signal u pf v) = butFaults u := fun u pf v =>
    congrArg (fun t : State => { t with cw := [], faults := [] }) (signal_butReply u pf v)
  have hcount : ∀ (u : State) (c : Nat), butFaults (countFault u c) = butFaults u := fun u c =>
    congrArg (fun t : State => { t.butReplyWords with faults := [] }) (countFault_butWords u c)
  rw [faultRecord_eq]
  split
  · rfl
  · rw [hsig, hsig, hcount, keepFault_butFaults]

theorem faultRecord_arrays : (faultRecord s f).arrays = s.arrays := (congrArg State.arrays (faultRecord_butFaults s f) :)

end Sys2Proof.Machine
end

section
/-! SUPPORT. The rotating spare converter (02 R48, R49): what a move of the rotation changes. -/

namespace Sys2Proof.Machine

variable (s : State) (k i : Nat)

/-! ### A move of the rotation -/

theorem butWordsTiles_setRot : butWordsTiles (setRot s k i) = butWordsTiles s :=
  (butWordsTiles_modTile _ k _).trans (butWordsTiles_wr s _ _)

theorem rd_setRot_ne {p : Nat} (h : p ≠ tileReg k 0x18) : rd (setRot s k i) p = rd s p :=
  (rd_of_cw (modTile_cw ..) p).trans (rd_wr_ne s _ h)

theorem tileAt_setRot_same : tileAt (setRot s k i) k = { tileAt s k with dwell := 0, dwellFails := 0 } := by
  rw [setRot, tileAt_modTile_same, tileAt_of_tiles (wr_tiles ..)]

theorem tileAt_setRot_ne {j : Nat} (h : j ≠ k) : tileAt (setRot s k i) j = tileAt s j :=
  (tileAt_modTile_ne _ _ h).trans (tileAt_of_tiles (wr_tiles ..) j)

theorem butWordsTiles_rotAdvance : butWordsTiles (rotAdvance s k i) = butWordsTiles s := butWordsTiles_setRot s k _

theorem rd_rotAdvance_ne {p : Nat} (h : p ≠ tileReg k 0x18) : rd (rotAdvance s k i) p = rd s p := rd_setRot_ne s k _ h

theorem tileAt_rotAdvance_same : tileAt (rotAdvance s k i) k = { tileAt s k with dwell := 0, dwellFails := 0 } :=
  tileAt_setRot_same s k _

theorem tileAt_rotAdvance_ne {j : Nat} (h : j ≠ k) : tileAt (rotAdvance s k i) j = tileAt s j := tileAt_setRot_ne s k _ h

/-! ### Its start -/

theorem butWordsTiles_rotStart : butWordsTiles (rotStart s k) = butWordsTiles s := by
  unfold rotStart
  split
  · exact butWordsTiles_setRot s k _
  · rfl

theorem rotStart_act : (rotStart s k).act = s.act := (congrArg State.act (butWordsTiles_rotStart s k) :)
theorem rotStart_arrays : (rotStart s k).arrays = s.arrays := (congrArg State.arrays (butWordsTiles_rotStart s k) :)

theorem rd_rotStart_ne {p : Nat} (h : p ≠ tileReg k 0x18) : rd (rotStart s k) p = rd s p := by
  unfold rotStart
  split
  · exact rd_setRot_ne s k _ h
  · rfl

theorem tileAt_rotStart_ne {j : Nat} (h : j ≠ k) : tileAt (rotStart s k) j = tileAt s j := by
  unfold rotStart
  split
  · exact tileAt_setRot_ne s k _ h
  · rfl

theorem rdFA_rotStart (p hi lo : Nat) : rdFA (rotStart s k) p hi lo = rdFA s p hi lo := by
  unfold rdFA rdA; rw [rotStart_act]

theorem calStatus_rotStart (hi lo : Nat) : calStatus (rotStart s k) k hi lo = calStatus s k hi lo := by
  unfold calStatus rdF; rw [rd_rotStart_ne s k (tileReg_ne (by decide))]

theorem tileState_rotStart : tileState (rotStart s k) k = tileState s k := by
  unfold tileState rdF; rw [rd_rotStart_ne s k (tileReg_ne (by decide))]

theorem setsAgree_rotStart (a : AdcSets) : setsAgree (rotStart s k) a = setsAgree s a := by
  have hlt := tileReg_lt (k := k) (a := 0x18) (by decide)
  unfold setsAgree adcAgree rdF
  rw [rd_rotStart_ne s k (by unfold calReg; omega)]

end Sys2Proof.Machine
end

section
/-! SUPPORT. A column moves to a spare column (02 R36, 07 R170): the entry that names it, and what else the move leaves. -/

namespace Sys2Proof.Machine

variable (s : State) (k : Nat)

/-- The register of a spare column's entry in `TILE_COLMAP`. -/
abbrev mapReg (k n : Nat) : Nat := tileReg k (0x20 + 4 * n)

/-! ### Entries come into force -/

/-- Entry `n` waits no longer. -/
def entryNow (k : Nat) (s : State) (n : Nat) : State := if rbit s (mapReg k n) 16 then wbit s (mapReg k n) 16 false else s

theorem butWordsTiles_entryNow (n : Nat) : butWordsTiles (entryNow k s n) = butWordsTiles s := by
  unfold entryNow
  split
  · exact butWordsTiles_wbit s _ 16 false
  · rfl

theorem rd_entryNow_ne {n p : Nat} (h : p ≠ mapReg k n) : rd (entryNow k s n) p = rd s p := by
  unfold entryNow
  split
  · exact rd_wbit_ne s 16 false h
  · rfl

/-- Of an entry only WAIT can change. -/
theorem rdF_entryNow_below (n p : Nat) {hi : Nat} (lo : Nat) (hhi : hi < 16) :
    rdF (entryNow k s n) p hi lo = rdF s p hi lo := by
  by_cases h : p = mapReg k n
  · subst h
    unfold entryNow
    split
    · exact rdF_wrF_other s _ _ (by decide) (Nat.le_refl 16) (by omega) (Or.inl hhi)
    · rfl
  · unfold rdF; rw [rd_entryNow_ne s k h]

/-- Every entry waits no longer. -/
def entriesNow (s : State) (k : Nat) : State := (List.range 8).foldl (entryNow k) s

theorem butWordsTiles_entriesNow : butWordsTiles (entriesNow s k) = butWordsTiles s :=
  foldl_view (fun n _ s => butWordsTiles_entryNow s k n) s

theorem rd_entriesNow_ne {p : Nat} (h : ∀ n < 8, p ≠ mapReg k n) : rd (entriesNow s k) p = rd s p :=
  foldl_view (v := (rd · p)) (fun n hn s => rd_entryNow_ne s k (h n (List.mem_range.mp hn))) s

theorem rdF_entriesNow_below (p : Nat) {hi : Nat} (lo : Nat) (hhi : hi < 16) :
    rdF (entriesNow s k) p hi lo = rdF s p hi lo :=
  foldl_view (v := (rdF · p hi lo)) (fun n _ s => rdF_entryNow_below s k n p lo hhi) s

theorem butWordsTiles_rotResume : butWordsTiles (rotResume s k) = butWordsTiles s := by
  unfold rotResume
  dsimp only
  split
  · split
    · split
      · rfl
      · rw [butWordsTiles_rotAdvance, setCalStatus, butWordsTiles_wrF]
    · exact butWordsTiles_rotAdvance s k _
  · rfl

theorem rd_rotResume_ne {p : Nat} (hrot : p ≠ tileReg k 0x18) (hcal : p ≠ tileReg k 0x1000) :
    rd (rotResume s k) p = rd s p := by
  unfold rotResume
  dsimp only
  split
  · split
    · split
      · rfl
      · rw [rd_rotAdvance_ne _ _ _ hrot]; exact rd_wrF_ne s _ _ _ hcal
    · exact rd_rotAdvance_ne _ _ _ hrot
  · rfl

/-- The rotation moves on, or resumes, once every entry is in force. -/
theorem colmapNow_eq : ∃ c : Bool,
    colmapNow s k = if c then rotAdvance (entriesNow s k) k (rotPos s k) else rotResume (entriesNow s k) k := ⟨_, rfl⟩

theorem butWordsTiles_colmapNow : butWordsTiles (colmapNow s k) = butWordsTiles s := by
  obtain ⟨c, h⟩ := colmapNow_eq s k
  rw [h]
  split
  · rw [butWordsTiles_rotAdvance, butWordsTiles_entriesNow]
  · rw [butWordsTiles_rotResume, butWordsTiles_entriesNow]

theorem rd_colmapNow_of_entriesNow {p : Nat} (hrot : p ≠ tileReg k 0x18) (hcal : p ≠ tileReg k 0x1000) :
    rd (colmapNow s k) p = rd (entriesNow s k) p := by
  obtain ⟨c, h⟩ := colmapNow_eq s k
  rw [h]
  split
  · exact rd_rotAdvance_ne _ _ _ hrot
  · exact rd_rotResume_ne _ _ hrot hcal

/-! ### The entry of a column -/

theorem butWordsTiles_dropEntry (c n : Nat) (wait : Bool) (i : Nat) :
    butWordsTiles (dropEntry s k c n wait i) = butWordsTiles s := by
  unfold dropEntry
  dsimp only
  split
  · exact butWordsTiles_wrF s _ 16 15 _
  · rfl

/-- The entry that is being written is not dropped; no other register is touched. -/
theorem rd_dropEntry_ne {c n i p : Nat} {wait : Bool} (h : p ≠ mapReg k i ∨ i = n) :
    rd (dropEntry s k c n wait i) p = rd s p := by
  unfold dropEntry
  dsimp only
  split
  · rename_i hd
    exact rd_wrF_ne s _ _ _ (h.resolve_right hd.1)
  · rfl

/-- A spare column is written, and every other entry of column `c` goes. -/
def columnWritten (s : State) (k n c : Nat) (lv : Nat → Nat × Nat) : State :=
  (List.range 8).foldl (fun u i => dropEntry u k c n (colmapWaits s k) i)
    (setArray s k (putColumn (arrayAt s k) (512 + n) lv))

/-- The entry of the column stands, with VALID and WAIT. -/
def entered (s : State) (k n c : Nat) (lv : Nat → Nat × Nat) : State :=
  incHold (wr (columnWritten s k n c lv) (mapReg k n) (BitVec.ofNat 32 (c + 0x18000))) (chReg 0x24) 16 1

theorem mapSpare_eq (n c : Nat) (lv : Nat → Nat × Nat) : mapSpare s k n c lv =
    if colmapWaits s k then entered s k n c lv else colmapNow (entered s k n c lv) k := rfl

section Entered

variable {n : Nat} (c : Nat) (lv : Nat → Nat × Nat)

theorem butWordsTiles_columnWritten : butWordsTiles (columnWritten s k n c lv) =
    butWordsTiles (setArray s k (putColumn (arrayAt s k) (512 + n) lv)) :=
  foldl_view (fun i _ u => butWordsTiles_dropEntry u k c n _ i) _

theorem rd_columnWritten_ne {p : Nat} (h : ∀ i < 8, p ≠ mapReg k i) : rd (columnWritten s k n c lv) p = rd s p := by
  have hset : rd (setArray s k (putColumn (arrayAt s k) (512 + n) lv)) p = rd s p := rd_of_cw (setArray_cw ..) p
  rw [← hset]
  exact foldl_view (v := (rd · p)) (fun i hi u => rd_dropEntry_ne u k (Or.inl (h i (List.mem_range.mp hi)))) _

theorem butWordsTiles_entered : butWordsTiles (entered s k n c lv) =
    butWordsTiles (setArray s k (putColumn (arrayAt s k) (512 + n) lv)) := by
  rw [entered, butWordsTiles_incHold, butWordsTiles_wr, butWordsTiles_columnWritten]

theorem chReg_ne_of_lt {p a : Nat} (h : p < 0x0E000000) : p ≠ chReg a := by unfold chReg; omega

theorem mapReg_lt (hn : n < 8) : mapReg k n < 0x0E000000 := tileReg_lt (by omega)

theorem rd_entered_entry (hn : n < 8) : rd (entered s k n c lv) (mapReg k n) = BitVec.ofNat 32 (c + 0x18000) :=
  (rd_incHold_ne _ _ _ (chReg_ne_of_lt (mapReg_lt k hn))).trans (rd_wr_same _ _ _)

theorem rd_entered_ne {p : Nat} (hn : n < 8) (hp : p < 0x0E000000) (h : ∀ i < 8, p ≠ mapReg k i) :
    rd (entered s k n c lv) p = rd s p := by
  rw [entered, rd_incHold_ne _ _ _ (chReg_ne_of_lt hp), rd_wr_ne _ _ (h n hn), rd_columnWritten_ne s k c lv h]

end Entered

/-! ### What the move leaves -/

/-- Leaves the tiles' registers, the arrays and the fault records. -/
structure KeepsUnits (s t : State) : Prop where
  words  : ∀ p < 0x0E000000, rd t p = rd s p
  arrays : t.arrays = s.arrays
  faults : t.faults = s.faults

theorem KeepsUnits.refl (s : State) : KeepsUnits s s := ⟨fun _ _ => rfl, rfl, rfl⟩

theorem KeepsUnits.trans {s t u : State} (h : KeepsUnits s t) (h' : KeepsUnits t u) : KeepsUnits s u :=
  ⟨fun p hp => (h'.words p hp).trans (h.words p hp), h'.arrays.trans h.arrays, h'.faults.trans h.faults⟩

theorem keepsUnits_incHold_chReg (a n b : Nat) : KeepsUnits s (incHold s (chReg a) n b) :=
  ⟨fun _ hp => rd_incHold_ne s n b (chReg_ne_of_lt hp), incHold_arrays .., incHold_faults ..⟩

theorem keepsUnits_signal (pf v : Nat) : KeepsUnits s (signal s pf v) :=
  ⟨fun p _ => rd_signal s pf v p, signal_arrays s pf v, signal_faults s pf v⟩

theorem keepsUnits_keepResid (r : ResidualRec) : KeepsUnits s (keepResid s r) := ⟨fun _ _ => rfl, rfl, rfl⟩

theorem keepsUnits_useFreeN (n : Nat) : KeepsUnits s (useFreeN n s) := ⟨fun _ _ => rfl, rfl, rfl⟩

theorem keepsUnits_modTile (j : Nat) (f : TileSt → TileSt) : KeepsUnits s (modTile s j f) :=
  ⟨fun p _ => rd_of_cw (modTile_cw ..) p, modTile_arrays .., modTile_faults ..⟩

theorem keepsUnits_dropRows (m : Nat) (gone : Nat → Bool) : KeepsUnits s (dropRows s m gone) :=
  ⟨fun p _ => rd_of_cw (modCore_cw ..) p, modCore_arrays .., modCore_faults ..⟩

theorem keepsUnits_keepResids (rs : List ResidualRec) : KeepsUnits s (rs.foldl keepResid s) := by
  induction rs generalizing s with
  | nil => exact .refl s
  | cons r rs ih => exact (keepsUnits_keepResid s r).trans (ih (keepResid s r))

theorem keepsUnits_postResids (rs : List ResidualRec) : KeepsUnits s (postResids s rs) := by
  unfold postResids
  split
  · exact .refl s
  · exact ((keepsUnits_keepResids s _).trans (keepsUnits_incHold_chReg _ _ _ _)).trans (keepsUnits_signal _ _ _)

theorem keepsUnits_shadowResiduals (rs : List Residual) : KeepsUnits s (shadowResiduals s k rs) := by
  unfold shadowResiduals
  split
  · exact .refl s
  · exact (keepsUnits_dropRows s _ _).trans (keepsUnits_modTile _ _ _)

/-- Beyond the entry, a move of a column touches counters, residual records and the shadow copy. -/
theorem keepsUnits_moveColumn (n c : Nat) : ∃ lv, KeepsUnits (mapSpare s k n c lv) (moveColumn s k n c) := by
  unfold moveColumn postResiduals
  exact ⟨_, (((keepsUnits_incHold_chReg _ _ _ _).trans (keepsUnits_useFreeN _ _)).trans (keepsUnits_postResids _ _)).trans
    (keepsUnits_shadowResiduals _ _ _)⟩

end Sys2Proof.Machine
end

section
/-! PROOF. O55: what a dwell of the rotating converter ends with. -/

namespace Sys2Proof.Machine

/-! ### A trim is written (07 R169, 02 R60) -/

/-- Blanks the words, the copies in force, the staged list and the tiles. -/
def butRegsTiles (s : State) : State := { s.butRegs with tiles := [] }

theorem butRegsTiles_of_butWordsTiles {s t : State} (h : butWordsTiles t = butWordsTiles s) :
    butRegsTiles t = butRegsTiles s :=
  congrArg (fun u : State => { u with act := [], stagedAt := [] }) h

/-- States that agree but in registers and tiles differ by these alone. -/
theorem eq_withRegsTiles {s t : State} (h : butRegsTiles t = butRegsTiles s) :
    t = { s with cw := t.cw, act := t.act, stagedAt := t.stagedAt, tiles := t.tiles } :=
  congrArg (fun u : State => { u with cw := t.cw, act := t.act, stagedAt := t.stagedAt, tiles := t.tiles }) h

section WrCal

variable (s : State) (serving : Bool) (o : Nat) (v : W32)

@[simp] theorem rd_wrCal_same : rd (wrCal s serving o v) o = v := by
  cases serving <;> exact rd_wr_same s o v

theorem rd_wrCal_ne {p : Nat} (h : p ≠ o) : rd (wrCal s serving o v) p = rd s p := by
  cases serving <;> exact rd_wr_ne s v h

theorem wrCal_tiles : (wrCal s serving o v).tiles = s.tiles := by cases serving <;> rfl

theorem butRegsTiles_wrCal : butRegsTiles (wrCal s serving o v) = butRegsTiles s := by cases serving <;> rfl

/-- On a serving tile the word waits for its boundary. -/
theorem wrCal_act_of_serving : (wrCal s true o v).act = s.act := rfl

end WrCal

/-! ### The dwell that counts -/

/-- The rotation is in use and not stopped, the tile can run passes, and a serving one has run the dwell's eight (02 R48, R49). -/
structure DwellRuns (s : State) (k : Nat) : Prop where
  rotates : rdFA s (tileReg k 0) 13 13 ≠ 0
  moving  : calStatus s k 9 9 ≠ 1
  state   : tileState s k ∉ [0, 4, 5]
  passes  : tileState s k = 2 → 8 ≤ (tileAt (rotStart s k) k).dwell

/-- The register of the trims of converter `i` (02 Table 02.13). -/
abbrev trimReg (k i : Nat) : Nat := tileReg k (0x1200 + 4 * i)

/-- The trims are taken, and the next dwell begins. -/
def dwellAgrees (u : State) (k : Nat) (a : AdcSets) : State :=
  rotAdvance (wrCal u (tileState u k == 2) (trimReg k (rotPos u k)) (trimWord u k (rotPos u k) a)) k (rotPos u k)

/-- The dwell is repeated, and the failure counted. -/
def dwellRepeats (u : State) (k : Nat) : State :=
  modTile (incHold u (tileReg k 0x101C) 16 1) k (fun t => { t with dwell := 0, dwellFails := t.dwellFails + 1 })

/-- The third failure in a row is counted, before the converter is marked. -/
def dwellFailed (u : State) (k : Nat) : State :=
  modTile (incHold u (tileReg k 0x101C) 16 1) k (fun t => { t with dwell := 0, dwellFails := 0 })

section DwellEnd

variable {s : State} {k : Nat} (a : AdcSets)

/-- Where the rotation is off or stopped, or the tile can run no passes, a dwell does nothing. -/
theorem dwellEnd_of_idle (h : rdFA s (tileReg k 0) 13 13 = 0 ∨ calStatus s k 9 9 = 1 ∨ tileState s k ∈ [0, 4, 5]) :
    dwellEnd s k a = s := by
  have hstop : rdFA (rotStart s k) (tileReg k 0) 13 13 = 0 ∨ calStatus (rotStart s k) k 9 9 = 1 ∨ tileState (rotStart s k) k = 0 ∨
      tileState (rotStart s k) k = 4 ∨ tileState (rotStart s k) k = 5 ∨
      (tileState (rotStart s k) k = 2 ∧ (tileAt (rotStart s k) k).dwell < 8) := by
    rw [rdFA_rotStart, calStatus_rotStart, tileState_rotStart]
    simp only [List.mem_cons, List.not_mem_nil, or_false] at h
    tauto
  rw [dwellEnd]
  exact if_pos hstop

theorem dwellEnd_of_runs (h : DwellRuns s k) : dwellEnd s k a =
    if setsAgree s a then dwellAgrees (rotStart s k) k a
    else if (tileAt (rotStart s k) k).dwellFails < 2 then dwellRepeats (rotStart s k) k
    else if rotPos (rotStart s k) k = 520 then spareConvFailed (dwellFailed (rotStart s k) k) k
    else convFailed (dwellFailed (rotStart s k) k) k (rotPos (rotStart s k) k) := by
  obtain ⟨hrot, hcal, hstate, hpass⟩ := h
  have hgo : ¬(rdFA (rotStart s k) (tileReg k 0) 13 13 = 0 ∨ calStatus (rotStart s k) k 9 9 = 1 ∨ tileState (rotStart s k) k = 0 ∨
      tileState (rotStart s k) k = 4 ∨ tileState (rotStart s k) k = 5 ∨
      (tileState (rotStart s k) k = 2 ∧ (tileAt (rotStart s k) k).dwell < 8)) := by
    rw [rdFA_rotStart, calStatus_rotStart, tileState_rotStart]
    simp only [List.mem_cons, List.not_mem_nil, or_false] at hstate
    have hnot : ¬(tileState s k = 2 ∧ (tileAt (rotStart s k) k).dwell < 8) := fun h => absurd (hpass h.1) (by omega)
    tauto
  rw [← setsAgree_rotStart s k a]
  exact if_neg hgo

end DwellEnd

/-! ### A dwell that agrees -/

section Agrees

variable (u : State) {k j p : Nat} (a : AdcSets)

theorem rd_dwellAgrees_trim : rd (dwellAgrees u k a) (trimReg k (rotPos u k)) = trimWord u k (rotPos u k) a := by
  rw [dwellAgrees, rd_rotAdvance_ne _ _ _ (tileReg_ne (by omega)), rd_wrCal_same]

theorem rd_dwellAgrees_ne (htrim : p ≠ trimReg k (rotPos u k)) (hrot : p ≠ tileReg k 0x18) :
    rd (dwellAgrees u k a) p = rd u p := by
  rw [dwellAgrees, rd_rotAdvance_ne _ _ _ hrot, rd_wrCal_ne _ _ _ _ htrim]

theorem tileAt_dwellAgrees_same : tileAt (dwellAgrees u k a) k = { tileAt u k with dwell := 0, dwellFails := 0 } := by
  rw [dwellAgrees, tileAt_rotAdvance_same, tileAt_of_tiles (wrCal_tiles ..)]

theorem tileAt_dwellAgrees_ne (h : j ≠ k) : tileAt (dwellAgrees u k a) j = tileAt u j := by
  rw [dwellAgrees, tileAt_rotAdvance_ne _ _ _ h, tileAt_of_tiles (wrCal_tiles ..)]

theorem dwellAgrees_act (h : tileState u k = 2) : (dwellAgrees u k a).act = u.act := by
  rw [dwellAgrees, h, act_of_butWordsTiles (butWordsTiles_rotAdvance ..)]
  exact wrCal_act_of_serving u _ _

theorem butRegsTiles_dwellAgrees : butRegsTiles (dwellAgrees u k a) = butRegsTiles u :=
  (butRegsTiles_of_butWordsTiles (butWordsTiles_rotAdvance ..)).trans (butRegsTiles_wrCal ..)

end Agrees

/-! ### The third failure in a row (07 R170) -/

/-- The converter is marked failed and the rotation stopped, and the fault recorded. -/
def convMarked (v : State) (k i : Nat) : State :=
  faultRecord (setCalStatus (signal (wbit v (trimReg k i) 30 true) 0 67) k 9 9 1)
    { cls := 1, cause := 10, unit := i, slot := k % 32
      inst := tileInst (setCalStatus (signal (wbit v (trimReg k i) 30 true) 0 67) k 9 9 1) k
      secure := tileSecure (setCalStatus (signal (wbit v (trimReg k i) 30 true) 0 67) k 9 9 1) k }

theorem convFailed_of_free {v : State} {k i n : Nat} (h : spareColFree (convMarked v k i) k = some n) (hi : i < 512) :
    convFailed v k i = moveColumn (convMarked v k i) k n i := by
  have e : convFailed v k i = match spareColFree (convMarked v k i) k with
      | some n => moveColumn (convMarked v k i) k n (logicalOf (convMarked v k i) k i)
      | none => calFailed (convMarked v k i) k := rfl
  rw [e, h]
  simp only [logicalOf, if_pos hi]

section ConvMarked

variable (v : State) {k i p : Nat}

theorem rd_convMarked_of_lt (hp : p < 0x0E000000) :
    rd (convMarked v k i) p = rd (setCalStatus (wbit v (trimReg k i) 30 true) k 9 9 1) p := by
  rw [convMarked, rd_faultRecord_of_lt _ _ (by omega)]
  unfold setCalStatus wrF
  rw [rd_signal, rd_wr, rd_wr, rd_signal]

theorem rd_convMarked_ne (hp : p < 0x0E000000) (htrim : p ≠ trimReg k i) (hcal : p ≠ tileReg k 0x1000) :
    rd (convMarked v k i) p = rd v p := by
  rw [rd_convMarked_of_lt v hp, setCalStatus, rd_wrF_ne _ _ _ _ hcal, rd_wbit_ne _ _ _ htrim]

theorem rbit_convMarked_failed (hi : i < 512) : rbit (convMarked v k i) (trimReg k i) 30 = true := by
  have hword : rd (convMarked v k i) (trimReg k i) = rd (wbit v (trimReg k i) 30 true) (trimReg k i) := by
    rw [rd_convMarked_of_lt v (tileReg_lt (by omega)), setCalStatus, rd_wrF_ne _ _ _ _ (tileReg_ne (by omega))]
  unfold rbit rdF
  rw [hword]
  exact rbit_wbit_same v (trimReg k i) true (by decide)

theorem calStatus_convMarked_stopped : calStatus (convMarked v k i) k 9 9 = 1 := by
  unfold calStatus rdF
  rw [rd_convMarked_of_lt v (tileReg_lt (by decide))]
  exact rdF_wrF_same _ _ 1 (by decide) (Nat.le_refl 9)

theorem convMarked_arrays : (convMarked v k i).arrays = v.arrays := by
  rw [convMarked, faultRecord_arrays, setCalStatus, wrF_arrays, signal_arrays, wbit_arrays]

theorem exists_mem_convMarked_faults : ∃ r ∈ (convMarked v k i).faults, r.cause = 10 ∧ r.unit = i :=
  exists_mem_faultRecord _ _

end ConvMarked

/-- Which spare column is free is a matter of the entries and of the spare columns' converters. -/
theorem spareColFree_congr {s t : State} {k : Nat} (hmap : ∀ n < 8, rd t (mapReg k n) = rd s (mapReg k n))
    (htrim : ∀ n < 8, rd t (trimReg k (512 + n)) = rd s (trimReg k (512 + n))) : spareColFree t k = spareColFree s k := by
  unfold spareColFree
  apply List.find?_congr
  intro n hn
  have hlt := List.mem_range.mp hn
  unfold rbit rdF
  rw [hmap n hlt, htrim n hlt]

theorem lt_of_spareColFree {s : State} {k n : Nat} (h : spareColFree s k = some n) : n < 8 :=
  List.mem_range.mp (List.mem_of_find?_eq_some h)

theorem spareColFree_convMarked (v : State) {k i : Nat} (hi : i < 512) :
    spareColFree (convMarked v k i) k = spareColFree v k := by
  apply spareColFree_congr
  · intro n hn
    exact rd_convMarked_ne v (mapReg_lt k hn) (tileReg_ne (by omega)) (tileReg_ne (by omega))
  · intro n hn
    exact rd_convMarked_ne v (tileReg_lt (by omega)) (tileReg_ne (by omega)) (tileReg_ne (by omega))

/-! ### The column moves -/

theorem fld_entry (c hi lo : Nat) (hc : c < 512) :
    fld (BitVec.ofNat 32 (c + 0x18000)) hi lo = (c + 0x18000) / 2 ^ lo % 2 ^ (hi + 1 - lo) := by
  unfold fld nbits
  rw [BitVec.toNat_ofNat, Nat.mod_eq_of_lt (a := c + 0x18000) (by omega)]

section MapSpare

variable (s : State) {k n c : Nat} (lv : Nat → Nat × Nat)

/-- No register of an entry, the rotation or the run status: a column's move leaves it. -/
theorem rd_mapSpare_ne {p : Nat} (hn : n < 8) (hp : p < 0x0E000000) (hmap : ∀ i < 8, p ≠ mapReg k i)
    (hrot : p ≠ tileReg k 0x18) (hcal : p ≠ tileReg k 0x1000) : rd (mapSpare s k n c lv) p = rd s p := by
  rw [mapSpare_eq]
  split
  · exact rd_entered_ne s k c lv hn hp hmap
  · rw [rd_colmapNow_of_entriesNow _ _ hrot hcal, rd_entriesNow_ne _ _ hmap, rd_entered_ne s k c lv hn hp hmap]

theorem rdF_mapSpare_entry (hn : n < 8) (hc : c < 512) {hi : Nat} (lo : Nat) (hhi : hi < 16) :
    rdF (mapSpare s k n c lv) (mapReg k n) hi lo = (c + 0x18000) / 2 ^ lo % 2 ^ (hi + 1 - lo) := by
  have hent : rdF (entered s k n c lv) (mapReg k n) hi lo = (c + 0x18000) / 2 ^ lo % 2 ^ (hi + 1 - lo) := by
    rw [rdF, rd_entered_entry s k c lv hn, fld_entry c hi lo hc]
  rw [mapSpare_eq]
  split
  · exact hent
  · rw [← hent, ← rdF_entriesNow_below (entered s k n c lv) k (mapReg k n) lo hhi, rdF,
      rd_colmapNow_of_entriesNow _ _ (tileReg_ne (by omega)) (tileReg_ne (by omega))]
    rfl

theorem mapSpare_of_waits (h : colmapWaits s k = true) : mapSpare s k n c lv = entered s k n c lv := by
  rw [mapSpare_eq, if_pos h]

theorem butWordsTiles_mapSpare : butWordsTiles (mapSpare s k n c lv) =
    butWordsTiles (setArray s k (putColumn (arrayAt s k) (512 + n) lv)) := by
  rw [mapSpare_eq]
  split
  · exact butWordsTiles_entered s k c lv
  · rw [butWordsTiles_colmapNow, butWordsTiles_entered]

theorem mapSpare_faults : (mapSpare s k n c lv).faults = s.faults :=
  (faults_of_butWordsTiles (butWordsTiles_mapSpare s lv)).trans (setArray_faults ..)

theorem arrayAt_mapSpare_ne {j : Nat} (h : j ≠ k) : arrayAt (mapSpare s k n c lv) j = arrayAt s j :=
  (arrayAt_of_arrays (arrays_of_butWordsTiles (butWordsTiles_mapSpare s lv)) j).trans (arrayAt_setArray_ne s _ h)

end MapSpare

/-! ### The converter that has failed -/

theorem colmapWaits_of_serving {s : State} {k : Nat} (h : tileState s k = 2) : colmapWaits s k = true := by
  simp [colmapWaits, h]

section ConvFailed

variable {v : State} {k i n : Nat}

/-- A failed converter's column is moved: what the marked state, the entry and the rest of the move leave (07 R170). -/
theorem keepsUnits_convFailed (hi : i < 512) (hfree : spareColFree v k = some n) :
    ∃ lv, KeepsUnits (mapSpare (convMarked v k i) k n i lv) (convFailed v k i) := by
  rw [convFailed_of_free ((spareColFree_convMarked v hi).trans hfree) hi]
  exact keepsUnits_moveColumn _ _ _ _

theorem rbit_convFailed_failed (hi : i < 512) (hfree : spareColFree v k = some n) :
    rbit (convFailed v k i) (trimReg k i) 30 = true := by
  obtain ⟨lv, hkeep⟩ := keepsUnits_convFailed hi hfree
  have hlt : trimReg k i < 0x0E000000 := tileReg_lt (by omega)
  rw [← rbit_convMarked_failed v hi, rbit, rdF, hkeep.words _ hlt, rd_mapSpare_ne _ lv (lt_of_spareColFree hfree) hlt
    (fun m hm => tileReg_ne (by omega)) (tileReg_ne (by omega)) (tileReg_ne (by omega))]
  rfl

theorem rdF_convFailed_entry (hi : i < 512) (hfree : spareColFree v k = some n) {a : Nat} (b : Nat) (ha : a < 16) :
    rdF (convFailed v k i) (mapReg k n) a b = (i + 0x18000) / 2 ^ b % 2 ^ (a + 1 - b) := by
  obtain ⟨lv, hkeep⟩ := keepsUnits_convFailed hi hfree
  have hn := lt_of_spareColFree hfree
  rw [← rdF_mapSpare_entry (convMarked v k i) lv hn hi b ha, rdF, hkeep.words _ (mapReg_lt k hn)]
  rfl

theorem exists_mem_convFailed_faults (hi : i < 512) (hfree : spareColFree v k = some n) :
    ∃ r ∈ (convFailed v k i).faults, r.cause = 10 ∧ r.unit = i := by
  obtain ⟨lv, hkeep⟩ := keepsUnits_convFailed hi hfree
  rw [hkeep.faults, mapSpare_faults]
  exact exists_mem_convMarked_faults v

theorem arrayAt_convFailed_ne (hi : i < 512) (hfree : spareColFree v k = some n) {j : Nat} (h : j ≠ k) :
    arrayAt (convFailed v k i) j = arrayAt v j := by
  obtain ⟨lv, hkeep⟩ := keepsUnits_convFailed hi hfree
  rw [arrayAt_of_arrays hkeep.arrays, arrayAt_mapSpare_ne _ lv h, arrayAt_of_arrays (convMarked_arrays v)]

/-- On a serving tile the entry waits for the boundary, and no register but the entries' changes. -/
theorem rd_convFailed_of_serving (hi : i < 512) (hfree : spareColFree v k = some n) (hst : tileState v k = 2) {p : Nat}
    (hp : p < 0x0E000000) (hmap : p = mapReg k n ∨ ∀ m < 8, p ≠ mapReg k m) : rd (convFailed v k i) p =
      if p = mapReg k n then BitVec.ofNat 32 (i + 0x18000) else rd (convMarked v k i) p := by
  obtain ⟨lv, hkeep⟩ := keepsUnits_convFailed hi hfree
  have hn := lt_of_spareColFree hfree
  have hstate : tileState (convMarked v k i) k = 2 := by
    rw [← hst, tileState, rdF, rd_convMarked_ne v (tileReg_lt (by decide)) (tileReg_ne (by omega)) (tileReg_ne (by decide))]
    rfl
  rw [hkeep.words _ hp, mapSpare_of_waits _ lv (colmapWaits_of_serving hstate)]
  rcases hmap with rfl | hmap
  · rw [if_pos rfl, rd_entered_entry _ _ _ _ hn]
  · rw [if_neg (hmap n hn), rd_entered_ne _ _ _ _ hn hp hmap]

theorem calStatus_convFailed_of_serving (hi : i < 512) (hfree : spareColFree v k = some n) (hst : tileState v k = 2) :
    calStatus (convFailed v k i) k 9 9 = 1 := by
  have hne : ∀ m < 8, tileReg k 0x1000 ≠ mapReg k m := fun m hm => tileReg_ne (by omega)
  rw [← calStatus_convMarked_stopped v (k := k) (i := i), calStatus, rdF,
    rd_convFailed_of_serving hi hfree hst (tileReg_lt (by decide)) (Or.inr hne), if_neg (hne n (lt_of_spareColFree hfree))]
  rfl

theorem rotPos_convFailed_of_serving (hi : i < 512) (hfree : spareColFree v k = some n) (hst : tileState v k = 2) :
    rotPos (convFailed v k i) k = rotPos v k := by
  have hne : ∀ m < 8, tileReg k 0x18 ≠ mapReg k m := fun m hm => tileReg_ne (by omega)
  rw [rotPos, rdF, rd_convFailed_of_serving hi hfree hst (tileReg_lt (by decide)) (Or.inr hne),
    if_neg (hne n (lt_of_spareColFree hfree)),
    rd_convMarked_ne v (tileReg_lt (by decide)) (tileReg_ne (by omega)) (tileReg_ne (by decide))]
  rfl

theorem rbit_convFailed_waits (hi : i < 512) (hfree : spareColFree v k = some n) (hst : tileState v k = 2) :
    rbit (convFailed v k i) (mapReg k n) 16 = true := by
  rw [rbit, rdF, rd_convFailed_of_serving hi hfree hst (mapReg_lt k (lt_of_spareColFree hfree)) (Or.inl rfl), if_pos rfl,
    fld_entry i 16 16 hi, beq_iff_eq]
  omega

end ConvFailed

/-! ### The obligation -/

theorem execAdcDwellComplete_eq {site slot : Nat} (h : tileWf site slot = true) (a : AdcSets) (s : State) :
    exec (.adcDwellComplete site slot a) s = .next (dwellEnd s (tkey site slot) a) :=
  onUnit_of_true h _

section DwellFailed

variable (u : State) {k : Nat}

theorem rd_dwellFailed_ne {p : Nat} (h : p ≠ tileReg k 0x101C) : rd (dwellFailed u k) p = rd u p :=
  (rd_of_cw (modTile_cw ..) p).trans (rd_incHold_ne u 16 1 h)

theorem dwellFailed_arrays : (dwellFailed u k).arrays = u.arrays :=
  (modTile_arrays ..).trans (incHold_arrays ..)

theorem tileState_dwellFailed : tileState (dwellFailed u k) k = tileState u k := by
  rw [tileState, rdF, rd_dwellFailed_ne u (tileReg_ne (by decide))]; rfl

theorem rotPos_dwellFailed : rotPos (dwellFailed u k) k = rotPos u k := by
  rw [rotPos, rdF, rd_dwellFailed_ne u (tileReg_ne (by decide))]; rfl

theorem spareColFree_dwellFailed : spareColFree (dwellFailed u k) k = spareColFree u k :=
  spareColFree_congr (fun n hn => rd_dwellFailed_ne u (tileReg_ne (by omega)))
    (fun n hn => rd_dwellFailed_ne u (tileReg_ne (by omega)))

theorem rd_dwellRepeats_count : rd (dwellRepeats u k) (tileReg k 0x101C) =
    BitVec.ofNat 32 (Nat.min ((rd u (tileReg k 0x101C)).toNat + 1) 0xFFFF) :=
  (rd_of_cw (modTile_cw ..) _).trans (rd_incHold_same u _ 16 1)

theorem rd_dwellRepeats_ne {p : Nat} (h : p ≠ tileReg k 0x101C) : rd (dwellRepeats u k) p = rd u p :=
  (rd_of_cw (modTile_cw ..) p).trans (rd_incHold_ne u 16 1 h)

theorem rotPos_dwellRepeats : rotPos (dwellRepeats u k) k = rotPos u k := by
  rw [rotPos, rdF, rd_dwellRepeats_ne u (tileReg_ne (by decide))]; rfl

theorem tileAt_dwellRepeats_same : tileAt (dwellRepeats u k) k =
    { tileAt u k with dwell := 0, dwellFails := (tileAt u k).dwellFails + 1 } := by
  rw [dwellRepeats, tileAt_modTile_same, tileAt_of_tiles (incHold_tiles ..)]

theorem tileAt_dwellRepeats_ne {j : Nat} (h : j ≠ k) : tileAt (dwellRepeats u k) j = tileAt u j :=
  (tileAt_modTile_ne _ _ h).trans (tileAt_of_tiles (incHold_tiles ..) j)

theorem butWordsTiles_dwellRepeats : butWordsTiles (dwellRepeats u k) = butWordsTiles u :=
  (butWordsTiles_modTile _ k _).trans (butWordsTiles_incHold u _ 16 1)

end DwellFailed

/-- Settles O55: sets that agree give the trims; sets that do not repeat the dwell, and the third time move the column of
the converter. -/
theorem convertersDwell : Obligations.ConvertersDwell := by
  refine ⟨?agrees, ?repeats, ?fails, fun s site slot a hwf hidle => ?idle⟩
  case idle =>
    rw [execAdcDwellComplete_eq hwf, dwellEnd_of_idle a hidle]
  case agrees =>
    rintro s u site slot a hwf rfl hrot hcal hst hpass hagree
    have e : dwellEnd s (tkey site slot) a = dwellAgrees (rotStart s (tkey site slot)) (tkey site slot) a := by
      rw [dwellEnd_of_runs a ⟨hrot, hcal, hst, hpass⟩, if_pos hagree]
    refine ⟨_, execAdcDwellComplete_eq hwf a s, ?_⟩
    rw [e]
    refine ⟨rd_dwellAgrees_trim _ a, by rw [tileAt_dwellAgrees_same], by rw [tileAt_dwellAgrees_same], fun h => ?act,
      fun p hp => ?words, fun j hj => ?others, ?rest⟩
    case act => rw [dwellAgrees_act _ a ((tileState_rotStart ..).trans h), rotStart_act]
    case words =>
      simp only [List.mem_cons, List.not_mem_nil, or_false, not_or] at hp
      rw [rd_dwellAgrees_ne _ a hp.1 hp.2, rd_rotStart_ne _ _ hp.2]
    case others => rw [tileAt_dwellAgrees_ne _ a hj, tileAt_rotStart_ne _ _ hj]
    case rest =>
      exact eq_withRegsTiles ((butRegsTiles_dwellAgrees _ a).trans (butRegsTiles_of_butWordsTiles (butWordsTiles_rotStart ..)))
  case repeats =>
    rintro s u site slot a hwf rfl hrot hcal hst hpass hagree hfew
    have e : dwellEnd s (tkey site slot) a = dwellRepeats (rotStart s (tkey site slot)) (tkey site slot) := by
      rw [dwellEnd_of_runs a ⟨hrot, hcal, hst, hpass⟩, hagree, if_neg Bool.false_ne_true, if_pos hfew]
    refine ⟨_, execAdcDwellComplete_eq hwf a s, ?_⟩
    rw [e]
    refine ⟨tileAt_dwellRepeats_same _, rotPos_dwellRepeats _, ?count, fun p hp => ?words, fun j hj => ?others, ?rest⟩
    case count => rw [rd_dwellRepeats_count, rd_rotStart_ne _ _ (tileReg_ne (by decide))]
    case words =>
      simp only [List.mem_cons, List.not_mem_nil, or_false, not_or] at hp
      rw [rd_dwellRepeats_ne _ hp.1, rd_rotStart_ne _ _ hp.2]
    case others => rw [tileAt_dwellRepeats_ne _ hj, tileAt_rotStart_ne _ _ hj]
    case rest => exact eq_withWordsTiles ((butWordsTiles_dwellRepeats _).trans (butWordsTiles_rotStart ..))
  case fails =>
    rintro s u site slot i n a hwf rfl hrot hcal hst hpass hagree hmany rfl hi hfree
    have e : dwellEnd s (tkey site slot) a = convFailed (dwellFailed (rotStart s (tkey site slot)) (tkey site slot)) (tkey site slot)
        (rotPos (rotStart s (tkey site slot)) (tkey site slot)) := by
      rw [dwellEnd_of_runs a ⟨hrot, hcal, hst, hpass⟩, hagree, if_neg Bool.false_ne_true, if_neg (by omega), if_neg (by omega)]
    have hfree' := (spareColFree_dwellFailed _).trans hfree
    refine ⟨_, execAdcDwellComplete_eq hwf a s, ?_⟩
    rw [e]
    refine ⟨rbit_convFailed_failed hi hfree', ?valid, ?column, exists_mem_convFailed_faults hi hfree', fun h => ?serving,
      fun j hj => ?arrays⟩
    case valid =>
      rw [rdF_convFailed_entry hi hfree' 15 (by decide)]; omega
    case column =>
      rw [rdF_convFailed_entry hi hfree' 0 (by decide)]; omega
    case serving =>
      have hst2 := (tileState_dwellFailed (rotStart s (tkey site slot))).trans ((tileState_rotStart s (tkey site slot)).trans h)
      exact ⟨calStatus_convFailed_of_serving hi hfree' hst2,
        (rotPos_convFailed_of_serving hi hfree' hst2).trans (rotPos_dwellFailed _), rbit_convFailed_waits hi hfree' hst2⟩
    case arrays =>
      rw [arrayAt_convFailed_ne hi hfree' hj, arrayAt_of_arrays (dwellFailed_arrays _), arrayAt_of_arrays (rotStart_arrays ..)]

end Sys2Proof.Machine
end

section
/-! SUPPORT. The end of a fall-back window on one slice (04 R98, R99). -/

namespace Sys2Proof.Machine

/-! ### What a window knows of a slice -/

/-- What of the state the end of a window reads and writes for one slice. -/
structure SliceView where
  clip  : W32          -- `FB_WIN_CLIP`
  count : Nat          -- the running count
  escal : Bool
  off   : Bool         -- no boundary met since FB_EN was 0
  en    : Bool
  mode  : Nat
  thr   : Nat
  head  : Bool

/-- The view of a slice. -/
def sliceView (site head : Nat) (s : State) : SliceView where
  clip := rd s (sfbSlotReg site head 0x0C)
  count := mapGet 0 (coreAt s site).winCount head
  escal := (coreAt s site).escal.contains head
  off := (coreAt s site).fbOff.contains head
  en := fbEn s site
  mode := fbMode s site head
  thr := rdFA s (sfbSlotReg site head 4) 15 0
  head := isHead s site head

/-- The part of a view that lies in the slice's core. -/
def coreView (head : Nat) (c : CoreSt) : Nat × Bool × Bool × Bool :=
  (mapGet 0 c.winCount head, c.escal.contains head, c.fbOff.contains head, c.failed || c.tested)

/-- A slice's view is a matter of two registers, the copies in force, the tiles and its core. -/
theorem sliceView_congr {s t : State} {site head : Nat} (hclip : rd t (sfbSlotReg site head 0x0C) = rd s (sfbSlotReg site head 0x0C))
    (hen : rd t (sfbReg site 0) = rd s (sfbReg site 0)) (hact : t.act = s.act) (htiles : t.tiles = s.tiles)
    (hcore : coreView head (coreAt t site) = coreView head (coreAt s site)) : sliceView site head t = sliceView site head s := by
  simp only [coreView, Prod.mk.injEq] at hcore
  obtain ⟨hcount, hescal, hoff, haway⟩ := hcore
  simp only [sliceView, fbEn, fbMode, rbit, rdF, rdFA, rdA, hclip, hen, hact, hcount, hescal, hoff,
    isHead_congr hact htiles haway]

theorem sliceView_wr {s : State} {site head p : Nat} (v : W32) (hclip : p ≠ sfbSlotReg site head 0x0C) (hen : p ≠ sfbReg site 0) :
    sliceView site head (wr s p v) = sliceView site head s :=
  sliceView_congr (rd_wr_ne s v hclip.symm) (rd_wr_ne s v hen.symm) rfl rfl rfl

theorem sliceView_modCore_ne {s : State} {site c : Nat} (head : Nat) (f : CoreSt → CoreSt) (h : site ≠ c) :
    sliceView site head (modCore s c f) = sliceView site head s :=
  sliceView_congr rfl rfl rfl rfl (by rw [coreAt_modCore_ne s f h])

theorem sliceView_modCore_same {s : State} {site head : Nat} {f : CoreSt → CoreSt}
    (hf : ∀ c, coreView head (f c) = coreView head c) : sliceView site head (modCore s site f) = sliceView site head s :=
  sliceView_congr rfl rfl rfl rfl (by rw [coreAt_modCore_same, hf])

/-! ### The latch -/

/-- The count is latched and starts again. -/
def windowLatch (site : Nat) (s : State) (head : Nat) : State :=
  modCore (wr s (sfbSlotReg site head 0x0C) (BitVec.ofNat 32 (Nat.min (mapGet 0 (coreAt s site).winCount head) 0xFFFFFFFF))) site
    (fun c => { c with winCount := mapDel c.winCount head })

/-- The slice of a head is to return to the array at the next boundary. -/
def askBack (head : Nat) (c : CoreSt) : CoreSt := { c with back := setAdd c.back head }

/-- The slice of a head is escalated. -/
def makeEscal (head : Nat) (c : CoreSt) : CoreSt := { c with escal := setAdd c.escal head }

theorem coreView_askBack (head h : Nat) (c : CoreSt) : coreView head (askBack h c) = coreView head c := rfl

theorem coreView_makeEscal_ne {head h : Nat} (hne : head ≠ h) (c : CoreSt) : coreView head (makeEscal h c) = coreView head c := by
  have hmem : (setAdd c.escal h).contains head = c.escal.contains head := by
    rw [Bool.eq_iff_iff, List.contains_iff_mem, List.contains_iff_mem, mem_setAdd]
    exact or_iff_right hne
  simp only [coreView, makeEscal, hmem]

/-- An auto slice with count `n` is judged against its threshold (04 R99). -/
def windowJudge (site head n thr hold : Nat) (s : State) : State :=
  if !fbEn s site || (coreAt s site).fbOff.contains head || fbMode s site head != 0 then s
  else if (coreAt s site).escal.contains head then
    if (coreAt s site).back.contains head then s
    else if n ≤ thr / 8 then
      let q := rdF s (sfbSlotReg site head 8) 5 2 + 1
      if hold ≤ q then modCore (setQuiet s site head (Nat.min q 15)) site (askBack head)
      else setQuiet s site head q
    else setQuiet s site head 0
  else if thr < n then modCore (setQuiet s site head 0) site (makeEscal head)
  else s

theorem windowSlice_eq (site : Nat) (s : State) (head : Nat) : windowSlice site s head =
    windowJudge site head (mapGet 0 (coreAt s site).winCount head) (rdFA s (sfbSlotReg site head 4) 15 0)
      (rdFA s (sfbSlotReg site head 4) 19 16) (windowLatch site s head) := rfl

/-! ### The judgement -/

/-- A judgement counts quiet windows, asks for the way back, or escalates an auto slice above its threshold. -/
theorem windowJudge_cases (site head n thr hold : Nat) (s : State) :
    windowJudge site head n thr hold s = s ∨
    (∃ q, windowJudge site head n thr hold s = setQuiet s site head q) ∨
    (∃ q, windowJudge site head n thr hold s =
      modCore (setQuiet s site head q) site (askBack head)) ∨
    (fbMode s site head = 0 ∧ windowJudge site head n thr hold s =
      modCore (setQuiet s site head 0) site (makeEscal head)) := by
  unfold windowJudge
  split
  · exact .inl rfl
  · rename_i hauto
    have hmode : fbMode s site head = 0 := by
      simp only [Bool.or_eq_true, bne_iff_ne, not_or, not_not] at hauto
      exact hauto.2
    split
    · split
      · exact .inl rfl
      · split
        · dsimp only
          split
          · exact .inr (.inr (.inl ⟨_, rfl⟩))
          · exact .inr (.inl ⟨_, rfl⟩)
        · exact .inr (.inl ⟨_, rfl⟩)
    · split
      · exact .inr (.inr (.inr ⟨hmode, rfl⟩))
      · exact .inl rfl

/-- Of a judgement that counts a quiet window, escalates, or does neither. -/
theorem windowJudge_induction {P : State → Prop} {site head : Nat} {s : State} (n thr hold : Nat) (hself : P s)
    (hquiet : ∀ q, P (setQuiet s site head q))
    (hback : ∀ q, P (modCore (setQuiet s site head q) site (askBack head)))
    (hescal : fbMode s site head = 0 → P (modCore (setQuiet s site head 0) site (makeEscal head))) :
    P (windowJudge site head n thr hold s) := by
  rcases windowJudge_cases site head n thr hold s with h | ⟨q, h⟩ | ⟨q, h⟩ | ⟨hmode, h⟩
  · rw [h]; exact hself
  · rw [h]; exact hquiet q
  · rw [h]; exact hback q
  · rw [h]; exact hescal hmode

/-- An auto slice above its threshold is escalated (04 R99). -/
theorem escal_windowJudge {site head n thr : Nat} (hold : Nat) {s : State} (hen : fbEn s site = true)
    (hoff : (coreAt s site).fbOff.contains head = false) (hmode : fbMode s site head = 0) (hthr : thr < n) :
    (coreAt (windowJudge site head n thr hold s) site).escal.contains head = true := by
  have hauto : ¬((!fbEn s site || (coreAt s site).fbOff.contains head || fbMode s site head != 0) = true) := by
    rw [hen, hoff, hmode]; decide
  rw [windowJudge, if_neg hauto, if_neg (c := n ≤ thr / 8) (by omega), if_pos hthr]
  split
  · rename_i hin
    split
    · exact hin
    · exact hin
  · rw [coreAt_modCore_same]
    exact List.contains_iff_mem.mpr (mem_setAdd.mpr (.inl rfl))

/-! ### A slice and the others -/

/-- What the end of a window makes of a slice's view (04 R98, R99). -/
structure WindowEnds (a b : SliceView) : Prop where
  latched   : b.clip = BitVec.ofNat 32 (Nat.min a.count 0xFFFFFFFF)
  restarted : b.count = 0
  escalated : a.en = true → a.off = false → a.mode = 0 → a.thr < a.count → b.escal = true
  kept      : a.mode ≠ 0 → b.escal = a.escal

section Slices

variable (s : State) {site head : Nat}

theorem sfbSlotReg_quiet_ne_clip (a b h : Nat) : sfbSlotReg a h 8 ≠ sfbSlotReg b head 0x0C := by unfold sfbSlotReg; omega

theorem sfbSlotReg_ne_sfbReg {a b h o : Nat} (ho : o < 0x30) : sfbSlotReg a h o ≠ sfbReg b 0 := by
  unfold sfbSlotReg sfbReg
  rcases Nat.lt_or_ge (a % 800) (b % 800) with hlt | hge <;> omega

theorem clip_setQuiet (a h q : Nat) : rd (setQuiet s a h q) (sfbSlotReg site head 0x0C) = rd s (sfbSlotReg site head 0x0C) :=
  rd_wrF_ne s _ _ _ (sfbSlotReg_quiet_ne_clip a site h).symm

theorem coreAt_windowLatch_same : coreAt (windowLatch site s head) site =
    { coreAt s site with winCount := mapDel (coreAt s site).winCount head } := coreAt_modCore_same _ _

theorem windowLatch_act : (windowLatch site s head).act = s.act := (modCore_act ..).trans (wr_act ..)

theorem windowEnds_windowSlice : WindowEnds (sliceView site head s) (sliceView site head (windowSlice site s head)) := by
  rw [windowSlice_eq]
  generalize hn : mapGet 0 (coreAt s site).winCount head = n
  generalize rdFA s (sfbSlotReg site head 4) 19 16 = hold
  have hclip : rd (windowLatch site s head) (sfbSlotReg site head 0x0C) = BitVec.ofNat 32 (Nat.min n 0xFFFFFFFF) := by
    rw [← hn]; exact rd_wr_same s _ _
  have hen : fbEn (windowLatch site s head) site = fbEn s site := by
    have hne : sfbReg site 0 ≠ sfbSlotReg site head 0x0C := (sfbSlotReg_ne_sfbReg (by decide)).symm
    unfold fbEn rbit rdF
    exact congrArg (fun w => fld w 3 3 == 1) (rd_wr_ne s _ hne)
  refine ⟨?latched, ?restarted, fun ha hb hc hd => ?escalated, fun hmode => ?kept⟩
  case latched =>
    have hcount : (sliceView site head s).count = n := hn
    rw [hcount]
    apply windowJudge_induction (P := fun u => rd u (sfbSlotReg site head 0x0C) = BitVec.ofNat 32 (Nat.min n 0xFFFFFFFF))
    · exact hclip
    · exact fun q => (clip_setQuiet _ site head q).trans hclip
    · exact fun q => (rd_of_cw (modCore_cw ..) _).trans ((clip_setQuiet _ site head q).trans hclip)
    · exact fun _ => (rd_of_cw (modCore_cw ..) _).trans ((clip_setQuiet _ site head 0).trans hclip)
  case restarted =>
    have hzero : mapGet 0 (coreAt (windowLatch site s head) site).winCount head = 0 := by
      rw [coreAt_windowLatch_same]; exact mapGet_mapDel_same 0 _ head
    apply windowJudge_induction (P := fun u => mapGet 0 (coreAt u site).winCount head = 0)
    · exact hzero
    · exact fun q => hzero
    · exact fun q => by rw [coreAt_modCore_same]; exact hzero
    · exact fun _ => by rw [coreAt_modCore_same]; exact hzero
  case escalated =>
    refine escal_windowJudge hold (hen.trans ha) ?_ ((rdFA_of_act (windowLatch_act s) ..).trans hc) (hd.trans_eq hn)
    rw [coreAt_windowLatch_same]; exact hb
  case kept =>
    have hsame : (coreAt (windowLatch site s head) site).escal.contains head = (coreAt s site).escal.contains head := by
      rw [coreAt_windowLatch_same]
    apply windowJudge_induction (P := fun u => (coreAt u site).escal.contains head = (coreAt s site).escal.contains head)
    · exact hsame
    · exact fun q => hsame
    · exact fun q => by rw [coreAt_modCore_same]; exact hsame
    · exact fun h => absurd h hmode

/-- Two slices whose registers differ. -/
def SlicesApart (site head c h : Nat) : Prop := site % 800 ≠ c % 800 ∨ (site = c ∧ head ≠ h)

/-- A step that writes slice (c, h) alone, in its registers and its core, leaves the view of a slice apart from it. -/
theorem sliceView_windowSlice_ne {c h : Nat} (hhead : head < 16) (hh : h < 16) (hne : SlicesApart site head c h) :
    sliceView site head (windowSlice c s h) = sliceView site head s := by
  have hclip : ∀ o < 0x30, sfbSlotReg c h o ≠ sfbSlotReg site head 0x0C := by
    unfold SlicesApart at hne
    unfold sfbSlotReg
    omega
  have hreg : ∀ o < 0x30, sfbSlotReg c h o ≠ sfbReg site 0 := fun _ ho => sfbSlotReg_ne_sfbReg ho
  have hquiet : ∀ u q, sliceView site head (setQuiet u c h q) = sliceView site head u := fun u q =>
    sliceView_wr _ (hclip 8 (by decide)) (hreg 8 (by decide))
  have hcore : ∀ (u : State) (f : CoreSt → CoreSt), (site = c → ∀ x, coreView head (f x) = coreView head x) →
      sliceView site head (modCore u c f) = sliceView site head u := by
    intro u f hf
    by_cases hsc : site = c
    · subst hsc; exact sliceView_modCore_same (hf rfl)
    · exact sliceView_modCore_ne head f hsc
  have hother : site = c → head ≠ h := fun e => hne.elim (fun h => absurd (congrArg (· % 800) e) h) And.right
  have hlatch : sliceView site head (windowLatch c s h) = sliceView site head s := by
    rw [windowLatch, hcore, sliceView_wr _ (hclip _ (by decide)) (hreg _ (by decide))]
    intro e x
    simp only [coreView, mapGet_mapDel_ne 0 x.winCount (hother e)]
  rw [windowSlice_eq, ← hlatch]
  apply windowJudge_induction (P := fun u => sliceView site head u = sliceView site head (windowLatch c s h))
  · rfl
  · exact fun q => hquiet _ q
  · exact fun q => (hcore _ (askBack h) (fun _ => coreView_askBack head h)).trans (hquiet _ q)
  · exact fun _ => (hcore _ (makeEscal h) (fun e => coreView_makeEscal_ne (hother e))).trans (hquiet _ 0)

theorem butWordsCores_wr (o : Nat) (v : W32) : butWordsCores (wr s o v) = butWordsCores s := rfl
theorem butWordsCores_modCore (c : Nat) (f : CoreSt → CoreSt) : butWordsCores (modCore s c f) = butWordsCores s := rfl

theorem butWordsCores_windowSlice (c h : Nat) : butWordsCores (windowSlice c s h) = butWordsCores s := by
  have hlatch : butWordsCores (windowLatch c s h) = butWordsCores s := by
    rw [windowLatch, butWordsCores_modCore, butWordsCores_wr]
  have hquiet : ∀ q, butWordsCores (setQuiet (windowLatch c s h) c h q) = butWordsCores s := fun q =>
    (butWordsCores_wr _ _ _).trans hlatch
  rw [windowSlice_eq]
  apply windowJudge_induction (P := fun u => butWordsCores u = butWordsCores s)
  · exact hlatch
  · exact hquiet
  · exact fun q => (butWordsCores_modCore _ _ _).trans (hquiet q)
  · exact fun _ => (butWordsCores_modCore _ _ _).trans (hquiet 0)

end Slices

/-! ### A core and the others -/

section Cores

variable (s : State)

theorem butWordsCores_windowCore (site : Nat) : butWordsCores (windowCore s site) = butWordsCores s :=
  foldl_view (fun h _ u => butWordsCores_windowSlice u site h) s

theorem mem_windowHeads {site h : Nat} : h ∈ (List.range 16).filter (isHead s site) ↔ h < 16 ∧ isHead s site h = true := by
  rw [List.mem_filter, List.mem_range]

theorem sliceView_windowCore_ne {site head c : Nat} (hhead : head < 16) (hne : site % 800 ≠ c % 800) :
    sliceView site head (windowCore s c) = sliceView site head s :=
  foldl_view (fun _ hmem u => sliceView_windowSlice_ne u hhead ((mem_windowHeads s).mp hmem).1 (.inl hne)) s

/-- In its core's turn a slice's window ends once. -/
theorem windowEnds_windowCore {site head : Nat} (hhead : head < 16) (hh : isHead s site head = true) :
    WindowEnds (sliceView site head s) (sliceView site head (windowCore s site)) := by
  obtain ⟨u, hu, hlast⟩ := foldl_view_at (v := sliceView site head) (f := windowSlice site)
    (List.Nodup.filter (isHead s site) List.nodup_range) ((mem_windowHeads s).mpr ⟨hhead, hh⟩)
    (fun _ hmem hne u => sliceView_windowSlice_ne u hhead ((mem_windowHeads s).mp hmem).1 (.inr ⟨rfl, Ne.symm hne⟩)) s
  rw [windowCore, hlast, ← hu]
  exact windowEnds_windowSlice u

/-- Over all cores that hold placed slots, each named once, so does every slice's. -/
theorem windowEnds_windowCores {sites : List Nat} (hnd : sites.Nodup)
    (hinj : ∀ a ∈ sites, ∀ b ∈ sites, a % 800 = b % 800 → a = b) {site head : Nat} (hsite : site ∈ sites) (hhead : head < 16)
    (hh : isHead s site head = true) :
    WindowEnds (sliceView site head s) (sliceView site head (sites.foldl windowCore s)) := by
  obtain ⟨u, hu, hlast⟩ := foldl_view_at (v := sliceView site head) (f := windowCore) hnd hsite
    (fun c hc hne u => sliceView_windowCore_ne u hhead (fun e => hne (hinj c hc site hsite e.symm))) s
  have hhu : isHead u site head = true := (congrArg SliceView.head hu).trans hh
  rw [hlast, ← hu]
  exact windowEnds_windowCore u hhead hhu

end Cores

end Sys2Proof.Machine
end

section
/-! SUPPORT. What a pass boundary leaves: stack memory, Stockpot, and what each slot runs, recordings aside. The steps a
boundary is made of (02 R36, R60, 04 R99-R106, 06 Table 06.3, 08 R191) write registers, tiles, cores and core stores, and answer
commands; one lemma for each of them says that it keeps `held`. -/

namespace Sys2Proof.Machine

/-- Stack memory, Stockpot, and what each slot runs with its recording blanked. -/
def held (s : State) : List Host.Cell × Stockpot × (Nat → Option Instance) := (s.stackMem, s.pot, instView s)

theorem held_eq {s t : State} (hmem : t.stackMem = s.stackMem) (hpot : t.pot = s.pot) (hinst : ∀ n, instView t n = instView s n) :
    held t = held s := by
  unfold held; rw [hmem, hpot, funext hinst]

theorem held_of_insts {s t : State} (hmem : t.stackMem = s.stackMem) (hpot : t.pot = s.pot) (hinst : t.insts = s.insts) :
    held t = held s :=
  held_eq hmem hpot fun n => by unfold instView; rw [instOf_of_insts hinst]

theorem held_of_butWords {s t : State} (h : t.butWords = s.butWords) : held t = held s :=
  held_of_insts (congrArg State.stackMem h :) (congrArg State.pot h :) (congrArg State.insts h :)

theorem held_of_butWordsTiles {s t : State} (h : butWordsTiles t = butWordsTiles s) : held t = held s :=
  held_of_insts (congrArg State.stackMem h :) (congrArg State.pot h :) (congrArg State.insts h :)

/-- A choice between two steps that both keep it. -/
theorem held_ite {s a b : State} {c : Prop} [Decidable c] (ha : held a = held s) (hb : held b = held s) :
    held (if c then a else b) = held s := by
  split
  · exact ha
  · exact hb

/-- A step that keeps it, over a list. -/
theorem held_foldl {α : Type} {f : State → α → State} (hf : ∀ s a, held (f s a) = held s) (l : List α) (s : State) :
    held (l.foldl f s) = held s :=
  foldl_view (fun a _ s => hf s a) s

variable (s : State)

/-! ### Setters -/

@[simp] theorem held_wr (o : Nat) (v : W32) : held (wr s o v) = held s := held_of_insts rfl rfl rfl
@[simp] theorem held_wrA (o : Nat) (v : W32) : held (wrA s o v) = held s := held_of_insts rfl rfl rfl
@[simp] theorem held_setTile (k : Nat) (x : TileSt) : held (setTile s k x) = held s := held_of_insts rfl rfl rfl
@[simp] theorem held_setCore (k : Nat) (x : CoreSt) : held (setCore s k x) = held s := held_of_insts rfl rfl rfl
@[simp] theorem held_unstage (os : List Nat) : held (unstage s os) = held s := held_of_insts rfl rfl rfl
@[simp] theorem held_useFreeN (n : Nat) : held (useFreeN n s) = held s := held_of_insts rfl rfl rfl
@[simp] theorem held_storeLoaded (site a n : Nat) : held (storeLoaded s site a n) = held s := held_of_insts rfl rfl rfl

@[simp] theorem held_wrF (o hi lo v : Nat) : held (wrF s o hi lo v) = held s := held_wr s o _
@[simp] theorem held_wrBoth (o : Nat) (v : W32) : held (wrBoth s o v) = held s := (held_wrA _ o v).trans (held_wr s o v)
@[simp] theorem held_incHold (o n b : Nat) : held (incHold s o n b) = held s := held_wr s o _
@[simp] theorem held_incWrap (o b : Nat) : held (incWrap s o b) = held s := held_wr s o _
@[simp] theorem held_modTile (k : Nat) (f : TileSt → TileSt) : held (modTile s k f) = held s := held_setTile s k _
@[simp] theorem held_modCore (k : Nat) (f : CoreSt → CoreSt) : held (modCore s k f) = held s := held_setCore s k _
@[simp] theorem held_setCapture (site : Nat) (c : Option Capture) : held (setCapture s site c) = held s := held_modCore s site _
@[simp] theorem held_setTileState (k v : Nat) : held (setTileState s k v) = held s := held_wrF s _ 2 0 v
@[simp] theorem held_setCalStatus (k hi lo v : Nat) : held (setCalStatus s k hi lo v) = held s := held_wrF s _ hi lo v
@[simp] theorem held_setCfgErr (k e : Nat) : held (setCfgErr s k e) = held s := held_wrF s _ 6 4 e
@[simp] theorem held_setFbState (site head v : Nat) : held (setFbState s site head v) = held s := held_wrF s _ 1 0 v
@[simp] theorem held_setQuiet (site head n : Nat) : held (setQuiet s site head n) = held s := held_wrF s _ 5 2 n
@[simp] theorem held_discardField (o hi lo : Nat) : held (discardField s o hi lo) = held s := held_wrF s o hi lo _
@[simp] theorem held_setRot (k i : Nat) : held (setRot s k i) = held s := (held_modTile _ k _).trans (held_wr s _ _)
@[simp] theorem held_dropBlocks (site : Nat) (ms : List Nat) : held (dropBlocks s site ms) = held s := held_modCore s site _
@[simp] theorem held_dropRows (m : Nat) (gone : Nat → Bool) : held (dropRows s m gone) = held s := held_modCore s _ _
@[simp] theorem held_endCover (site head : Nat) : held (endCover s site head) = held s := held_modCore s site _

@[simp] theorem held_serveTile (k : Nat) : held (serveTile s k) = held s := by
  rw [serveTile, held_setTileState, enableTile, held_wrA, held_wrF]

@[simp] theorem held_calClear (k : Nat) : held (calClear s k) = held s := by
  rw [calClear, held_setCalStatus, held_setCalStatus]

@[simp] theorem held_homeProgs (site sp : Nat) : held (homeProgs s site sp) = held s :=
  (held_modCore _ sp _).trans (held_of_insts rfl rfl rfl)

/-! ### Faults, interrupts and responses -/

@[simp] theorem held_signal (pf v : Nat) : held (signal s pf v) = held s :=
  held_of_insts (signal_stackMem ..) (signal_pot ..) (signal_insts ..)

@[simp] theorem held_faultRecord (f : FaultInfo) : held (faultRecord s f) = held s := by
  have hkeep : ∀ r, held (keepFault s r) = held s := fun r =>
    held_ite (held_of_insts rfl rfl rfl) ((held_incHold _ _ _ _).trans (held_of_insts rfl rfl rfl))
  have hcount : ∀ (u : State) (c : Nat), held (countFault u c) = held u := fun u c => held_of_butWords (countFault_butWords u c)
  rw [faultRecord_eq]
  exact held_ite (held_of_insts rfl rfl rfl) (by rw [held_signal, held_signal, hcount, hkeep])

@[simp] theorem held_tileFault (cls cause k : Nat) : held (tileFault s cls cause k) = held s := held_faultRecord s _

@[simp] theorem held_finishErr (r : MbxRef) (e : Err) : held (finishErr s r e) = held s :=
  held_ite (held_eq (post_stackMem ..) (post_pot ..) (post_instView _ _ _ _ _ _)) rfl

/-! ### The rotation and the spare columns (02 R36, R48) -/

@[simp] theorem held_rotStart (k : Nat) : held (rotStart s k) = held s := held_ite (held_setRot s k _) rfl

@[simp] theorem held_colmapNow (k : Nat) : held (colmapNow s k) = held s :=
  held_of_butWordsTiles (butWordsTiles_colmapNow s k)

@[simp] theorem held_tileNow (k : Nat) : held (tileNow s k) = held s :=
  (held_modTile _ k _).trans (held_colmapNow s k)

/-! ### Staged configuration (02 R60) -/

@[simp] theorem held_takeWords (os : List Nat) : held (takeWords os s) = held s := by
  induction os generalizing s with
  | nil => rfl
  | cons o os ih => exact (ih _).trans (held_wrA s o _)

@[simp] theorem held_discardTile (k : Nat) (errs : List Nat) : held (discardTile s k errs) = held s := by
  simp only [discardTile, apply_ite held, held_discardField, ite_self]

@[simp] theorem held_discardSfb (site slot : Nat) (errs : List Nat) : held (discardSfb s site slot errs) = held s := by
  simp only [discardSfb, apply_ite held, held_wr, ite_self]

@[simp] theorem held_calTrigger (k row cls : Nat) : held (calTrigger s k row cls) = held s := by
  simp only [calTrigger, apply_ite held, held_setCalStatus, held_incWrap, ite_self]

@[simp] theorem held_resetCols (k : Nat) : held (resetCols s k) = held s := by
  rw [resetCols]
  exact held_foldl (fun u o => held_wrBoth u o _) _ s

@[simp] theorem held_stampCheck (k : Nat) (ws : List Nat) : held (stampCheck s k ws) = held s :=
  held_ite ((held_calTrigger _ _ _ _).trans (held_resetCols s k)) rfl

@[simp] theorem held_rotSwitch (k : Nat) (was : Bool) : held (rotSwitch s k was) = held s :=
  held_ite rfl (held_ite (held_setRot s k _) ((held_setCalStatus _ k 9 9 0).trans (held_setRot s k 520)))

@[simp] theorem held_activateTile (k : Nat) : held (activateTile s k) = held s := by
  simp only [activateTile, apply_ite held, held_setCfgErr, held_rotSwitch, held_stampCheck, held_unstage, held_takeWords,
    held_discardTile, ite_self]

@[simp] theorem held_activateEdge (site slot : Nat) : held (activateEdge s site slot) = held s := by
  simp only [activateEdge, apply_ite held, held_wrF, held_unstage, held_takeWords, held_wr, ite_self]

@[simp] theorem held_activateSfb (site slot : Nat) : held (activateSfb s site slot) = held s := by
  simp only [activateSfb, apply_ite held, held_wrF, held_unstage, held_takeWords, held_discardSfb, ite_self]

@[simp] theorem held_cfgFault (cls site slot : Nat) : held (cfgFault s cls site slot) = held s :=
  held_ite (held_tileFault s cls 23 _) rfl

@[simp] theorem held_checkChain (site slot : Nat) : held (checkChain s site slot) = held s := by
  unfold checkChain
  refine held_foldl (fun u t => ?_) _ s
  simp only [apply_ite held, held_setCfgErr, ite_self]

@[simp] theorem held_checkChains (site : Nat) : held (checkChains s site) = held s := by
  rw [checkChains]
  exact held_foldl (fun u t => held_checkChain u site t) _ s

@[simp] theorem held_activateSlot (load : Bool) (site slot : Nat) : held (activateSlot s load site slot) = held s := by
  simp only [activateSlot, apply_ite held, held_cfgFault, held_activateSfb, held_activateEdge, held_activateTile, ite_self]

@[simp] theorem held_activateSlots (load : Bool) (site : Nat) (slots : List Nat) :
    held (activateSlots s load site slots) = held s := by
  have hslots : ∀ (u : State) (l : List Nat), held (checkChains (l.foldl (fun s t => activateSlot s load site t) u) site) = held u :=
    fun u l => (held_checkChains _ site).trans (held_foldl (fun s t => held_activateSlot s load site t) l u)
  have hfaults : ∀ (u : State) (l : List Nat), held (l.foldl (fun s h => cfgFault s 2 site h) u) = held u :=
    fun u l => held_foldl (fun s h => held_cfgFault s 2 site h) l u
  simp only [activateSlots, apply_ite held, hslots, hfaults, ite_self]

/-! ### A column's core is replaced (08 R191) -/

@[simp] theorem held_copyWords (as bs : List Nat) : held (copyWords as bs s) = held s := by
  induction as generalizing bs s with
  | nil => rfl
  | cons a as ih =>
    cases bs with
    | nil => rfl
    | cons b bs => exact (ih _ bs).trans ((held_wrA _ b _).trans (held_wr s b _))

@[simp] theorem held_copyTileCfg (a b : Nat) : held (copyTileCfg s a b) = held s := held_copyWords s _ _

@[simp] theorem held_copyHeld (m k : Nat) : held (copyHeld s m k) = held s := by
  unfold copyHeld
  split
  · exact held_foldl (fun u o => held_wrBoth u _ _) _ s
  · exact held_copyTileCfg s m k

@[simp] theorem held_moveTile (m : Nat) : held (moveTile s m) = held s := by
  unfold moveTile
  dsimp only
  rw [held_serveTile]
  split
  · rw [held_dropBlocks, held_modCore, held_setTile, held_setTile]
  · rw [held_setTile, held_setTile]

@[simp] theorem held_takeover (r : Rebuild) : held (takeover s r) = held s := by
  have hcopies : ∀ (l : List Nat) (u : State) (sp : Nat), held (l.foldl (fun s t =>
      copyWords (slotCfgOffsets r.site t) (slotCfgOffsets sp t) (copyHeld s (tkey r.site t) (tkey sp t))) u) = held u :=
    fun l u sp => held_foldl (fun _ _ => (held_copyWords _ _ _).trans (held_copyHeld _ _ _)) l u
  have hmoves : ∀ (l : List Nat) (u : State), held (l.foldl (fun s t => moveTile s (tkey r.site t)) u) = held u :=
    fun l u => held_foldl (fun s _ => held_moveTile s _) l u
  have hend : ∀ (u : State) (a : SMap Nat) (b : List LedgerPair) (c : List Rebuild),
      held { u with remapNow := a, ledger := b, rebuilds := c } = held u := fun _ _ _ _ => held_of_insts rfl rfl rfl
  unfold takeover
  extract_lets site row sp l owned copied regs moved counted
  have hcopied : held copied = held s := hcopies _ _ _
  have hregs : held regs = held copied := (held_wr _ _ _).trans <| (held_wr _ _ _).trans (held_wr _ _ _)
  have hmoved : held moved = held regs := (held_homeProgs _ _ _).trans (hmoves _ _)
  have hcounted : held counted = held moved := (held_incHold _ _ _ _).trans (held_wr _ _ _)
  exact (hend _ _ _ _).trans (hcounted.trans (hmoved.trans (hregs.trans hcopied)))

@[simp] theorem held_takeovers (slot : Nat) : held (takeovers s slot) = held s := held_foldl held_takeover _ s

/-! ### Handovers and the shadow copy (06 Table 06.3, R159) -/

@[simp] theorem held_spareServes (m : Nat) : held (spareServes s m) = held s := by
  simp only [spareServes, apply_ite held, held_modTile, held_serveTile, held_copyTileCfg, ite_self]

@[simp] theorem held_calAbandon (k : Nat) : held (calAbandon s k) = held s := by
  unfold calAbandon
  split
  · rfl
  · dsimp only
    split
    · rw [held_endCover, held_modTile, held_setCalStatus]
    · rw [held_modTile, held_setCalStatus]

@[simp] theorem held_calUnavailable (k : Nat) : held (calUnavailable s k) = held s :=
  (held_foldl (fun s m => held_finishErr s m _) _ _).trans (held_modTile s k _)

@[simp] theorem held_spoonGone (k : Nat) : held (spoonGone s k) = held s := by
  unfold spoonGone
  split
  · exact (held_finishErr _ _ _).trans (held_modTile s k _)
  · rfl

@[simp] theorem held_retired (m : Nat) : held (retired s m) = held s := by
  have hcount : ∀ u : State, held { u with retiredTiles := setAdd u.retiredTiles m } = held u :=
    fun _ => held_of_insts rfl rfl rfl
  simp only [retired, held_incHold, held_spoonGone, held_calUnavailable, held_tileFault, hcount, held_modTile, held_calClear,
    held_calAbandon, held_setTileState]

@[simp] theorem held_tileServes (m : Nat) : held (tileServes s m) = held s := by
  simp only [tileServes, apply_ite held, held_modTile, held_incWrap, held_setTileState, held_serveTile, ite_self]

@[simp] theorem held_coveredRun (m : Nat) : held (coveredRun s m) = held s := by
  rw [coveredRun, held_modTile, held_setTileState]

@[simp] theorem held_rewriteTile (m : Nat) : held (rewriteTile s m) = held s := by
  rw [rewriteTile, held_modTile, held_setTileState]

@[simp] theorem held_handover (m : Nat) : held (handover s m) = held s := by
  have hafter : held (if (tileAt s m).retireNext then retired (spareServes s m) m
      else if (tileAt s m).coverRun then coveredRun (spareServes s m) m else rewriteTile (spareServes s m) m) = held s :=
    by simp only [apply_ite held, held_retired, held_coveredRun, held_rewriteTile, held_spareServes, ite_self]
  unfold handover
  dsimp only
  split
  · exact hafter
  · exact held_ite (held_tileServes s m) (held_modTile s m _)
  · rfl

@[simp] theorem held_shadowNow (m : Nat) : held (shadowNow s m) = held s :=
  held_ite rfl (held_ite rfl ((held_modTile _ m _).trans (held_dropRows s m _)))

/-! ### Fall-back (04 R99, R104-R106) -/

@[simp] theorem held_loadBlock (site m : Nat) : held (loadBlock s site m) = held s := by
  unfold loadBlock
  split
  · rfl
  · split
    · rw [held_modCore, held_storeLoaded]
    · rfl

@[simp] theorem held_standinLoad (site : Nat) : held (standinLoad s site) = held s := by
  unfold standinLoad
  split
  · exact held_ite (held_loadBlock s site _) rfl
  · rfl

@[simp] theorem held_takeGrant (site head : Nat) : held (takeGrant s site head) = held s := by
  rw [takeGrant, held_standinLoad, held_modCore, held_dropBlocks]

@[simp] theorem held_addGrant (site head : Nat) : held (addGrant s site head) = held s := by
  rw [addGrant, held_setFbState, held_modCore]
  exact held_foldl (fun s t => held_loadBlock s site (tkey site t)) _ s

@[simp] theorem held_escalate (site head old : Nat) : held (escalate s site head old) = held s := by
  simp only [escalate, apply_ite held, held_modCore, held_setQuiet, ite_self]

@[simp] theorem held_capGrants (site : Nat) (mine hs : List Nat) : held (capGrants s site mine hs) = held s := by
  induction hs generalizing s with
  | nil => rfl
  | cons h hs ih => exact held_ite rfl ((ih _).trans (held_ite (held_takeGrant s site h) rfl))

@[simp] theorem held_assignGrants (site : Nat) (hs : List Nat) : held (assignGrants s site hs) = held s := by
  induction hs generalizing s with
  | nil => rfl
  | cons h hs ih => exact (ih _).trans (held_ite (held_addGrant s site h) (held_setFbState s site h 2))

@[simp] theorem held_coverLost (site head : Nat) : held (coverLost s site head) = held s := by
  unfold coverLost
  refine held_foldl (fun u t => ?_) _ s
  simp only [apply_ite held, held_modTile, held_setTileState, ite_self]

@[simp] theorem held_settleSlice (site head : Nat) : held (settleSlice s site head) = held s := by
  simp only [settleSlice, apply_ite held, held_coverLost, held_modCore, held_setFbState, ite_self]

@[simp] theorem held_fallbackSite (ks : List Nat) (old : SMap Nat) (site : Nat) : held (fallbackSite s ks old site) = held s := by
  unfold fallbackSite
  dsimp only
  rw [held_foldl (fun s h => held_settleSlice s site h), held_assignGrants, held_capGrants,
    held_foldl (fun s h => held_ite (held_takeGrant s site h) rfl), held_foldl (fun s h => held_escalate s site h _)]

/-! ### On-demand Spoon runs (04 R112) -/

@[simp] theorem held_driveTest (k : Nat) (r : SpoonReq) : held (driveTest s k r) = held s :=
  (held_useFreeN _ _).trans <| (held_modTile _ _ _).trans <| (held_setCapture _ _ _).trans (held_rotStart s k)

@[simp] theorem held_spoonTry (k : Nat) : held (spoonTry s k) = held s := by
  unfold spoonTry
  split
  · rfl
  · exact held_ite (held_driveTest s k _) rfl

@[simp] theorem held_spoonWake : held (spoonWake s) = held s := held_foldl held_spoonTry _ s

end Sys2Proof.Machine
end

section
/-! SUPPORT. The keys a slot owns, and the tiles' places in a pass: which steps keep them. -/

namespace Sys2Proof.Machine


theorem mem_ownedKeys {s : State} {slot k : Nat} :
    k ∈ ownedKeys s slot ↔ ∃ x, (k, x) ∈ s.tiles ∧ x.owner.any (fun o => o.slot == slot) = true := by
  simp only [ownedKeys, List.mem_filterMap, Prod.exists]
  constructor
  · rintro ⟨j, x, hmem, hown⟩
    split at hown
    · rename_i h; cases hown; exact ⟨x, hmem, h⟩
    · cases hown
  · rintro ⟨x, hmem, h⟩
    exact ⟨k, x, hmem, if_pos h⟩

/-- A tile with an owner is listed. -/
theorem mem_ownedKeys_of_tileAt {s : State} {slot k : Nat} (h : (tileAt s k).owner.any (fun o => o.slot == slot) = true) :
    k ∈ ownedKeys s slot := by
  unfold tileAt mapGet at h
  cases hf : mapFind s.tiles k with
  | none => rw [hf] at h; cases h
  | some x =>
    rw [hf] at h
    exact mem_ownedKeys.mpr ⟨x, mem_of_mapFind hf, h⟩

/-- A change of a tile that keeps its owner gives no slot a tile. -/
theorem ownedKeys_modTile {s : State} {m slot k : Nat} {f : TileSt → TileSt} (hf : ∀ x, (f x).owner = x.owner)
    (h : k ∈ ownedKeys (modTile s m f) slot) : k ∈ ownedKeys s slot := by
  obtain ⟨x, hmem, hown⟩ := mem_ownedKeys.mp h
  rcases mem_of_mem_mapPut hmem with e | hmem
  · obtain ⟨rfl, rfl⟩ := Prod.mk.inj e
    rw [hf] at hown
    exact mem_ownedKeys_of_tileAt hown
  · exact mem_ownedKeys.mpr ⟨x, hmem, hown⟩

theorem ownedKeys_of_tiles {s t : State} (h : t.tiles = s.tiles) (slot : Nat) : ownedKeys t slot = ownedKeys s slot := by
  unfold ownedKeys; rw [h]

/-! ### Where a tile stands in its pass (02 R47) -/

/-- The first vector, the slices that wait, and the dither generator. -/
def passPlace (x : TileSt) : Nat × List (Nat × List Bytes) × W64 := (x.nextVec, x.inBuf, x.dither)

theorem logCol_congr {s t : State} (hg : t.grade = s.grade) (hr : t.remapNow = s.remapNow) (site : Nat) :
    logCol t site = logCol s site := by
  have h : logCol t site = logCol { s with grade := t.grade, remapNow := t.remapNow } site := rfl
  rw [h, hg, hr]

/-- Keeps where every tile stands in its pass and which column a core has, and gives no slot a tile. -/
structure KeepsPlaces (s t : State) : Prop where
  grade : t.grade = s.grade
  remap : t.remapNow = s.remapNow
  place : ∀ k, passPlace (tileAt t k) = passPlace (tileAt s k)
  owned : ∀ slot, ∀ k ∈ ownedKeys t slot, k ∈ ownedKeys s slot

theorem KeepsPlaces.refl (s : State) : KeepsPlaces s s := ⟨rfl, rfl, fun _ => rfl, fun _ _ h => h⟩

theorem KeepsPlaces.trans {s t u : State} (h : KeepsPlaces s t) (h' : KeepsPlaces t u) : KeepsPlaces s u :=
  ⟨h'.grade.trans h.grade, h'.remap.trans h.remap, fun k => (h'.place k).trans (h.place k),
    fun slot k hk => h.owned slot k (h'.owned slot k hk)⟩

theorem keepsPlaces_of_tiles {s t : State} (hg : t.grade = s.grade) (hr : t.remapNow = s.remapNow) (ht : t.tiles = s.tiles) :
    KeepsPlaces s t :=
  ⟨hg, hr, fun k => by rw [tileAt_of_tiles ht], fun slot k hk => by rwa [ownedKeys_of_tiles ht] at hk⟩

theorem keepsPlaces_modTile (s : State) (m : Nat) {f : TileSt → TileSt} (hown : ∀ x, (f x).owner = x.owner)
    (hplace : ∀ x, passPlace (f x) = passPlace x) : KeepsPlaces s (modTile s m f) :=
  ⟨modTile_grade .., modTile_remapNow .., fun k => tileAt_modTile_view s hplace k m, fun _ _ hk => ownedKeys_modTile hown hk⟩

theorem keepsPlaces_foldl {β : Type} {f : State → β → State} (hf : ∀ s b, KeepsPlaces s (f s b)) (l : List β) (s : State) :
    KeepsPlaces s (l.foldl f s) := by
  induction l generalizing s with
  | nil => exact .refl s
  | cons b l ih => exact (hf s b).trans (ih (f s b))

/-! ### On-demand Spoon runs keep it -/

section Spoon

variable (s : State) (k : Nat)

theorem keepsPlaces_modCore (f : CoreSt → CoreSt) : KeepsPlaces s (modCore s k f) :=
  keepsPlaces_of_tiles (modCore_grade ..) (modCore_remapNow ..) (modCore_tiles ..)

theorem keepsPlaces_setCapture (c : Option Capture) : KeepsPlaces s (setCapture s k c) := keepsPlaces_modCore s k _

theorem keepsPlaces_useFreeN (n : Nat) : KeepsPlaces s (useFreeN n s) := keepsPlaces_of_tiles rfl rfl rfl

theorem keepsPlaces_rotStart : KeepsPlaces s (rotStart s k) := by
  unfold rotStart setRot
  split
  · exact (keepsPlaces_of_tiles (wr_grade ..) (wr_remapNow ..) (wr_tiles ..)).trans
      (keepsPlaces_modTile _ k (fun _ => rfl) (fun _ => rfl))
  · exact .refl s

theorem keepsPlaces_driveTest (r : SpoonReq) : KeepsPlaces s (driveTest s k r) := by
  refine ((keepsPlaces_rotStart s k).trans (keepsPlaces_setCapture _ _ _)).trans
    ((keepsPlaces_modTile _ k ?_ ?_).trans (keepsPlaces_useFreeN _ 8194))
  · exact fun _ => rfl
  · exact fun _ => rfl

theorem keepsPlaces_spoonTry : KeepsPlaces s (spoonTry s k) := by
  unfold spoonTry
  split
  · exact .refl s
  · split
    · exact keepsPlaces_driveTest s k _
    · exact .refl s

theorem keepsPlaces_spoonWake : KeepsPlaces s (spoonWake s) := keepsPlaces_foldl keepsPlaces_spoonTry _ s

theorem keepsPlaces_corePassStart (i : Instance) (step : W64) (ks : List Nat) (site : Nat) :
    KeepsPlaces s (corePassStart i step ks s site) := by
  unfold corePassStart
  exact keepsPlaces_modCore s site _

end Spoon

end Sys2Proof.Machine
end

section
/-! PROOF. O50: what a pass boundary and the end of a fall-back window do. -/

namespace Sys2Proof.Machine

/-! ### A pass starts on the tiles (02 R47, 14 R346) -/

/-- Where a tile stands at the start of a pass. -/
def startPlace (i : Instance) (step : W64) (s : State) (k : Nat) : Nat × List (Nat × List Bytes) × W64 :=
  (0, [], passSeed i.seed step (unitId 1 i.ordinal (k / 32 / 25) (logCol s (k / 32)) (k % 32)))

theorem startPlace_congr (i : Instance) (step : W64) {s t : State} (hg : t.grade = s.grade) (hr : t.remapNow = s.remapNow)
    (k : Nat) : startPlace i step t k = startPlace i step s k := by
  unfold startPlace; rw [logCol_congr hg hr]

section TileStarts

variable (i : Instance) (step : W64) (s : State)

theorem passPlace_tilePassStart_same (k : Nat) :
    passPlace (tileAt (tilePassStart i step s k) k) = startPlace i step s k := by
  simp only [tilePassStart, tileAt_modTile_same, passPlace, startPlace]

theorem tileAt_tilePassStart_ne {m k : Nat} (h : k ≠ m) : tileAt (tilePassStart i step s m) k = tileAt s k := by
  unfold tilePassStart
  exact tileAt_modTile_ne s _ h

theorem ownedKeys_tilePassStart {m slot k : Nat} (h : k ∈ ownedKeys (tilePassStart i step s m) slot) : k ∈ ownedKeys s slot := by
  unfold tilePassStart at h
  refine ownedKeys_modTile ?_ h
  exact fun _ => rfl

theorem held_tilePassStart (m : Nat) : held (tilePassStart i step s m) = held s := by
  unfold tilePassStart
  exact held_modTile s m _

theorem held_corePassStart (ks : List Nat) (site : Nat) : held (corePassStart i step ks s site) = held s := by
  unfold corePassStart
  exact held_modCore s site _

theorem tilePassStart_grade (m : Nat) : (tilePassStart i step s m).grade = s.grade := modTile_grade ..
theorem tilePassStart_remapNow (m : Nat) : (tilePassStart i step s m).remapNow = s.remapNow := modTile_remapNow ..

/-- The tiles of a list stand at the start of the pass after it has started on them. -/
theorem passPlace_tileStarts {ks : List Nat} {k : Nat} (h : k ∈ ks ∨ passPlace (tileAt s k) = startPlace i step s k) :
    passPlace (tileAt (ks.foldl (tilePassStart i step) s) k) = startPlace i step s k := by
  induction ks generalizing s with
  | nil => exact h.resolve_left (by simp)
  | cons m ks ih =>
    have hstart := startPlace_congr i step (tilePassStart_grade i step s m) (tilePassStart_remapNow i step s m) k
    rw [List.foldl_cons, ← hstart]
    apply ih
    by_cases hkm : k = m
    · subst hkm
      exact .inr ((passPlace_tilePassStart_same i step s k).trans hstart.symm)
    · rw [hstart, tileAt_tilePassStart_ne i step s hkm]
      exact h.imp_left fun h => (List.mem_cons.mp h).resolve_left hkm

theorem ownedKeys_tileStarts (ks : List Nat) {slot k : Nat} (h : k ∈ ownedKeys (ks.foldl (tilePassStart i step) s) slot) :
    k ∈ ownedKeys s slot := by
  induction ks generalizing s with
  | nil => exact h
  | cons m ks ih => exact ownedKeys_tilePassStart i step s (ih _ h)

theorem tileStarts_grade (ks : List Nat) : (ks.foldl (tilePassStart i step) s).grade = s.grade :=
  foldl_view (v := State.grade) (fun m _ s => tilePassStart_grade i step s m) s

theorem tileStarts_remapNow (ks : List Nat) : (ks.foldl (tilePassStart i step) s).remapNow = s.remapNow :=
  foldl_view (v := State.remapNow) (fun m _ s => tilePassStart_remapNow i step s m) s

/-- The pass starts on the tiles and on their cores. -/
def unitStarts (ks : List Nat) : State :=
  (keySites ks).foldl (corePassStart i step ks) (ks.foldl (tilePassStart i step) s)

theorem held_unitStarts (ks : List Nat) : held (unitStarts i step s ks) = held s :=
  (held_foldl (fun s site => held_corePassStart i step s ks site) _ _).trans (held_foldl (held_tilePassStart i step) ks s)

theorem keepsPlaces_coreStarts (ks : List Nat) : KeepsPlaces (ks.foldl (tilePassStart i step) s) (unitStarts i step s ks) :=
  keepsPlaces_foldl (fun s site => keepsPlaces_corePassStart s i step ks site) _ _

/-- After a pass has started on the tiles a slot owns, and the Spoon runs that wait were tried, each of them stands at
its start. -/
theorem passPlace_unitStarts {slot k : Nat} (h : k ∈ ownedKeys (spoonWake (unitStarts i step s (ownedKeys s slot))) slot) :
    passPlace (tileAt (spoonWake (unitStarts i step s (ownedKeys s slot))) k) =
      startPlace i step (spoonWake (unitStarts i step s (ownedKeys s slot))) k := by
  have hkeep := (keepsPlaces_coreStarts i step s (ownedKeys s slot)).trans (keepsPlaces_spoonWake _)
  have hmem : k ∈ ownedKeys s slot := ownedKeys_tileStarts i step s _ (hkeep.owned slot k h)
  rw [hkeep.place k, startPlace_congr i step (hkeep.grade.trans (tileStarts_grade i step s _))
    (hkeep.remap.trans (tileStarts_remapNow i step s _)), passPlace_tileStarts i step s (.inl hmem)]

end TileStarts

/-! ### The slot goes on to the next frame (12 R285, R293) -/

/-- The frame whose pass ran is passed. -/
def passEnded (i : Instance) : Instance :=
  { i with
    flight := i.flight.map (fun f => if i.passStep == some f.msg.step then { f with passed := true } else f)
    passStep := none }

/-- The pass of the next live frame begins where its step is the one named. -/
def passBegun (step : W64) (i : Instance) : Instance := { i with passStep := if nextPass i = some step then some step else none }

/-- A slot's frames at a boundary. -/
def framesNext (s : State) (slot : Nat) (step : W64) : State := modInst (modInst s slot passEnded) slot (passBegun step)

theorem passStart_eq (s : State) (slot : Nat) (step : W64) (ks : List Nat) : passStart s slot step ks =
    match instOf (framesNext s slot step) slot with
    | none => framesNext s slot step
    | some i =>
      match i.passStep with
      | none => framesNext s slot step
      | some n => unitStarts i n (framesNext s slot step) ks := rfl

section Frames

variable (s : State) (slot : Nat) (step : W64)

theorem instOf_framesNext_same {i : Instance} (h : instOf s slot = some i) :
    instOf (framesNext s slot step) slot = some (passBegun step (passEnded i)) := by
  rw [framesNext, instOf_modInst, if_pos rfl, instOf_modInst, if_pos rfl, h]
  rfl

theorem instOf_framesNext_ne {n : Nat} (h : n ≠ slot) : instOf (framesNext s slot step) n = instOf s n := by
  rw [framesNext, instOf_modInst, if_neg h, instOf_modInst, if_neg h]

theorem framesNext_tiles : (framesNext s slot step).tiles = s.tiles := (modInst_tiles ..).trans (modInst_tiles ..)
theorem framesNext_stackMem : (framesNext s slot step).stackMem = s.stackMem := (modInst_stackMem ..).trans (modInst_stackMem ..)
theorem framesNext_pot : (framesNext s slot step).pot = s.pot := (modInst_pot ..).trans (modInst_pot ..)

end Frames

section PassStart

variable {s : State} {slot : Nat} {step : W64} {i : Instance}

/-- What a pass start is, by whether the slot's next pass begins. -/
theorem passStart_cases (ks : List Nat) (h : instOf s slot = some i) :
    (passBegun step (passEnded i)).passStep = none ∧ passStart s slot step ks = framesNext s slot step ∨
    (passBegun step (passEnded i)).passStep = some step ∧
      passStart s slot step ks = unitStarts (passBegun step (passEnded i)) step (framesNext s slot step) ks := by
  rw [passStart_eq, instOf_framesNext_same s slot step h]
  unfold passBegun
  dsimp only
  split
  · exact .inr ⟨rfl, rfl⟩
  · exact .inl ⟨rfl, rfl⟩

theorem held_passStart (ks : List Nat) (h : instOf s slot = some i) :
    held (passStart s slot step ks) = held (framesNext s slot step) := by
  rcases passStart_cases (step := step) ks h with ⟨-, e⟩ | ⟨-, e⟩
  · rw [e]
  · rw [e, held_unitStarts]

/-- The next pass starts, and the Spoon runs that wait are tried. -/
def passNext (s : State) (slot : Nat) (step : W64) : State := spoonWake (passStart s slot step (ownedKeys s slot))

theorem held_passNext (h : instOf s slot = some i) : held (passNext s slot step) = held (framesNext s slot step) := by
  rw [passNext, held_spoonWake, held_passStart _ h]

theorem passPlace_passNext {k : Nat} (h : instOf s slot = some i) (hstep : (passBegun step (passEnded i)).passStep = some step)
    (hk : k ∈ ownedKeys (passNext s slot step) slot) :
    passPlace (tileAt (passNext s slot step) k) = startPlace i step (passNext s slot step) k := by
  unfold passNext at hk ⊢
  rcases passStart_cases (step := step) (ownedKeys s slot) h with ⟨hnone, -⟩ | ⟨-, e⟩
  · rw [hnone] at hstep; cases hstep
  · rw [e, ← ownedKeys_of_tiles (framesNext_tiles s slot step)] at hk ⊢
    exact passPlace_unitStarts (passBegun step (passEnded i)) step (framesNext s slot step) hk

end PassStart

/-! ### What takes effect at the boundary leaves the frames -/

/-- What a slot runs, its recording and its layers blanked. -/
def besidesLayers (i : Instance) : Instance := { i with record := {}, layers := [] }

theorem besidesLayers_unrecorded (i : Instance) : besidesLayers i.unrecorded = besidesLayers i := rfl

/-- The state but for `slot`'s layers and the recordings. -/
structure KeepsFrames (slot : Nat) (s t : State) : Prop where
  mem    : t.stackMem = s.stackMem
  pot    : t.pot = s.pot
  others : ∀ n, n ≠ slot → instView t n = instView s n
  own    : (instOf t slot).map besidesLayers = (instOf s slot).map besidesLayers

theorem instView_of_held {s t : State} (h : held t = held s) (n : Nat) : instView t n = instView s n :=
  congrFun (congrArg (fun p => p.2.2) h :) n

theorem keepsFrames_of_held (slot : Nat) {s t : State} (h : held t = held s) : KeepsFrames slot s t := by
  obtain ⟨hmem, hpot, hinst⟩ : t.stackMem = s.stackMem ∧ t.pot = s.pot ∧ instView t = instView s := by
    simpa only [held, Prod.mk.injEq] using h
  refine ⟨hmem, hpot, fun n _ => congrFun hinst n, ?_⟩
  have hview := congrArg (Option.map besidesLayers) (congrFun hinst slot)
  simpa only [instView, Option.map_map, Function.comp_def, besidesLayers_unrecorded] using hview

theorem KeepsFrames.trans {slot : Nat} {s t u : State} (h : KeepsFrames slot s t) (h' : KeepsFrames slot t u) :
    KeepsFrames slot s u :=
  ⟨h'.mem.trans h.mem, h'.pot.trans h.pot, fun n hn => (h'.others n hn).trans (h.others n hn), h'.own.trans h.own⟩

theorem held_applyRepair (s : State) (L : LayerSt) : held (applyRepair s L) = held s :=
  held_foldl (fun s _ => held_modTile s _ _) _ s

theorem keepsFrames_modLayers (s : State) (slot : Nat) (f : Instance → List LayerSt) :
    KeepsFrames slot s (modInst s slot (fun i => { i with layers := f i })) := by
  refine ⟨modInst_stackMem .., modInst_pot .., fun n hn => ?_, ?_⟩
  · unfold instView; rw [instOf_modInst, if_neg hn]
  · rw [instOf_modInst, if_pos rfl, Option.map_map]; rfl

theorem keepsFrames_repairsNow (s : State) (slot : Nat) : KeepsFrames slot s (repairsNow s slot) := by
  unfold repairsNow
  split
  · exact keepsFrames_of_held slot rfl
  · exact (keepsFrames_of_held slot (held_foldl held_applyRepair _ s)).trans (keepsFrames_modLayers _ slot _)

/-- Takes effect at a boundary before the repairs: columns, staged words, a core's replacement, handovers, shadow values. -/
def effectsFirst (s : State) (slot : Nat) : State :=
  let ks := ownedKeys s slot
  let s := ks.foldl (fun s m => tileNow s (physTile s m)) s
  let s := (keySites ks).foldl (fun s site => activateSlots s false site (siteSlots ks site)) s
  let s := takeovers s slot
  (ownedKeys s slot).foldl shadowNow ((ownedKeys s slot).foldl handover s)

theorem held_effectsFirst (s : State) (slot : Nat) : held (effectsFirst s slot) = held s := by
  unfold effectsFirst
  dsimp only
  rw [held_foldl held_shadowNow, held_foldl held_handover, held_takeovers,
    held_foldl (fun s site => held_activateSlots s false site _), held_foldl (fun s m => held_tileNow s _)]

theorem boundaryEffects_eq (s : State) (slot : Nat) : ∃ (ks : List Nat) (old : SMap Nat), boundaryEffects s slot =
    (keySites ks).foldl (fun s site => fallbackSite s ks old site) (repairsNow (effectsFirst s slot) slot) := ⟨_, _, rfl⟩

theorem keepsFrames_boundaryEffects (s : State) (slot : Nat) : KeepsFrames slot s (boundaryEffects s slot) := by
  obtain ⟨ks, old, e⟩ := boundaryEffects_eq s slot
  have hfallback : held (boundaryEffects s slot) = held (repairsNow (effectsFirst s slot) slot) := by
    rw [e]; exact held_foldl (fun s site => held_fallbackSite s ks old site) _ _
  exact ((keepsFrames_of_held slot (held_effectsFirst s slot)).trans (keepsFrames_repairsNow _ slot)).trans
    (keepsFrames_of_held slot hfallback)

/-! ### The boundary -/

section PassNext

variable {s : State} {slot : Nat} (step : W64) {i : Instance} (h : instOf s slot = some i)
include h

theorem instView_passNext_same : instView (passNext s slot step) slot = some (passBegun step (passEnded i)).unrecorded := by
  rw [instView_of_held (held_passNext h), instView, instOf_framesNext_same s slot step h]
  rfl

theorem instView_passNext_ne {n : Nat} (hn : n ≠ slot) : instView (passNext s slot step) n = instView s n := by
  rw [instView_of_held (held_passNext h), instView, instOf_framesNext_ne s slot step hn]
  rfl

theorem passNext_stackMem : (passNext s slot step).stackMem = s.stackMem :=
  (keepsFrames_of_held slot (held_passNext h)).mem.trans (framesNext_stackMem ..)

theorem passNext_pot : (passNext s slot step).pot = s.pot :=
  (keepsFrames_of_held slot (held_passNext h)).pot.trans (framesNext_pot ..)

end PassNext

theorem passBoundary_of_idle {s : State} {slot : Nat} {i : Instance} (hi : instOf s slot = some i)
    (h : chainsIdle s slot = true) (step : W64) : passBoundary s slot step = passNext (boundaryEffects s slot) slot step := by
  have hgo : ¬(((instOf s slot).isNone || !chainsIdle s slot) = true) := by simp [hi, h]
  rw [passBoundary, if_neg hgo]
  rfl

theorem passBoundary_of_busy {s : State} {slot : Nat} (h : chainsIdle s slot = false) (step : W64) : passBoundary s slot step = s := by
  rw [passBoundary, if_pos (by simp [h])]

theorem execPassBoundary_eq {slot : Nat} (h : slot < 64) (step : W64) (s : State) :
    exec (.passBoundary slot step) s = .next (passBoundary s slot step) :=
  onUnit_of_true (decide_eq_true h) _

/-! ### The end of a window -/

theorem execFbWindowEnd_of_due {s : State} (h : windowDue s s.fbWinAt = true) :
    exec .fbWindowEnd s = .next ((placedSites s).foldl windowCore { s with fbWinAt := some s.rackTime }) := by
  have e : exec .fbWindowEnd s = .next (if windowDue s s.fbWinAt then
    (placedSites s).foldl windowCore { s with fbWinAt := some s.rackTime } else s) := rfl
  rw [e, if_pos h]

theorem execFbWindowEnd_of_notDue {s : State} (h : windowDue s s.fbWinAt = false) : exec .fbWindowEnd s = .next s := by
  have e : exec .fbWindowEnd s = .next (if windowDue s s.fbWinAt then
    (placedSites s).foldl windowCore { s with fbWinAt := some s.rackTime } else s) := rfl
  rw [e, h]
  rfl

theorem sliceView_fbWinAt (s : State) (w : Option W64) (site head : Nat) :
    sliceView site head { s with fbWinAt := w } = sliceView site head s := rfl

/-- Settles O50: the boundary's effects leave the slot's frames, its pass starts on the tiles it owns, and a window ends
slice by slice. -/
theorem boundariesAndWindows : Obligations.BoundariesAndWindows := by
  refine ⟨fun s slot step i hslot hi hidle => ?boundary, fun s slot step hslot hbusy => ?busy, fun s hms hfresh hinj => ?window,
    fun s h => ?notDue⟩
  case busy =>
    rw [execPassBoundary_eq hslot, passBoundary_of_busy hbusy]
  case notDue =>
    apply execFbWindowEnd_of_notDue
    unfold windowDue
    rcases h with h | h <;> simp [h]
  case boundary =>
    have hkeep := keepsFrames_boundaryEffects s slot
    obtain ⟨i', hi', hsame⟩ : ∃ i', instOf (boundaryEffects s slot) slot = some i' ∧ besidesLayers i' = besidesLayers i := by
      simpa only [hi, Option.map_some, Option.map_eq_some_iff] using hkeep.own
    have hflight : i'.flight = i.flight := (congrArg Instance.flight hsame :)
    have hpass : i'.passStep = i.passStep := (congrArg Instance.passStep hsame :)
    refine ⟨_, (passBegun step (passEnded i')).unrecorded, execPassBoundary_eq hslot step s, ?_⟩
    rw [passBoundary_of_idle hi hidle]
    refine ⟨instView_passNext_same step hi', ?flight, rfl, fun hstep k hk => ?tiles, (congrArg Instance.step hsame :), (congrArg Instance.ctxs hsame :),
      (congrArg Instance.waiting hsame :), fun n hn => (instView_passNext_ne step hi' hn).trans (hkeep.others n hn),
      (passNext_stackMem step hi').trans hkeep.mem, (passNext_pot step hi').trans hkeep.pot⟩
    case flight =>
      rw [← hflight, ← hpass]; rfl
    case tiles =>
      have hplace := passPlace_passNext hi' hstep hk
      simp only [passPlace, startPlace, Prod.mk.injEq] at hplace
      obtain ⟨hvec, hbuf, hdither⟩ := hplace
      have hseed : i'.seed = i.seed := (congrArg Instance.seed hsame :)
      have hord : i'.ordinal = i.ordinal := (congrArg Instance.ordinal hsame :)
      exact ⟨hvec, hbuf, hdither.trans (by rw [hseed, hord])⟩
  case window =>
    have hdue : windowDue s s.fbWinAt = true := by simp [windowDue, hms, hfresh]
    refine ⟨_, execFbWindowEnd_of_due hdue, ?rest, fun site hsite head hhead hh => ?slices⟩
    case rest =>
      exact eq_withWordsCores (foldl_view (fun site _ u => butWordsCores_windowCore u site) { s with fbWinAt := some s.rackTime })
    case slices =>
      obtain ⟨hclip, hcount, hescal, hkept⟩ := windowEnds_windowCores { s with fbWinAt := some s.rackTime } (List.nodup_dedup _)
        hinj hsite hhead hh
      rw [sliceView_fbWinAt] at hclip hescal hkept
      refine ⟨hclip, hcount, fun hen hoff hmode hthr => ?_, fun hmode => ?_⟩
      · exact List.contains_iff_mem.mp (hescal hen (Bool.eq_false_iff.mpr fun h => hoff (List.contains_iff_mem.mp h)) hmode hthr)
      · rw [← List.contains_iff_mem, ← List.contains_iff_mem]
        exact iff_of_eq (congrArg (· = true) (hkept hmode))

end Sys2Proof.Machine
end

section
/-! SUPPORT. Work items of a digital engine on a core whose store is sound: the item's words are good, its clocks are counted, and no
core is declared failed (05 R126, 20 R463). -/

namespace Sys2Proof.Machine

/-! ### Cores about to be declared failed -/

/-- No core is about to be declared failed (20 R463). -/
def NoCoreFails (s : State) : Prop := ∀ c ∈ s.cores, c.2.ueFatal = false

theorem NoCoreFails.ueFatal_coreAt {s : State} (h : NoCoreFails s) (k : Nat) : (coreAt s k).ueFatal = false := by
  unfold coreAt mapGet
  cases hf : mapFind s.cores k with
  | none => rfl
  | some c => exact h _ (mem_of_mapFind hf)

theorem NoCoreFails.setCore {s : State} (h : NoCoreFails s) (k : Nat) {x : CoreSt} (hx : x.ueFatal = false) :
    NoCoreFails (setCore s k x) := by
  intro c hc
  rcases mem_of_mem_mapPut hc with rfl | hc
  · exact hx
  · exact h c hc

theorem NoCoreFails.modCore {s : State} (h : NoCoreFails s) (k : Nat) {f : CoreSt → CoreSt} (hf : ∀ c, (f c).ueFatal = c.ueFatal) :
    NoCoreFails (modCore s k f) :=
  h.setCore k ((hf _).trans (h.ueFatal_coreAt k))

theorem NoCoreFails.of_cores {s t : State} (h : NoCoreFails s) (hc : t.cores = s.cores) : NoCoreFails t := by
  unfold NoCoreFails; rwa [hc]

theorem declared_of_noCoreFails {s : State} (h : NoCoreFails s) : declared s = s :=
  foldl_view (v := id) (fun c hc u => if_neg (by simp [h c hc])) s

/-! ### The words an item reads -/

section Sound

variable {s : State} {site : Nat} (h : StoreSound s site)
include h

theorem badWords_of_storeSound : badWords s site = [] := by
  unfold badWords
  rw [List.filterMap_eq_nil_iff]
  intro k hk
  obtain ⟨w, hw, rfl⟩ := List.mem_map.mp hk
  have hne := h.1 w hw
  exact if_neg (by omega)

/-- Of a sound store an item finds no bad word. -/
theorem itemCheck_of_storeSound (who : Option Nat) (rs : List (Nat × Nat)) : itemCheck s site who rs = (false, s) := by
  have hbad : ∀ a n, badIn s site a n = [] := fun _ _ => by rw [badIn, badWords_of_storeSound h]; rfl
  simp [itemCheck, storeBadRange, hbad, storeCheck]

theorem sliceItem_of_storeSound (slot : Nat) (rs : List (Nat × Nat)) (run : State → State) :
    sliceItem s site slot rs run = run s := by
  rw [sliceItem, itemCheck_of_storeSound h]
  rfl

end Sound

/-! ### The clocks of an item (05 Table 05.7) -/

theorem butWordsCores_setCore (s : State) (k : Nat) (x : CoreSt) : butWordsCores (setCore s k x) = butWordsCores s := rfl

theorem cores_of_butWordsTiles {s t : State} (h : butWordsTiles t = butWordsTiles s) : t.cores = s.cores := (congrArg State.cores h :)

theorem tiles_of_butWordsCores {s t : State} (h : butWordsCores t = butWordsCores s) : t.tiles = s.tiles := (congrArg State.tiles h :)

theorem storeBad_of_butWordsCores {s t : State} (h : butWordsCores t = butWordsCores s) : t.storeBad = s.storeBad :=
  (congrArg State.storeBad h :)

theorem butWork_of_butWordsCores {s t : State} (h : butWordsCores t = butWordsCores s) : butWork t = butWork s :=
  congrArg (fun u : State => { u with tiles := [] }) h

section EngBusy

variable (s : State) (site cls clocks : Nat)

/-- The busy clocks of a class stand in the core's remainder and in one counter. -/
theorem engBusy_eq : ∃ rem n, engBusy s site cls clocks =
    incWrap (setCore s site { coreAt s site with busyRem := rem }) (engReg site (0x10 + 4 * (cls - 1))) n := by
  unfold engBusy
  exact ⟨_, _, rfl⟩

theorem butWordsCores_engBusy : butWordsCores (engBusy s site cls clocks) = butWordsCores s := by
  obtain ⟨rem, n, e⟩ := engBusy_eq s site cls clocks
  rw [e, incWrap, butWordsCores_wr, butWordsCores_setCore]

theorem engBusy_tiles : (engBusy s site cls clocks).tiles = s.tiles :=
  tiles_of_butWordsCores (butWordsCores_engBusy s site cls clocks)

theorem engBusy_storeBad : (engBusy s site cls clocks).storeBad = s.storeBad :=
  storeBad_of_butWordsCores (butWordsCores_engBusy s site cls clocks)

theorem rd_engBusy_ne {p : Nat} (hp : p ≠ engReg site (0x10 + 4 * (cls - 1))) : rd (engBusy s site cls clocks) p = rd s p := by
  obtain ⟨rem, n, e⟩ := engBusy_eq s site cls clocks
  rw [e, rd_incWrap_ne _ _ hp, rd_of_cw (setCore_cw ..)]

theorem NoCoreFails.engBusy {s : State} (h : NoCoreFails s) : NoCoreFails (engBusy s site cls clocks) := by
  obtain ⟨rem, n, e⟩ := engBusy_eq s site cls clocks
  have hcore : NoCoreFails (Machine.setCore s site { coreAt s site with busyRem := rem }) := h.setCore site (h.ueFatal_coreAt site)
  rw [e]
  exact hcore.of_cores (incWrap_cores ..)

theorem storeSound_engBusy {s : State} {core : Nat} (h : StoreSound s core) : StoreSound (engBusy s site cls clocks) core := by
  refine ⟨?_, NoCoreFails.engBusy site cls clocks h.2⟩
  rw [engBusy_storeBad]
  exact h.1

end EngBusy

end Sys2Proof.Machine
end

section
/-! PROOF. O48: the Sieve's terms go into the wide accumulators between the promotion and the close. -/

namespace Sys2Proof.Machine

/-! ### The members' products are no longer due -/

/-- A tile whose Sieve products are not due. -/
def withoutSieve (x : TileSt) : TileSt := { x with work := { x.work with sieveDue := false } }

theorem wideAt_withoutSieve (x : TileSt) (c : Nat) : wideAt (withoutSieve x) c = wideAt x c := rfl

theorem clearSieveDue_eq (site : Nat) (ms : List Nat) (s : State) :
    clearSieveDue site ms s = ms.foldl (fun s n => modTile s (tkey site n) withoutSieve) s := by
  induction ms generalizing s with
  | nil => rfl
  | cons n ms ih => exact ih _

section ClearSieveDue

variable (site : Nat) {ms : List Nat} (s : State)

theorem butWordsTiles_clearSieveDue : butWordsTiles (clearSieveDue site ms s) = butWordsTiles s := by
  rw [clearSieveDue_eq]
  exact foldl_view (fun n _ u => butWordsTiles_modTile u (tkey site n) withoutSieve) s

theorem clearSieveDue_cw : (clearSieveDue site ms s).cw = s.cw := by
  rw [clearSieveDue_eq]
  exact foldl_view (v := State.cw) (fun n _ u => modTile_cw u (tkey site n) withoutSieve) s

theorem tileAt_clearSieveDue_of_notMem {j : Nat} (h : ∀ n ∈ ms, j ≠ tkey site n) :
    tileAt (clearSieveDue site ms s) j = tileAt s j := by
  rw [clearSieveDue_eq]
  exact foldl_view (v := (tileAt · j)) (fun n hn u => tileAt_modTile_ne u withoutSieve (h n hn)) s

theorem tileAt_clearSieveDue_of_mem (hnd : ms.Nodup) {n : Nat} (h : n ∈ ms) :
    tileAt (clearSieveDue site ms s) (tkey site n) = withoutSieve (tileAt s (tkey site n)) := by
  obtain ⟨u, hu, hlast⟩ := foldl_view_at (v := (tileAt · (tkey site n))) (f := fun s n => modTile s (tkey site n) withoutSieve) hnd h
    (fun m _ hne u => tileAt_modTile_ne u withoutSieve (fun e => hne (tkey_inj.mp e).symm)) s
  rw [clearSieveDue_eq, hlast, tileAt_modTile_same]
  exact congrArg withoutSieve hu

end ClearSieveDue

/-! ### The add-back -/

/-- A_c of a chain (04 R94). -/
def sieveSum (s : State) (site head c : Nat) : Int :=
  ((chainMembers s site head).map (fun n => ((workOf s (tkey site n)).removed.map (fun r =>
    8 * 2 ^ (edgeCfg s site head).tgt * shadowW (tileAt s (tkey site n)) r.1 c * r.2)).sum)).sum

theorem addbackTerm_of_tiles {s t : State} (h : t.tiles = s.tiles) (site n tgt c : Nat) : addbackTerm t site n tgt c =
    ((workOf s (tkey site n)).removed.map (fun r => 8 * 2 ^ tgt * shadowW (tileAt s (tkey site n)) r.1 c * r.2)).sum := by
  unfold addbackTerm workOf
  rw [tileAt_of_tiles h]

/-- The clocks of the chain's products are counted, and its sum goes into the head's accumulators. -/
def sieveAdded (s : State) (site head : Nat) : State :=
  wideAddCount (engBusy s site 1 (sieveClocks s site (chainMembers s site head))) site head (sieveSum s site head)

section SieveAdded

variable (s : State) (site head : Nat)

theorem butWork_sieveAdded : butWork (sieveAdded s site head) = butWork s :=
  (butWork_of_butWordsTiles (butWordsTiles_wideAddCount ..)).trans
    (butWork_of_butWordsCores (butWordsCores_engBusy s site 1 _))

theorem physTile_of_tiles {s t : State} (h : t.tiles = s.tiles) (k : Nat) : physTile t k = physTile s k := by
  unfold physTile; rw [tileAt_of_tiles h]

theorem tileAt_sieveAdded_head : tileAt (sieveAdded s site head) (tkey site head) =
    (wideAdd (tileAt s (tkey site head)) (sieveSum s site head)).1 := by
  rw [sieveAdded, tileAt_wideAddCount_head, tileAt_of_tiles (engBusy_tiles s site 1 _)]

theorem tileAt_sieveAdded_ne {j : Nat} (h : j ≠ tkey site head) : tileAt (sieveAdded s site head) j = tileAt s j :=
  (tileAt_wideAddCount_ne _ site head _ h).trans (tileAt_of_tiles (engBusy_tiles s site 1 _) j)

theorem tileReg_ne_engReg {k a b : Nat} (ha : a < 0x2000) (hb : b < 0x1000) : tileReg k a ≠ engReg site b := by
  unfold tileReg engReg; omega

theorem rd_sieveAdded_count : rd (sieveAdded s site head) (tileReg (physTile s (tkey site head)) 0x44) =
    BitVec.ofNat 32 (Nat.min ((rd s (tileReg (physTile s (tkey site head)) 0x44)).toNat + ((List.range 512).filter (fun c =>
      decide (wideAt (tileAt s (tkey site head)) c + sieveSum s site head c < -2147483648 ∨
        2147483647 < wideAt (tileAt s (tkey site head)) c + sieveSum s site head c))).length) 0xFFFF) := by
  have hcount := rd_wideAddCount_count (engBusy s site 1 (sieveClocks s site (chainMembers s site head))) site head (sieveSum s site head)
  rw [tileAt_of_tiles (engBusy_tiles s site 1 _), physTile_of_tiles (engBusy_tiles s site 1 _),
    rd_engBusy_ne s site 1 _ (tileReg_ne_engReg site (by decide) (by decide)), wideAdd_count] at hcount
  rw [sieveAdded, hcount]

theorem rd_sieveAdded_ne {p : Nat} (h : p ∉ [tileReg (physTile s (tkey site head)) 0x44, engReg site 0x10]) :
    rd (sieveAdded s site head) p = rd s p := by
  simp only [List.mem_cons, List.not_mem_nil, or_false, not_or] at h
  have hphys := physTile_of_tiles (engBusy_tiles s site 1 (sieveClocks s site (chainMembers s site head))) (tkey site head)
  rw [sieveAdded, rd_wideAddCount_ne _ site head _ (by rw [hphys]; exact h.1), rd_engBusy_ne s site 1 _ h.2]

theorem noCoreFails_sieveAdded {s : State} (h : NoCoreFails s) (ms : List Nat) :
    NoCoreFails (clearSieveDue site ms (sieveAdded s site head)) :=
  (NoCoreFails.engBusy site 1 _ h).of_cores <|
    (cores_of_butWordsTiles (butWordsTiles_clearSieveDue site _)).trans (cores_of_butWordsTiles (butWordsTiles_wideAddCount ..))

end SieveAdded

theorem execSieveAddback_eq {site head : Nat} (hs : site < 800) (hh : head < 16) (s : State) :
    exec (.sieveAddback site head) s = .next (declared (sieveAdd s site head)) :=
  onUnit_of_true (by simp [hs, hh]) _

theorem isHead_of_sieveReady {s : State} {site head : Nat} (h : sieveReady s site head = true) : isHead s site head = true := by
  simp only [sieveReady, Bool.and_eq_true] at h
  exact h.1.1.1

theorem sieveAdd_of_ready {s : State} {site head : Nat} {o : Owner} (ho : sliceOwner s site head = some o)
    (hr : sieveReady s site head = true) (hs : StoreSound s site) :
    sieveAdd s site head = clearSieveDue site (chainMembers s site head) (sieveAdded s site head) := by
  rw [sieveAdd, ho]
  dsimp only
  rw [if_pos hr, sliceItem_of_storeSound (storeSound_engBusy site 1 _ hs)]
  simp only [addbackTerm_of_tiles (engBusy_tiles s site 1 _)]
  rfl

theorem sieveAdd_of_notPromoted {s : State} {site head : Nat} (h : (workOf s (tkey site head)).promoted = false) :
    sieveAdd s site head = s := by
  have hr : sieveReady s site head = false := by simp [sieveReady, h]
  unfold sieveAdd
  split
  · rfl
  · exact if_neg (by simp [hr])

theorem execChainPromotion_of_promoted {s : State} {site head : Nat} (hs : site < 800) (hh : head < 16)
    (h : (workOf s (tkey site head)).promoted = true) : exec (.chainPromotion site head) s = .next s := by
  have e : exec (.chainPromotion site head) s = .next (chainPromote s site head) := onUnit_of_true (by simp [hs, hh]) _
  rw [e, chainPromote, if_neg (by simp [promotable, h])]

theorem execColumnClose_of_sieveDue {s : State} {site head : Nat} (hs : site < 800) (hh : head < 16)
    (h : ∃ n ∈ chainMembers s site head, (workOf s (tkey site n)).sieveDue = true) :
    exec (.columnClose site head) s = .next s := by
  rw [execColumnClose_eq hs hh, columnClose, closable_eq_false (.inr h)]
  rfl

/-- Settles O48: a ready chain's sum goes into the head's accumulators and its members are due no longer; before the promotion
nothing is added, and the close and the next promotion wait. -/
theorem addBackFollowsPromotion : Obligations.AddBackFollowsPromotion := by
  refine ⟨fun s site head o hsite hhead ho hr hs => ?adds, fun s site head hsite hhead hcores hp => ?early,
    fun s site head hsite hhead h => execColumnClose_of_sieveDue hsite hhead h,
    fun s site head hsite hhead h => execChainPromotion_of_promoted hsite hhead h⟩
  case early =>
    rw [execSieveAddback_eq hsite hhead, sieveAdd_of_notPromoted hp, declared_of_noCoreFails hcores]
  case adds =>
    have hmem := head_mem_chainMembers (isHead_of_sieveReady hr)
    have hnd := nodup_chainMembers s site head
    refine ⟨_, execSieveAddback_eq hsite hhead s, ?_⟩
    rw [sieveAdd_of_ready ho hr hs, declared_of_noCoreFails (noCoreFails_sieveAdded site head hs.2 _)]
    refine ⟨⟨fun c hc => ?wide, ?count⟩, fun n hn => ?members, fun p hp => ?words, fun j hj => ?others, ?rest⟩
    case wide =>
      rw [tileAt_clearSieveDue_of_mem site _ hnd hmem, tileAt_sieveAdded_head]
      exact (wideAt_withoutSieve _ c).trans (wideAt_wideAdd _ _ hc)
    case count =>
      rw [rd_of_cw (clearSieveDue_cw ..)]
      exact rd_sieveAdded_count s site head
    case members =>
      rw [workOf, tileAt_clearSieveDue_of_mem site _ hnd hn]
      rfl
    case words =>
      rw [rd_of_cw (clearSieveDue_cw ..), rd_sieveAdded_ne s site head hp]
    case others =>
      rw [tileAt_clearSieveDue_of_notMem site _ hj, tileAt_sieveAdded_ne s site head (hj head hmem)]
    case rest =>
      exact eq_withWork ((butWork_of_butWordsTiles (butWordsTiles_clearSieveDue ..)).trans (butWork_sieveAdded s site head))

end Sys2Proof.Machine
end

section
/-! SUPPORT. Stockpot's pages: what taking and freeing them leaves of the state, and the object that is made or gone
(09 R216, R222, R223). -/

namespace Sys2Proof.Machine

/-- Blanks what Stockpot's steps may change: its tables, the words, interrupts and the number of free values used. -/
def butPot (s : State) : State := { s.butHost with cw := [], pot := {}, freeNo := 0 }

/-- What the steps on pages leave: all but Stockpot, and its objects. -/
def offPages (s : State) : State × SMap Obj := (butPot s, s.pot.objs)

theorem butPot_of_offPages {s t : State} (h : offPages t = offPages s) : butPot t = butPot s := (congrArg Prod.fst h :)
theorem objs_of_offPages {s t : State} (h : offPages t = offPages s) : t.pot.objs = s.pot.objs := (congrArg Prod.snd h :)

theorem stackMem_of_butPot {s t : State} (h : butPot t = butPot s) : t.stackMem = s.stackMem := (congrArg State.stackMem h :)
theorem insts_of_butPot {s t : State} (h : butPot t = butPot s) : t.insts = s.insts := (congrArg State.insts h :)
theorem ringH_of_butPot {s t : State} (h : butPot t = butPot s) : t.ringH = s.ringH := (congrArg State.ringH h :)

theorem offPages_of_butHost {s t : State} (h : t.butHost = s.butHost) : offPages t = offPages s :=
  congrArg (fun u : State => (({ u with cw := [], pot := {}, freeNo := 0 } : State), u.pot.objs)) h

variable (s : State)

/-! ### Pages -/

theorem offPages_wr (o : Nat) (v : W32) : offPages (wr s o v) = offPages s := rfl

theorem offPages_lowCheck : offPages (lowCheck s) = offPages s := by
  unfold lowCheck
  split
  · split
    · exact (offPages_of_butHost (signal_butHost ..)).trans rfl
    · rfl
  · split <;> rfl

theorem offPages_toPool (f : Nat) (page : Bool) : offPages (toPool s f page) = offPages s := by
  rw [toPool, offPages_lowCheck]
  split
  · exact (offPages_wr _ _ _).trans rfl
  · rfl

theorem offPages_leaveFrame (f : Nat) (page : Bool) : offPages (leaveFrame s f page) = offPages s := by
  unfold leaveFrame
  dsimp only
  split
  · rfl
  · exact (offPages_toPool _ f page).trans rfl

theorem offPages_dropPage (p : Page) : offPages (dropPage s p) = offPages s := by
  unfold dropPage
  split
  · rfl
  · split
    · exact (offPages_wr _ _ _).trans rfl
    · exact offPages_leaveFrame s p.frame true

theorem offPages_dropPages (ps : List Page) : offPages (dropPages s ps) = offPages s :=
  foldl_view (fun p _ u => offPages_dropPage u p) s

theorem offPages_allocPage {secure : Bool} {handle i : Nat} {p : Page} {u : State}
    (h : allocPage s secure handle i = some (p, u)) : offPages u = offPages s := by
  unfold allocPage at h
  split at h
  · cases h
    exact (offPages_lowCheck _).trans ((offPages_wr _ _ _).trans rfl)
  · cases h

/-- Pages are given in the number that was asked for. -/
theorem allocPages_some {secure : Bool} {handle i n : Nat} {ps : List Page} {u : State}
    (h : allocPages s secure handle i n = some (ps, u)) : ps.length = n ∧ offPages u = offPages s := by
  induction n generalizing s i ps with
  | zero => cases h; exact ⟨rfl, rfl⟩
  | succ n ih =>
    unfold allocPages at h
    split at h
    · rename_i p s1 hp
      split at h
      · rename_i qs s2 hqs
        cases h
        obtain ⟨hlen, hoff⟩ := ih s1 hqs
        exact ⟨congrArg (· + 1) hlen, hoff.trans (offPages_allocPage s hp)⟩
      · cases h
    · cases h

/-! ### Objects -/

theorem butPot_setObj (h : Nat) (o : Obj) : butPot (setObj s h o) = butPot s := rfl

theorem objAt_setObj_same (h : Nat) (o : Obj) : objAt (setObj s h o) h = some o := mapFind_mapSet_same _ _ _

theorem butPot_freeObj (h : Nat) : butPot (freeObj s h) = butPot s := by
  unfold freeObj
  split
  · exact (butPot_of_offPages (offPages_dropPages (delObj s h) _)).trans rfl
  · rfl

theorem objAt_freeObj (h : Nat) : objAt (freeObj s h) h = none := by
  unfold freeObj
  split
  · rename_i o _
    have hobjs : (dropPages (delObj s h) o.pages).pot.objs = mapDel s.pot.objs h := objs_of_offPages (offPages_dropPages (delObj s h) o.pages)
    have hdel : mapFind (mapDel s.pot.objs h) h = none := mapFind_mapDel_same _ _
    rwa [← hobjs] at hdel
  · assumption

theorem butPot_freeObjOpt (h : Option Nat) : butPot (freeObjOpt s h) = butPot s := by
  cases h with
  | none => rfl
  | some h => exact butPot_freeObj s h

theorem butPot_newObj {c inst : Nat} {secure : Bool} {h : Nat} {u : State} (e : newObj s c inst secure = some (h, u)) :
    butPot u = butPot s := by
  unfold newObj at e
  split at e
  · split at e
    · cases e; rfl
    · cases e
  · cases e

/-- An object with pages is made, with as many as were asked for. -/
theorem newObjPages_made {c inst n : Nat} {secure pinned : Bool} {h : Nat} {u : State}
    (e : newObjPages s c inst secure pinned n = some (h, u)) : butPot u = butPot s ∧ (objFrames u (some h)).length = n := by
  unfold newObjPages at e
  split at e
  · cases e
  · split at e
    · cases e
    · rename_i g s1 hnew
      split at e
      · cases e
      · rename_i ps s2 hpages
        obtain ⟨hlen, hoff⟩ := allocPages_some s1 hpages
        cases e
        refine ⟨(butPot_setObj ..).trans ((butPot_of_offPages hoff).trans (butPot_newObj s hnew)), ?_⟩
        simp [objFrames, objAt_setObj_same, hlen]

end Sys2Proof.Machine
end

section
/-! SUPPORT. Host memory after a response: a command that records nothing writes no host memory of its own (15 R366, 16 R383). -/

namespace Sys2Proof.Machine

variable (s : State) (m : MbxId)

theorem recorded_of_noSlots {s : State} {m : MbxId} {op : Nat} (h : cmdSlots s m op = []) (st : Nat) (f : Bool) :
    recorded s m op st f = s := by
  unfold recorded recordCommand
  rw [h]
  split <;> rfl

theorem post_hostMem_of_recorded {s : State} {m : MbxId} {op st : Nat} {f : Bool} (h : recorded s m op st f = s) (p : Bytes) :
    (post s m st op p f).hostMem = s.hostMem := by
  rw [post_eq, h]
  dsimp only
  split
  · exact (signal_hostMem _ _ _).1
  · rfl

theorem accept_hostMem : (accept s m).hostMem = s.hostMem := post_hostMem_of_recorded rfl _

theorem finish_mref {u : State} (hm : mbxAt u m = mbxAt (accept s m) m) (st : Nat) (p : Bytes) :
    finish u (mref s m) st p = post u m st (reqOp s m) p true := by
  have ha : mbxAt (accept s m) m = postedBox (mbxAt s m) stAccepted (reqOp s m) [] false := post_mbx ..
  have he : (mbxAt u m).epoch = (mbxAt s m).epoch := by rw [hm, ha]; rfl
  exact if_pos he

/-- Only the commands of instances and of register writes are recorded (14 Table 14.4). -/
theorem cmdSlots_of_readCommand {op : Nat} (h : op = 0x0502 ∨ op = 0x0503) : cmdSlots s m op = [] := by
  rcases h with rfl | rfl <;> rfl

theorem dmaWrite_hostMem_eq (pf : Nat) (a : W64) (bs : Bytes) :
    (dmaWrite s pf a bs).hostMem = if busMaster s pf then memWrite s.hostMem a.toNat bs else s.hostMem := by
  unfold dmaWrite
  split <;> rfl

/-- A host write depends on host memory and on Bus Master Enable alone. -/
theorem dmaWrite_hostMem_congr {s t : State} (hmem : t.hostMem = s.hostMem) (h0 : t.bme0 = s.bme0) (h1 : t.bme1 = s.bme1)
    (pf : Nat) (a : W64) (bs : Bytes) : (dmaWrite t pf a bs).hostMem = (dmaWrite s pf a bs).hostMem := by
  rw [dmaWrite_hostMem_eq, dmaWrite_hostMem_eq, hmem, busMaster, busMaster, h0, h1]

end Sys2Proof.Machine
end

section
/-! SUPPORT. On-demand Spoon runs (04 R112): what of the state decides whether one starts, what a test vector leaves, and the runs
that wait. -/

namespace Sys2Proof.Machine

/-! ### What decides whether a run starts -/

/-- What of a tile decides whether a run can start, and where. -/
def runView (x : TileSt) : Option Owner × Bool × Option Nat × Option Nat × Bool × Bool :=
  (x.owner, x.covered, x.serves, x.lastServed, x.shadowIn, x.zeroed)

section SameTiles

variable {s t : State} (hview : ∀ k, runView (tileAt t k) = runView (tileAt s k))
include hview

theorem memberOf_congr (k : Nat) : memberOf t k = memberOf s k := by
  have h := hview k
  simp only [runView, Prod.mk.injEq] at h
  unfold memberOf
  rw [h.2.1, h.2.2.1]

theorem spoonSite_congr (k : Nat) : spoonSite t k = spoonSite s k := by
  unfold spoonSite
  rw [memberOf_congr hview]

theorem chainMembers_congr_view (hact : t.act = s.act) (site head : Nat) : chainMembers t site head = chainMembers s site head := by
  have hown : ∀ k, (tileAt t k).owner = (tileAt s k).owner := fun k => congrArg Prod.fst (hview k)
  have hcov : ∀ k, (tileAt t k).covered = (tileAt s k).covered := fun k => congrArg (fun x => x.2.1) (hview k)
  have hphys : ∀ k, physTile t k = physTile s k := fun k => by unfold physTile; rw [hcov]
  have hn : ∀ k, chainN t k = chainN s k := fun k => by unfold chainN; rw [hphys, rdFA_of_act hact]
  have hid : ∀ k, chainId t k = chainId s k := fun k => by unfold chainId; rw [hphys, rdFA_of_act hact]
  unfold chainMembers ownerSlot
  dsimp only
  rw [hn]
  simp only [hn, hid, hown]

theorem testWeights_congr (k : Nat) : testWeights t k = testWeights s k := by
  have hlast : ∀ k, (tileAt t k).lastServed = (tileAt s k).lastServed := fun k => congrArg (fun x => x.2.2.2.1) (hview k)
  have hin : ∀ k, (tileAt t k).shadowIn = (tileAt s k).shadowIn := fun k => congrArg (fun x => x.2.2.2.2.1) (hview k)
  have hzero : ∀ k, (tileAt t k).zeroed = (tileAt s k).zeroed := fun k => congrArg (fun x => x.2.2.2.2.2) (hview k)
  simp only [testWeights, shadowThere, contentsOf, hlast, hin, hzero]

theorem drivesTest_congr (hcw : t.cw = s.cw) (hact : t.act = s.act) (k : Nat) : drivesTest t k = drivesTest s k := by
  simp only [drivesTest, holdsGrant, memberOf_congr hview, headOf, chainMembers_congr_view hview hact, fbState, tileState, rdF_of_cw hcw]

end SameTiles

/-! ### A test vector is driven -/

/-- A tile on which a run waits, and one on which none does. -/
def withRun (r : Option SpoonReq) (x : TileSt) : TileSt := { x with spoonReq := r }

theorem runView_withRun (r : Option SpoonReq) (x : TileSt) : runView (withRun r x) = runView x := rfl

/-- The capture of a driven test vector is complete at once; its outputs are those of the tile's periphery. -/
theorem driveTest_eq (s : State) (k : Nat) (r : SpoonReq) : ∃ c : Capture,
    driveTest s k r = useFreeN 8194 (modTile (setCapture (rotStart s k) (spoonSite (rotStart s k) k) (some c)) k (withRun none)) ∧
    c.test = true ∧ c.closed = true ∧ c.phys = [k] ∧ c.onDemand = some r ∧
    c.outs = (periphery (periCfg (rotStart s k) k) (fun i => c.wides.getD i 0)).1 := by
  unfold driveTest
  refine ⟨_, rfl, rfl, rfl, rfl, rfl, ?_⟩
  dsimp only

theorem spoonTry_of_request {s : State} {k : Nat} {r : SpoonReq} (h : (tileAt s k).spoonReq = some r) : spoonTry s k =
    if drivesTest s k && (coreAt s (spoonSite s k)).capture.isNone && testWeights s k then driveTest s k r else s := by
  rw [spoonTry, h]

section Start

variable (s : State) (k : Nat)

theorem runView_rotStart (j : Nat) : runView (tileAt (rotStart s k) j) = runView (tileAt s j) := by
  unfold rotStart setRot
  split
  · have hdwell := tileAt_modTile_view (wr s (tileReg k 0x18) (BitVec.ofNat 32 (if rotNext s k 0 521 = 520 then 520 else
      rotNext s k 0 521 + 0x80000000))) (v := runView) (f := fun x => { x with dwell := 0, dwellFails := 0 }) (fun _ => rfl) j k
    rw [hdwell, tileAt_of_tiles (wr_tiles ..)]
  · rfl

theorem rotStart_cores : (rotStart s k).cores = s.cores := cores_of_butWordsTiles (butWordsTiles_rotStart s k)

theorem periCfg_of_act {s t : State} (h : t.act = s.act) (k : Nat) : periCfg t k = periCfg s k := by
  unfold periCfg rdA; rw [h]

end Start

/-! ### What the start of runs leaves -/

/-- Blanks what the start of a run may change, but for the words. -/
def butRuns (s : State) : State := { butWork s with freeNo := 0 }

/-- The state but for that, and the Spoon's registers. -/
def runsLeave (s : State) : State × (Nat → W32) := (butRuns s, fun o => rd s (spoonReg o))

theorem butRuns_of_butWordsTiles {s t : State} (h : butWordsTiles t = butWordsTiles s) : butRuns t = butRuns s :=
  congrArg (fun u : State => { u with cores := [], freeNo := 0 }) h

theorem spoonReg_ne_tileReg {o k a : Nat} (ha : a < 0x2000) : spoonReg o ≠ tileReg k a := by
  have hlt := tileReg_lt (k := k) ha
  unfold spoonReg; omega

section Leaves

variable (s : State) (k : Nat)

theorem butRuns_setCapture (site : Nat) (c : Option Capture) : butRuns (setCapture s site c) = butRuns s := rfl
theorem butRuns_useFreeN (n : Nat) : butRuns (useFreeN n s) = butRuns s := rfl

theorem setCapture_cw (site : Nat) (c : Option Capture) : (setCapture s site c).cw = s.cw := modCore_cw ..
theorem useFreeN_cw (n : Nat) : (useFreeN n s).cw = s.cw := rfl
theorem useFreeN_cores (n : Nat) : (useFreeN n s).cores = s.cores := rfl

theorem driveTest_words (r : SpoonReq) {p : Nat} (hp : p ≠ tileReg k 0x18) : rd (driveTest s k r) p = rd s p := by
  obtain ⟨c, e, -⟩ := driveTest_eq s k r
  have hcw : (driveTest s k r).cw = (rotStart s k).cw := by
    rw [e, useFreeN_cw, modTile_cw, setCapture_cw]
  rw [rd_of_cw hcw, rd_rotStart_ne s k hp]

theorem butRuns_driveTest (r : SpoonReq) : butRuns (driveTest s k r) = butRuns s := by
  obtain ⟨c, e, -⟩ := driveTest_eq s k r
  rw [e, butRuns_useFreeN, butRuns_of_butWordsTiles (butWordsTiles_modTile ..), butRuns_setCapture,
    butRuns_of_butWordsTiles (butWordsTiles_rotStart ..)]

theorem useFreeN_tiles (n : Nat) : (useFreeN n s).tiles = s.tiles := rfl

theorem coreAt_of_cores {s t : State} (h : t.cores = s.cores) (j : Nat) : coreAt t j = coreAt s j := by unfold coreAt; rw [h]

/-- No run waits on the tile any more, and the capture stands at the site that takes the tile's samples. -/
theorem driveTest_starts (r : SpoonReq) : ∃ c : Capture,
    (tileAt (driveTest s k r) k).spoonReq = none ∧ (coreAt (driveTest s k r) (spoonSite s k)).capture = some c ∧
    c.test = true ∧ c.closed = true ∧ c.phys = [k] ∧ c.onDemand = some r ∧
    c.outs = (periphery (periCfg s k) (fun i => c.wides.getD i 0)).1 := by
  obtain ⟨c, e, htest, hclosed, hphys, hdemand, houts⟩ := driveTest_eq s k r
  rw [spoonSite_congr (runView_rotStart s k)] at e
  rw [periCfg_of_act (rotStart_act s k)] at houts
  refine ⟨c, ?_, ?_, htest, hclosed, hphys, hdemand, houts⟩
  · rw [e, tileAt_of_tiles (useFreeN_tiles ..), tileAt_modTile_same]
    rfl
  · rw [e, coreAt_of_cores (useFreeN_cores ..), coreAt_of_cores (modTile_cores ..), setCapture, coreAt_modCore_same]

theorem runsLeave_spoonTry : runsLeave (spoonTry s k) = runsLeave s := by
  unfold spoonTry
  split
  · rfl
  · split
    · exact Prod.ext (butRuns_driveTest s k _) (funext fun o => driveTest_words s k _ (spoonReg_ne_tileReg (by decide)))
    · rfl

theorem runsLeave_spoonWake : runsLeave (spoonWake s) = runsLeave s := foldl_view (fun k _ u => runsLeave_spoonTry u k) s

end Leaves

theorem NoCoreFails.setCapture {s : State} (h : NoCoreFails s) (site : Nat) (c : Option Capture) :
    NoCoreFails (setCapture s site c) := h.modCore site (fun _ => rfl)

theorem NoCoreFails.spoonTry {s : State} (h : NoCoreFails s) (k : Nat) : NoCoreFails (spoonTry s k) := by
  unfold Machine.spoonTry
  split
  · exact h
  · split
    · rename_i r _ _
      obtain ⟨c, e, -⟩ := driveTest_eq s k r
      rw [e]
      apply ((h.of_cores (rotStart_cores s k)).setCapture (spoonSite (rotStart s k) k) (some c)).of_cores
      rw [useFreeN_cores, modTile_cores]
    · exact h

theorem NoCoreFails.spoonWake {s : State} (h : NoCoreFails s) : NoCoreFails (spoonWake s) :=
  List.foldlRecOn (motive := NoCoreFails) _ Machine.spoonTry h (fun _ hu k _ => hu.spoonTry k)

/-! ### Runs that wait -/

theorem noRunWaits_of_tiles {s t : State} (h : NoRunWaits s) (ht : t.tiles = s.tiles) : NoRunWaits t := by
  unfold NoRunWaits; rwa [ht]

theorem spoonReq_tileAt {s : State} (h : NoRunWaits s) (k : Nat) : (tileAt s k).spoonReq = none := by
  unfold tileAt mapGet
  cases hf : mapFind s.tiles k with
  | none => rfl
  | some x => exact h _ (mem_of_mapFind hf)

theorem noRunWaits_modTile {s : State} (h : NoRunWaits s) (k : Nat) {f : TileSt → TileSt} (hf : ∀ x, (f x).spoonReq = x.spoonReq) :
    NoRunWaits (modTile s k f) := by
  intro x hx
  rcases mem_of_mem_mapPut hx with rfl | hx
  · exact (hf _).trans (spoonReq_tileAt h k)
  · exact h x hx

theorem spoonWake_of_noRunWaits {s : State} (h : NoRunWaits s) : spoonWake s = s := by
  have hnone : s.tiles.filterMap (fun t => if t.2.spoonReq.isSome then some t.1 else none) = [] := by
    rw [List.filterMap_eq_nil_iff]
    intro x hx
    rw [h x hx]
    rfl
  rw [spoonWake, hnone]
  rfl

end Sys2Proof.Machine
end

section
/-! SUPPORT. What the evaluation of a Spoon report leaves (04 R114): alarms and columns handed on write tiles, their arrays and registers,
counters, records and responses, and leave the report ring, the captures and the core stores. -/

namespace Sys2Proof.Machine

/-- Blanks what the evaluation of a report may change. -/
def butReport (s : State) : State :=
  { s.butReplyWords with tiles := [], cores := [], arrays := [], faults := [], resids := [], residSeq := 0, freeNo := 0 }

/-- Leaves the ring with its registers, the captures, and what each slot runs; no run begins to wait and no core to fail.
`SPOON_ALARMS` (offset 0x18) counts alarms. -/
structure Aside (s t : State) : Prop where
  rest    : butReport t = butReport s
  words   : ∀ o < 0x100, o ≠ 0x18 → rd t (spoonReg o) = rd s (spoonReg o)
  insts   : ∀ j, instView t j = instView s j
  runs    : NoRunWaits s → NoRunWaits t
  calm    : NoCoreFails s → NoCoreFails t
  capture : ∀ j, (coreAt t j).capture = (coreAt s j).capture

theorem Aside.refl (s : State) : Aside s s := ⟨rfl, fun _ _ _ => rfl, fun _ => rfl, id, id, fun _ => rfl⟩

theorem Aside.trans {s t u : State} (h : Aside s t) (h' : Aside t u) : Aside s u :=
  ⟨h'.rest.trans h.rest, fun o ho hne => (h'.words o ho hne).trans (h.words o ho hne), fun j => (h'.insts j).trans (h.insts j),
    h'.runs ∘ h.runs, h'.calm ∘ h.calm, fun j => (h'.capture j).trans (h.capture j)⟩

/-- A choice between a step and none. -/
theorem Aside.ite {s a b : State} {c : Prop} [Decidable c] (ha : Aside s a) (hb : Aside s b) : Aside s (if c then a else b) := by
  split
  · exact ha
  · exact hb

theorem aside_foldl {α : Type} {f : State → α → State} {l : List α} (hf : ∀ a ∈ l, ∀ s, Aside s (f s a)) (s : State) :
    Aside s (l.foldl f s) :=
  List.foldlRecOn (motive := Aside s) l f (.refl s) (fun u hu a ha => hu.trans (hf a ha u))

/-! ### Setters -/

/-- A step that leaves the Spoon's registers, tiles and cores. -/
theorem aside_of_units {s t : State} (hrest : butReport t = butReport s) (hwords : ∀ o < 0x100, rd t (spoonReg o) = rd s (spoonReg o))
    (hinsts : ∀ j, instView t j = instView s j) (htiles : t.tiles = s.tiles) (hcores : t.cores = s.cores) : Aside s t :=
  ⟨hrest, fun o ho _ => hwords o ho, hinsts, fun h => noRunWaits_of_tiles h htiles, fun h => h.of_cores hcores,
    fun j => by rw [coreAt_of_cores hcores]⟩

variable (s : State)

theorem aside_wr {p : Nat} (v : W32) (hp : ∀ o < 0x100, o ≠ 0x18 → spoonReg o ≠ p) : Aside s (wr s p v) :=
  ⟨rfl, fun o ho hne => rd_wr_ne s v (hp o ho hne), fun _ => rfl, id, id, fun _ => rfl⟩

theorem aside_wr_tileReg (k : Nat) {a : Nat} (v : W32) (ha : a < 0x2000) : Aside s (wr s (tileReg k a) v) :=
  aside_wr s v (fun _ _ _ => spoonReg_ne_tileReg ha)

theorem aside_wr_chReg (a : Nat) (v : W32) : Aside s (wr s (chReg a) v) :=
  aside_wr s v (fun o ho _ => by unfold spoonReg chReg; omega)

theorem aside_countAlarm (n b : Nat) : Aside s (incHold s (spoonReg 0x18) n b) :=
  aside_wr s _ (fun _ _ hne => by unfold spoonReg; omega)

theorem aside_modTile (k : Nat) {f : TileSt → TileSt} (hf : ∀ x, (f x).spoonReq = x.spoonReq := by exact fun _ => rfl) :
    Aside s (modTile s k f) :=
  ⟨rfl, fun _ _ _ => rfl, fun _ => rfl, fun h => noRunWaits_modTile h k hf, fun h => h.of_cores (modTile_cores ..), fun _ => rfl⟩

theorem aside_setCore (k : Nat) {x : CoreSt} (hfatal : x.ueFatal = (coreAt s k).ueFatal) (hcap : x.capture = (coreAt s k).capture) :
    Aside s (setCore s k x) := by
  refine ⟨rfl, fun _ _ _ => rfl, fun _ => rfl, id, fun h => h.setCore k (hfatal.trans (h.ueFatal_coreAt k)), fun j => ?_⟩
  by_cases hj : j = k
  · subst hj; rw [coreAt_setCore_same, hcap]
  · rw [coreAt_setCore_ne s x hj]

theorem aside_modCore (k : Nat) {f : CoreSt → CoreSt} (hfatal : ∀ x, (f x).ueFatal = x.ueFatal := by exact fun _ => rfl)
    (hcap : ∀ x, (f x).capture = x.capture := by exact fun _ => rfl) : Aside s (modCore s k f) :=
  aside_setCore s k (hfatal _) (hcap _)

theorem aside_setArray (k : Nat) (a : ArraySt) : Aside s (setArray s k a) :=
  aside_of_units rfl (fun _ _ => rfl) (fun _ => rfl) rfl rfl

theorem aside_useFree : Aside s (useFree s) := aside_of_units rfl (fun _ _ => rfl) (fun _ => rfl) rfl rfl

theorem aside_useFreeN (n : Nat) : Aside s (useFreeN n s) := aside_of_units rfl (fun _ _ => rfl) (fun _ => rfl) rfl rfl

theorem aside_keepResid (r : ResidualRec) : Aside s (keepResid s r) := aside_of_units rfl (fun _ _ => rfl) (fun _ => rfl) rfl rfl

/-! ### Interrupts, faults and responses -/

theorem butReport_of_butReply {s t : State} (h : t.butReply = s.butReply) : butReport t = butReport s :=
  congrArg (fun u : State =>
    { u with cw := [], tiles := [], cores := [], arrays := [], faults := [], resids := [], residSeq := 0, freeNo := 0 }) h

theorem butReport_of_butFaults {s t : State} (h : butFaults t = butFaults s) : butReport t = butReport s :=
  congrArg (fun u : State =>
    { u with tiles := [], cores := [], arrays := [], resids := [], residSeq := 0, freeNo := 0 }) h

theorem tiles_of_butFaults {s t : State} (h : butFaults t = butFaults s) : t.tiles = s.tiles := (congrArg State.tiles h :)
theorem cores_of_butFaults {s t : State} (h : butFaults t = butFaults s) : t.cores = s.cores := (congrArg State.cores h :)

theorem aside_signal (pf v : Nat) : Aside s (signal s pf v) :=
  aside_of_units (butReport_of_butReply (signal_butReply ..)) (fun _ _ => rd_signal s pf v _)
    (instView_of_held (held_signal s pf v)) (signal_tiles ..) (signal_cores ..)

theorem aside_faultRecord (f : FaultInfo) : Aside s (faultRecord s f) :=
  aside_of_units (butReport_of_butFaults (faultRecord_butFaults s f))
    (fun o ho => rd_faultRecord_of_lt s f (by unfold spoonReg; omega)) (instView_of_held (held_faultRecord s f))
    (tiles_of_butFaults (faultRecord_butFaults s f)) (cores_of_butFaults (faultRecord_butFaults s f))

theorem aside_finish (r : MbxRef) (st : Nat) (p : Bytes) : Aside s (finish s r st p) :=
  .ite (aside_of_units (butReport_of_butReply (post_butReply ..)) (fun _ _ => rd_of_cw (post_cw ..) _) (post_instView s r.id st r.op p true)
    (post_tiles ..) (post_cores ..)) (.refl s)

/-! ### The rotation and the spare columns (02 R36, R48) -/

theorem aside_setRot (k i : Nat) : Aside s (setRot s k i) := by
  unfold setRot
  exact (aside_wr_tileReg s k (a := 0x18) _ (by decide)).trans (aside_modTile _ k)

theorem aside_rotAdvance (k i : Nat) : Aside s (rotAdvance s k i) := aside_setRot s k _

theorem aside_setCalStatus (k hi lo v : Nat) : Aside s (setCalStatus s k hi lo v) := aside_wr_tileReg s k (a := 0x1000) _ (by decide)

theorem aside_rotResume (k : Nat) : Aside s (rotResume s k) := by
  unfold rotResume
  exact .ite (.ite (.ite (.refl s) ((aside_setCalStatus s k 9 9 0).trans (aside_rotAdvance _ k _))) (aside_rotAdvance s k _)) (.refl s)

theorem aside_entriesNow (k : Nat) : Aside s (entriesNow s k) := by
  refine aside_foldl (fun n hn u => .ite (aside_wr_tileReg u k (a := 0x20 + 4 * n) _ ?_) (.refl u)) s
  have := List.mem_range.mp hn
  omega

theorem aside_colmapNow (k : Nat) : Aside s (colmapNow s k) := by
  obtain ⟨c, h⟩ := colmapNow_eq s k
  rw [h]
  exact (aside_entriesNow s k).trans (.ite (aside_rotAdvance _ k _) (aside_rotResume _ k))

theorem aside_dropEntry (k c n : Nat) (wait : Bool) {i : Nat} (hi : i < 8) : Aside s (dropEntry s k c n wait i) := by
  unfold dropEntry
  exact .ite (aside_wr_tileReg s k (a := 0x20 + 4 * i) _ (by omega)) (.refl s)

theorem aside_mapSpare (k : Nat) {n : Nat} (hn : n < 8) (c : Nat) (lv : Nat → Nat × Nat) : Aside s (mapSpare s k n c lv) := by
  have hwritten : Aside s (columnWritten s k n c lv) :=
    (aside_setArray s k _).trans (aside_foldl (fun i hi u => aside_dropEntry u k c n _ (List.mem_range.mp hi)) _)
  have hentered : Aside s (entered s k n c lv) :=
    (hwritten.trans (aside_wr_tileReg _ k (a := 0x20 + 4 * n) _ (by omega))).trans (aside_wr_chReg _ 0x24 _)
  rw [mapSpare_eq]
  exact .ite hentered (hentered.trans (aside_colmapNow _ k))

/-! ### Columns handed on (04 R114, 06 R158-R162) -/

theorem aside_postResids (rs : List ResidualRec) : Aside s (postResids s rs) := by
  unfold postResids
  exact .ite (.refl s) (((aside_foldl (fun r _ u => aside_keepResid u r) s).trans (aside_wr_chReg _ 0x20 _)).trans (aside_signal _ 0 67))

theorem aside_shadowResiduals (m : Nat) (rs : List Residual) : Aside s (shadowResiduals s m rs) := by
  unfold shadowResiduals
  exact .ite (.refl s) ((aside_modCore s (m / 32)).trans (aside_modTile _ m))

theorem aside_moveColumn (k : Nat) {n : Nat} (hn : n < 8) (c : Nat) : Aside s (moveColumn s k n c) := by
  unfold moveColumn postResiduals
  exact ((((aside_mapSpare s k hn c _).trans (aside_wr_chReg _ 0x1C _)).trans (aside_useFreeN _ _)).trans (aside_postResids _ _)).trans
    (aside_shadowResiduals _ _ _)

theorem spareColFree_lt {k n : Nat} (h : spareColFree s k = some n) : n < 8 := List.mem_range.mp (List.mem_of_find?_eq_some h)

theorem aside_handColumn (k c : Nat) : Aside s (handColumn s k c) := by
  unfold handColumn
  extract_lets m again u
  have hu : Aside s u := aside_modTile s m
  refine .ite (hu.trans ?_) hu
  split
  · rename_i n hn
    split at hn
    · exact aside_moveColumn _ k (spareColFree_lt _ hn) c
    · cases hn
  · exact aside_postResids _ _

theorem aside_evalColumns (k : Nat) (ovr : List Nat) : Aside s (evalColumns s k ovr) :=
  (aside_modTile s k (f := fun t => { t with overCols := ovr })).trans
    (aside_foldl (fun c _ u => aside_handColumn u k c) _)

/-! ### Drift alarms (04 R114, 06 R150, 07 R174) -/

theorem aside_calTrigger (k row cls : Nat) : Aside s (calTrigger s k row cls) := by
  have hcount : Aside s (incWrap s (trigCounter row) 1) := by
    refine aside_wr s _ (fun o ho _ => ?_)
    unfold trigCounter spoonReg calReg
    split
    · omega
    · split
      · omega
      · split <;> omega
  exact .ite (.refl s) ((hcount.trans (aside_setCalStatus _ k 4 3 _)).trans (aside_setCalStatus _ k 12 10 _))

theorem aside_placeSpareJob (m : Nat) (j : ProgJob) : Aside s (placeSpareJob s m j) := by
  unfold placeSpareJob
  exact ((aside_modTile s (spareKey m)).trans (aside_wr_tileReg _ (spareKey m) (a := 4) _ (by decide))).trans (aside_modTile _ m)

theorem aside_retireTile (k : Nat) (job : Option ProgJob) : Aside s (retireTile s k job) := by
  unfold retireTile
  exact .ite ((aside_placeSpareJob s k _).trans (aside_modTile _ k)) (aside_faultRecord s _)

theorem aside_driftAlarm (k : Nat) : Aside s (driftAlarm s k) := by
  unfold driftAlarm
  extract_lets m soon u
  have hu : Aside s u :=
    .ite ((aside_modTile s m).trans (aside_retireTile _ m none)) (.ite (aside_modTile s m) (.refl s))
  exact .ite (hu.trans (aside_calTrigger u k 2 _)) hu

theorem aside_evalAlarm (c : Capture) (k m : Nat) : Aside s (evalAlarm s c k m).2 := by
  unfold evalAlarm
  dsimp only
  split
  · exact .refl s
  · split
    · split
      · have halarm := ((aside_modTile s k (f := fun t => { t with alarmRun := 0 })).trans (aside_countAlarm _ 32 1)).trans (aside_signal _ 0 67)
        exact halarm.trans (.ite (.refl _) (aside_driftAlarm _ k))
      · exact aside_modTile s k (f := fun t => { t with alarmRun := t.alarmRun + 1 })
    · exact aside_modTile s k (f := fun t => { t with alarmRun := 0 })

end Sys2Proof.Machine
end

section
/-! SUPPORT. Spoon reports go to the ring (04 R115): what a report writes there, and what the reports of a capture leave. -/

namespace Sys2Proof.Machine

/-! ### Bytes at the start of a write -/

theorem memRead_take (m : List Host.Cell) (a n k : Nat) : (memRead m a (n + k)).take n = memRead m a n := by
  induction n generalizing a with
  | zero => rfl
  | succ n ih =>
    rw [show n + 1 + k = n + k + 1 by omega, memRead, memRead, List.take_succ_cons, ih]

theorem memRead_memWrite_append (m : List Host.Cell) (a : Nat) (bs rest : Bytes) :
    memRead (memWrite m a (bs ++ rest)) a bs.length = bs := by
  rw [← memRead_take _ a bs.length rest.length, ← List.length_append, memRead_memWrite, List.take_left]

theorem length_leBytes (n v : Nat) : (leBytes n v).length = n := by
  induction n generalizing v with
  | zero => rfl
  | succ n ih => rw [leBytes, List.length_cons, ih]

/-- The bytes at the start of a report that lies in memory. -/
theorem memRead_of_report {mem old : List Host.Cell} {a v : Nat} {rest : Bytes} (h : mem = memWrite old a (leBytes 4 v ++ rest)) :
    memRead mem a 4 = leBytes 4 v := by
  have e := memRead_memWrite_append old a (leBytes 4 v) rest
  rwa [length_leBytes, ← h] at e

/-! ### Stack memory is written -/

/-- Blanks the words, stack memory and Stockpot. -/
def butRing (s : State) : State := { s.butWords with stackMem := [], pot := {} }

/-- Stack memory and all but Stockpot. -/
def offPot (s : State) : State × List Host.Cell := ({ s with stackMem := [], pot := {} }, s.stackMem)

theorem offPot_noteBlock (s : State) (f b : Nat) : offPot (noteBlock s f b) = offPot s := rfl
theorem offPot_cleanLine (s : State) (l : Nat) : offPot (cleanLine s l) = offPot s := rfl

theorem offPot_noteWrite (s : State) (off n : Nat) : offPot (noteWrite s off n) = offPot s := by
  unfold noteWrite
  split
  · rfl
  · exact foldl_view (fun _ _ u => offPot_noteBlock u _ _) s

theorem offPot_stackPut (s : State) (off : Nat) (bs : Bytes) :
    offPot (stackPut s off bs) = offPot { s with stackMem := memWrite s.stackMem off bs } := by
  rw [stackPut, offPot_noteWrite]
  exact foldl_view (fun l _ u => offPot_cleanLine u l) _

theorem stackPut_stackMem (s : State) (off : Nat) (bs : Bytes) : (stackPut s off bs).stackMem = memWrite s.stackMem off bs :=
  (congrArg Prod.snd (offPot_stackPut s off bs) :)

theorem stackPut_cw (s : State) (off : Nat) (bs : Bytes) : (stackPut s off bs).cw = s.cw :=
  (congrArg (fun x => x.1.cw) (offPot_stackPut s off bs) :)

theorem butRing_stackPut (s : State) (off : Nat) (bs : Bytes) : butRing (stackPut s off bs) = butRing s :=
  (congrArg (fun x => { x.1 with cw := [] }) (offPot_stackPut s off bs) :)

theorem butRing_wr (s : State) (o : Nat) (v : W32) : butRing (wr s o v) = butRing s := rfl

/-! ### The ring -/

/-- The ring has no room for a report: there is none, or the head would reach the tail. -/
def RingFull (s : State) : Prop := ringEntries s = 0 ∨ (ringHead s + 1) % ringEntries s = ringTail s % ringEntries s

theorem ringPut_of_full {s : State} (h : RingFull s) (rep : Bytes) : ringPut s rep = incHold s (spoonReg 0x14) 32 1 := if_pos h

theorem ringPut_of_room {s : State} (h : ¬RingFull s) (rep : Bytes) : ringPut s rep =
    incWrap (wrF (stackPut s (ringOffset s (ringHead s)) rep) (spoonReg 0x2C) 15 0 ((ringHead s + 1) % ringEntries s)) (spoonReg 0x10) 1 :=
  if_neg h

theorem butRing_ringPut (s : State) (rep : Bytes) : butRing (ringPut s rep) = butRing s := by
  by_cases h : RingFull s
  · rw [ringPut_of_full h]; exact butRing_wr ..
  · rw [ringPut_of_room h, incWrap, butRing_wr, wrF, butRing_wr, butRing_stackPut]

theorem ringEntries_lt (s : State) : ringEntries s < 2 ^ 16 := Nat.mod_lt _ (by decide)

theorem spoonReg_ne {a b : Nat} (h : a ≠ b) : spoonReg a ≠ spoonReg b := by unfold spoonReg; omega

section Room

variable {s : State} (h : ¬RingFull s) (rep : Bytes)
include h

theorem ringHead_ringPut : ringHead (ringPut s rep) = (ringHead s + 1) % ringEntries s := by
  have hpos : 0 < ringEntries s := Nat.pos_of_ne_zero fun e => h (.inl e)
  have hlt : (ringHead s + 1) % ringEntries s < 2 ^ 16 := (Nat.mod_lt _ hpos).trans (ringEntries_lt s)
  rw [ringPut_of_room h, ringHead, rdF, rd_incWrap_ne _ _ (spoonReg_ne (by decide)), ← rdF, rdF_wrF_same _ _ _ (by decide) (by decide)]
  exact Nat.mod_eq_of_lt hlt

theorem rd_ringPut_reports : rd (ringPut s rep) (spoonReg 0x10) = rd s (spoonReg 0x10) + 1 := by
  rw [ringPut_of_room h, rd_incWrap_same, rd_wrF_ne _ _ _ _ (spoonReg_ne (by decide)), rd_of_cw (stackPut_cw ..)]
  rfl

theorem rd_ringPut_ne {o : Nat} (hhead : o ≠ 0x2C) (hcount : o ≠ 0x10) : rd (ringPut s rep) (spoonReg o) = rd s (spoonReg o) := by
  rw [ringPut_of_room h, rd_incWrap_ne _ _ (spoonReg_ne hcount), rd_wrF_ne _ _ _ _ (spoonReg_ne hhead), rd_of_cw (stackPut_cw ..)]

theorem ringPut_stackMem : (ringPut s rep).stackMem = memWrite s.stackMem (ringOffset s (ringHead s)) rep := by
  rw [ringPut_of_room h, incWrap, wr_stackMem, wrF_stackMem, stackPut_stackMem]

end Room

/-! ### What of the state the ring is made of -/

/-- Leaves the ring: its registers but the count of alarms, its memory and its object. -/
structure SameRing (s t : State) : Prop where
  words : ∀ o < 0x100, o ≠ 0x18 → rd t (spoonReg o) = rd s (spoonReg o)
  mem   : t.stackMem = s.stackMem
  pot   : t.pot = s.pot
  ringH : t.ringH = s.ringH

theorem SameRing.trans {s t u : State} (h : SameRing s t) (h' : SameRing t u) : SameRing s u :=
  ⟨fun o ho hne => (h'.words o ho hne).trans (h.words o ho hne), h'.mem.trans h.mem, h'.pot.trans h.pot, h'.ringH.trans h.ringH⟩

section SameRing

variable {s t : State} (h : SameRing s t)
include h

theorem SameRing.entries : ringEntries t = ringEntries s := congrArg (fld · 15 0) (h.words 0x28 (by decide) (by decide))
theorem SameRing.head : ringHead t = ringHead s := congrArg (fld · 15 0) (h.words 0x2C (by decide) (by decide))
theorem SameRing.tail : ringTail t = ringTail s := congrArg (fld · 15 0) (h.words 0x30 (by decide) (by decide))

theorem SameRing.full : RingFull t ↔ RingFull s := by unfold RingFull; rw [h.entries, h.head, h.tail]

theorem SameRing.offset (i : Nat) : ringOffset t i = ringOffset s i := by
  unfold ringOffset objFrames objAt
  rw [h.pot, h.ringH]

end SameRing

theorem Aside.sameRing {s t : State} (h : Aside s t) : SameRing s t :=
  ⟨h.words, (congrArg State.stackMem h.rest :), (congrArg State.pot h.rest :), (congrArg State.ringH h.rest :)⟩

theorem sameRing_setCapture (s : State) (site : Nat) (c : Option Capture) : SameRing s (setCapture s site c) :=
  ⟨fun _ _ _ => rfl, rfl, rfl, rfl⟩

theorem sameRing_spoonWake (s : State) : SameRing s (spoonWake s) := by
  have hrest : butRuns (spoonWake s) = butRuns s := (congrArg Prod.fst (runsLeave_spoonWake s) :)
  have hwords : ∀ o, rd (spoonWake s) (spoonReg o) = rd s (spoonReg o) := fun o => (congrFun (congrArg Prod.snd (runsLeave_spoonWake s)) o :)
  exact ⟨fun o _ _ => hwords o, (congrArg State.stackMem hrest :), (congrArg State.pot hrest :), (congrArg State.ringH hrest :)⟩

/-- A 32-bit counter that holds at its end. -/
theorem rd_incHold_word (s : State) (o : Nat) :
    rd (incHold s o 32 1) o = BitVec.ofNat 32 (Nat.min ((rd s o).toNat + 1) 0xFFFFFFFF) := rd_incHold_same s o 32 1

section Member

/-! A report's bytes go to the ring of `u`, which is that of `s`; `t` is the state after. -/

variable {s u t : State} {rep : Bytes} (hu : SameRing s u) (ht : SameRing (ringPut u rep) t)
include hu ht

theorem ring_of_room (h : ¬RingFull s) : ringHead t = (ringHead s + 1) % ringEntries s ∧ ringTail t = ringTail s ∧
    rd t (spoonReg 0x10) = rd s (spoonReg 0x10) + 1 ∧ rd t (spoonReg 0x14) = rd s (spoonReg 0x14) ∧
    t.stackMem = memWrite s.stackMem (ringOffset s (ringHead s)) rep := by
  have hroom : ¬RingFull u := fun hf => h (hu.full.mp hf)
  refine ⟨?_, ?_, ?_, ?_, ?_⟩
  · rw [ht.head, ringHead_ringPut hroom, hu.head, hu.entries]
  · rw [ht.tail, ringTail, rdF, rd_ringPut_ne hroom rep (by decide) (by decide), ← rdF, ← ringTail, hu.tail]
  · rw [ht.words 0x10 (by decide) (by decide), rd_ringPut_reports hroom, hu.words 0x10 (by decide) (by decide)]
  · rw [ht.words 0x14 (by decide) (by decide), rd_ringPut_ne hroom rep (by decide) (by decide), hu.words 0x14 (by decide) (by decide)]
  · rw [ht.mem, ringPut_stackMem hroom, hu.mem, hu.offset, hu.head]

theorem ring_of_full (h : RingFull s) : ringHead t = ringHead s ∧ t.stackMem = s.stackMem ∧
    rd t (spoonReg 0x10) = rd s (spoonReg 0x10) ∧
    rd t (spoonReg 0x14) = BitVec.ofNat 32 (Nat.min ((rd s (spoonReg 0x14)).toNat + 1) 0xFFFFFFFF) := by
  rw [ringPut_of_full (hu.full.mpr h)] at ht
  refine ⟨?_, ?_, ?_, ?_⟩
  · rw [ht.head, ringHead, rdF, rd_incHold_ne _ _ _ (spoonReg_ne (by decide)), ← rdF, ← ringHead, hu.head]
  · rw [ht.mem, incHold, wr_stackMem, hu.mem]
  · rw [ht.words 0x10 (by decide) (by decide), rd_incHold_ne _ _ _ (spoonReg_ne (by decide)), hu.words 0x10 (by decide) (by decide)]
  · rw [ht.words 0x14 (by decide) (by decide), rd_incHold_word, hu.words 0x14 (by decide) (by decide)]

end Member

/-! ### The reports of a capture -/

/-- `n` reports have been formed: each takes a SEQ. -/
structure Reported (n : Nat) (s t : State) : Prop where
  seq     : t.spoonSeq = s.spoonSeq + BitVec.ofNat 32 n
  store   : t.store = s.store
  insts   : ∀ j, instView t j = instView s j
  runs    : NoRunWaits s → NoRunWaits t
  calm    : NoCoreFails s → NoCoreFails t
  capture : ∀ j, (coreAt t j).capture = (coreAt s j).capture

theorem Reported.trans {n k : Nat} {s t u : State} (h : Reported n s t) (h' : Reported k t u) : Reported (n + k) s u := by
  refine ⟨?_, h'.store.trans h.store, fun j => (h'.insts j).trans (h.insts j), h'.runs ∘ h.runs, h'.calm ∘ h.calm,
    fun j => (h'.capture j).trans (h.capture j)⟩
  rw [h'.seq, h.seq, BitVec.add_assoc, ← BitVec.ofNat_add]

theorem Aside.reported {s t : State} (h : Aside s t) : Reported 0 s t := by
  have hseq : t.spoonSeq = s.spoonSeq := (congrArg State.spoonSeq h.rest :)
  exact ⟨by rw [hseq]; exact (BitVec.add_zero _).symm, (congrArg State.store h.rest :), h.insts, h.runs, h.calm, h.capture⟩

theorem reported_of_butRing {s t : State} (h : butRing t = butRing s) : Reported 0 s t := by
  have hseq : t.spoonSeq = s.spoonSeq := (congrArg State.spoonSeq h :)
  have hcores : t.cores = s.cores := (congrArg State.cores h :)
  have hinsts : t.insts = s.insts := (congrArg State.insts h :)
  exact ⟨by rw [hseq]; exact (BitVec.add_zero _).symm, (congrArg State.store h :),
    fun j => by unfold instView; rw [instOf_of_insts hinsts],
    fun hr => noRunWaits_of_tiles hr (congrArg State.tiles h :), fun hc => hc.of_cores hcores, fun j => by rw [coreAt_of_cores hcores]⟩

/-- The next report's SEQ is taken. -/
def seqTaken (s : State) : State := { s with spoonSeq := s.spoonSeq + 1 }

theorem reported_seqTaken (s : State) : Reported 1 s (seqTaken s) := ⟨rfl, rfl, fun _ => rfl, id, id, fun _ => rfl⟩

theorem sameRing_seqTaken (s : State) : SameRing s (seqTaken s) := ⟨fun _ _ _ => rfl, rfl, rfl, rfl⟩

theorem reportBytes_eq (s : State) (c : Capture) (ms : List MemberSum) (ideal : List W16) (m : MemberSum) (alarm : Bool) :
    ∃ rest, reportBytes s c ms ideal m alarm = leBytes 4 s.spoonSeq.toNat ++ rest := by
  unfold reportBytes
  simp only [List.append_assoc]
  exact ⟨_, rfl⟩

/-- A member is evaluated, its report goes to the ring, and columns and the command that waits are dealt with. -/
theorem reportMember_parts (c : Capture) (ms : List MemberSum) (ideal : List W16) (s : State) (m : MemberSum) : ∃ u rest,
    Aside s u ∧ Aside (ringPut (seqTaken u) (leBytes 4 u.spoonSeq.toNat ++ rest)) (reportMember c ms ideal s m) := by
  have hu := aside_evalAlarm s c m.k (tileError c m)
  unfold reportMember
  generalize evalAlarm s c m.k (tileError c m) = r at hu ⊢
  obtain ⟨alarm, u⟩ := r
  obtain ⟨rest, hrep⟩ := reportBytes_eq u c ms ideal m alarm
  refine ⟨u, rest, hu, ?_⟩
  have hcols := aside_evalColumns (ringPut (seqTaken u) (leBytes 4 u.spoonSeq.toNat ++ rest)) m.k
    ((List.range 512).filter (overThr u c m))
  rw [← hrep] at hcols ⊢
  dsimp only
  split
  · exact .ite (hcols.trans (aside_finish _ _ _ _)) hcols
  · exact hcols

theorem reported_reportMember (c : Capture) (ms : List MemberSum) (ideal : List W16) (s : State) (m : MemberSum) :
    Reported 1 s (reportMember c ms ideal s m) := by
  obtain ⟨u, rest, hbefore, hafter⟩ := reportMember_parts c ms ideal s m
  exact ((hbefore.reported.trans (reported_seqTaken u)).trans (reported_of_butRing (butRing_ringPut _ _))).trans hafter.reported

theorem reported_reportMembers (c : Capture) (ms : List MemberSum) (ideal : List W16) (l : List MemberSum) (s : State) :
    Reported l.length s (l.foldl (reportMember c ms ideal) s) := by
  induction l generalizing s with
  | nil => exact (Aside.refl s).reported
  | cons m l ih =>
    rw [List.foldl_cons, List.length_cons, Nat.add_comm]
    exact (reported_reportMember c ms ideal s m).trans (ih _)

end Sys2Proof.Machine
end

section
/-! PROOF. O53: Spoon runs, the recomputing of captures, reading the report ring and the residual store, and a new ring size. -/

namespace Sys2Proof.Machine

/-! ### SPOON_RUN (04 R112, 16 Table 16.8) -/

/-- A response stands where it stood, as long as the mailbox and the order are left. -/
theorem responds_congr {s t u : State} {m : MbxId} {st : Nat} {p : Bytes} {f : Bool} (h : Responds s u m st p f) (hm : t.mbx = u.mbx)
    (ho : t.order = u.order) : Responds s t m st p f := by
  unfold Responds at h ⊢
  rwa [mbxAt_of_mbx hm, ho]

/-- The tile that a request names, and the run it asks for. -/
def namedTile (s : State) (m : MbxId) : Nat := tkey (reqN s m 8 2) (reqN s m 10 1)
def namedRun (s : State) (m : MbxId) : SpoonReq := { mbx := mref s m, tile := namedTile s m, seed := BitVec.ofNat 64 (reqN s m 16 8) }

/-- A SPOON_RUN that no check refuses. -/
structure RunAllowed (s : State) (m : MbxId) : Prop where
  ready   : Ready s m 0x0501 16
  site    : reqN s m 8 2 < 800
  tile    : tileWf (reqN s m 8 2) (reqN s m 10 1) = true
  zero    : ZeroAt s m 11 5
  here    : tileGone s (namedTile s m) = false
  free    : runPending s (namedTile s m) = false
  ring    : ringEntries s ≠ 0
  weights : testWeights s (namedTile s m) = true

/-- The command is accepted, and its run waits on the tile. -/
def runAccepted (s : State) (m : MbxId) : State := modTile (accept s m) (namedTile s m) (withRun (some (namedRun s m)))

section RunAccepted

variable (s : State) (m : MbxId)

theorem accept_tiles : (accept s m).tiles = s.tiles := post_tiles ..

theorem runAccepted_cw : (runAccepted s m).cw = s.cw := (modTile_cw ..).trans (post_cw ..)
theorem runAccepted_act : (runAccepted s m).act = s.act := (modTile_act ..).trans (post_act ..)
theorem runAccepted_cores : (runAccepted s m).cores = s.cores := (modTile_cores ..).trans (post_cores ..)
theorem runAccepted_arrays : (runAccepted s m).arrays = s.arrays := (modTile_arrays ..).trans (post_arrays ..)

theorem tileAt_runAccepted_same : tileAt (runAccepted s m) (namedTile s m) = withRun (some (namedRun s m)) (tileAt s (namedTile s m)) := by
  rw [runAccepted, tileAt_modTile_same, tileAt_of_tiles (accept_tiles s m)]

theorem tileAt_runAccepted_ne {k : Nat} (h : k ≠ namedTile s m) : tileAt (runAccepted s m) k = tileAt s k := by
  rw [runAccepted, tileAt_modTile_ne _ _ h, tileAt_of_tiles (accept_tiles s m)]

theorem runView_runAccepted (k : Nat) : runView (tileAt (runAccepted s m) k) = runView (tileAt s k) := by
  by_cases h : k = namedTile s m
  · rw [h, tileAt_runAccepted_same, runView_withRun]
  · rw [tileAt_runAccepted_ne s m h]

theorem responds_runAccepted : Responds s (runAccepted s m) m stAccepted [] false :=
  responds_congr (post_responds s m stAccepted [] false) (modTile_mbx ..) (modTile_order ..)

theorem spoonTry_runAccepted : spoonTry (runAccepted s m) (namedTile s m) =
    if drivesTest s (namedTile s m) && (coreAt s (spoonSite s (namedTile s m))).capture.isNone && testWeights s (namedTile s m)
    then driveTest (runAccepted s m) (namedTile s m) (namedRun s m) else runAccepted s m := by
  have hview := runView_runAccepted s m
  rw [spoonTry_of_request (r := namedRun s m) (by rw [tileAt_runAccepted_same]; rfl),
    drivesTest_congr hview (runAccepted_cw s m) (runAccepted_act s m), spoonSite_congr hview, testWeights_congr hview, coreAt,
    runAccepted_cores, ← coreAt]

end RunAccepted

theorem execSpoonRun_of_allowed {s : State} {m : MbxId} (h : RunAllowed s m) :
    exec (.spoonRun m) s = .next (spoonTry (runAccepted s m) (namedTile s m)) := by
  have hzero : reqN s m 11 5 = 0 := h.zero
  have hchk : firstErr [
      fieldCheck s m [(8, decide (reqN s m 8 2 < 800)), (10, tileWf (reqN s m 8 2) (reqN s m 10 1)), reqZero s m 11 5],
      need (!tileGone s (namedTile s m)) stTileUnavailable (tileState s (namedTile s m)),
      need (!runPending s (namedTile s m)) stBusy,
      need (ringEntries s != 0) stBadParam,
      need (testWeights s (namedTile s m)) stBadParam 8] = none := by
    rw [fieldCheck_ready h.ready, h.here, h.free, h.weights]
    simp [fieldsOk, reqZero, need, firstErr, h.site, h.tile, hzero, h.ring]
  exact runCmd_ready h.ready hchk _

/-- A run that cannot start waits on its tile. -/
theorem execSpoonRun_of_waits {s : State} {m : MbxId} (h : RunAllowed s m) (hwait : drivesTest s (namedTile s m) = false ∨
    (coreAt s (spoonSite s (namedTile s m))).capture.isSome = true) : exec (.spoonRun m) s = .next (runAccepted s m) := by
  rw [execSpoonRun_of_allowed h, spoonTry_runAccepted, if_neg]
  rcases hwait with hwait | hwait
  · simp [hwait]
  · simp [Option.isSome_iff_ne_none.mp hwait]

/-- On a free capture buffer a run of a test vector starts at once. -/
theorem execSpoonRun_of_drives {s : State} {m : MbxId} (h : RunAllowed s m) (hdrives : drivesTest s (namedTile s m) = true)
    (hfree : (coreAt s (spoonSite s (namedTile s m))).capture = none) :
    exec (.spoonRun m) s = .next (driveTest (runAccepted s m) (namedTile s m) (namedRun s m)) := by
  rw [execSpoonRun_of_allowed h, spoonTry_runAccepted, if_pos (by simp [hdrives, hfree, h.weights])]

section Driven

variable (s : State) (m : MbxId)

theorem arrays_of_butRuns {s t : State} (h : butRuns t = butRuns s) : t.arrays = s.arrays := (congrArg State.arrays h :)
theorem mbx_of_butRuns {s t : State} (h : butRuns t = butRuns s) : t.mbx = s.mbx := (congrArg State.mbx h :)
theorem order_of_butRuns {s t : State} (h : butRuns t = butRuns s) : t.order = s.order := (congrArg State.order h :)

/-- What an accepted run that starts at once leaves. -/
def runDriven : State := driveTest (runAccepted s m) (namedTile s m) (namedRun s m)

theorem butRuns_runDriven : butRuns (runDriven s m) = butRuns (runAccepted s m) := butRuns_driveTest _ _ _

theorem responds_runDriven : Responds s (runDriven s m) m stAccepted [] false :=
  responds_congr (responds_runAccepted s m) (mbx_of_butRuns (butRuns_runDriven s m)) (order_of_butRuns (butRuns_runDriven s m))

theorem runDriven_arrays : (runDriven s m).arrays = s.arrays :=
  (arrays_of_butRuns (butRuns_runDriven s m)).trans (runAccepted_arrays s m)

theorem sameWords_runDriven : SameWords [tileReg (namedTile s m) 0x18] s (runDriven s m) := by
  intro p hp
  rw [runDriven, driveTest_words _ _ _ (List.mem_singleton.not.mp hp), rd_of_cw (runAccepted_cw s m)]

theorem runDriven_starts : ∃ c : Capture,
    (tileAt (runDriven s m) (namedTile s m)).spoonReq = none ∧
    (coreAt (runDriven s m) (spoonSite s (namedTile s m))).capture = some c ∧
    c.test = true ∧ c.closed = true ∧ c.phys = [namedTile s m] ∧ c.onDemand = some (namedRun s m) ∧
    c.outs = (periphery (periCfg s (namedTile s m)) (fun i => c.wides.getD i 0)).1 := by
  have h := driveTest_starts (runAccepted s m) (namedTile s m) (namedRun s m)
  rwa [spoonSite_congr (runView_runAccepted s m), periCfg_of_act (runAccepted_act s m)] at h

end Driven

/-! ### SPOON_CAPTURE_EXPIRY (04 R110, R112) -/

theorem execSpoonCaptureExpiry_eq {site : Nat} (h : site < 800) (s : State) :
    exec (.spoonCaptureExpiry site) s = .next (spoonExpiry s site) := onUnit_of_true (decide_eq_true h) _

section Expiry

variable {s : State} {site : Nat} {c : Capture} (hc : (coreAt s site).capture = some c)
include hc

theorem spoonExpiry_of_young (h : elapsed s c.time < 10 * msCycles) : spoonExpiry s site = s := by
  rw [spoonExpiry, hc]
  exact if_pos h

theorem spoonExpiry_of_onDemand (h : 10 * msCycles ≤ elapsed s c.time) (hd : c.onDemand.isSome = true) :
    spoonExpiry s site = setCapture s site (some { c with raised := true }) := by
  rw [spoonExpiry, hc]
  dsimp only
  rw [if_neg (Nat.not_lt.mpr h), if_pos hd]

theorem spoonExpiry_of_live (h : 10 * msCycles ≤ elapsed s c.time) (hd : c.onDemand = none) (hruns : NoRunWaits s) :
    spoonExpiry s site = incHold (setCapture s site none) (spoonReg 0x14) 32 1 := by
  rw [spoonExpiry, hc]
  dsimp only
  rw [if_neg (Nat.not_lt.mpr h), if_neg (by simp [hd]), spoonWake_of_noRunWaits]
  exact noRunWaits_of_tiles hruns ((incHold_tiles ..).trans (modCore_tiles ..))

end Expiry

/-- A capture is dropped and counted (04 R110). -/
theorem dropped_capture (s : State) (site : Nat) : ∃ t, incHold (setCapture s site none) (spoonReg 0x14) 32 1 = t ∧
    coreAt t site = { coreAt s site with capture := none } ∧ (∀ k, k ≠ site → coreAt t k = coreAt s k) ∧
    rd t (spoonReg 0x14) = BitVec.ofNat 32 (Nat.min ((rd s (spoonReg 0x14)).toNat + 1) 0xFFFFFFFF) ∧ SameWords [spoonReg 0x14] s t ∧
    t = { s with cw := t.cw, cores := t.cores } := by
  refine ⟨_, rfl, ?_, fun k hk => ?_, ?_, fun p hp => ?_, ?_⟩
  · rw [coreAt_of_cores (incHold_cores ..), setCapture, coreAt_modCore_same]
  · rw [coreAt_of_cores (incHold_cores ..), setCapture, coreAt_modCore_ne s _ hk]
  · rw [rd_incHold_word, rd_of_cw (setCapture_cw ..)]
  · rw [rd_incHold_ne _ _ _ (List.mem_singleton.not.mp hp), rd_of_cw (setCapture_cw ..)]
  · apply eq_withWordsCores
    rw [incHold, butWordsCores_wr, setCapture, butWordsCores_modCore]

/-! ### SPOON_RECOMPUTE (04 R109, R110, R115) -/

/-- The engine takes a capture up: class 6, or 5 for a raised one; its clocks the spec leaves open. -/
def takenUp (s : State) (site : Nat) (c : Capture) : State :=
  useFree (engBusy s site (if c.raised then 5 else 6) (Config.freeNat s.freeNo))

theorem aside_engBusy (s : State) (site : Nat) {cls : Nat} (hcls : cls ≤ 7) (clocks : Nat) : Aside s (engBusy s site cls clocks) := by
  obtain ⟨rem, n, e⟩ := engBusy_eq s site cls clocks
  have hcore : Aside s (setCore s site { coreAt s site with busyRem := rem }) := aside_setCore s site rfl rfl
  rw [e, incWrap]
  refine hcore.trans (aside_wr _ _ fun o _ _ => ?_)
  unfold spoonReg engReg
  omega

theorem aside_takenUp (s : State) (site : Nat) (c : Capture) : Aside s (takenUp s site c) :=
  (aside_engBusy s site (by split <;> decide) _).trans (aside_useFree _)

theorem storeSound_useFree {s : State} {core : Nat} (h : StoreSound s core) : StoreSound (useFree s) core := h

theorem storeSound_takenUp {s : State} {site : Nat} (c : Capture) (h : StoreSound s site) : StoreSound (takenUp s site c) site :=
  storeSound_useFree (storeSound_engBusy site _ _ h)

/-- A capture that is complete is taken up, its store words are checked, and its reports are formed or it is given up. -/
theorem spoonRecompute_of_capture {s : State} {site : Nat} {c : Capture} (hc : (coreAt s site).capture = some c) :
    spoonRecompute s site = if !c.closed || higherReady s site 6 then s else
      spoonWake (if (itemCheck (takenUp s site c) site none [(spoonRegion, 0x8000)]).1
        then dropCapture (itemCheck (takenUp s site c) site none [(spoonRegion, 0x8000)]).2 site
        else spoonReports (itemCheck (takenUp s site c) site none [(spoonRegion, 0x8000)]).2 site c) := by
  rw [spoonRecompute, hc]
  rfl

/-- One member's sums, for each tile that ran the pass. -/
def memberSums (s : State) (c : Capture) : List MemberSum :=
  (List.range c.phys.length).map (fun i => memberSum s c (c.phys.getD i 0) (c.work.getD i {}))

theorem length_memberSums (s : State) (c : Capture) : (memberSums s c).length = c.phys.length := by
  rw [memberSums, List.length_map, List.length_range]

theorem spoonReports_eq (s : State) (site : Nat) (c : Capture) : ∃ ideal, spoonReports s site c =
    (memberSums s c).foldl (reportMember c (memberSums s c) ideal) (setCapture s site none) := ⟨_, rfl⟩

/-- The capture is taken up, its reports are formed, and runs that waited for the buffer are tried. -/
def recomputed (s : State) (site : Nat) (c : Capture) : State := spoonWake (spoonReports (takenUp s site c) site c)

section Recompute

variable {s : State} {site : Nat} {c : Capture} (hc : (coreAt s site).capture = some c) (hclosed : c.closed = true)
  (hfirst : higherReady s site 6 = false) (hsound : StoreSound s site)
include hc hclosed hfirst hsound

theorem spoonRecompute_of_closed : spoonRecompute s site = recomputed s site c := by
  rw [spoonRecompute_of_capture hc, if_neg (by simp [hclosed, hfirst]), itemCheck_of_storeSound (storeSound_takenUp c hsound)]
  exact congrArg spoonWake (if_neg Bool.false_ne_true)

theorem execSpoonRecompute_of_closed (hsite : site < 800) :
    exec (.spoonRecompute site) s = .next (recomputed s site c) := by
  have e : exec (.spoonRecompute site) s = .next (declared (spoonRecompute s site)) := onUnit_of_true (decide_eq_true hsite) _
  obtain ⟨ideal, hreports⟩ := spoonReports_eq (takenUp s site c) site c
  have hcalm : NoCoreFails (spoonReports (takenUp s site c) site c) := by
    rw [hreports]
    exact (reported_reportMembers c _ ideal _ _).calm (((aside_takenUp s site c).calm hsound.2).setCapture site none)
  rw [e, spoonRecompute_of_closed hc hclosed hfirst hsound, recomputed, declared_of_noCoreFails hcalm.spoonWake]

end Recompute

theorem Aside.spoonSeq {s t : State} (h : Aside s t) : t.spoonSeq = s.spoonSeq := (congrArg State.spoonSeq h.rest :)

theorem setCapture_spoonSeq (s : State) (site : Nat) (c : Option Capture) : (setCapture s site c).spoonSeq = s.spoonSeq :=
  modCore_spoonSeq ..

/-- A capture of one tile puts one report in the ring. -/
theorem spoonReports_single {s : State} {site k : Nat} {c : Capture} (hphys : c.phys = [k]) : ∃ u rest, SameRing s u ∧
    SameRing (ringPut u (leBytes 4 s.spoonSeq.toNat ++ rest)) (recomputed s site c) := by
  have htaken := aside_takenUp s site c
  obtain ⟨ideal, hreports⟩ := spoonReports_eq (takenUp s site c) site c
  have hone : memberSums (takenUp s site c) c = [memberSum (takenUp s site c) c k (c.work.getD 0 {})] := by
    rw [memberSums, hphys]; rfl
  obtain ⟨u, rest, hu, hafter⟩ := reportMember_parts c (memberSums (takenUp s site c) c) ideal (setCapture (takenUp s site c) site none)
    (memberSum (takenUp s site c) c k (c.work.getD 0 {}))
  have hseq : u.spoonSeq = s.spoonSeq := hu.spoonSeq.trans ((setCapture_spoonSeq (takenUp s site c) site none).trans htaken.spoonSeq)
  refine ⟨seqTaken u, rest, ?_, ?_⟩
  · exact ((htaken.sameRing.trans (sameRing_setCapture _ site none)).trans hu.sameRing).trans (sameRing_seqTaken u)
  · rw [recomputed, hreports, hone, List.foldl_cons, List.foldl_nil, ← hone, ← hseq]
    exact hafter.sameRing.trans (sameRing_spoonWake _)

theorem reported_spoonReports (s : State) (site : Nat) (c : Capture) :
    Reported c.phys.length (setCapture s site none) (spoonReports s site c) := by
  obtain ⟨ideal, e⟩ := spoonReports_eq s site c
  have h := reported_reportMembers c (memberSums s c) ideal (memberSums s c) (setCapture s site none)
  rwa [length_memberSums, ← e] at h

section Recomputed

variable (s : State) (site : Nat) (c : Capture)

theorem store_of_butRuns {s t : State} (h : butRuns t = butRuns s) : t.store = s.store := (congrArg State.store h :)
theorem spoonSeq_of_butRuns {s t : State} (h : butRuns t = butRuns s) : t.spoonSeq = s.spoonSeq := (congrArg State.spoonSeq h :)

theorem Aside.store {s t : State} (h : Aside s t) : t.store = s.store := (congrArg State.store h.rest :)

theorem butRuns_spoonWake (u : State) : butRuns (spoonWake u) = butRuns u := congrArg Prod.fst (runsLeave_spoonWake u)

theorem recomputed_spoonSeq : (recomputed s site c).spoonSeq = s.spoonSeq + BitVec.ofNat 32 c.phys.length := by
  rw [recomputed, spoonSeq_of_butRuns (butRuns_spoonWake _), (reported_spoonReports _ site c).seq, setCapture_spoonSeq,
    (aside_takenUp s site c).spoonSeq]

theorem recomputed_store : (recomputed s site c).store = s.store := by
  rw [recomputed, store_of_butRuns (butRuns_spoonWake _), (reported_spoonReports _ site c).store, setCapture, modCore_store,
    (aside_takenUp s site c).store]

theorem instView_recomputed (j : Nat) : instView (recomputed s site c) j = instView s j := by
  rw [recomputed, instView_of_held (held_spoonWake _), (reported_spoonReports _ site c).insts, instView,
    setCapture, instOf_of_insts (modCore_insts ..), ← instView, (aside_takenUp s site c).insts]

theorem recomputed_capture (h : NoRunWaits s) : (coreAt (recomputed s site c) site).capture = none := by
  have hreports := reported_spoonReports (takenUp s site c) site c
  have hquiet : NoRunWaits (spoonReports (takenUp s site c) site c) :=
    hreports.runs (noRunWaits_of_tiles ((aside_takenUp s site c).runs h) (modCore_tiles ..))
  rw [recomputed, spoonWake_of_noRunWaits hquiet, hreports.capture, setCapture, coreAt_modCore_same]

end Recomputed

end Sys2Proof.Machine
end

section
/-! PROOF. O53: reading the report ring and the residual store, and a new ring size. -/

namespace Sys2Proof.Machine

/-! ### A read that writes host memory and then responds (16 R383, R394) -/

theorem reqN_of_req {s t : State} {m : MbxId} (h : (mbxAt t m).req = (mbxAt s m).req) (i n : Nat) : reqN t m i n = reqN s m i n := by
  induction n generalizing i with
  | zero => rfl
  | succ n ih => rw [reqN, reqN, ih, reqByte, reqByte, h]

theorem accept_req (s : State) (m : MbxId) : (mbxAt (accept s m) m).req = (mbxAt s m).req := by rw [accept, post_mbx]; rfl

theorem finishOk_mref {s u : State} {m : MbxId} (hm : mbxAt u m = mbxAt (accept s m) m) (p : Bytes) :
    finishOk u (mref s m) p = post u m stOk (reqOp s m) p true := finish_mref s m hm stOk p

theorem reqOp_of_ready {s : State} {m : MbxId} {op len : Nat} (h : Ready s m op len) : reqOp s m = op := by
  obtain ⟨_, htaken, _, _⟩ := h
  simp only [taken, Bool.and_eq_true, beq_iff_eq] at htaken
  exact htaken.2

/-- The response of a read writes nothing to host memory. -/
theorem finishOk_hostMem {s u : State} {m : MbxId} (hm : mbxAt u m = mbxAt (accept s m) m) (hop : reqOp s m = 0x0502 ∨ reqOp s m = 0x0503)
    (p : Bytes) : (finishOk u (mref s m) p).hostMem = u.hostMem := by
  rw [finishOk_mref hm]
  exact post_hostMem_of_recorded (recorded_of_noSlots (cmdSlots_of_readCommand u m hop) _ _) p

/-- Blanks the words and the number of free values used. -/
def butTail (s : State) : State := { s.butWords with freeNo := 0 }

theorem butTail_useFree (s : State) : butTail (useFree s) = butTail s := rfl
theorem butTail_wrF (s : State) (o hi lo v : Nat) : butTail (wrF s o hi lo v) = butTail s := rfl

section ButTail

variable {s t : State} (h : butTail t = butTail s)
include h

theorem mbx_of_butTail : t.mbx = s.mbx := (congrArg State.mbx h :)
theorem order_of_butTail : t.order = s.order := (congrArg State.order h :)
theorem hostMem_of_butTail : t.hostMem = s.hostMem := (congrArg State.hostMem h :)
theorem bme0_of_butTail : t.bme0 = s.bme0 := (congrArg State.bme0 h :)
theorem bme1_of_butTail : t.bme1 = s.bme1 := (congrArg State.bme1 h :)
theorem stackMem_of_butTail : t.stackMem = s.stackMem := (congrArg State.stackMem h :)
theorem insts_of_butTail : t.insts = s.insts := (congrArg State.insts h :)

end ButTail

/-- A host write of a command that has been accepted is that of the state before. -/
theorem dmaWrite_hostMem_of_accept {s u : State} {m : MbxId} (h : butTail u = butTail (accept s m)) (a : W64) (bs : Bytes) :
    (dmaWrite u m.pf a bs).hostMem = (dmaWrite s m.pf a bs).hostMem :=
  dmaWrite_hostMem_congr ((hostMem_of_butTail h).trans (accept_hostMem s m)) ((bme0_of_butTail h).trans (post_bme0 ..))
    ((bme1_of_butTail h).trans (post_bme1 ..)) m.pf a bs

/-! ### SPOON_READ (16 R394) -/

/-- The number of reports a read gives, these reports as they lie in the ring, and the SEQ of the first. -/
def readCount (s : State) (m : MbxId) : Nat := Nat.min (reqN s m 8 2) (ringCount s)
def ringReports (s : State) (n : Nat) : List Bytes :=
  (List.range n).map (fun i => memRead s.stackMem (ringOffset s ((ringTail s + i) % ringEntries s)) 4096)
def firstReportSeq (s : State) (n : Nat) : Nat := if n = 0 then Config.freeNat s.freeNo else leAt ((ringReports s n).headD []) 0 4

/-- The command is accepted, and the tail moves past the reports it gives. -/
def tailMoved (s : State) (m : MbxId) (n : Nat) : State :=
  if n = 0 then useFree (accept s m)
  else wrF (useFree (accept s m)) (spoonReg 0x30) 15 0 ((ringTail (useFree (accept s m)) + n) % ringEntries (useFree (accept s m)))

/-- The bytes a mailbox gets. -/
def readData (s : State) (m : MbxId) (n : Nat) : Bytes := ((ringReports s n).map (reportFor s (mbxSecure s m))).flatten

/-- The reports have gone to host memory. -/
def readSent (s : State) (m : MbxId) (n : Nat) : State :=
  dmaWrite (tailMoved s m n) m.pf (BitVec.ofNat 64 (reqN (tailMoved s m n) m 16 8)) (readData s m n)

theorem firstReportSeq_of_some (s : State) {n : Nat} (h : n ≠ 0) :
    firstReportSeq s n = leAt (memRead s.stackMem (ringOffset s (ringTail s % ringEntries s)) 4096) 0 4 := by
  obtain ⟨k, rfl⟩ := Nat.exists_eq_succ_of_ne_zero h
  rw [firstReportSeq, if_neg h, ringReports, List.range_succ_eq_map]
  rfl

theorem readData_eq (s : State) (m : MbxId) (n : Nat) : readData s m n = ((List.range n).map (fun i =>
    reportFor s (mbxSecure s m) (memRead s.stackMem (ringOffset s ((ringTail s + i) % ringEntries s)) 4096))).flatten := by
  rw [readData, ringReports, List.map_map]
  rfl

section TailMoved

variable (s : State) (m : MbxId) (n : Nat)

theorem butTail_tailMoved : butTail (tailMoved s m n) = butTail (accept s m) := by
  unfold tailMoved
  split
  · exact butTail_useFree _
  · exact (butTail_wrF ..).trans (butTail_useFree _)

theorem useFree_accept_cw : (useFree (accept s m)).cw = s.cw := post_cw ..

theorem rd_tailMoved_ne {p : Nat} (h : p ≠ spoonReg 0x30) : rd (tailMoved s m n) p = rd s p := by
  unfold tailMoved
  split
  · exact rd_of_cw (useFree_accept_cw s m) p
  · rw [rd_wrF_ne _ _ _ _ h, rd_of_cw (useFree_accept_cw s m)]

theorem ringTail_tailMoved (hn : n ≠ 0 → ringEntries s ≠ 0) :
    ringTail (tailMoved s m n) = if n = 0 then ringTail s else (ringTail s + n) % ringEntries s := by
  have htail : ringTail (useFree (accept s m)) = ringTail s := rdF_of_cw (useFree_accept_cw s m) ..
  have hentries : ringEntries (useFree (accept s m)) = ringEntries s := rdF_of_cw (useFree_accept_cw s m) ..
  unfold tailMoved
  split
  · exact htail
  · rename_i h
    have hlt : (ringTail s + n) % ringEntries s < 2 ^ 16 := (Nat.mod_lt _ (Nat.pos_of_ne_zero (hn h))).trans (ringEntries_lt s)
    rw [htail, hentries, ringTail, rdF_wrF_same _ _ _ (by decide) (by decide)]
    exact Nat.mod_eq_of_lt hlt

theorem mbxAt_tailMoved : mbxAt (tailMoved s m n) m = mbxAt (accept s m) m := mbxAt_of_mbx (mbx_of_butTail (butTail_tailMoved s m n)) m

theorem readSent_eq : readSent s m n = dmaWrite (tailMoved s m n) m.pf (BitVec.ofNat 64 (reqN s m 16 8)) (readData s m n) := by
  have hreq : (mbxAt (tailMoved s m n) m).req = (mbxAt s m).req := by rw [mbxAt_tailMoved, accept_req]
  rw [readSent, reqN_of_req hreq]

theorem mbxAt_readSent : mbxAt (readSent s m n) m = mbxAt (accept s m) m := by
  rw [readSent, mbxAt_of_mbx (dmaWrite_mbx ..), mbxAt_tailMoved]

end TailMoved

theorem readCount_zero {s : State} (m : MbxId) (h : ringEntries s = 0) : readCount s m = 0 := by
  rw [readCount, ringCount, h]
  exact Nat.min_zero _

section Read

variable {s : State} {m : MbxId} (h : Ready s m 0x0502 16)
include h

theorem execSpoonRead_of_ready (hlo : 1 ≤ reqN s m 8 2) (hhi : reqN s m 8 2 ≤ 1024) (hzero : ZeroAt s m 10 6)
    (haddr : reqN s m 16 8 % 4096 = 0) : exec (.spoonRead m) s = .next (finishOk (readSent s m (readCount s m)) (mref s m)
      (leBytes 2 (readCount s m) ++ zeros 2 ++ leBytes 4 (firstReportSeq s (readCount s m)))) := by
  have hz : reqN s m 10 6 = 0 := hzero
  have hchk : fieldCheck s m [(8, 1 ≤ reqN s m 8 2 && reqN s m 8 2 ≤ 1024), reqZero s m 10 6, (16, reqN s m 16 8 % 4096 == 0)] = none := by
    rw [fieldCheck_ready h]
    simp [fieldsOk, reqZero, hlo, hhi, hz, haddr]
  exact runCmd_ready h hchk _

/-- What `SPOON_READ` of `n` reports leaves, whatever its response holds. -/
theorem spoonRead_leaves (n : Nat) (p : Bytes) (hn : n ≠ 0 → ringEntries s ≠ 0) : ∃ t, finishOk (readSent s m n) (mref s m) p = t ∧
    Responds s t m stOk p true ∧ ringTail t = (if n = 0 then ringTail s else (ringTail s + n) % ringEntries s) ∧
    SameWords [spoonReg 0x30] s t ∧
    t.hostMem = (dmaWrite s m.pf (BitVec.ofNat 64 (reqN s m 16 8)) (readData s m n)).hostMem ∧
    t.stackMem = s.stackMem ∧ (∀ j, instView t j = instView s j) := by
  have hm := mbxAt_readSent s m n
  have ht := butTail_tailMoved s m n
  have hmem := finishOk_hostMem hm (.inl (reqOp_of_ready h)) p
  have hwords : ∀ o, rd (finishOk (readSent s m n) (mref s m) p) o = rd (tailMoved s m n) o := fun o => by
    rw [finishOk_mref hm, rd_of_cw (post_cw ..), readSent, rd_of_cw (dmaWrite_cw ..)]
  refine ⟨_, rfl, finish_responds s _ m stOk p hm ?_, ?_, fun o ho => ?_, ?_, ?_, fun j => ?_⟩
  · rw [readSent, dmaWrite_order, order_of_butTail ht]
  · rw [← ringTail_tailMoved s m n hn]
    exact congrArg (fld · 15 0) (hwords _)
  · rw [hwords, rd_tailMoved_ne s m n (List.mem_singleton.not.mp ho)]
  · rw [hmem, readSent_eq, dmaWrite_hostMem_of_accept ht]
  · rw [finishOk_mref hm, post_stackMem, readSent, dmaWrite_stackMem, stackMem_of_butTail ht, accept, post_stackMem]
  · rw [finishOk_mref hm, post_instView, readSent, instView, instOf_of_insts (dmaWrite_insts ..), instOf_of_insts (insts_of_butTail ht),
      ← instView, accept, post_instView]

end Read

/-! ### SPOON_RING_SIZE_WRITE (04 R115) -/

theorem execSpoonRingSizeWrite_of_ok {s t : State} {v : W32} (h : ringWrite s (fld v 15 0) = .ok t) :
    exec (.spoonRingSizeWrite v) s = .next t := by
  change execSpoonRingSizeWrite v s = .next t
  rw [execSpoonRingSizeWrite, h]

theorem execSpoonRingSizeWrite_of_error {s : State} {v : W32} {e : Err} (h : ringWrite s (fld v 15 0) = .error e) :
    exec (.spoonRingSizeWrite v) s = .next s := by
  change execSpoonRingSizeWrite v s = .next s
  rw [execSpoonRingSizeWrite, h]

/-- The ring's object is set. -/
def withRing (s : State) (h : Option Nat) : State := { s with ringH := h }

theorem withRing_pot (s : State) (h : Option Nat) : (withRing s h).pot = s.pot := rfl
theorem withRing_ringH (s : State) (h : Option Nat) : (withRing s h).ringH = h := rfl
theorem withRing_stackMem (s : State) (h : Option Nat) : (withRing s h).stackMem = s.stackMem := rfl
theorem withRing_insts (s : State) (h : Option Nat) : (withRing s h).insts = s.insts := rfl

/-- The old ring is gone. -/
def ringFreed (s : State) : State := freeObjOpt (withRing s none) s.ringH

section RingSize

variable {s : State} {v : Nat}

theorem ringWrite_of_bad (h : ringSizeOk v = false) : ringWrite s v = .error { st := stBadParam } := by
  rw [ringWrite, h]
  rfl

theorem ringWrite_of_zero (h : v = 0) : ringWrite s v = .ok (wrF (ringFreed s) (spoonReg 0x28) 15 0 0) := by
  subst h
  rfl

/-- The registers that say where the new ring lies. -/
def ringPlaced (u : State) (h : Nat) : State :=
  let a := stackGma (rdF u (fabReg 4) 12 0) ((objFrames u (some h)).headD 0) 0
  wr (wr (withRing u (some h)) (spoonReg 0x20) (BitVec.ofNat 32 (a.toNat % 2 ^ 32))) (spoonReg 0x24) (BitVec.ofNat 32 (a.toNat / 2 ^ 32))

/-- The new ring, which is empty. -/
def ringMade (u : State) (h v : Nat) : State :=
  wr (wr (wrF (ringPlaced u h) (spoonReg 0x28) 15 0 v) (spoonReg 0x2C) 0) (spoonReg 0x30) 0

theorem ringWrite_of_room {u : State} {h : Nat} (hok : ringSizeOk v = true) (hv : v ≠ 0)
    (hnew : newObjPages (ringFreed s) 6 64 true true (ceilDiv v 512) = some (h, u)) : ringWrite s v = .ok (ringMade u h v) := by
  rw [ringFreed, withRing] at hnew
  simp only [ringWrite, hok, hnew, if_neg hv]
  rfl

theorem ringWrite_of_none (hok : ringSizeOk v = true) (hv : v ≠ 0)
    (hnew : newObjPages (ringFreed s) 6 64 true true (ceilDiv v 512) = none) : ringWrite s v = .error { st := stStockpotFull } := by
  rw [ringFreed, withRing] at hnew
  simp only [ringWrite, hok, hnew, if_neg hv]
  rfl

end RingSize

theorem butPot_ringFreed (s : State) : butPot (ringFreed s) = butPot (withRing s none) := butPot_freeObjOpt _ _

theorem objAt_ringFreed {s : State} {h : Nat} (hh : s.ringH = some h) : objAt (ringFreed s) h = none := by
  rw [ringFreed, hh]
  exact objAt_freeObj _ h

theorem ringFreed_stackMem (s : State) : (ringFreed s).stackMem = s.stackMem :=
  (stackMem_of_butPot (butPot_ringFreed s)).trans (withRing_stackMem s none)

theorem ringFreed_insts (s : State) : (ringFreed s).insts = s.insts :=
  (insts_of_butPot (butPot_ringFreed s)).trans (withRing_insts s none)

theorem ringFreed_ringH (s : State) : (ringFreed s).ringH = none := ringH_of_butPot (butPot_ringFreed s)

/-- The ring is freed and none takes its place. -/
theorem ringGone (s : State) : ∃ t, wrF (ringFreed s) (spoonReg 0x28) 15 0 0 = t ∧ ringEntries t = 0 ∧ t.ringH = none ∧
    (∀ h, s.ringH = some h → objAt t h = none) ∧ t.stackMem = s.stackMem ∧ t.insts = s.insts := by
  refine ⟨_, rfl, ?_, ?_, fun h hh => objAt_ringFreed hh, ?_, ?_⟩
  · rw [ringEntries, rdF_wrF_same _ _ _ (by decide) (by decide)]
    rfl
  · rw [wrF_ringH, ringFreed_ringH]
  · rw [wrF_stackMem, ringFreed_stackMem]
  · rw [wrF_insts, ringFreed_insts]

theorem objFrames_of_pot {s t : State} (h : t.pot = s.pot) (o : Option Nat) : objFrames t o = objFrames s o := by
  unfold objFrames objAt; rw [h]

section RingMade

variable (u : State) (h v : Nat)

theorem ringMade_pot : (ringMade u h v).pot = u.pot := by
  rw [ringMade, wr_pot, wr_pot, wrF_pot, ringPlaced, wr_pot, wr_pot, withRing_pot]

theorem ringMade_ringH : (ringMade u h v).ringH = some h := by
  rw [ringMade, wr_ringH, wr_ringH, wrF_ringH, ringPlaced, wr_ringH, wr_ringH, withRing_ringH]

theorem ringMade_stackMem : (ringMade u h v).stackMem = u.stackMem := by
  rw [ringMade, wr_stackMem, wr_stackMem, wrF_stackMem, ringPlaced, wr_stackMem, wr_stackMem, withRing_stackMem]

theorem ringMade_insts : (ringMade u h v).insts = u.insts := by
  rw [ringMade, wr_insts, wr_insts, wrF_insts, ringPlaced, wr_insts, wr_insts, withRing_insts]

theorem ringTail_ringMade : ringTail (ringMade u h v) = 0 := by
  rw [ringTail, rdF, ringMade, rd_wr_same]
  rfl

theorem ringHead_ringMade : ringHead (ringMade u h v) = 0 := by
  rw [ringHead, rdF, ringMade, rd_wr_ne _ _ (spoonReg_ne (by decide)), rd_wr_same]
  rfl

theorem ringEntries_ringMade (hv : v < 2 ^ 16) : ringEntries (ringMade u h v) = v := by
  rw [ringEntries, rdF, ringMade, rd_wr_ne _ _ (spoonReg_ne (by decide)), rd_wr_ne _ _ (spoonReg_ne (by decide)), ← rdF,
    rdF_wrF_same _ _ _ (by decide) (by decide)]
  exact Nat.mod_eq_of_lt hv

end RingMade

theorem ringMade_of_new {s u : State} {h n v : Nat} (hv : v < 2 ^ 16)
    (hnew : newObjPages (ringFreed s) 6 64 true true n = some (h, u)) : ∃ t, ringMade u h v = t ∧ ringEntries t = v ∧
    ringHead t = 0 ∧ ringTail t = 0 ∧ t.ringH = some h ∧ (objFrames t (some h)).length = n ∧ t.stackMem = s.stackMem ∧
    t.insts = s.insts := by
  obtain ⟨hpot, hlen⟩ := newObjPages_made _ hnew
  refine ⟨_, rfl, ringEntries_ringMade u h v hv, ringHead_ringMade u h v, ringTail_ringMade u h v, ringMade_ringH u h v, ?_, ?_, ?_⟩
  · rw [objFrames_of_pot (ringMade_pot u h v), hlen]
  · rw [ringMade_stackMem, stackMem_of_butPot hpot, ringFreed_stackMem]
  · rw [ringMade_insts, insts_of_butPot hpot, ringFreed_insts]

/-! ### RESIDUAL_READ (16 R394) -/

/-- Records of FROM_SEQ on, as many as the command asks for. -/
def residsShown (s : State) (m : MbxId) : List ResidualRec := (s.resids.filter (fun x => reqN s m 8 4 ≤ x.seq.toNat)).take (reqN s m 12 2)

/-- Records that are shown stand in the store, so that its oldest one has a SEQ. -/
theorem oldest_of_shown {s : State} {m : MbxId} (h : residsShown s m ≠ []) (d : Nat) :
    (s.resids.head?.map (fun x => x.seq.toNat)).getD d = (s.resids.head?.map (fun x => x.seq.toNat)).getD 0 := by
  cases hr : s.resids with
  | nil => exact absurd (by rw [residsShown, hr, List.filter_nil, List.take_nil]) h
  | cons x xs => rfl

/-- The command is accepted, and its records have gone to host memory. -/
def residsSent (s : State) (m : MbxId) : State :=
  useFree (dmaWrite (accept s m) m.pf (BitVec.ofNat 64 (reqN (accept s m) m 16 8)) ((residsShown s m).map residBytes).flatten)

section Residuals

variable {s : State} {m : MbxId}

theorem mbxAt_residsSent : mbxAt (residsSent s m) m = mbxAt (accept s m) m := mbxAt_of_mbx (dmaWrite_mbx ..) m

variable (h : Ready s m 0x0503 16)
include h

/-- To a secure mailbox every record is shown, and none is skipped. -/
theorem execResidualRead_of_secure (hlo : 1 ≤ reqN s m 12 2) (hhi : reqN s m 12 2 ≤ 4096) (hzero : ZeroAt s m 14 2)
    (haddr : reqN s m 16 8 % 32 = 0) (hsec : mbxSecure s m = true) : exec (.residualRead m) s = .next (finishOk (residsSent s m) (mref s m)
      (leBytes 4 (residsShown s m).length ++
        leBytes 4 (((residsShown s m).head?.map (fun x => x.seq.toNat)).getD (Config.freeNat s.freeNo)) ++
        leBytes 4 ((s.resids.head?.map (fun x => x.seq.toNat)).getD s.residSeq.toNat - reqN s m 8 4) ++ zeros 4)) := by
  have hz : reqN s m 14 2 = 0 := hzero
  have hchk : fieldCheck s m [(12, 1 ≤ reqN s m 12 2 && reqN s m 12 2 ≤ 4096), reqZero s m 14 2, (16, reqN s m 16 8 % 32 == 0)] = none := by
    rw [fieldCheck_ready h]
    simp [fieldsOk, reqZero, hlo, hhi, hz, haddr]
  change execResidualRead m s = _
  unfold execResidualRead
  extract_lets from_ count box secure all shown upTo skipped first oldest taken sent
  have hshown : shown = residsShown s m := by
    simp only [shown, secure, hsec, Bool.true_or, List.filter_true]
    rfl
  have hskipped : skipped = 0 := by
    simp [skipped, secure, hsec]
  have hfirst : first = ((residsShown s m).head?.map (fun x => x.seq.toNat)).getD (Config.freeNat s.freeNo) := by rw [← hshown]
  have hsent : useFree sent = residsSent s m := by rw [residsSent, ← hshown]
  rw [runCmd_ready h hchk, hsent, hfirst, hskipped, hshown]
  rfl

theorem residualRead_leaves (p : Bytes) : ∃ t, finishOk (residsSent s m) (mref s m) p = t ∧ Responds s t m stOk p true ∧
    t.hostMem = (dmaWrite s m.pf (BitVec.ofNat 64 (reqN s m 16 8)) ((residsShown s m).map residBytes).flatten).hostMem ∧
    t.resids = s.resids ∧ t.cw = s.cw := by
  have hm := mbxAt_residsSent (s := s) (m := m)
  refine ⟨_, rfl, finish_responds s _ m stOk p hm (dmaWrite_order ..), ?_, ?_, ?_⟩
  · rw [finishOk_hostMem hm (.inr (reqOp_of_ready h)), ← reqN_of_req (accept_req s m)]
    exact dmaWrite_hostMem_of_accept (u := accept s m) rfl _ _
  · rw [finishOk_mref hm, post_resids]
    exact (dmaWrite_resids ..).trans (post_resids ..)
  · rw [finishOk_mref hm, post_cw]
    exact (dmaWrite_cw ..).trans (post_cw ..)

end Residuals

end Sys2Proof.Machine
end

section
/-! PROOF. O53: runs, captures, reads and the ring's size, clause by clause. -/

namespace Sys2Proof.Machine

/-- Settles O53: a run's start is decided by what the accepted request leaves; the evaluation of a report leaves the ring (`Aside`), so that
only the report itself moves it; reads and a new size change the ring's registers alone. -/
theorem spoonRunsReportsAndRings : Obligations.SpoonRunsReportsAndRings := by
  unfold Obligations.SpoonRunsReportsAndRings
  refine ⟨?runWaits, ?runDrives, ?liveExpires, ?onDemandRaised, ?young, ?recompute, ?reportRoom, ?reportFull, ?read, ?badSize,
    ?sizeZero, ?sizeMade, ?noPool, ?residuals⟩
  case runWaits =>
    intro s m hready hsite htile hzero hhere hfree hring hweights hwait
    refine ⟨runAccepted s m, execSpoonRun_of_waits ⟨hready, hsite, htile, hzero, hhere, hfree, hring, hweights⟩ hwait,
      responds_runAccepted s m, ?_, fun k hk => tileAt_runAccepted_ne s m hk, runAccepted_cores s m, runAccepted_cw s m,
      runAccepted_arrays s m⟩
    exact congrArg TileSt.spoonReq (tileAt_runAccepted_same s m)
  case runDrives =>
    intro s m hready hsite htile hzero hhere hfree hring hweights hdrives hcapture
    obtain ⟨c, hreq, hcap, htest, hclosed, hphys, hdemand, houts⟩ := runDriven_starts s m
    exact ⟨runDriven s m, c, execSpoonRun_of_drives ⟨hready, hsite, htile, hzero, hhere, hfree, hring, hweights⟩ hdrives hcapture,
      responds_runDriven s m, hreq, hcap, htest, hclosed, hphys, Option.isSome_of_eq_some hdemand, houts, sameWords_runDriven s m,
      runDriven_arrays s m⟩
  case liveExpires =>
    intro s site c hsite hc hold hlive hruns
    obtain ⟨t, ht, hleaves⟩ := dropped_capture s site
    refine ⟨t, ?_, hleaves⟩
    rw [execSpoonCaptureExpiry_eq hsite, spoonExpiry_of_live hc hold hlive hruns, ht]
  case onDemandRaised =>
    intro s site c hsite hc hold hdemand
    refine ⟨setCapture s site (some { c with raised := true }), ?_, coreAt_modCore_same .., fun k hk => coreAt_modCore_ne s _ hk, rfl⟩
    rw [execSpoonCaptureExpiry_eq hsite, spoonExpiry_of_onDemand hc hold hdemand]
  case young =>
    intro s site c hsite hc hyoung
    rw [execSpoonCaptureExpiry_eq hsite, spoonExpiry_of_young hc hyoung]
  case recompute =>
    intro s site c hsite hc hclosed hfirst hsound
    exact ⟨recomputed s site c, execSpoonRecompute_of_closed hc hclosed hfirst hsound hsite, recomputed_spoonSeq s site c,
      recomputed_capture s site c, recomputed_store s site c, instView_recomputed s site c⟩
  case reportRoom =>
    intro s site k c hsite hc hclosed hphys hfirst hsound hentries hroom
    obtain ⟨u, rest, hu, ht⟩ := spoonReports_single (s := s) (site := site) hphys
    obtain ⟨hhead, htail, hreports, hlost, hmem⟩ := ring_of_room hu ht (not_or.mpr ⟨hentries, hroom⟩)
    exact ⟨recomputed s site c, execSpoonRecompute_of_closed hc hclosed hfirst hsound hsite, hhead, htail, hreports, hlost,
      memRead_of_report hmem⟩
  case reportFull =>
    intro s site k c hsite hc hclosed hphys hfirst hsound hfull
    obtain ⟨u, rest, hu, ht⟩ := spoonReports_single (s := s) (site := site) hphys
    exact ⟨recomputed s site c, execSpoonRecompute_of_closed hc hclosed hfirst hsound hsite, ring_of_full hu ht hfull⟩
  case read =>
    intro s m hready hlo hhi hzero haddr
    obtain ⟨t, ht, hresponds, htail, hwords, hhost, hstack, hinsts⟩ := spoonRead_leaves hready (readCount s m)
      (leBytes 2 (readCount s m) ++ zeros 2 ++ leBytes 4 (firstReportSeq s (readCount s m))) (fun hn he => hn (readCount_zero m he))
    refine ⟨t, readCount s m, firstReportSeq s (readCount s m), ?_, rfl, hresponds, htail, hwords, firstReportSeq_of_some s, ?_, hstack, hinsts⟩
    · rw [execSpoonRead_of_ready hready hlo hhi hzero haddr, ht]
    · rw [hhost, readData_eq]
  case badSize =>
    exact fun s v hbad => execSpoonRingSizeWrite_of_error (ringWrite_of_bad hbad)
  case sizeZero =>
    intro s v hv
    obtain ⟨t, ht, hgone⟩ := ringGone s
    exact ⟨t, execSpoonRingSizeWrite_of_ok (ht ▸ ringWrite_of_zero hv), hgone⟩
  case sizeMade =>
    intro s u v h hok hv hnew
    obtain ⟨t, ht, hmade⟩ := ringMade_of_new (v := fld v 15 0) (Nat.mod_lt _ (by decide)) hnew
    exact ⟨t, execSpoonRingSizeWrite_of_ok (ht ▸ ringWrite_of_room hok hv hnew), hmade⟩
  case noPool =>
    exact fun s v hok hv hnew => execSpoonRingSizeWrite_of_error (ringWrite_of_none hok hv hnew)
  case residuals =>
    intro s m r rs hready hlo hhi hzero haddr hsec hshown
    have e : residsShown s m = r :: rs := hshown
    have hrun := execResidualRead_of_secure hready hlo hhi hzero haddr hsec
    rw [oldest_of_shown (by rw [e]; exact List.cons_ne_nil r rs), e] at hrun
    have hleaves := residualRead_leaves hready (leBytes 4 (rs.length + 1) ++ leBytes 4 r.seq.toNat ++
      leBytes 4 ((s.resids.head?.map (fun x => x.seq.toNat)).getD 0 - reqN s m 8 4) ++ zeros 4)
    rw [e] at hleaves
    obtain ⟨t, ht, hleaves⟩ := hleaves
    exact ⟨t, hrun.trans (congrArg _ ht), hleaves⟩

end Sys2Proof.Machine
end

section
/-! SUPPORT. A core that fails (20 R463, R464): its tiles go OFF and others stand in for it, but stack memory and the table of bad
words stay, and of the fault records only its own is written. -/

namespace Sys2Proof.Machine

/-- Stack memory, the table of bad words and the fault records. -/
def kept (s : State) : List Host.Cell × SMap Nat × List FaultRec := (s.stackMem, s.storeBad, s.faults)

theorem stackMem_of_kept {s t : State} (h : kept t = kept s) : t.stackMem = s.stackMem := congrArg Prod.fst h
theorem storeBad_of_kept {s t : State} (h : kept t = kept s) : t.storeBad = s.storeBad := congrArg (·.2.1) h
theorem faults_of_kept {s t : State} (h : kept t = kept s) : t.faults = s.faults := congrArg (·.2.2) h

theorem kept_of_butReply {s t : State} (h : t.butReply = s.butReply) : kept t = kept s := (congrArg kept h :)

variable (s : State)

/-! ### Setters -/

@[simp] theorem kept_wr (o : Nat) (v : W32) : kept (wr s o v) = kept s := rfl
@[simp] theorem kept_wrF (o hi lo v : Nat) : kept (wrF s o hi lo v) = kept s := rfl
@[simp] theorem kept_wbit (o i : Nat) (b : Bool) : kept (wbit s o i b) = kept s := rfl
@[simp] theorem kept_incHold (o n b : Nat) : kept (incHold s o n b) = kept s := rfl
@[simp] theorem kept_modTile (k : Nat) (f : TileSt → TileSt) : kept (modTile s k f) = kept s := rfl
@[simp] theorem kept_modCore (k : Nat) (f : CoreSt → CoreSt) : kept (modCore s k f) = kept s := rfl
@[simp] theorem kept_setCapture (site : Nat) (c : Option Capture) : kept (setCapture s site c) = kept s := kept_modCore s site _
@[simp] theorem kept_setTileState (k v : Nat) : kept (setTileState s k v) = kept s := kept_wrF s _ 2 0 v
@[simp] theorem kept_setCalStatus (k hi lo v : Nat) : kept (setCalStatus s k hi lo v) = kept s := kept_wrF s _ hi lo v
@[simp] theorem kept_calClear (k : Nat) : kept (calClear s k) = kept s := by
  rw [calClear, kept_setCalStatus, kept_setCalStatus]

@[simp] theorem kept_finishErr (r : MbxRef) (e : Err) : kept (finishErr s r e) = kept s := by
  unfold finishErr finish
  split
  · exact kept_of_butReply (post_butReply ..)
  · rfl

/-! ### A tile goes OFF -/

@[simp] theorem kept_endCover (site head : Nat) : kept (endCover s site head) = kept s := kept_modCore s site _

@[simp] theorem kept_calAbandon (k : Nat) : kept (calAbandon s k) = kept s := by
  unfold calAbandon
  split
  · rfl
  · dsimp only
    split
    · rw [kept_endCover, kept_modTile, kept_setCalStatus]
    · rw [kept_modTile, kept_setCalStatus]

@[simp] theorem kept_spareFreed (sp : Nat) : kept (spareFreed s sp) = kept s := by
  rw [spareFreed, kept_modTile, kept_setTileState, kept_calAbandon]

@[simp] theorem kept_releaseSpare (m : Nat) : kept (releaseSpare s m) = kept s := by
  unfold releaseSpare
  dsimp only
  split
  · rw [kept_modTile, kept_spareFreed]
  · split
    · exact kept_spareFreed s _
    · rfl

@[simp] theorem kept_calUnavailable (k : Nat) : kept (calUnavailable s k) = kept s :=
  foldl_view (fun m _ u => kept_finishErr u m _) (modTile s k _)

@[simp] theorem kept_spoonGone (k : Nat) : kept (spoonGone s k) = kept s := by
  unfold spoonGone
  split
  · rw [kept_finishErr, kept_modTile]
  · rfl

theorem kept_tileOff (k : Nat) : kept (tileOff s k) = kept s := by
  simp only [tileOff, kept_spoonGone, kept_calUnavailable, kept_calClear, kept_setTileState, kept_modTile, kept_calAbandon,
    kept_releaseSpare]

theorem kept_captureGone (site : Nat) : kept (captureGone s site) = kept s := by
  unfold captureGone
  split
  · dsimp only
    split
    · rw [kept_finishErr, kept_setCapture]
    · rw [kept_incHold, kept_setCapture]
  · rfl

/-! ### Others stand in -/

theorem kept_takeStandin (c site slot : Nat) : kept (takeStandin s c site slot) = kept s := rfl

theorem kept_assignStandins (site : Nat) : kept (assignStandins s site) = kept s := by
  refine (foldl_view (fun t _ u => ?_) _).trans (kept_modCore s site _)
  split
  · split
    · exact kept_takeStandin ..
    · rfl
  · rfl

theorem kept_replaceStandin (st : Option (Nat × Nat)) : kept (replaceStandin s st) = kept s := by
  unfold replaceStandin
  split
  · rw [kept_assignStandins, kept_modTile]
  · rfl

theorem kept_moveProgs (site : Nat) : kept (moveProgs s site) = kept s := by
  refine foldl_view (fun p _ u => ?_) s
  unfold moveProg
  split <;> rfl

theorem kept_rebuildBegin (site : Nat) : kept (rebuildBegin s site) = kept s := by
  unfold rebuildBegin
  split <;> rfl

theorem kept_rebuildDropped (site : Nat) : kept (rebuildDropped s site) = kept s :=
  foldl_view (v := kept) (f := fun s (r : Rebuild) => wr s (remapReg (r.site / 25)) 0) (fun _ _ u => kept_wr u _ _) s

/-! ### The core -/

/-- The core that fails holds nothing more and its router only forwards (20 R464). -/
def coreDown (s : State) (site : Nat) : State :=
  let u := captureGone ((List.range 16).foldl (fun s t => tileOff s (tkey site t)) s) site
  let u := modCore u site (fun c => { c with
    failed := true, blocksIn := false, srcCache := [], sampled := [], srcPlace := [], blocks := [], lastUe := none, ueFatal := false
    grants := [], grantEnds := [], escal := [], back := [], fbOff := [], covers := [], coverEnds := [], standIn := none })
  incHold (wbit u (routerReg site 0) 1 true) (fltReg 0x18) 16 1

/-- Others take over what the core did, and its rebuild begins. -/
def coreReplaced (s : State) (site : Nat) (st : Option (Nat × Nat)) : State :=
  rebuildBegin (moveProgs (replaceStandin (assignStandins (rebuildDropped s site) site) st) site) site

theorem kept_coreDown (site : Nat) : kept (coreDown s site) = kept s := by
  have htiles : kept ((List.range 16).foldl (fun s t => tileOff s (tkey site t)) s) = kept s :=
    foldl_view (fun t _ u => kept_tileOff u (tkey site t)) s
  rw [coreDown, kept_incHold, kept_wbit, kept_modCore, kept_captureGone, htiles]

theorem kept_coreReplaced (site : Nat) (st : Option (Nat × Nat)) : kept (coreReplaced s site st) = kept s := by
  rw [coreReplaced, kept_rebuildBegin, kept_moveProgs, kept_replaceStandin, kept_assignStandins, kept_rebuildDropped]

/-- The fault record of a failed core (20 Table 20.1 cause 9). -/
def coreFault (s : State) (site : Nat) : FaultInfo :=
  { cls := 1, cause := 9, unit := site, inst := siteInst s site, secure := siteSecure (coreDown s site) site }

theorem coreFail_of_serving {s : State} {site : Nat} (h : ¬((coreAt s site).failed = true ∨ coreOff s site = true)) :
    coreFail s site = coreReplaced (faultRecord (coreDown s site) (coreFault s site)) site (coreAt s site).standIn := if_neg h

theorem stackMem_of_butFaults {s t : State} (h : butFaults t = butFaults s) : t.stackMem = s.stackMem := (congrArg State.stackMem h :)
theorem storeBad_of_butFaults {s t : State} (h : butFaults t = butFaults s) : t.storeBad = s.storeBad := (congrArg State.storeBad h :)

/-- What a failing core keeps of the whole state: stack memory and the bad words. -/
theorem stackMem_storeBad_coreFail (site : Nat) :
    (coreFail s site).stackMem = s.stackMem ∧ (coreFail s site).storeBad = s.storeBad := by
  by_cases h : (coreAt s site).failed = true ∨ coreOff s site = true
  · rw [coreFail, if_pos h]; exact ⟨rfl, rfl⟩
  · have hfault := faultRecord_butFaults (coreDown s site) (coreFault s site)
    have hlast := kept_coreReplaced (faultRecord (coreDown s site) (coreFault s site)) site (coreAt s site).standIn
    have hfirst := kept_coreDown s site
    rw [coreFail_of_serving h]
    exact ⟨(stackMem_of_kept hlast).trans ((stackMem_of_butFaults hfault).trans (stackMem_of_kept hfirst)),
      (storeBad_of_kept hlast).trans ((storeBad_of_butFaults hfault).trans (storeBad_of_kept hfirst))⟩

/-- Cores that are declared failed leave stack memory and the bad words. -/
theorem stackMem_storeBad_declared : (declared s).stackMem = s.stackMem ∧ (declared s).storeBad = s.storeBad := by
  have h := foldl_view (v := fun u : State => (u.stackMem, u.storeBad))
    (f := fun s (c : Nat × CoreSt) => if c.2.ueFatal then coreFail s c.1 else s) (l := s.cores) (fun c _ u => by
      split
      · exact Prod.ext (stackMem_storeBad_coreFail u c.1).1 (stackMem_storeBad_coreFail u c.1).2
      · rfl) s
  exact ⟨congrArg Prod.fst h, congrArg Prod.snd h⟩

end Sys2Proof.Machine
end

section
/-! SUPPORT. Words of a core's store with wrong bits (05 R126): what upsets, a check and a reload make of them. -/

namespace Sys2Proof.Machine

/-- The wrong bits of a word of a core's store: 1 a single bit, 2 more. -/
def wordBad (s : State) (site w : Nat) : Nat := mapGet 0 s.storeBad (site * 0x20000 + w)

theorem storeAddr_word (site w : Nat) : storeAddr site (8 * w) / 8 = site * 0x20000 + w := by unfold storeAddr; omega

theorem mapGet_word (s : State) (site w : Nat) : mapGet 0 s.storeBad (storeAddr site (8 * w) / 8) = wordBad s site w := by
  rw [storeAddr_word, wordBad]

theorem wordBad_of_storeBad {s t : State} (h : t.storeBad = s.storeBad) (site w : Nat) : wordBad t site w = wordBad s site w := by
  unfold wordBad; rw [h]

/-! ### Upsets -/

theorem addUpsets_view {β : Type} {v : State → β} (hv : ∀ (u : State) (b : SMap Nat), v { u with storeBad := b } = v u) (s : State)
    (site : Nat) (us : List (Nat × Nat)) : v (addUpsets s site us) = v s :=
  foldl_view (fun x _ u => by split; exacts [hv u _, rfl]) s

/-! ### The table's keys -/

theorem mem_map_fst_mapSet {α : Type} {m : SMap α} {i j : Nat} {v : α} (h : j ∈ (mapSet m i v).map Prod.fst) :
    j = i ∨ j ∈ m.map Prod.fst := by
  obtain ⟨p, hp, rfl⟩ := List.mem_map.mp h
  exact (mem_of_mem_mapSet hp).imp (congrArg Prod.fst) (List.mem_map_of_mem (f := Prod.fst))

theorem rising_mapSet {α : Type} {m : SMap α} (i : Nat) (v : α) (h : (m.map Prod.fst).Pairwise (· < ·)) :
    ((mapSet m i v).map Prod.fst).Pairwise (· < ·) := by
  induction m with
  | nil => simp [mapSet]
  | cons e m ih =>
    obtain ⟨k, w⟩ := e
    rw [List.map_cons, List.pairwise_cons] at h
    obtain ⟨hk, hm⟩ := h
    unfold mapSet
    split
    · rename_i hik
      exact List.pairwise_cons.mpr ⟨hik ▸ hk, hm⟩
    · split
      · rename_i hik
        refine List.pairwise_cons.mpr ⟨fun j hj => ?_, List.pairwise_cons.mpr ⟨hk, hm⟩⟩
        rcases List.mem_cons.mp hj with rfl | hj
        · exact hik
        · exact hik.trans (hk j hj)
      · rename_i hne hlt
        refine List.pairwise_cons.mpr ⟨fun j hj => ?_, ih hm⟩
        rcases mem_map_fst_mapSet hj with rfl | hj
        · exact lt_of_le_of_ne (not_lt.mp hlt) (Ne.symm hne)
        · exact hk j hj

theorem rising_addUpsets {s : State} (site : Nat) (us : List (Nat × Nat)) (h : (s.storeBad.map Prod.fst).Pairwise (· < ·)) :
    ((addUpsets s site us).storeBad.map Prod.fst).Pairwise (· < ·) := by
  unfold addUpsets
  refine List.foldlRecOn (motive := fun u : State => (u.storeBad.map Prod.fst).Pairwise (· < ·)) us _ h (fun u hu x _ => ?_)
  split
  · exact rising_mapSet _ _ hu
  · exact hu

theorem mapFind_isSome_iff {α : Type} {m : SMap α} {i : Nat} : (mapFind m i).isSome = true ↔ i ∈ m.map Prod.fst := by
  induction m with
  | nil => simp [mapFind]
  | cons e m ih =>
    unfold mapFind
    split
    · rename_i h; simp [h]
    · rename_i h; simp [ih, h]

/-! ### Bad words -/

/-- Every word with wrong bits is found. -/
theorem mem_badWords_of_wordBad {s : State} {site w : Nat} (hw : w < 0x20000) (h : wordBad s site w ≠ 0) : w ∈ badWords s site := by
  have hkey : site * 0x20000 + w ∈ s.storeBad.map Prod.fst := by
    rw [← mapFind_isSome_iff, Option.isSome_iff_ne_none]
    intro hnone
    exact h (by rw [wordBad, mapGet, hnone]; rfl)
  refine List.mem_filterMap.mpr ⟨_, hkey, ?_⟩
  rw [if_pos (by omega)]
  exact congrArg some (by omega)

theorem mem_badWords {s : State} {site w : Nat} (h : w ∈ badWords s site) :
    w < 0x20000 ∧ site * 0x20000 + w ∈ s.storeBad.map Prod.fst := by
  obtain ⟨k, hk, hw⟩ := List.mem_filterMap.mp h
  split at hw
  · rename_i hsite
    cases hw
    refine ⟨by omega, ?_⟩
    rwa [show site * 0x20000 + (k - site * 0x20000) = k by omega]
  · cases hw

theorem nodup_badWords {s : State} (site : Nat) (h : (s.storeBad.map Prod.fst).Pairwise (· < ·)) : (badWords s site).Nodup := by
  refine List.Nodup.filterMap (fun a b w ha hb => ?_) (h.imp ne_of_lt)
  simp only [Option.mem_def, Option.ite_none_right_eq_some, Option.some.injEq] at ha hb
  omega

/-! ### Ranges that are good again -/

theorem mapFind_filter_key {α : Type} (m : SMap α) (p : Nat → Bool) (i : Nat) :
    mapFind (m.filter (fun e => p e.1)) i = if p i = true then mapFind m i else none := by
  induction m with
  | nil => simp [mapFind]
  | cons e m ih =>
    obtain ⟨k, v⟩ := e
    by_cases hk : p k = true
    · rw [List.filter_cons_of_pos (by exact hk)]
      by_cases hik : i = k
      · subst hik; simp [mapFind, hk]
      · simp [mapFind, hik, ih]
    · rw [List.filter_cons_of_neg (by exact hk), ih]
      by_cases hik : i = k
      · subst hik; simp [hk]
      · simp [mapFind, hik]

/-- A range that is loaded: its words are good, the others as they were. -/
theorem wordBad_storeLoaded (s : State) (site a n w : Nat) : wordBad (storeLoaded s site a n) site w =
    if 8 * w < a ∨ a + n ≤ 8 * w then wordBad s site w else 0 := by
  have hkey : wordBad (storeLoaded s site a n) site w = (if (decide (8 * (site * 0x20000 + w) < storeAddr site a) ||
      decide (storeAddr site a + n ≤ 8 * (site * 0x20000 + w))) = true then mapFind s.storeBad (site * 0x20000 + w) else none).getD 0 :=
    congrArg (·.getD 0) (mapFind_filter_key s.storeBad
      (fun k => decide (8 * k < storeAddr site a) || decide (storeAddr site a + n ≤ 8 * k)) _)
  have hrange : (8 * (site * 0x20000 + w) < storeAddr site a ∨ storeAddr site a + n ≤ 8 * (site * 0x20000 + w)) ↔
      8 * w < a ∨ a + n ≤ 8 * w := by unfold storeAddr; omega
  rw [hkey]
  simp only [Bool.or_eq_true, decide_eq_true_eq, hrange]
  split <;> rfl

/-! ### A word is checked -/

/-- What is wrong with word `w` once the bits `b` were corrected, or the firmware has loaded the word again. -/
def corrected (w b : Nat) : Nat := if b = 1 ∨ storeReloaded (8 * w) = true then 0 else b

theorem corrected_zero (w : Nat) : corrected w 0 = 0 := ite_self 0

theorem corrected_corrected (w b : Nat) : corrected w (corrected w b) = corrected w b := by
  by_cases h : b = 1 ∨ storeReloaded (8 * w) = true
  · have hb : corrected w b = 0 := if_pos h
    rw [hb, corrected_zero]
  · have hb : corrected w b = b := if_neg h
    rw [hb, hb]

theorem corrected_of_reloaded {w : Nat} (h : storeReloaded (8 * w) = true) (b : Nat) : corrected w b = 0 := if_pos (.inr h)

/-- The check of one word. -/
def checkWord (site : Nat) (who : Option Nat) (s : State) (w : Nat) : State :=
  if wordBad s site w = 0 then s else if wordBad s site w = 1 then storeCe s site w else storeUe s site who w

theorem storeCheck_eq_foldl (site : Nat) (who : Option Nat) (ws : List Nat) (s : State) :
    storeCheck site who ws s = ws.foldl (checkWord site who) s := by
  induction ws generalizing s with
  | nil => rfl
  | cons w ws ih =>
    rw [storeCheck, List.foldl_cons, ← ih, mapGet_word]
    rfl

/-- The counter and the address of a double-bit error. -/
def ueCounted (s : State) (site w : Nat) : State :=
  wr (incHold s (engReg site 0x34) 16 1) (engReg site 0x38) (BitVec.ofNat 32 (0x80000000 + w))

/-- Its fault record (20 Table 20.1 cause 6). -/
def ueFault (s : State) (site : Nat) (who : Option Nat) (w : Nat) : FaultInfo :=
  { cls := 2, cause := 6, unit := site, inst := who.elim 0xFFFF (instNumber s), step := who.elim 0 (passStepOf s)
    secure := siteSecure s site, detail := BitVec.ofNat 64 w }

/-- It is counted and recorded, and noted on the core. -/
def ueNoted (s : State) (site : Nat) (who : Option Nat) (w : Nat) : State :=
  ueSeen (faultRecord (ueCounted s site w) (ueFault (ueCounted s site w) site who w)) site

theorem storeUe_eq (s : State) (site : Nat) (who : Option Nat) (w : Nat) :
    storeUe s site who w = storeReload (ueNoted s site who w) site (8 * w) := rfl

theorem kept_ueCounted (s : State) (site w : Nat) : kept (ueCounted s site w) = kept s := by
  rw [ueCounted, kept_wr, kept_incHold]

theorem ueNoted_storeBad (s : State) (site : Nat) (who : Option Nat) (w : Nat) : (ueNoted s site who w).storeBad = s.storeBad := by
  rw [ueNoted, ueSeen, modCore_storeBad, storeBad_of_butFaults (faultRecord_butFaults _ _), storeBad_of_kept (kept_ueCounted s site w)]

theorem ueNoted_stackMem (s : State) (site : Nat) (who : Option Nat) (w : Nat) : (ueNoted s site who w).stackMem = s.stackMem := by
  rw [ueNoted, ueSeen, modCore_stackMem, stackMem_of_butFaults (faultRecord_butFaults _ _), stackMem_of_kept (kept_ueCounted s site w)]

theorem storeReload_stackMem (s : State) (site a : Nat) : (storeReload s site a).stackMem = s.stackMem := by
  unfold storeReload
  split
  · rfl
  · split <;> rfl

/-- A reload makes good the word it is made for and its block or row, which lie among what the firmware loads. -/
theorem wordBad_storeReload (s : State) (site w x : Nat) :
    (wordBad (storeReload s site (8 * w)) site x = wordBad s site x ∨
      wordBad (storeReload s site (8 * w)) site x = corrected x (wordBad s site x)) ∧
    (storeReloaded (8 * w) = true → wordBad (storeReload s site (8 * w)) site w = 0) := by
  have hloaded : ∀ (u : State) (a n : Nat), u.storeBad = s.storeBad → rowRegion ≤ a → a + n ≤ deltaRegion →
      a ≤ 8 * w → 8 * w < a + n →
      (wordBad (storeLoaded u site a n) site x = wordBad s site x ∨
        wordBad (storeLoaded u site a n) site x = corrected x (wordBad s site x)) ∧ wordBad (storeLoaded u site a n) site w = 0 := by
    intro u a n hu hlo hhi hw hw'
    rw [wordBad_storeLoaded, wordBad_storeLoaded, wordBad_of_storeBad hu, if_neg (c := 8 * w < a ∨ _) (by omega)]
    refine ⟨?_, rfl⟩
    split
    · exact .inl rfl
    · rename_i hx
      have hre : storeReloaded (8 * x) = true := by
        rw [storeReloaded, Bool.and_eq_true, decide_eq_true_eq, decide_eq_true_eq]
        simp only [rowRegion, deltaRegion] at hlo hhi ⊢
        omega
      exact .inr (corrected_of_reloaded hre _).symm
  unfold storeReload
  simp only [rowRegion, slotRegion, deltaRegion] at hloaded ⊢
  split
  · rename_i hout
    refine ⟨.inl rfl, fun h => ?_⟩
    rw [storeReloaded, Bool.and_eq_true, decide_eq_true_eq, decide_eq_true_eq] at h
    simp only [rowRegion, deltaRegion] at h
    omega
  · rename_i hin
    split
    · exact (hloaded _ _ _ rfl (by omega) (by omega) (by omega) (by omega)).imp_right fun h _ => h
    · exact (hloaded _ _ _ rfl (by omega) (by omega) (by omega) (by omega)).imp_right fun h _ => h

/-- A check leaves each word as it is or corrected, and corrects its own. -/
theorem wordBad_checkWord (s : State) (site : Nat) (who : Option Nat) (w x : Nat) :
    (wordBad (checkWord site who s w) site x = wordBad s site x ∨
      wordBad (checkWord site who s w) site x = corrected x (wordBad s site x)) ∧
    wordBad (checkWord site who s w) site w = corrected w (wordBad s site w) := by
  unfold checkWord
  split
  · rename_i h
    exact ⟨.inl rfl, by rw [h, corrected_zero]⟩
  · split
    · rename_i h
      have hself : wordBad (storeCe s site w) site w = corrected w (wordBad s site w) := by
        have hdel : wordBad (storeCe s site w) site w = mapGet 0 (mapDel s.storeBad (storeAddr site (8 * w) / 8)) (site * 0x20000 + w) := rfl
        rw [hdel, storeAddr_word, mapGet_mapDel_same, h]
        exact (if_pos (.inl rfl)).symm
      refine ⟨?_, hself⟩
      by_cases hx : x = w
      · subst hx; exact .inr hself
      · refine .inl (mapGet_mapDel_ne 0 _ ?_)
        rw [storeAddr_word]; omega
    · rename_i h0 h1
      rw [storeUe_eq]
      obtain ⟨hx, hw⟩ := wordBad_storeReload (ueNoted s site who w) site w x
      rw [wordBad_of_storeBad (ueNoted_storeBad s site who w)] at hx
      refine ⟨hx, ?_⟩
      by_cases hre : storeReloaded (8 * w) = true
      · rw [hw hre, corrected_of_reloaded hre]
      · obtain ⟨hww, -⟩ := wordBad_storeReload (ueNoted s site who w) site w w
        rw [wordBad_of_storeBad (ueNoted_storeBad s site who w)] at hww
        have hid : corrected w (wordBad s site w) = wordBad s site w := if_neg (by simp [h1, hre])
        rw [hid, or_self] at hww
        rw [hww, hid]

/-- Words that are checked are corrected; the others are, or stay as they are. -/
theorem wordBad_storeCheck (site : Nat) (who : Option Nat) (ws : List Nat) (x : Nat) (s : State) :
    (wordBad (storeCheck site who ws s) site x = wordBad s site x ∨
      wordBad (storeCheck site who ws s) site x = corrected x (wordBad s site x)) ∧
    (x ∈ ws → wordBad (storeCheck site who ws s) site x = corrected x (wordBad s site x)) := by
  rw [storeCheck_eq_foldl]
  induction ws generalizing s with
  | nil => exact ⟨.inl rfl, fun h => by simp at h⟩
  | cons w ws ih =>
    obtain ⟨hany, hmem⟩ := ih (checkWord site who s w)
    obtain ⟨hx, hw⟩ := wordBad_checkWord s site who w x
    rw [List.foldl_cons]
    have hdone : wordBad (checkWord site who s w) site x = corrected x (wordBad s site x) →
        wordBad (ws.foldl (checkWord site who) (checkWord site who s w)) site x = corrected x (wordBad s site x) := by
      intro h
      rcases hany with h' | h'
      · rw [h', h]
      · rw [h', h, corrected_corrected]
    refine ⟨?_, fun h => ?_⟩
    · rcases hx with h | h
      · rwa [h] at hany
      · exact .inr (hdone h)
    · rcases List.mem_cons.mp h with rfl | h
      · exact hdone hw
      · rcases hx with h' | h'
        · rw [hmem h, h']
        · exact hdone h'

theorem storeCe_stackMem (s : State) (site w : Nat) : (storeCe s site w).stackMem = s.stackMem := by
  rw [storeCe, incHold_stackMem]

theorem stackMem_storeCheck (site : Nat) (who : Option Nat) (ws : List Nat) (s : State) :
    (storeCheck site who ws s).stackMem = s.stackMem := by
  rw [storeCheck_eq_foldl]
  refine foldl_view (v := State.stackMem) (fun w _ u => ?_) s
  unfold checkWord
  split
  · rfl
  · split
    · exact storeCe_stackMem u site w
    · rw [storeUe_eq, storeReload_stackMem, ueNoted_stackMem]

end Sys2Proof.Machine
end

section
/-! PROOF. O52: rounds are counted, and a sweep corrects what it can. -/

namespace Sys2Proof.Machine

/-! ### Single bits (05 R126) -/

/-- Blanks the words of the control window and the table of bad words. -/
def butScrub (s : State) : State := { s.butWords with storeBad := [] }

/-- Words without double-bit errors. -/
def SingleBits (s : State) (site : Nat) (ws : List Nat) : Prop := ∀ w ∈ ws, wordBad s site w < 2

theorem checkWord_of_single {s : State} {site w : Nat} (who : Option Nat) (h : wordBad s site w < 2) :
    checkWord site who s w = if wordBad s site w = 1 then storeCe s site w else s := by
  unfold checkWord
  split
  · rename_i h0; rw [if_neg (by omega)]
  · rw [if_pos (by omega), if_pos (by omega)]

/-- A sweep of words without double-bit errors changes words and counters alone, and counts each single bit. -/
structure Scrubbed (s t : State) (site n : Nat) : Prop where
  rest  : butScrub t = butScrub s
  words : SameWords [engReg site 0x30] s t
  count : rd t (engReg site 0x30) = BitVec.ofNat 32 (Nat.min ((rd s (engReg site 0x30)).toNat + n) 0xFFFF)

theorem Scrubbed.refl {s : State} {site : Nat} (h : (rd s (engReg site 0x30)).toNat ≤ 0xFFFF) : Scrubbed s s site 0 := by
  refine ⟨rfl, fun _ _ => rfl, ?_⟩
  rw [Nat.add_zero, show Nat.min _ 0xFFFF = _ from Nat.min_eq_left h, BitVec.ofNat_toNat, BitVec.setWidth_eq]

theorem Scrubbed.trans {s t u : State} {site m n : Nat} (h : Scrubbed s t site m) (h' : Scrubbed t u site n) :
    Scrubbed s u site (m + n) := by
  refine ⟨h'.rest.trans h.rest, fun p hp => (h'.words p hp).trans (h.words p hp), ?_⟩
  rw [h'.count, h.count, BitVec.toNat_ofNat]
  congr 1
  change min ((min _ _) % _ + n) _ = min _ _
  omega

theorem butScrub_incHold (s : State) (o n b : Nat) : butScrub (incHold s o n b) = butScrub s := rfl

theorem scrubbed_storeCe (s : State) (site w : Nat) : Scrubbed s (storeCe s site w) site 1 := by
  refine ⟨?rest, fun p hp => ?words, ?count⟩
  case rest =>
    rw [storeCe, butScrub_incHold]
    rfl
  case words =>
    rw [storeCe, rd_incHold_ne _ _ _ (List.ne_of_not_mem_cons hp)]
    rfl
  case count =>
    rw [storeCe, rd_incHold_same]
    rfl

theorem Scrubbed.counter_le {s t : State} {site n : Nat} (h : Scrubbed s t site n) : (rd t (engReg site 0x30)).toNat ≤ 0xFFFF := by
  rw [h.count, BitVec.toNat_ofNat]
  change min _ _ % _ ≤ _
  omega

theorem wordBad_storeCe_ne (s : State) (site : Nat) {w x : Nat} (h : x ≠ w) : wordBad (storeCe s site w) site x = wordBad s site x := by
  refine mapGet_mapDel_ne 0 _ ?_
  rw [storeAddr_word]; omega

theorem scrubbed_storeCheck {site : Nat} (who : Option Nat) {ws : List Nat} {s : State} (hnd : ws.Nodup) (hone : SingleBits s site ws)
    (hcount : (rd s (engReg site 0x30)).toNat ≤ 0xFFFF) :
    Scrubbed s (storeCheck site who ws s) site (ws.filter (fun w => wordBad s site w == 1)).length := by
  rw [storeCheck_eq_foldl]
  induction ws generalizing s with
  | nil => exact .refl hcount
  | cons w ws ih =>
    obtain ⟨hw, hnd⟩ := List.nodup_cons.mp hnd
    have hfirst := hone w List.mem_cons_self
    have hrest : ∀ x ∈ ws, wordBad s site x < 2 := fun x hx => hone x (List.mem_cons_of_mem w hx)
    rw [List.foldl_cons, checkWord_of_single who hfirst]
    split
    · rename_i hbit
      have hsame : ∀ x ∈ ws, wordBad (storeCe s site w) site x = wordBad s site x := fun x hx =>
        wordBad_storeCe_ne s site (fun e => hw (e ▸ hx))
      have hce := scrubbed_storeCe s site w
      have h := hce.trans (ih hnd (fun x hx => by rw [hsame x hx]; exact hrest x hx) hce.counter_le)
      rw [List.filter_congr (fun x hx => by rw [hsame x hx])] at h
      rw [List.filter_cons_of_pos (by simpa using hbit), List.length_cons, Nat.add_comm]
      exact h
    · rename_i hbit
      rw [List.filter_cons_of_neg (by simpa using hbit)]
      exact ih hnd hrest hcount

/-- The single bits among the bad words are those of the store. -/
theorem length_single_badWords {s : State} (site : Nat) (h : (s.storeBad.map Prod.fst).Pairwise (· < ·)) :
    ((badWords s site).filter (fun w => wordBad s site w == 1)).length =
      ((List.range 0x20000).filter (fun w => wordBad s site w == 1)).length := by
  refine ((List.perm_ext_iff_of_nodup ((nodup_badWords site h).filter _) (List.nodup_range.filter _)).mpr fun w => ?_).length_eq
  simp only [List.mem_filter, List.mem_range, beq_iff_eq]
  exact ⟨fun ⟨hw, hbit⟩ => ⟨(mem_badWords hw).1, hbit⟩, fun ⟨hw, hbit⟩ => ⟨mem_badWords_of_wordBad hw (by omega), hbit⟩⟩

/-! ### The sweep -/

section Sweep

variable {s : State} {site : Nat} (us : List (Nat × Nat))

theorem execCoreStoreScrub_eq (h : site < 800) :
    exec (.coreStoreScrub site us) s = .next (declared (scrubSweep (addUpsets s site us) site)) :=
  onUnit_of_true (decide_eq_true h) _

theorem cw_addUpsets : (addUpsets s site us).cw = s.cw :=
  addUpsets_view (v := State.cw) (fun _ _ => rfl) s site us
theorem cores_addUpsets : (addUpsets s site us).cores = s.cores :=
  addUpsets_view (v := State.cores) (fun _ _ => rfl) s site us

theorem butScrub_addUpsets : butScrub (addUpsets s site us) = butScrub s :=
  addUpsets_view (v := butScrub) (fun _ _ => rfl) s site us

theorem coreAway_addUpsets (c : Nat) : coreAway (addUpsets s site us) c = coreAway s c := by
  rw [coreAway, coreAt, cores_addUpsets]; rfl

theorem scrubSweep_addUpsets : scrubSweep (addUpsets s site us) site =
    if rdF s (engReg site 0x3C) 7 0 = 0 ∨ coreAway s site = true then addUpsets s site us
    else storeCheck site none (badWords (addUpsets s site us) site) (addUpsets s site us) := by
  rw [scrubSweep, rdF_of_cw (cw_addUpsets us), coreAway_addUpsets]

theorem scrubSweep_of_on (hperiod : rdF s (engReg site 0x3C) 7 0 ≠ 0) (haway : coreAway s site = false) :
    scrubSweep (addUpsets s site us) site = storeCheck site none (badWords (addUpsets s site us) site) (addUpsets s site us) := by
  rw [scrubSweep_addUpsets, if_neg (by simp [hperiod, haway])]

theorem scrubSweep_of_off (h : rdF s (engReg site 0x3C) 7 0 = 0 ∨ coreAway s site = true) :
    scrubSweep (addUpsets s site us) site = addUpsets s site us := by
  rw [scrubSweep_addUpsets, if_pos h]

end Sweep

/-- A sweep corrects every word of a core's store, or has it loaded again, where it can. -/
theorem wordBad_sweep (s : State) (site : Nat) (who : Option Nat) {w : Nat} (hw : w < 0x20000) :
    wordBad (storeCheck site who (badWords s site) s) site w = corrected w (wordBad s site w) := by
  obtain ⟨hany, hmem⟩ := wordBad_storeCheck site who (badWords s site) w s
  by_cases hbad : wordBad s site w = 0
  · rwa [hbad, corrected_zero, or_self, ← corrected_zero w, ← hbad] at hany
  · exact hmem (mem_badWords_of_wordBad hw hbad)

/-- Settles O52: a round is one count; a sweep checks every bad word, which corrects the single bits and has the firmware load the
slot blocks and cached rows again. -/
theorem roundsAndScrubbing : Obligations.RoundsAndScrubbing := by
  refine ⟨?counted, ?failed, ?single, ?swept, ?stopped⟩
  case counted =>
    intro s site hsite hup
    refine ⟨incWrap s (engReg site 0x28) 1, ?_, rd_incWrap_same .., fun p hp => rd_incWrap_ne s 1 (List.ne_of_not_mem_cons hp), rfl⟩
    exact (onUnit_of_true (decide_eq_true hsite) _).trans (by rw [if_neg (by simp [hup])])
  case failed =>
    intro s site hsite hdown
    exact (onUnit_of_true (decide_eq_true hsite) _).trans (by rw [if_pos hdown])
  case single =>
    intro s site us hsite hperiod haway hcores hone hcount hrising
    have hcw := cw_addUpsets (s := s) (site := site) us
    have hbits : ∀ w, wordBad (addUpsets s site us) site w = mapGet 0 (addUpsets s site us).storeBad (site * 0x20000 + w) := fun _ => rfl
    have hrising' := rising_addUpsets site us hrising
    have hscrub := scrubbed_storeCheck none (nodup_badWords site hrising')
      (fun w hw => hone w (mem_badWords hw).1) (by rwa [rd_of_cw hcw])
    rw [length_single_badWords site hrising'] at hscrub
    have hcalm : NoCoreFails (storeCheck site none (badWords (addUpsets s site us) site) (addUpsets s site us)) :=
      NoCoreFails.of_cores hcores ((congrArg State.cores hscrub.rest).trans (cores_addUpsets us))
    have hzero : ∀ w, w < 0x20000 →
        wordBad (storeCheck site none (badWords (addUpsets s site us) site) (addUpsets s site us)) site w = 0 := by
      intro w hw
      rw [wordBad_sweep _ _ _ hw, corrected]
      have := hone w hw
      rw [hbits]
      split <;> omega
    refine ⟨_, execCoreStoreScrub_eq us hsite, ?_⟩
    rw [scrubSweep_of_on us hperiod haway, declared_of_noCoreFails hcalm]
    generalize storeCheck site none (badWords (addUpsets s site us) site) (addUpsets s site us) = t at hscrub hzero
    have hrest : butScrub t = butScrub s := hscrub.rest.trans (butScrub_addUpsets us)
    refine ⟨(congrArg State.store hrest :), hzero, ?_, fun p hp => ?_, (congrArg State.stackMem hrest :),
      (congrArg State.tiles hrest :), (congrArg State.insts hrest :), (congrArg State.faults hrest :)⟩
    · rw [hscrub.count, rd_of_cw hcw]; rfl
    · rw [hscrub.words p hp, rd_of_cw hcw]
  case swept =>
    intro s site us hsite hperiod haway
    obtain ⟨hmem, hbad⟩ := stackMem_storeBad_declared (scrubSweep (addUpsets s site us) site)
    refine ⟨_, execCoreStoreScrub_eq us hsite, hmem.trans ?_, fun w hw => ?_⟩
    · rw [scrubSweep_of_on us hperiod haway, stackMem_storeCheck]
      exact addUpsets_view (v := State.stackMem) (fun _ _ => rfl) s site us
    · rw [hbad, scrubSweep_of_on us hperiod haway]
      exact wordBad_sweep _ _ none hw
  case stopped =>
    intro s site us hsite hoff hcores
    have hcalm : NoCoreFails (addUpsets s site us) := NoCoreFails.of_cores hcores (cores_addUpsets us)
    rw [execCoreStoreScrub_eq us hsite, scrubSweep_of_off us hoff, declared_of_noCoreFails hcalm]

end Sys2Proof.Machine
end

section
/-! SUPPORT. What the engine's items make of the tiles of a chain: every member is changed alike, and sums go into the head's wide
accumulators while the item's clocks are counted. -/

namespace Sys2Proof.Machine

/-! ### Every member of a chain -/

/-- The tiles of members of a site are changed alike. -/
def eachTile (site : Nat) (f : TileSt → TileSt) (ms : List Nat) (s : State) : State :=
  ms.foldl (fun s n => modTile s (tkey site n) f) s

section EachTile

variable (site : Nat) (f : TileSt → TileSt) {ms : List Nat} (s : State)

theorem butWordsTiles_eachTile : butWordsTiles (eachTile site f ms s) = butWordsTiles s :=
  foldl_view (fun n _ u => butWordsTiles_modTile u (tkey site n) f) s

theorem eachTile_cw : (eachTile site f ms s).cw = s.cw :=
  foldl_view (v := State.cw) (fun n _ u => modTile_cw u (tkey site n) f) s

theorem tileAt_eachTile_of_notMem {j : Nat} (h : ∀ n ∈ ms, j ≠ tkey site n) : tileAt (eachTile site f ms s) j = tileAt s j :=
  foldl_view (v := (tileAt · j)) (fun n hn u => tileAt_modTile_ne u f (h n hn)) s

theorem tileAt_eachTile_of_mem (hnd : ms.Nodup) {n : Nat} (h : n ∈ ms) :
    tileAt (eachTile site f ms s) (tkey site n) = f (tileAt s (tkey site n)) := by
  obtain ⟨u, hu, hlast⟩ := foldl_view_at (v := (tileAt · (tkey site n))) (f := fun s n => modTile s (tkey site n) f) hnd h
    (fun m _ hne u => tileAt_modTile_ne u f (fun e => hne (tkey_inj.mp e).symm)) s
  exact hlast.trans ((tileAt_modTile_same u f).trans (congrArg f hu))

end EachTile

/-! ### Clocks are counted and sums are added -/

/-- The clocks of an item are counted, and a sum goes into the head's accumulators. -/
def busyAdded (s : State) (site head cls clocks : Nat) (f : Nat → Int) : State :=
  wideAddCount (engBusy s site cls clocks) site head f

section BusyAdded

variable (s : State) (site head cls clocks : Nat) (f : Nat → Int)

theorem butWork_busyAdded : butWork (busyAdded s site head cls clocks f) = butWork s :=
  (butWork_of_butWordsTiles (butWordsTiles_wideAddCount ..)).trans (butWork_of_butWordsCores (butWordsCores_engBusy ..))

theorem tileAt_busyAdded_head : tileAt (busyAdded s site head cls clocks f) (tkey site head) = (wideAdd (tileAt s (tkey site head)) f).1 := by
  rw [busyAdded, tileAt_wideAddCount_head, tileAt_of_tiles (engBusy_tiles ..)]

theorem tileAt_busyAdded_ne {j : Nat} (h : j ≠ tkey site head) : tileAt (busyAdded s site head cls clocks f) j = tileAt s j :=
  (tileAt_wideAddCount_ne _ site head _ h).trans (tileAt_of_tiles (engBusy_tiles ..) j)

theorem rd_busyAdded_ne {p : Nat} (hsat : p ≠ tileReg (physTile s (tkey site head)) 0x44)
    (hbusy : p ≠ engReg site (0x10 + 4 * (cls - 1))) : rd (busyAdded s site head cls clocks f) p = rd s p := by
  have hphys := physTile_of_tiles (engBusy_tiles s site cls clocks) (tkey site head)
  rw [busyAdded, rd_wideAddCount_ne _ site head _ (by rw [hphys]; exact hsat), rd_engBusy_ne s site cls clocks hbusy]

theorem noCoreFails_busyAdded {s : State} (h : NoCoreFails s) : NoCoreFails (busyAdded s site head cls clocks f) :=
  (NoCoreFails.engBusy site cls clocks h).of_cores
    (cores_of_butWordsTiles (butWordsTiles_wideAddCount (engBusy s site cls clocks) site head f))

end BusyAdded

end Sys2Proof.Machine
end

section
/-! SUPPORT. SHADOW_ROW_ARRIVAL (05 R129). -/

namespace Sys2Proof.Machine

variable (s : State) (site slot row : Nat)

theorem execShadowRowArrival_eq {site slot : Nat} (h : tileWf site slot = true) :
    exec (.shadowRowArrival site slot row) s = .next (shadowRow s site slot row) := onUnit_of_true h _

/-- A row is waited for no longer. -/
def rowCome (row : Nat) (x : TileSt) : TileSt := { x with work := { x.work with rowsDue := x.work.rowsDue.filter (fun r => r != row) } }

theorem shadowRow_of_due {s : State} {site slot row : Nat} (h : row ∈ (workOf s (tkey site slot)).rowsDue) :
    shadowRow s site slot row =
      if rdF s (engReg site 0) 2 2 = 1 then cacheRowIn (modTile s (tkey site slot) (rowCome row)) site slot row
      else modTile s (tkey site slot) (rowCome row) := by
  have hrd := rdF_of_cw (modTile_cw s (tkey site slot) (rowCome row)) (engReg site 0) 2 2
  rw [← hrd]
  exact if_pos (List.contains_iff_mem.mpr h)

theorem shadowRow_of_notDue {s : State} {site slot row : Nat} (h : row ∉ (workOf s (tkey site slot)).rowsDue) :
    shadowRow s site slot row = s := if_neg (fun hc => h (List.contains_iff_mem.mp hc))

/-- Blanks the tiles, the cores and their stores. -/
def butRows (s : State) : State := { s with tiles := [], cores := [], store := [], storeBad := [] }

theorem eq_withRows {s t : State} (h : butRows t = butRows s) :
    t = { s with tiles := t.tiles, cores := t.cores, store := t.store, storeBad := t.storeBad } :=
  congrArg (fun u : State => { u with tiles := t.tiles, cores := t.cores, store := t.store, storeBad := t.storeBad }) h

theorem butRows_modTile (k : Nat) (f : TileSt → TileSt) : butRows (modTile s k f) = butRows s := rfl
theorem butRows_modCore (k : Nat) (f : CoreSt → CoreSt) : butRows (modCore s k f) = butRows s := rfl
theorem butRows_storeLoaded (a n : Nat) : butRows (storeLoaded s site a n) = butRows s := rfl
theorem storeLoaded_tiles (a n : Nat) : (storeLoaded s site a n).tiles = s.tiles := rfl

theorem butRows_cacheRowIn : butRows (cacheRowIn s site slot row) = butRows s := by
  rw [cacheRowIn, butRows_modCore, butRows_storeLoaded]

theorem cacheRowIn_tiles : (cacheRowIn s site slot row).tiles = s.tiles := by
  rw [cacheRowIn, modCore_tiles, storeLoaded_tiles]

theorem srcCache_cacheRowIn : (coreAt (cacheRowIn s site slot row) site).srcCache = cacheInsert (coreAt s site).srcCache (slot, row) := by
  rw [cacheRowIn, coreAt_modCore_same]

theorem head_cacheInsert (l : List (Nat × Nat)) (x : Nat × Nat) : (cacheInsert l x).head? = some x := rfl

theorem length_cacheInsert_le (l : List (Nat × Nat)) (x : Nat × Nat) : (cacheInsert l x).length ≤ 512 := List.length_take_le ..

/-! ### A row that is waited for -/

variable {s : State} {site slot row : Nat} (hdue : row ∈ (workOf s (tkey site slot)).rowsDue)
include hdue

theorem shadowRow_tiles : (shadowRow s site slot row).tiles = (modTile s (tkey site slot) (rowCome row)).tiles := by
  rw [shadowRow_of_due hdue]
  split
  · exact cacheRowIn_tiles ..
  · rfl

theorem butRows_shadowRow : butRows (shadowRow s site slot row) = butRows s := by
  rw [shadowRow_of_due hdue]
  split
  · rw [butRows_cacheRowIn, butRows_modTile]
  · exact butRows_modTile ..

theorem workOf_shadowRow : workOf (shadowRow s site slot row) (tkey site slot) =
    { workOf s (tkey site slot) with rowsDue := (workOf s (tkey site slot)).rowsDue.filter (fun r => r != row) } := by
  rw [workOf, tileAt_of_tiles (shadowRow_tiles hdue), tileAt_modTile_same]
  rfl

theorem tileAt_shadowRow_ne {k : Nat} (hk : k ≠ tkey site slot) : tileAt (shadowRow s site slot row) k = tileAt s k := by
  rw [tileAt_of_tiles (shadowRow_tiles hdue), tileAt_modTile_ne _ _ hk]

/-- With the cache on the row is the most recent there. -/
theorem srcCache_shadowRow (hon : rdF s (engReg site 0) 2 2 = 1) :
    (coreAt (shadowRow s site slot row) site).srcCache.head? = some (slot, row) ∧
      (coreAt (shadowRow s site slot row) site).srcCache.length ≤ 512 := by
  rw [shadowRow_of_due hdue, if_pos hon, srcCache_cacheRowIn]
  exact ⟨head_cacheInsert _ _, length_cacheInsert_le _ _⟩

theorem stores_shadowRow (hoff : rdF s (engReg site 0) 2 2 ≠ 1) : (shadowRow s site slot row).cores = s.cores ∧
    (shadowRow s site slot row).store = s.store ∧ (shadowRow s site slot row).storeBad = s.storeBad := by
  rw [shadowRow_of_due hdue, if_neg hoff]
  exact ⟨modTile_cores .., modTile_store .., modTile_storeBad ..⟩

end Sys2Proof.Machine
end

section
/-! SUPPORT. FALLBACK_PASS (04 R102). -/

namespace Sys2Proof.Machine

/-- What a fall-back pass adds to a column. -/
def fallbackSum (s : State) (site head c : Nat) : Int :=
  2 ^ (workOf s (tkey site head)).s8 * ((chainMembers s site head).map (fun n =>
    digitalSum (tileAt s (tkey site n)) (workOf s (tkey site n)).x8 c)).sum

/-- The pass's clocks and its sums. -/
def fallbackAdded (s : State) (site head : Nat) : State :=
  busyAdded s site head 3 (128 * (chainMembers s site head).length) (fallbackSum s site head)

/-- The pass once it is counted in `FB_PASSES` and promoted. -/
def fallbackDone (s : State) (site head : Nat) : State :=
  markPromoted (incWrap (fallbackAdded s site head) (sfbSlotReg site head 0x18) (chainMembers s site head).length) site head

theorem execFallbackPass_eq {site head : Nat} (hs : site < 800) (hh : head < 16) (s : State) :
    exec (.fallbackPass site head) s = .next (declared (fallbackRun s site head)) :=
  onUnit_of_true (by simp [hs, hh]) _

theorem fallbackRun_of_ready {s : State} {site head : Nat} {o : Owner} (ho : sliceOwner s site head = some o)
    (hr : fallbackReady s site head = true) (hs : StoreSound s site) : fallbackRun s site head = fallbackDone s site head := by
  have htiles := engBusy_tiles s site 3 (128 * (chainMembers s site head).length)
  rw [fallbackRun, ho]
  dsimp only
  rw [if_pos hr, sliceItem_of_storeSound (storeSound_engBusy site 3 _ hs)]
  simp only [workOf, tileAt_of_tiles htiles]
  rfl

variable (s : State) {site head : Nat}

theorem butWork_fallbackDone : butWork (fallbackDone s site head) = butWork s :=
  (butWork_of_butWordsTiles ((butWordsTiles_markPromoted _ site head).trans (butWordsTiles_wr ..))).trans (butWork_busyAdded ..)

theorem noCoreFails_fallbackDone {s : State} (h : NoCoreFails s) : NoCoreFails (fallbackDone s site head) :=
  (noCoreFails_busyAdded site head 3 _ _ h).of_cores
    (cores_of_butWordsTiles ((butWordsTiles_markPromoted _ site head).trans (butWordsTiles_wr ..)))

theorem wideAt_fallbackDone {c : Nat} (hc : c < 512) : wideAt (tileAt (fallbackDone s site head) (tkey site head)) c =
    sat32 (wideAt (tileAt s (tkey site head)) c + fallbackSum s site head c) := by
  rw [fallbackDone, wideAt_markPromoted_head, tileAt_of_tiles (incWrap_tiles ..), fallbackAdded, tileAt_busyAdded_head, wideAt_wideAdd _ _ hc]

theorem tileAt_fallbackDone_ne {j : Nat} (h : j ≠ tkey site head) : tileAt (fallbackDone s site head) j = tileAt s j := by
  rw [fallbackDone, tileAt_markPromoted_ne _ _ _ h, tileAt_of_tiles (incWrap_tiles ..), fallbackAdded, tileAt_busyAdded_ne _ _ _ _ _ _ h]

theorem rd_fallbackDone_passes : rd (fallbackDone s site head) (sfbSlotReg site head 0x18) =
    rd s (sfbSlotReg site head 0x18) + BitVec.ofNat 32 (chainMembers s site head).length := by
  have hsat : sfbSlotReg site head 0x18 ≠ tileReg (physTile s (tkey site head)) 0x44 := by unfold sfbSlotReg tileReg; omega
  have hbusy : sfbSlotReg site head 0x18 ≠ engReg site (0x10 + 4 * (3 - 1)) := by unfold sfbSlotReg engReg; omega
  rw [fallbackDone, rd_markPromoted, rd_incWrap_same, fallbackAdded, rd_busyAdded_ne _ _ _ _ _ _ hsat hbusy]

theorem sameWords_fallbackDone :
    SameWords [tileReg (physTile s (tkey site head)) 0x44, sfbSlotReg site head 0x18, engReg site 0x18] s (fallbackDone s site head) := by
  intro p hp
  simp only [List.mem_cons, List.not_mem_nil, or_false, not_or] at hp
  obtain ⟨hsat, hpasses, hbusy⟩ := hp
  rw [fallbackDone, rd_markPromoted, rd_incWrap_ne _ _ hpasses, fallbackAdded, rd_busyAdded_ne _ _ _ _ _ _ hsat hbusy]

end Sys2Proof.Machine
end

section
/-! SUPPORT. DELTA_ITEM (05 R130, R136, R137). -/

namespace Sys2Proof.Machine

/-- A tile whose delta terms are not due. -/
def withoutDelta (x : TileSt) : TileSt := { x with work := { x.work with deltaDue := false } }

theorem clearDeltaDue_eq (site : Nat) (ms : List Nat) (s : State) : clearDeltaDue site ms s = eachTile site withoutDelta ms s := by
  induction ms generalizing s with
  | nil => rfl
  | cons n ms ih => exact ih _

/-- A tile that notes the vectors of version `ver` its item still takes. -/
def withShare (ver : Nat) (x : TileSt) : TileSt := { x with deltaShare := some (ver, deltaLeft x ver) }

/-- An item's clocks fall on the first vector it takes (05 R137). -/
def deltaBegun (s : State) (site head ver clocks : Nat) : State :=
  modTile (if deltaShared (tileAt s (tkey site head)) ver then s else engBusy s site 4 clocks) (tkey site head)
    (withShare ver)

section Begun

variable (s : State) (site head ver clocks : Nat)

theorem butWordsCores_deltaClocks (c : Bool) : butWordsCores (if c then s else engBusy s site 4 clocks) = butWordsCores s := by
  split
  · rfl
  · exact butWordsCores_engBusy s site 4 clocks

theorem butWork_deltaBegun : butWork (deltaBegun s site head ver clocks) = butWork s :=
  (butWork_of_butWordsTiles (butWordsTiles_modTile ..)).trans (butWork_of_butWordsCores (butWordsCores_deltaClocks s site clocks _))

theorem tileAt_deltaBegun_head : tileAt (deltaBegun s site head ver clocks) (tkey site head) =
    withShare ver (tileAt s (tkey site head)) := by
  rw [deltaBegun, tileAt_modTile_same, tileAt_of_tiles (tiles_of_butWordsCores (butWordsCores_deltaClocks s site clocks _))]

theorem tileAt_deltaBegun_ne {j : Nat} (h : j ≠ tkey site head) : tileAt (deltaBegun s site head ver clocks) j = tileAt s j := by
  rw [deltaBegun, tileAt_modTile_ne _ _ h, tileAt_of_tiles (tiles_of_butWordsCores (butWordsCores_deltaClocks s site clocks _))]

/-- What does not look at the shares of a tile is as before. -/
theorem tileAt_deltaBegun_view {β : Type} {v : TileSt → β} (hv : ∀ x, v (withShare ver x) = v x) (j : Nat) :
    v (tileAt (deltaBegun s site head ver clocks) j) = v (tileAt s j) := by
  by_cases h : j = tkey site head
  · subst h; rw [tileAt_deltaBegun_head, hv]
  · rw [tileAt_deltaBegun_ne _ _ _ _ _ h]

theorem workOf_deltaBegun (j : Nat) : workOf (deltaBegun s site head ver clocks) j = workOf s j :=
  tileAt_deltaBegun_view s site head ver clocks (v := TileSt.work) (fun _ => rfl) j

theorem physTile_deltaBegun (j : Nat) : physTile (deltaBegun s site head ver clocks) j = physTile s j := by
  unfold physTile
  rw [tileAt_deltaBegun_view s site head ver clocks (v := TileSt.covered) (fun _ => rfl) j]

theorem rd_deltaBegun_ne {p : Nat} (h : p ≠ engReg site 0x1C) : rd (deltaBegun s site head ver clocks) p = rd s p := by
  rw [deltaBegun, rd_of_cw (modTile_cw ..)]
  split
  · rfl
  · exact rd_engBusy_ne s site 4 clocks h

theorem storeSound_deltaBegun {s : State} (h : StoreSound s site) : StoreSound (deltaBegun s site head ver clocks) site := by
  have hbusy : StoreSound (if deltaShared (tileAt s (tkey site head)) ver then s else engBusy s site 4 clocks) site := by
    split
    · exact h
    · exact storeSound_engBusy site 4 clocks h
  exact hbusy

end Begun

/-- The item of a slice's active block `b` has run: the terms stand in the accumulators and are due no longer. -/
def deltaDone (s : State) (site head ver : Nat) (b : DeltaBlock) : State :=
  let u := deltaBegun s site head ver (deltaClocks b (chainMembers s site head))
  eachTile site withoutDelta (chainMembers s site head)
    (wideAddCount u site head (deltaTerm b (workOf s (tkey site head)).s8d (chainMembers s site head) (deltaX s site)))

theorem execDeltaItem_eq {site head : Nat} (hs : site < 800) (hh : head < 16) (s : State) :
    exec (.deltaItem site head) s = .next (declared (deltaRun s site head)) :=
  onUnit_of_true (by simp [hs, hh]) _

theorem deltaRun_of_ready {s : State} {site head : Nat} {o : Owner} {b : DeltaBlock} (hr : deltaReady s site head = true)
    (hfirst : higherReady s site 4 = false) (ho : sliceOwner s site head = some o)
    (hb : activeDelta s site o (workOf s (tkey site head)).vec = some b)
    (hlost : objLost s (activeVersion s o (workOf s (tkey site head)).vec) = false) (hs : StoreSound s site) :
    deltaRun s site head = deltaDone s site head (activeVersion s o (workOf s (tkey site head)).vec) b := by
  have hsound := storeSound_deltaBegun site head (activeVersion s o (workOf s (tkey site head)).vec)
    (deltaClocks b (chainMembers s site head)) hs
  have hx : deltaX (deltaBegun s site head (activeVersion s o (workOf s (tkey site head)).vec) (deltaClocks b (chainMembers s site head))) site =
      deltaX s site := funext fun n => congrArg TileWork.xd (workOf_deltaBegun ..)
  have hitem : deltaRun s site head = sliceItem
      (deltaBegun s site head (activeVersion s o (workOf s (tkey site head)).vec) (deltaClocks b (chainMembers s site head))) site o.slot
      [deltaRange b (chainMembers s site head)] (fun s' => clearDeltaDue site (chainMembers s site head)
        (wideAddCount s' site head (deltaTerm b (workOf s (tkey site head)).s8d (chainMembers s site head) (deltaX s' site)))) := by
    rw [deltaRun, if_pos (by simp [hr, hfirst]), ho]
    dsimp only
    rw [hb]
    dsimp only
    rw [hlost]
    rfl
  rw [hitem, sliceItem_of_storeSound hsound, hx, clearDeltaDue_eq]
  rfl

section Done

variable (s : State) (site head ver : Nat) (b : DeltaBlock)

theorem butWork_deltaDone : butWork (deltaDone s site head ver b) = butWork s :=
  (butWork_of_butWordsTiles ((butWordsTiles_eachTile ..).trans (butWordsTiles_wideAddCount ..))).trans (butWork_deltaBegun ..)

theorem noCoreFails_deltaDone {s : State} (h : StoreSound s site) : NoCoreFails (deltaDone s site head ver b) :=
  NoCoreFails.of_cores (storeSound_deltaBegun site head ver (deltaClocks b (chainMembers s site head)) h).2
    (cores_of_butWordsTiles ((butWordsTiles_eachTile site withoutDelta _).trans (butWordsTiles_wideAddCount _ site head _)))

theorem wideAt_deltaDone {c : Nat} (hmem : head ∈ chainMembers s site head) (hc : c < 512) :
    wideAt (tileAt (deltaDone s site head ver b) (tkey site head)) c = sat32 (wideAt (tileAt s (tkey site head)) c +
      deltaTerm b (workOf s (tkey site head)).s8d (chainMembers s site head) (deltaX s site) c) := by
  have hclear : ∀ x, wideAt (withoutDelta x) c = wideAt x c := fun _ => rfl
  rw [deltaDone, tileAt_eachTile_of_mem _ _ _ (nodup_chainMembers s site head) hmem, hclear, tileAt_wideAddCount_head, wideAt_wideAdd _ _ hc,
    tileAt_deltaBegun_view s site head ver _ (v := (wideAt · c)) (fun _ => rfl)]

theorem deltaDue_deltaDone {n : Nat} (h : n ∈ chainMembers s site head) :
    (workOf (deltaDone s site head ver b) (tkey site n)).deltaDue = false := by
  rw [workOf, deltaDone, tileAt_eachTile_of_mem _ _ _ (nodup_chainMembers s site head) h]
  rfl

theorem tileAt_deltaDone_ne {j : Nat} (hmem : head ∈ chainMembers s site head) (h : ∀ n ∈ chainMembers s site head, j ≠ tkey site n) :
    tileAt (deltaDone s site head ver b) j = tileAt s j := by
  rw [deltaDone, tileAt_eachTile_of_notMem _ _ _ h, tileAt_wideAddCount_ne _ _ _ _ (h head hmem),
    tileAt_deltaBegun_ne _ _ _ _ _ (h head hmem)]

theorem sameWords_deltaDone :
    SameWords [tileReg (physTile s (tkey site head)) 0x44, engReg site 0x1C] s (deltaDone s site head ver b) := by
  intro p hp
  simp only [List.mem_cons, List.not_mem_nil, or_false, not_or] at hp
  obtain ⟨hsat, hbusy⟩ := hp
  rw [deltaDone, rd_of_cw (eachTile_cw ..), rd_wideAddCount_ne _ _ _ _ (by rw [physTile_deltaBegun]; exact hsat),
    rd_deltaBegun_ne _ _ _ _ _ hbusy]

end Done

end Sys2Proof.Machine
end

section
/-! SUPPORT. STANDIN_PASS (05 R141-R143): the pass of a slice of a failed core, on the cores that stand in. -/

namespace Sys2Proof.Machine

/-! ### The blocks are read -/

/-- Of sound stores the stand-ins find no bad word. -/
theorem standinCheck_of_sound {s : State} {site : Nat} (slot : Nat) {ms : List Nat}
    (h : ∀ n ∈ ms, ∀ c, standinOf s site n = some c → StoreSound s c) : standinCheck site slot ms s = (false, s) := by
  induction ms with
  | nil => rfl
  | cons n ms ih =>
    have hrest := ih (fun m hm => h m (List.mem_cons_of_mem n hm))
    unfold standinCheck
    split
    · rename_i c hc
      dsimp only
      rw [itemCheck_of_storeSound (h n List.mem_cons_self c hc), hrest]
      rfl
    · exact hrest

/-! ### Packets and clocks -/

/-- Blanks the packets under way. -/
def butMesh (s : State) : State := { s with meshQ := [] }

theorem butMesh_meshMulticast (s : State) (src vc : Nat) (secure : Bool) (arg : Bytes) (dests : List (Nat × Bytes)) :
    butMesh (meshMulticast s src vc secure arg dests) = butMesh s := rfl

theorem butMesh_standinPackets (s : State) (site head : Nat) (r : StandinOut) : butMesh (standinPackets s site head r) = butMesh s := by
  unfold standinPackets
  split
  · rfl
  · exact (foldl_view (fun _ _ u => butMesh_meshMulticast u ..) _).trans (butMesh_meshMulticast s ..)

theorem butWordsCores_standinBusy (site : Nat) (ms : List Nat) (s : State) : butWordsCores (standinBusy site ms s) = butWordsCores s := by
  induction ms generalizing s with
  | nil => rfl
  | cons n ms ih =>
    rw [standinBusy, ih]
    split
    · exact butWordsCores_engBusy ..
    · rfl

theorem noCoreFails_standinBusy (site : Nat) (ms : List Nat) {s : State} (h : NoCoreFails s) : NoCoreFails (standinBusy site ms s) := by
  induction ms generalizing s with
  | nil => exact h
  | cons n ms ih =>
    refine ih ?_
    split
    · exact NoCoreFails.engBusy _ _ _ h
    · exact h

/-- The head's stand-in counts what saturated and what was clipped. -/
def standinCounted (c : Option Nat) (r : StandinOut) (s : State) : State :=
  match c with
  | some h => incHold (incHold s (engReg h 0x2C) 16 r.sats) (engReg h 0x40) 32 r.clips
  | none => s

theorem butWords_standinCounted (c : Option Nat) (r : StandinOut) (s : State) : (standinCounted c r s).butWords = s.butWords := by
  unfold standinCounted
  split
  · rw [incHold_butWords, incHold_butWords]
  · rfl

theorem butWordsTiles_standinCounted (c : Option Nat) (r : StandinOut) (s : State) :
    butWordsTiles (standinCounted c r s) = butWordsTiles s :=
  congrArg (fun u : State => { u with tiles := [] }) (butWords_standinCounted c r s)

theorem standinCounted_tiles (c : Option Nat) (r : StandinOut) (s : State) : (standinCounted c r s).tiles = s.tiles :=
  (congrArg State.tiles (butWords_standinCounted c r s) :)

/-! ### The close -/

/-- The head's outputs stand in its output buffer. -/
def standinOutput (p : PeriCfg) (r : StandinOut) (x : TileSt) : TileSt :=
  { x with outBuf := r.codes, outScales := r.scales, outSeg := packedOut p r.codes r.scales, nextVec := x.nextVec + 1 }

/-- Blanks words, tiles, cores and the packets under way. -/
def butStandin (s : State) : State := butMesh (butWork s)

theorem butStandin_of_butWork {s t : State} (h : butWork t = butWork s) : butStandin t = butStandin s := congrArg butMesh h

theorem eq_withStandin {s t : State} (h : butStandin t = butStandin s) :
    t = { s with cw := t.cw, tiles := t.tiles, cores := t.cores, meshQ := t.meshQ } :=
  congrArg (fun u : State => { u with cw := t.cw, tiles := t.tiles, cores := t.cores, meshQ := t.meshQ }) h

section Close

variable (s : State) {site head : Nat} (r : StandinOut)

/-- Packets are sent and clocks are counted: the tiles are as before. -/
def standinSent (s : State) (site head : Nat) (r : StandinOut) : State :=
  standinBusy site (standinMembers s site head) (standinPackets s site head r)

theorem standinSent_tiles : (standinSent s site head r).tiles = s.tiles := by
  rw [standinSent, tiles_of_butWordsCores (butWordsCores_standinBusy ..)]
  exact (congrArg State.tiles (butMesh_standinPackets s site head r) :)

theorem butStandin_standinSent : butStandin (standinSent s site head r) = butStandin s :=
  (butStandin_of_butWork (butWork_of_butWordsCores (butWordsCores_standinBusy ..))).trans
    (congrArg butWork (butMesh_standinPackets s site head r))

theorem noCoreFails_standinSent {s : State} (h : NoCoreFails s) : NoCoreFails (standinSent s site head r) :=
  noCoreFails_standinBusy site _ (h.of_cores (congrArg State.cores (butMesh_standinPackets s site head r) :))

/-- The close is a step of every member, the counts, and the head's output. -/
theorem standinClose_eq : ∃ step c p, standinClose s site head r =
    modTile (standinCounted c r (clearWork site step (standinMembers s site head) (standinSent s site head r))) (tkey site head)
      (standinOutput p r) := ⟨_, _, _, rfl⟩

theorem nodup_standinMembers : (standinMembers s site head).Nodup := by
  unfold standinMembers
  dsimp only
  split
  · simp
  · exact List.Nodup.filter _ List.nodup_range

theorem head_mem_of_standinReady {s : State} (h : standinReady s site head = true) : head ∈ standinMembers s site head := by
  simp only [standinReady, Bool.and_eq_true, beq_iff_eq] at h
  obtain ⟨⟨⟨⟨-, -⟩, hhead⟩, -⟩, -⟩ := h
  exact List.mem_of_head? hhead

/-- What follows the packets and the clocks writes words and tiles. -/
theorem butWordsTiles_standinClose : butWordsTiles (standinClose s site head r) = butWordsTiles (standinSent s site head r) := by
  obtain ⟨step, c, p, e⟩ := standinClose_eq s (site := site) (head := head) r
  rw [e, butWordsTiles_modTile, butWordsTiles_standinCounted, butWordsTiles_clearWork]

theorem butStandin_standinClose : butStandin (standinClose s site head r) = butStandin s :=
  (butStandin_of_butWork (butWork_of_butWordsTiles (butWordsTiles_standinClose s r))).trans (butStandin_standinSent s r)

theorem noCoreFails_standinClose {s : State} (h : NoCoreFails s) : NoCoreFails (standinClose s site head r) :=
  (noCoreFails_standinSent r h).of_cores (cores_of_butWordsTiles (butWordsTiles_standinClose s r))

/-- Every member goes on to its second run; at the head the outputs stand. -/
theorem tileAt_standinClose_head (hmem : head ∈ standinMembers s site head) : ∃ step p,
    tileAt (standinClose s site head r) (tkey site head) = standinOutput p r (toNextVector step (tileAt s (tkey site head))) := by
  obtain ⟨step, c, p, e⟩ := standinClose_eq s (site := site) (head := head) r
  refine ⟨step, p, ?_⟩
  rw [e, tileAt_modTile_same, tileAt_of_tiles (standinCounted_tiles ..), tileAt_clearWork_of_mem _ _ _ (nodup_standinMembers s) hmem,
    tileAt_of_tiles (standinSent_tiles ..)]

theorem work_standinClose {n : Nat} (h : n ∈ standinMembers s site head) :
    workOf (standinClose s site head r) (tkey site n) = (tileAt s (tkey site n)).next := by
  obtain ⟨step, c, p, e⟩ := standinClose_eq s (site := site) (head := head) r
  have hwork := tileAt_modTile_view (standinCounted c r (clearWork site step (standinMembers s site head) (standinSent s site head r)))
    (v := TileSt.work) (f := standinOutput p r) (fun _ => rfl) (tkey site n) (tkey site head)
  rw [workOf, e, hwork, tileAt_of_tiles (standinCounted_tiles ..), tileAt_clearWork_of_mem _ _ _ (nodup_standinMembers s) h,
    tileAt_of_tiles (standinSent_tiles ..)]
  rfl

theorem tileAt_standinClose_ne {j : Nat} (hmem : head ∈ standinMembers s site head)
    (h : ∀ n ∈ standinMembers s site head, j ≠ tkey site n) :
    tileAt (standinClose s site head r) j = tileAt s j := by
  obtain ⟨step, c, p, e⟩ := standinClose_eq s (site := site) (head := head) r
  rw [e, tileAt_modTile_ne _ _ (h head hmem), tileAt_of_tiles (standinCounted_tiles ..), tileAt_clearWork_of_notMem _ _ _ h,
    tileAt_of_tiles (standinSent_tiles ..)]

end Close

/-! ### The pass -/

theorem execStandinPass_eq {site head : Nat} (hs : site < 800) (hh : head < 16) (members : List Bytes) (s : State) :
    exec (.standinPass site head members) s = .next (declared (standinRun s site head members)) :=
  onUnit_of_true (by simp [hs, hh]) _

theorem standinRun_of_ready {s : State} {site head : Nat} {o : Owner} (members : List Bytes) (ho : sliceOwner s site head = some o)
    (hstopped : passStopped s o.slot = false) (hr : standinReady s site head = true)
    (hlost : objLost s (activeVersion s o (tileAt s (tkey site head)).nextVec) = false)
    (hsound : ∀ n ∈ standinMembers s site head, ∀ c, standinOf s site n = some c → StoreSound s c) :
    standinRun s site head members =
      standinClose s site head (standinOut s site head members (activeDelta s site o (tileAt s (tkey site head)).nextVec)) := by
  rw [standinRun, ho]
  dsimp only
  rw [if_pos (by simp [hr, hstopped]), standinCheck_of_sound o.slot hsound, hlost]
  rfl

/-! ### The outputs (05 R143) -/

theorem sat32_sat32 (x : Int) : sat32 (sat32 x) = sat32 x := by
  simp only [sat32, clampI]
  split_ifs <;> omega

/-- A list over the columns, read at a column. -/
theorem getD_columns (f : Nat → Int) (c : Nat) : ((List.range 512).map f).getD c 0 = if c < 512 then f c else 0 := by
  split
  · rename_i h; simp [h]
  · rename_i h; simp [h]

/-- The member slices of the edge, widened and rotated. -/
def standinSlice (s : State) (site head : Nat) (members : List Bytes) (i : Nat) : List W32 :=
  edgeRotate s site head ((standinMembers s site head).getD i 0) (edgeWiden s site head (members.getD i []))

/-- s8 of the slices. -/
def standinShift (s : State) (site head : Nat) (members : List Bytes) : Nat :=
  shift8 ((List.range (standinMembers s site head).length).map (standinSlice s site head members)).flatten (edgeCfg s site head).inexp

/-- The exact sum of a column. -/
def standinSum (s : State) (site head : Nat) (members : List Bytes) (col : Nat) : Int :=
  2 ^ standinShift s site head members * ((List.range (standinMembers s site head).length).map (fun i =>
    digitalSum (tileAt s (tkey site ((standinMembers s site head).getD i 0)))
      ((standinSlice s site head members i).map (fun x => (quant8 (edgeCfg s site head).inexp (standinShift s site head members) x).1)) col)).sum

/-- With no delta block the periphery takes the saturated sums. -/
theorem codes_standinOut_none (s : State) (site head : Nat) (members : List Bytes) :
    (standinOut s site head members none).codes = (periphery (standinPeri s (tkey site head)) (fun col =>
      if col < 512 then sat32 (standinSum s site head members col) else 0)).1 := by
  have hout : (standinOut s site head members none).codes = (periphery (standinPeri s (tkey site head)) (fun col =>
      ((List.range 512).map (fun col =>
        sat32 (((List.range 512).map (fun col => sat32 (standinSum s site head members col))).getD col 0 + 0))).getD col 0)).1 := by
    simp only [standinOut, standinSum, standinShift, standinSlice, List.map_map, Function.comp_def]
    rfl
  rw [hout]
  refine congrArg (fun f => (periphery (standinPeri s (tkey site head)) f).1) (funext fun col => ?_)
  rw [getD_columns, getD_columns]
  split
  · rw [Int.add_zero, sat32_sat32]
  · rfl

end Sys2Proof.Machine
end

section
/-! PROOF. O49: rows that arrive, fall-back passes, delta items and stand-in passes. -/

namespace Sys2Proof.Machine

theorem isHead_of_fallbackReady {s : State} {site head : Nat} (h : fallbackReady s site head = true) : isHead s site head = true := by
  simp only [fallbackReady, Bool.and_eq_true] at h
  exact h.1.1

theorem isHead_of_deltaReady {s : State} {site head : Nat} (h : deltaReady s site head = true) : isHead s site head = true := by
  simp only [deltaReady, Bool.and_eq_true] at h
  exact h.1.1

/-- Settles O49: each item's sum goes into the head's wide accumulators, or, on stand-ins, through the failed slice's periphery, and
its members' work alone changes. -/
theorem otherTermsAreAdded : Obligations.OtherTermsAreAdded := by
  refine ⟨?row, ?noRow, ?fallback, ?delta, ?standin⟩
  case row =>
    intro s site slot row hwf hdue
    exact ⟨_, execShadowRowArrival_eq s row hwf, workOf_shadowRow hdue, srcCache_shadowRow hdue, stores_shadowRow hdue,
      fun k hk => tileAt_shadowRow_ne hdue hk, eq_withRows (butRows_shadowRow hdue)⟩
  case noRow =>
    intro s site slot row hwf hdue
    rw [execShadowRowArrival_eq s row hwf, shadowRow_of_notDue hdue]
  case fallback =>
    intro s site head o hsite hhead ho hr hs
    refine ⟨fallbackDone s site head, ?_, fun c hc => wideAt_fallbackDone s hc, promoted_markPromoted _ site head, rd_fallbackDone_passes s,
      sameWords_fallbackDone s, fun j hj => tileAt_fallbackDone_ne s hj, eq_withWork (butWork_fallbackDone s)⟩
    rw [execFallbackPass_eq hsite hhead, fallbackRun_of_ready ho hr hs, declared_of_noCoreFails (noCoreFails_fallbackDone hs.2)]
  case delta =>
    intro s site head o b hsite hhead hr hfirst ho hb hlost hs
    have hmem := head_mem_chainMembers (isHead_of_deltaReady hr)
    refine ⟨deltaDone s site head (activeVersion s o (workOf s (tkey site head)).vec) b, ?_,
      fun c hc => wideAt_deltaDone s site head _ b hmem hc, fun n hn => deltaDue_deltaDone s site head _ b hn,
      sameWords_deltaDone s site head _ b, fun j hj => tileAt_deltaDone_ne s site head _ b hmem hj, eq_withWork (butWork_deltaDone ..)⟩
    rw [execDeltaItem_eq hsite hhead, deltaRun_of_ready hr hfirst ho hb hlost hs, declared_of_noCoreFails (noCoreFails_deltaDone _ _ _ _ hs)]
  case standin =>
    intro s site head members o hsite hhead ho hstopped hr hlost hcores hsound
    have hmem := head_mem_of_standinReady hr
    have hrun := standinRun_of_ready members ho hstopped hr hlost hsound
    refine ⟨_, execStandinPass_eq hsite hhead members s, ?_⟩
    rw [hrun, declared_of_noCoreFails (noCoreFails_standinClose _ hcores)]
    obtain ⟨step, p, htile⟩ := tileAt_standinClose_head s
      (standinOut s site head members (activeDelta s site o (tileAt s (tkey site head)).nextVec)) hmem
    refine ⟨?_, fun n hn => work_standinClose s _ hn, fun j hj => tileAt_standinClose_ne s _ hmem hj,
      eq_withStandin (butStandin_standinClose s _), fun hnone => ?_⟩
    · rw [htile]; rfl
    · rw [hnone] at htile ⊢
      exact (congrArg TileSt.outBuf htile).trans (codes_standinOut_none s site head members)

end Sys2Proof.Machine
end

section
/-! PROOF. O51 fails. The record of a double-bit error may recur in the oldest record of a full fault store (20 R460); where that error
is the core's second within 1 ms (20 R463), the same command declares the core failed, and that record pushes the oldest out. -/

namespace Sys2Proof.Machine

/-! ### Fault records of a full store (20 R459, R460) -/

theorem faultEpoch_of_zero {s : State} (h : s.rackTime = 0) : faultEpoch s = 0 := by
  rw [faultEpoch, h]
  exact Nat.zero_div _

/-- A fault of which the oldest record tells recurs there. -/
theorem faults_faultRecord_of_oldest {s : State} {f : FaultInfo} {r : FaultRec} {rs : List FaultRec} (hs : s.faults = r :: rs)
    (h : sameFault (faultEpoch s) f r = true) : (faultRecord s f).faults = { r with coalesced := true, count := r.count + 1 } :: rs := by
  rw [faultRecord_eq, hs, if_pos (by rw [List.any_cons, h, Bool.true_or]), coalesce, if_pos h]

/-- A new fault pushes the oldest record out of a full store. -/
theorem faults_faultRecord_of_full {s : State} {f : FaultInfo} {r : FaultRec} {rs : List FaultRec} (hs : s.faults = r :: rs)
    (hfull : rs.length = 4095) (hnew : s.faults.any (sameFault (faultEpoch s) f) = false) :
    (faultRecord s f).faults = rs ++ [newFault s f] := by
  have hcount : ∀ u : State, (countFault u f.cls).faults = u.faults := fun u => (congrArg State.faults (countFault_butWords u f.cls) :)
  have hlen : ¬ s.faults.length < 4096 := by rw [hs, List.length_cons, hfull]; decide
  rw [faultRecord_eq, if_neg (by rw [hnew]; decide), signal_faults, signal_faults, hcount, keepFault, if_neg hlen, incHold_faults, hs]
  rfl

/-! ### The state -/

/-- The record of an earlier error of core 0's store, the oldest that is kept. -/
def oldestFault : FaultRec :=
  { seq := 0, cls := 2, cause := 6, secure := false, coalesced := false, collector := false, unit := 0, slot := 0xFFFF, inst := 0,
    time := 0, epoch := 0, count := 1, reporters := 1, step := 0, detail := 0 }

/-- A later record of another cause. -/
def laterFault : FaultRec := { oldestFault with cls := 1, cause := 16 }

/-- The other 4,095 records. -/
def laterFaults : List FaultRec := List.replicate 4095 laterFault

/-- Core 0 holds a program of slot 0, has seen an uncorrectable error at this very time, and has another in the first word of
program space; the fault store is full. -/
def crowdedStore : State := { State.reset with
  cores := [(0, { programs := [(0, 0, 0)], lastUe := some 0 })]
  storeBad := [(0x17000, 2)]
  faults := oldestFault :: laterFaults }

/-- An item that reads the word. -/
def readingItem : EngineItem := .reduce .sum 0xB8000 0xB8100 1

theorem mayStart_readingItem : MayStart crowdedStore 0 0 readingItem :=
  ⟨by decide, by decide, by decide, by decide, by decide, by decide, by decide⟩

/-! ### The item fails (05 R126) -/

/-- An item that finds a double-bit error fails, and with it the frame in work. -/
theorem programItem_of_bad {s t : State} {site slot : Nat} {it : EngineItem} (hstart : itemStarts s site slot it = true)
    (hcheck : itemCheck (useFree (engBusy s site 5 (Config.freeNat s.freeNo % 33))) site (some slot) (itemReads it) = (true, t))
    (hrows : itemRows it = []) : programItem s site slot it = failPass t slot stCollFailed := by
  rw [programItem, if_pos hstart]
  dsimp only
  rw [hcheck, hrows]
  rfl

theorem itemCheck_of_badWord {s : State} (who : Option Nat) (h : s.storeBad = [(0x17000, 2)]) :
    itemCheck s 0 who (itemReads readingItem) = (true, storeUe s 0 who 0x17000) := by
  have hreads : itemReads readingItem = [(0xB8000, 4)] := rfl
  have hwords : badWords s 0 = [0x17000] := by rw [badWords, h]; decide
  have hin : badIn s 0 0xB8000 4 = [0x17000] := by rw [badIn, hwords]; decide
  have hbits : mapGet 0 s.storeBad (storeAddr 0 (8 * 0x17000) / 8) = 2 := by rw [h]; decide
  have hword : wordBad s 0 0x17000 = 2 := by rw [← mapGet_word, hbits]
  have hue : checkWord 0 who s 0x17000 = storeUe s 0 who 0x17000 := by
    rw [checkWord, hword, if_neg (by decide), if_neg (by decide)]
  simp [itemCheck, hreads, storeBadRange, hin, hbits, storeCheck_eq_foldl, hue]

theorem failPass_of_noInst {s : State} {slot : Nat} (st : Nat) (h : instOf s slot = none) : failPass s slot st = s := by
  rw [failPass, h]

/-- A word beyond what the firmware loads is not loaded again. -/
theorem storeReload_of_program {s : State} (site : Nat) {a : Nat} (h : deltaRegion ≤ a) : storeReload s site a = s := if_pos (.inr h)

/-- The item's clocks are counted. -/
def clockedStore : State := useFree (engBusy crowdedStore 0 5 (Config.freeNat crowdedStore.freeNo % 33))

/-- The word's error is counted. -/
def countedStore : State := ueCounted clockedStore 0 0x17000

/-- It is recorded. -/
def recordedStore : State := faultRecord countedStore (ueFault countedStore 0 (some 0) 0x17000)

/-- It is noted on the core. -/
def failingStore : State := ueSeen recordedStore 0

theorem butFaults_recordedStore : butFaults recordedStore = butFaults countedStore := faultRecord_butFaults ..

theorem useFree_storeBad (s : State) : (useFree s).storeBad = s.storeBad := rfl
theorem useFree_faults (s : State) : (useFree s).faults = s.faults := rfl
theorem useFree_rackTime (s : State) : (useFree s).rackTime = s.rackTime := rfl
theorem useFree_cores (s : State) : (useFree s).cores = s.cores := rfl
theorem useFree_insts (s : State) : (useFree s).insts = s.insts := rfl
theorem useFree_cw (s : State) : (useFree s).cw = s.cw := rfl

theorem clockedStore_faults : clockedStore.faults = oldestFault :: laterFaults := by
  rw [clockedStore, useFree_faults]
  exact (congrArg State.faults (butWordsCores_engBusy crowdedStore 0 5 _) :)

theorem clockedStore_rackTime : clockedStore.rackTime = 0 := by
  rw [clockedStore, useFree_rackTime]
  exact (congrArg State.rackTime (butWordsCores_engBusy crowdedStore 0 5 _) :)

theorem clockedStore_insts : clockedStore.insts = [] := by
  rw [clockedStore, useFree_insts]
  exact (congrArg State.insts (butWordsCores_engBusy crowdedStore 0 5 _) :)

theorem instOf_failingStore : instOf failingStore 0 = none := by
  have hheld : held failingStore = held clockedStore := by
    rw [failingStore, ueSeen, held_modCore, recordedStore, held_faultRecord, countedStore, ueCounted, held_wr, held_incHold]
  have hview := instView_of_held hheld 0
  rw [instView, instView, instOf, instOf, clockedStore_insts] at hview
  exact Option.map_eq_none_iff.mp hview

theorem programItem_crowdedStore : programItem crowdedStore 0 0 readingItem = failingStore := by
  have hbad : clockedStore.storeBad = [(0x17000, 2)] := by
    rw [clockedStore, useFree_storeBad, engBusy_storeBad]
    rfl
  have hreload : storeUe clockedStore 0 (some 0) 0x17000 = failingStore := by
    rw [storeUe_eq, storeReload_of_program 0 (by decide)]
    rfl
  have hcheck := itemCheck_of_badWord (some 0) hbad
  rw [hreload] at hcheck
  rw [programItem_of_bad (by decide) hcheck rfl, failPass_of_noInst _ instOf_failingStore]

/-! ### The core is declared failed (20 R463) -/

theorem countedStore_rackTime : countedStore.rackTime = 0 := by
  rw [countedStore, ueCounted, wr_rackTime, incHold_rackTime, clockedStore_rackTime]

theorem faults_failingStore : failingStore.faults = { oldestFault with coalesced := true, count := 2 } :: laterFaults := by
  have hfaults : countedStore.faults = oldestFault :: laterFaults :=
    (faults_of_kept (kept_ueCounted clockedStore 0 0x17000)).trans clockedStore_faults
  have hepoch : faultEpoch countedStore = 0 := faultEpoch_of_zero countedStore_rackTime
  rw [failingStore, ueSeen, modCore_faults, recordedStore, faults_faultRecord_of_oldest hfaults (by rw [hepoch]; rfl)]
  rfl

theorem cores_setCore_single {s : State} {k : Nat} {c x : CoreSt} (h : s.cores = [(k, c)]) (hx : x ≠ {}) :
    (setCore s k x).cores = [(k, x)] := by
  have e : (setCore s k x).cores = mapPut {} s.cores k x := rfl
  rw [e, h, mapPut, if_neg hx, mapSet, if_pos rfl]

theorem coreAt_of_single {s : State} {k : Nat} {c : CoreSt} (h : s.cores = [(k, c)]) : coreAt s k = c := by
  rw [coreAt, h, mapGet, mapFind, if_pos rfl]
  rfl

theorem declared_of_single {s : State} {k : Nat} {c : CoreSt} (h : s.cores = [(k, c)]) (hc : c.ueFatal = true) :
    declared s = coreFail s k := by
  rw [declared, h, List.foldl_cons, List.foldl_nil, if_pos hc]

theorem rackTime_of_butFaults {s t : State} (h : butFaults t = butFaults s) : t.rackTime = s.rackTime := (congrArg State.rackTime h :)

theorem ne_default_of_programs {c : CoreSt} (h : c.programs ≠ []) : c ≠ {} := fun e => h (congrArg CoreSt.programs e)

/-- The second error within 1 ms: the core is to be declared failed. -/
theorem cores_failingStore : ∃ c : CoreSt, failingStore.cores = [(0, c)] ∧ c.ueFatal = true ∧ c.failed = false := by
  obtain ⟨rem, n, e⟩ := engBusy_eq crowdedStore 0 5 (Config.freeNat crowdedStore.freeNo % 33)
  have hclocked : clockedStore.cores = [(0, { programs := [(0, 0, 0)], lastUe := some 0, busyRem := rem })] := by
    rw [clockedStore, useFree_cores, e, incWrap_cores]
    exact cores_setCore_single rfl (ne_default_of_programs (List.cons_ne_nil _ _))
  have hrecorded : recordedStore.cores = [(0, { programs := [(0, 0, 0)], lastUe := some 0, busyRem := rem })] := by
    rw [cores_of_butFaults butFaults_recordedStore, countedStore, ueCounted, wr_cores, incHold_cores, hclocked]
  have hrack : recordedStore.rackTime = 0 := (rackTime_of_butFaults butFaults_recordedStore).trans countedStore_rackTime
  rw [failingStore, ueSeen, modCore, coreAt_of_single hrecorded]
  refine ⟨_, cores_setCore_single hrecorded (ne_default_of_programs (List.cons_ne_nil _ _)), ?_, rfl⟩
  dsimp only
  rw [elapsed, hrack]
  decide

theorem coreOff_failingStore : coreOff failingStore 0 = false := by
  have hrouter : ∀ o < 0x100, routerReg 0 0 ≠ engReg 0 o := fun o ho => by unfold routerReg engReg; omega
  have hclocked : rd clockedStore (routerReg 0 0) = rd crowdedStore (routerReg 0 0) := by
    rw [clockedStore, rd_of_cw (useFree_cw _)]
    exact rd_engBusy_ne crowdedStore 0 5 _ (hrouter _ (by decide))
  have hrd : rd failingStore (routerReg 0 0) = rd crowdedStore (routerReg 0 0) := by
    rw [failingStore, ueSeen, rd_of_cw (modCore_cw ..), recordedStore, rd_faultRecord_of_lt _ _ (by decide), countedStore, ueCounted,
      rd_wr_ne _ _ (hrouter _ (by decide)), rd_incHold_ne _ _ _ (hrouter _ (by decide)), hclocked]
  have hoff : coreOff crowdedStore 0 = false := by decide
  rw [coreOff, rbit, rdF, hrd]
  exact hoff

/-- The error's own record is gone: every record that is left has another cause. -/
theorem cause_of_mem_faults_declared {r : FaultRec} (h : r ∈ (declared failingStore).faults) : r.cause ≠ 6 := by
  obtain ⟨c, hcores, hfatal, hfailed⟩ := cores_failingStore
  have hserving : ¬((coreAt failingStore 0).failed = true ∨ coreOff failingStore 0 = true) := by
    rw [coreAt_of_single hcores, hfailed, coreOff_failingStore]
    decide
  have hdown : (coreDown failingStore 0).faults = { oldestFault with coalesced := true, count := 2 } :: laterFaults :=
    (faults_of_kept (kept_coreDown failingStore 0)).trans faults_failingStore
  have hnew : (coreDown failingStore 0).faults.any (sameFault (faultEpoch (coreDown failingStore 0)) (coreFault failingStore 0)) = false := by
    rw [hdown, List.any_eq_false]
    intro x hx
    have hcause : x.cause ≠ 9 := by
      rcases List.mem_cons.mp hx with rfl | hx
      · decide
      · rw [List.eq_of_mem_replicate hx]; decide
    simp [sameFault, coreFault, hcause]
  rw [declared_of_single hcores hfatal, coreFail_of_serving hserving, faults_of_kept (kept_coreReplaced ..),
    faults_faultRecord_of_full hdown (List.length_replicate ..) hnew] at h
  rcases List.mem_append.mp h with h | h
  · rw [List.eq_of_mem_replicate h]; decide
  · rw [List.mem_singleton.mp h]
    exact (by decide : (9 : Nat) ≠ 6)

/-- Refutes O51: in `crowdedStore` the item fails by a double-bit error of which, at its end, no record of cause 6 tells. -/
theorem not_engineItems : ¬ Obligations.EngineItems := by
  rintro ⟨-, -, -, -, hbad⟩
  have hword : ∃ r ∈ itemReads readingItem, r.1 < 8 * 0x17000 + 8 ∧ 8 * 0x17000 < r.1 + r.2 :=
    ⟨(0xB8000, 4), List.mem_singleton_self _, by decide, by decide⟩
  obtain ⟨t, ht, -, -, ⟨r, hr, hcause, -⟩, -⟩ := hbad crowdedStore 0 0 readingItem [] 0x17000 mayStart_readingItem
    (fun _ _ _ _ h => nomatch h) hword (by decide)
  have hexec : exec (.compiledProgramItem 0 0 readingItem []) crowdedStore = .next (declared failingStore) :=
    (onUnit_of_true rfl _).trans (congrArg (fun u => Host.Outcome.next (declared u)) programItem_crowdedStore)
  have hlast : declared failingStore = t := Host.Outcome.next.inj (hexec.symm.trans ht)
  exact cause_of_mem_faults_declared (hlast ▸ hr) hcause

end Sys2Proof.Machine
end

section
/-! SUPPORT. The commit record of a written array (13 R325): the fields that were written are read back, and it reads as committed. -/

namespace Sys2Proof.Machine

/-! ### CRC-16 is a 16-bit code (10 R244) -/

theorem crc16Bit_lt {c : Nat} (h : c < 2 ^ 16) : crc16Bit c < 2 ^ 16 := by
  unfold crc16Bit
  split
  · exact Nat.xor_lt_two_pow (by omega) (by decide)
  · omega

theorem iter_crc16Bit_lt (n : Nat) {c : Nat} (h : c < 2 ^ 16) : iter crc16Bit n c < 2 ^ 16 := by
  induction n generalizing c with
  | zero => exact h
  | succ n ih => exact ih (crc16Bit_lt h)

theorem crc16Go_lt (bs : Bytes) {c : Nat} (h : c < 2 ^ 16) : crc16Go c bs < 2 ^ 16 := by
  induction bs generalizing c with
  | nil => exact h
  | cons b bs ih =>
    unfold crc16Go
    exact ih (iter_crc16Bit_lt 8 (Nat.xor_lt_two_pow h (by omega)))

theorem crc16_lt (bs : Bytes) : crc16 bs < 2 ^ 16 := crc16Go_lt bs (by decide)

/-! ### The commit row (13 Table 13.6) -/

theorem toNat_ofNat_of_lt {v n w : Nat} (h : v < 2 ^ n) (hw : n ≤ w) : (BitVec.ofNat w v).toNat = v := by
  rw [BitVec.toNat_ofNat, Nat.mod_eq_of_lt (h.trans_le (Nat.pow_le_pow_right Nat.two_pos hw))]

theorem onesIn_mod (v : Nat) {lo n m : Nat} (h : lo + n ≤ m) : onesIn (v % 2 ^ m) lo n = onesIn v lo n := by
  unfold onesIn
  congr 1
  apply List.filter_congr
  intro i hi
  have hlt : lo + i < m := by have := List.mem_range.mp hi; omega
  have hbit := congrArg Bool.toNat (Nat.testBit_mod_two_pow v m (lo + i))
  simp only [hlt, decide_true, Bool.true_and, Nat.toNat_testBit] at hbit
  rw [hbit]

section CommitRow

variable {a : ArraySt} {j : ProgJob}

/-- The fields of a job's commit record, as they are read from an array that holds it. -/
theorem commitNat_of_job (hcommit : a.commit = BitVec.ofNat 1048 (commitWord j)) (hblank : j.blank = false) :
    a.commit.toNat % 2 ^ 16 = 0xFF ∧ commitNat a 16 32 = j.gen % 2 ^ 32 ∧ commitNat a 48 32 = j.imageId % 2 ^ 32 ∧
    commitNat a 80 16 = j.layer % 2 ^ 16 ∧ commitNat a 96 16 = j.block % 2 ^ 16 ∧
    commitNat a 112 16 = commitCheck (j.gen % 2 ^ 32) (j.imageId % 2 ^ 32) (j.layer % 2 ^ 16) (j.block % 2 ^ 16) := by
  have hcheck : commitCheck (j.gen % 2 ^ 32) (j.imageId % 2 ^ 32) (j.layer % 2 ^ 16) (j.block % 2 ^ 16) < 2 ^ 16 := crc16_lt _
  have hgen := Nat.mod_lt j.gen (show 2 ^ 32 > 0 by decide)
  have himage := Nat.mod_lt j.imageId (show 2 ^ 32 > 0 by decide)
  have hlayer := Nat.mod_lt j.layer (show 2 ^ 16 > 0 by decide)
  have hblock := Nat.mod_lt j.block (show 2 ^ 16 > 0 by decide)
  have hword : a.commit.toNat = commitWord j := by
    have hlt : commitWord j < 2 ^ 128 := by rw [commitWord, hblank, if_neg Bool.false_ne_true]; omega
    rw [hcommit, toNat_ofNat_of_lt hlt (by decide)]
  simp only [commitNat, hword, commitWord, hblank, Bool.false_eq_true, if_false]
  refine ⟨?_, ?_, ?_, ?_, ?_, ?_⟩ <;> omega

theorem committed_of_job (hcommit : a.commit = BitVec.ofNat 1048 (commitWord j)) (hblank : j.blank = false) : committed a = true := by
  obtain ⟨hflag, hgen, himage, hlayer, hblock, hcheck⟩ := commitNat_of_job hcommit hblank
  have hset : onesIn a.commit.toNat 0 8 = 8 := by
    rw [← onesIn_mod _ (m := 16) (by decide), hflag]; decide
  have hclear : onesIn a.commit.toNat 8 8 = 0 := by
    rw [← onesIn_mod _ (m := 16) (by decide), hflag]; decide
  simp [committed, hset, hclear, hgen, himage, hlayer, hblock, hcheck]

/-- The commit fields of a blank job are at level 0: FLAG is not set (18 R422). -/
theorem committed_of_blank (hcommit : a.commit = BitVec.ofNat 1048 (commitWord j)) (hblank : j.blank = true) : committed a = false := by
  have hzero : a.commit.toNat = 0 := by rw [hcommit, commitWord, if_pos hblank]; exact BitVec.toNat_zero
  simp only [committed, hzero]
  have hset : onesIn 0 0 8 = 0 := by decide
  simp [hset]

end CommitRow

/-! ### FLAG cleared (13 R326) -/

theorem getLsbD_clearFlag (a : ArraySt) (b : Nat) :
    (clearFlag a).commit.getLsbD b = if b < 16 then decide (8 ≤ b) else a.commit.getLsbD b := by
  have hword : a.commit.toNat / 65536 * 65536 + flagCleared = 2 ^ 16 * (a.commit.toNat / 2 ^ 16) + flagCleared := by omega
  rw [clearFlag, BitVec.getLsbD_ofNat, hword, Nat.testBit_two_pow_mul_add _ (by decide)]
  split
  · have hb : b < 1048 := by omega
    have hflag : ∀ b < 16, flagCleared.testBit b = decide (8 ≤ b) := by decide
    simp [hb, hflag b ‹_›]
  · rw [Nat.testBit_div_two_pow, show b - 16 + 16 = b by omega, BitVec.testBit_toNat]
    by_cases hb : b < 1048
    · simp [hb]
    · simp [hb, BitVec.getLsbD_of_ge _ _ (Nat.le_of_not_lt hb)]

end Sys2Proof.Machine
end

section
/-! SUPPORT. The levels of an array without defective cells after a write (02 R27, 06 R158): every weight of a logical column lies on
the column itself, whatever spare column carries it too. -/

namespace Sys2Proof.Machine

/-- What one element of a list establishes, and no other undoes, holds after the list. -/
theorem foldl_establishes {α β : Type} {P : β → Prop} {f : β → α → β} {l : List α} {a : α} (ha : a ∈ l) (hset : ∀ m, P (f m a))
    (hkeep : ∀ b ∈ l, b ≠ a → ∀ m, P m → P (f m b)) (m : β) : P (l.foldl f m) := by
  induction l generalizing m with
  | nil => cases ha
  | cons b l ih =>
    have hl : ∀ c ∈ l, c ≠ a → ∀ m, P m → P (f m c) := fun c hc => hkeep c (List.mem_cons_of_mem b hc)
    by_cases hmem : a ∈ l
    · exact ih hmem hl (f m b)
    · obtain rfl : a = b := (List.mem_cons.mp ha).resolve_right hmem
      exact List.foldlRecOn (motive := P) l f (hset m) (fun u hu c hc => hl c hc (fun e => hmem (e ▸ hc)) u hu)

/-- A pair of cells is put at its levels. -/
def putPair (m : SMap Nat) (r phys : Nat) (lv : Nat × Nat) : SMap Nat :=
  mapPut 0 (mapPut 0 m (1048 * r + 2 * phys) lv.1) (1048 * r + 2 * phys + 1) lv.2

/-- A weight is put on its column, and on the spare column that carries it. -/
def putWeight (j : ProgJob) (place : Nat → Nat) (r : Nat) (m : SMap Nat) (c : Nat) : SMap Nat :=
  if place c = c then putPair m r c (jobLevels j r c) else putPair (putPair m r c (jobLevels j r c)) r (place c) (jobLevels j r c)

/-- Without defective cells a write puts every weight at the levels asked for. -/
theorem writtenLevels_sound (absorb : Bool) (n : Nat) (j : ProgJob) (place : Nat → Nat) : writtenLevels absorb n [] j place =
    (List.range 512).foldl (fun m r => (List.range 512).foldl (putWeight j place r) m) [] := rfl

/-- The pair of a signed column is at its levels. -/
def PairAt (m : SMap Nat) (r phys : Nat) (lv : Nat × Nat) : Prop :=
  mapGet 0 m (1048 * r + 2 * phys) = lv.1 ∧ mapGet 0 m (1048 * r + 2 * phys + 1) = lv.2

theorem pairAt_putPair_same (m : SMap Nat) (r phys : Nat) (lv : Nat × Nat) : PairAt (putPair m r phys lv) r phys lv :=
  ⟨(mapGet_mapPut_ne _ _ _ _ (by omega)).trans (mapGet_mapPut_same ..), mapGet_mapPut_same ..⟩

theorem pairAt_putPair_ne {m : SMap Nat} {r phys r' phys' : Nat} {lv : Nat × Nat} (lv' : Nat × Nat) (h : PairAt m r phys lv)
    (hphys : phys < 524) (hphys' : phys' < 524) (hne : r' ≠ r ∨ phys' ≠ phys) : PairAt (putPair m r' phys' lv') r phys lv := by
  obtain ⟨hplus, hminus⟩ := h
  unfold putPair
  constructor <;> rw [mapGet_mapPut_ne _ _ _ _ (by omega), mapGet_mapPut_ne _ _ _ _ (by omega)] <;> assumption

section Placed

/-- A column is carried by itself or by a spare column. -/
def Carried (place : Nat → Nat) : Prop := ∀ c, place c = c ∨ 512 ≤ place c ∧ place c < 520

variable (j : ProgJob) {place : Nat → Nat} (hplace : Carried place)
include hplace

theorem pairAt_putWeight_same (m : SMap Nat) (r : Nat) {c : Nat} (hc : c < 512) :
    PairAt (putWeight j place r m c) r c (jobLevels j r c) := by
  unfold putWeight
  split
  · exact pairAt_putPair_same ..
  · have hspare := (hplace c).resolve_left ‹_›
    exact pairAt_putPair_ne _ (pairAt_putPair_same ..) (by omega) (by omega) (.inr (by omega))

theorem pairAt_putWeight_ne {m : SMap Nat} {r c r' c' : Nat} {lv : Nat × Nat} (h : PairAt m r c lv) (hc : c < 512) (hc' : c' < 512)
    (hne : r' ≠ r ∨ c' ≠ c) : PairAt (putWeight j place r' m c') r c lv := by
  have hself := pairAt_putPair_ne (jobLevels j r' c') h (by omega) (by omega) hne
  unfold putWeight
  split
  · exact hself
  · have hspare := (hplace c').resolve_left ‹_›
    exact pairAt_putPair_ne _ hself (by omega) (by omega) (.inr (by omega))

/-- Every weight stands on its column at the levels asked for. -/
theorem pairAt_writtenLevels (absorb : Bool) (n : Nat) {r c : Nat} (hr : r < 512) (hc : c < 512) :
    PairAt (writtenLevels absorb n [] j place) r c (jobLevels j r c) := by
  rw [writtenLevels_sound]
  refine foldl_establishes (P := (PairAt · r c (jobLevels j r c))) (List.mem_range.mpr hr) (fun m => ?row) (fun r' _ hr' m hm => ?rows) []
  case row =>
    exact foldl_establishes (P := (PairAt · r c (jobLevels j r c))) (List.mem_range.mpr hc) (fun u => pairAt_putWeight_same j hplace u r hc)
      (fun c' hc' hne u hu => pairAt_putWeight_ne j hplace hu hc (List.mem_range.mp hc') (.inr hne)) m
  case rows =>
    exact List.foldlRecOn (motive := (PairAt · r c (jobLevels j r c))) _ _ hm
      (fun u hu c' hc' => pairAt_putWeight_ne j hplace hu hc (List.mem_range.mp hc') (.inl hr'))

end Placed

theorem carried_carrier (s : State) (k : Nat) : Carried (carrier s k) := by
  intro c
  unfold carrier
  split
  · have := List.mem_range.mp (List.mem_of_find?_eq_some ‹_›)
    right; omega
  · exact .inl rfl

/-- A job without values and without levels asks for level 0 everywhere (18 R422). -/
theorem jobLevels_of_empty {j : ProgJob} (htarget : j.target = []) (hlevels : j.levels = []) (r c : Nat) : jobLevels j r c = (0, 0) := by
  simp [jobLevels, jobValue, htarget, hlevels, mapFind, mapGet, nominal]

theorem writtenLevels_of_empty (absorb : Bool) (n : Nat) {j : ProgJob} (place : Nat → Nat) (htarget : j.target = []) (hlevels : j.levels = []) :
    writtenLevels absorb n [] j place = [] := by
  have hweight : ∀ r c, putWeight j place r [] c = [] := fun r c => by
    rw [putWeight, jobLevels_of_empty htarget hlevels]
    split <;> rfl
  rw [writtenLevels_sound]
  exact List.foldl_fixed' (fun r => List.foldl_fixed' (hweight r) _) _

end Sys2Proof.Machine
end

section
/-! SUPPORT. What the write of an array without defective cells leaves (13 R326, 06 R156-R160), and the request for a column run that
follows it (07 R174, R175). -/

namespace Sys2Proof.Machine

/-! ### The write -/

/-- Blanks what a write may change: words, tiles, arrays and the number of the next free value. -/
def butWrite (s : State) : State := { butWordsTiles s with arrays := [], freeNo := 0 }

theorem butWrite_of_butWords {s t : State} (h : t.butWords = s.butWords) : butWrite t = butWrite s :=
  congrArg (fun u : State => { u with tiles := [], arrays := [], freeNo := 0 }) h

theorem tiles_of_butWords {s t : State} (h : t.butWords = s.butWords) : t.tiles = s.tiles := (congrArg State.tiles h :)
theorem arrays_of_butWords {s t : State} (h : t.butWords = s.butWords) : t.arrays = s.arrays := (congrArg State.arrays h :)

theorem wr_butWords (s : State) (o : Nat) (v : W32) : (wr s o v).butWords = s.butWords := rfl
theorem wrF_butWords (s : State) (o hi lo v : Nat) : (wrF s o hi lo v).butWords = s.butWords := wr_butWords ..
theorem wbit_butWords (s : State) (o i : Nat) (b : Bool) : (wbit s o i b).butWords = s.butWords := wrF_butWords ..

theorem butWrite_modTile (s : State) (k : Nat) (f : TileSt → TileSt) : butWrite (modTile s k f) = butWrite s := rfl
theorem butWrite_setArray (s : State) (k : Nat) (a : ArraySt) : butWrite (setArray s k a) = butWrite s := rfl
theorem butWrite_useFreeN (s : State) (n : Nat) : butWrite (useFreeN n s) = butWrite s := rfl

theorem stackMem_of_butWrite {s t : State} (h : butWrite t = butWrite s) : t.stackMem = s.stackMem := (congrArg State.stackMem h :)
theorem store_of_butWrite {s t : State} (h : butWrite t = butWrite s) : t.store = s.store := (congrArg State.store h :)
theorem insts_of_butWrite {s t : State} (h : butWrite t = butWrite s) : t.insts = s.insts := (congrArg State.insts h :)
theorem retiredTiles_of_butWrite {s t : State} (h : butWrite t = butWrite s) : t.retiredTiles = s.retiredTiles :=
  (congrArg State.retiredTiles h :)
theorem sec_of_butWrite {s t : State} (h : butWrite t = butWrite s) : t.sec = s.sec := (congrArg State.sec h :)

@[simp] theorem arrayAt_setArray_same (s : State) (k : Nat) (a : ArraySt) : arrayAt (setArray s k a) k = a := mapGet_mapPut_same ..

/-- No cell is newly stuck or worn. -/
def noneFound (s : State) : State := incHold (incHold s (chReg 0x14) 32 0) (chReg 0x18) 32 0

/-- The array that a job writes, no cell being found defective. -/
def programmed (s : State) (k : Nat) (j : ProgJob) (ds : List Defect := []) : ArraySt :=
  { arrayAt s k with
    levels := writtenLevels (rbit s (chReg 0) 1) s.freeNo ds j (carrier (noneFound s) k), defects := ds
    cycles := (arrayAt s k).cycles + 1, age := 0, commit := BitVec.ofNat 1048 (commitWord j) }

/-- The array is stored, and its commit shown (02 Table 02.5, 13 Table 13.12). -/
def commitShown (s : State) (k : Nat) (a : ArraySt) : State :=
  let u := wbit (setArray s k a) (tileReg k 4) 8 (!committed a)
  if committed a then incWrap u (imgReg 0x1C) 1 else u

/-- The greatest program count is kept (06 Table 06.7). -/
def wearShown (s : State) (n : Nat) : State := if rdF s (chReg 0x34) 16 0 < n then wrF s (chReg 0x34) 16 0 n else s

/-- The array of a job is stored and shown, no cell being found defective. -/
def arrayStored (s : State) (k : Nat) (j : ProgJob) (ds : List Defect := []) : State :=
  wearShown (commitShown (noneFound s) k (programmed s k j ds)) (Nat.min ((arrayAt s k).cycles + 1) 0x1FFFF)

/-- What the write of a job leaves where no cell is defective. -/
def arrayWritten (s : State) (k : Nat) (j : ProgJob) : State :=
  useFreeN (1048 * 513) (incHold (arrayStored s k j) (chReg 0x1C) 32 0)

theorem badColumns_nil (s : State) (k : Nat) : badColumns s k [] = [] := List.filter_eq_nil_iff.mpr (fun _ _ h => nomatch h)

theorem writeArray_of_sound {s : State} {k : Nat} (h : (arrayAt s k).defects = []) (j : ProgJob) :
    writeArray s k j [] [] = (arrayWritten s k j, [], false) := by
  unfold writeArray
  extract_lets a nd all ds absorb s1 s2 a1 s3 s4 s5 cyc s6
  have hall : all = ([], 0, 0) := congrArg (·, 0, 0) h
  have hds : ds = [] := congrArg (fun x => x.1.take 256) hall
  have hstored : s6 = arrayStored s k j ds := rfl
  have hover : spareOver s6 k absorb ds j (badColumns s6 k ds) = (arrayStored s k j, []) := by
    rw [hstored, hds, badColumns_nil, spareOver]
  rw [hover, hall, hds]
  dsimp only
  rw [badColumns_nil]
  rfl

section Written

variable (s : State) (k : Nat) (j : ProgJob)

theorem noneFound_butWords : (noneFound s).butWords = s.butWords := (incHold_butWords ..).trans (incHold_butWords ..)

/-- Beside the array only words are written. -/
theorem commitShown_butWords (a : ArraySt) : (commitShown s k a).butWords = (setArray s k a).butWords := by
  unfold commitShown
  dsimp only
  split
  · rw [incWrap_butWords, wbit_butWords]
  · rw [wbit_butWords]

theorem wearShown_butWords (n : Nat) : (wearShown s n).butWords = s.butWords := by
  unfold wearShown
  split
  · exact wrF_butWords ..
  · rfl

theorem rd_wearShown_ne (n : Nat) {p : Nat} (h : p ≠ chReg 0x34) : rd (wearShown s n) p = rd s p := by
  unfold wearShown
  split
  · exact rd_wrF_ne s 16 0 n h
  · rfl

theorem arrayStored_butWords : (arrayStored s k j).butWords = (setArray (noneFound s) k (programmed s k j)).butWords :=
  (wearShown_butWords ..).trans (commitShown_butWords ..)

theorem arrayWritten_tiles : (arrayWritten s k j).tiles = s.tiles := by
  rw [arrayWritten, useFreeN_tiles, incHold_tiles, tiles_of_butWords (arrayStored_butWords s k j), setArray_tiles,
    tiles_of_butWords (noneFound_butWords s)]

theorem useFreeN_arrays (n : Nat) : (useFreeN n s).arrays = s.arrays := rfl

theorem setArray_arrays (a : ArraySt) : (setArray s k a).arrays = mapPut {} s.arrays k a := rfl

theorem arrayWritten_arrays : (arrayWritten s k j).arrays = (setArray s k (programmed s k j)).arrays := by
  rw [arrayWritten, useFreeN_arrays, incHold_arrays, arrays_of_butWords (arrayStored_butWords s k j), setArray_arrays, setArray_arrays,
    arrays_of_butWords (noneFound_butWords s)]

theorem butWrite_arrayWritten : butWrite (arrayWritten s k j) = butWrite s := by
  rw [arrayWritten, butWrite_useFreeN, butWrite_of_butWords (incHold_butWords ..), butWrite_of_butWords (arrayStored_butWords s k j),
    butWrite_setArray, butWrite_of_butWords (noneFound_butWords s)]

theorem arrayAt_arrayWritten_same : arrayAt (arrayWritten s k j) k = programmed s k j :=
  (arrayAt_of_arrays (arrayWritten_arrays s k j) k).trans (arrayAt_setArray_same ..)

theorem arrayAt_arrayWritten_ne {i : Nat} (h : i ≠ k) : arrayAt (arrayWritten s k j) i = arrayAt s i :=
  (arrayAt_of_arrays (arrayWritten_arrays s k j) i).trans (arrayAt_setArray_ne s _ h)

theorem tileReg_ne_chReg {a : Nat} (h : a < 0x2000) (b : Nat) : tileReg k a ≠ chReg b := chReg_ne_of_lt (tileReg_lt h)

theorem tileReg_ne_imgReg {a : Nat} (h : a < 0x2000) (b : Nat) : tileReg k a ≠ imgReg b := by
  have hlt := tileReg_lt (k := k) h
  unfold imgReg; omega

theorem imgReg_ne_chReg {a b : Nat} (h : b < 0x100) : imgReg a ≠ chReg b := by unfold imgReg chReg; omega

/-- Of a register that is no counter of cell health the write shows what the commit does. -/
theorem rd_arrayWritten_of_commitShown {p : Nat} (h : ∀ a < 0x100, p ≠ chReg a) :
    rd (arrayWritten s k j) p = rd (commitShown (noneFound s) k (programmed s k j)) p := by
  rw [arrayWritten, rd_of_cw (useFreeN_cw ..), rd_incHold_ne _ _ _ (h _ (by decide)), arrayStored, rd_wearShown_ne _ _ (h _ (by decide))]

theorem rd_noneFound_ne {p : Nat} (h : ∀ a < 0x100, p ≠ chReg a) : rd (noneFound s) p = rd s p := by
  rw [noneFound, rd_incHold_ne _ _ _ (h _ (by decide)), rd_incHold_ne _ _ _ (h _ (by decide))]

theorem rbit_commitShown_uncommitted (a : ArraySt) : rbit (commitShown s k a) (tileReg k 4) 8 = !committed a := by
  have hbit : rbit (wbit (setArray s k a) (tileReg k 4) 8 (!committed a)) (tileReg k 4) 8 = !committed a :=
    rbit_wbit_same _ _ _ (by decide)
  unfold commitShown
  dsimp only
  split
  · rw [rbit, rdF, rd_incWrap_ne _ _ (tileReg_ne_imgReg k (by decide) _)]
    exact hbit
  · exact hbit

theorem rd_commitShown_count {a : ArraySt} (h : committed a = true) : rd (commitShown s k a) (imgReg 0x1C) = rd s (imgReg 0x1C) + 1 := by
  unfold commitShown
  dsimp only
  rw [if_pos h, rd_incWrap_same, rd_wbit_ne _ _ _ (tileReg_ne_imgReg k (by decide) _).symm, rd_of_cw (setArray_cw ..)]
  rfl

theorem rbit_arrayWritten_uncommitted : rbit (arrayWritten s k j) (tileReg k 4) 8 = !committed (programmed s k j) := by
  rw [rbit, rdF, rd_arrayWritten_of_commitShown _ _ _ (fun a _ => tileReg_ne_chReg k (by decide) a)]
  exact rbit_commitShown_uncommitted _ k _

theorem rd_arrayWritten_count (h : committed (programmed s k j) = true) :
    rd (arrayWritten s k j) (imgReg 0x1C) = rd s (imgReg 0x1C) + 1 := by
  rw [rd_arrayWritten_of_commitShown _ _ _ (fun _ => imgReg_ne_chReg), rd_commitShown_count _ k h,
    rd_noneFound_ne _ (fun _ => imgReg_ne_chReg)]

end Written

end Sys2Proof.Machine
end

section
/-! SUPPORT. The request for a column run that follows a commit (07 R174, R175), and what else follows the write of an array without
defective cells, by what it was for (13 R326, 06 Table 06.3, 18 R422). -/

namespace Sys2Proof.Machine

/-! ### The state and the request of a tile -/

section Request

variable (s : State) (k : Nat)

theorem tileState_setTileState_same {v : Nat} (h : v < 8) : tileState (setTileState s k v) k = v :=
  (rdF_wrF_same s _ v (by decide) (by decide)).trans (Nat.mod_eq_of_lt h)

theorem rd_setTileState_ne (v : Nat) {p : Nat} (h : p ≠ tileReg k 4) : rd (setTileState s k v) p = rd s p := rd_wrF_ne s 2 0 v h

theorem rd_setCalStatus_ne (hi lo v : Nat) {p : Nat} (h : p ≠ tileReg k 0x1000) : rd (setCalStatus s k hi lo v) p = rd s p :=
  rd_wrF_ne s hi lo v h

theorem setCalStatus_butWords (hi lo v : Nat) : (setCalStatus s k hi lo v).butWords = s.butWords := wrF_butWords ..

theorem calClear_butWords : (calClear s k).butWords = s.butWords := (setCalStatus_butWords ..).trans (setCalStatus_butWords ..)

theorem calTrigger_butWords (row cls : Nat) : (calTrigger s k row cls).butWords = s.butWords := by
  unfold calTrigger
  split
  · rfl
  · dsimp only
    rw [setCalStatus_butWords, setCalStatus_butWords, incWrap_butWords]

theorem commitTrigger_butWords : (commitTrigger s k).butWords = s.butWords := by
  rw [commitTrigger, calTrigger_butWords, calClear_butWords]

theorem rd_commitTrigger_ne {p : Nat} (hstatus : p ≠ tileReg k 0x1000) (hcount : p ≠ trigCounter 1) :
    rd (commitTrigger s k) p = rd s p := by
  have hclear : rd (calClear s k) p = rd s p := by rw [calClear, rd_setCalStatus_ne _ _ _ _ _ hstatus, rd_setCalStatus_ne _ _ _ _ _ hstatus]
  unfold commitTrigger calTrigger
  dsimp only
  split
  · exact hclear
  · rw [rd_setCalStatus_ne _ _ _ _ _ hstatus, rd_setCalStatus_ne _ _ _ _ _ hstatus, rd_incWrap_ne _ _ hcount, hclear]

theorem tileReg_ne_trigCounter {a : Nat} (h : a < 0x2000) : tileReg k a ≠ trigCounter 1 := by
  have hlt := tileReg_lt (k := k) h
  have hcount : trigCounter 1 = calReg 0x1C := rfl
  rw [hcount]; unfold calReg; omega

variable {s k}

/-- An IDLE tile that no run occupies asks for a column run in row 1, whatever was pending. -/
theorem commitTrigger_asks (hidle : tileState s k = 1) (hrun : (tileAt s k).calRun = none) :
    calStatus (commitTrigger s k) k 4 3 = 2 ∧ calStatus (commitTrigger s k) k 12 10 = 1 := by
  have hcls : calStatus (calClear s k) k 4 3 = 0 :=
    (rdF_wrF_other _ _ _ (by decide) (by decide) (by decide) (.inl (by decide))).trans (rdF_wrF_same s _ 0 (by decide) (by decide))
  have hcls' : calStatus (incWrap (calClear s k) (trigCounter 1) 1) k 4 3 = 0 := by
    rw [← hcls, calStatus, calStatus, rdF, rdF, rd_incWrap_ne _ _ (tileReg_ne_trigCounter k (by decide))]
  have hrow : calStatus (calClear s k) k 12 10 = 0 := rdF_wrF_same _ _ 0 (by decide) (by decide)
  have hstate : tileState (calClear s k) k = 1 := by
    rw [← hidle, tileState, tileState, rdF, rdF, calClear, rd_setCalStatus_ne _ _ _ _ _ (tileReg_ne (by decide)),
      rd_setCalStatus_ne _ _ _ _ _ (tileReg_ne (by decide))]
  have hdeaf : calDeaf (calClear s k) k = false := by
    have hrun' : (tileAt (calClear s k) k).calRun = none := by
      rwa [tileAt_of_tiles (tiles_of_butWords (calClear_butWords s k))]
    simp [calDeaf, hstate, hrun']
  have hcover : calCovered (calClear s k) k 1 2 = false := by simp [calCovered, hcls]
  have htrigger : commitTrigger s k = setCalStatus (setCalStatus (incWrap (calClear s k) (trigCounter 1) 1) k 4 3 2) k 12 10 1 := by
    rw [commitTrigger, calTrigger, hdeaf, hcover, if_neg (by decide)]
    dsimp only
    rw [hcls', hrow]
    rfl
  rw [htrigger]
  exact ⟨(rdF_wrF_other _ _ _ (by decide) (by decide) (by decide) (.inl (by decide))).trans (rdF_wrF_same _ _ 2 (by decide) (by decide)),
    rdF_wrF_same _ _ 1 (by decide) (by decide)⟩

end Request

/-! ### What follows -/

/-- A job is over. -/
def withoutJob (j : ProgJob) (x : TileSt) : TileSt := { x with prog := none, zeroed := j.blank && j.target.isEmpty }

/-- The spare tile of a slot is placed: H2 (06 Table 06.3). -/
def sparePlaced (x : TileSt) : TileSt := { x with refresh := some .h2 }

/-- A job's write is over and its tile is in a state again. -/
def tileWritten (s : State) (k : Nat) (j : ProgJob) (v : Nat) : State :=
  setTileState (modTile (arrayWritten s k j) k (withoutJob j)) k v

section After

variable (s : State) (k : Nat) (j : ProgJob)

theorem postResids_nil : postResids s [] = s := rfl

theorem handleResiduals_nil : handleResiduals s k j [] false = s := by
  have hpost : postResiduals s k j [] = s := by
    unfold postResiduals
    dsimp only
    split <;> exact postResids_nil s
  rw [handleResiduals, hpost]
  simp [shadowResiduals]

theorem afterWrite_of_contents (hwhy : j.why = .load ∨ j.why = .rewrite) :
    afterWrite (arrayWritten s k j) k j [] false = commitTrigger (tileWritten s k j 1) k := by
  unfold afterWrite
  rcases hwhy with h | h <;> rw [h] <;> dsimp only <;> rw [handleResiduals_nil] <;> rfl

theorem afterWrite_of_clear (hwhy : j.why = .clear) :
    afterWrite (arrayWritten s k j) k j [] false = tileWritten s k j (if s.retiredTiles.contains k then 5 else 1) := by
  have hretired : (arrayWritten s k j).retiredTiles = s.retiredTiles := 
    retiredTiles_of_butWrite (butWrite_arrayWritten s k j)
  unfold afterWrite
  rw [hwhy]
  dsimp only
  rw [modTile_retiredTiles, hretired]
  rfl

theorem tileAt_arrayWritten (i : Nat) : tileAt (arrayWritten s k j) i = tileAt s i := tileAt_of_tiles (arrayWritten_tiles s k j) i

theorem tileAt_tileWritten_same (v : Nat) : tileAt (tileWritten s k j v) k = withoutJob j (tileAt s k) := by
  rw [tileWritten, setTileState, tileAt_of_tiles (wrF_tiles ..), tileAt_modTile_same, tileAt_arrayWritten]

theorem tileAt_tileWritten_ne (v : Nat) {i : Nat} (h : i ≠ k) : tileAt (tileWritten s k j v) i = tileAt s i := by
  rw [tileWritten, setTileState, tileAt_of_tiles (wrF_tiles ..), tileAt_modTile_ne _ _ h, tileAt_arrayWritten]

/-- On a spare tile that has been placed for slot `m` the refresh of `m` goes on to H2. -/
theorem afterWrite_of_spare {m : Nat} (hwhy : j.why = .refresh ∨ j.why = .cover) (hk : k % 32 = 16)
    (hlast : (tileAt s k).lastServed = some m) (hm : m ≠ k) (hplace : (tileAt s m).refresh ≠ some .inPlace) :
    afterWrite (arrayWritten s k j) k j [] false = commitTrigger (modTile (tileWritten s k j 1) m sparePlaced) k := by
  unfold afterWrite
  generalize hgen : modTile (arrayWritten s k j) k _ = u
  have hu : u = modTile (arrayWritten s k j) k (withoutJob j) := hgen.symm
  have hlast' : (tileAt u k).lastServed = some m := by
    rw [hu, tileAt_modTile_same, tileAt_arrayWritten]; exact hlast
  have hcontents : (contentsOf u k).getD k = m := by rw [contentsOf, if_pos hk, hlast']; rfl
  have hother : (tileAt u m).refresh ≠ some .inPlace := by
    rwa [hu, tileAt_modTile_ne _ _ hm, tileAt_arrayWritten]
  have hstate : setTileState u k 1 = tileWritten s k j 1 := congrArg (setTileState · k 1) hu
  rcases hwhy with h | h
  all_goals
    rw [h]
    dsimp only
    rw [hcontents, if_neg hother, if_pos hk, hlast']
    dsimp only
    rw [List.isEmpty_nil, if_pos rfl, handleResiduals_nil, hstate]
    rfl

end After

end Sys2Proof.Machine
end

section
/-! PROOF. O56: an array write completes (06 R156-R160, 13 R325, R326, 18 R422). -/

namespace Sys2Proof.Machine

theorem execArrayWriteComplete_eq {site slot : Nat} (h : tileWf site slot = true) (found : List Defect) (misread : List Nat) (s : State) :
    exec (.arrayWriteComplete site slot found misread) s = .next (spoonWake (writeComplete s (tkey site slot) found misread)) :=
  onUnit_of_true h _

theorem writeComplete_of_notStarted {s : State} {k : Nat} (found : List Defect) (misread : List Nat)
    (h : ∀ j, (tileAt s k).prog = some j → j.started = false) : writeComplete s k found misread = s := by
  unfold writeComplete
  split
  · rfl
  · rename_i j hj
    rw [h j hj, if_neg Bool.false_ne_true]

theorem writeComplete_of_sound {s : State} {k : Nat} {j : ProgJob} (hprog : (tileAt s k).prog = some j) (hstarted : j.started = true)
    (hsound : (arrayAt s k).defects = []) :
    writeComplete s k [] [] = clearAfter (afterWrite (arrayWritten s k j) k j [] false) k := by
  rw [writeComplete, hprog]
  dsimp only
  rw [if_pos hstarted, writeArray_of_sound hsound]

/-! ### An array whose site is being cleared (18 R422) -/

theorem clearAfter_of_notClearing {s : State} {k : Nat} (h : ∀ c ∈ s.sec.clearing, c.1 ≠ 1 ∨ c.2.1 ≠ clearSite s k) :
    clearAfter s k = s := by
  have hnone : s.sec.clearing.any (fun c => c.1 == 1 && c.2.1 == clearSite s k) = false := by
    rw [List.any_eq_false]
    intro c hc
    have := h c hc
    simp only [Bool.and_eq_true, beq_iff_eq]
    tauto
  rw [clearAfter, hnone, Bool.false_and, Bool.false_and, if_neg Bool.false_ne_true]

theorem clearAfter_of_zeroed {s : State} {k : Nat} (h : (tileAt s k).zeroed = true) : clearAfter s k = s := by
  rw [clearAfter, h, Bool.not_true, Bool.and_false, if_neg Bool.false_ne_true]

theorem clearSite_congr {s t : State} {k : Nat} (h : (tileAt t k).lastServed = (tileAt s k).lastServed) : clearSite t k = clearSite s k := by
  unfold clearSite; rw [h]

/-- A site that is not being cleared before the write is not afterwards. -/
theorem notClearing_congr {s t : State} {k : Nat} (hrest : butWrite t = butWrite s) (hlast : (tileAt t k).lastServed = (tileAt s k).lastServed)
    (h : ∀ c ∈ s.sec.clearing, c.1 ≠ 1 ∨ c.2.1 ≠ clearSite s k) : ∀ c ∈ t.sec.clearing, c.1 ≠ 1 ∨ c.2.1 ≠ clearSite t k := by
  rwa [sec_of_butWrite hrest, clearSite_congr hlast]

/-! ### The array that is written -/

section Programmed

variable (s : State) (k : Nat) (j : ProgJob)

theorem programmed_levels : (programmed s k j).levels =
    writtenLevels (rbit s (chReg 0) 1) s.freeNo [] j (carrier (noneFound s) k) := by rw [programmed]

theorem levels_programmed {r c : Nat} (hr : r < 512) (hc : c < 512) : PairAt (programmed s k j).levels r c (jobLevels j r c) := by
  rw [programmed_levels]
  exact pairAt_writtenLevels j (carried_carrier _ k) _ _ hr hc

variable {j}

theorem committed_programmed (h : j.blank = false) : committed (programmed s k j) = true := committed_of_job rfl h

theorem levels_programmed_of_empty (htarget : j.target = []) (hlevels : j.levels = []) (c : Nat) : mapGet 0 (programmed s k j).levels c = 0 := by
  rw [programmed_levels, writtenLevels_of_empty _ _ _ htarget hlevels]
  rfl

end Programmed

/-! ### Tiles and registers after the write -/

section TileWritten

variable (s : State) (k : Nat) (j : ProgJob)

theorem tileWritten_arrays (v : Nat) : (tileWritten s k j v).arrays = (arrayWritten s k j).arrays :=
  (wrF_arrays ..).trans (modTile_arrays ..)

theorem butWrite_setTileState (v : Nat) : butWrite (setTileState s k v) = butWrite s := butWrite_of_butWords (wrF_butWords ..)

theorem butWrite_tileWritten (v : Nat) : butWrite (tileWritten s k j v) = butWrite s := by
  rw [tileWritten, butWrite_setTileState, butWrite_modTile, butWrite_arrayWritten]

theorem rd_tileWritten_ne (v : Nat) {p : Nat} (h : p ≠ tileReg k 4) : rd (tileWritten s k j v) p = rd (arrayWritten s k j) p :=
  (rd_setTileState_ne _ k v h).trans (rd_of_cw (modTile_cw ..) p)

theorem rbit_tileWritten_uncommitted (v : Nat) : rbit (tileWritten s k j v) (tileReg k 4) 8 = !committed (programmed s k j) := by
  rw [← rbit_arrayWritten_uncommitted, rbit, rbit, tileWritten, setTileState, rdF_wrF_other _ _ _ (by decide) (by decide) (by decide) (.inr (by decide)),
    rdF_of_cw (modTile_cw ..)]

theorem noRunWaits_tileWritten {s : State} (h : NoRunWaits s) (v : Nat) : NoRunWaits (tileWritten s k j v) := by
  have hwritten := noRunWaits_of_tiles h (arrayWritten_tiles s k j)
  have hover : NoRunWaits (modTile (arrayWritten s k j) k (withoutJob j)) := noRunWaits_modTile hwritten k (fun _ => rfl)
  exact noRunWaits_of_tiles hover (wrF_tiles ..)

theorem commitTrigger_tiles : (commitTrigger s k).tiles = s.tiles := tiles_of_butWords (commitTrigger_butWords s k)
theorem tileAt_commitTrigger (i : Nat) : tileAt (commitTrigger s k) i = tileAt s i := tileAt_of_tiles (commitTrigger_tiles s k) i
theorem commitTrigger_arrays : (commitTrigger s k).arrays = s.arrays := arrays_of_butWords (commitTrigger_butWords s k)
theorem butWrite_commitTrigger : butWrite (commitTrigger s k) = butWrite s := butWrite_of_butWords (commitTrigger_butWords s k)

theorem tileState_commitTrigger : tileState (commitTrigger s k) k = tileState s k := by
  rw [tileState, tileState, rdF, rdF, rd_commitTrigger_ne _ _ (tileReg_ne (by decide)) (tileReg_ne_trigCounter k (by decide))]

end TileWritten

/-! ### Contents are written -/

/-- What the write of a job that brings contents has left, before the array asks for a column run. -/
structure ContentsWritten (s : State) (k : Nat) (j : ProgJob) (u : State) : Prop where
  words  : u.cw = (tileWritten s k j 1).cw
  arrays : u.arrays = (arrayWritten s k j).arrays
  rest   : butWrite u = butWrite s
  tile   : tileAt u k = withoutJob j (tileAt s k)
  runs   : NoRunWaits u

theorem contentsWritten_tileWritten {s : State} (k : Nat) (j : ProgJob) (h : NoRunWaits s) : ContentsWritten s k j (tileWritten s k j 1) :=
  ⟨rfl, tileWritten_arrays s k j 1, butWrite_tileWritten s k j 1, tileAt_tileWritten_same s k j 1, noRunWaits_tileWritten k j h 1⟩

theorem contentsWritten_sparePlaced {s : State} {k m : Nat} (j : ProgJob) (h : NoRunWaits s) (hm : m ≠ k) :
    ContentsWritten s k j (modTile (tileWritten s k j 1) m sparePlaced) :=
  ⟨modTile_cw .., (modTile_arrays ..).trans (tileWritten_arrays s k j 1), (butWrite_modTile ..).trans (butWrite_tileWritten s k j 1),
    (tileAt_modTile_ne _ _ hm.symm).trans (tileAt_tileWritten_same s k j 1), noRunWaits_modTile (noRunWaits_tileWritten k j h 1) m (fun _ => rfl)⟩

namespace ContentsWritten

variable {s u : State} {k : Nat} {j : ProgJob} (h : ContentsWritten s k j u)
include h

theorem arrayAt_same : arrayAt (commitTrigger u k) k = programmed s k j :=
  (arrayAt_of_arrays ((commitTrigger_arrays u k).trans h.arrays) k).trans (arrayAt_arrayWritten_same s k j)

theorem arrayAt_ne {i : Nat} (hi : i ≠ k) : arrayAt (commitTrigger u k) i = arrayAt s i :=
  (arrayAt_of_arrays ((commitTrigger_arrays u k).trans h.arrays) i).trans (arrayAt_arrayWritten_ne s k j hi)

theorem butWrite_eq : butWrite (commitTrigger u k) = butWrite s := (butWrite_commitTrigger u k).trans h.rest

theorem tileAt_same : tileAt (commitTrigger u k) k = withoutJob j (tileAt s k) :=
  (tileAt_commitTrigger u k k).trans h.tile

theorem tileState_before : tileState u k = 1 :=
  (rdF_of_cw h.words _ 2 0).trans (tileState_setTileState_same _ k (by decide))

theorem tileState_eq : tileState (commitTrigger u k) k = 1 := (tileState_commitTrigger u k).trans h.tileState_before

theorem asks (hrun : (tileAt s k).calRun = none) :
    calStatus (commitTrigger u k) k 4 3 = 2 ∧ calStatus (commitTrigger u k) k 12 10 = 1 :=
  commitTrigger_asks h.tileState_before (h.tile ▸ hrun)

theorem uncommitted (hblank : j.blank = false) : rbit (commitTrigger u k) (tileReg k 4) 8 = false := by
  rw [rbit, rdF, rd_commitTrigger_ne _ _ (tileReg_ne (by decide)) (tileReg_ne_trigCounter k (by decide)), rd_of_cw h.words]
  refine (rbit_tileWritten_uncommitted s k j 1).trans ?_
  rw [committed_programmed s k hblank, Bool.not_true]

theorem count (hblank : j.blank = false) : rd (commitTrigger u k) (imgReg 0x1C) = rd s (imgReg 0x1C) + 1 := by
  have hcount : imgReg 0x1C ≠ trigCounter 1 := by decide
  rw [rd_commitTrigger_ne _ _ (tileReg_ne_imgReg k (by decide) _).symm hcount, rd_of_cw h.words,
    rd_tileWritten_ne _ _ _ _ (tileReg_ne_imgReg k (by decide) _).symm, rd_arrayWritten_count _ _ _ (committed_programmed s k hblank)]

/-- The command ends with the request, where the site is not being cleared. -/
theorem exec_eq {site slot : Nat} (hk : k = tkey site slot) (hwf : tileWf site slot = true) (hprog : (tileAt s k).prog = some j)
    (hstarted : j.started = true) (hsound : (arrayAt s k).defects = [])
    (hclear : ∀ c ∈ s.sec.clearing, c.1 ≠ 1 ∨ c.2.1 ≠ clearSite s k)
    (hafter : afterWrite (arrayWritten s k j) k j [] false = commitTrigger u k) :
    exec (.arrayWriteComplete site slot [] []) s = .next (commitTrigger u k) := by
  have hlast : (tileAt (commitTrigger u k) k).lastServed = (tileAt s k).lastServed := by rw [h.tileAt_same]; rfl
  rw [execArrayWriteComplete_eq hwf, ← hk, writeComplete_of_sound hprog hstarted hsound, hafter,
    clearAfter_of_notClearing (notClearing_congr h.butWrite_eq hlast hclear),
    spoonWake_of_noRunWaits (noRunWaits_of_tiles h.runs (commitTrigger_tiles u k))]

end ContentsWritten

end Sys2Proof.Machine
end

section
/-! PROOF. O56: arrays become due, refreshes start on the spare tile or in place, and a write starts with FLAG (06 R148-R154, 13 R326). -/

namespace Sys2Proof.Machine

/-! ### REFRESH_DUE (06 R148, R150) -/

/-- A slot is due for refresh, or no longer. -/
def withDue (b : Bool) (x : TileSt) : TileSt := { x with due := b }

theorem execRefreshDue_eq {site slot : Nat} (h : tileWf site slot = true) (s : State) :
    exec (.refreshDue site slot) s = .next (refreshDue s (tkey site slot)) := onUnit_of_true h _

theorem refreshDue_eq {s : State} {k m : Nat} (h : memberOf s k = some m) : refreshDue s k =
    if rbit s (chReg 0) 0 && (tileAt s m).shadowIn && tileState s k == 2 && (tileAt s m).owner.isSome &&
        (decide (refreshPeriod s ≤ (arrayAt s k).age) || (tileAt s m).early || (tileAt s m).driftAgain) then
      modTile s m (withDue true)
    else s := by
  rw [refreshDue, h]; rfl

/-! ### REFRESH_START (06 R151-R155) -/

theorem execRefreshStart_eq {site slot : Nat} (h : tileWf site slot = true) (s : State) :
    exec (.refreshStart site slot) s = .next (refreshStart s (tkey site slot)) := onUnit_of_true h _

/-- What keeps a due refresh from starting, on slot `m` and the tile `k` that serves it, or elsewhere (06 R153, R155). -/
def refreshHeld (s : State) (k m : Nat) : Bool :=
  !(rbit s (chReg 0) 0 && (tileAt s m).due && (tileAt s m).shadowIn && tileState s k == 2 && (tileAt s m).refresh.isNone &&
    (tileAt s k).calRun.isNone) || pairRefreshing s m || rewriteWaits s m || loadWaits s ||
  decide (Nat.max 1 (rdF s (chReg 4) 23 16) ≤ refreshActive s)

theorem refreshStart_eq {s : State} {k m : Nat} (h : memberOf s k = some m) : refreshStart s k =
    if refreshHeld s k m then s
    else if k = m && spareAvailable s m then modTile (placeSpare s m .refresh) m (withDue false)
    else if atBoundary s m then refreshInPlace s k m
    else s := by
  rw [refreshStart, h]; rfl

/-! ### On the spare tile -/

theorem slot_lt_of_spareAvailable {s : State} {k : Nat} (h : spareAvailable s k = true) : k % 32 ≠ 16 := by
  simp only [spareAvailable, spareIdle, Bool.and_eq_true, bne_iff_ne] at h
  obtain ⟨⟨⟨⟨⟨⟨⟨hslot, -⟩, -⟩, -⟩, -⟩, -⟩, -⟩, -⟩ := h
  exact hslot

theorem spareKey_ne {k : Nat} (h : k % 32 ≠ 16) : spareKey k ≠ k := by
  obtain ⟨site, hspare⟩ : ∃ site, spareKey k = tkey site 16 := ⟨_, rfl⟩
  rw [hspare]; unfold tkey; omega

/-- H1: the refresh of slot `m` has started on its spare tile. -/
def spareStarted (s : State) (m : Nat) : State := modTile (placeSpare s m .refresh) m (withDue false)

section SpareStarted

variable (s : State) {m : Nat}

theorem butWordsTiles_spareStarted : butWordsTiles (spareStarted s m) = butWordsTiles s := by
  rw [spareStarted, placeSpare, placeSpareJob, butWordsTiles_modTile, butWordsTiles_modTile, setTileState, butWordsTiles_wrF,
    butWordsTiles_modTile]

theorem spareStarted_cw : (spareStarted s m).cw =
    (setTileState (modTile s (spareKey m) (fun t => { t with prog := some (replaceJob s m .refresh), lastServed := some m }))
      (spareKey m) 3).cw := by
  rw [spareStarted, placeSpare, placeSpareJob, modTile_cw, modTile_cw]

theorem tileState_spareStarted : tileState (spareStarted s m) (spareKey m) = 3 :=
  (rdF_of_cw (spareStarted_cw s) _ 2 0).trans (tileState_setTileState_same _ _ (by decide))

theorem rd_spareStarted_ne {p : Nat} (h : p ≠ tileReg (spareKey m) 4) : rd (spareStarted s m) p = rd s p := by
  rw [rd_of_cw (spareStarted_cw s), rd_setTileState_ne _ _ _ h, rd_of_cw (modTile_cw ..)]

theorem tileAt_spareStarted_slot (h : spareKey m ≠ m) :
    tileAt (spareStarted s m) m = { tileAt s m with refresh := some .h1, due := false } := by
  rw [spareStarted, placeSpare, placeSpareJob, tileAt_modTile_same, tileAt_modTile_same, setTileState, tileAt_of_tiles (wrF_tiles ..),
    tileAt_modTile_ne _ _ h.symm]
  rfl

theorem tileAt_spareStarted_spare (h : spareKey m ≠ m) : tileAt (spareStarted s m) (spareKey m) =
    { tileAt s (spareKey m) with prog := some (replaceJob s m .refresh), lastServed := some m } := by
  rw [spareStarted, placeSpare, placeSpareJob, tileAt_modTile_ne _ _ h, tileAt_modTile_ne _ _ h, setTileState, tileAt_of_tiles (wrF_tiles ..),
    tileAt_modTile_same]

theorem tileAt_spareStarted_ne {i : Nat} (hm : i ≠ m) (hspare : i ≠ spareKey m) : tileAt (spareStarted s m) i = tileAt s i := by
  rw [spareStarted, placeSpare, placeSpareJob, tileAt_modTile_ne _ _ hm, tileAt_modTile_ne _ _ hm, setTileState, tileAt_of_tiles (wrF_tiles ..),
    tileAt_modTile_ne _ _ hspare]

end SpareStarted

/-! ### In place (06 R154) -/

/-- A tile's job, and the step and DUE of its refresh. -/
def refreshSteps (x : TileSt) : Option ProgJob × Option RefreshStage × Bool := (x.prog, x.refresh, x.due)

/-- Leaves what a refresh in place has begun: the steps of every tile, the state of tile `k`, the other tiles whole, arrays and
instances. -/
structure KeepsBegun (k : Nat) (s t : State) : Prop where
  state  : tileState t k = tileState s k
  steps  : ∀ i, refreshSteps (tileAt t i) = refreshSteps (tileAt s i)
  others : ∀ i, i ≠ k → tileAt t i = tileAt s i
  arrays : t.arrays = s.arrays
  insts  : t.insts = s.insts

theorem KeepsBegun.prog {k : Nat} {s t : State} (h : KeepsBegun k s t) (i : Nat) : (tileAt t i).prog = (tileAt s i).prog :=
  congrArg Prod.fst (h.steps i)

theorem KeepsBegun.refresh {k : Nat} {s t : State} (h : KeepsBegun k s t) (i : Nat) : (tileAt t i).refresh = (tileAt s i).refresh :=
  congrArg (·.2.1) (h.steps i)

theorem KeepsBegun.due {k : Nat} {s t : State} (h : KeepsBegun k s t) (i : Nat) : (tileAt t i).due = (tileAt s i).due :=
  congrArg (·.2.2) (h.steps i)

theorem KeepsBegun.refl (k : Nat) (s : State) : KeepsBegun k s s := ⟨rfl, fun _ => rfl, fun _ _ => rfl, rfl, rfl⟩

/-- The words, tiles, arrays and instances: none of them in a core or its store. -/
def outsideCores (s : State) : SMap W32 × SMap TileSt × SMap ArraySt × SMap Instance := (s.cw, s.tiles, s.arrays, s.insts)

theorem outsideCores_loadBlock (s : State) (site m : Nat) : outsideCores (loadBlock s site m) = outsideCores s := by
  unfold loadBlock
  split
  · rfl
  · split <;> rfl

theorem sfbSlotReg_ne_tileReg {k a : Nat} (h : a < 0x2000) (site slot o : Nat) : tileReg k a ≠ sfbSlotReg site slot o := by
  have hlt := tileReg_lt (k := k) h
  unfold sfbSlotReg; omega

theorem keepsBegun_coverGrant (k : Nat) (s : State) (site head : Nat) : KeepsBegun k s (coverGrant s site head) := by
  have hload : outsideCores ((chainMembers s site head).foldl (fun s t => loadBlock s site (tkey site t)) s) = outsideCores s :=
    foldl_view (fun t _ u => outsideCores_loadBlock u site (tkey site t)) s
  simp only [outsideCores, Prod.mk.injEq] at hload
  obtain ⟨hcw, htiles, harrays, hinsts⟩ := hload
  have htiles' : (coverGrant s site head).tiles = s.tiles := htiles
  refine ⟨?_, fun i => by rw [tileAt_of_tiles htiles'], fun i _ => tileAt_of_tiles htiles' i, harrays, hinsts⟩
  rw [tileState, tileState, rdF, rdF, coverGrant, rd_of_cw (modCore_cw ..), addGrant, setFbState,
    rd_wrF_ne _ _ _ _ (sfbSlotReg_ne_tileReg (by decide) _ _ _), rd_of_cw (modCore_cw ..), rd_of_cw hcw]

/-- Passes that need the tile wait from a time on. -/
def withHold (t : Option W64) (x : TileSt) : TileSt := { x with holdFrom := t }

theorem keepsBegun_hold (k : Nat) (s : State) (t : Option W64) : KeepsBegun k s (modTile s k (withHold t)) :=
  ⟨rfl, fun i => tileAt_modTile_view s (v := refreshSteps) (f := withHold t) (fun _ => rfl) i k, fun _ hi => tileAt_modTile_ne s _ hi, rfl, rfl⟩

/-- The tile that serves slot `m` takes the job, and the slot is no longer due. -/
def inPlaceBegun (s : State) (k m : Nat) : State :=
  modTile (setTileState (modTile s k (fun x => { x with prog := some (replaceJob s m .refresh) })) k 3) m
    (fun x => { x with refresh := some .inPlace, due := false })

section InPlaceBegun

variable (s : State) (k m : Nat)

/-- A granted slice needs nothing more, a slot is granted as cover, or passes wait. -/
theorem keepsBegun_refreshInPlace : KeepsBegun k (inPlaceBegun s k m) (refreshInPlace s k m) := by
  unfold refreshInPlace
  dsimp only
  split
  · exact .refl k _
  · split
    · exact keepsBegun_coverGrant k _ _ _
    · exact keepsBegun_hold k _ _

theorem tileState_inPlaceBegun : tileState (inPlaceBegun s k m) k = 3 :=
  (rdF_of_cw (modTile_cw ..) _ 2 0).trans (tileState_setTileState_same _ k (by decide))

theorem prog_inPlaceBegun : (tileAt (inPlaceBegun s k m) k).prog = some (replaceJob s m .refresh) := by
  have hview := tileAt_modTile_view (setTileState (modTile s k (fun x => { x with prog := some (replaceJob s m .refresh) })) k 3)
    (v := TileSt.prog) (f := fun x => { x with refresh := some .inPlace, due := false }) (fun _ => rfl) k m
  rw [inPlaceBegun, hview, setTileState, tileAt_of_tiles (wrF_tiles ..), tileAt_modTile_same]

theorem refresh_inPlaceBegun : (tileAt (inPlaceBegun s k m) m).refresh = some .inPlace ∧ (tileAt (inPlaceBegun s k m) m).due = false := by
  rw [inPlaceBegun, tileAt_modTile_same]
  exact ⟨rfl, rfl⟩

theorem tileAt_inPlaceBegun_ne {i : Nat} (hk : i ≠ k) (hm : i ≠ m) : tileAt (inPlaceBegun s k m) i = tileAt s i := by
  rw [inPlaceBegun, tileAt_modTile_ne _ _ hm, setTileState, tileAt_of_tiles (wrF_tiles ..), tileAt_modTile_ne _ _ hk]

theorem inPlaceBegun_arrays : (inPlaceBegun s k m).arrays = s.arrays := by
  rw [inPlaceBegun, modTile_arrays, setTileState, wrF_arrays, modTile_arrays]

theorem inPlaceBegun_insts : (inPlaceBegun s k m).insts = s.insts := by
  rw [inPlaceBegun, modTile_insts, setTileState, wrF_insts, modTile_insts]

end InPlaceBegun

/-! ### ARRAY_PROGRAM_START (13 R326) -/

theorem execArrayProgramStart_eq {site slot : Nat} (h : tileWf site slot = true) (s : State) :
    exec (.arrayProgramStart site slot) s = .next (programStart s (tkey site slot)) := onUnit_of_true h _

/-- A job whose write has started. -/
def withJob (j : ProgJob) (x : TileSt) : TileSt := { x with prog := some j }

/-- The write of a job has started: the tile is PROGRAMMING, FLAG is cleared, and its calibration is not valid. -/
def programBegun (s : State) (k : Nat) (j : ProgJob) : State :=
  setCalStatus (setTileState (setArray (modTile s k (withJob { j with started := true })) k (clearFlag (arrayAt s k))) k 3) k 7 7 0

theorem programStart_eq {s : State} {k : Nat} {j : ProgJob} (h : (tileAt s k).prog = some j) : programStart s k =
    if j.started ∨ mayProgram s k j = false then s else programBegun s k j := by
  rw [programStart, h]; rfl

/-- Blanks words, tiles and arrays. -/
def butProgram (s : State) : State := { butWordsTiles s with arrays := [] }

theorem eq_withProgram {s t : State} (h : butProgram t = butProgram s) : t = { s with cw := t.cw, tiles := t.tiles, arrays := t.arrays } :=
  congrArg (fun u : State => { u with cw := t.cw, tiles := t.tiles, arrays := t.arrays }) h

section ProgramBegun

variable (s : State) (k : Nat) (j : ProgJob)

theorem programBegun_tiles : (programBegun s k j).tiles = (modTile s k (withJob { j with started := true })).tiles := by
  rw [programBegun, setCalStatus, wrF_tiles, setTileState, wrF_tiles, setArray_tiles]

theorem programBegun_arrays : (programBegun s k j).arrays = (setArray s k (clearFlag (arrayAt s k))).arrays := by
  rw [programBegun, setCalStatus, wrF_arrays, setTileState, wrF_arrays, setArray_arrays, setArray_arrays, modTile_arrays]

theorem butProgram_programBegun : butProgram (programBegun s k j) = butProgram s := by
  have hwords : ∀ (u : State) (o hi lo v : Nat), butProgram (wrF u o hi lo v) = butProgram u := fun _ _ _ _ _ => rfl
  have harray : ∀ (u : State) (a : ArraySt), butProgram (setArray u k a) = butProgram u := fun _ _ => rfl
  have htile : ∀ (u : State) (f : TileSt → TileSt), butProgram (modTile u k f) = butProgram u := fun _ _ => rfl
  rw [programBegun, setCalStatus, hwords, setTileState, hwords, harray, htile]

theorem tileState_programBegun : tileState (programBegun s k j) k = 3 := by
  rw [tileState, rdF, programBegun, rd_setCalStatus_ne _ _ _ _ _ (tileReg_ne (by decide))]
  exact tileState_setTileState_same _ k (by decide)

theorem calStatus_programBegun : calStatus (programBegun s k j) k 7 7 = 0 := rdF_wrF_same _ _ 0 (by decide) (by decide)

theorem rd_programBegun_ne {p : Nat} (hstate : p ≠ tileReg k 4) (hstatus : p ≠ tileReg k 0x1000) : rd (programBegun s k j) p = rd s p := by
  rw [programBegun, rd_setCalStatus_ne _ _ _ _ _ hstatus, rd_setTileState_ne _ _ _ hstate, rd_of_cw (setArray_cw ..), rd_of_cw (modTile_cw ..)]

theorem tileAt_programBegun_same : tileAt (programBegun s k j) k = withJob { j with started := true } (tileAt s k) := by
  rw [tileAt_of_tiles (programBegun_tiles s k j), tileAt_modTile_same]

theorem tileAt_programBegun_ne {i : Nat} (h : i ≠ k) : tileAt (programBegun s k j) i = tileAt s i := by
  rw [tileAt_of_tiles (programBegun_tiles s k j), tileAt_modTile_ne _ _ h]

theorem arrayAt_programBegun_same : arrayAt (programBegun s k j) k = clearFlag (arrayAt s k) := by
  rw [arrayAt_of_arrays (programBegun_arrays s k j), arrayAt_setArray_same]

theorem arrayAt_programBegun_ne {i : Nat} (h : i ≠ k) : arrayAt (programBegun s k j) i = arrayAt s i := by
  rw [arrayAt_of_arrays (programBegun_arrays s k j), arrayAt_setArray_ne _ _ h]

end ProgramBegun

end Sys2Proof.Machine
end

section
/-! PROOF. O56: refreshes and array writes, clause by clause. -/

namespace Sys2Proof.Machine

/-- Nothing keeps a refresh that is due from starting. -/
theorem refreshHeld_of_ready {s : State} {k m : Nat} (hen : rbit s (chReg 0) 0 = true) (hdue : (tileAt s m).due = true)
    (hin : (tileAt s m).shadowIn = true) (hstate : tileState s k = 2) (hnone : (tileAt s m).refresh = none)
    (hrun : (tileAt s k).calRun = none) (hpair : pairRefreshing s m = false) (hrewrite : rewriteWaits s m = false)
    (hload : loadWaits s = false) (hconc : refreshActive s < Nat.max 1 (rdF s (chReg 4) 23 16)) : refreshHeld s k m = false := by
  have hfree : decide (Nat.max 1 (rdF s (chReg 4) 23 16) ≤ refreshActive s) = false := decide_eq_false (Nat.not_le_of_lt hconc)
  rw [refreshHeld, hen, hdue, hin, hstate, hnone, hrun, hpair, hrewrite, hload, hfree]
  rfl

theorem refreshHeld_of_held {s : State} (k : Nat) {m : Nat} (h : rbit s (chReg 0) 0 = false ∨ (tileAt s m).due = false ∨
    pairRefreshing s m = true ∨ rewriteWaits s m = true ∨ loadWaits s = true ∨ Nat.max 1 (rdF s (chReg 4) 23 16) ≤ refreshActive s) :
    refreshHeld s k m = true := by
  rcases h with h | h | h | h | h | h <;> simp [refreshHeld, h]

/-- Settles O56: a start is one change of the tiles it names; a completed write leaves the job's array, and what follows it depends on
what the write was for. -/
theorem arraysAreRefreshedAndWritten : Obligations.ArraysAreRefreshedAndWritten := by
  refine ⟨?due, ?notDue, ?onSpare, ?inPlace, ?held, ?starts, ?waits, ?contents, ?spare, ?cleared, ?notStarted⟩
  case due =>
    intro s site slot m hwf hm hen hin hstate howner hage
    refine ⟨modTile s m (withDue true), ?_, tileAt_modTile_same .., fun i hi => tileAt_modTile_ne s _ hi, rfl⟩
    rw [execRefreshDue_eq hwf, refreshDue_eq hm, if_pos (by simp [hen, hin, hstate, howner, hage])]
  case notDue =>
    intro s site slot m hwf hm h
    rw [execRefreshDue_eq hwf, refreshDue_eq hm, if_neg]
    rcases h with h | h | ⟨hage, hearly, hdrift⟩
    · simp [h]
    · simp [h]
    · simp [Nat.not_le_of_lt hage, hearly, hdrift]
  case onSpare =>
    intro s site slot hwf hm hen hdue hin hstate hnone hrun hpair hrewrite hload hconc hspare
    have hne := spareKey_ne (slot_lt_of_spareAvailable hspare)
    refine ⟨spareStarted s (tkey site slot), ?_, tileState_spareStarted s, tileAt_spareStarted_slot s hne, tileAt_spareStarted_spare s hne,
      fun i hi hs => tileAt_spareStarted_ne s hi hs, fun p hp => rd_spareStarted_ne s (mt List.mem_singleton.mpr hp),
      eq_withWordsTiles (butWordsTiles_spareStarted s)⟩
    rw [execRefreshStart_eq hwf, refreshStart_eq hm, refreshHeld_of_ready hen hdue hin hstate hnone hrun hpair hrewrite hload hconc,
      if_neg Bool.false_ne_true, if_pos (by simp [hspare])]
    rfl
  case inPlace =>
    intro s site slot m hwf hm hen hdue hin hstate hnone hrun hpair hrewrite hload hconc hspare hboundary
    have h := keepsBegun_refreshInPlace s (tkey site slot) m
    obtain ⟨hrefresh, hdone⟩ := refresh_inPlaceBegun s (tkey site slot) m
    refine ⟨refreshInPlace s (tkey site slot) m, ?_, h.state.trans (tileState_inPlaceBegun ..), (h.refresh m).trans hrefresh,
      (h.due m).trans hdone, (h.prog _).trans (prog_inPlaceBegun ..),
      fun i hk hi => (h.others i hk).trans (tileAt_inPlaceBegun_ne s _ _ hk hi), h.arrays.trans (inPlaceBegun_arrays ..),
      h.insts.trans (inPlaceBegun_insts ..)⟩
    rw [execRefreshStart_eq hwf, refreshStart_eq hm, refreshHeld_of_ready hen hdue hin hstate hnone hrun hpair hrewrite hload hconc,
      if_neg Bool.false_ne_true, if_neg, if_pos hboundary]
    rcases hspare with h | h <;> simp [h]
  case held =>
    intro s site slot m hwf hm h
    rw [execRefreshStart_eq hwf, refreshStart_eq hm, if_pos (refreshHeld_of_held _ h)]
  case starts =>
    intro s site slot j hwf hprog hstarted hmay
    refine ⟨programBegun s (tkey site slot) j, ?_, tileState_programBegun .., tileAt_programBegun_same .., fun b hb => ?_, fun b hb => ?_, ?_,
      calStatus_programBegun .., fun p hp => ?_, fun i hi => ⟨tileAt_programBegun_ne _ _ _ hi, arrayAt_programBegun_ne _ _ _ hi⟩,
      eq_withProgram (butProgram_programBegun ..)⟩
    · rw [execArrayProgramStart_eq hwf, programStart_eq hprog, if_neg (by simp [hstarted, hmay])]
    · rw [arrayAt_programBegun_same, getLsbD_clearFlag, if_pos hb]
    · rw [arrayAt_programBegun_same, getLsbD_clearFlag, if_neg (by omega)]
    · rw [arrayAt_programBegun_same, clearFlag]
    · simp only [List.mem_cons, List.not_mem_nil, or_false, not_or] at hp
      exact rd_programBegun_ne _ _ _ hp.1 hp.2
  case waits =>
    intro s site slot j hwf hprog h
    rw [execArrayProgramStart_eq hwf, programStart_eq hprog, if_pos h]
  case contents =>
    intro s site slot j hwf hprog hstarted hwhy hblank hsound hrun hruns hclear
    have h := contentsWritten_tileWritten (tkey site slot) j hruns
    refine ⟨_, h.exec_eq rfl hwf hprog hstarted hsound hclear (afterWrite_of_contents s _ j hwhy), ?_⟩
    rw [h.arrayAt_same, h.tileAt_same]
    obtain ⟨-, hgen, -, hlayer, -, -⟩ := commitNat_of_job (a := programmed s (tkey site slot) j) rfl hblank
    exact ⟨fun r c hr hc => levels_programmed s _ j hr hc, committed_programmed s _ hblank, hgen, hlayer, rfl, rfl,
      fun i hi => h.arrayAt_ne hi, h.tileState_eq, rfl, h.uncommitted hblank, (h.asks hrun).1, (h.asks hrun).2, h.count hblank,
      stackMem_of_butWrite h.butWrite_eq, store_of_butWrite h.butWrite_eq, insts_of_butWrite h.butWrite_eq⟩
  case spare =>
    intro s site m j hwf hprog hstarted hwhy hblank hsound hlast hslot hplace hrun hruns hclear
    have hk : tkey site 16 % 32 = 16 := by unfold tkey; omega
    have hm : m ≠ tkey site 16 := by rintro rfl; omega
    have hcontents : (contentsOf s (tkey site 16)).getD (tkey site 16) = m := by rw [contentsOf, if_pos hk, hlast]; rfl
    rw [hcontents] at hplace
    have h := contentsWritten_sparePlaced j hruns hm
    refine ⟨_, h.exec_eq rfl hwf hprog hstarted hsound hclear (afterWrite_of_spare s _ j hwhy hk hlast hm hplace), ?_⟩
    rw [h.arrayAt_same, h.tileAt_same]
    refine ⟨?_, fun r c hr hc => levels_programmed s _ j hr hc, committed_programmed s _ hblank, rfl, rfl, h.tileState_eq, rfl,
      (h.asks hrun).1, (h.asks hrun).2, fun i him hik => ?_, stackMem_of_butWrite h.butWrite_eq, store_of_butWrite h.butWrite_eq,
      insts_of_butWrite h.butWrite_eq⟩
    · rw [tileAt_commitTrigger, tileAt_modTile_same]; rfl
    · rw [tileAt_commitTrigger, tileAt_modTile_ne _ _ him, tileAt_tileWritten_ne _ _ _ _ hik]
  case cleared =>
    intro s site slot j hwf hprog hstarted hwhy hblank htarget hlevels hsound hruns
    generalize hv : (if s.retiredTiles.contains (tkey site slot) then 5 else 1) = v
    have hv8 : v < 8 := by rw [← hv]; split <;> decide
    have harrays := tileWritten_arrays s (tkey site slot) j v
    have hrest := butWrite_tileWritten s (tkey site slot) j v
    have htile := tileAt_tileWritten_same s (tkey site slot) j v
    have hzeroed : (withoutJob j (tileAt s (tkey site slot))).zeroed = true := by simp [withoutJob, hblank, htarget]
    have hcommit : committed (programmed s (tkey site slot) j) = false := committed_of_blank rfl hblank
    refine ⟨tileWritten s (tkey site slot) j v, ?_, ?_⟩
    · rw [execArrayWriteComplete_eq hwf, writeComplete_of_sound hprog hstarted hsound, afterWrite_of_clear s _ j hwhy, hv,
        clearAfter_of_zeroed (htile ▸ hzeroed), spoonWake_of_noRunWaits (noRunWaits_tileWritten _ j hruns _)]
    · rw [arrayAt_of_arrays harrays, arrayAt_arrayWritten_same, htile, rbit_tileWritten_uncommitted, hcommit]
      refine ⟨levels_programmed_of_empty s _ htarget hlevels, rfl, rfl, rfl, rfl, hzeroed, tileState_setTileState_same _ _ hv8,
        fun i hi => ⟨tileAt_tileWritten_ne _ _ _ _ hi, ?_⟩, stackMem_of_butWrite hrest, insts_of_butWrite hrest⟩
      rw [arrayAt_of_arrays harrays, arrayAt_arrayWritten_ne _ _ _ hi]
  case notStarted =>
    intro s site slot found misread hwf hruns h
    rw [execArrayWriteComplete_eq hwf, writeComplete_of_notStarted _ _ h, spoonWake_of_noRunWaits hruns]

end Sys2Proof.Machine
end

section
/-! SUPPORT. The run status of a tile (07 Table 07.6) and its state (02 Table 02.5): a field read after a write of it, of another field and of
another register. -/

namespace Sys2Proof.Machine

theorem rdF_lt (s : State) (o hi lo : Nat) : rdF s o hi lo < 2 ^ (hi + 1 - lo) := Nat.mod_lt _ (Nat.two_pow_pos _)

theorem setFld_fld (w : W32) {hi lo : Nat} (h : hi < 32) (hl : lo ≤ hi) : setFld w hi lo (fld w hi lo) = w := by
  apply BitVec.eq_of_getLsbD_eq
  intro i hi32
  rw [getLsbD_setFld w _ h hl i hi32, fld_testBit w hi lo _ h]
  split
  · rename_i hin
    rw [decide_eq_true (by omega), Bool.true_and, Nat.add_sub_cancel' hin.1]
  · rfl

section Status

variable (s : State) (k : Nat)

theorem calStatus_setCalStatus_same {hi lo : Nat} (v : Nat) (h : hi < 32) (hl : lo ≤ hi) :
    calStatus (setCalStatus s k hi lo v) k hi lo = v % 2 ^ (hi + 1 - lo) := rdF_wrF_same s _ v h hl

theorem calStatus_setCalStatus_other {hi lo hi' lo' : Nat} (v : Nat) (h : hi < 32) (hl : lo ≤ hi) (h' : hi' < 32)
    (hd : hi' < lo ∨ hi < lo') : calStatus (setCalStatus s k hi lo v) k hi' lo' = calStatus s k hi' lo' :=
  rdF_wrF_other s _ v h hl h' hd

variable {s k} {t : State}

theorem calStatus_congr (h : rd t (tileReg k 0x1000) = rd s (tileReg k 0x1000)) (hi lo : Nat) : calStatus t k hi lo = calStatus s k hi lo :=
  congrArg (fld · hi lo) h

theorem tileState_congr (h : rd t (tileReg k 4) = rd s (tileReg k 4)) : tileState t k = tileState s k := congrArg (fld · 2 0) h

/-- The state a tile is in already changes no word. -/
theorem rd_setTileState_of_same {v : Nat} (h : tileState s k = v) (p : Nat) : rd (setTileState s k v) p = rd s p := by
  by_cases hp : p = tileReg k 4
  · rw [hp, setTileState, wrF, rd_wr_same, ← h]
    exact setFld_fld _ (by decide) (by decide)
  · exact rd_setTileState_ne s k v hp

end Status

end Sys2Proof.Machine
end

section
/-! PROOF. O54: CAL_RUN requests a run and waits for it (07 R174, 16 Table 16.8). -/

namespace Sys2Proof.Machine

/-- A CAL_RUN that no check refuses. -/
structure CalAllowed (s : State) (m : MbxId) : Prop where
  ready  : Ready s m 0x0504 8
  site   : reqN s m 8 2 < 800
  tile   : tileWf (reqN s m 8 2) (reqN s m 10 1) = true
  cls    : reqN s m 11 1 = 1 ∨ reqN s m 11 1 = 2
  zero   : ZeroAt s m 12 4
  here   : tileGone s (namedTile s m) = false
  shadow : reqN s m 11 1 = 1 ∨ shadowThere s (namedTile s m) = true

/-- A command waits for the tile's run. -/
def withWaiter (r : MbxRef) (x : TileSt) : TileSt := { x with calWait := x.calWait ++ [r] }

/-- The command is accepted: it has raised its request, in the host's row, and waits. -/
def calRequested (s : State) (m : MbxId) : State :=
  modTile (calTrigger (accept s m) (namedTile s m) 3 (reqN s m 11 1)) (namedTile s m) (withWaiter (mref s m))

theorem mref_congr {s t : State} {m : MbxId} (hepoch : (mbxAt t m).epoch = (mbxAt s m).epoch) (hreq : (mbxAt t m).req = (mbxAt s m).req) :
    mref t m = mref s m := by
  rw [mref, mref, reqOp, reqOp, hepoch, reqN_of_req hreq]

theorem mbx_of_butWords {s t : State} (h : t.butWords = s.butWords) : t.mbx = s.mbx := (congrArg State.mbx h :)
theorem order_of_butWords {s t : State} (h : t.butWords = s.butWords) : t.order = s.order := (congrArg State.order h :)

theorem mref_calTrigger_accept (s : State) (m : MbxId) (k row cls : Nat) : mref (calTrigger (accept s m) k row cls) m = mref s m := by
  have hbox : mbxAt (calTrigger (accept s m) k row cls) m = mbxAt (accept s m) m :=
    mbxAt_of_mbx (mbx_of_butWords (calTrigger_butWords ..)) m
  have hepoch : (mbxAt (accept s m) m).epoch = (mbxAt s m).epoch := by rw [accept, post_mbx]; rfl
  exact mref_congr (hbox ▸ hepoch) (hbox ▸ accept_req s m)

theorem execCalRun_of_allowed {s : State} {m : MbxId} (h : CalAllowed s m) : exec (.calRun m) s = .next (calRequested s m) := by
  have hzero : reqN s m 12 4 = 0 := h.zero
  have hcls : (reqN s m 11 1 == 1 || reqN s m 11 1 == 2) = true := by simpa using h.cls
  have hshadow : (reqN s m 11 1 == 1 || shadowThere s (namedTile s m)) = true := by simpa using h.shadow
  have hchk : firstErr [
      fieldCheck s m [(8, decide (reqN s m 8 2 < 800)), (10, tileWf (reqN s m 8 2) (reqN s m 10 1)),
        (11, reqN s m 11 1 == 1 || reqN s m 11 1 == 2), reqZero s m 12 4],
      need (!tileGone s (namedTile s m)) stTileUnavailable (tileState s (namedTile s m)),
      need (reqN s m 11 1 == 1 || shadowThere s (namedTile s m)) stBadParam 11] = none := by
    rw [fieldCheck_ready h.ready, h.here, hcls, hshadow]
    simp [fieldsOk, reqZero, need, firstErr, h.site, h.tile, hzero]
  rw [calRequested, ← mref_calTrigger_accept s m (namedTile s m) 3 (reqN s m 11 1)]
  exact runCmd_ready h.ready hchk _

/-! ### The request (07 Table 07.3, R174) -/

section Trigger

variable {s : State} {k row cls : Nat}

theorem calTrigger_of_deaf (h : calDeaf s k = true) : calTrigger s k row cls = s := by simp [calTrigger, h]

theorem calTrigger_of_taken (hdeaf : calDeaf s k = false) (hcover : calCovered s k row cls = false) : calTrigger s k row cls =
    setCalStatus (setCalStatus (incWrap s (trigCounter row) 1) k 4 3 (Nat.max (calStatus (incWrap s (trigCounter row) 1) k 4 3) cls)) k 12 10
      (if calStatus s k 12 10 = 0 then row else Nat.min (calStatus s k 12 10) row) := by
  rw [calTrigger, hdeaf, hcover, if_neg (by decide)]

theorem rd_calTrigger_ne {p : Nat} (hstatus : p ≠ tileReg k 0x1000) (hcount : p ≠ trigCounter row) :
    rd (calTrigger s k row cls) p = rd s p := by
  unfold calTrigger
  split
  · rfl
  · dsimp only
    rw [rd_setCalStatus_ne _ _ _ _ _ hstatus, rd_setCalStatus_ne _ _ _ _ _ hstatus, rd_incWrap_ne _ _ hcount]

theorem tileReg_ne_calReg (k : Nat) {a : Nat} (h : a < 0x2000) (b : Nat) : tileReg k a ≠ calReg b := by
  have hlt := tileReg_lt (k := k) h
  unfold calReg; omega

theorem calReg_ne_tileReg (k : Nat) {a : Nat} (h : a < 0x2000) (b : Nat) : calReg b ≠ tileReg k a := (tileReg_ne_calReg k h b).symm

/-- The host's request, in row 3, is merged with what is pending and counted. -/
theorem calTrigger_host (hdeaf : calDeaf s k = false) (hcover : calCovered s k 3 cls = false) (hcls : cls < 4) :
    calStatus (calTrigger s k 3 cls) k 4 3 = Nat.max (calStatus s k 4 3) cls ∧
    calStatus (calTrigger s k 3 cls) k 12 10 = (if calStatus s k 12 10 = 0 then 3 else Nat.min (calStatus s k 12 10) 3) ∧
    rd (calTrigger s k 3 cls) (calReg 0x18) = rd s (calReg 0x18) + 1 := by
  have hcounter : trigCounter 3 = calReg 0x18 := rfl
  have hbefore : calStatus (incWrap s (calReg 0x18) 1) k 4 3 = calStatus s k 4 3 :=
    calStatus_congr (rd_incWrap_ne s 1 (tileReg_ne_calReg k (by decide) _)) 4 3
  rw [calTrigger_of_taken hdeaf hcover, hcounter, hbefore]
  refine ⟨?pending, ?row, ?count⟩
  case pending =>
    rw [calStatus_setCalStatus_other _ _ _ (by decide) (by decide) (by decide) (.inl (by decide)),
      calStatus_setCalStatus_same _ _ _ (by decide) (by decide)]
    exact Nat.mod_eq_of_lt (Nat.max_lt.mpr ⟨rdF_lt s _ 4 3, hcls⟩)
  case row =>
    rw [calStatus_setCalStatus_same _ _ _ (by decide) (by decide)]
    apply Nat.mod_eq_of_lt
    have hmin : Nat.min (calStatus s k 12 10) 3 ≤ 3 := Nat.min_le_right _ _
    split <;> omega
  case count =>
    rw [rd_setCalStatus_ne _ _ _ _ _ (calReg_ne_tileReg k (by decide) _),
      rd_setCalStatus_ne _ _ _ _ _ (calReg_ne_tileReg k (by decide) _), rd_incWrap_same]
    rfl

end Trigger

/-! ### What the command leaves -/

section Requested

variable (s : State) (m : MbxId)

theorem calRequested_cw : (calRequested s m).cw = (calTrigger (accept s m) (namedTile s m) 3 (reqN s m 11 1)).cw := modTile_cw ..

theorem calTrigger_accept_tiles (k row cls : Nat) : (calTrigger (accept s m) k row cls).tiles = s.tiles :=
  (tiles_of_butWords (calTrigger_butWords ..)).trans (accept_tiles s m)

theorem tileAt_calRequested_same : tileAt (calRequested s m) (namedTile s m) = withWaiter (mref s m) (tileAt s (namedTile s m)) := by
  rw [calRequested, tileAt_modTile_same, tileAt_of_tiles (calTrigger_accept_tiles ..)]

theorem tileAt_calRequested_ne {k : Nat} (h : k ≠ namedTile s m) : tileAt (calRequested s m) k = tileAt s k := by
  rw [calRequested, tileAt_modTile_ne _ _ h, tileAt_of_tiles (calTrigger_accept_tiles ..)]

theorem responds_calRequested : Responds s (calRequested s m) m stAccepted [] false :=
  responds_congr (post_responds s m stAccepted [] false) ((modTile_mbx ..).trans (mbx_of_butWords (calTrigger_butWords ..)))
    ((modTile_order ..).trans (order_of_butWords (calTrigger_butWords ..)))

theorem calRequested_arrays : (calRequested s m).arrays = s.arrays :=
  (modTile_arrays ..).trans ((arrays_of_butWords (calTrigger_butWords ..)).trans (post_arrays ..))

theorem calRequested_cores : (calRequested s m).cores = s.cores :=
  (modTile_cores ..).trans ((cores_of_butWords (calTrigger_butWords ..)).trans (post_cores ..))

/-- Whether a tile takes a request, and which it has, is a matter of its status words and its run. -/
theorem calDeaf_accept (k : Nat) : calDeaf (accept s m) k = calDeaf s k := by
  have hstate : tileState (accept s m) k = tileState s k := rdF_of_cw (post_cw ..) _ 2 0
  rw [calDeaf, calDeaf, tileAt_of_tiles (accept_tiles s m), hstate]

theorem calStatus_accept (k hi lo : Nat) : calStatus (accept s m) k hi lo = calStatus s k hi lo := rdF_of_cw (post_cw ..) _ hi lo

theorem calCovered_accept (k row cls : Nat) : calCovered (accept s m) k row cls = calCovered s k row cls := by
  rw [calCovered, calCovered, calStatus_accept, calStatus_accept]

theorem sameWords_calRequested : SameWords [tileReg (namedTile s m) 0x1000, calReg 0x18] s (calRequested s m) := by
  intro p hp
  obtain ⟨hstatus, hcount⟩ := not_or.mp (List.mem_pair.not.mp hp)
  rw [rd_of_cw (calRequested_cw s m), rd_calTrigger_ne (row := 3) hstatus hcount]
  exact rd_of_cw (post_cw ..) p

variable {s m}

theorem calRequested_of_deaf (h : calDeaf s (namedTile s m) = true) : (calRequested s m).cw = s.cw := by
  rw [calRequested_cw, calTrigger_of_deaf ((calDeaf_accept ..).trans h)]
  exact post_cw ..

theorem calRequested_raises (hdeaf : calDeaf s (namedTile s m) = false) (hcover : calCovered s (namedTile s m) 3 (reqN s m 11 1) = false)
    (hcls : reqN s m 11 1 < 4) :
    calStatus (calRequested s m) (namedTile s m) 4 3 = Nat.max (calStatus s (namedTile s m) 4 3) (reqN s m 11 1) ∧
    calStatus (calRequested s m) (namedTile s m) 12 10 =
      (if calStatus s (namedTile s m) 12 10 = 0 then 3 else Nat.min (calStatus s (namedTile s m) 12 10) 3) ∧
    rd (calRequested s m) (calReg 0x18) = rd s (calReg 0x18) + 1 := by
  have h := calTrigger_host ((calDeaf_accept s m _).trans hdeaf) ((calCovered_accept s m ..).trans hcover) hcls
  have hcount : rd (accept s m) (calReg 0x18) = rd s (calReg 0x18) := rd_of_cw (post_cw ..) _
  rwa [calStatus_accept, calStatus_accept, hcount] at h

end Requested

end Sys2Proof.Machine
end

section
/-! PROOF. O54: CAL_RUN_START begins a run on an IDLE tile, and on a SERVING one under a fall-back grant (07 R174, R177). -/

namespace Sys2Proof.Machine

/-- The run that begins: what was requested, and the tile's temperature, the time and the tile's state at K1. -/
def runAtK1 (s : State) (k cls row : Nat) (cover : CalCover) : CalRun :=
  { cls := cls, row := row, temp := tileTemp s k, time := s.rackTime, cover := cover, prior := tileState s k }

/-- A tile whose run begins. -/
def withRunBegun (r : CalRun) (x : TileSt) : TileSt := { x with calRun := some r, calFirst := false }

section Begin

variable (s : State) (k cls row st : Nat) (cover : CalCover)

/-- The run status shows the run, and no request. -/
def statusBegun : State :=
  setCalStatus (setCalStatus (calClear (modTile s k (withRunBegun (runAtK1 s k cls row cover))) k) k 0 0 1) k 2 1 cls

theorem calBegin_eq : calBegin s k cls row st cover = setTileState (statusBegun s k cls row cover) k st := rfl

theorem statusBegun_butWords :
    (statusBegun s k cls row cover).butWords = (modTile s k (withRunBegun (runAtK1 s k cls row cover))).butWords := by
  rw [statusBegun, setCalStatus_butWords, setCalStatus_butWords, calClear_butWords]

theorem calBegin_butWords : (calBegin s k cls row st cover).butWords = (modTile s k (withRunBegun (runAtK1 s k cls row cover))).butWords :=
  (wrF_butWords ..).trans (statusBegun_butWords ..)

theorem calBegin_frame :
    calBegin s k cls row st cover = { s with cw := (calBegin s k cls row st cover).cw, tiles := (calBegin s k cls row st cover).tiles } :=
  eq_withWordsTiles (congrArg (fun u : State => { u with tiles := [] }) (calBegin_butWords s k cls row st cover))

theorem tileAt_calBegin_same : tileAt (calBegin s k cls row st cover) k = withRunBegun (runAtK1 s k cls row cover) (tileAt s k) := by
  rw [tileAt_of_tiles (tiles_of_butWords (calBegin_butWords ..)), tileAt_modTile_same]

theorem tileAt_calBegin_ne {j : Nat} (h : j ≠ k) : tileAt (calBegin s k cls row st cover) j = tileAt s j := by
  rw [tileAt_of_tiles (tiles_of_butWords (calBegin_butWords ..)), tileAt_modTile_ne _ _ h]

theorem rd_statusBegun_ne {p : Nat} (h : p ≠ tileReg k 0x1000) : rd (statusBegun s k cls row cover) p = rd s p := by
  rw [statusBegun, rd_setCalStatus_ne _ _ _ _ _ h, rd_setCalStatus_ne _ _ _ _ _ h, calClear, rd_setCalStatus_ne _ _ _ _ _ h,
    rd_setCalStatus_ne _ _ _ _ _ h, rd_of_cw (modTile_cw ..)]

theorem rd_calBegin_ne {p : Nat} (hstate : p ≠ tileReg k 4) (hstatus : p ≠ tileReg k 0x1000) :
    rd (calBegin s k cls row st cover) p = rd s p :=
  (rd_setTileState_ne _ k st hstate).trans (rd_statusBegun_ne s k cls row cover hstatus)

variable {cls st}

/-- A run that leaves its tile's state shows in the run status alone. -/
theorem rd_calBegin_of_same (h : tileState s k = st) {p : Nat} (hstatus : p ≠ tileReg k 0x1000) :
    rd (calBegin s k cls row st cover) p = rd s p := by
  have hstate : tileState (statusBegun s k cls row cover) k = st :=
    (tileState_congr (rd_statusBegun_ne s k cls row cover (tileReg_ne (by decide)))).trans h
  rw [calBegin_eq, rd_setTileState_of_same hstate, rd_statusBegun_ne _ _ _ _ _ hstatus]

theorem calStatus_calBegin (hcls : cls < 4) :
    calStatus (calBegin s k cls row st cover) k 0 0 = 1 ∧ calStatus (calBegin s k cls row st cover) k 2 1 = cls ∧
    calStatus (calBegin s k cls row st cover) k 4 3 = 0 ∧ calStatus (calBegin s k cls row st cover) k 12 10 = 0 := by
  have hword : ∀ hi lo, calStatus (calBegin s k cls row st cover) k hi lo = calStatus (statusBegun s k cls row cover) k hi lo :=
    calStatus_congr (rd_setTileState_ne _ k st (tileReg_ne (by decide)))
  simp only [hword, statusBegun, calClear]
  simp (disch := decide) only [calStatus_setCalStatus_same, calStatus_setCalStatus_other]
  exact ⟨rfl, Nat.mod_eq_of_lt hcls, rfl, rfl⟩

theorem tileState_calBegin (h : st < 8) : tileState (calBegin s k cls row st cover) k = st := tileState_setTileState_same _ k h

end Begin

/-! ### Which runs start (07 R174, R177) -/

/-- A request that may start now: the tile is free for it, fewer than CONC run, and none comes before it. -/
structure StartsNow (s : State) (k : Nat) : Prop where
  afterInitial : initialCal s k = false
  startable    : startable s k = true
  room         : calRunning s < Nat.max 1 (rdF s (calReg 4) 7 0)
  first        : calFirstOf s k = true

theorem execCalRunStart_eq {site slot : Nat} (h : tileWf site slot = true) (s : State) :
    exec (.calRunStart site slot) s = .next (calRunStart s (tkey site slot)) := onUnit_of_true h _

section Start

variable {s : State} {k : Nat}

theorem StartsNow.notHeld (h : StartsNow s k) : ¬(Nat.max 1 (rdF s (calReg 4) 7 0) ≤ calRunning s ∨ calFirstOf s k = false) := by
  simp [h.first, Nat.not_le.mpr h.room]

theorem calRunStart_of_idle (h : StartsNow s k) (hidle : tileState s k = 1) : calRunStart s k =
    calBegin s k (calStatus s k 4 3) (calStatus s k 12 10) 4 (if (tileAt s k).coverRun then .spare else .none) := by
  rw [calRunStart, h.afterInitial, h.startable, if_neg Bool.false_ne_true, if_neg (by decide), if_neg h.notHeld, if_pos hidle]

theorem calRunStart_of_granted {m : Nat} {o : Owner} (h : StartsNow s k) (hserving : tileState s k = 2) (hmember : memberOf s k = some m)
    (howner : (tileAt s m).owner = some o) (hgrant : fbState s (m / 32) (headOf s (m / 32) (m % 32)) = 1) :
    calRunStart s k = calBegin s k (calStatus s k 4 3) (calStatus s k 12 10) 2 .none := by
  rw [calRunStart, h.afterInitial, h.startable, if_neg Bool.false_ne_true, if_neg (by decide), if_neg h.notHeld, if_neg (by omega), hmember]
  dsimp only
  rw [howner]
  exact if_pos hgrant

theorem calRunStart_of_waits (hinitial : initialCal s k = false)
    (h : startable s k = false ∨ Nat.max 1 (rdF s (calReg 4) 7 0) ≤ calRunning s ∨ calFirstOf s k = false) : calRunStart s k = s := by
  rw [calRunStart, hinitial, if_neg Bool.false_ne_true]
  split
  · rfl
  · rename_i hstart
    exact if_pos (h.resolve_left (by simpa using hstart))

end Start

end Sys2Proof.Machine
end

section
/-! PROOF. O54: CAL_STAGE_COMPLETE, the stages in the order of 07 Table 07.2. -/

namespace Sys2Proof.Machine

theorem execCalStageComplete_eq {site slot : Nat} (h : tileWf site slot = true) (x : CalMeasure) (s : State) :
    exec (.calStageComplete site slot x) s = .next (calStage s (tkey site slot) x) := onUnit_of_true h _

section Stages

variable {s : State} {k : Nat} {r : CalRun} (h : (tileAt s k).calRun = some r)
include h

theorem calStage_settled : calStage s k .settled = if r.stage = .k1 then setRun s k { r with stage := .k2 } else s := by
  rw [calStage, h]; dsimp only; cases r.stage <;> rfl

theorem calStage_trims {l : List AdcSets} (hl : l.length = 521) :
    calStage s k (.trims l) = if r.stage = .k2 then setRun s k { r with stage := .k3, adc := l } else s := by
  rw [calStage, h]; dsimp only; cases r.stage <;> simp [hl]

theorem calStage_refs (x : RefReads) :
    calStage s k (.refs x) = if r.stage = .k3 then setRun s k { r with stage := .k4, refs := some x } else s := by
  rw [calStage, h]; dsimp only; cases r.stage <;> rfl

theorem calStage_columns {cs : List (List Int)} (hl : cs.length = 520) : calStage s k (.columns cs) =
    if r.stage = .k4 ∧ r.cls = 2 then setRun s k { r with stage := .k6, cols := colFits s k r.time cs } else s := by
  rw [calStage, h]; dsimp only; cases r.stage <;> simp [hl]

/-- A stage that comes in its turn changes the run; one that does not leaves it. -/
theorem calRun_ite_setRun {c : Prop} [Decidable c] (r' : CalRun) :
    (tileAt (if c then setRun s k r' else s) k).calRun = some (if c then r' else r) := by
  split
  · rw [setRun, tileAt_modTile_same]
  · exact h

end Stages

/-- A stage changes its tile alone. -/
theorem ite_setRun_frame (s : State) (k : Nat) (r : CalRun) (c : Prop) [Decidable c] :
    (if c then setRun s k r else s) = { s with tiles := (if c then setRun s k r else s).tiles } ∧
    ∀ j, j ≠ k → tileAt (if c then setRun s k r else s) j = tileAt s j := by
  split
  · exact ⟨rfl, fun j hj => tileAt_modTile_ne s _ hj⟩
  · exact ⟨rfl, fun _ _ => rfl⟩

end Sys2Proof.Machine
end

section
/-! SUPPORT. What the steps of a run's end leave (07 K5): memory and arrays, every register but those they write, and the tiles' waiting
Spoon runs and ended calibration runs. -/

namespace Sys2Proof.Machine

/-- Blanks what the end of a run may change: registers with their copies, tiles, cores, fault records, and what a response may change. -/
def butRunEnd (s : State) : State := { s.butReplyWords with act := [], stagedAt := [], tiles := [], cores := [], faults := [] }

/-- Changes no register outside `os`; no run begins on a tile or begins to wait for one. -/
structure Confined (os : Set Nat) (s t : State) : Prop where
  rest  : butRunEnd t = butRunEnd s
  words : ∀ p ∉ os, rd t p = rd s p
  waits : NoRunWaits s → NoRunWaits t
  idle  : ∀ j, (tileAt s j).calRun = none → (tileAt t j).calRun = none

/-- And neither a copy in force nor what waits for a boundary changes (02 R60). -/
structure Unstaged (os : Set Nat) (s t : State) : Prop extends Confined os s t where
  act    : t.act = s.act
  staged : t.stagedAt = s.stagedAt

section Relations

variable {os ps : Set Nat} {s t u : State}

theorem Confined.trans (h : Confined os s t) (h' : Confined os t u) : Confined os s u :=
  ⟨h'.rest.trans h.rest, fun p hp => (h'.words p hp).trans (h.words p hp), h'.waits ∘ h.waits, fun j => h'.idle j ∘ h.idle j⟩

theorem Confined.mono (h : Confined os s t) (hsub : os ⊆ ps) : Confined ps s t :=
  ⟨h.rest, fun p hp => h.words p (fun hos => hp (hsub hos)), h.waits, h.idle⟩

theorem Unstaged.refl (s : State) : Unstaged os s s := ⟨⟨rfl, fun _ _ => rfl, id, fun _ => id⟩, rfl, rfl⟩

theorem Confined.refl (s : State) : Confined os s s := (Unstaged.refl s).toConfined

theorem Unstaged.trans (h : Unstaged os s t) (h' : Unstaged os t u) : Unstaged os s u :=
  ⟨h.toConfined.trans h'.toConfined, h'.act.trans h.act, h'.staged.trans h.staged⟩

theorem Unstaged.mono (h : Unstaged os s t) (hsub : os ⊆ ps) : Unstaged ps s t := ⟨h.toConfined.mono hsub, h.act, h.staged⟩

theorem Unstaged.ite {c : Prop} [Decidable c] (h : Unstaged os s t) (h' : Unstaged os s u) : Unstaged os s (if c then t else u) := by
  split
  · exact h
  · exact h'

theorem unstaged_foldl {α : Type} {f : State → α → State} {l : List α} (hf : ∀ a ∈ l, ∀ s, Unstaged os s (f s a)) (s : State) :
    Unstaged os s (l.foldl f s) :=
  List.foldlRecOn (motive := Unstaged os s) l f (.refl s) (fun u hu a ha => hu.trans (hf a ha u))

theorem confined_foldl {α : Type} {f : State → α → State} {l : List α} (hf : ∀ a ∈ l, ∀ s, Confined os s (f s a)) (s : State) :
    Confined os s (l.foldl f s) :=
  List.foldlRecOn (motive := Confined os s) l f (.refl s) (fun u hu a ha => hu.trans (hf a ha u))

theorem Confined.arrays (h : Confined os s t) : t.arrays = s.arrays := (congrArg State.arrays h.rest :)
theorem Confined.store (h : Confined os s t) : t.store = s.store := (congrArg State.store h.rest :)
theorem Confined.stackMem (h : Confined os s t) : t.stackMem = s.stackMem := (congrArg State.stackMem h.rest :)

theorem Confined.rdF (h : Confined os s t) {p : Nat} (hp : p ∉ os) (hi lo : Nat) : Machine.rdF t p hi lo = Machine.rdF s p hi lo :=
  congrArg (fld · hi lo) (h.words p hp)

theorem Confined.calStatus {k : Nat} (h : Confined os s t) (hp : tileReg k 0x1000 ∉ os) (hi lo : Nat) :
    Machine.calStatus t k hi lo = Machine.calStatus s k hi lo := h.rdF hp hi lo

theorem Confined.rbit (h : Confined os s t) {p : Nat} (hp : p ∉ os) (i : Nat) : Machine.rbit t p i = Machine.rbit s p i :=
  congrArg (fld · i i == 1) (h.words p hp)

end Relations

/-! ### Setters -/

section Setters

variable {os : Set Nat} (s : State)

theorem unstaged_wr {o : Nat} (v : W32) (h : o ∈ os) : Unstaged os s (wr s o v) :=
  ⟨⟨rfl, fun _ hp => rd_wr_ne s v (fun e => hp (e ▸ h)), fun hs => hs, fun _ hj => hj⟩, rfl, rfl⟩

theorem unstaged_modTile (k : Nat) {f : TileSt → TileSt} (hspoon : ∀ x, (f x).spoonReq = x.spoonReq := by exact fun _ => rfl)
    (hrun : ∀ x, x.calRun = none → (f x).calRun = none := by exact fun _ h => h) : Unstaged os s (modTile s k f) := by
  refine ⟨⟨rfl, fun _ _ => rfl, fun h => noRunWaits_modTile h k hspoon, fun j hj => ?_⟩, rfl, rfl⟩
  by_cases hjk : j = k
  · subst hjk; rw [tileAt_modTile_same]; exact hrun _ hj
  · rwa [tileAt_modTile_ne s f hjk]

theorem unstaged_modCore (k : Nat) (f : CoreSt → CoreSt) : Unstaged os s (modCore s k f) :=
  ⟨⟨rfl, fun _ _ => rfl, fun hs => hs, fun _ hj => hj⟩, rfl, rfl⟩

/-- A step that leaves the tiles. -/
theorem unstaged_of_tiles {s t : State} (hrest : butRunEnd t = butRunEnd s) (hwords : ∀ p ∉ os, rd t p = rd s p) (htiles : t.tiles = s.tiles)
    (hact : t.act = s.act) (hstaged : t.stagedAt = s.stagedAt) : Unstaged os s t :=
  ⟨⟨hrest, hwords, fun h => noRunWaits_of_tiles h htiles, fun j hj => by rwa [tileAt_of_tiles htiles]⟩, hact, hstaged⟩

theorem butRunEnd_of_butReply {s t : State} (h : t.butReply = s.butReply) : butRunEnd t = butRunEnd s :=
  congrArg (fun u : State => { u with cw := [], act := [], stagedAt := [], tiles := [], cores := [], faults := [] }) h

theorem butRunEnd_of_butFaults {s t : State} (h : butFaults t = butFaults s) : butRunEnd t = butRunEnd s :=
  congrArg (fun u : State => { u with act := [], stagedAt := [], tiles := [], cores := [] }) h

theorem unstaged_signal (pf v : Nat) : Unstaged os s (signal s pf v) :=
  unstaged_of_tiles (butRunEnd_of_butReply (signal_butReply ..)) (fun p _ => rd_signal s pf v p) (signal_tiles ..) (signal_act ..)
    (signal_stagedAt ..)

theorem unstaged_finish (r : MbxRef) (st : Nat) (p : Bytes) : Unstaged os s (finish s r st p) :=
  .ite (unstaged_of_tiles (butRunEnd_of_butReply (post_butReply ..)) (fun _ _ => rd_of_cw (post_cw ..) _) (post_tiles ..) (post_act ..)
    (post_stagedAt ..)) (.refl s)

/-- The registers of the fault block (20 Table 20.6). -/
def faultWords : Set Nat := {p | 0x0F000000 ≤ p}

theorem unstaged_faultRecord (f : FaultInfo) : Unstaged faultWords s (faultRecord s f) :=
  have h := faultRecord_butFaults s f
  unstaged_of_tiles (butRunEnd_of_butFaults h) (fun _ hp => rd_faultRecord_of_lt s f (Nat.lt_of_not_le hp)) (tiles_of_butFaults h)
    (congrArg State.act h :) (congrArg State.stagedAt h :)

theorem confined_wrA (o : Nat) (v : W32) : Confined os s (wrA s o v) := ⟨rfl, fun _ _ => rfl, fun hs => hs, fun _ hj => hj⟩

theorem confined_wrCal (serving : Bool) {o : Nat} (v : W32) (h : o ∈ os) : Confined os s (wrCal s serving o v) := by
  refine ⟨by cases serving <;> rfl, fun _ hp => rd_wrCal_ne s serving o v (fun e => hp (e ▸ h)),
    fun hs => noRunWaits_of_tiles hs (wrCal_tiles ..), fun j hj => by rwa [tileAt_of_tiles (wrCal_tiles ..)]⟩

end Setters

/-! ### Registers -/

section Registers

variable {k : Nat}

@[simp] theorem tileReg_inj {a b : Nat} : tileReg k a = tileReg k b ↔ a = b := by unfold tileReg; omega

@[simp] theorem calReg_inj {a b : Nat} : calReg a = calReg b ↔ a = b := by unfold calReg; omega

theorem tileReg_ne_tileReg {j a b : Nat} (ha : a < 0x2000) (hb : b < 0x2000) (h : a ≠ b) : tileReg j a ≠ tileReg k b := by
  unfold tileReg; omega

/-- The words of a tile's block from offset `lo` on, below `hi`. -/
def tileWords (k lo hi : Nat) : Set Nat := {p | ∃ a, lo ≤ a ∧ a < hi ∧ p = tileReg k a}

@[simp] theorem tileReg_mem_tileWords {a lo hi : Nat} : tileReg k a ∈ tileWords k lo hi ↔ lo ≤ a ∧ a < hi := by
  refine ⟨fun ⟨b, hlo, hhi, h⟩ => ?_, fun ⟨hlo, hhi⟩ => ⟨a, hlo, hhi, rfl⟩⟩
  rw [tileReg_inj.mp h]
  exact ⟨hlo, hhi⟩

/-- The remap registers of the rows (08 Table 08.6). -/
def remapWords : Set Nat := {p | p ∈ (List.range 32).map remapReg}

theorem remapReg_mem_remapWords (row : Nat) : remapReg row ∈ remapWords := by
  refine List.mem_map.mpr ⟨row % 32, List.mem_range.mpr (Nat.mod_lt _ (by decide)), ?_⟩
  rw [remapReg, remapReg, Nat.mod_mod]

theorem notMem_remapWords {p : Nat} (h : p < 0x0E400000) : p ∉ remapWords := by
  intro hp
  obtain ⟨row, -, rfl⟩ := List.mem_map.mp hp
  unfold remapReg meshReg at h
  omega

theorem tileReg_notMem_remapWords {a : Nat} (h : a < 0x2000) : tileReg k a ∉ remapWords :=
  notMem_remapWords (Nat.lt_trans (tileReg_lt h) (by decide))

end Registers

end Sys2Proof.Machine
end

section
/-! SUPPORT. The parts of a run's end (07 K5, R173, R177): the tile leaves its run, commands are answered, a refresh goes on or is given up,
and a rebuild that waited is ready. -/

namespace Sys2Proof.Machine

/-! ### The tile leaves its run -/

/-- A tile in CALIBRATING is in the state again that it was in before. -/
def stateLeft (s : State) (k prior : Nat) : State :=
  if tileState s k = 4 then (if prior = 2 then serveTile s k else setTileState s k 1) else s

section Leave

variable (s : State) (k : Nat)

theorem rdF_setTileState_above (v : Nat) {j hi lo : Nat} (p : Nat) (hhi : hi < 32) (hlo : 2 < lo) :
    rdF (setTileState s j v) p hi lo = rdF s p hi lo := by
  by_cases h : p = tileReg j 4
  · rw [h]; exact rdF_wrF_other s _ v (by decide) (by decide) hhi (.inr hlo)
  · exact congrArg (fld · hi lo) (rd_setTileState_ne s j v h)

theorem confined_serveTile : Confined {tileReg k 0, tileReg k 4} s (serveTile s k) := by
  have hon : Unstaged {tileReg k 0, tileReg k 4} s (wrF s (tileReg k 0) 0 0 1) := unstaged_wr s _ (by simp)
  exact (hon.toConfined.trans (confined_wrA _ _ _)).trans (unstaged_wr _ _ (by simp)).toConfined

theorem confined_stateLeft (n : Nat) : Confined {tileReg k 0, tileReg k 4} s (stateLeft s k n) := by
  unfold stateLeft
  split
  · split
    · exact confined_serveTile s k
    · exact (unstaged_wr s _ (by simp)).toConfined
  · exact .refl s

/-- Of a tile's status the end of a run changes the state alone. -/
theorem rbit_stateLeft (n : Nat) : rbit (stateLeft s k n) (tileReg k 4) 7 = rbit s (tileReg k 4) 7 := by
  unfold stateLeft rbit
  split
  · split
    · rw [serveTile, rdF_setTileState_above _ _ _ (by decide) (by decide), enableTile, rdF, rd_wrA, rd_wrF_ne _ _ _ _ (tileReg_ne (by decide))]
      rfl
    · rw [rdF_setTileState_above _ _ _ (by decide) (by decide)]
  · rfl

theorem stateLeft_stagedAt (n : Nat) : (stateLeft s k n).stagedAt = s.stagedAt := by
  unfold stateLeft
  split
  · split
    · rw [serveTile, enableTile, setTileState, wrF_stagedAt, wrA_stagedAt, wrF_stagedAt]
    · exact wrF_stagedAt ..
  · rfl

theorem stateLeft_of_ne {n : Nat} (h : tileState s k ≠ 4) : stateLeft s k n = s := if_neg h

variable (r : CalRun)

/-- Once the tile is in its state again only the longest hold and what the run held change: the run is over. -/
theorem unstaged_calLeave : Unstaged {calReg 0x20} (stateLeft (setCalStatus s k 0 0 0) k r.prior) (calLeave s k r) ∧
    (tileAt (calLeave s k r) k).calRun = none := by
  unfold calLeave
  extract_lets idle state held left
  have hheld : Unstaged {calReg 0x20} state held := by
    unfold held
    split
    · exact .ite (unstaged_wr state _ (by simp)) (.refl state)
    · exact .refl state
  have hleft : Unstaged {calReg 0x20} state left := hheld.trans (unstaged_modTile held k (hrun := fun _ _ => rfl))
  have hover : (tileAt left k).calRun = none := by unfold left; rw [tileAt_modTile_same]
  split
  · have hcover := unstaged_modCore (os := {calReg 0x20}) left
    exact ⟨hleft.trans (hcover _ _), (hcover _ _).idle k hover⟩
  · exact ⟨hleft, hover⟩

/-- Beside the status of the run, its end shows in the tile's state and in the longest hold. -/
theorem confined_calLeave : Confined {tileReg k 0, tileReg k 4, calReg 0x20} (setCalStatus s k 0 0 0) (calLeave s k r) :=
  ((confined_stateLeft (setCalStatus s k 0 0 0) k r.prior).mono (by simp [Set.insert_subset_iff])).trans
    ((unstaged_calLeave s k r).1.toConfined.mono (by simp))

theorem calRun_calLeave : (tileAt (calLeave s k r) k).calRun = none := (unstaged_calLeave s k r).2

theorem calLeave_stagedAt : (calLeave s k r).stagedAt = s.stagedAt := by
  rw [(unstaged_calLeave s k r).1.staged, stateLeft_stagedAt, setCalStatus, wrF_stagedAt]

theorem calLeave_act (h : tileState s k ≠ 4) : (calLeave s k r).act = s.act := by
  have hstate : tileState (setCalStatus s k 0 0 0) k ≠ 4 := by
    rwa [tileState_congr (rd_setCalStatus_ne s k 0 0 0 (tileReg_ne (by decide)))]
  rw [(unstaged_calLeave s k r).1.act, stateLeft_of_ne _ _ hstate, setCalStatus, wrF_act]

theorem rbit_calLeave : rbit (calLeave s k r) (tileReg k 4) 7 = rbit s (tileReg k 4) 7 := by
  have hne : tileReg k 4 ∉ ({calReg 0x20} : Set Nat) := tileReg_ne_calReg k (by decide) _
  rw [(unstaged_calLeave s k r).1.rbit hne, rbit_stateLeft, rbit, rdF, rd_setCalStatus_ne _ _ _ _ _ (tileReg_ne (by decide))]
  rfl

theorem calStatus_calLeave (hi lo : Nat) : calStatus (calLeave s k r) k hi lo = calStatus (setCalStatus s k 0 0 0) k hi lo :=
  (confined_calLeave s k r).calStatus (by simp [tileReg_ne_calReg]) hi lo

end Leave

/-! ### Commands are answered (16 Table 16.8) -/

/-- No command waits for the tile. -/
def withoutWaiters (x : TileSt) : TileSt := { x with calWait := [] }

/-- The attempts of a request are over. -/
def withoutTries (x : TileSt) : TileSt := { x with calTries := 0 }

section Answer

variable {os : Set Nat} (s : State) (k n : Nat)

theorem unstaged_calAnswer : Unstaged os s (calAnswer s k n) :=
  (unstaged_modTile s k (f := withoutWaiters)).trans (unstaged_foldl (fun r _ u => unstaged_finish u r _ _) _)

theorem finish_tiles (r : MbxRef) (st : Nat) (p : Bytes) : (finish s r st p).tiles = s.tiles := by
  unfold finish
  split
  · exact post_tiles ..
  · rfl

theorem calAnswer_tiles : (calAnswer s k n).tiles = (modTile s k withoutWaiters).tiles :=
  foldl_view (v := State.tiles) (fun r _ u => finish_tiles u r _ _) _

theorem calWait_calAnswer : (tileAt (calAnswer s k n) k).calWait = [] := by
  rw [tileAt_of_tiles (calAnswer_tiles s k n), tileAt_modTile_same]
  rfl

/-- The last answer of a request. -/
def lastAnswer : State := modTile (calAnswer s k n) k withoutTries

theorem unstaged_lastAnswer : Unstaged os s (lastAnswer s k n) := (unstaged_calAnswer s k n).trans (unstaged_modTile _ k)

theorem calWait_lastAnswer : (tileAt (lastAnswer s k n) k).calWait = [] := by
  rw [lastAnswer, tileAt_modTile_same]
  exact calWait_calAnswer s k n

end Answer

/-! ### A refresh or a rebuild that waited for the run -/

section Waited

variable {os : Set Nat} (s : State) (k : Nat)

theorem unstaged_refreshCal : Unstaged os s (refreshCal s k) := by
  unfold refreshCal
  split
  · exact .refl s
  · split
    · exact .ite (unstaged_modTile s _) (.refl s)
    · exact .ite (unstaged_modTile s _) (.refl s)
    · exact .refl s

theorem unstaged_refreshStuck : Unstaged os s (refreshStuck s k) := by
  unfold refreshStuck
  split
  · exact .refl s
  · split
    · exact .ite (unstaged_modTile s _) (.refl s)
    · exact .ite (unstaged_modTile s _) (.refl s)
    · exact .ite (unstaged_modTile s _) (.refl s)
    · exact .refl s

theorem unstaged_remapStage : Unstaged remapWords s (remapStage s) :=
  unstaged_foldl (fun _ _ u => unstaged_wr u _ (remapReg_mem_remapWords _)) s

theorem remapStage_butWords : (remapStage s).butWords = s.butWords :=
  foldl_view (v := State.butWords) (fun _ _ u => wr_butWords u _ _) s

theorem tileAt_remapStage (j : Nat) : tileAt (remapStage s) j = tileAt s j := tileAt_of_tiles (tiles_of_butWords (remapStage_butWords s)) j

end Waited

end Sys2Proof.Machine
end

section
/-! PROOF. O54: a run that agrees sets what it measured (07 R167-R169, R172). -/

namespace Sys2Proof.Machine

/-! ### Fields of calibration words -/

section Fields

variable {os : Set Nat} (s : State) (serving : Bool)

theorem confined_wrCalF {o : Nat} (hi lo v : Nat) (h : o ∈ os) : Confined os s (wrCalF s serving o hi lo v) := confined_wrCal s serving _ h

theorem rdF_wrCalF_same (o : Nat) {hi lo : Nat} (v : Nat) (h : hi < 32) (hl : lo ≤ hi) :
    rdF (wrCalF s serving o hi lo v) o hi lo = v % 2 ^ (hi + 1 - lo) := by
  rw [wrCalF, rdF, rd_wrCal_same, fld_setFld_same _ _ h hl]

variable (k : Nat)

/-- The trims of all converters (07 Table 07.6). -/
theorem confined_wrTrims (l : List AdcSets) : Confined (tileWords k 0x1200 0x1B00) s (wrTrims s serving k l) := by
  refine confined_foldl (fun a ha u => confined_wrCal u serving _ (tileReg_mem_tileWords.mpr ⟨by omega, ?_⟩)) s
  have hconv : a.1 ≤ 520 := by
    have := (List.mem_filter.mp ha).2
    simp only [Bool.and_eq_true, decide_eq_true_eq] at this
    exact this.1
  omega

theorem confined_wrCols (l : List ColFit) : Confined (tileWords k 0x1B00 0x2000) s (wrCols s serving k l) := by
  refine confined_foldl (fun c hc u => confined_wrCalF u serving _ _ _ (tileReg_mem_tileWords.mpr ⟨by omega, ?_⟩)) s
  have hcol : c.col < 520 := by simpa using (List.mem_filter.mp hc).2
  omega

theorem confined_wrTc (temp : Int) (rNew : Nat) : Confined {tileReg k 0x1008} s (wrTc s serving k temp rNew) := by
  unfold wrTc
  extract_lets dT
  split
  · split
    · exact confined_wrCalF s serving _ _ _ rfl
    · exact .refl s
  · exact .refl s

end Fields

/-! ### The values of a run (07 R167, R168, R172) -/

/-- The calibration words that a run may write. -/
def valueWords (k : Nat) : Set Nat := tileWords k 0x1004 0x1018 ∪ tileWords k 0x1200 0x2000

section Values

variable (s : State) (serving : Bool) (k : Nat) (r : CalRun) (x : RefReads)

/-- The trims, the temperature coefficient and the three words of the reference readings are written. -/
def refsWritten : State :=
  wrCalF (wrCalF (wrCalF (wrTc (wrTrims s serving k r.adc) serving k r.temp (refCode x)) serving (tileReg k 0x1010) 15 0 (tiCode x)) serving
    (tileReg k 0x100C) 15 0 (refCode x)) serving (tileReg k 0x1004) 15 0 (unsgn 16 r.temp)

/-- The tile keeps the reference reading and the temperature for the next run. -/
def withReference (x : TileSt) (serving : Bool) (code : Nat) (temp : Int) : TileSt :=
  { x with prevRef := some (code, temp), tempNext := temp, tempNow := if serving then x.tempNow else temp }

/-- What every run that agrees writes. -/
def refsTaken : State := modTile (refsWritten s serving k r x) k (fun t => withReference t serving (refCode x) r.temp)

theorem runValues_eq : runValues s serving k r x =
    if r.cls = 2 then wrCalF (wrCols (refsTaken s serving k r x) serving k r.cols) serving (tileReg k 0x1014) 16 0
      (arrayAt (refsTaken s serving k r x) k).cycles
    else refsTaken s serving k r x := rfl

theorem confined_refsWritten : Confined (valueWords k) s (refsWritten s serving k r x) := by
  have htrims := confined_wrTrims s serving k r.adc
  have htc := confined_wrTc (wrTrims s serving k r.adc) serving k r.temp (refCode x)
  refine (((((htrims.mono ?trims).trans (htc.mono ?tc)).trans (confined_wrCalF _ _ _ _ _ ?ti)).trans
    (confined_wrCalF _ _ _ _ _ ?ref)).trans (confined_wrCalF _ _ _ _ _ ?temp))
  case trims => exact fun p ⟨a, hlo, hhi, hp⟩ => .inr ⟨a, hlo, by omega, hp⟩
  all_goals simp [valueWords]

theorem confined_refsTaken : Confined (valueWords k) s (refsTaken s serving k r x) :=
  (confined_refsWritten s serving k r x).trans (unstaged_modTile _ k).toConfined

/-- A column run goes on to write the scales and the program count they hold for. -/
theorem confined_runValues_refsTaken :
    Confined (tileWords k 0x1014 0x1018 ∪ tileWords k 0x1B00 0x2000) (refsTaken s serving k r x) (runValues s serving k r x) := by
  rw [runValues_eq]
  split
  · exact ((confined_wrCols _ serving k r.cols).mono Set.subset_union_right).trans (confined_wrCalF _ _ _ _ _ (by simp))
  · exact .refl _

theorem confined_runValues : Confined (valueWords k) s (runValues s serving k r x) := by
  refine (confined_refsTaken s serving k r x).trans ((confined_runValues_refsTaken s serving k r x).mono ?_)
  rintro p (⟨a, hlo, hhi, hp⟩ | ⟨a, hlo, hhi, hp⟩)
  · exact .inl ⟨a, by omega, hhi, hp⟩
  · exact .inr ⟨a, by omega, hhi, hp⟩

/-- The words of the reference readings are left by what a column run writes besides. -/
theorem rdF_runValues_refsWritten {a : Nat} (ha : a < 0x1014) (hi lo : Nat) :
    rdF (runValues s serving k r x) (tileReg k a) hi lo = rdF (refsWritten s serving k r x) (tileReg k a) hi lo :=
  ((confined_runValues_refsTaken s serving k r x).rdF (by simp; omega) hi lo).trans (rdF_of_cw (modTile_cw ..) _ hi lo)

theorem rdF_wrCalF_ne {o p : Nat} (hi lo v hi' lo' : Nat) (h : p ≠ o) : rdF (wrCalF s serving o hi lo v) p hi' lo' = rdF s p hi' lo' :=
  (confined_wrCalF (os := {o}) s serving hi lo v rfl).rdF h hi' lo'

theorem runValues_temp : rdF (runValues s serving k r x) (tileReg k 0x1004) 15 0 = unsgn 16 r.temp % 2 ^ 16 := by
  rw [rdF_runValues_refsWritten _ _ _ _ _ (by decide), refsWritten, rdF_wrCalF_same _ _ _ _ (by decide) (by decide)]

theorem runValues_ref : rdF (runValues s serving k r x) (tileReg k 0x100C) 15 0 = refCode x % 2 ^ 16 := by
  rw [rdF_runValues_refsWritten _ _ _ _ _ (by decide), refsWritten, rdF_wrCalF_ne _ _ _ _ _ _ _ (tileReg_ne (by decide)),
    rdF_wrCalF_same _ _ _ _ (by decide) (by decide)]

theorem runValues_ti : rdF (runValues s serving k r x) (tileReg k 0x1010) 15 0 = tiCode x % 2 ^ 16 := by
  rw [rdF_runValues_refsWritten _ _ _ _ _ (by decide), refsWritten, rdF_wrCalF_ne _ _ _ _ _ _ _ (tileReg_ne (by decide)),
    rdF_wrCalF_ne _ _ _ _ _ _ _ (tileReg_ne (by decide)), rdF_wrCalF_same _ _ _ _ (by decide) (by decide)]

theorem runValues_stamp (h : r.cls = 2) :
    rdF (runValues s serving k r x) (tileReg k 0x1014) 16 0 = (arrayAt s k).cycles % 2 ^ 17 := by
  rw [runValues_eq, if_pos h, rdF_wrCalF_same _ _ _ _ (by decide) (by decide),
    arrayAt_of_arrays (confined_refsTaken s serving k r x).arrays]

end Values

theorem unsgn_lt (n : Nat) (v : Int) : unsgn n v < 2 ^ n := by
  have hpos : (0 : Int) < (2 ^ n : Nat) := by exact_mod_cast Nat.two_pow_pos n
  have hlt := Int.emod_lt_of_pos v hpos
  have hnn := Int.emod_nonneg v hpos.ne'
  unfold unsgn
  omega

/-- A code of a scale fits its sixteen bits. -/
theorem scaleCode_lt (n d : Int) : scaleCode n d < 2 ^ 16 := by
  unfold scaleCode clampI
  split
  · decide
  · split
    · decide
    · omega

/-! ### A run that passes -/

section Shown

variable (s : State) (k : Nat) (r : CalRun)

/-- The run status of a tile whose run has passed: no failure in a row, and scales that hold after a column run. -/
def passStatus : State := if r.cls = 2 then setCalStatus (setCalStatus s k 6 5 0) k 7 7 1 else setCalStatus s k 6 5 0

/-- The run that has passed is counted, and the tile has not failed for good. -/
def passShown : State := incWrap (wbit (passStatus s k r) (tileReg k 4) 7 false) (tileReg k 0x1018) 1

theorem unstaged_setCalStatus {os : Set Nat} (hi lo v : Nat) (h : tileReg k 0x1000 ∈ os) : Unstaged os s (setCalStatus s k hi lo v) :=
  unstaged_wr s _ h

theorem unstaged_passStatus : Unstaged {tileReg k 0x1000} s (passStatus s k r) :=
  have hcleared := unstaged_setCalStatus (os := {tileReg k 0x1000}) s k 6 5 0 rfl
  .ite (hcleared.trans (unstaged_setCalStatus _ k 7 7 1 rfl)) hcleared

theorem unstaged_passShown : Unstaged {tileReg k 0x1000, tileReg k 4, tileReg k 0x1018} s (passShown s k r) :=
  (((unstaged_passStatus s k r).mono (by simp)).trans (unstaged_wr _ _ (by simp))).trans (unstaged_wr _ _ (by simp))

theorem calStatus_passShown (hi lo : Nat) : calStatus (passShown s k r) k hi lo = calStatus (passStatus s k r) k hi lo := by
  rw [passShown]
  exact calStatus_congr ((rd_incWrap_ne _ 1 (tileReg_ne (by decide))).trans (rd_wbit_ne _ 7 false (tileReg_ne (by decide)))) hi lo

theorem passShown_idle : calStatus (passShown s k r) k 0 0 = calStatus s k 0 0 := by
  rw [calStatus_passShown, passStatus]
  split <;> simp (disch := decide) only [calStatus_setCalStatus_other]

theorem passShown_fails : calStatus (passShown s k r) k 6 5 = 0 := by
  rw [calStatus_passShown, passStatus]
  split <;> simp (disch := decide) only [calStatus_setCalStatus_other, calStatus_setCalStatus_same] <;> rfl

theorem passShown_columns (h : r.cls = 2) : calStatus (passShown s k r) k 7 7 = 1 := by
  rw [calStatus_passShown, passStatus, if_pos h, calStatus_setCalStatus_same _ _ _ (by decide) (by decide)]
  rfl

theorem passShown_failed : rbit (passShown s k r) (tileReg k 4) 7 = false := by
  rw [passShown, rbit, rdF, rd_incWrap_ne _ _ (tileReg_ne (by decide))]
  exact rbit_wbit_same _ _ false (by decide)

theorem passShown_count : rd (passShown s k r) (tileReg k 0x1018) = rd s (tileReg k 0x1018) + 1 := by
  rw [passShown, rd_incWrap_same, rd_wbit_ne _ _ _ (tileReg_ne (by decide)),
    (unstaged_passStatus s k r).words _ (by simp [Set.mem_singleton_iff])]
  rfl

end Shown

/-- The values of a run that passes are written once the tile has left it: staged where it serves, in force elsewhere (07 R176). -/
def passValues (s : State) (k : Nat) (r : CalRun) (x : RefReads) : State :=
  runValues (calLeave s k r) (tileState (calLeave s k r) k == 2) k r x

/-- What follows on the tiles: the tile keeps when its run ended, and a refresh or a cover that waited for it goes on (06 Table 06.3). -/
theorem calPass_follows (s : State) (k : Nat) (r : CalRun) (x : RefReads) : ∃ u,
    Unstaged ∅ (passShown (passValues s k r x) k r) u ∧ calPass s k r x = lastAnswer u k 0 := by
  unfold calPass
  extract_lets left values cleared status good counted tile drift refreshed covered
  have hcounted : counted = passShown values k r := rfl
  have htile : Unstaged ∅ counted tile := unstaged_modTile counted k
  have hdrift : Unstaged ∅ tile drift := .ite (unstaged_modTile tile k) (.refl tile)
  have hrefreshed : Unstaged ∅ drift refreshed := unstaged_refreshCal drift k
  have hcovered : Unstaged ∅ refreshed covered := .ite (unstaged_modTile refreshed k) (.refl refreshed)
  exact ⟨covered, hcounted ▸ ((htile.trans hdrift).trans hrefreshed).trans hcovered, rfl⟩

end Sys2Proof.Machine
end

section
/-! PROOF. O54: a run that does not agree leaves every value and counts a failure; the third in a row marks the tile (07 R170, R173). -/

namespace Sys2Proof.Machine

/-! ### The failure is counted -/

/-- A tile has one attempt of its request more behind it. -/
def withTry (x : TileSt) : TileSt := { x with calTries := x.calTries + 1 }

/-- The tile has left its run, and the failed attempt is counted. -/
def missCounted (s : State) (k : Nat) (r : CalRun) : State := modTile (incHold (calLeave s k r) (tileReg k 0x101C) 16 1) k withTry

section Counted

variable (s : State) (k : Nat) (r : CalRun)

theorem unstaged_missCounted : Unstaged {tileReg k 0x101C} (calLeave s k r) (missCounted s k r) :=
  (unstaged_wr _ _ (Set.mem_singleton _)).trans (unstaged_modTile _ k)

theorem confined_missCounted :
    Confined {tileReg k 0, tileReg k 4, tileReg k 0x101C, calReg 0x20} (setCalStatus s k 0 0 0) (missCounted s k r) :=
  ((confined_calLeave s k r).mono (by simp [Set.insert_subset_iff])).trans ((unstaged_missCounted s k r).toConfined.mono (by simp))

theorem calRun_missCounted : (tileAt (missCounted s k r) k).calRun = none := (unstaged_missCounted s k r).idle k (calRun_calLeave s k r)

theorem missCounted_act (h : tileState s k ≠ 4) : (missCounted s k r).act = s.act := (unstaged_missCounted s k r).act.trans (calLeave_act s k r h)

theorem missCounted_stagedAt : (missCounted s k r).stagedAt = s.stagedAt := (unstaged_missCounted s k r).staged.trans (calLeave_stagedAt s k r)

theorem rbit_missCounted : rbit (missCounted s k r) (tileReg k 4) 7 = rbit s (tileReg k 4) 7 :=
  ((unstaged_missCounted s k r).rbit (by simp) 7).trans (rbit_calLeave s k r)

theorem calStatus_missCounted (hi lo : Nat) : calStatus (missCounted s k r) k hi lo = calStatus (setCalStatus s k 0 0 0) k hi lo :=
  (confined_missCounted s k r).calStatus (by simp [tileReg_ne_calReg]) hi lo

theorem rd_missCounted_count :
    rd (missCounted s k r) (tileReg k 0x101C) = BitVec.ofNat 32 (Nat.min ((rd s (tileReg k 0x101C)).toNat + 1) 0xFFFF) := by
  have hleft : rd (calLeave s k r) (tileReg k 0x101C) = rd s (tileReg k 0x101C) :=
    ((confined_calLeave s k r).words _ (by simp [tileReg_ne_calReg])).trans (rd_setCalStatus_ne _ _ _ _ _ (tileReg_ne (by decide)))
  rw [missCounted, rd_of_cw (modTile_cw ..), rd_incHold_same, hleft]
  rfl

end Counted

/-! ### The first and second failure in a row (07 R173) -/

/-- The request is made again: in its row and with its class, merged with what is pending. -/
def requestedAgain (s : State) (k : Nat) (r : CalRun) : State :=
  if r.row = 0 then s else setCalStatus (setCalStatus s k 4 3 (Nat.max (calStatus s k 4 3) r.cls)) k 12 10 r.row

/-- The status of a tile whose run has failed, `n` runs before it in a row. -/
def missShown (s : State) (k : Nat) (r : CalRun) (n : Nat) : State := requestedAgain (setCalStatus (missCounted s k r) k 6 5 (n + 1)) k r

theorem calMiss_of_few {s : State} {k : Nat} (r : CalRun) (h : calStatus s k 6 5 < 2) :
    calMiss s k r = calAnswer (missShown s k r (calStatus s k 6 5)) k 1 := if_pos h

section Again

variable (s : State) (k : Nat) (r : CalRun)

theorem unstaged_requestedAgain : Unstaged {tileReg k 0x1000} s (requestedAgain s k r) :=
  .ite (.refl s) ((unstaged_setCalStatus s k 4 3 _ (Set.mem_singleton _)).trans (unstaged_setCalStatus _ k 12 10 _ (Set.mem_singleton _)))

theorem unstaged_missShown (n : Nat) : Unstaged {tileReg k 0x1000} (missCounted s k r) (missShown s k r n) :=
  (unstaged_setCalStatus _ k 6 5 _ (Set.mem_singleton _)).trans (unstaged_requestedAgain _ k r)

/-- The request alone changes. -/
theorem calStatus_requestedAgain_below {hi : Nat} (lo : Nat) (h : hi < 3) : calStatus (requestedAgain s k r) k hi lo = calStatus s k hi lo := by
  unfold requestedAgain
  split
  · rfl
  · rw [calStatus_setCalStatus_other _ _ _ (by decide) (by decide) (by omega) (.inl (by omega)),
      calStatus_setCalStatus_other _ _ _ (by decide) (by decide) (by omega) (.inl (by omega))]

theorem calStatus_requestedAgain_fails : calStatus (requestedAgain s k r) k 6 5 = calStatus s k 6 5 := by
  unfold requestedAgain
  split
  · rfl
  · simp (disch := decide) only [calStatus_setCalStatus_other]

theorem calStatus_requestedAgain_pending (hrow : r.row ≠ 0) (hcls : r.cls < 4) :
    calStatus (requestedAgain s k r) k 4 3 = Nat.max (calStatus s k 4 3) r.cls := by
  rw [requestedAgain, if_neg hrow, calStatus_setCalStatus_other _ _ _ (by decide) (by decide) (by decide) (.inl (by decide)),
    calStatus_setCalStatus_same _ _ _ (by decide) (by decide)]
  exact Nat.mod_eq_of_lt (Nat.max_lt.mpr ⟨rdF_lt s _ 4 3, hcls⟩)

theorem missShown_idle (n : Nat) : calStatus (missShown s k r n) k 0 0 = 0 := by
  rw [missShown, calStatus_requestedAgain_below _ _ _ _ (by decide),
    calStatus_setCalStatus_other _ _ _ (by decide) (by decide) (by decide) (.inl (by decide)), calStatus_missCounted,
    calStatus_setCalStatus_same _ _ _ (by decide) (by decide)]
  rfl

theorem missShown_fails {n : Nat} (h : n < 2) : calStatus (missShown s k r n) k 6 5 = n + 1 := by
  rw [missShown, calStatus_requestedAgain_fails, calStatus_setCalStatus_same _ _ _ (by decide) (by decide)]
  exact Nat.mod_eq_of_lt (by omega)

theorem missShown_pending (n : Nat) (hrow : r.row ≠ 0) (hcls : r.cls < 4) :
    calStatus (missShown s k r n) k 4 3 = Nat.max (calStatus s k 4 3) r.cls := by
  rw [missShown, calStatus_requestedAgain_pending _ _ _ hrow hcls,
    calStatus_setCalStatus_other _ _ _ (by decide) (by decide) (by decide) (.inl (by decide)), calStatus_missCounted,
    calStatus_setCalStatus_other _ _ _ (by decide) (by decide) (by decide) (.inr (by decide))]

end Again

/-! ### The third in a row (07 R170, R173) -/

/-- The tile is marked CAL_FAILED, counted and signalled. -/
def failMarked (s : State) (k : Nat) : State := signal (incHold (wbit s (tileReg k 4) 7 true) (calReg 0x24) 16 1) 0 67

/-- What becomes of its values: they go to the spare tile, or a fault is recorded. -/
def failPlaced (s : State) (k : Nat) : State :=
  if rbit s (chReg 0) 3 && spareIdle s k && (tileAt s k).owner.isSome && (tileAt s k).refresh.isNone then
    modTile (placeSpare s k .retire) k (fun t => { t with retireNext := true })
  else tileFault s 2 11 k

theorem calFailed_of_new {s : State} {k : Nat} (h : rbit s (tileReg k 4) 7 = false) : calFailed s k = failPlaced (failMarked s k) k := by
  rw [calFailed, h, if_neg Bool.false_ne_true]
  rfl

/-- A tile whose third run in a row has failed. -/
def missFailed (s : State) (k : Nat) (r : CalRun) : State := failPlaced (failMarked (setCalStatus (missCounted s k r) k 6 5 3) k) k

theorem calMiss_of_third {s : State} {k : Nat} (r : CalRun) (h : 2 ≤ calStatus s k 6 5) (hnew : rbit s (tileReg k 4) 7 = false) :
    calMiss s k r = lastAnswer (refreshStuck (missFailed s k r) k) k 2 := by
  have hbit : rbit (setCalStatus (missCounted s k r) k 6 5 3) (tileReg k 4) 7 = false := by
    rw [rbit, rdF, rd_setCalStatus_ne _ _ _ _ _ (tileReg_ne (by decide))]
    exact (rbit_missCounted s k r).trans hnew
  rw [missFailed, ← calFailed_of_new hbit]
  exact if_neg (Nat.not_lt.mpr h)

section Third

variable (s : State) (k : Nat) (r : CalRun)

theorem unstaged_failMarked : Unstaged {tileReg k 4, calReg 0x24} s (failMarked s k) :=
  ((unstaged_wr s _ (by simp)).trans (unstaged_wr _ _ (by simp))).trans (unstaged_signal _ 0 67)

theorem failMarked_failed : rbit (failMarked s k) (tileReg k 4) 7 = true := by
  rw [failMarked, rbit, rdF, rd_signal, rd_incHold_ne _ _ _ (tileReg_ne_calReg k (by decide) _)]
  exact rbit_wbit_same s _ true (by decide)

theorem failMarked_count :
    rd (failMarked s k) (calReg 0x24) = BitVec.ofNat 32 (Nat.min ((rd s (calReg 0x24)).toNat + 1) 0xFFFF) := by
  rw [failMarked, rd_signal, rd_incHold_same, rd_wbit_ne _ _ _ (calReg_ne_tileReg k (by decide) _)]
  rfl

theorem unstaged_placeSpare (why : ProgFor) : Unstaged {tileReg (spareKey k) 4} s (placeSpare s k why) := by
  unfold placeSpare placeSpareJob
  exact ((unstaged_modTile s (spareKey k)).trans (unstaged_wr _ _ (Set.mem_singleton _))).trans (unstaged_modTile _ k)

theorem unstaged_failPlaced : Unstaged ({tileReg (spareKey k) 4} ∪ faultWords) s (failPlaced s k) :=
  .ite (((unstaged_placeSpare s k .retire).mono Set.subset_union_left).trans (unstaged_modTile _ k))
    ((unstaged_faultRecord s _).mono Set.subset_union_right)

theorem rbit_placeSpare (why : ProgFor) (p : Nat) : rbit (placeSpare s k why) p 7 = rbit s p 7 := by
  rw [placeSpare, placeSpareJob, rbit_of_cw (modTile_cw ..), rbit, rdF_setTileState_above _ _ _ (by decide) (by decide),
    rdF_of_cw (modTile_cw ..)]
  rfl

/-- The mark stays, whatever becomes of the values. -/
theorem rbit_failPlaced : rbit (failPlaced s k) (tileReg k 4) 7 = rbit s (tileReg k 4) 7 := by
  unfold failPlaced
  split
  · exact (rbit_of_cw (modTile_cw ..) _ 7).trans (rbit_placeSpare s k .retire _)
  · exact (unstaged_faultRecord s _).rbit (Nat.not_le.mpr (Nat.lt_trans (tileReg_lt (by decide)) (by decide))) 7

theorem unstaged_missFailed : Unstaged Set.univ (missCounted s k r) (missFailed s k r) :=
  (((unstaged_setCalStatus _ k 6 5 3 (Set.mem_univ _)).trans ((unstaged_failMarked _ k).mono (Set.subset_univ _))).trans
    ((unstaged_failPlaced _ k).mono (Set.subset_univ _)))

theorem missFailed_fails : calStatus (missFailed s k r) k 6 5 = 3 := by
  have hplaced : tileReg k 0x1000 ∉ ({tileReg (spareKey k) 4} ∪ faultWords : Set Nat) := by
    rintro (h | h)
    · exact tileReg_ne_tileReg (by decide) (by decide) (by decide) h
    · exact absurd h (Nat.not_le.mpr (Nat.lt_trans (tileReg_lt (by decide)) (by decide)))
  have hmarked : tileReg k 0x1000 ∉ ({tileReg k 4, calReg 0x24} : Set Nat) := by simp [tileReg_ne_calReg]
  rw [missFailed, (unstaged_failPlaced _ k).calStatus hplaced, (unstaged_failMarked _ k).calStatus hmarked,
    calStatus_setCalStatus_same _ _ _ (by decide) (by decide)]
  rfl

theorem missFailed_failed : rbit (missFailed s k r) (tileReg k 4) 7 = true := by rw [missFailed, rbit_failPlaced, failMarked_failed]

theorem rd_missFailed_count :
    rd (missFailed s k r) (calReg 0x24) = BitVec.ofNat 32 (Nat.min ((rd s (calReg 0x24)).toNat + 1) 0xFFFF) := by
  have hplaced : calReg 0x24 ∉ ({tileReg (spareKey k) 4} ∪ faultWords : Set Nat) := by
    rintro (h | h)
    · exact calReg_ne_tileReg (spareKey k) (by decide) _ h
    · exact absurd h (by decide : ¬ 0x0F000000 ≤ calReg 0x24)
  have hcounted : rd (missCounted s k r) (calReg 0x24) = rd (setCalStatus s k 0 0 0) (calReg 0x24) :=
    (confined_missCounted s k r).words _ (by simp [calReg_ne_tileReg])
  rw [missFailed, (unstaged_failPlaced _ k).words _ hplaced, failMarked_count,
    rd_setCalStatus_ne _ _ _ _ _ (calReg_ne_tileReg k (by decide) _), hcounted,
    rd_setCalStatus_ne _ _ _ _ _ (calReg_ne_tileReg k (by decide) _)]

end Third

end Sys2Proof.Machine
end

section
/-! PROOF. O54: CAL_RUN_END, by whether the run is done and agrees (07 K5, R172, R173), and the whole statement. -/

namespace Sys2Proof.Machine

section RunEnd

variable {s : State} {k : Nat} {r : CalRun}

theorem calRunEnd_of_pass {x : RefReads} (hrun : (tileAt s k).calRun = some r) (hdone : runDone r = true) (hrefs : r.refs = some x)
    (hpass : runPasses s k r = true) : calRunEnd s k = calPass s k r x := by
  simp [calRunEnd, hrun, hdone, hrefs, hpass]

theorem calRunEnd_of_miss (hrun : (tileAt s k).calRun = some r) (hdone : runDone r = true)
    (hmiss : r.refs = none ∨ runPasses s k r = false) : calRunEnd s k = calMiss s k r := by
  rcases hmiss with h | h
  · simp [calRunEnd, hrun, hdone, h]
  · cases hrefs : r.refs <;> simp [calRunEnd, hrun, hdone, h, hrefs]

theorem calRunEnd_of_notDone (h : ∀ r, (tileAt s k).calRun = some r → runDone r = false) : calRunEnd s k = s := by
  cases hrun : (tileAt s k).calRun with
  | none => simp [calRunEnd, hrun]
  | some r => simp [calRunEnd, hrun, h r hrun]

/-- A run that is done is a reference run or a column run. -/
theorem cls_lt_of_runDone (h : runDone r = true) : r.cls < 4 := by
  simp only [runDone, Bool.or_eq_true, Bool.and_eq_true, beq_iff_eq] at h
  omega

/-- Where no Spoon run waits afterwards, a rebuild that waited for the run is all that follows its end. -/
theorem execCalRunEnd_eq {site slot : Nat} {u : State} (hwf : tileWf site slot = true) (hend : calRunEnd s (tkey site slot) = u)
    (hwaits : NoRunWaits u) : exec (.calRunEnd site slot) s = .next (remapStage u) := by
  have hexec : exec (.calRunEnd site slot) s = .next (remapStage (spoonWake (calRunEnd s (tkey site slot)))) := onUnit_of_true hwf _
  rw [hexec, hend, spoonWake_of_noRunWaits hwaits]

variable (s k r)

theorem unstaged_statusIdle : Unstaged {tileReg k 0x1000} s (setCalStatus s k 0 0 0) := unstaged_setCalStatus s k 0 0 0 rfl

/-- A run that passes: what follows the status that shows it is the answers and the remaps. -/
theorem calPass_ends (x : RefReads) : ∃ u, calPass s k r x = u ∧ Confined Set.univ s u ∧
    Unstaged remapWords (passShown (passValues s k r x) k r) (remapStage u) ∧
    (tileAt (remapStage u) k).calRun = none ∧ (tileAt (remapStage u) k).calWait = [] := by
  obtain ⟨u, hfollows, hpass⟩ := calPass_follows s k r x
  have hvalues : Confined (valueWords k) (calLeave s k r) (passValues s k r x) := confined_runValues _ _ k r x
  have hshown := unstaged_passShown (passValues s k r x) k r
  have hanswer : Unstaged ∅ u (lastAnswer u k 0) := unstaged_lastAnswer u k 0
  have hends := hfollows.trans hanswer
  have hvalued : Confined Set.univ (calLeave s k r) (lastAnswer u k 0) :=
    ((hvalues.mono (Set.subset_univ _)).trans (hshown.toConfined.mono (Set.subset_univ _))).trans (hends.toConfined.mono (Set.subset_univ _))
  have hleft : Confined Set.univ s (calLeave s k r) :=
    ((unstaged_statusIdle s k).toConfined.mono (Set.subset_univ _)).trans ((confined_calLeave s k r).mono (Set.subset_univ _))
  refine ⟨lastAnswer u k 0, hpass, hleft.trans hvalued, (hends.mono (Set.empty_subset _)).trans (unstaged_remapStage _), ?ended, ?answered⟩
  case ended => rw [tileAt_remapStage]; exact hvalued.idle k (calRun_calLeave s k r)
  case answered => rw [tileAt_remapStage]; exact calWait_lastAnswer u k 0

/-- Of the tile's words, the words that a pass shows are those that stand in the end. -/
theorem passShown_values (x : RefReads) {a : Nat} (ha : a ∉ [0x1000, 4, 0x1018]) (hi lo : Nat) :
    rdF (passShown (passValues s k r x) k r) (tileReg k a) hi lo = rdF (passValues s k r x) (tileReg k a) hi lo := by
  refine (unstaged_passShown _ k r).rdF ?_ hi lo
  simpa using ha

/-- Beside the values a pass writes the words that the tile's leaving the run has left. -/
theorem rd_passValues_of_left (x : RefReads) {a : Nat} (h : a < 0x1004 ∨ 0x1018 ≤ a ∧ a < 0x1200) :
    rd (passValues s k r x) (tileReg k a) = rd (calLeave s k r) (tileReg k a) := by
  refine (confined_runValues _ _ k r x).words _ ?_
  simp only [valueWords, Set.mem_union, tileReg_mem_tileWords]
  omega

theorem rd_calLeave_of_counter {a : Nat} (h : 0x1018 ≤ a ∧ a < 0x2000) : rd (calLeave s k r) (tileReg k a) = rd s (tileReg k a) := by
  have hleft : tileReg k a ∉ ({tileReg k 0, tileReg k 4, calReg 0x20} : Set Nat) := by
    simp only [Set.mem_insert_iff, Set.mem_singleton_iff, tileReg_inj, tileReg_ne_calReg k h.2, or_false]
    omega
  exact ((confined_calLeave s k r).words _ hleft).trans (rd_setCalStatus_ne s k 0 0 0 (tileReg_ne (by omega)))

/-- A run that misses for the first or second time in a row: the answers and the remaps follow its status. -/
theorem unstaged_missEnds (n : Nat) : Unstaged remapWords (missShown s k r n) (remapStage (calAnswer (missShown s k r n) k 1)) :=
  (unstaged_calAnswer _ k 1).trans (unstaged_remapStage _)

/-- And for the third time. -/
theorem unstaged_missFailedEnds : Unstaged remapWords (missFailed s k r) (remapStage (lastAnswer (refreshStuck (missFailed s k r) k) k 2)) :=
  ((unstaged_refreshStuck _ k).trans (unstaged_lastAnswer _ k 2)).trans (unstaged_remapStage _)

end RunEnd

/-- Settles O54: requests, starts and stages by what each writes; the end of a run by the states it passes through (`Confined`,
`Unstaged`), in which each word of the statement is written once and then left. -/
theorem calibrationRuns : Obligations.CalibrationRuns := by
  unfold Obligations.CalibrationRuns
  refine ⟨?requests, ?idleStarts, ?servingStarts, ?waits, ?stages, ?passes, ?misses, ?fails, ?notDone⟩
  case requests =>
    intro s m hready hsite htile hcls hzero hhere hshadow
    refine ⟨calRequested s m, execCalRun_of_allowed ⟨hready, hsite, htile, hcls, hzero, hhere, hshadow⟩, responds_calRequested s m, ?wait,
      fun hdeaf hcover => calRequested_raises hdeaf hcover (by omega), calRequested_of_deaf, sameWords_calRequested s m,
      fun k hk => tileAt_calRequested_ne s m hk, calRequested_arrays s m, calRequested_cores s m⟩
    exact congrArg TileSt.calWait (tileAt_calRequested_same s m)
  case idleStarts =>
    intro s site slot hwf hinitial hstart hroom hfirst hidle
    refine ⟨_, execCalRunStart_eq hwf s, ?_⟩
    generalize tkey site slot = k at *
    rw [calRunStart_of_idle ⟨hinitial, hstart, hroom, hfirst⟩ hidle]
    obtain ⟨hrun, hcls, hpending, hrow⟩ := calStatus_calBegin s k (calStatus s k 12 10) (st := 4)
      (if (tileAt s k).coverRun then .spare else .none) (rdF_lt s _ 4 3)
    refine ⟨tileState_calBegin _ _ _ _ (by decide), hrun, hcls, hpending, hrow, ?begun, fun p hp => ?words,
      fun j hj => tileAt_calBegin_ne _ _ _ _ _ _ hj, calBegin_frame ..⟩
    case begun => rw [tileAt_calBegin_same, ← hidle]; rfl
    case words =>
      obtain ⟨hstate, hstatus⟩ := not_or.mp (List.mem_pair.not.mp hp)
      exact rd_calBegin_ne _ _ _ _ _ _ hstate hstatus
  case servingStarts =>
    intro s site slot m o hwf hinitial hstart hroom hfirst hserving hmember howner hgrant
    refine ⟨_, execCalRunStart_eq hwf s, ?_⟩
    generalize tkey site slot = k at *
    rw [calRunStart_of_granted ⟨hinitial, hstart, hroom, hfirst⟩ hserving hmember howner hgrant]
    obtain ⟨hrun, hcls, hpending, -⟩ := calStatus_calBegin s k (calStatus s k 12 10) (st := 2) .none (rdF_lt s _ 4 3)
    refine ⟨tileState_calBegin _ _ _ _ (by decide), hrun, hcls, hpending, ?begun, fun p hp => ?words,
      fun j hj => tileAt_calBegin_ne _ _ _ _ _ _ hj, calBegin_frame ..⟩
    case begun => rw [tileAt_calBegin_same, ← hserving]; rfl
    case words => exact rd_calBegin_of_same s k _ _ hserving (List.mem_singleton.not.mp hp)
  case waits =>
    intro s site slot hwf hinitial h
    rw [execCalRunStart_eq hwf, calRunStart_of_waits hinitial h]
  case stages =>
    intro s site slot r l x cs hwf hrun hl hcs
    refine ⟨_, _, _, _, execCalStageComplete_eq hwf _ s, execCalStageComplete_eq hwf _ s, execCalStageComplete_eq hwf _ s,
      execCalStageComplete_eq hwf _ s, ?_⟩
    rw [calStage_settled hrun, calStage_trims hrun hl, calStage_refs hrun, calStage_columns hrun hcs]
    refine ⟨calRun_ite_setRun hrun _, calRun_ite_setRun hrun _, calRun_ite_setRun hrun _, calRun_ite_setRun hrun _, fun t ht => ?frame⟩
    simp only [List.mem_cons, List.not_mem_nil, or_false] at ht
    rcases ht with rfl | rfl | rfl | rfl <;> exact ite_setRun_frame ..
  case passes =>
    intro s site slot r x hwf hrun hdone hrefs hpass hruns
    obtain ⟨u, hend, hall, hshown, hover, hanswered⟩ := calPass_ends s (tkey site slot) r x
    refine ⟨_, execCalRunEnd_eq hwf ((calRunEnd_of_pass hrun hdone hrefs hpass).trans hend) (hall.waits hruns), ?_⟩
    generalize tkey site slot = k at *
    have hword : ∀ {a}, a < 0x2000 → tileReg k a ∉ remapWords := tileReg_notMem_remapWords
    have hmem : Confined Set.univ u (remapStage u) := (unstaged_remapStage u).toConfined.mono (Set.subset_univ _)
    refine ⟨hover, ?idle, ?failures, fun hcls => ?columns, ?failed, ?temp, ?ref, ?ti, fun hcls => ?stamp, ?count, ?missed, hanswered,
      hmem.arrays.trans hall.arrays, hmem.store.trans hall.store, hmem.stackMem.trans hall.stackMem⟩
    case idle =>
      rw [hshown.calStatus (hword (by decide)), passShown_idle, calStatus_congr (rd_passValues_of_left s k r x (.inl (by decide))),
        calStatus_calLeave, calStatus_setCalStatus_same _ _ _ (by decide) (by decide)]
      rfl
    case failures => rw [hshown.calStatus (hword (by decide)), passShown_fails]
    case columns => rw [hshown.calStatus (hword (by decide)), passShown_columns _ _ _ hcls]
    case failed => rw [hshown.rbit (hword (by decide)), passShown_failed]
    case temp =>
      rw [hshown.rdF (hword (by decide)), passShown_values _ _ _ _ (by decide), passValues, runValues_temp]
      exact Nat.mod_eq_of_lt (unsgn_lt 16 _)
    case ref =>
      rw [hshown.rdF (hword (by decide)), passShown_values _ _ _ _ (by decide), passValues, runValues_ref]
      exact Nat.mod_eq_of_lt (scaleCode_lt _ _)
    case ti =>
      rw [hshown.rdF (hword (by decide)), passShown_values _ _ _ _ (by decide), passValues, runValues_ti]
      exact Nat.mod_eq_of_lt (scaleCode_lt _ _)
    case stamp =>
      have hleft : (calLeave s k r).arrays = s.arrays := (confined_calLeave s k r).arrays.trans (unstaged_statusIdle s k).arrays
      rw [hshown.rdF (hword (by decide)), passShown_values _ _ _ _ (by decide), passValues, runValues_stamp _ _ _ _ _ hcls,
        arrayAt_of_arrays hleft]
    case count =>
      rw [hshown.words _ (hword (by decide)), passShown_count, rd_passValues_of_left s k r x (.inr (by decide)),
        rd_calLeave_of_counter s k r (by decide)]
    case missed =>
      rw [hshown.words _ (hword (by decide)), (unstaged_passShown _ k r).words _ (by simp),
        rd_passValues_of_left s k r x (.inr (by decide)), rd_calLeave_of_counter s k r (by decide)]
  case misses =>
    intro s site slot r hwf hrun hdone hmiss hfew hruns
    have hend := (calRunEnd_of_miss hrun hdone hmiss).trans (calMiss_of_few r hfew)
    generalize hk : tkey site slot = k at *
    have hidle := unstaged_statusIdle s k
    have hcounted := confined_missCounted s k r
    have hshown := unstaged_missShown s k r (calStatus s k 6 5)
    have hends := unstaged_missEnds s k r (calStatus s k 6 5)
    have hword : ∀ {a}, a < 0x2000 → tileReg k a ∉ remapWords := tileReg_notMem_remapWords
    have hwaits := (unstaged_calAnswer (os := ∅) _ k 1).waits (hshown.waits (hcounted.waits (hidle.waits hruns)))
    refine ⟨_, execCalRunEnd_eq hwf (hk ▸ hend) hwaits, hends.idle k (hshown.idle k (calRun_missCounted s k r)), ?idle, ?failures,
      fun hrow => ?pending, ?count, fun p hp => ?words, fun hstate => ?act, ?staged, ?arrays, ?store, ?stackMem⟩
    case idle => rw [hends.calStatus (hword (by decide)), missShown_idle]
    case failures => rw [hends.calStatus (hword (by decide)), missShown_fails _ _ _ hfew]
    case pending => rw [hends.calStatus (hword (by decide)), missShown_pending _ _ _ _ hrow (cls_lt_of_runDone hdone)]
    case count => rw [hends.words _ (hword (by decide)), hshown.words _ (by simp), rd_missCounted_count]
    case words =>
      rw [List.mem_append, not_or] at hp
      obtain ⟨hp, hremap⟩ := hp
      simp only [List.mem_cons, List.not_mem_nil, or_false, not_or] at hp
      obtain ⟨hp0, hp4, hstatus, hcount, hhold⟩ := hp
      rw [hends.words p hremap, hshown.words p hstatus, hcounted.words p (by simp [hp0, hp4, hcount, hhold]), hidle.words p hstatus]
    case act => rw [hends.act, hshown.act, missCounted_act s k r hstate]
    case staged => rw [hends.staged, hshown.staged, missCounted_stagedAt]
    case arrays => rw [hends.arrays, hshown.arrays, hcounted.arrays, hidle.arrays]
    case store => rw [hends.store, hshown.store, hcounted.store, hidle.store]
    case stackMem => rw [hends.stackMem, hshown.stackMem, hcounted.stackMem, hidle.stackMem]
  case fails =>
    intro s site slot r hwf hrun hdone hmiss hmany hnew hruns
    have hend := (calRunEnd_of_miss hrun hdone hmiss).trans (calMiss_of_third r hmany hnew)
    generalize hk : tkey site slot = k at *
    have hidle := unstaged_statusIdle s k
    have hcounted := confined_missCounted s k r
    have hfailed := unstaged_missFailed s k r
    have hends := unstaged_missFailedEnds s k r
    have hword : ∀ {a}, a < 0x2000 → tileReg k a ∉ remapWords := tileReg_notMem_remapWords
    have hwaits := (unstaged_lastAnswer (os := ∅) _ k 2).waits ((unstaged_refreshStuck (os := ∅) _ k).waits
      (hfailed.waits (hcounted.waits (hidle.waits hruns))))
    refine ⟨_, execCalRunEnd_eq hwf (hk ▸ hend) hwaits, hends.idle k (hfailed.idle k (calRun_missCounted s k r)), ?failures, ?failed, ?count,
      ?answered, fun hstate => ?act, ?arrays, ?store, ?stackMem⟩
    case failures => rw [hends.calStatus (hword (by decide)), missFailed_fails]
    case failed => rw [hends.rbit (hword (by decide)), missFailed_failed]
    case count => rw [hends.words _ (notMem_remapWords (by decide)), rd_missFailed_count]
    case answered => rw [tileAt_remapStage]; exact calWait_lastAnswer _ k 2
    case act => rw [hends.act, hfailed.act, missCounted_act s k r hstate]
    case arrays => rw [hends.arrays, hfailed.arrays, hcounted.arrays, hidle.arrays]
    case store => rw [hends.store, hfailed.store, hcounted.store, hidle.store]
    case stackMem => rw [hends.stackMem, hfailed.stackMem, hcounted.stackMem, hidle.stackMem]
  case notDone =>
    intro s site slot hwf hruns h
    exact ⟨_, execCalRunEnd_eq hwf (calRunEnd_of_notDone h) hruns, (unstaged_remapStage s).words,
      eq_withWords_of_butWords (remapStage_butWords s)⟩

end Sys2Proof.Machine
end

section
/-! SUPPORT. The way of a packet through the mesh (08 R190, R200, R202): what its routers count, what they leave, and which of the part's
answers do not depend on their counts. -/

namespace Sys2Proof.Machine

/-! ### Router registers (08 Table 08.7) -/

/-- The words of the routers' blocks from an offset on. -/
def routerWords (lo : Nat) : Set Nat := {p | ∃ site o, lo ≤ o ∧ o < 0x40 ∧ p = routerReg site o}

theorem routerReg_mem_routerWords (site : Nat) {lo o : Nat} (hlo : lo ≤ o) (ho : o < 0x40) : routerReg site o ∈ routerWords lo :=
  ⟨site, o, hlo, ho, rfl⟩

theorem routerReg_notMem_routerWords (site : Nat) {lo o : Nat} (h : o < lo) (ho : o < 0x40) : routerReg site o ∉ routerWords lo := by
  rintro ⟨k, a, hlo, ha, e⟩
  unfold routerReg at e
  omega

/-- The routers' blocks lie between `MESH` and `SP` of the window. -/
theorem notMem_routerWords {p lo : Nat} (h : p < 0x0E500000 ∨ 0x0E600000 ≤ p) : p ∉ routerWords lo := by
  rintro ⟨k, a, -, ha, rfl⟩
  unfold routerReg at h
  omega

theorem skReg_notMem_routerWords (n o lo : Nat) : skReg n o ∉ routerWords lo := notMem_routerWords (.inr (by unfold skReg; omega))
theorem fpReg_notMem_routerWords (n o lo : Nat) : fpReg n o ∉ routerWords lo := notMem_routerWords (.inr (by unfold fpReg; omega))
theorem fabReg_notMem_routerWords (o lo : Nat) : fabReg o ∉ routerWords lo := notMem_routerWords (.inr (by unfold fabReg; omega))

/-! ### Steps that change words alone -/

/-- Of the words only those of `os` may differ, and beside the words only the number of free values used. -/
structure WordsOnly (os : Set Nat) (s t : State) : Prop where
  rest  : butTail t = butTail s
  words : ∀ p ∉ os, rd t p = rd s p

section WordsOnly

variable {os ps : Set Nat} {s t u : State}

theorem WordsOnly.refl (s : State) : WordsOnly os s s := ⟨rfl, fun _ _ => rfl⟩

theorem WordsOnly.trans (h : WordsOnly os s t) (h' : WordsOnly os t u) : WordsOnly os s u :=
  ⟨h'.rest.trans h.rest, fun p hp => (h'.words p hp).trans (h.words p hp)⟩

theorem WordsOnly.mono (h : WordsOnly os s t) (hsub : os ⊆ ps) : WordsOnly ps s t := ⟨h.rest, fun p hp => h.words p (fun hos => hp (hsub hos))⟩

theorem wordsOnly_wr (s : State) {o : Nat} (v : W32) (h : o ∈ os) : WordsOnly os s (wr s o v) :=
  ⟨rfl, fun _ hp => rd_wr_ne s v (fun e => hp (e ▸ h))⟩

theorem wordsOnly_useFreeN (s : State) (n : Nat) : WordsOnly os s (useFreeN n s) := ⟨rfl, fun _ _ => rfl⟩

theorem wordsOnly_foldl {α : Type} {f : State → α → State} {l : List α} (hf : ∀ a ∈ l, ∀ s, WordsOnly os s (f s a)) (s : State) :
    WordsOnly os s (l.foldl f s) :=
  List.foldlRecOn (motive := WordsOnly os s) l f (.refl s) (fun u hu a ha => hu.trans (hf a ha u))

end WordsOnly

theorem routerWords_anti {lo hi : Nat} (h : lo ≤ hi) : routerWords hi ⊆ routerWords lo :=
  fun _ ⟨site, o, ho, ho', e⟩ => ⟨site, o, h.trans ho, ho', e⟩

/-! ### The path (08 R187, R190) -/

/-- Every hop leaves by one of the five outputs of a router. -/
theorem output_of_mem_meshHops {n a d : Nat} {h : Nat × Nat} (hmem : h ∈ meshHops n a d) : outN ≤ h.2 ∧ h.2 ≤ outL := by
  induction n generalizing a with
  | zero => cases hmem
  | succ n ih =>
    unfold meshHops at hmem
    split_ifs at hmem
    case pos => cases hmem
    all_goals
      rcases List.mem_cons.mp hmem with rfl | hmem
      · dsimp only; decide
      · exact ih hmem

theorem extOut_le (p : Nat) : outN ≤ extOut p ∧ extOut p ≤ outL := by
  unfold extOut
  split_ifs <;> decide

theorem output_of_mem_meshPath {s : State} {p : MeshPacket} {h : Nat × Nat} (hmem : h ∈ meshPath s p) : outN ≤ h.2 ∧ h.2 ≤ outL := by
  rcases List.mem_append.mp hmem with hmem | hlast
  · exact output_of_mem_meshHops hmem
  · rw [List.mem_singleton.mp hlast]
    dsimp only
    split
    · exact extOut_le _
    · decide

theorem mem_of_mem_hopsTo {r : Nat} {l : List (Nat × Nat)} {h : Nat × Nat} (hmem : h ∈ hopsTo r l) : h ∈ l := by
  induction l with
  | nil => cases hmem
  | cons x l ih =>
    unfold hopsTo at hmem
    split_ifs at hmem
    · cases hmem
    · exact (List.mem_cons.mp hmem).elim (fun e => e ▸ List.mem_cons_self) (fun hl => List.mem_cons_of_mem x (ih hl))

/-! ### The counts -/

/-- Every output of every router advances by the flits of the packet for each time that it passes there. -/
theorem rd_countFlits (s : State) (n : Nat) (hops : List (Nat × Nat)) (a : Nat) :
    rd (countFlits s n hops) a = rd s a + BitVec.ofNat 32 (n * (hops.filter (fun h => routerReg h.1 h.2 == a)).length) := by
  induction hops generalizing s with
  | nil => simp [countFlits]
  | cons h hops ih =>
    rw [countFlits, ih]
    by_cases ha : routerReg h.1 h.2 = a
    · subst ha
      rw [rd_incWrap_same, List.filter_cons_of_pos (by simp), List.length_cons, Nat.mul_succ, Nat.add_comm, BitVec.ofNat_add, BitVec.add_assoc]
    · rw [rd_incWrap_ne _ _ (Ne.symm ha), List.filter_cons_of_neg (by simpa using ha)]

theorem countFlits_butWords (s : State) (n : Nat) (hops : List (Nat × Nat)) : (countFlits s n hops).butWords = s.butWords := by
  induction hops generalizing s with
  | nil => rfl
  | cons h hops ih => exact (ih _).trans (incWrap_butWords ..)

theorem wordsOnly_countFlits (s : State) (n : Nat) {hops : List (Nat × Nat)} (h : ∀ x ∈ hops, outN ≤ x.2 ∧ x.2 ≤ outL) :
    WordsOnly (routerWords 0x0C) s (countFlits s n hops) := by
  refine ⟨congrArg (fun u : State => { u with freeNo := 0 }) (countFlits_butWords s n hops), fun p hp => ?_⟩
  have hnone : hops.filter (fun x => routerReg x.1 x.2 == p) = [] := by
    refine List.filter_eq_nil_iff.mpr fun x hx he => hp ?_
    obtain ⟨hlo, hhi⟩ := h x hx
    rw [← eq_of_beq he]
    exact routerReg_mem_routerWords x.1 (Nat.le_trans (by decide) hlo) (Nat.lt_of_le_of_lt hhi (by decide))
  rw [rd_countFlits, hnone, List.length_nil, Nat.mul_zero, BitVec.add_zero]

theorem wordsOnly_vc0Waits (s : State) (p : MeshPacket) (hops : List (Nat × Nat)) : WordsOnly (routerWords 0x0C) s (vc0Waits s p hops) := by
  unfold vc0Waits
  split
  · refine (wordsOnly_foldl (fun h _ u => ?_) s).trans (wordsOnly_useFreeN _ _)
    dsimp only
    split
    · exact wordsOnly_wr u _ (routerReg_mem_routerWords _ (by decide) (by decide))
    · exact .refl u
  · exact .refl s

theorem wordsOnly_countErrs (s : State) (errs : List (Nat × FlitError)) : WordsOnly (routerWords 4) s (countErrs s errs) := by
  refine wordsOnly_foldl (fun e _ u => wordsOnly_wr u _ (routerReg_mem_routerWords _ ?_ ?_)) s
  all_goals split <;> decide

/-- Packet `n` is no longer under way: it has passed some routers, which counted its errors and its flits, and waited there. -/
def pastHops (s : State) (n : Nat) (p : MeshPacket) (errs : List (Nat × FlitError)) (hops : List (Nat × Nat)) : State :=
  vc0Waits (countFlits (countErrs { s with meshQ := s.meshQ.eraseIdx n } errs) (meshFlits p) hops) p hops

section PastHops

variable (s : State) (n : Nat) {p : MeshPacket} (errs : List (Nat × FlitError)) {hops : List (Nat × Nat)}
  (hhops : ∀ h ∈ hops, h ∈ meshPath s p)
include hhops

theorem wordsOnly_countErrs_pastHops :
    WordsOnly (routerWords 0x0C) (countErrs { s with meshQ := s.meshQ.eraseIdx n } errs) (pastHops s n p errs hops) :=
  (wordsOnly_countFlits _ _ fun h hh => output_of_mem_meshPath (hhops h hh)).trans (wordsOnly_vc0Waits _ p hops)

theorem wordsOnly_pastHops : WordsOnly (routerWords 4) { s with meshQ := s.meshQ.eraseIdx n } (pastHops s n p errs hops) :=
  (wordsOnly_countErrs _ errs).trans ((wordsOnly_countErrs_pastHops s n errs hhops).mono (routerWords_anti (by decide)))

end PastHops

/-! ### What does not depend on the routers' counts -/

section Answers

variable {s t : State} (h : WordsOnly (routerWords 4) s t)
include h

theorem WordsOnly.coreOff (site : Nat) : Machine.coreOff t site = Machine.coreOff s site :=
  congrArg (fld · 1 1 == 1) (h.words _ (routerReg_notMem_routerWords site (by decide) (by decide)))

theorem WordsOnly.skUp (n : Nat) : Machine.skUp t n = Machine.skUp s n := congrArg (fld · 0 0 == 1) (h.words _ (skReg_notMem_routerWords n 0 4))

theorem WordsOnly.skDown (n : Nat) : Machine.skDown t n = Machine.skDown s n :=
  congrArg (fld · 1 1 == 1) (h.words _ (skReg_notMem_routerWords n 0 4))

theorem WordsOnly.partId : Machine.partId t = Machine.partId s := congrArg (fld · 12 0) (h.words _ (fabReg_notMem_routerWords 4 4))

theorem WordsOnly.pot : t.pot = s.pot := (congrArg State.pot h.rest :)
theorem WordsOnly.sec : t.sec = s.sec := (congrArg State.sec h.rest :)
theorem WordsOnly.fab : t.fab = s.fab := (congrArg State.fab h.rest :)
theorem WordsOnly.remapNow : t.remapNow = s.remapNow := (congrArg State.remapNow h.rest :)

theorem WordsOnly.inService (d : MeshDest) : Machine.inService t d = Machine.inService s d := by
  have hlink : t.life.linkUp = s.life.linkUp := (congrArg (fun u : State => u.life.linkUp) h.rest :)
  have hport : ∀ p, rdF t (fpReg p 0) 2 0 = rdF s (fpReg p 0) 2 0 := fun p => congrArg (fld · 2 0) (h.words _ (fpReg_notMem_routerWords p 0 4))
  cases d with
  | site n => simp only [Machine.inService, h.remapNow, h.coreOff]
  | port p => simp only [Machine.inService, h.skUp, hport, hlink]
  | logical c r => rfl

theorem WordsOnly.destSite (d : MeshDest) : Machine.destSite t d = Machine.destSite s d := by
  have hgrade : t.grade = s.grade := (congrArg State.grade h.rest :)
  cases d with
  | logical c r => simp only [Machine.destSite, siteOf, physCol, h.remapNow, hgrade]
  | site n => rfl
  | port n => rfl

/-- The checks of 09 Table 09.4 look at Stockpot, at the worlds and at the status words of stacks and routers. -/
theorem WordsOnly.accessCode (src : Source) (secure : Bool) (a : W64) (len : Nat) :
    Machine.accessCode t src secure a len = Machine.accessCode s src secure a len := by
  have hholder : ∀ f, holderOk t f src = holderOk s f src := fun f => by
    rw [show holderOk t f src = holderOk { s with pot := t.pot } f src from rfl, h.pot]
  have htarget : ∀ kind u, targetDenied t secure kind u = targetDenied s secure kind u := fun kind u => by
    rw [show targetDenied t secure kind u = targetDenied { s with sec := t.sec } secure kind u from rfl, h.sec]
  simp only [Machine.accessCode, hholder, htarget, h.coreOff, h.skDown]

end Answers

end Sys2Proof.Machine
end

section
/-! SUPPORT. Little-endian fields are read back, the header of a packet the part sends says what its sender filled in (10 R244, Table 10.4),
and a request is kept until it is answered (11 R273). -/

namespace Sys2Proof.Machine

/-! ### Fields of bytes -/

theorem leAt_cons_succ (b : Byte) (bs : Bytes) (i n : Nat) : leAt (b :: bs) (i + 1) n = leAt bs i n := by
  induction n generalizing i with
  | zero => rfl
  | succ n ih => rw [leAt, leAt, ih, byteAt, List.getD_cons_succ, byteAt]

theorem leAt_append_right (as bs : Bytes) (i n : Nat) : leAt (as ++ bs) (as.length + i) n = leAt bs i n := by
  induction as with
  | nil => rw [List.nil_append, List.length_nil, Nat.zero_add]
  | cons a as ih => rw [List.cons_append, List.length_cons, Nat.add_right_comm, leAt_cons_succ, ih]

/-- A field that lies after another. -/
theorem leAt_after (k v : Nat) (bs : Bytes) (i n : Nat) : leAt (leBytes k v ++ bs) (k + i) n = leAt bs i n := by
  have h := leAt_append_right (leBytes k v) bs i n
  rwa [length_leBytes] at h

theorem leAt_leBytes_append (n v : Nat) (bs : Bytes) : leAt (leBytes n v ++ bs) 0 n = v % 256 ^ n := by
  induction n generalizing v with
  | zero => rw [pow_zero, Nat.mod_one]; rfl
  | succ n ih =>
    rw [leBytes, List.cons_append, leAt, leAt_cons_succ, ih, pow_succ', Nat.mod_mul]
    rfl

theorem leAt_leBytes (n v : Nat) : leAt (leBytes n v) 0 n = v % 256 ^ n := by rw [← leAt_leBytes_append n v [], List.append_nil]

theorem slice_append_left (as bs : Bytes) : slice (as ++ bs) 0 as.length = as := by
  refine List.ext_getElem (by simp [slice]) fun i hi hi' => ?_
  simp [slice, byteAt, List.getD_eq_getElem?_getD, List.getElem?_append_left hi', List.getElem?_eq_getElem hi']

theorem w64At_leBytes (v : W64) : w64At (leBytes 8 v.toNat) 0 = v := by
  rw [w64At, leAt_leBytes, Nat.mod_eq_of_lt (show v.toNat < 256 ^ 8 from v.isLt), BitVec.ofNat_toNat, BitVec.setWidth_eq]

/-! ### The header of a packet (10 Table 10.4) -/

theorem hcrcOk_of_append {h : Bytes} (hlen : h.length = 30) (pl : Bytes) :
    hcrcOk { hdr := h ++ leBytes 2 (crc16 h), payload := pl } = true := by
  have hbody : slice (h ++ leBytes 2 (crc16 h)) 0 30 = h := hlen ▸ slice_append_left h _
  have hcode : leAt (h ++ leBytes 2 (crc16 h)) 30 2 = crc16 h := by
    rw [show 30 = h.length + 0 from hlen.symm, leAt_append_right, leAt_leBytes]
    exact Nat.mod_eq_of_lt (crc16_lt h)
  rw [hcrcOk, hbody, hcode, beq_self_eq_true]

section Header

variable (s : State) (f : IfpFields)

theorem hcrcOk_ifpPacket : hcrcOk (ifpPacket s f) = true := hcrcOk_of_append (by simp [length_leBytes]) _

theorem hDest_ifpPacket (h : f.dest < 2 ^ 16) : hDest (ifpPacket s f) = f.dest := by
  simp only [hDest, ifpPacket, List.append_assoc]
  change leAt _ (1 + (1 + (2 + 0))) 2 = f.dest
  rw [leAt_after, leAt_after, leAt_after, leAt_leBytes_append]
  exact Nat.mod_eq_of_lt h

theorem hGma_ifpPacket : hGma (ifpPacket s f) = f.gma := by
  simp only [hGma, ifpPacket, List.append_assoc]
  change BitVec.ofNat 64 (leAt _ (1 + (1 + (2 + (2 + (2 + 0))))) 8) = f.gma
  rw [leAt_after, leAt_after, leAt_after, leAt_after, leAt_after, leAt_leBytes_append, ← leAt_leBytes]
  exact w64At_leBytes f.gma

end Header

/-! ### Requests that are kept (11 R273) -/

/-- Blanks the fabric's state and the packets that have gone out. -/
def butFabric (s : State) : State := { s with fab := {}, ifpOut := [] }

/-- The packet under which a request is kept, with its tag. -/
def keptPacket (s : State) (f : IfpFields) : IfpPacket := ifpPacket s { f with tag := s.fab.nextTag % 2 ^ 32 }

section KeptPacket

variable (s : State) (f : IfpFields)

theorem hDest_keptPacket (h : f.dest < 2 ^ 16) : hDest (keptPacket s f) = f.dest := hDest_ifpPacket s _ h
theorem hGma_keptPacket : hGma (keptPacket s f) = f.gma := hGma_ifpPacket s _
theorem hcrcOk_keptPacket : hcrcOk (keptPacket s f) = true := hcrcOk_ifpPacket s _

end KeptPacket

theorem keepRequest_reqs (s : State) (f : IfpFields) (src : Option MeshPacket) :
    ∃ r, (keepRequest s f src).fab.reqs = s.fab.reqs ++ [r] ∧ r.src = src ∧ r.pkt = keptPacket s f := by
  unfold keepRequest
  dsimp only
  split <;> exact ⟨_, rfl, rfl, rfl⟩

theorem butFabric_keepRequest (s : State) (f : IfpFields) (src : Option MeshPacket) : butFabric (keepRequest s f src) = butFabric s := by
  unfold keepRequest
  dsimp only
  split <;> rfl

theorem peerUsed_eq (s : State) (peer : Nat) : peerUsed s peer = { s with pot := (peerUsed s peer).pot } := by
  unfold peerUsed
  split <;> rfl

theorem gmaPart_lt (a : W64) : gmaPart a < 2 ^ 13 := Nat.mod_lt _ (by decide)

/-- A mesh access to another part is kept as a request for that part's address (09 R214). -/
theorem meshRequest_eq (s : State) (p : MeshPacket) : ∃ f : IfpFields, f.dest = gmaPart p.gma ∧ f.gma = p.gma ∧
    meshRequest s p = keepRequest (useFree (peerUsed s (gmaPart p.gma))) f (some p) := by
  refine ⟨_, ?dest, ?gma, rfl⟩
  all_goals cases p.type <;> rfl

end Sys2Proof.Machine
end

section
/-! SUPPORT. Packets enter the mesh and reach their destinations (08 R188-R195, R202): which of the outcomes a delivery has, and what stands
where a packet is answered or recorded. -/

namespace Sys2Proof.Machine

/-! ### Requests and answers (08 Table 08.2) -/

theorem isAccess_iff {t : MeshType} : isAccess t = true ↔ t = .read ∨ t = .write ∨ t = .atomic := by
  cases t <;> decide

theorem not_isAccess_of_response {t : MeshType} (h : t = .readResp ∨ t = .writeAck ∨ t = .atomicResp ∨ t = .errorResp) :
    isAccess t = false := by
  rcases h with rfl | rfl | rfl | rfl <;> rfl

/-- A reply travels on VC1 with the request's tag (08 R192, R195). -/
structure Answers (p q : MeshPacket) (t : MeshType) : Prop where
  type : q.type = t
  tag  : q.tag = p.tag
  vc   : q.vc = 1
  dest : q.dest = replyDest p.src

/-- The code of an error stands in the first class-field byte (09 R213). -/
structure AnswersError (p q : MeshPacket) (code : Nat) : Prop extends Answers p q .errorResp where
  code : leAt q.arg 0 1 = code % 256

/-- The packet that a reply is. -/
def replyPacket (s : State) (p : MeshPacket) (src : Nat) (t : MeshType) (arg payload : Bytes) : MeshPacket :=
  { dest := replyDest p.src, vc := 1, type := t, src := src, tag := p.tag, secure := replyWorld s p src, gma := p.gma, arg := arg,
    payload := payload }

theorem answers_replyPacket (s : State) (p : MeshPacket) (src : Nat) (t : MeshType) (arg payload : Bytes) :
    Answers p (replyPacket s p src t arg payload) t := ⟨rfl, rfl, rfl, rfl⟩

theorem meshReply_eq (s : State) (p : MeshPacket) (src : Nat) (t : MeshType) (arg payload : Bytes) :
    meshReply s p src t arg payload = { s with meshQ := s.meshQ ++ [replyPacket s p src t arg payload] } := rfl

theorem meshError_eq (s : State) (p : MeshPacket) (src code : Nat) :
    ∃ q, AnswersError p q code ∧ meshError s p src code = { s with meshQ := s.meshQ ++ [q] } :=
  ⟨replyPacket s p src .errorResp (BitVec.ofNat 8 code :: zeros 39) [], ⟨answers_replyPacket .., rfl⟩, rfl⟩

theorem countCode_butWords (s : State) (code : Nat) : (countCode s code).butWords = s.butWords := by
  unfold countCode
  split_ifs <;> rfl

theorem meshRefuse_eq (s : State) (p : MeshPacket) (src code : Nat) : ∃ q, AnswersError p q code ∧
    meshRefuse s p src code = { s with meshQ := s.meshQ ++ [q], cw := (countCode s code).cw } := by
  obtain ⟨q, hq, heq⟩ := meshError_eq (countCode s code) p src code
  refine ⟨q, hq, heq.trans ?_⟩
  exact congrArg (fun u : State => { u with meshQ := u.meshQ ++ [q], cw := (countCode s code).cw }) (countCode_butWords s code)

/-! ### A packet is injected (08 R188, R189) -/

theorem execMeshPacketInject_eq {p : MeshPacket} (h : meshWf p = true) (s : State) :
    exec (.meshPacketInject p) s = .next (meshInject s p) := onUnit_of_true h _

/-- The stamp changes no port as destination: the virtual channels that a packet may use stay the same. -/
theorem vcAllowed_stampPacket (s : State) (p : MeshPacket) : vcAllowed (stampPacket s p) = vcAllowed p := by
  have hport : ((stampPacket s p).dest = .port 42) = (p.dest = .port 42) := by
    unfold stampPacket
    dsimp only
    cases p.dest <;> simp
  simp only [vcAllowed, hport]
  rfl

theorem meshInject_of_vcDenied {s : State} {p : MeshPacket} (h : vcAllowed p = false) : meshInject s p = s :=
  if_pos ((vcAllowed_stampPacket s p).trans h)

theorem meshInject_of_vcAllowed {s : State} {p : MeshPacket} (h : vcAllowed p = true) : meshInject s p =
    if isAccess p.type && gmaPart p.gma != 0 && !s.fab.accepted then meshRefuse s (stampPacket s p) p.src 1
    else { s with meshQ := s.meshQ ++ [stampPacket s p] } :=
  if_neg (by rw [vcAllowed_stampPacket, h]; decide)

/-! ### Flit errors (08 R202) -/

theorem errsOk_nil (p : MeshPacket) (routers : List Nat) : errsOk p routers [] = true := rfl

theorem errsOk_header (p : MeshPacket) {routers : List Nat} {r : Nat} (h : r ∈ routers) : errsOk p routers [(r, .header)] = true := by
  simp [errsOk, badHeader, h]

theorem errsOk_payload {p : MeshPacket} {routers : List Nat} {r : Nat} (h : r ∈ routers) (hp : p.payload ≠ []) :
    errsOk p routers [(r, .payload)] = true := by
  simp [errsOk, badHeader, h, hp]

/-! ### A packet is delivered (08 R192) -/

/-- What is not an access waits for no queue and no store of requests. -/
theorem takesPacket_of_not_isAccess {s : State} {p : MeshPacket} (h : isAccess p.type = false) : takesPacket s p = true := by
  unfold takesPacket
  split
  · rw [h]; rfl
  · rfl

/-- Packet `n` is the first of its flow and its destination takes it now. -/
structure MayArrive (s : State) (n : Nat) (p : MeshPacket) : Prop where
  queued : s.meshQ[n]? = some p
  turn   : meshTurn s.meshQ n p = true
  taken  : takesPacket s p = true

theorem deliver_of_notTurn (win : WindowAccess) {s : State} {n : Nat} {p : MeshPacket} (hq : s.meshQ[n]? = some p)
    (hturn : meshTurn s.meshQ n p = false) (errs : List (Nat × FlitError)) : deliver win s n errs = s := by
  rw [deliver, hq]
  simp [hturn]

section Delivery

variable {s : State} {n : Nat} {p : MeshPacket} {errs : List (Nat × FlitError)}
  (win : WindowAccess) (h : MayArrive s n p) (herrs : errsOk p ((meshPath s p).map Prod.fst) errs = true)
include h herrs

theorem deliver_of_badHeader {r : Nat} (hbad : badHeader errs = some r) :
    deliver win s n errs = meshFault (pastHops s n p errs (hopsTo r (meshPath s p))) r p := by
  rw [deliver, h.queued]
  simp only [h.turn, h.taken, herrs, hbad]
  rfl

theorem deliver_of_goodHeader (hbad : badHeader errs = none) : ∃ hops, (∀ x ∈ hops, x ∈ meshPath s p) ∧
    (inService s p.dest = true → hops = meshPath s p) ∧
    deliver win s n errs = ejected win (pastHops s n p errs hops) p (errs.any (fun e => e.2 == .payload)) := by
  have hservice : inService (countErrs { s with meshQ := s.meshQ.eraseIdx n } errs) p.dest = inService s p.dest :=
    (wordsOnly_countErrs _ errs).inService p.dest
  refine ⟨if inService s p.dest then meshPath s p else (meshPath s p).dropLast, fun x hx => ?_, fun hs => if_pos hs, ?_⟩
  · split at hx
    · exact hx
    · exact List.mem_of_mem_dropLast hx
  · rw [deliver, h.queued]
    simp only [h.turn, h.taken, herrs, hbad, hservice]
    rfl

end Delivery

/-- Packet `n` stands at its destination: every router of its path has counted it, and none found an error. -/
def atDestination (s : State) (n : Nat) (p : MeshPacket) : State := pastHops s n p [] (meshPath s p)

section AtDestination

variable {s : State} {n : Nat} {p : MeshPacket}

theorem wordsOnly_atDestination : WordsOnly (routerWords 4) { s with meshQ := s.meshQ.eraseIdx n } (atDestination s n p) :=
  wordsOnly_pastHops s n [] (fun _ => id)

theorem butTail_atDestination (s : State) (n : Nat) (p : MeshPacket) :
    butTail (atDestination s n p) = butTail { s with meshQ := s.meshQ.eraseIdx n } := wordsOnly_atDestination.rest

theorem inService_atDestination (d : MeshDest) : inService (atDestination s n p) d = inService s d := wordsOnly_atDestination.inService d

theorem partId_atDestination : partId (atDestination s n p) = partId s := wordsOnly_atDestination.partId

theorem execMeshPacketDeliver_of_inService (h : MayArrive s n p) (hservice : inService s p.dest = true) :
    exec (.meshPacketDeliver n []) s = .next (arrive windowAccess (atDestination s n p) p) := by
  obtain ⟨hops, -, hall, hdeliver⟩ := deliver_of_goodHeader windowAccess h (errsOk_nil ..) rfl
  obtain rfl := hall hservice
  change Host.Outcome.next (deliver windowAccess s n []) = _
  rw [hdeliver, ejected, show pastHops s n p [] (meshPath s p) = atDestination s n p from rfl, inService_atDestination, hservice]
  rfl

end AtDestination

section Arrival

variable (win : WindowAccess) {s : State} {p : MeshPacket}

/-- A response leaves the mesh at a destination in service. -/
theorem arrive_of_response (h : isAccess p.type = false) (hservice : inService s p.dest = true) :
    arrive win s p = { s with meshOut := p :: s.meshOut } := by
  unfold arrive
  rw [h]
  cases hd : p.dest with
  | site n => simp [atCore, h]
  | port n => simp [atStack, h]
  | logical c r => rw [hd] at hservice; cases hservice

variable (h : isAccess p.type = true)
include h

/-- An access at a fabric port goes to the part that its address names (09 R214). -/
theorem arrive_of_fabricPort {k : Nat} (hdest : p.dest = .port k) (hlo : 24 ≤ k) (hhi : k < 42) (hpart : gmaPart p.gma ≠ partId s) :
    arrive win s p = meshRequest s p := by
  simp [arrive, h, hdest, hlo, hhi, hpart]

/-- An access of this part at a stack link is looked at by the base die. -/
theorem arrive_of_stackPort {k : Nat} (hdest : p.dest = .port k) (hk : k < 24) (hpart : gmaPart p.gma = partId s) (hspace : gmaSpace p.gma = 0) :
    arrive win s p = atStack s p k := by
  simp [arrive, h, hdest, hk, Nat.not_le.mpr hk, hpart, hspace]

end Arrival

/-! ### Discarded and recorded packets (08 R192, R202) -/

theorem undeliverable_of_not_isAccess {s : State} {p : MeshPacket} (h : isAccess p.type = false) :
    undeliverable s p = meshFault (useFree (incHold s (meshReg 0x84) 32 1)) (destSite s p.dest) p := by
  unfold undeliverable
  rw [h]
  exact if_neg Bool.false_ne_true

theorem exists_mem_meshFault (s : State) (router : Nat) (p : MeshPacket) :
    ∃ r, r ∈ (meshFault s router p).faults ∧ r.cause = 7 ∧ r.unit = router :=
  exists_mem_faultRecord s _

theorem rd_meshFault_of_lt (s : State) (router : Nat) (p : MeshPacket) {a : Nat} (h : a < 0x0F000000) : rd (meshFault s router p) a = rd s a :=
  rd_faultRecord_of_lt s _ h

/-- The packets under way and delivered, the base dies' queues and the memories. -/
def traffic (s : State) : List MeshPacket × List MeshPacket × List (Nat × MeshPacket) × List Host.Cell × List Host.Cell :=
  (s.meshQ, s.meshOut, s.stackQ, s.stackMem, s.store)

theorem traffic_eq_iff {s t : State} : traffic t = traffic s ↔
    t.meshQ = s.meshQ ∧ t.meshOut = s.meshOut ∧ t.stackQ = s.stackQ ∧ t.stackMem = s.stackMem ∧ t.store = s.store := by
  simp [traffic]

theorem traffic_of_butTail {s t : State} (h : butTail t = butTail s) : traffic t = traffic s := (congrArg traffic h :)

theorem traffic_meshFault (s : State) (router : Nat) (p : MeshPacket) : traffic (meshFault s router p) = traffic s :=
  (congrArg traffic (faultRecord_butFaults s _) :)

end Sys2Proof.Machine
end

section
/-! PROOF. O17: packets enter the mesh, reach their destinations, or are discarded and recorded (08 R188-R202, R214). -/

namespace Sys2Proof.Machine

section Travel

variable {s : State} {n : Nat} {p : MeshPacket}

/-- A request before the coordinate handshake is refused with code 0x01, and counted (09 R214). -/
theorem meshInject_of_unjoined (hvc : vcAllowed p = true) (h : isAccess p.type = true) (hpart : gmaPart p.gma ≠ 0) (hfab : s.fab.accepted = false) :
    ∃ q, AnswersError p q 1 ∧ meshInject s p = { s with meshQ := s.meshQ ++ [q], cw := (incHold s (spReg 0x2C) 32 1).cw } := by
  obtain ⟨q, hq, heq⟩ := meshRefuse_eq s (stampPacket s p) p.src 1
  refine ⟨q, ⟨⟨hq.type, hq.tag, hq.vc, hq.dest⟩, hq.code⟩, ?_⟩
  rw [meshInject_of_vcAllowed hvc, if_pos (by simp [h, hpart, hfab]), heq]
  rfl

/-- Packet `n` has gone its whole way, and the outputs it passed count its flits. -/
def pastPath (s : State) (n : Nat) (p : MeshPacket) : State :=
  countFlits { s with meshQ := s.meshQ.eraseIdx n } (meshFlits p) (meshPath s p)

theorem pastPath_butWords : (pastPath s n p).butWords = { s with meshQ := s.meshQ.eraseIdx n }.butWords := countFlits_butWords ..

/-- A response at its destination leaves the mesh. -/
theorem execMeshPacketDeliver_response (h : MayArrive s n p) (hvc : p.vc = 1) (htype : isAccess p.type = false)
    (hservice : inService s p.dest = true) :
    exec (.meshPacketDeliver n []) s = .next { pastPath s n p with meshOut := p :: s.meshOut } := by
  have hpast : atDestination s n p = pastPath s n p := if_neg (by omega)
  have hout : (pastPath s n p).meshOut = s.meshOut := (congrArg State.meshOut pastPath_butWords :)
  rw [execMeshPacketDeliver_of_inService h hservice, arrive_of_response _ htype ((inService_atDestination _).trans hservice), hpast, hout]

/-- A packet whose header a router finds bad is counted and recorded there, and nothing of it goes on (08 R202). -/
theorem execMeshPacketDeliver_badHeader {router : Nat} (h : MayArrive s n p) (hpath : router ∈ (meshPath s p).map Prod.fst) :
    ∃ t, exec (.meshPacketDeliver n [(router, .header)]) s = .next t ∧ traffic t = traffic { s with meshQ := s.meshQ.eraseIdx n } ∧
      rd t (routerReg router 8) = BitVec.ofNat 32 (Nat.min ((rd s (routerReg router 8)).toNat + 1) 0xFFFF) ∧
      ∃ r, r ∈ t.faults ∧ r.cause = 7 ∧ r.unit = router := by
  have hhops : ∀ x ∈ hopsTo router (meshPath s p), x ∈ meshPath s p := fun _ => mem_of_mem_hopsTo
  refine ⟨_, congrArg Host.Outcome.next (deliver_of_badHeader windowAccess h (errsOk_header p hpath) rfl), ?traffic, ?count,
    exists_mem_meshFault ..⟩
  case traffic => rw [traffic_meshFault, traffic_of_butTail (wordsOnly_pastHops s n _ hhops).rest]
  case count =>
    rw [rd_meshFault_of_lt _ _ _ (by unfold routerReg; omega), (wordsOnly_countErrs_pastHops s n _ hhops).words _
      (routerReg_notMem_routerWords router (by decide) (by decide))]
    exact rd_incHold_same ..

/-- A packet with a bad payload flit is discarded by its destination's interface, counted and recorded (08 R192, R202). -/
theorem execMeshPacketDeliver_badPayload {router : Nat} (h : MayArrive s n p) (htype : isAccess p.type = false) (hpayload : p.payload ≠ [])
    (hpath : router ∈ (meshPath s p).map Prod.fst) :
    ∃ t, exec (.meshPacketDeliver n [(router, .payload)]) s = .next t ∧ traffic t = traffic { s with meshQ := s.meshQ.eraseIdx n } ∧
      rd t (meshReg 0x84) = BitVec.ofNat 32 (Nat.min ((rd s (meshReg 0x84)).toNat + 1) 0xFFFFFFFF) ∧
      ∃ r, r ∈ t.faults ∧ r.cause = 7 ∧ r.unit = destSite s p.dest := by
  obtain ⟨hops, hhops, -, hdeliver⟩ := deliver_of_goodHeader windowAccess h (errsOk_payload hpath hpayload) rfl
  have hpast := wordsOnly_pastHops s n [(router, .payload)] hhops
  refine ⟨_, (congrArg Host.Outcome.next (hdeliver.trans (undeliverable_of_not_isAccess htype)) :), ?traffic, ?count, ?record⟩
  case traffic => rw [traffic_meshFault, ← traffic_of_butTail hpast.rest]; rfl
  case count =>
    rw [rd_meshFault_of_lt _ _ _ (by decide), show ∀ u a, rd (useFree u) a = rd u a from fun _ _ => rfl, rd_incHold_same,
      hpast.words _ (notMem_routerWords (.inl (by decide)))]
    rfl
  case record =>
    obtain ⟨r, hr, hcause, hunit⟩ := exists_mem_meshFault (useFree (incHold (pastHops s n p [(router, .payload)] hops) (meshReg 0x84) 32 1))
      (destSite (pastHops s n p [(router, .payload)] hops) p.dest) p
    exact ⟨r, hr, hcause, hunit.trans (hpast.destSite p.dest)⟩

/-- A request for another part is kept at the fabric port, as a packet for that part (09 R214, 11 R273). -/
theorem execMeshPacketDeliver_fabricPort {k : Nat} (h : MayArrive s n p) (htype : isAccess p.type = true) (hdest : p.dest = .port k)
    (hlo : 24 ≤ k) (hhi : k < 42) (hservice : inService s p.dest = true) (hpart : gmaPart p.gma ≠ partId s) :
    ∃ t r, exec (.meshPacketDeliver n []) s = .next t ∧ traffic t = traffic { s with meshQ := s.meshQ.eraseIdx n } ∧
      t.fab.reqs = s.fab.reqs ++ [r] ∧ r.src = some p ∧ hDest r.pkt = gmaPart p.gma ∧ hGma r.pkt = p.gma ∧ hcrcOk r.pkt = true := by
  have hthere : gmaPart p.gma ≠ partId (atDestination s n p) := fun e => hpart (e.trans partId_atDestination)
  obtain ⟨f, hfdest, hfgma, hkept⟩ := meshRequest_eq (atDestination s n p) p
  obtain ⟨r, hreqs, hsrc, hpkt⟩ := keepRequest_reqs (useFree (peerUsed (atDestination s n p) (gmaPart p.gma))) f (some p)
  have hfab : (peerUsed (atDestination s n p) (gmaPart p.gma)).fab = s.fab := by rw [peerUsed_eq]; exact wordsOnly_atDestination.fab
  refine ⟨_, r, (execMeshPacketDeliver_of_inService h hservice).trans
    (congrArg Host.Outcome.next ((arrive_of_fabricPort _ htype hdest hlo hhi hthere).trans hkept)), ?traffic, ?reqs, hsrc, ?dest, ?gma, ?crc⟩
  case traffic =>
    rw [show traffic (keepRequest _ f (some p)) = _ from (congrArg traffic (butFabric_keepRequest ..) :),
      ← traffic_of_butTail (butTail_atDestination s n p), peerUsed_eq]
    rfl
  case reqs => rw [hreqs, show ∀ u : State, (useFree u).fab = u.fab from fun _ => rfl, hfab]
  case dest =>
    have hwidth : f.dest < 2 ^ 16 := hfdest ▸ (gmaPart_lt p.gma).trans (by decide)
    rw [hpkt, hDest_keptPacket _ f hwidth, hfdest]
  case gma => rw [hpkt, hGma_keptPacket, hfgma]
  case crc => rw [hpkt, hcrcOk_keptPacket]

end Travel

/-- Settles O17, by the outcomes that an injection and a delivery have. -/
theorem meshPacketsTravel : Obligations.MeshPacketsTravel := by
  unfold Obligations.MeshPacketsTravel
  refine ⟨?allowed, ?denied, ?unjoined, ?response, ?badHeader, ?badPayload, ?otherPart, ?notTurn⟩
  case allowed =>
    intro s p hwf hvc hpart
    refine ⟨_, stampPacket s p, (execMeshPacketInject_eq hwf s).trans (congrArg Host.Outcome.next
      ((meshInject_of_vcAllowed hvc).trans (if_neg ?_))), rfl, rfl, rfl, rfl, rfl⟩
    intro hrefused
    simp only [Bool.and_eq_true, isAccess_iff, bne_iff_ne, Bool.not_eq_true'] at hrefused
    obtain ⟨⟨haccess, hother⟩, hfab⟩ := hrefused
    rcases hpart haccess with hzero | haccepted
    · exact hother hzero
    · rw [hfab] at haccepted; cases haccepted
  case denied =>
    intro s p hwf hvc
    rw [execMeshPacketInject_eq hwf, meshInject_of_vcDenied hvc]
  case unjoined =>
    intro s p hwf hvc htype hpart hfab
    obtain ⟨q, hq, hinject⟩ := meshInject_of_unjoined hvc (isAccess_iff.mpr htype) hpart hfab
    refine ⟨_, q, (execMeshPacketInject_eq hwf s).trans (congrArg Host.Outcome.next hinject), rfl, hq.type, hq.dest, hq.vc, hq.tag,
      hq.code, ?_, rfl⟩
    intro a ha
    exact rd_incHold_ne s 32 1 (by simpa using ha)
  case response =>
    intro s n p hq hturn hvc htype hservice
    have haccess := not_isAccess_of_response htype
    refine ⟨_, execMeshPacketDeliver_response ⟨hq, hturn, takesPacket_of_not_isAccess haccess⟩ hvc haccess hservice,
      (congrArg State.meshQ pastPath_butWords :), rfl, ?frame, fun a => rd_countFlits _ _ _ a⟩
    exact (congrArg (fun u : State => { u with meshQ := (pastPath s n p).meshQ, meshOut := p :: s.meshOut, cw := (pastPath s n p).cw })
      pastPath_butWords :)
  case badHeader =>
    intro s n router p _ hq hturn htaken hpath
    obtain ⟨t, ht, htraffic, hcount, hrecord⟩ := execMeshPacketDeliver_badHeader ⟨hq, hturn, htaken⟩ hpath
    obtain ⟨hmesh, hout, hstack, hmem, hstore⟩ := traffic_eq_iff.mp htraffic
    exact ⟨t, ht, hmesh, hout, hstack, hmem, hstore, hcount, hrecord⟩
  case badPayload =>
    intro s n router p _ hq hturn htype hpayload hpath
    have haccess : isAccess p.type = false := by rcases htype with h | h | h | h | h <;> rw [h] <;> rfl
    obtain ⟨t, ht, htraffic, hcount, hrecord⟩ :=
      execMeshPacketDeliver_badPayload ⟨hq, hturn, takesPacket_of_not_isAccess haccess⟩ haccess hpayload hpath
    obtain ⟨hmesh, hout, hstack, hmem, hstore⟩ := traffic_eq_iff.mp htraffic
    exact ⟨t, ht, hmesh, hout, hstack, hmem, hstore, hcount, hrecord⟩
  case otherPart =>
    intro s n k p hq hturn htaken htype hdest hlo hhi hservice hpart
    obtain ⟨t, r, ht, htraffic, hreqs, hsrc, hpkt, hgma, hcrc⟩ :=
      execMeshPacketDeliver_fabricPort ⟨hq, hturn, htaken⟩ (isAccess_iff.mpr htype) hdest hlo hhi hservice hpart
    obtain ⟨hmesh, -, hstack, hmem, hstore⟩ := traffic_eq_iff.mp htraffic
    exact ⟨t, r, ht, hmesh, hreqs, hsrc, hpkt, hgma, hcrc, hstack, hmem, hstore⟩
  case notTurn =>
    intro s n p hq hturn
    exact congrArg Host.Outcome.next (deliver_of_notTurn windowAccess hq hturn [])

end Sys2Proof.Machine
end

section
/-! SUPPORT. A stack serves a request (09 R205, R209, R222): what taking it from the queue, counting it and reading its lines leave, and
what a write leaves. -/

namespace Sys2Proof.Machine

/-! ### What serving a request leaves -/

/-- Blanks what a request taken from a queue may change, beside the queue: the words, interrupts, fault records, tiles, and of Stockpot the
frames in use, those let go, the low mark and the tracker. -/
def butServe (s : State) : State :=
  { s.butHost with cw := [], faults := [], tiles := [], pot := { s.pot with used := [], draining := [], lowArmed := false, tracker := [] } }

/-- And the lines with a single bad symbol, which a read corrects. -/
def butRead (s : State) : State := { butServe s with pot := { (butServe s).pot with softLines := [] } }

section Fields

variable {s t : State}

theorem butServe_of_butHost (h : t.butHost = s.butHost) : butServe t = butServe s :=
  congrArg (fun u : State => { u with
    cw := [], faults := [], tiles := [], pot := { u.pot with used := [], draining := [], lowArmed := false, tracker := [] } }) h

theorem butServe_of_butWords (h : t.butWords = s.butWords) : butServe t = butServe s := (congrArg butServe h :)

theorem softLines_of_butServe (h : butServe t = butServe s) : t.pot.softLines = s.pot.softLines :=
  (congrArg (fun u : State => u.pot.softLines) h :)

theorem butRead_of_butServe (h : butServe t = butServe s) : butRead t = butRead s :=
  congrArg (fun u : State => { u with pot := { u.pot with softLines := [] } }) h

end Fields

variable (s : State)

theorem butServe_signal (pf v : Nat) : butServe (signal s pf v) = butServe s := butServe_of_butHost (signal_butHost ..)

theorem butServe_faultRecord (f : FaultInfo) : butServe (faultRecord s f) = butServe s := by
  have hkeep : ∀ r, butServe (keepFault s r) = butServe s := fun r => by unfold keepFault; split <;> rfl
  rw [faultRecord_eq]
  split
  · rfl
  · rw [butServe_signal, butServe_signal, butServe_of_butWords (countFault_butWords ..), hkeep]

/-! ### Frames that were let go return to the pool (09 R222) -/

theorem butServe_lowCheck : butServe (lowCheck s) = butServe s := by
  unfold lowCheck
  split_ifs
  · exact (butServe_signal ..).trans rfl
  all_goals rfl

theorem lowCheck_cw : (lowCheck s).cw = s.cw := by
  unfold lowCheck
  split_ifs
  · exact (signal_cw ..).trans rfl
  all_goals rfl

theorem butServe_toPool (f : Nat) (page : Bool) : butServe (toPool s f page) = butServe s := by
  rw [toPool, butServe_lowCheck]
  cases page <;> rfl

/-- A freed page is counted in `SP_FREES`, and no other word changes. -/
theorem rd_toPool_ne (f : Nat) (page : Bool) {p : Nat} (h : p ≠ spReg 0x1C) : rd (toPool s f page) p = rd s p := by
  rw [toPool, rd_of_cw (lowCheck_cw _)]
  cases page
  · rfl
  · exact rd_incWrap_ne _ 1 h

/-- A frame that was let go is back in the pool. -/
def backToPool (d : Nat × Bool) : State := toPool s d.1 d.2

/-- Only frames with accesses to complete wait still. -/
def undrained : State := { s with pot := { s.pot with draining := s.pot.draining.filter (fun d => frameQueued s d.1) } }

theorem drained_eq : drained s = (s.pot.draining.filter (fun d => !frameQueued s d.1)).foldl backToPool (undrained s) := rfl

theorem butServe_backToPool (d : Nat × Bool) : butServe (backToPool s d) = butServe s := butServe_toPool s d.1 d.2

theorem rd_backToPool_ne (d : Nat × Bool) {p : Nat} (h : p ≠ spReg 0x1C) : rd (backToPool s d) p = rd s p := rd_toPool_ne s d.1 d.2 h

theorem butServe_drained : butServe (drained s) = butServe s := by
  rw [drained_eq, foldl_view (f := backToPool) (fun d _ u => butServe_backToPool u d)]
  rfl

theorem rd_drained_ne {p : Nat} (h : p ≠ spReg 0x1C) : rd (drained s) p = rd s p := by
  rw [drained_eq]
  exact foldl_view (v := (rd · p)) (f := backToPool) (fun d _ u => rd_backToPool_ne u d h) (undrained s)

theorem drained_cw_of_none {s : State} (h : s.pot.draining = []) : (drained s).cw = s.cw := by
  unfold drained
  rw [h]
  rfl

/-! ### The request is taken and counted (09 R224) -/

theorem track_eq (f : Nat) : track s f = { s with pot := { s.pot with tracker := (track s f).pot.tracker } } := by
  unfold track
  split <;> rfl

/-- The request is out of its queue, the frames that waited for it are back in the pool, and the stack's tracker has counted it. -/
def requestTaken (n : Nat) (p : MeshPacket) : State := track (takeRequest s n p) (gmaOffset p.gma / frameBytes)

theorem butServe_requestTaken (n : Nat) (p : MeshPacket) : butServe (requestTaken s n p) = butServe { s with stackQ := s.stackQ.erase (n, p) } := by
  rw [requestTaken, track_eq]
  exact butServe_drained _

theorem requestTaken_cw_of_none {s : State} (h : s.pot.draining = []) (n : Nat) (p : MeshPacket) : (requestTaken s n p).cw = s.cw := by
  rw [requestTaken, track_eq]
  exact drained_cw_of_none (s := { s with stackQ := s.stackQ.erase (n, p) }) h

theorem skDown_takeRequest (n : Nat) (p : MeshPacket) (k : Nat) : skDown (takeRequest s n p) k = skDown s k :=
  congrArg (fld · 1 1 == 1) (rd_drained_ne _ (by unfold skReg spReg; omega))

/-- A request of a type waits at a stack whose link carries traffic. -/
structure WaitsAt (s : State) (n : Nat) (p : MeshPacket) (t : MeshType) : Prop where
  stack  : n < 24
  queued : (n, p) ∈ s.stackQ
  type   : p.type = t
  steady : n ∉ s.pot.retrain
  up     : skDown s n = false

section WaitsAt

variable {s} {n : Nat} {p : MeshPacket} {t : MeshType} (h : WaitsAt s n p t)
include h

theorem WaitsAt.servable (hshared : t = .read ∨ sharedHeld s (gmaOffset p.gma / frameBytes) = false) : Machine.servable s n p t = true := by
  simp [Machine.servable, h.queued, h.type, h.steady, hshared]

theorem WaitsAt.serveStack_eq (eff : State → State) : serveStack s n p eff = eff (requestTaken s n p) := by
  rw [serveStack, skDown_takeRequest, h.up]
  rfl

end WaitsAt

/-! ### Lines are read (09 R205) -/

theorem butRead_wr (o : Nat) (v : W32) : butRead (wr s o v) = butRead s := rfl
theorem butRead_incHold (o n b : Nat) : butRead (incHold s o n b) = butRead s := rfl
theorem butRead_loseRow (k row : Nat) : butRead (loseRow s k row) = butRead s := rfl

theorem butRead_faultRecord (f : FaultInfo) : butRead (faultRecord s f) = butRead s := butRead_of_butServe (butServe_faultRecord s f)

theorem butRead_badLine (l : Nat) : butRead (badLine s l) = butRead s := by
  unfold badLine
  dsimp only
  split
  · rw [butRead_loseRow, butRead_faultRecord, butRead_wr, butRead_incHold]
  · rw [butRead_faultRecord, butRead_wr, butRead_incHold]

theorem butRead_readLine (l : Nat) : butRead (readLine s l) = butRead s := by
  unfold readLine
  split_ifs
  · exact butRead_badLine s l
  all_goals rfl

theorem butRead_readLines (ls : List Nat) : butRead (readLines s ls) = butRead s := foldl_view (fun l _ u => butRead_readLine u l) s

/-- Lines without bad symbols are read as they are. -/
theorem readLines_of_good {s : State} {ls : List Nat} (h : ∀ l ∈ ls, l ∉ s.pot.badLines ∧ l ∉ s.pot.softLines) : readLines s ls = s := by
  induction ls with
  | nil => rfl
  | cons l ls ih =>
    obtain ⟨hbad, hsoft⟩ := h l List.mem_cons_self
    have hline : readLine s l = s := by simp [readLine, hbad, hsoft]
    rw [readLines, List.foldl_cons, hline]
    exact ih fun x hx => h x (List.mem_cons_of_mem l hx)

theorem linesBad_of_good {s : State} {ls : List Nat} (h : ∀ l ∈ ls, l ∉ s.pot.badLines) : linesBad s ls = false := by
  simpa [linesBad] using h

/-! ### Stack memory is written -/

theorem memByte_memWrite (m : List Host.Cell) (o : Nat) (bs : Bytes) (a : Nat) :
    memByte (memWrite m o bs) a = if o ≤ a ∧ a < o + bs.length then byteAt bs (a - o) else memByte m a := by
  split
  · rename_i h
    obtain ⟨j, rfl⟩ := Nat.exists_eq_add_of_le h.1
    rw [Nat.add_sub_cancel_left]
    exact memByte_memWrite_in m o bs j (by omega)
  · exact memByte_memWrite_out m o bs a (by omega)

/-- Blanks stack memory, and of Stockpot the objects, the migrations and the lines with bad symbols. -/
def butPut (s : State) : State := { s with stackMem := [], pot := { s.pot with objs := [], migs := [], badLines := [], softLines := [] } }

theorem butPut_noteBlock (f b : Nat) : butPut (noteBlock s f b) = butPut s := rfl
theorem butPut_cleanLine (l : Nat) : butPut (cleanLine s l) = butPut s := rfl

theorem butPut_noteWrite (off n : Nat) : butPut (noteWrite s off n) = butPut s := by
  unfold noteWrite
  split
  · rfl
  · exact foldl_view (fun _ _ u => butPut_noteBlock u _ _) s

theorem butPut_stackPut (off : Nat) (bs : Bytes) : butPut (stackPut s off bs) = butPut s := by
  rw [stackPut, butPut_noteWrite, foldl_view (fun l _ u => butPut_cleanLine u l)]
  rfl

end Sys2Proof.Machine
end

section
/-! PROOF. O18: requests at a stack link are checked and queued, and the base die serves them (09 R205, R209, R213, 10 R246). -/

namespace Sys2Proof.Machine

/-! ### The checks (09 Table 09.4) -/

section Checks

variable {s : State} {src : Source} {secure : Bool} {a : W64} {len : Nat}

theorem accessCode_of_reserved (h : gmaHigh a ≠ 0 ∨ gmaSpace a = 3) : accessCode s src secure a len = some 1 := if_pos h

variable (hhigh : gmaHigh a = 0) (hspace : gmaSpace a = 0) (hframe : gmaOffset a / frameBytes < frameCount)
  (hholder : holderOk s (gmaOffset a / frameBytes) src = true)
include hhigh hspace hframe hholder

/-- What is left to check of an address in the stacks: its region's world, its stack and the 4 KiB bound. -/
theorem accessCode_of_stack : accessCode s src secure a len =
    if targetDenied s secure 2 (regionOf (gmaOffset a / frameBytes)) then some 3
    else if skDown s (stackOf (gmaOffset a / frameBytes)) then some 5
    else if 4096 < gmaOffset a % 4096 + len then some 6 else none := by
  rw [accessCode, hhigh, hspace, if_neg (by decide), if_neg (by decide), if_pos rfl, if_neg (Nat.not_le.mpr hframe), hholder,
    if_neg (by decide)]

theorem accessCode_of_secure (hsecure : regionSecure s (regionOf (gmaOffset a / frameBytes)) = true) : accessCode s src false a len = some 3 := by
  rw [accessCode_of_stack hhigh hspace hframe hholder]
  exact if_pos (by simp [targetDenied, hsecure])

theorem accessCode_of_secureRequester (hclear : unitClearing s 2 (regionOf (gmaOffset a / frameBytes)) = false)
    (hup : skDown s (stackOf (gmaOffset a / frameBytes)) = false) :
    accessCode s src true a len = if 4096 < gmaOffset a % 4096 + len then some 6 else none := by
  rw [accessCode_of_stack hhigh hspace hframe hholder, if_neg (by simp [targetDenied, hclear]), hup]
  exact if_neg Bool.false_ne_true

end Checks

/-! ### At the stack link (09 R213) -/

/-- An access of this part for a stack's memory is the next to reach that stack's port. -/
structure ReachesStack (s : State) (n k : Nat) (p : MeshPacket) : Prop extends MayArrive s n p where
  access : isAccess p.type = true
  dest   : p.dest = .port k
  stack  : k < 24
  up     : skUp s k = true
  space  : gmaSpace p.gma = 0
  home   : stackOf (gmaOffset p.gma / frameBytes) = k
  part   : gmaPart p.gma = partId s

section ReachesStack

variable {s : State} {n k : Nat} {p : MeshPacket} (h : ReachesStack s n k p)
include h

/-- The base die looks at its checks alone, which no router's count changes. -/
theorem ReachesStack.exec_eq : exec (.meshPacketDeliver n []) s = .next
    (match accessCode s (sourceOf p) p.secure p.gma (accessLen p) with
    | some c => meshRefuse (atDestination s n p) p (0x400 + k) c
    | none => { atDestination s n p with stackQ := (atDestination s n p).stackQ ++ [(k, p)] }) := by
  have hservice : inService s p.dest = true := by rw [h.dest, inService, if_pos h.stack, h.up]
  have hpart : gmaPart p.gma = partId (atDestination s n p) := h.part.trans partId_atDestination.symm
  have hplace : ¬(gmaSpace p.gma ≠ 0 ∨ stackOf (gmaOffset p.gma / frameBytes) ≠ k) := by simp [h.space, h.home]
  rw [execMeshPacketDeliver_of_inService h.toMayArrive hservice, arrive_of_stackPort _ h.access h.dest h.stack hpart h.space, atStack, h.access,
    if_pos rfl, if_neg hplace, wordsOnly_atDestination.accessCode]
  rfl

/-- A request that passes the checks waits in the base die's queue. -/
theorem ReachesStack.exec_of_served (hcode : accessCode s (sourceOf p) p.secure p.gma (accessLen p) = none) :
    exec (.meshPacketDeliver n []) s = .next { atDestination s n p with stackQ := s.stackQ ++ [(k, p)] } := by
  have hstack : (atDestination s n p).stackQ = s.stackQ := (congrArg State.stackQ (butTail_atDestination s n p) :)
  rw [h.exec_eq, hcode, ← hstack]

/-- One that a check refuses is answered, and nothing else of it goes on. -/
theorem ReachesStack.exec_of_refused {c : Nat} (hcode : accessCode s (sourceOf p) p.secure p.gma (accessLen p) = some c) :
    ∃ t q, exec (.meshPacketDeliver n []) s = .next t ∧ AnswersError p q c ∧
      traffic t = traffic { s with meshQ := s.meshQ.eraseIdx n ++ [q] } := by
  obtain ⟨q, hanswer, heq⟩ := meshRefuse_eq (atDestination s n p) p (0x400 + k) c
  refine ⟨_, q, (h.exec_eq.trans (by rw [hcode])).trans (congrArg Host.Outcome.next heq), hanswer, ?_⟩
  exact (congrArg (fun u : State => traffic { u with meshQ := u.meshQ ++ [q] }) (butTail_atDestination s n p) :)

end ReachesStack

/-! ### The base die serves (09 R205, R209) -/

/-- The request is out of its queue; packets, core stores, instances and the counts of shared frames are as before. -/
structure Serves (s u : State) (n : Nat) (p : MeshPacket) : Prop where
  meshQ  : u.meshQ = s.meshQ
  stackQ : u.stackQ = s.stackQ.erase (n, p)
  store  : u.store = s.store
  insts  : u.insts = s.insts
  refs   : u.pot.refs = s.pot.refs

/-- And so are stack memory, Stockpot's objects and the uncorrectable lines. -/
structure ServesRead (s u : State) (n : Nat) (p : MeshPacket) : Prop extends Serves s u n p where
  stackMem : u.stackMem = s.stackMem
  objs     : u.pot.objs = s.pot.objs
  badLines : u.pot.badLines = s.pot.badLines

section Serve

variable {s : State} {n : Nat} {p : MeshPacket}

theorem Serves.stackPut {u : State} (h : Serves s u n p) (off : Nat) (bs : Bytes) : Serves s (stackPut u off bs) n p :=
  have hput := butPut_stackPut u off bs
  ⟨(congrArg State.meshQ hput :).trans h.meshQ, (congrArg State.stackQ hput :).trans h.stackQ, (congrArg State.store hput :).trans h.store,
    (congrArg State.insts hput :).trans h.insts, (congrArg (fun u : State => u.pot.refs) hput :).trans h.refs⟩

theorem servesRead_of_butRead {u : State} (h : butRead u = butRead { s with stackQ := s.stackQ.erase (n, p) }) : ServesRead s u n p :=
  ⟨⟨(congrArg State.meshQ h :), (congrArg State.stackQ h :), (congrArg State.store h :), (congrArg State.insts h :),
    (congrArg (fun u : State => u.pot.refs) h :)⟩, (congrArg State.stackMem h :), (congrArg (fun u : State => u.pot.objs) h :),
    (congrArg (fun u : State => u.pot.badLines) h :)⟩

variable (s n p)

theorem servesRead_requestTaken : ServesRead s (requestTaken s n p) n p :=
  servesRead_of_butRead (butRead_of_butServe (butServe_requestTaken s n p))

theorem servesRead_readLines (ls : List Nat) : ServesRead s (readLines (requestTaken s n p) ls) n p :=
  servesRead_of_butRead ((butRead_readLines _ ls).trans (butRead_of_butServe (butServe_requestTaken s n p)))

variable {s n p}

/-- A read with an uncorrectable line is answered with code 0x04, any other with its bytes. -/
theorem execStackRead_eq (h : WaitsAt s n p .read) : exec (.stackRead n p []) s = .next
    (if linesBad (requestTaken s n p) (linesOf (gmaOffset p.gma) (accessLen p)) then
      meshError (readLines (requestTaken s n p) (linesOf (gmaOffset p.gma) (accessLen p))) p (0x400 + n) 4
    else meshReply (readLines (requestTaken s n p) (linesOf (gmaOffset p.gma) (accessLen p))) p (0x400 + n) .readResp (zeros 40)
      (memRead (requestTaken s n p).stackMem (gmaOffset p.gma) (accessLen p))) := by
  change onUnit (decide (n < 24)) (stackRead s n p []) = _
  rw [onUnit_of_true (decide_eq_true h.stack), stackRead, if_pos (h.servable (.inl rfl)), h.serveStack_eq]
  rfl

theorem execStackRead_of_good (h : WaitsAt s n p .read)
    (hgood : ∀ l ∈ linesOf (gmaOffset p.gma) (accessLen p), l ∉ s.pot.badLines ∧ l ∉ s.pot.softLines) :
    exec (.stackRead n p []) s = .next (meshReply (requestTaken s n p) p (0x400 + n) .readResp (zeros 40)
      (memRead s.stackMem (gmaOffset p.gma) (accessLen p))) := by
  have hlines : ∀ l ∈ linesOf (gmaOffset p.gma) (accessLen p),
      l ∉ (requestTaken s n p).pot.badLines ∧ l ∉ (requestTaken s n p).pot.softLines := by
    rw [(servesRead_requestTaken s n p).badLines, softLines_of_butServe (butServe_requestTaken s n p)]
    exact hgood
  rw [execStackRead_eq h, linesBad_of_good fun l hl => (hlines l hl).1, readLines_of_good hlines, (servesRead_requestTaken s n p).stackMem]
  rfl

theorem execStackRead_of_bad (h : WaitsAt s n p .read) {l : Nat} (hl : l ∈ linesOf (gmaOffset p.gma) (accessLen p)) (hbad : l ∈ s.pot.badLines) :
    exec (.stackRead n p []) s = .next
      (meshError (readLines (requestTaken s n p) (linesOf (gmaOffset p.gma) (accessLen p))) p (0x400 + n) 4) := by
  have hlines : linesBad (requestTaken s n p) (linesOf (gmaOffset p.gma) (accessLen p)) = true := by
    rw [linesBad, (servesRead_requestTaken s n p).badLines]
    exact List.any_eq_true.mpr ⟨l, hl, List.contains_iff_mem.mpr hbad⟩
  rw [execStackRead_eq h, hlines, if_pos rfl]

/-- The bytes of a write stand in memory. -/
def writeServed (s : State) (n : Nat) (p : MeshPacket) : State := stackPut (requestTaken s n p) (gmaOffset p.gma) p.payload

theorem serves_writeServed : Serves s (writeServed s n p) n p := (servesRead_requestTaken s n p).toServes.stackPut _ _

theorem writeServed_stackMem : (writeServed s n p).stackMem = memWrite s.stackMem (gmaOffset p.gma) p.payload := by
  rw [writeServed, stackPut_stackMem, (servesRead_requestTaken s n p).stackMem]

theorem writeServed_cw_of_none (h : s.pot.draining = []) : (writeServed s n p).cw = s.cw :=
  (stackPut_cw ..).trans (requestTaken_cw_of_none h n p)

/-- An acknowledgement is sent where the write asks for it (08 R198). -/
theorem execStackWrite_eq (h : WaitsAt s n p .write) (hshared : sharedHeld s (gmaOffset p.gma / frameBytes) = false) :
    exec (.stackWrite n p) s = .next { writeServed s n p with
      meshQ := if meshAck p then (writeServed s n p).meshQ ++ [replyPacket (writeServed s n p) p (0x400 + n) .writeAck (zeros 40) []]
        else (writeServed s n p).meshQ } := by
  change onUnit (decide (n < 24)) (stackWrite s n p) = _
  rw [onUnit_of_true (decide_eq_true h.stack), stackWrite, if_pos (h.servable (.inr hshared)), h.serveStack_eq,
    ← show writeServed s n p = stackPut (requestTaken s n p) (gmaOffset p.gma) p.payload from rfl, meshWriteAck]
  split <;> rfl

/-- An atomic's lines are read, and the result of its operation stands in its word. -/
def atomicServed (s : State) (n : Nat) (p : MeshPacket) (v : W64) : State :=
  stackPut (readLines (requestTaken s n p) (linesOf (gmaOffset p.gma) 8)) (gmaOffset p.gma) (leBytes 8 v.toNat)

/-- The word that an atomic finds. -/
def atomicOld (s : State) (p : MeshPacket) : W64 := w64At (memRead s.stackMem (gmaOffset p.gma) 8) 0

theorem execStackAtomic_of_good {v : W64} (h : WaitsAt s n p .atomic) (hshared : sharedHeld s (gmaOffset p.gma / frameBytes) = false)
    (hcode : atomicCode (meshSpec p) (gmaOffset p.gma) = none) (hgood : ∀ l ∈ linesOf (gmaOffset p.gma) 8, l ∉ s.pot.badLines)
    (hv : atomicOp (meshSpec p) (atomicOld s p) (w64At p.payload 0) (w64At p.payload 8) = some v) :
    exec (.stackAtomic n p) s = .next
      (meshReply (atomicServed s n p v) p (0x400 + n) .atomicResp (zeros 40) (leBytes 8 (atomicOld s p).toNat)) := by
  have hlines : linesBad (requestTaken s n p) (linesOf (gmaOffset p.gma) 8) = false :=
    linesBad_of_good (by rw [(servesRead_requestTaken s n p).badLines]; exact hgood)
  have hold : w64At (memRead (requestTaken s n p).stackMem (gmaOffset p.gma) 8) 0 = atomicOld s p := by
    rw [(servesRead_requestTaken s n p).stackMem]
    rfl
  have hat : stackAtomicAt (requestTaken s n p) (gmaOffset p.gma) (meshSpec p) (w64At p.payload 0) (w64At p.payload 8) =
      (.ok (atomicOld s p), atomicServed s n p v) := by
    simp only [stackAtomicAt, hcode, hlines, hold, hv]
    rfl
  change onUnit (decide (n < 24)) (stackAtomic s n p) = _
  rw [onUnit_of_true (decide_eq_true h.stack), stackAtomic, if_pos (h.servable (.inr hshared)), h.serveStack_eq, hat]

theorem serves_atomicServed (v : W64) : Serves s (atomicServed s n p v) n p := (servesRead_readLines s n p _).toServes.stackPut _ _

theorem atomicServed_stackMem (v : W64) : (atomicServed s n p v).stackMem = memWrite s.stackMem (gmaOffset p.gma) (leBytes 8 v.toNat) := by
  rw [atomicServed, stackPut_stackMem, (servesRead_readLines s n p _).stackMem]

end Serve

/-! ### The obligation -/

/-- Settles O18, by the checks at the port and by what each service answers and stores. -/
theorem stacksServeRequests : Obligations.StacksServeRequests := by
  unfold Obligations.StacksServeRequests
  refine ⟨?queued, ?refused, ?reserved, ?secure, ?crossing, ?read, ?badLine, ?write, ?atomic⟩
  case queued =>
    intro s n k p hq hturn htaken htype hdest hk hup hspace hhome hpart hcode
    have hreach : ReachesStack s n k p := ⟨⟨hq, hturn, htaken⟩, isAccess_iff.mpr htype, hdest, hk, hup, hspace, hhome, hpart⟩
    have hrest := butTail_atDestination s n p
    refine ⟨_, hreach.exec_of_served hcode, (congrArg State.meshQ hrest :), rfl, ?_⟩
    exact (congrArg (fun u : State => { u with
      meshQ := (atDestination s n p).meshQ, stackQ := s.stackQ ++ [(k, p)],
      cw := (atDestination s n p).cw, freeNo := (atDestination s n p).freeNo }) hrest :)
  case refused =>
    intro s n k c p hq hturn htaken htype hdest hk hup hspace hhome hpart hcode
    have hreach : ReachesStack s n k p := ⟨⟨hq, hturn, htaken⟩, isAccess_iff.mpr htype, hdest, hk, hup, hspace, hhome, hpart⟩
    obtain ⟨t, q, ht, hanswer, htraffic⟩ := hreach.exec_of_refused hcode
    obtain ⟨hmesh, -, hstack, hmem, hstore⟩ := traffic_eq_iff.mp htraffic
    exact ⟨t, q, ht, hmesh, hanswer.type, hanswer.tag, hanswer.vc, hanswer.dest, hanswer.code, hstack, hmem, hstore⟩
  case reserved => exact fun s a len src sec h => accessCode_of_reserved h
  case secure => exact fun s a len src hhigh hspace hframe hholder _ hsecure => accessCode_of_secure hhigh hspace hframe hholder hsecure
  case crossing =>
    exact fun s a len src hhigh hspace hframe hholder hclear hup => accessCode_of_secureRequester hhigh hspace hframe hholder hclear hup
  case read =>
    intro s n p hn hq htype hsteady hup hgood
    have hserves := servesRead_requestTaken s n p
    exact ⟨_, _, execStackRead_of_good ⟨hn, hq, htype, hsteady, hup⟩ hgood, congrArg (· ++ [_]) hserves.meshQ, rfl, rfl, rfl, rfl, rfl,
      hserves.stackQ, hserves.stackMem, hserves.store, fun h => requestTaken_cw_of_none h n p, hserves.insts, hserves.objs⟩
  case badLine =>
    intro s n l p hn hq htype hsteady hup hl hbad
    have hserves := servesRead_readLines s n p (linesOf (gmaOffset p.gma) (accessLen p))
    obtain ⟨q, hanswer, heq⟩ := meshError_eq (readLines (requestTaken s n p) (linesOf (gmaOffset p.gma) (accessLen p))) p (0x400 + n) 4
    exact ⟨_, q, (execStackRead_of_bad ⟨hn, hq, htype, hsteady, hup⟩ hl hbad).trans (congrArg Host.Outcome.next heq),
      congrArg (· ++ [q]) hserves.meshQ, hanswer.type, hanswer.tag, hanswer.code, hserves.stackQ, hserves.stackMem, hserves.store⟩
  case write =>
    intro s n p hn hq htype hsteady hup hshared
    have hserves := serves_writeServed (s := s) (n := n) (p := p)
    have hanswer := answers_replyPacket (writeServed s n p) p (0x400 + n) .writeAck (zeros 40) []
    refine ⟨_, execStackWrite_eq ⟨hn, hq, htype, hsteady, hup⟩ hshared,
      fun hack => ⟨_, (if_pos hack).trans (congrArg (· ++ [_]) hserves.meshQ), hanswer.type, hanswer.tag, hanswer.vc, hanswer.dest⟩,
      fun hack => (if_neg (by rw [hack]; decide)).trans hserves.meshQ, hserves.stackQ, fun a => ?bytes, hserves.store, writeServed_cw_of_none,
      hserves.insts, hserves.refs⟩
    exact (congrArg (memByte · a) writeServed_stackMem).trans (memByte_memWrite ..)
  case atomic =>
    intro s n p v hn hq htype hsteady hup hshared halign hop hgood hv
    have hserves := serves_atomicServed (s := s) (n := n) (p := p) v
    have hcode : atomicCode (meshSpec p) (gmaOffset p.gma) = none := if_neg (by omega)
    refine ⟨_, _, execStackAtomic_of_good ⟨hn, hq, htype, hsteady, hup⟩ hshared hcode hgood hv, congrArg (· ++ [_]) hserves.meshQ, rfl, rfl,
      rfl, w64At_leBytes _, ?word, fun a ha => ?others, hserves.stackQ, hserves.store, hserves.insts, hserves.refs⟩
    case word =>
      have hbytes := memRead_memWrite s.stackMem (gmaOffset p.gma) (leBytes 8 v.toNat)
      rw [length_leBytes] at hbytes
      rw [meshReply_eq]
      dsimp only
      rw [atomicServed_stackMem, hbytes, w64At_leBytes]
    case others =>
      exact (congrArg (memByte · a) (atomicServed_stackMem v)).trans (memByte_memWrite_out _ _ _ a (by rwa [length_leBytes]))

end Sys2Proof.Machine
end

section
/-! SUPPORT. Occupancy windows of the stacks (09 R224, R225): what latching the means and peaks writes, and what planned moves and a new key
leave. -/

namespace Sys2Proof.Machine

/-! ### Means and peaks are latched (09 R224) -/

/-- `SK_OCC` of one stack takes its window's mean and peak. -/
def latchStack (s : State) (n : Nat) : State := wr s (skReg n 4) (occWord (mapGet (0, 0, 0) s.pot.occ n))

/-- `SK_OCC` of every stack has taken its window's mean and peak. -/
@[irreducible] def latchStacks (s : State) : State := (List.range 24).foldl latchStack s

theorem latchStacks_butWords (s : State) : (latchStacks s).butWords = s.butWords := by
  unfold latchStacks
  exact foldl_view (v := State.butWords) (f := latchStack) (fun _ _ _ => rfl) s

/-- Nothing but the words and the window's samples changes. -/
theorem latchOcc_eq (s : State) : latchOcc s = { s with cw := (latchStacks s).cw, pot := { s.pot with occ := [] } } := by
  have hlatch : latchOcc s = { latchStacks s with pot := { s.pot with occ := [] } } := by
    unfold latchOcc latchStacks latchStack
    rfl
  rw [hlatch]
  exact congrArg (fun u : State => { u with cw := (latchStacks s).cw, pot := { s.pot with occ := [] } }) (latchStacks_butWords s)

theorem latchStacks_potWinAt (s : State) (x : Option W64) : (latchStacks { s with potWinAt := x }).cw = (latchStacks s).cw := by
  unfold latchStacks
  generalize List.range 24 = l
  induction l generalizing s with
  | nil => rfl
  | cons n l ih => exact ih (latchStack s n)

theorem skReg_ne {n k : Nat} (hn : n < 24) (hk : k < 24) (h : k ≠ n) (o : Nat) : skReg n o ≠ skReg k o := by
  unfold skReg
  omega

theorem rd_latchStacks_occ (s : State) {n : Nat} (hn : n < 24) : rd (latchStacks s) (skReg n 4) = occWord (mapGet (0, 0, 0) s.pot.occ n) := by
  unfold latchStacks
  obtain ⟨u, hu, hlast⟩ := foldl_view_at (v := fun u => (rd u (skReg n 4), u.pot.occ)) (f := latchStack) List.nodup_range
    (List.mem_range.mpr hn) (fun k hk hne u => Prod.ext (rd_wr_ne u _ (skReg_ne hn (List.mem_range.mp hk) hne 4)) rfl) s
  obtain ⟨hword, -⟩ := Prod.mk.inj hlast
  obtain ⟨-, hocc⟩ := Prod.mk.inj hu
  rw [hword, latchStack, rd_wr_same, hocc]

theorem rd_latchOcc_occ (s : State) {n : Nat} (hn : n < 24) : rd (latchOcc s) (skReg n 4) = occWord (mapGet (0, 0, 0) s.pot.occ n) := by
  rw [← rd_latchStacks_occ s hn, latchOcc_eq]
  rfl

/-- The registers outside the stacks' blocks keep their words. -/
theorem rd_latchOcc_ne (s : State) {p : Nat} (h : ∀ n, p ≠ skReg n 4) : rd (latchOcc s) p = rd s p := by
  have hfold : rd (latchStacks s) p = rd s p := by
    unfold latchStacks
    exact foldl_view (v := (rd · p)) (f := latchStack) (fun n _ u => rd_wr_ne u _ (h n)) s
  rw [← hfold, latchOcc_eq]
  rfl

theorem spReg_ne_skReg {o : Nat} (h : o < 0x100) (n k : Nat) : spReg o ≠ skReg n k := by
  unfold spReg skReg
  omega

/-- A window's mean and its peak are read back from `SK_OCC` (09 Table 09.10). -/
theorem fields_occWord {c sum peak : Nat} (hc : c ≠ 0) (hsum : sum ≤ 512 * c) (hpeak : peak ≤ 512) :
    fld (occWord (c, sum, peak)) 9 0 = sum / c ∧ fld (occWord (c, sum, peak)) 25 16 = peak := by
  have hmean : sum / c ≤ 512 := Nat.div_le_of_le_mul (by rwa [Nat.mul_comm])
  have hword : (occWord (c, sum, peak)).toNat = sum / c + 65536 * peak := by
    rw [occWord, BitVec.toNat_ofNat, if_neg hc]
    exact Nat.mod_eq_of_lt (by dsimp only; omega)
  generalize sum / c = mean at hmean hword ⊢
  rw [fld, fld, hword, nbits, nbits]
  norm_num only
  omega

/-! ### A stack is hot (09 R225) -/

theorem isHot_of_cw {s t : State} (h : t.cw = s.cw) (n : Nat) : isHot t n = isHot s n := by
  have e : isHot t n = isHot { s with cw := t.cw } n := rfl
  rw [e, h]

theorem isHot_iff (s : State) (n : Nat) : isHot s n = true ↔ n < 24 ∧ skUp s n = true ∧
    Nat.max 17 (rdF s (spReg 4) 7 0) * ((upStacks s).map (skMean s)).sum < 16 * (upStacks s).length * skMean s n ∧
    rdF s (spReg 4) 31 24 ≤ skMean s n := by
  have hup : n ∈ upStacks s ↔ n < 24 ∧ skUp s n = true := by simp [upStacks]
  simp only [isHot, Bool.and_eq_true, List.contains_iff_mem, decide_eq_true_eq, hup, and_assoc]
  exact Iff.rfl

/-- The hot stacks. -/
def hotStacks (s : State) : List Nat := (upStacks s).filter (isHot s)

theorem mem_hotStacks {s : State} {n : Nat} : n ∈ hotStacks s ↔ isHot s n = true := by
  rw [hotStacks, List.mem_filter, and_iff_right_iff_imp]
  intro h
  obtain ⟨hn, hup, -, -⟩ := (isHot_iff s n).mp h
  exact List.mem_filter.mpr ⟨List.mem_range.mpr hn, hup⟩

/-! ### What a planned move leaves (09 R225, R226) -/

theorem lowCheck_pot (s : State) : (lowCheck s).pot = { s.pot with lowArmed := (lowCheck s).pot.lowArmed } := by
  unfold lowCheck
  split_ifs
  · rw [signal_pot]
  all_goals rfl

/-- Blanks what the start of a migration may change: interrupts, the number of free values used, and of Stockpot the objects, the frames in
use, the low mark, the migrations and those planned. -/
def butMove (s : State) : State :=
  { s.butHost with freeNo := 0, pot := { s.pot with objs := [], used := [], lowArmed := false, migs := [], migPlan := [] } }

theorem butMove_lowCheck (s : State) : butMove (lowCheck s) = butMove s := by
  unfold lowCheck
  split_ifs
  · exact congrArg (fun u : State => { u with
      freeNo := 0, pot := { u.pot with objs := [], used := [], lowArmed := false, migs := [], migPlan := [] } })
      (signal_butHost { s with pot := { s.pot with lowArmed := false } } 0 69)
  all_goals rfl

/-- A page's migration has begun: its entry is marked, and a frame is taken for it (09 R226 step 1). -/
def moveBegun (s : State) (m : Nat × Nat × Nat) (o : Obj) (p : Page) (f : Nat) : State :=
  useFree (takeFrame (setObj s m.1 (setPage o m.2.1 { p with migrating := true })) f)

/-- And it stands in the list of migrations; the moves of `ms` are still to start. -/
def moveListed (s : State) (m : Nat × Nat × Nat) (f : Nat) (ms : List (Nat × Nat × Nat)) : State :=
  { s with pot := { s.pot with migs := s.pot.migs ++ [{ handle := m.1, page := m.2.1, dest := f, rounds := 0 }], migPlan := ms } }

/-- The page of a planned move may still move, and its new stack has a frame for it (09 R225). -/
structure MovesNow (s : State) (m : Nat × Nat × Nat) (o : Obj) (p : Page) (f : Nat) : Prop where
  obj   : objAt s m.1 = some o
  page  : trackedPage s (m.1 * 65536 + m.2.1) = some p
  may   : mayMove s (m.1 * 65536 + m.2.1) = true
  frame : findFrame s o.secure m.2.2 (Config.freeNat s.freeNo % stackFrames) stackFrames = some f

theorem MovesNow.startMove_eq {s : State} {m : Nat × Nat × Nat} {o : Obj} {p : Page} {f : Nat} (h : MovesNow s m o p f)
    (ms : List (Nat × Nat × Nat)) : startMove s (m :: ms) = lowCheck (moveListed (moveBegun s m o p f) m f ms) := by
  unfold startMove moveListed moveBegun
  simp only [h.obj, h.page, h.may, h.frame]

/-- A move that cannot start is passed over. -/
theorem startMove_of_not {s : State} {m : Nat × Nat × Nat} (h : ¬ ∃ o p f, MovesNow s m o p f) (ms : List (Nat × Nat × Nat)) :
    startMove s (m :: ms) = startMove s ms := by
  rw [startMove]
  dsimp only
  split
  · split
    · exact absurd ⟨_, _, _, ‹_›, ‹_›, ‹_›, ‹_›⟩ h
    · rfl
  · rfl

theorem butMove_moveListed (s : State) (m : Nat × Nat × Nat) (f : Nat) (ms : List (Nat × Nat × Nat)) :
    butMove (moveListed s m f ms) = butMove s := rfl

theorem butMove_moveBegun (s : State) (m : Nat × Nat × Nat) (o : Obj) (p : Page) (f : Nat) : butMove (moveBegun s m o p f) = butMove s := by
  have hobj (o : Obj) : butMove (setObj s m.1 o) = butMove s := rfl
  have htake (u : State) : butMove (useFree (takeFrame u f)) = butMove u := rfl
  rw [moveBegun, htake, hobj]

theorem butMove_startMove (s : State) (ms : List (Nat × Nat × Nat)) : butMove (startMove s ms) = butMove s := by
  induction ms with
  | nil => rfl
  | cons m ms ih =>
    by_cases h : ∃ o p f, MovesNow s m o p f
    · obtain ⟨o, p, f, hnow⟩ := h
      rw [hnow.startMove_eq, butMove_lowCheck, butMove_moveListed, butMove_moveBegun]
    · rw [startMove_of_not h, ih]

/-! ### A new key (09 R223, R225) -/

/-- The stacks' key is drawn again, and counted. -/
def rekeyed (s : State) : State :=
  incWrap { drawKey s with pot := { (drawKey s).pot with rekeyAt := some s.rackTime } } (spReg 0x28) 1

theorem rekeyDue_of {s : State} (h : ∀ u, s.pot.rekeyAt = some u → Nat.max 1 (rdF s (spReg 4) 23 16) * msCycles ≤ elapsed s u) :
    rekeyDue s = true := by
  unfold rekeyDue
  split
  · rfl
  · exact decide_eq_true (h _ ‹_›)

theorem rekey_of_due {s : State} (hen : rbit s (spReg 0) 1 = true) (hdue : rekeyDue s = true) : rekey s = rekeyed s := by
  rw [rekey, hen, hdue]
  rfl

theorem rd_rekeyed_draws (s : State) : rd (rekeyed s) (spReg 0x10) = rd s (spReg 0x10) + 1 :=
  (rd_incWrap_ne _ 1 (by decide)).trans (rd_incWrap_same _ _ _)

theorem rd_rekeyed_rekeys (s : State) : rd (rekeyed s) (spReg 0x28) = rd s (spReg 0x28) + 1 :=
  (rd_incWrap_same _ _ _).trans (congrArg (· + 1) (rd_incWrap_ne (useFree _) 1 (by decide)))

/-- Beside Stockpot's words, the key, its time and the number of free values used, nothing changes. -/
theorem rekey_eq (s : State) : rekey s = { s with
    cw := (rekey s).cw, freeNo := (rekey s).freeNo, pot := { s.pot with key := (rekey s).pot.key, rekeyAt := (rekey s).pot.rekeyAt } } := by
  unfold rekey
  split <;> rfl

theorem rd_rekey_ne (s : State) {p : Nat} (hdraws : p ≠ spReg 0x10) (hrekeys : p ≠ spReg 0x28) : rd (rekey s) p = rd s p := by
  unfold rekey
  split
  · exact (rd_incWrap_ne _ 1 hrekeys).trans (rd_incWrap_ne (useFree _) 1 hdraws)
  · rfl

end Sys2Proof.Machine
end

section
/-! PROOF. O32: samples of a base die's queue, the ends of Stockpot's windows, and hot stacks (09 R224, R225). -/

namespace Sys2Proof.Machine

/-! ### The window's end, by whether a stack is hot -/

/-- The window has ended: its means and peaks show, and no page is planned to move. -/
def windowLatched (s : State) : State :=
  { s with cw := (latchStacks s).cw, potWinAt := some s.rackTime, pot := { s.pot with occ := [], migPlan := [] } }

theorem windowLatched_cw (s : State) : (windowLatched s).cw = (latchOcc s).cw := by
  rw [latchOcc_eq]
  rfl

/-- The hot stacks' pages are planned to move, and the first starts, where moves are enabled. -/
def movesPlanned (s : State) (hot : List Nat) : State := if rbit s (spReg 0) 0 then startMove s (planMoves s hot) else s

theorem butMove_movesPlanned (s : State) (hot : List Nat) : butMove (movesPlanned s hot) = butMove s := by
  unfold movesPlanned
  split
  · exact butMove_startMove s _
  · rfl

/-- What follows the latching: with a hot stack the key may be drawn again and pages move (09 R225). -/
def windowActed (s : State) : State :=
  if (hotStacks (windowLatched s)).isEmpty then windowLatched s else movesPlanned (rekey (windowLatched s)) (hotStacks (windowLatched s))

theorem windowEnd_eq (s : State) : windowEnd s = { windowActed s with pot := { (windowActed s).pot with tracker := [] } } := by
  have hlatch : latchOcc { s with potWinAt := some s.rackTime } =
      { s with cw := (latchStacks s).cw, potWinAt := some s.rackTime, pot := { s.pot with occ := [] } } := by
    rw [latchOcc_eq, latchStacks_potWinAt]
  unfold windowEnd
  rw [hlatch]
  rfl

/-- What a window's end leaves, whether a stack is hot or not. -/
theorem butMove_windowActed (s : State) : butMove (windowActed s) = butMove (windowLatched s) ∨
    butMove (windowActed s) = butMove (rekey (windowLatched s)) := by
  unfold windowActed
  split
  · exact .inl rfl
  · exact .inr (butMove_movesPlanned ..)

theorem execStockpotWindowEnd_of_due {s : State} (hbound : s.rackTime.toNat % msCycles = 0) (hnew : s.potWinAt ≠ some s.rackTime) :
    exec .stockpotWindowEnd s = .next { windowActed s with pot := { (windowActed s).pot with tracker := [] } } := by
  have hdue : windowDue s s.potWinAt = true := by simp [windowDue, hbound, hnew]
  rw [← windowEnd_eq]
  exact congrArg Host.Outcome.next (if_pos hdue)

theorem isHot_windowLatched (s : State) (n : Nat) : isHot (windowLatched s) n = isHot (latchOcc s) n := isHot_of_cw (windowLatched_cw s) n

/-- With no hot stack a window's end only latches. -/
theorem windowActed_of_noneHot {s : State} (h : ∀ n, n < 24 → isHot (latchOcc s) n = false) : windowActed s = windowLatched s := by
  refine if_pos (List.isEmpty_iff.mpr (List.eq_nil_iff_forall_not_mem.mpr fun n hn => ?_))
  have hhot := mem_hotStacks.mp hn
  obtain ⟨hlt, -⟩ := (isHot_iff _ _).mp hhot
  rw [isHot_windowLatched, h n hlt] at hhot
  exact Bool.false_ne_true hhot

theorem windowActed_of_hot {s : State} {n : Nat} (h : isHot (latchOcc s) n = true) :
    butMove (windowActed s) = butMove (rekey (windowLatched s)) := by
  have hmem : n ∈ hotStacks (windowLatched s) := mem_hotStacks.mpr ((isHot_windowLatched s n).trans h)
  have hne : ¬ (hotStacks (windowLatched s)).isEmpty = true := fun he => by simp [List.isEmpty_iff.mp he] at hmem
  rw [windowActed, if_neg hne]
  exact butMove_movesPlanned ..

/-- The words of the stacks' occupancy stand as they were latched. -/
theorem rd_windowActed_occ (s : State) (n : Nat) : rd (windowActed s) (skReg n 4) = rd (latchOcc s) (skReg n 4) := by
  rw [← rd_of_cw (windowLatched_cw s)]
  rcases butMove_windowActed s with h | h
  · exact rd_of_cw (congrArg State.cw h :) _
  · exact (rd_of_cw (congrArg State.cw h :) _).trans
      (rd_rekey_ne _ (spReg_ne_skReg (by decide) n 4).symm (spReg_ne_skReg (by decide) n 4).symm)

/-- A window's end empties the samples, and changes neither memory, instances nor arrays. -/
theorem windowActed_leaves (s : State) : (windowActed s).pot.occ = [] ∧ (windowActed s).stackMem = s.stackMem ∧
    (windowActed s).insts = s.insts ∧ (windowActed s).arrays = s.arrays := by
  have hview (u : State) : (butMove u).pot.occ = u.pot.occ ∧ (butMove u).stackMem = u.stackMem ∧ (butMove u).insts = u.insts ∧
      (butMove u).arrays = u.arrays := ⟨rfl, rfl, rfl, rfl⟩
  rw [← (hview (windowActed s)).1, ← (hview (windowActed s)).2.1, ← (hview (windowActed s)).2.2.1, ← (hview (windowActed s)).2.2.2]
  rcases butMove_windowActed s with h | h
  · rw [h]
    exact ⟨rfl, rfl, rfl, rfl⟩
  · rw [h, rekey_eq]
    exact ⟨rfl, rfl, rfl, rfl⟩

/-- Settles O32, by what a window's end latches and whether a stack is then hot. -/
theorem occupancyWindows : Obligations.OccupancyWindows := by
  unfold Obligations.OccupancyWindows
  refine ⟨?sample, ?latched, ?steady, ?hot, isHot_iff⟩
  case sample =>
    intro s n hn
    refine ⟨occSample s n, onUnit_of_true (decide_eq_true hn) _, ?_, fun k hk => ?_, rfl⟩
    · exact congrArg (Option.getD · (0, 0, 0)) (mapFind_mapSet_same s.pot.occ n _)
    · exact congrArg (Option.getD · (0, 0, 0)) (mapFind_mapSet_ne s.pot.occ _ hk)
  case latched =>
    intro s hbound hnew
    obtain ⟨hocc, hmem, hinsts, harrays⟩ := windowActed_leaves s
    refine ⟨_, execStockpotWindowEnd_of_due hbound hnew, hocc, rfl, fun n hn c sum peak ho hc hsum hpeak => ?_, hmem, hinsts, harrays⟩
    have hword : rd { windowActed s with pot := { (windowActed s).pot with tracker := [] } } (skReg n 4) = occWord (c, sum, peak) :=
      (rd_windowActed_occ s n).trans ((rd_latchOcc_occ s hn).trans (congrArg occWord ho))
    rw [rdF, rdF, hword]
    exact fields_occWord hc hsum hpeak
  case steady =>
    intro s hbound hnew hcold
    refine ⟨_, execStockpotWindowEnd_of_due hbound hnew, ?_⟩
    rw [windowActed_of_noneHot hcold]
    exact ⟨rfl, rfl, rfl, rfl, rfl⟩
  case hot =>
    intro s n hbound hnew hn hhot hen hmin
    have hwords (o : Nat) (ho : o < 0x100) : rd (windowLatched s) (spReg o) = rd s (spReg o) := by
      rw [rd_of_cw (windowLatched_cw s), rd_latchOcc_ne s fun k => spReg_ne_skReg ho k 4]
    have hbit : rbit (windowLatched s) (spReg 0) 1 = true := (congrArg (fld · 1 1 == 1) (hwords 0 (by decide))).trans hen
    have hdue : rekeyDue (windowLatched s) = true := rekeyDue_of fun u hu => by
      rw [rdF, hwords 4 (by decide)]
      exact hmin u hu
    have hacted := windowActed_of_hot hhot
    rw [rekey_of_due hbit hdue] at hacted
    have hcw : (windowActed s).cw = (rekeyed (windowLatched s)).cw := (congrArg State.cw hacted :)
    refine ⟨_, execStockpotWindowEnd_of_due hbound hnew, (congrArg (fun u : State => u.pot.key) hacted :),
      (congrArg (fun u : State => u.pot.rekeyAt) hacted :), ?draws, ?rekeys⟩
    case draws => exact ((rd_of_cw hcw _).trans (rd_rekeyed_draws _)).trans (congrArg (· + 1) (hwords 0x10 (by decide)))
    case rekeys => exact ((rd_of_cw hcw _).trans (rd_rekeyed_rekeys _)).trans (congrArg (· + 1) (hwords 0x28 (by decide)))

end Sys2Proof.Machine
end

section
/-! SUPPORT. Frames are let go (09 R222, R226): what of the state that leaves, which frames are still in use, and the objects. -/

namespace Sys2Proof.Machine

/-- Blanks what letting frames go may change: beside what serving a request may, the reference counts. -/
def butLeave (s : State) : State := { butServe s with pot := { (butServe s).pot with refs := [] } }

section Views

variable {s t : State}

theorem butLeave_of_butServe (h : butServe t = butServe s) : butLeave t = butLeave s :=
  congrArg (fun u : State => { u with pot := { u.pot with refs := [] } }) h

theorem objs_of_butLeave (h : butLeave t = butLeave s) : t.pot.objs = s.pot.objs := (congrArg (fun u : State => u.pot.objs) h :)
theorem lapsed_of_butLeave (h : butLeave t = butLeave s) : t.pot.lapsed = s.pot.lapsed := (congrArg (fun u : State => u.pot.lapsed) h :)
theorem stackMem_of_butLeave (h : butLeave t = butLeave s) : t.stackMem = s.stackMem := (congrArg State.stackMem h :)

theorem objAt_of_objs (h : t.pot.objs = s.pot.objs) (k : Nat) : objAt t k = objAt s k := by rw [objAt, objAt, h]
theorem objFrames_of_objs (h : t.pot.objs = s.pot.objs) (k : Option Nat) : objFrames t k = objFrames s k := by
  cases k with
  | none => rfl
  | some k => rw [objFrames, objFrames, Option.bind_some, Option.bind_some, objAt_of_objs h]

theorem frameQueued_of_stackQ (h : t.stackQ = s.stackQ) (f : Nat) : frameQueued t f = frameQueued s f := by rw [frameQueued, frameQueued, h]

end Views

variable (s : State)

/-! ### One frame -/

theorem used_toPool (f : Nat) (page : Bool) : (toPool s f page).pot.used = setDel s.pot.used f := by
  rw [toPool, lowCheck_pot]
  cases page <;> rfl

/-- What waits for a frame's accesses to complete no longer counts its holders. -/
def uncounted (f : Nat) : State := { s with pot := { s.pot with refs := mapDel s.pot.refs f } }

theorem leaveFrame_of_queued {s : State} {f : Nat} (h : frameQueued s f = true) (page : Bool) : leaveFrame s f page =
    { uncounted s f with pot := { (uncounted s f).pot with draining := s.pot.draining ++ [(f, page)] } } := if_pos h

theorem leaveFrame_of_free {s : State} {f : Nat} (h : frameQueued s f = false) (page : Bool) :
    leaveFrame s f page = toPool (uncounted s f) f page :=
  if_neg (ne_true_of_eq_false h)

theorem butLeave_leaveFrame (f : Nat) (page : Bool) : butLeave (leaveFrame s f page) = butLeave s := by
  cases h : frameQueued s f with
  | true => rw [leaveFrame_of_queued h]; rfl
  | false => rw [leaveFrame_of_free h, butLeave_of_butServe (butServe_toPool ..)]; rfl

/-- A frame that is let go stays in use only where accesses to it are queued; other frames stay as they were. -/
theorem mem_used_leaveFrame (f : Nat) (page : Bool) (x : Nat) :
    x ∈ (leaveFrame s f page).pot.used ↔ x ∈ s.pot.used ∧ (x = f → frameQueued s x = true) := by
  cases h : frameQueued s f with
  | true =>
    rw [leaveFrame_of_queued h]
    exact ⟨fun hx => ⟨hx, fun e => e ▸ h⟩, And.left⟩
  | false =>
    have hfree : (x = f → frameQueued s x = true) ↔ x ≠ f :=
      ⟨fun hx e => Bool.false_ne_true (h.symm.trans (e ▸ hx e)), fun hx e => absurd e hx⟩
    rw [leaveFrame_of_free h, used_toPool, setDel, List.mem_filter, bne_iff_ne, hfree]
    rfl

/-- Where no page was freed, no word changes. -/
theorem leaveFrame_cw (f : Nat) : (leaveFrame s f false).cw = s.cw := by
  cases h : frameQueued s f with
  | true => rw [leaveFrame_of_queued h]; rfl
  | false => rw [leaveFrame_of_free h, toPool, lowCheck_cw]; rfl

/-! ### Freed pages, one after another -/

theorem butLeave_freeFrames (fs : List Nat) : butLeave (fs.foldl freeFrame s) = butLeave s :=
  foldl_view (v := butLeave) (f := freeFrame) (fun f _ u => butLeave_leaveFrame u f true) s

theorem mem_used_freeFrames (fs : List Nat) (x : Nat) :
    x ∈ (fs.foldl freeFrame s).pot.used ↔ x ∈ s.pot.used ∧ (x ∈ fs → frameQueued s x = true) := by
  induction fs generalizing s with
  | nil => simp
  | cons f fs ih =>
    have hqueued : frameQueued (freeFrame s f) x = frameQueued s x :=
      frameQueued_of_stackQ (congrArg State.stackQ (butLeave_leaveFrame s f true) :) x
    rw [List.foldl_cons, ih, freeFrame, mem_used_leaveFrame, ← freeFrame, hqueued, List.mem_cons]
    tauto

end Sys2Proof.Machine
end

section
/-! PROOF. O34: pages held for other parts are granted, released and given up (09 R222, R228, R229). -/

namespace Sys2Proof.Machine

/-! ### A frame is granted (09 R228) -/

theorem frameFree_of_findFrame {s : State} {secure : Bool} {n start k f : Nat} (h : findFrame s secure n start k = some f) :
    frameFree s secure f = true := by
  induction k generalizing start with
  | zero => cases h
  | succ k ih =>
    rw [findFrame] at h
    split_ifs at h with hfree
    · cases h; exact hfree
    · exact ih h

theorem frameFree_of_placeOn {s : State} {secure : Bool} {h k f : Nat} (e : placeOn s secure h k = some f) : frameFree s secure f = true := by
  induction k generalizing h with
  | zero => cases e
  | succ k ih =>
    rw [placeOn] at e
    split at e
    · cases e; exact frameFree_of_findFrame ‹_›
    · exact ih e

theorem notMem_used_of_frameFree {s : State} {secure : Bool} {f : Nat} (h : frameFree s secure f = true) : f ∉ s.pot.used := by
  simp only [frameFree, Bool.and_eq_true, Bool.not_eq_true', List.contains_eq_mem, decide_eq_false_iff_not] at h
  exact h.2

/-- A frame is taken for a page, and counted. -/
def pageTaken (s : State) (f : Nat) : State := lowCheck (incWrap (useFree (takeFrame s f)) (spReg 0x18) 1)

theorem allocPage_of_placed {s : State} {secure : Bool} {handle i f : Nat} (h : placeOn s secure (placeHash s handle i) 24 = some f) :
    allocPage s secure handle i = some ({ frame := f }, pageTaken s f) := by
  rw [allocPage, h]
  rfl

theorem pageTaken_pot (s : State) (f : Nat) :
    (pageTaken s f).pot = { s.pot with used := setAdd s.pot.used f, lowArmed := (pageTaken s f).pot.lowArmed } :=
  lowCheck_pot (incWrap (useFree (takeFrame s f)) (spReg 0x18) 1)

theorem rd_pageTaken_ne (s : State) (f : Nat) {p : Nat} (h : p ≠ spReg 0x18) : rd (pageTaken s f) p = rd s p := by
  rw [pageTaken, rd_of_cw (lowCheck_cw _), rd_incWrap_ne _ 1 h]
  rfl

theorem pageTaken_stackMem (s : State) (f : Nat) : (pageTaken s f).stackMem = s.stackMem := by
  rw [pageTaken, stackMem_of_butPot (butPot_of_offPages (offPages_lowCheck _))]
  rfl

/-- The holding of a peer after a grant: the frame is no longer lapsed, and the holding's time runs. -/
def holdingNoted (s : State) (peer f : Nat) : State :=
  { s with pot := { s.pot with
    lapsed := s.pot.lapsed.filter (fun x => x != (peer, f))
    seen := if (mapFind s.pot.seen peer).isSome then s.pot.seen else mapSet s.pot.seen peer s.rackTime } }

/-- The state after a grant of frame `f` to a peer whose class 7 object was `o`. -/
def frameGranted (s : State) (peer : Nat) (secure : Bool) (o : Obj) (f : Nat) : State :=
  remoteIn (holdingNoted (setObj (pageTaken s f) (heldHandle peer secure) { o with pages := o.pages ++ [{ frame := f, pinned := true }] }) peer f) 1

theorem grantFrame_of_low {s : State} (h : spFree s < spLow s) (peer : Nat) (secure : Bool) : grantFrame s peer secure = s :=
  if_pos (.inl h)

theorem grantFrames_of_low {s : State} (h : spFree s < spLow s) (peer : Nat) (secure : Bool) (n : Nat) : grantFrames peer secure n s = s := by
  induction n with
  | zero => rfl
  | succ n ih => rw [grantFrames, grantFrame_of_low h, ih]

theorem grantFrame_of_room {s : State} {peer f : Nat} {secure : Bool} {o : Obj} (hlow : spLow s ≤ spFree s)
    (ho : o = (objAt s (heldHandle peer secure)).getD { inst := 64, secure := secure }) (hlen : o.pages.length < 65536)
    (hplace : placeOn s secure (placeHash s (heldHandle peer secure) o.pages.length) 24 = some f) :
    grantFrame s peer secure = frameGranted s peer secure o f := by
  have hroom : ¬ (spFree s < spLow s ∨ maxPages ≤ o.pages.length) := by unfold maxPages; omega
  unfold grantFrame
  dsimp only
  rw [← ho, allocPage_of_placed hplace, if_neg hroom]
  rfl

theorem rdF_remoteIn (s : State) (d : Int) :
    rdF (remoteIn s d) (spReg 0x38) 19 0 = (((rdF s (spReg 0x38) 19 0 : Nat) : Int) + d).toNat % 2 ^ 20 :=
  rdF_wrF_same s _ _ (by decide) (by decide)

/-! ### Frames that a peer releases (09 R229) -/

/-- The frames of a class 7 object that are among those released. -/
def framesOut (o : Obj) (fs : List Nat) : List Nat := (o.pages.map (fun p => p.frame)).filter (fun f => fs.contains f)

/-- What is left of the object. -/
def objKept (o : Obj) (fs : List Nat) : Obj := { o with pages := o.pages.filter (fun p => !fs.contains p.frame) }

/-- The object is without the released pages; an empty one is gone. -/
def pagesOut (s : State) (h : Nat) (o : Obj) (fs : List Nat) : State :=
  if (objKept o fs).pages.isEmpty then delObj s h else setObj s h (objKept o fs)

/-- The released frames are noted, and counted out. -/
def framesLapsed (s : State) (h : Nat) (out : List Nat) : State :=
  remoteIn { s with pot := { s.pot with lapsed := s.pot.lapsed ++ out.map (fun f => (heldPeer h, f)) } } (-(out.length : Int))

theorem releaseFrom_of_obj {s : State} {h : Nat} {o : Obj} (ho : objAt s h = some o) (fs : List Nat) :
    releaseFrom s h fs = (framesOut o fs).foldl freeFrame (framesLapsed (pagesOut s h o fs) h (framesOut o fs)) := by
  rw [releaseFrom, ho]
  rfl

theorem releaseFrom_of_none {s : State} {h : Nat} (ho : objAt s h = none) (fs : List Nat) : releaseFrom s h fs = s := by
  rw [releaseFrom, ho]

theorem objs_framesLapsed (s : State) (h : Nat) (out : List Nat) : (framesLapsed s h out).pot.objs = s.pot.objs := rfl

/-- What is left of the released object's frames. -/
theorem objFrames_pagesOut (s : State) (h : Nat) (o : Obj) (fs : List Nat) :
    objFrames (pagesOut s h o fs) (some h) = (o.pages.map (fun p => p.frame)).filter (fun f => !fs.contains f) := by
  have hkept : (o.pages.map (fun p => p.frame)).filter (fun f => !fs.contains f) = (objKept o fs).pages.map (fun p => p.frame) := List.filter_map
  rw [hkept, pagesOut]
  split
  · rename_i hempty
    rw [List.isEmpty_iff.mp hempty, objFrames, Option.bind_some, show objAt (delObj s h) h = none from mapFind_mapDel_same _ _]
    rfl
  · rw [objFrames, Option.bind_some, objAt_setObj_same]
    rfl

theorem objAt_pagesOut_ne (s : State) {h k : Nat} (o : Obj) (fs : List Nat) (hk : k ≠ h) : objAt (pagesOut s h o fs) k = objAt s k := by
  rw [pagesOut]
  split
  · exact mapFind_mapDel_ne _ hk
  · exact mapFind_mapSet_ne _ _ hk

theorem pagesOut_eq (s : State) (h : Nat) (o : Obj) (fs : List Nat) :
    pagesOut s h o fs = { s with pot := { s.pot with objs := (pagesOut s h o fs).pot.objs } } := by
  rw [pagesOut]
  split <;> rfl

theorem mem_framesOut {o : Obj} {fs : List Nat} {f : Nat} : f ∈ framesOut o fs ↔ f ∈ o.pages.map (fun p => p.frame) ∧ f ∈ fs := by
  rw [framesOut, List.mem_filter, List.contains_iff_mem]

/-- Frames of one class 7 object are released. -/
structure ReleasesFrom (s t : State) (h : Nat) (fs : List Nat) : Prop where
  frames   : objFrames t (some h) = (objFrames s (some h)).filter (fun f => !fs.contains f)
  others   : ∀ k, k ≠ h → objAt t k = objAt s k
  used     : ∀ f, f ∈ t.pot.used ↔ f ∈ s.pot.used ∧ (f ∈ objFrames s (some h) → f ∈ fs → frameQueued s f = true)
  lapsed   : ∀ x, x ∈ t.pot.lapsed ↔ x ∈ s.pot.lapsed ∨ ∃ f, f ∈ objFrames s (some h) ∧ f ∈ fs ∧ x = (heldPeer h, f)
  stackMem : t.stackMem = s.stackMem
  stackQ   : t.stackQ = s.stackQ

theorem releasesFrom (s : State) (h : Nat) (fs : List Nat) : ReleasesFrom s (releaseFrom s h fs) h fs := by
  cases ho : objAt s h with
  | none =>
    have hnone : objFrames s (some h) = [] := by rw [objFrames, Option.bind_some, ho]; rfl
    rw [releaseFrom_of_none ho]
    exact ⟨by rw [hnone]; rfl, fun _ _ => rfl, fun f => by simp [hnone], fun x => by simp [hnone], rfl, rfl⟩
  | some o =>
    have hframes : objFrames s (some h) = o.pages.map (fun p => p.frame) := by rw [objFrames, Option.bind_some, ho]; rfl
    have hfreed := butLeave_freeFrames (framesLapsed (pagesOut s h o fs) h (framesOut o fs)) (framesOut o fs)
    have hobjs := (objs_of_butLeave hfreed).trans (objs_framesLapsed ..)
    have hqueued (f : Nat) : frameQueued (framesLapsed (pagesOut s h o fs) h (framesOut o fs)) f = frameQueued s f :=
      frameQueued_of_stackQ (congrArg State.stackQ (pagesOut_eq s h o fs) :) f
    rw [releaseFrom_of_obj ho]
    refine ⟨?frames, fun k hk => ?others, fun f => ?used, fun x => ?lapsed, ?mem, ?queue⟩
    case frames => rw [objFrames_of_objs hobjs, objFrames_pagesOut, hframes]
    case others => rw [objAt_of_objs hobjs, objAt_pagesOut_ne s o fs hk]
    case used =>
      have hused : (framesLapsed (pagesOut s h o fs) h (framesOut o fs)).pot.used = s.pot.used :=
        (congrArg (fun u : State => u.pot.used) (pagesOut_eq s h o fs) :)
      rw [mem_used_freeFrames, hqueued, mem_framesOut, hframes, hused, and_imp]
    case lapsed =>
      have hlapsed : (framesLapsed (pagesOut s h o fs) h (framesOut o fs)).pot.lapsed =
          s.pot.lapsed ++ (framesOut o fs).map (fun f => (heldPeer h, f)) :=
        (congrArg (fun u : State => u.pot.lapsed ++ (framesOut o fs).map (fun f => (heldPeer h, f))) (pagesOut_eq s h o fs) :)
      rw [lapsed_of_butLeave hfreed, hlapsed, List.mem_append, List.mem_map, hframes]
      simp only [mem_framesOut, and_assoc, eq_comm (a := x)]
    case mem => exact (stackMem_of_butLeave hfreed).trans (congrArg State.stackMem (pagesOut_eq s h o fs) :)
    case queue => exact (congrArg State.stackQ hfreed :).trans (congrArg State.stackQ (pagesOut_eq s h o fs) :)

/-- Frames of both class 7 objects of a peer are released. -/
structure ReleasesHeld (s t : State) (peer : Nat) (fs : List Nat) : Prop where
  frames   : ∀ w, objFrames t (some (heldHandle peer w)) = (objFrames s (some (heldHandle peer w))).filter (fun f => !fs.contains f)
  others   : ∀ k, k ≠ heldHandle peer false → k ≠ heldHandle peer true → objAt t k = objAt s k
  used     : ∀ f, f ∈ t.pot.used ↔ f ∈ s.pot.used ∧ (f ∈ heldFrames s peer → f ∈ fs → frameQueued s f = true)
  lapsed   : peer < 8192 → ∀ f, f ∈ heldFrames s peer → f ∈ fs → (peer, f) ∈ t.pot.lapsed
  stackMem : t.stackMem = s.stackMem

theorem heldHandle_false_ne_true (peer : Nat) : heldHandle peer false ≠ heldHandle peer true := by simp [heldHandle]

theorem heldPeer_heldHandle {peer : Nat} (h : peer < 8192) (w : Bool) : heldPeer (heldHandle peer w) = peer := by
  have hworld : (if w = true then 1 else 0) < 2 := by split <;> decide
  unfold heldPeer heldHandle
  omega

theorem mem_heldFrames {s : State} {peer f : Nat} :
    f ∈ heldFrames s peer ↔ f ∈ objFrames s (some (heldHandle peer false)) ∨ f ∈ objFrames s (some (heldHandle peer true)) := List.mem_append

/-- The releases from the two objects of a peer, one after the other. -/
def heldReleased (s : State) (peer : Nat) (fs : List Nat) : State :=
  releaseFrom (releaseFrom s (heldHandle peer false) fs) (heldHandle peer true) fs

theorem releasesHeld_heldReleased (s : State) (peer : Nat) (fs : List Nat) : ReleasesHeld s (heldReleased s peer fs) peer fs := by
  have hfirst := releasesFrom s (heldHandle peer false) fs
  have hsecond := releasesFrom (releaseFrom s (heldHandle peer false) fs) (heldHandle peer true) fs
  have hne := heldHandle_false_ne_true peer
  have hsecure : objFrames (releaseFrom s (heldHandle peer false) fs) (some (heldHandle peer true)) = objFrames s (some (heldHandle peer true)) := by
    rw [objFrames, objFrames, Option.bind_some, Option.bind_some, hfirst.others _ hne.symm]
  refine ⟨fun w => ?frames, fun k hf ht => ?others, fun f => ?used, fun hpeer f hheld hout => ?lapsed, hsecond.stackMem.trans hfirst.stackMem⟩
  case frames =>
    cases w with
    | true => exact hsecond.frames.trans (by rw [hsecure])
    | false =>
      rw [← hfirst.frames, heldReleased, objFrames, objFrames, Option.bind_some, Option.bind_some, hsecond.others _ hne]
  case others => exact (hsecond.others k ht).trans (hfirst.others k hf)
  case used =>
    rw [heldReleased, hsecond.used, hfirst.used, hsecure, frameQueued_of_stackQ hfirst.stackQ, mem_heldFrames]
    tauto
  case lapsed =>
    rw [heldReleased, hsecond.lapsed, hfirst.lapsed, hsecure, heldPeer_heldHandle hpeer, heldPeer_heldHandle hpeer]
    exact (mem_heldFrames.mp hheld).elim (fun h => .inl (.inr ⟨f, h, hout, rfl⟩)) (fun h => .inr ⟨f, h, hout, rfl⟩)

/-- A peer that holds nothing any more has no last access. -/
theorem releaseHeld_eq (s : State) (peer : Nat) (fs : List Nat) : releaseHeld s peer fs = { heldReleased s peer fs with
    pot := { (heldReleased s peer fs).pot with seen := (releaseHeld s peer fs).pot.seen } } := by
  unfold releaseHeld heldReleased
  dsimp only
  split <;> rfl

theorem releasesHeld (s : State) (peer : Nat) (fs : List Nat) : ReleasesHeld s (releaseHeld s peer fs) peer fs := by
  obtain ⟨hframes, hothers, hused, hlapsed, hmem⟩ := releasesHeld_heldReleased s peer fs
  rw [releaseHeld_eq]
  exact ⟨hframes, hothers, hused, hlapsed, hmem⟩

/-- A peer that releases all it holds holds nothing. -/
theorem heldFrames_of_releaseAll {s t : State} {peer : Nat} (h : ReleasesHeld s t peer (heldFrames s peer)) : heldFrames t peer = [] := by
  have hnone (w : Bool) : objFrames t (some (heldHandle peer w)) = [] := by
    rw [h.frames, List.filter_eq_nil_iff]
    intro f hf
    have hheld : f ∈ heldFrames s peer := mem_heldFrames.mpr (by cases w <;> simp [hf])
    simp [hheld]
  rw [heldFrames, hnone, hnone]
  rfl

theorem holdExpiry_of_seen {s : State} {peer : Nat} {u : W64} (h : mapFind s.pot.seen peer = some u) :
    holdExpiry s peer = if 1000 * msCycles ≤ elapsed s u then releaseHeld s peer (heldFrames s peer) else s := by
  rw [holdExpiry, h]

/-- Settles O34, by what a grant takes and what a release leaves. -/
theorem pagesForOtherParts : Obligations.PagesForOtherParts := by
  unfold Obligations.PagesForOtherParts
  refine ⟨?granted, ?low, ?released, ?expired, ?held⟩
  case granted =>
    intro s peer f secure o hlow ho hlen hplace hcount
    have hpot := pageTaken_pot s f
    have hobjs : (pageTaken s f).pot.objs = s.pot.objs := (congrArg Stockpot.objs hpot :)
    have hused : (pageTaken s f).pot.used = setAdd s.pot.used f := (congrArg Stockpot.used hpot :)
    refine ⟨frameGranted s peer secure o f, congrArg Host.Outcome.next (grantFrame_of_room hlow ho hlen hplace),
      objAt_setObj_same _ _ _, fun g hg => ?others, ?used, notMem_used_of_frameFree (frameFree_of_placeOn hplace), ?count, pageTaken_stackMem s f⟩
    case others => exact (mapFind_mapSet_ne _ _ hg).trans (objAt_of_objs hobjs g)
    case used => exact hused ▸ mem_setAdd.mpr (.inl rfl)
    case count =>
      have hword : rdF (pageTaken s f) (spReg 0x38) 19 0 = rdF s (spReg 0x38) 19 0 :=
        congrArg (fld · 19 0) (rd_pageTaken_ne s f (by decide))
      have hnoted (u : State) : rdF (holdingNoted u peer f) (spReg 0x38) 19 0 = rdF u (spReg 0x38) 19 0 := rfl
      have hset (u : State) (k : Nat) (x : Obj) : rdF (setObj u k x) (spReg 0x38) 19 0 = rdF u (spReg 0x38) 19 0 := rfl
      rw [frameGranted, rdF_remoteIn, hnoted, hset, hword]
      omega
  case low => exact fun s peer n secure hlow => congrArg Host.Outcome.next (grantFrames_of_low hlow peer secure n)
  case released =>
    intro s peer fs hpeer
    have h := releasesHeld s peer fs
    exact ⟨_, rfl, h.frames, fun f hheld hout hfree hused => ne_true_of_eq_false hfree (((h.used f).mp hused).2 hheld hout), h.lapsed hpeer,
      fun f hkept hused => (h.used f).mpr ⟨hused, fun hheld hout => (hkept.elim (absurd hheld) (absurd hout))⟩, h.others, h.stackMem⟩
  case expired =>
    intro s peer u hseen hlate
    have h := releasesHeld s peer (heldFrames s peer)
    exact ⟨_, congrArg Host.Outcome.next ((holdExpiry_of_seen hseen).trans (if_pos hlate)), heldFrames_of_releaseAll h,
      fun f hheld hfree hused => ne_true_of_eq_false hfree (((h.used f).mp hused).2 hheld hheld), h.others, h.stackMem⟩
  case held =>
    exact fun s peer u hseen hearly => congrArg Host.Outcome.next ((holdExpiry_of_seen hseen).trans (if_neg (Nat.not_le.mpr hearly)))

end Sys2Proof.Machine
end

section
/-! SUPPORT. Lines are copied inside the stacks (09 R205, R221, R226): the bytes that stand at the destination, and what reading the source
leaves. -/

namespace Sys2Proof.Machine

/-! ### Tables with rising keys -/

theorem mapFind_of_mapAbove {α : Type} {m : SMap α} {b k : Nat} (h : mapAbove b m = true) (hk : k ≤ b) : mapFind m k = none := by
  induction m generalizing b with
  | nil => rfl
  | cons e m ih =>
    simp only [mapAbove, Bool.and_eq_true, decide_eq_true_eq] at h
    rw [mapFind, if_neg (by omega)]
    exact ih h.2 (by omega)

/-- A table whose values are changed one by one keeps its keys. -/
theorem mapFind_map {α : Type} (m : SMap α) (f : α → α) (k : Nat) : mapFind (m.map (fun e => (e.1, f e.2))) k = (mapFind m k).map f := by
  induction m with
  | nil => rfl
  | cons e m ih =>
    rw [List.map_cons, mapFind, mapFind, ih]
    split <;> rfl

/-! ### Bytes are copied -/

theorem memByte_memZero (m : List Host.Cell) (a n x : Nat) : memByte (memZero m a n) x = if a ≤ x ∧ x < a + n then 0 else memByte m x := by
  have hfind : mapFind (memZero m a n) x = if decide (x < a ∨ a + n ≤ x) then mapFind m x else none :=
    mapFind_filter_key m (fun i => decide (i < a ∨ a + n ≤ i)) x
  unfold memByte mapGet
  rw [hfind]
  by_cases hx : a ≤ x ∧ x < a + n
  · rw [if_pos hx, if_neg (by simp only [decide_eq_true_eq]; omega)]
    rfl
  · rw [if_neg hx, if_pos (by simp only [decide_eq_true_eq]; omega)]

/-- One byte of the source goes to its place. -/
def copyCell (src dst : Nat) (m : List Host.Cell) (c : Host.Cell) : List Host.Cell := memSet m (dst + c.1 - src) c.2

theorem memByte_copyCells_below {src dst x : Nat} (hx : x < dst) {l : SMap Byte} (hl : ∀ c ∈ l, src ≤ c.1) (m : List Host.Cell) :
    memByte (l.foldl (copyCell src dst) m) x = memByte m x := by
  induction l generalizing m with
  | nil => rfl
  | cons c l ih =>
    have hc := hl c List.mem_cons_self
    rw [List.foldl_cons, ih (fun e he => hl e (List.mem_cons_of_mem c he)), copyCell, memByte_memSet_ne _ _ (by omega)]

/-- Each place takes the byte listed for it; the others keep theirs. -/
theorem memByte_copyCells {src dst : Nat} (j : Nat) {l : SMap Byte} (hrise : mapRising l = true) (hl : ∀ c ∈ l, src ≤ c.1) (m : List Host.Cell) :
    memByte (l.foldl (copyCell src dst) m) (dst + j) = (mapFind l (src + j)).getD (memByte m (dst + j)) := by
  induction l generalizing m with
  | nil => rfl
  | cons c l ih =>
    have hc := hl c List.mem_cons_self
    have htail : mapRising l = true := by
      cases l with
      | nil => rfl
      | cons e l => exact (Bool.and_eq_true_iff.mp hrise).2
    rw [List.foldl_cons, ih htail fun e he => hl e (List.mem_cons_of_mem c he), copyCell, mapFind]
    by_cases hj : src + j = c.1
    · have hnone : mapFind l (src + j) = none := mapFind_of_mapAbove hrise hj.le
      have hplace : dst + c.1 - src = dst + j := by omega
      rw [if_pos hj, hnone, hplace, Option.getD_none, memByte_memSet_same]
      rfl
    · rw [if_neg hj, memByte_memSet_ne _ _ (by omega)]

/-- The destination holds what the source held, and every other byte stays, also where the ranges overlap. -/
theorem memByte_memCopy {m : List Host.Cell} (hwf : memWf m = true) (src dst n x : Nat) :
    memByte (memCopy m src dst n) x = if dst ≤ x ∧ x < dst + n then memByte m (src + (x - dst)) else memByte m x := by
  have hcopy : memCopy m src dst n = (m.filter (fun c => src ≤ c.1 && c.1 < src + n)).foldl (copyCell src dst) (memZero m dst n) := rfl
  have hfilter := mapWf_filter (d := (0 : Byte)) (fun c => src ≤ c.1 && c.1 < src + n) hwf
  have hsource : ∀ c ∈ m.filter (fun c => src ≤ c.1 && c.1 < src + n), src ≤ c.1 := fun c hc => by
    obtain ⟨-, hin⟩ := List.mem_filter.mp hc
    exact of_decide_eq_true (Bool.and_eq_true_iff.mp hin).1
  rw [hcopy]
  rcases Nat.lt_or_ge x dst with hx | hx
  · rw [memByte_copyCells_below hx hsource, memByte_memZero, if_neg (by omega), if_neg (by omega)]
  · obtain ⟨j, rfl⟩ := Nat.exists_eq_add_of_le hx
    have hfind : mapFind (m.filter (fun c => src ≤ c.1 && c.1 < src + n)) (src + j) = if j < n then mapFind m (src + j) else none := by
      rw [mapFind_filter_key m (fun i => src ≤ i && i < src + n)]
      exact if_congr (by simp) rfl rfl
    rw [memByte_copyCells j (Bool.and_eq_true_iff.mp hfilter).1 hsource, hfind, memByte_memZero, Nat.add_sub_cancel_left]
    by_cases hj : j < n
    · rw [if_pos hj, if_pos (by omega), if_pos (by omega)]
      rfl
    · rw [if_neg hj, if_neg (by omega), if_neg (by omega)]
      rfl

/-! ### The source's lines are read (09 R205) -/

/-- The counter of single bad symbols that reading lines of a frame advances. -/
def softReg (f : Nat) : Nat := skReg (stackOf f) 8

theorem badLines_of_butRead {s t : State} (h : butRead t = butRead s) : t.pot.badLines = s.pot.badLines :=
  (congrArg (fun u : State => u.pot.badLines) h :)

/-- Reading lines of a frame that can be read changes no word but that frame's counter of single bad symbols. -/
theorem rd_readLines_soft {s : State} {f : Nat} {ls : List Nat} (h : ∀ l ∈ ls, l ∉ s.pot.badLines ∧ l / 32768 = f) {p : Nat}
    (hp : p ≠ softReg f) : rd (readLines s ls) p = rd s p := by
  induction ls generalizing s with
  | nil => rfl
  | cons l ls ih =>
    obtain ⟨hbad, hframe⟩ := h l List.mem_cons_self
    have hline : rd (readLine s l) p = rd s p := by
      rw [readLine, if_neg (by simpa using hbad), hframe]
      split
      · exact rd_incHold_ne _ 16 1 hp
      · rfl
    have hlines : rd (readLines (readLine s l) ls) p = rd (readLine s l) p := ih fun x hx => by
      rw [badLines_of_butRead (butRead_readLine s l)]
      exact h x (List.mem_cons_of_mem l hx)
    exact hlines.trans hline

/-- The lines of the source with a single bad symbol are read and corrected. -/
def sourceRead (s : State) (src n : Nat) : State := readLines s (s.pot.softLines.filter (lineIn src n))

/-- The bytes stand at the destination, whose lines are good. -/
def linesCopied (s : State) (src dst n : Nat) : State :=
  { sourceRead s src n with
    stackMem := memCopy (sourceRead s src n).stackMem src dst n
    pot := { (sourceRead s src n).pot with
      badLines := (sourceRead s src n).pot.badLines.filter (fun l => !lineIn dst n l)
      softLines := (sourceRead s src n).pot.softLines.filter (fun l => !lineIn dst n l) } }

section Copied

variable {s : State} {src n : Nat} (hgood : ∀ l ∈ s.pot.badLines, lineIn src n l = false) (dst : Nat)
include hgood

theorem copyLines_of_good : copyLines s src dst n = (true, linesCopied s src dst n) := by
  have hnone : s.pot.badLines.filter (lineIn src n) = [] := List.filter_eq_nil_iff.mpr fun l hl => ne_true_of_eq_false (hgood l hl)
  unfold copyLines
  dsimp only
  rw [hnone]
  simp only [List.contains_nil, Bool.not_false, Bool.and_true, List.nil_append, List.isEmpty_nil, if_true]
  rfl

/-- A copy within a frame changes no word but the frame's counter of single bad symbols. -/
theorem rd_linesCopied_ne {f : Nat} (hframe : ∀ l, lineIn src n l = true → l / 32768 = f) {p : Nat} (hp : p ≠ softReg f) :
    rd (linesCopied s src dst n) p = rd s p := by
  have hread : rd (sourceRead s src n) p = rd s p := rd_readLines_soft (fun l hl => by
    have hin := (List.mem_filter.mp hl).2
    exact ⟨fun hbad => Bool.false_ne_true ((hgood l hbad).symm.trans hin), hframe l hin⟩) hp
  exact hread

end Copied

/-- Blanks what a copy may change: beside what a read may, stack memory and the lines with bad symbols. -/
def butCopy (s : State) : State := { butRead s with stackMem := [], pot := { (butRead s).pot with badLines := [] } }

theorem butCopy_of_butRead {s t : State} (h : butRead t = butRead s) : butCopy t = butCopy s :=
  congrArg (fun u : State => { u with stackMem := [], pot := { u.pot with badLines := [] } }) h

theorem butCopy_linesCopied (s : State) (src dst n : Nat) : butCopy (linesCopied s src dst n) = butCopy s :=
  (butCopy_of_butRead (butRead_readLines s (s.pot.softLines.filter (lineIn src n))) :)

theorem memByte_linesCopied {s : State} (hwf : memWf s.stackMem = true) (src dst n x : Nat) : memByte (linesCopied s src dst n).stackMem x =
    if dst ≤ x ∧ x < dst + n then memByte s.stackMem (src + (x - dst)) else memByte s.stackMem x := by
  have hmem : (sourceRead s src n).stackMem = s.stackMem := (congrArg State.stackMem (butRead_readLines s (s.pot.softLines.filter (lineIn src n))) :)
  rw [← memByte_memCopy hwf, ← hmem]
  rfl

/-- The lines of a range that begins with a frame and is no longer than it lie in the frame. -/
theorem frame_of_lineIn {f n l : Nat} (hn : n ≤ frameBytes) (h : lineIn (f * frameBytes) n l = true) : l / 32768 = f := by
  simp only [lineIn, Bool.and_eq_true, decide_eq_true_eq] at h
  unfold frameBytes at h hn
  omega

end Sys2Proof.Machine
end

section
/-! PROOF. O33: pages migrate in rounds (09 R225, R226), and a shared page is copied before it is written (09 R221). -/

namespace Sys2Proof.Machine

/-! ### The pages of objects -/

theorem trackedPage_eq (s : State) (h : Nat) {i : Nat} (hi : i < 65536) :
    trackedPage s (h * 65536 + i) = (objAt s h).bind (fun o => o.pages[i]?) := by
  have hobj : (h * 65536 + i) / 65536 = h := by omega
  have hpage : (h * 65536 + i) % 65536 = i := by omega
  rw [trackedPage, pageAt, hobj, hpage, Nat.mul_div_cancel i (by decide)]

theorem trackedPage_of_objs {s t : State} (h : t.pot.objs = s.pot.objs) (k : Nat) : trackedPage t k = trackedPage s k := by
  rw [trackedPage, trackedPage, pageAt, pageAt, objAt_of_objs h]

theorem getElem?_setPage {o : Obj} {i : Nat} {p : Page} (h : o.pages[i]? = some p) (q : Page) : (setPage o i q).pages[i]? = some q := by
  obtain ⟨hi, -⟩ := List.getElem?_eq_some_iff.mp h
  exact List.getElem?_set_self hi

/-! ### A planned move starts (09 R225) -/

theorem moveListed_begun_pot (s : State) (m : Nat × Nat × Nat) (o : Obj) (p : Page) (f : Nat) (ms : List (Nat × Nat × Nat)) :
    (lowCheck (moveListed (moveBegun s m o p f) m f ms)).pot = { s.pot with
      objs := mapSet s.pot.objs m.1 (setPage o m.2.1 { p with migrating := true }), used := setAdd s.pot.used f,
      migs := s.pot.migs ++ [{ handle := m.1, page := m.2.1, dest := f, rounds := 0 }], migPlan := ms,
      lowArmed := (lowCheck (moveListed (moveBegun s m o p f) m f ms)).pot.lowArmed } :=
  lowCheck_pot (moveListed (moveBegun s m o p f) m f ms)

/-! ### A round ends (09 R226) -/

theorem findMig_eq_some {s : State} {h i : Nat} {m : Migration} (e : findMig s h i = some m) : m.handle = h ∧ m.page = i := by
  have hm := List.find?_some e
  rwa [Bool.and_eq_true, beq_iff_eq, beq_iff_eq] at hm

theorem findMig_dropMig (s : State) (h i : Nat) : findMig (dropMig s h i) h i = none :=
  List.find?_eq_none.mpr fun m hm => by
    obtain ⟨-, hkept⟩ := List.mem_filter.mp hm
    exact ne_true_of_eq_false ((Bool.not_eq_true' _).mp hkept)

theorem findMig_of_migs {s t : State} (h : t.pot.migs = s.pot.migs) (k i : Nat) : findMig t k i = findMig s k i := by
  rw [findMig, findMig, h]

/-- A migration in its next round. -/
def nextRound (m : Migration) : Migration := { m with rounds := m.rounds + 1, dirty := [] }

/-- The page's migration goes into its next round. -/
def roundCounted (s : State) (h i : Nat) : State :=
  { s with pot := { s.pot with migs := s.pot.migs.map (fun x => if x.handle == h && x.page == i then nextRound x else x) } }

theorem findMig_roundCounted {s : State} {h i : Nat} {m : Migration} (e : findMig s h i = some m) :
    findMig (roundCounted s h i) h i = some (nextRound m) := by
  have hsame : (fun x : Migration => x.handle == h && x.page == i) ∘ (fun x => if x.handle == h && x.page == i then nextRound x else x) =
      fun x => x.handle == h && x.page == i := by
    funext x
    rw [Function.comp_apply]
    split <;> rfl
  obtain ⟨hhandle, hpage⟩ := findMig_eq_some e
  change (s.pot.migs.map _).find? _ = _
  rw [List.find?_map, hsame, show s.pot.migs.find? _ = some m from e, Option.map_some, hhandle, hpage]
  simp

section Round

variable {s : State} {h i : Nat} {m : Migration} {p : Page} (hm : findMig s h i = some m) (hp : trackedPage s (h * 65536 + i) = some p)
include hm hp

theorem migrateRound_of_dirty (hdirty : m.dirty ≠ []) (hrounds : m.rounds < 3) : migrateRound s h i = roundCounted s h i := by
  unfold migrateRound
  simp only [hm, hp]
  rw [if_neg (by simpa using hdirty), if_neg (by omega)]
  rfl

theorem migrateRound_of_late (hdirty : m.dirty ≠ []) (hrounds : 3 ≤ m.rounds) : migrateRound s h i = abandonMig s m := by
  unfold migrateRound
  simp only [hm, hp]
  rw [if_neg (by simpa using hdirty), if_pos (by omega)]

theorem migrateRound_of_clean (hclean : m.dirty = []) (hgood : ∀ l ∈ s.pot.badLines, lineIn (p.frame * frameBytes) frameBytes l = false) :
    migrateRound s h i = switchMig (linesCopied s (p.frame * frameBytes) (m.dest * frameBytes) frameBytes) m p.frame := by
  unfold migrateRound
  simp only [hm, hp]
  rw [if_pos (by simp [hclean]), copyLines_of_good hgood]
  exact if_pos rfl

end Round

/-! ### A migration is given up -/

/-- The entry stands as it was before the migration. -/
def entryKept (s : State) (m : Migration) (o : Obj) (p : Page) : State :=
  setObj (dropMig s m.handle m.page) m.handle (setPage o m.page { p with migrating := false })

theorem abandonMig_eq {s : State} {m : Migration} {o : Obj} {p : Page} (ho : objAt s m.handle = some o) (hp : o.pages[m.page]? = some p) :
    abandonMig s m = leaveFrame (entryKept s m o p) m.dest false := by
  have hobj : objAt (dropMig s m.handle m.page) m.handle = some o := ho
  unfold abandonMig
  dsimp only
  rw [hobj]
  dsimp only
  rw [hp]
  rfl

theorem findMig_entryKept (s : State) (m : Migration) (o : Obj) (p : Page) : findMig (entryKept s m o p) m.handle m.page = none :=
  findMig_dropMig s m.handle m.page

/-! ### The entry is switched to the new frame -/

/-- Every entry that names the old frame names the new one, whose holders are counted as the old one's were. -/
def entriesSwitched (s : State) (m : Migration) (old : Nat) : State :=
  { dropMig s m.handle m.page with pot := { (dropMig s m.handle m.page).pot with
    objs := s.pot.objs.map (fun e => (e.1, switchFrame old m.dest e.2)), refs := mapPut 1 s.pot.refs m.dest (refCount s old) } }

theorem switchMig_eq (s : State) (m : Migration) (old : Nat) :
    switchMig s m old = leaveFrame (incWrap (entriesSwitched s m old) (spReg 0x24) 1) old false := rfl

theorem objAt_entriesSwitched (s : State) (m : Migration) (old h : Nat) :
    objAt (entriesSwitched s m old) h = (objAt s h).map (switchFrame old m.dest) := mapFind_map s.pot.objs (switchFrame old m.dest) h

theorem getElem?_switchFrame {o : Obj} {i : Nat} {p : Page} (hp : o.pages[i]? = some p) (hlocal : p.remote = none) (new : Nat) :
    (switchFrame p.frame new o).pages[i]? = some { p with frame := new, migrating := false } := by
  rw [switchFrame, List.getElem?_map, hp]
  simp [hlocal]

section Switched

variable (s : State) (m : Migration) (old : Nat)

theorem butLeave_switchMig : butLeave (switchMig s m old) = butLeave (incWrap (entriesSwitched s m old) (spReg 0x24) 1) := by
  rw [switchMig_eq, butLeave_leaveFrame]

theorem findMig_switchMig : findMig (switchMig s m old) m.handle m.page = none :=
  (findMig_of_migs (congrArg (fun u : State => u.pot.migs) (butLeave_switchMig s m old) :) _ _).trans (findMig_dropMig s m.handle m.page)

theorem objAt_switchMig (h : Nat) : objAt (switchMig s m old) h = (objAt s h).map (switchFrame old m.dest) :=
  (objAt_of_objs (objs_of_butLeave (butLeave_switchMig s m old)) h).trans (objAt_entriesSwitched s m old h)

theorem switchMig_stackMem : (switchMig s m old).stackMem = s.stackMem := (stackMem_of_butLeave (butLeave_switchMig s m old)).trans rfl

theorem rd_switchMig_same : rd (switchMig s m old) (spReg 0x24) = rd s (spReg 0x24) + 1 := by
  rw [switchMig_eq, rd_of_cw (leaveFrame_cw _ old), rd_incWrap_same]
  rfl

theorem rd_switchMig_ne {q : Nat} (hq : q ≠ spReg 0x24) : rd (switchMig s m old) q = rd s q := by
  rw [switchMig_eq, rd_of_cw (leaveFrame_cw _ old), rd_incWrap_ne _ 1 hq]
  rfl

variable {s old}

theorem notMem_used_switchMig (h : frameQueued s old = false) : old ∉ (switchMig s m old).pot.used := by
  rw [switchMig_eq, mem_used_leaveFrame]
  exact fun hused => ne_true_of_eq_false h (hused.2 rfl)

theorem mem_draining_switchMig (h : frameQueued s old = true) : (old, false) ∈ (switchMig s m old).pot.draining := by
  have hqueued : frameQueued (incWrap (entriesSwitched s m old) (spReg 0x24) 1) old = true := h
  rw [switchMig_eq, leaveFrame_of_queued hqueued]
  exact List.mem_append_right _ List.mem_cons_self

end Switched

/-! ### A shared page before it is written (09 R221) -/

/-- What decides between writing in place and copying. -/
theorem copyOnWrite_of_shared {s : State} {slot h i : Nat} {x : Instance} {o : Obj} {p : Page} (hx : instOf s slot = some x)
    (ho : objAt s h = some o) (hslot : o.inst = slot) (hp : o.pages[i]? = some p) (hshared : p.shared = true) (hlost : p.lost = false)
    (hmig : findMig s h i = none) : copyOnWrite s slot h i =
      if refCount s (refKey p) ≤ 1 then setObj s h (setPage o i { p with shared := false, migrating := false })
      else match cowPage x h with
        | some q => cowCopy s slot h i o { p with migrating := false } q
        | none => s := by
  unfold copyOnWrite
  simp only [hx, ho, hp]
  rw [if_pos (by simp [hshared, hlost, hslot]), hmig]
  dsimp only
  rw [ho]
  rfl

/-- The page reserved for the copy is used up. -/
def cowUsed (h : Nat) (x : Instance) : Instance := { x with flight := useCow h x.flight }

/-- The entry points at the copy, and the old page has one holder less. -/
def pageCopied (s : State) (h i : Nat) (o : Obj) (p q : Page) : State :=
  setRef (setObj s h (setPage o i { q with fill := p.fill })) (refKey p) (refCount s (refKey p) - 1)

/-- The copy is counted, and the page reserved for it is in use. -/
def copyCounted (s : State) (slot h i : Nat) (o : Obj) (p q : Page) : State :=
  incWrap (modInst (pageCopied s h i o p q) slot (cowUsed h)) (spReg 0x20) 1

section CopyCounted

variable (s : State) (slot h i : Nat) (o : Obj) (p q : Page)

theorem copyCounted_pot : (copyCounted s slot h i o p q).pot = (pageCopied s h i o p q).pot := modInst_pot ..

theorem copyCounted_stackMem : (copyCounted s slot h i o p q).stackMem = s.stackMem := (modInst_stackMem (pageCopied s h i o p q) slot _).trans rfl

theorem objAt_copyCounted (g : Nat) : objAt (copyCounted s slot h i o p q) g =
    if g = h then some (setPage o i { q with fill := p.fill }) else objAt s g := by
  rw [objAt, copyCounted_pot]
  split
  · subst g
    exact mapFind_mapSet_same ..
  · exact mapFind_mapSet_ne _ _ ‹_›

theorem refCount_copyCounted : refCount (copyCounted s slot h i o p q) (refKey p) = refCount s (refKey p) - 1 := by
  rw [refCount, copyCounted_pot]
  exact mapGet_mapPut_same ..

theorem rd_copyCounted_same : rd (copyCounted s slot h i o p q) (spReg 0x20) = rd s (spReg 0x20) + 1 := by
  rw [copyCounted, rd_incWrap_same, rd_of_cw (modInst_cw ..)]
  rfl

theorem rd_copyCounted_ne {a : Nat} (ha : a ≠ spReg 0x20) : rd (copyCounted s slot h i o p q) a = rd s a := by
  rw [copyCounted, rd_incWrap_ne _ 1 ha, rd_of_cw (modInst_cw ..)]
  rfl

end CopyCounted

theorem cowCopy_of_good {s : State} {slot h i : Nat} {o : Obj} {p q : Page} (hp : p.remote = none) (hq : q.remote = none)
    (hgood : ∀ l ∈ s.pot.badLines, lineIn (p.frame * frameBytes) (4096 * p.fill) l = false) : cowCopy s slot h i o p q =
      copyCounted (linesCopied s (p.frame * frameBytes) (q.frame * frameBytes) (4096 * p.fill)) slot h i o p q := by
  have hlocal : (p.remote.isSome || q.remote.isSome) = false := by rw [hp, hq]; rfl
  unfold cowCopy
  rw [hlocal, copyLines_of_good hgood]
  rfl

/-- Settles O33, by what a start, a round and a copy leave. -/
theorem pagesMigrateAndAreCopied : Obligations.PagesMigrateAndAreCopied := by
  unfold Obligations.PagesMigrateAndAreCopied
  refine ⟨?start, ?none, ?dirty, ?late, ?clean, ?inPlace, ?copied⟩
  case start =>
    intro s m ms o p f hplan ho hp _ hpin hmig hlost hframe
    have hmay : mayMove s (m.1 * 65536 + m.2.1) = true := by simp [mayMove, hp, hpin, hmig, hlost]
    have hnow : MovesNow s m o p f := ⟨ho, hp, hmay, hframe⟩
    have hpot := moveListed_begun_pot s m o p f ms
    have hrest := butMove_startMove s (m :: ms)
    rw [← hnow.startMove_eq] at hpot
    refine ⟨startMove s (m :: ms), congrArg (fun l => Host.Outcome.next (startMove s l)) hplan, (congrArg Stockpot.migPlan hpot :),
      (congrArg Stockpot.migs hpot :), ?used, ?entry, fun h hh => ?others, (congrArg State.stackMem hrest :), (congrArg State.cw hrest :)⟩
    case used =>
      rw [hpot]
      exact mem_setAdd.mpr (.inl rfl)
    case entry =>
      rw [objAt, hpot]
      exact mapFind_mapSet_same ..
    case others =>
      rw [objAt, hpot]
      exact mapFind_mapSet_ne _ _ hh
  case none =>
    intro s hplan
    have hnone : startMove s [] = s := by
      rw [startMove, ← hplan]
    exact congrArg Host.Outcome.next ((congrArg (startMove s) hplan).trans hnone)
  case dirty =>
    intro s h i m p hm hp hdirty hrounds
    exact ⟨roundCounted s h i, congrArg Host.Outcome.next (migrateRound_of_dirty hm hp hdirty hrounds), findMig_roundCounted hm, rfl⟩
  case late =>
    intro s h i m p hm hp hi hdirty hrounds
    obtain ⟨rfl, rfl⟩ := findMig_eq_some hm
    obtain ⟨o, ho, hpage⟩ := Option.bind_eq_some_iff.mp ((trackedPage_eq s m.handle hi).symm.trans hp)
    have hleft := butLeave_leaveFrame (entryKept s m o p) m.dest false
    have heq : migrateRound s m.handle m.page = leaveFrame (entryKept s m o p) m.dest false :=
      (migrateRound_of_late hm hp hdirty hrounds).trans (abandonMig_eq ho hpage)
    refine ⟨_, congrArg Host.Outcome.next heq, ?gone, fun hfree hused => ?dest, ?entry, (congrArg State.stackMem hleft :),
      leaveFrame_cw (entryKept s m o p) m.dest⟩
    case gone => exact (findMig_of_migs (congrArg (fun u : State => u.pot.migs) hleft :) _ _).trans (findMig_entryKept s m o p)
    case dest => exact ne_true_of_eq_false hfree (((mem_used_leaveFrame _ m.dest false m.dest).mp hused).2 rfl)
    case entry =>
      rw [trackedPage_of_objs (objs_of_butLeave hleft), trackedPage_eq _ _ hi, entryKept, objAt_setObj_same]
      exact getElem?_setPage hpage _
  case clean =>
    intro s h i m p hm hp hi hlocal hclean hgood hwf
    obtain ⟨rfl, rfl⟩ := findMig_eq_some hm
    obtain ⟨o, ho, hpage⟩ := Option.bind_eq_some_iff.mp ((trackedPage_eq s m.handle hi).symm.trans hp)
    generalize hu : linesCopied s (p.frame * frameBytes) (m.dest * frameBytes) frameBytes = u
    have hcopied : butCopy u = butCopy s := hu ▸ butCopy_linesCopied ..
    have hwords {q : Nat} (hq : q ≠ softReg p.frame) : rd u q = rd s q :=
      hu ▸ rd_linesCopied_ne hgood _ (fun l => frame_of_lineIn (Nat.le_refl frameBytes)) hq
    have hobjs : u.pot.objs = s.pot.objs := (congrArg (fun v : State => v.pot.objs) hcopied :)
    have hqueued : frameQueued u p.frame = frameQueued s p.frame := frameQueued_of_stackQ (congrArg State.stackQ hcopied :) _
    have hbytes (a : Nat) : memByte (switchMig u m p.frame).stackMem a =
        if m.dest * frameBytes ≤ a ∧ a < m.dest * frameBytes + frameBytes
        then memByte s.stackMem (p.frame * frameBytes + (a - m.dest * frameBytes)) else memByte s.stackMem a := by
      rw [switchMig_stackMem, ← hu, memByte_linesCopied hwf]
    refine ⟨switchMig u m p.frame, congrArg Host.Outcome.next ((migrateRound_of_clean hm hp hclean hgood).trans (by rw [hu])),
      findMig_switchMig u m p.frame, ?entry, fun hfree => notMem_used_switchMig m (hqueued.trans hfree),
      fun hwait => mem_draining_switchMig m (hqueued.trans hwait), fun j hj => ?bytes, fun a ha => ?others, ?count, fun q hq => ?words⟩
    case entry =>
      rw [trackedPage_eq _ _ hi, objAt_switchMig, objAt_of_objs hobjs, ho]
      exact getElem?_switchFrame hpage hlocal m.dest
    case bytes => rw [hbytes, if_pos (by omega), Nat.add_sub_cancel_left]
    case others => rw [hbytes, if_neg (by omega)]
    case count => rw [rd_switchMig_same, hwords (spReg_ne_skReg (by decide) _ _)]
    case words =>
      obtain ⟨hmigs, hsoft⟩ := not_or.mp (fun h => hq (by simpa using h))
      rw [rd_switchMig_ne _ _ _ hmigs, hwords hsoft]
  case inPlace =>
    intro s slot h i x o p hslot hx ho hinst hp hshared hlost hmig hone
    refine ⟨_, (onUnit_of_true (decide_eq_true hslot) _).trans
      (congrArg Host.Outcome.next ((copyOnWrite_of_shared hx ho hinst hp hshared hlost hmig).trans (if_pos hone))),
      objAt_setObj_same .., fun g hg => mapFind_mapSet_ne _ _ hg, rfl⟩
  case copied =>
    intro s slot h i x o p q hslot hx ho hinst hp hshared hlost hmig hmany hcow hplocal hqlocal hfill hgood hwf
    generalize hu : linesCopied s (p.frame * frameBytes) (q.frame * frameBytes) (4096 * p.fill) = u
    have heq : copyOnWrite s slot h i = copyCounted u slot h i o { p with migrating := false } q := by
      rw [copyOnWrite_of_shared hx ho hinst hp hshared hlost hmig, if_neg (Nat.not_le.mpr hmany), hcow, ← hu]
      exact cowCopy_of_good hplocal hqlocal hgood
    have hcopied : butCopy u = butCopy s := hu ▸ butCopy_linesCopied ..
    have hwords {a : Nat} (ha : a ≠ softReg p.frame) : rd u a = rd s a :=
      hu ▸ rd_linesCopied_ne hgood _ (fun l => frame_of_lineIn (by unfold frameBytes; omega)) ha
    have hobjs : u.pot.objs = s.pot.objs := (congrArg (fun v : State => v.pot.objs) hcopied :)
    have hrefs : u.pot.refs = s.pot.refs := (congrArg (fun v : State => v.pot.refs) hcopied :)
    have hbytes (a : Nat) : memByte (copyCounted u slot h i o { p with migrating := false } q).stackMem a =
        if q.frame * frameBytes ≤ a ∧ a < q.frame * frameBytes + 4096 * p.fill
        then memByte s.stackMem (p.frame * frameBytes + (a - q.frame * frameBytes)) else memByte s.stackMem a := by
      rw [copyCounted_stackMem, ← hu, memByte_linesCopied hwf]
    refine ⟨_, (onUnit_of_true (decide_eq_true hslot) _).trans (congrArg Host.Outcome.next heq), ?entry, ?holders, fun j hj => ?bytes,
      fun a ha => ?outside, ?count, fun a ha => ?words, fun g hg => ?others⟩
    case entry => rw [objAt_copyCounted, if_pos rfl]
    case holders => exact (refCount_copyCounted u slot h i o { p with migrating := false } q).trans (by rw [refCount, refCount, hrefs]; rfl)
    case bytes => rw [hbytes, if_pos (by omega), Nat.add_sub_cancel_left]
    case outside => rw [hbytes, if_neg (by omega)]
    case count => rw [rd_copyCounted_same, hwords (spReg_ne_skReg (by decide) _ _)]
    case words =>
      obtain ⟨hcopies, hsoft⟩ := not_or.mp (fun h => ha (by simpa using h))
      rw [rd_copyCounted_ne _ _ _ _ _ _ _ hcopies, hwords hsoft]
    case others => rw [objAt_copyCounted, if_neg hg, objAt_of_objs hobjs]

end Sys2Proof.Machine
end

section
/-! SUPPORT. New objects (09 R216), and the response of a command whose effect leaves its mailbox (16 R383). -/

namespace Sys2Proof.Machine

/-! ### A handle that no object has -/

/-- The handle of a class at an index. -/
def classHandle (c i : Nat) : Nat := c * 0x10000000 + i % 0x10000000

theorem objClass_classHandle (c i : Nat) : objClass (classHandle c i) = c := by
  unfold objClass classHandle
  omega

theorem objAt_of_freshFrom {s : State} {c start k h : Nat} (e : freshFrom s c start k = some h) : objClass h = c ∧ objAt s h = none := by
  induction k generalizing start with
  | zero => cases e
  | succ k ih =>
    unfold freshFrom at e
    dsimp only at e
    split_ifs at e with hused
    · exact ih e
    · cases e
      exact ⟨objClass_classHandle c start, Option.not_isSome_iff_eq_none.mp hused⟩

theorem isSome_of_freshFrom_none {s : State} {c start k : Nat} (e : freshFrom s c start k = none) {j : Nat} (hj : j < k) :
    (objAt s (classHandle c (start + j))).isSome = true := by
  induction k generalizing start j with
  | zero => cases hj
  | succ k ih =>
    unfold freshFrom at e
    dsimp only at e
    split_ifs at e with hused
    cases j with
    | zero => exact hused
    | succ j =>
      rw [show start + (j + 1) = start + 1 + j by omega]
      exact ih e (by omega)

/-- The handles of a class that have objects. -/
def classHandles (s : State) (c : Nat) : List Nat := (s.pot.objs.filter (fun p => objClass p.1 == c)).map Prod.fst

theorem mem_classHandles {s : State} {c i : Nat} (h : (objAt s (classHandle c i)).isSome = true) : classHandle c i ∈ classHandles s c := by
  obtain ⟨o, ho⟩ := Option.isSome_iff_exists.mp h
  exact List.mem_map.mpr ⟨(classHandle c i, o), List.mem_filter.mpr ⟨mem_of_mapFind ho, beq_iff_eq.mpr (objClass_classHandle c i)⟩, rfl⟩

/-- Handles at fewer than 2^28 indices in a row are distinct. -/
theorem nodup_classHandles_range (c start : Nat) {n : Nat} (hn : n ≤ 0x10000000) :
    ((List.range n).map (fun j => classHandle c (start + j))).Nodup := by
  refine List.nodup_range.map_on fun a ha b hb e => ?_
  rw [List.mem_range] at ha hb
  unfold classHandle at e
  omega

/-- A class that is not full has a handle left, and the search finds one. -/
theorem freshFrom_of_room {s : State} {c : Nat} (hroom : classCount s c < 0x100000) (start : Nat) :
    ∃ h, freshFrom s c start (s.pot.objs.length + 1) = some h := by
  rw [← Option.isSome_iff_exists, ← Option.not_isNone, Bool.not_eq_true', ← Bool.not_eq_true, Option.isNone_iff_eq_none]
  intro hnone
  have hcount : classCount s c ≤ s.pot.objs.length := List.length_filter_le ..
  have hsub : (List.range (classCount s c + 1)).map (fun j => classHandle c (start + j)) ⊆ classHandles s c := fun x hx => by
    obtain ⟨j, hj, rfl⟩ := List.mem_map.mp hx
    exact mem_classHandles (isSome_of_freshFrom_none hnone (by rw [List.mem_range] at hj; omega))
  have hle := ((nodup_classHandles_range c start (by omega)).subperm hsub).length_le
  rw [List.length_map, List.length_range, classHandles, List.length_map] at hle
  exact Nat.not_succ_le_self _ hle

/-- A class that is not full takes a new object, without pages. -/
theorem newObj_of_room {s : State} {c : Nat} (hroom : classCount s c < 0x100000) (inst : Nat) (secure : Bool) :
    ∃ h, newObj s c inst secure = some (h, useFree (setObj s h { inst := inst, secure := secure })) ∧ objClass h = c ∧ objAt s h = none := by
  obtain ⟨h, hfresh⟩ := freshFrom_of_room hroom (Config.freeNat s.freeNo)
  refine ⟨h, ?_, objAt_of_freshFrom hfresh⟩
  rw [newObj, if_pos hroom, hfresh]

/-! ### Objects beside the one that goes -/

theorem objAt_freeObj_ne (s : State) {h k : Nat} (hk : k ≠ h) : objAt (freeObj s h) k = objAt s k := by
  unfold freeObj
  split
  · exact (objAt_of_objs (objs_of_offPages (offPages_dropPages (delObj s h) _)) k).trans (mapFind_mapDel_ne _ hk)
  · rfl

/-! ### The response of a command that has had its effect -/

/-- A command of state `s` whose effect is `u` is answered in `t`, with the final status ST_OK. -/
structure AnsweredOk (s u t : State) (m : MbxId) (p : Bytes) : Prop where
  responds : Responds s t m stOk p true
  insts    : ∀ j, instView t j = instView u j
  pot      : t.pot = u.pot
  stackMem : t.stackMem = u.stackMem

section Responses

variable {s u : State} {m : MbxId} (hmbx : u.mbx = s.mbx) (horder : u.order = s.order)
include hmbx

theorem reqOp_of_mbx : reqOp u m = reqOp s m := by
  simp only [reqOp, reqN, reqByte, mbxAt_of_mbx hmbx]

theorem mref_of_mbx : mref u m = mref s m := by rw [mref, mref, reqOp_of_mbx hmbx, mbxAt_of_mbx hmbx]

include horder

theorem responds_of_mbx {t : State} {st : Nat} {p : Bytes} {f : Bool} (h : Responds u t m st p f) : Responds s t m st p f := by
  unfold Responds at h ⊢
  rwa [mbxAt_of_mbx hmbx, reqOp_of_mbx hmbx, horder] at h

theorem answeredOk_reply (p : Bytes) : AnsweredOk s u (reply u m p) m p :=
  ⟨responds_of_mbx hmbx horder (post_responds ..), fun _ => post_instView .., post_pot .., post_stackMem ..⟩

/-- A command that is first accepted, and then completes. -/
theorem answeredOk_finish (p : Bytes) : AnsweredOk s u (finishOk (accept u m) (mref s m) p) m p := by
  have heq : finishOk (accept u m) (mref s m) p = post (accept u m) m stOk (reqOp u m) p true := by
    rw [← mref_of_mbx hmbx]
    exact finishOk_mref rfl p
  refine ⟨responds_of_mbx hmbx horder ?_, fun j => ?_, ?_, ?_⟩
  · rw [← mref_of_mbx hmbx]
    exact finish_responds u (accept u m) m stOk p rfl rfl
  · rw [heq, post_instView]
    exact post_instView ..
  · rw [heq, post_pot]
    exact post_pot ..
  · rw [heq, post_stackMem]
    exact post_stackMem ..

end Responses

theorem instView_setInst_same (s : State) (k : Nat) (i : Instance) : instView (setInst s k i) k = some i.unrecorded := by
  rw [instView, instOf_setInst_same]
  rfl

theorem instView_setInst_ne (s : State) {k j : Nat} (i : Instance) (h : j ≠ k) : instView (setInst s k i) j = instView s j := by
  rw [instView, instOf_setInst_ne s i h]
  rfl

theorem instView_of_insts {s t : State} (h : t.insts = s.insts) (j : Nat) : instView t j = instView s j := by
  rw [instView, instOf_of_insts h]
  rfl

end Sys2Proof.Machine
end

section
/-! PROOF. O7: contexts and prefixes are created and released (09 R216, 12 R296, R297). -/

namespace Sys2Proof.Machine

theorem busyOk_of {s : State} {m : MbxId} {slot h : Nat} {i : Instance} {c : Ctx} (hn : Names s m slot i) (hc : mapFind i.ctxs h = some c)
    (hidle : c.busy = false) : busyOk s m h = none := by
  rw [busyOk, instIs_of hn]
  simp [ctxBusy, hc, hidle]

/-! ### A handle is made -/

/-- The context's object is made, and its slot holds it. -/
def contextMade (s : State) (slot : Nat) (i : Instance) (h : Nat) : State :=
  setInst (useFree (setObj s h { inst := slot, secure := i.secure })) slot { i with ctxs := mapSet i.ctxs h {} }

theorem contextMake_of_room {s : State} {m : MbxId} {slot : Nat} {i : Instance} (hroom : classCount s 1 < 0x100000) :
    ∃ h, contextMake s m slot i = reply (contextMade s slot i h) m (leBytes 4 h ++ zeros 4) ∧ objClass h = 1 ∧ objAt s h = none := by
  obtain ⟨h, hnew, hclass, hfree⟩ := newObj_of_room hroom slot i.secure
  refine ⟨h, ?_, hclass, hfree⟩
  rw [contextMake, hnew]
  rfl

/-! ### A handle is released -/

/-- The slot no longer holds the handle, and its object is gone. -/
def handleGone (s : State) (slot : Nat) (i : Instance) (h : Nat) : State := freeObj (setInst s slot i) h

section HandleGone

variable (s : State) (slot : Nat) (i : Instance) (h : Nat)

theorem butPot_handleGone : butPot (handleGone s slot i h) = butPot (setInst s slot i) := butPot_freeObj ..

theorem answeredOk_handleGone (m : MbxId) : AnsweredOk s (handleGone s slot i h) (reply (handleGone s slot i h) m []) m [] := by
  have hmbx : (handleGone s slot i h).mbx = s.mbx := (congrArg State.mbx (butPot_handleGone s slot i h) :)
  have horder : (handleGone s slot i h).order = s.order := (congrArg State.order (butPot_handleGone s slot i h) :)
  exact answeredOk_reply hmbx horder []

theorem instView_handleGone (j : Nat) : instView (handleGone s slot i h) j = instView (setInst s slot i) j :=
  instView_of_insts (insts_of_butPot (butPot_handleGone s slot i h)) j

theorem objAt_handleGone_ne {g : Nat} (hg : g ≠ h) : objAt (handleGone s slot i h) g = objAt s g := objAt_freeObj_ne _ hg

/-- What the answer to a release leaves: the handle names nothing, and all others stay. -/
theorem handleReleased (m : MbxId) : ∃ t, reply (handleGone s slot i h) m [] = t ∧ Responds s t m stOk [] true ∧
    instView t slot = some i.unrecorded ∧ objAt t h = none ∧ (∀ g, g ≠ h → objAt t g = objAt s g) ∧
    (∀ j, j ≠ slot → instView t j = instView s j) ∧ t.stackMem = s.stackMem := by
  obtain ⟨hresponds, hinsts, hpot, hmem⟩ := answeredOk_handleGone s slot i h m
  have hobjs := congrArg Stockpot.objs hpot
  refine ⟨_, rfl, hresponds, ?_, ?_, fun g hg => ?_, fun j hj => ?_, ?_⟩
  · rw [hinsts, instView_handleGone, instView_setInst_same]
  · rw [objAt_of_objs hobjs]
    exact objAt_freeObj ..
  · rw [objAt_of_objs hobjs, objAt_handleGone_ne s slot i h hg]
  · rw [hinsts, instView_handleGone, instView_setInst_ne s i hj]
  · rw [hmem, stackMem_of_butPot (butPot_handleGone s slot i h)]
    rfl

end HandleGone

/-! ### Prefixes take a context's pages (12 R297, 09 R220) -/

/-- Counting the holders of pages changes the counts alone. -/
theorem holdPages_eq {ps : List Page} {s u : State} (h : holdPages ps s = some u) :
    u = { s with pot := { s.pot with refs := u.pot.refs } } := by
  induction ps generalizing s with
  | nil => cases h; rfl
  | cons p ps ih =>
    rw [holdPages] at h
    generalize (if p.shared then refCount s (refKey p) else 1) = c at h
    split_ifs at h
    exact (ih h :)

/-- Whether the counts allow one holder more depends on the counts alone. -/
theorem isSome_holdPages_of_refs {ps : List Page} {s t : State} (h : t.pot.refs = s.pot.refs) :
    (holdPages ps t).isSome = (holdPages ps s).isSome := by
  induction ps generalizing s t with
  | nil => rfl
  | cons p ps ih =>
    rw [holdPages, holdPages, refCount, refCount, h]
    generalize (if p.shared then mapGet 1 s.pot.refs (refKey p) else 1) = c
    split_ifs
    · rfl
    · exact ih (congrArg (mapPut 1 · (refKey p) (c + 1)) h)

/-- The first `n` pages of the context are shared with the new handle, and the slot holds it. -/
def prefixMade (s : State) (slot : Nat) (i : Instance) (c h n : Nat) (o : Obj) (x : Pfx) : State :=
  setInst (setObj (setObj s c { o with pages := sharedPages (o.pages.take n) ++ o.pages.drop n }) h
    { inst := slot, secure := i.secure, pages := sharedPages (o.pages.take n) }) slot { i with pfxs := mapSet i.pfxs h x }

/-- The new handle's object, before it has its pages. -/
def prefixBegun (s : State) (slot : Nat) (i : Instance) (h : Nat) : State := useFree (setObj s h { inst := slot, secure := i.secure })

theorem prefixMake_of_room {s : State} {m : MbxId} {slot : Nat} {i : Instance} {c : Ctx} {o : Obj} (hroom : classCount s 2 < 0x100000)
    (hc : mapFind i.ctxs (reqN s m 12 4) = some c) (ho : objAt s (reqN s m 12 4) = some o)
    (hhold : (holdPages (o.pages.take (cachePages i (reqN s m 16 4))) s).isSome = true) :
    ∃ h u, holdPages (o.pages.take (cachePages i (reqN s m 16 4))) (prefixBegun s slot i h) = some u ∧
      prefixMake s m slot i = finishOk (accept (prefixMade u slot i (reqN s m 12 4) h (cachePages i (reqN s m 16 4)) o
        { len := reqN s m 16 4, gen := c.gen }) m) (mref s m) (leBytes 4 h ++ zeros 4) ∧ objClass h = 2 ∧ objAt s h = none := by
  obtain ⟨h, hnew, hclass, hfree⟩ := newObj_of_room hroom slot i.secure
  obtain ⟨u, hu⟩ := Option.isSome_iff_exists.mp ((isSome_holdPages_of_refs (s := s) (t := prefixBegun s slot i h) rfl).trans hhold)
  have hctx : mapGet {} i.ctxs (reqN s m 12 4) = c := by rw [mapGet, hc]; rfl
  refine ⟨h, u, hu, ?_, hclass, hfree⟩
  unfold prefixMake
  simp only [hnew, ho]
  rw [← prefixBegun, hu, hctx]
  rfl

section PrefixMade

variable {s u : State} {slot : Nat} {i : Instance} {c h n : Nat} {o : Obj} {x : Pfx}

theorem instView_prefixMade_same : instView (prefixMade u slot i c h n o x) slot = some { i with pfxs := mapSet i.pfxs h x, record := {} } :=
  instView_setInst_same ..

theorem objAt_prefixMade_same : objAt (prefixMade u slot i c h n o x) h =
    some { inst := slot, secure := i.secure, pages := sharedPages (o.pages.take n) } := mapFind_mapSet_same ..

variable (hu : holdPages (o.pages.take n) (prefixBegun s slot i h) = some u)
include hu

theorem answeredOk_prefixMade (m : MbxId) (p : Bytes) : AnsweredOk s (prefixMade u slot i c h n o x)
    (finishOk (accept (prefixMade u slot i c h n o x) m) (mref s m) p) m p := by
  have hmbx : (prefixMade u slot i c h n o x).mbx = s.mbx := (congrArg State.mbx (holdPages_eq hu) :)
  have horder : (prefixMade u slot i c h n o x).order = s.order := (congrArg State.order (holdPages_eq hu) :)
  exact answeredOk_finish hmbx horder p

theorem prefixMade_stackMem : (prefixMade u slot i c h n o x).stackMem = s.stackMem := (congrArg State.stackMem (holdPages_eq hu) :)

theorem instView_prefixMade_ne {j : Nat} (hj : j ≠ slot) : instView (prefixMade u slot i c h n o x) j = instView s j :=
  (instView_setInst_ne _ _ hj).trans (instView_of_insts (congrArg State.insts (holdPages_eq hu) :) j)

end PrefixMade

/-- Settles O7, by what each of the four commands makes or lets go, and its response. -/
theorem handlesComeAndGo : Obligations.HandlesComeAndGo := by
  unfold Obligations.HandlesComeAndGo
  refine ⟨?contextCreate, ?contextRelease, ?prefixCreate, ?prefixRelease⟩
  case contextCreate =>
    intro s m slot i hready hzero hnames hroom
    obtain ⟨h, hmake, hclass, hfree⟩ := contextMake_of_room (m := m) (slot := slot) (i := i) hroom
    obtain ⟨hresponds, hinsts, hpot, hmem⟩ :=
      answeredOk_reply (s := s) (u := contextMade s slot i h) (m := m) rfl rfl (leBytes 4 h ++ zeros 4)
    have hobjs := congrArg Stockpot.objs hpot
    have hchk : firstErr [fieldCheck s m [reqZero s m 10 6], entryOk s m 8] = none := by
      rw [fieldCheck_ready hready, entryOk_of hnames]
      simp [fieldsOk, reqZero, firstErr, show reqN s m 10 6 = 0 from hzero]
    refine ⟨_, h, (runCmd_ready hready hchk _).trans (congrArg Host.Outcome.next ((withInst_of hnames.1 _).trans hmake)), hresponds, hclass,
      ?_, ?_, hfree, fun g hg => ?_, fun j hj => ?_, hmem⟩
    · rw [hinsts, contextMade, instView_setInst_same]
      rfl
    · rw [objAt_of_objs hobjs]
      exact objAt_setObj_same ..
    · rw [objAt_of_objs hobjs]
      exact mapFind_mapSet_ne _ _ hg
    · rw [hinsts, contextMade, instView_setInst_ne _ _ hj]
      rfl
  case contextRelease =>
    intro s m slot i c hready hzero hnames hopen hc hidle
    have hchk : firstErr [fieldCheck s m [reqZero s m 10 2], entryOk s m 8,
        handleOk s m (reqN s m 12 4) (fun i => (mapFind i.ctxs (reqN s m 12 4)).isSome), busyOk s m (reqN s m 12 4)] = none := by
      rw [fieldCheck_ready hready, entryOk_of hnames, handleOk_of hnames.1 hopen (by rw [hc]; rfl), busyOk_of hnames.1 hc hidle]
      simp [fieldsOk, reqZero, firstErr, show reqN s m 10 2 = 0 from hzero]
    obtain ⟨t, ht, hleft⟩ := handleReleased s slot { i with ctxs := mapDel i.ctxs (reqN s m 12 4) } (reqN s m 12 4) m
    exact ⟨t, (runCmd_ready hready hchk _).trans (congrArg Host.Outcome.next ((withInst_of hnames.1 _).trans ht)), hleft⟩
  case prefixCreate =>
    intro s m slot i c o hready hzero hlen htail hnames hopen hc hidle hfits ho hroom hhold
    have hchk : firstErr [fieldCheck s m [reqZero s m 10 2, (16, reqN s m 16 4 != 0), reqZero s m 20 4], entryOk s m 8,
        handleOk s m (reqN s m 12 4) (fun i => (mapFind i.ctxs (reqN s m 12 4)).isSome), busyOk s m (reqN s m 12 4),
        need (instIs s m 8 (fun i => (mapFind i.ctxs (reqN s m 12 4)).any (fun x => reqN s m 16 4 ≤ x.len))) stBadParam 16] = none := by
      rw [fieldCheck_ready hready, entryOk_of hnames, handleOk_of hnames.1 hopen (by rw [hc]; rfl), busyOk_of hnames.1 hc hidle,
        instIs_of hnames.1]
      simp [fieldsOk, reqZero, firstErr, need, hc, hfits, hlen, show reqN s m 10 2 = 0 from hzero, show reqN s m 20 4 = 0 from htail]
    obtain ⟨h, u, hu, hmake, hclass, hfree⟩ := prefixMake_of_room (slot := slot) hroom hc ho hhold
    obtain ⟨hresponds, hinsts, hpot, hmem⟩ := answeredOk_prefixMade (c := reqN s m 12 4) (x := { len := reqN s m 16 4, gen := c.gen }) hu m
      (leBytes 4 h ++ zeros 4)
    refine ⟨_, h, (runCmd_ready hready hchk _).trans (congrArg Host.Outcome.next ((withInst_of hnames.1 _).trans hmake)), hresponds, hclass,
      hfree, (hinsts slot).trans instView_prefixMade_same, ?_, fun j hj => (hinsts j).trans (instView_prefixMade_ne hu hj),
      hmem.trans (prefixMade_stackMem hu)⟩
    rw [objAt_of_objs (congrArg Stockpot.objs hpot), objAt_prefixMade_same]
    rfl
  case prefixRelease =>
    intro s m slot i p hready hzero hnames hopen hp
    have hchk : firstErr [fieldCheck s m [reqZero s m 10 2], entryOk s m 8,
        handleOk s m (reqN s m 12 4) (fun i => (mapFind i.pfxs (reqN s m 12 4)).isSome)] = none := by
      rw [fieldCheck_ready hready, entryOk_of hnames, handleOk_of hnames.1 hopen (by rw [hp]; rfl)]
      simp [fieldsOk, reqZero, firstErr, show reqN s m 10 2 = 0 from hzero]
    obtain ⟨t, ht, hleft⟩ := handleReleased s slot { i with pfxs := mapDel i.pfxs (reqN s m 12 4) } (reqN s m 12 4) m
    exact ⟨t, (runCmd_ready hready hchk _).trans (congrArg Host.Outcome.next ((withInst_of hnames.1 _).trans ht)), hleft⟩

end Sys2Proof.Machine
end

section
/-! SUPPORT. What the header of a sent packet says (10 Table 10.4), and what decides where a packet goes out or waits (10 R237-R239). -/

namespace Sys2Proof.Machine

/-! ### The header of a packet (10 Table 10.4) -/

theorem leAt_lt (bs : Bytes) (i n : Nat) : leAt bs i n < 256 ^ n := by
  induction n generalizing i with
  | zero => exact Nat.one_pos
  | succ n ih =>
    have hbyte := (byteAt bs i).isLt
    have hrest := ih (i + 1)
    rw [leAt, pow_succ]
    omega

theorem hSrc_lt (p : IfpPacket) : hSrc p < 2 ^ 16 := leAt_lt p.hdr 6 2
theorem hTag_lt (p : IfpPacket) : hTag p < 2 ^ 32 := leAt_lt p.hdr 20 4
theorem hStream_lt (p : IfpPacket) : hStream p < 2 ^ 24 := Nat.mod_lt _ (by decide)

theorem partId_lt (s : State) : partId s < 2 ^ 13 := Nat.mod_lt _ (by decide)

section Header

variable (s : State) (f : IfpFields)

theorem hType_ifpPacket : hType (ifpPacket s f) = f.type % 256 := by
  simp only [hType, ifpPacket, List.append_assoc]
  exact leAt_leBytes_append 1 f.type _

/-- The two bits of VC stand below WORLD and the request for an acknowledgement. -/
theorem hVc_ifpPacket : hVc (ifpPacket s f) = f.vc % 4 := by
  simp only [hVc, ifpPacket, List.append_assoc]
  change leAt _ (1 + 0) 1 % 4 = f.vc % 4
  rw [leAt_after, leAt_leBytes_append]
  split_ifs <;> omega

theorem hSrc_ifpPacket : hSrc (ifpPacket s f) = partId s := by
  simp only [hSrc, ifpPacket, List.append_assoc]
  change leAt _ (1 + (1 + (2 + (2 + 0)))) 2 = partId s
  rw [leAt_after, leAt_after, leAt_after, leAt_after, leAt_leBytes_append]
  exact Nat.mod_eq_of_lt ((partId_lt s).trans (by decide))

theorem hStream_ifpPacket : hStream (ifpPacket s f) = f.stream % 2 ^ 24 := by
  simp only [hStream, ifpPacket, List.append_assoc]
  change leAt _ (1 + (1 + (2 + (2 + (2 + (8 + 0)))))) 4 % 2 ^ 24 = f.stream % 2 ^ 24
  rw [leAt_after, leAt_after, leAt_after, leAt_after, leAt_after, leAt_after, leAt_leBytes_append]
  exact Nat.mod_mod_of_dvd _ (by decide)

theorem hTag_ifpPacket (h : f.tag < 2 ^ 32) : hTag (ifpPacket s f) = f.tag := by
  simp only [hTag, ifpPacket, List.append_assoc]
  change leAt _ (1 + (1 + (2 + (2 + (2 + (8 + (4 + 0))))))) 4 = f.tag
  rw [leAt_after, leAt_after, leAt_after, leAt_after, leAt_after, leAt_after, leAt_after, leAt_leBytes_append]
  exact Nat.mod_eq_of_lt h

theorem hSpec_ifpPacket : hSpec (ifpPacket s f) = f.spec % 65536 := by
  simp only [hSpec, ifpPacket, List.append_assoc]
  change leAt _ (1 + (1 + (2 + (2 + (2 + (8 + (4 + (4 + (4 + 0))))))))) 2 = f.spec % 65536
  rw [leAt_after, leAt_after, leAt_after, leAt_after, leAt_after, leAt_after, leAt_after, leAt_after, leAt_after, leAt_leBytes_append]
  rfl

end Header

/-! ### The fabric's state alone changes -/

theorem butFabric_ifpPost (s : State) (f : IfpFields) : butFabric (ifpPost s f) = butFabric s := by
  unfold ifpPost
  dsimp only
  split <;> rfl

theorem butFabric_sendWaiting (s : State) (r : FabReq) : butFabric (sendWaiting s r) = butFabric s := by
  unfold sendWaiting
  split <;> rfl

theorem butFabric_sendWait (s : State) (w : IfpPacket) : butFabric (sendWait s w) = butFabric s := by
  unfold sendWait
  split <;> rfl

theorem butFabric_flushWaits (s : State) : butFabric (flushWaits s) = butFabric s :=
  (foldl_view (fun w _ u => butFabric_sendWait u w) _).trans (foldl_view (fun r _ u => butFabric_sendWaiting u r) _)

theorem butFabric_linkAcked (s : State) (port : Nat) : butFabric (linkAcked s port) = butFabric s := by
  unfold linkAcked
  split
  · exact butFabric_flushWaits _
  · rfl

/-! ### The path of a flow (10 R237, R238) -/

/-- The words of the fabric, its ports and Ladle. -/
def IsPathWord (o : Nat) : Prop := 0x0E800000 ≤ o ∧ o < 0x0EB00000

theorem isPathWord_fabReg {o : Nat} (h : o < 0x100000) : IsPathWord (fabReg o) := ⟨by unfold fabReg; omega, by unfold fabReg; omega⟩
theorem isPathWord_fpReg (p : Nat) {o : Nat} (h : o < 0x40) : IsPathWord (fpReg p o) := ⟨by unfold fpReg; omega, by unfold fpReg; omega⟩
theorem isPathWord_ldReg {o : Nat} (h : o < 0x100000) : IsPathWord (ldReg o) := ⟨by unfold ldReg; omega, by unfold ldReg; omega⟩

/-- What decides where a packet goes out is the same: the fabric's state, the time and those words. -/
structure SamePaths (s t : State) : Prop where
  fab      : t.fab = s.fab
  ifpOut   : t.ifpOut = s.ifpOut
  rackTime : t.rackTime = s.rackTime
  words    : ∀ o, IsPathWord o → rd t o = rd s o

theorem samePaths_of_cw {s t : State} (hfab : t.fab = s.fab) (hout : t.ifpOut = s.ifpOut) (htime : t.rackTime = s.rackTime) (hcw : t.cw = s.cw) :
    SamePaths s t := ⟨hfab, hout, htime, fun o _ => rd_of_cw hcw o⟩

section SamePaths

variable {s t u : State}

theorem SamePaths.trans (h : SamePaths s t) (k : SamePaths t u) : SamePaths s u :=
  ⟨k.fab.trans h.fab, k.ifpOut.trans h.ifpOut, k.rackTime.trans h.rackTime, fun o ho => (k.words o ho).trans (h.words o ho)⟩

variable (h : SamePaths s t)
include h

theorem SamePaths.partId : partId t = partId s := congrArg (fld · 12 0) (h.words _ (isPathWord_fabReg (by decide)))

theorem SamePaths.portState (p : Nat) : portState t p = portState s p :=
  congrArg (fld · 2 0) (h.words _ (isPathWord_fpReg p (by decide)))

theorem SamePaths.portPlane (p : Nat) : portPlane t p = portPlane s p :=
  congrArg (fld · 15 12) (h.words _ (isPathWord_fpReg p (by decide)))

theorem SamePaths.faultEpoch : faultEpoch t = faultEpoch s := by
  rw [Machine.faultEpoch, Machine.faultEpoch, epochCycles, epochCycles, h.rackTime, rdF, h.words _ (isPathWord_ldReg (by decide)), rdF]

theorem SamePaths.planeExcluded (dest plane : Nat) : planeExcluded t dest plane = planeExcluded s dest plane := by
  rw [Machine.planeExcluded, Machine.planeExcluded, h.fab, h.faultEpoch]

theorem SamePaths.planeListTo (dest : Nat) : planeListTo t dest = planeListTo s dest := by
  simp only [Machine.planeListTo, planeList, h.planeExcluded, h.portState, h.portPlane]

theorem SamePaths.flowPort (dest stream : Nat) : flowPort t dest stream = flowPort s dest stream := by
  have hcross : rbit t (fabReg 0) 2 = rbit s (fabReg 0) 2 := congrArg (fun w => fld w 2 2 == 1) (h.words _ (isPathWord_fabReg (by decide)))
  simp only [Machine.flowPort, sledPort, h.planeListTo, hcross, h.portState, h.partId]

theorem SamePaths.flowOpen (dest stream : Nat) : flowOpen t dest stream = flowOpen s dest stream := by
  simp only [Machine.flowOpen, h.fab, h.flowPort, portCarries, h.portState]

theorem SamePaths.flowFree (dest stream : Nat) : flowFree t dest stream = flowFree s dest stream := by
  rw [Machine.flowFree, Machine.flowFree, h.flowOpen, flowHeld, flowHeld, h.fab]

end SamePaths

/-! ### A packet goes out or waits (10 R239) -/

theorem emits_mono {s t : State} {dest stream : Nat} {P Q : IfpPacket → Prop} (h : Emits s t dest stream P) (himp : ∀ r, P r → Q r) :
    Emits s t dest stream Q := by
  obtain ⟨r, hdest, hstream, hsrc, hcrc, hok, hout⟩ := h
  exact ⟨r, hdest, hstream, hsrc, hcrc, himp r hok, hout⟩

theorem emits_ifpPost {s u : State} (h : SamePaths s u) {f : IfpFields} (hdest : f.dest < 2 ^ 16) (hstream : f.stream < 2 ^ 24) :
    Emits s (ifpPost u f) f.dest f.stream (fun r => r = ifpPacket u f) := by
  refine ⟨_, hDest_ifpPacket u f hdest, (hStream_ifpPacket u f).trans (Nat.mod_eq_of_lt hstream), (hSrc_ifpPacket u f).trans h.partId,
    hcrcOk_ifpPacket u f, rfl, ?_⟩
  cases hfree : flowFree s f.dest f.stream with
  | some q =>
    rw [ifpPost, h.flowFree, hfree]
    exact ⟨congrArg ((q, _) :: ·) h.ifpOut, (congrArg Fabric.waits h.fab :)⟩
  | none =>
    rw [ifpPost, h.flowFree, hfree]
    exact ⟨h.ifpOut, (congrArg (fun x : Fabric => x.waits ++ [ifpPacket u f]) h.fab :)⟩

/-- What the answer to a packet says (10 Table 10.5). -/
def respFields (p : IfpPacket) (status : Nat) (data : Bytes) : IfpFields :=
  { type := ifpRespT, vc := 1, dest := hSrc p, stream := hStream p, tag := hTag p, spec := status, payload := data }

/-- An answer to a packet goes out to its source, on its stream and with its tag. -/
theorem emits_ifpResp {s u : State} (h : SamePaths s u) (p : IfpPacket) (status : Nat) (data : Bytes) :
    Emits s (ifpResp u p status data) (hSrc p) (hStream p)
      (fun r => hType r = ifpRespT ∧ hTag r = hTag p ∧ hSpec r = status % 65536 ∧ r.payload = data) := by
  refine emits_mono (emits_ifpPost h (f := respFields p status data) (hSrc_lt p) (hStream_lt p)) ?_
  rintro r rfl
  exact ⟨hType_ifpPacket .., hTag_ifpPacket _ _ (hTag_lt p), hSpec_ifpPacket .., rfl⟩

theorem butFabric_ifpResp (s : State) (p : IfpPacket) (status : Nat) (data : Bytes) : butFabric (ifpResp s p status data) = butFabric s :=
  butFabric_ifpPost ..

section Answered

variable (s : State) (p : IfpPacket) (status : Nat) (data : Bytes)

theorem ifpResp_stackMem : (ifpResp s p status data).stackMem = s.stackMem := (congrArg State.stackMem (butFabric_ifpResp s p status data) :)
theorem ifpResp_store : (ifpResp s p status data).store = s.store := (congrArg State.store (butFabric_ifpResp s p status data) :)
theorem ifpResp_cw : (ifpResp s p status data).cw = s.cw := (congrArg State.cw (butFabric_ifpResp s p status data) :)
theorem ifpResp_insts : (ifpResp s p status data).insts = s.insts := (congrArg State.insts (butFabric_ifpResp s p status data) :)
theorem ifpResp_pot : (ifpResp s p status data).pot = s.pot := (congrArg State.pot (butFabric_ifpResp s p status data) :)

end Answered

end Sys2Proof.Machine
end

section
/-! SUPPORT. The receipt of a packet: discarded, refused by the world check, or arrived (10 R244, 18 Table 18.2). -/

namespace Sys2Proof.Machine

section Receive

variable {s : State} {port : Nat} {p : IfpPacket} (deny eff : State → State)

theorem ifpReceive_of_arrives {type : Nat} (h : Arrives s port p type) : ifpReceive s port p [type] deny eff = eff (linkAcked s port) := by
  obtain ⟨-, hcarries, htype, hlen, hbound, hdest, hcrc, hworld⟩ := h
  simp [ifpReceive, hcarries, hcrc, htype, hlen, hdest, hworld, Nat.not_lt.mpr hbound]

theorem ifpReceive_of_badCrc (hcarries : portCarries s port = true) (hcrc : hcrcOk p = false) (types : List Nat) :
    ifpReceive s port p types deny eff = incHold s (fpReg port 0x24) 16 1 := by
  simp [ifpReceive, hcarries, hcrc]

theorem ifpReceive_of_otherWorld {type : Nat} (hcarries : portCarries s port = true) (hcrc : hcrcOk p = true) (htype : hType p = type)
    (hlen : hLen p = p.payload.length) (hbound : p.payload.length ≤ 4096) (hdest : hDest p = partId s) (hworld : worldOk s port p = false) :
    ifpReceive s port p [type] deny eff = deny (incHold s (secReg 0x0C) 32 1) := by
  simp [ifpReceive, hcarries, hcrc, htype, hlen, hdest, hworld, Nat.not_lt.mpr hbound]

end Receive

end Sys2Proof.Machine
end

section
/-! PROOF. O24: accesses from other parts are served, refused, discarded or denied (10 R244-R246, 18 R423). -/

namespace Sys2Proof.Machine

/-! ### What the checks look at -/

section Checks

variable {s t : State} (h : butFabric t = butFabric s)
include h

theorem retraining_of_butFabric (p : IfpPacket) : retraining t p = retraining s p := (congrArg (retraining · p) h :)

theorem stackHolds_of_butFabric (p : IfpPacket) (type len : Nat) : stackHolds t p type len = stackHolds s p type len :=
  (congrArg (stackHolds · p type len) h :)

theorem ifpCode_of_butFabric (p : IfpPacket) (len : Nat) : ifpCode t p len = ifpCode s p len := (congrArg (ifpCode · p len) h :)

end Checks

/-! ### An access that is served -/

/-- The access has come in, renewed its holding and been counted by the tracker (09 R224, R229). -/
def accessed (s : State) (port : Nat) (p : IfpPacket) : State := served (linkAcked s port) p

/-- Blanks beside the fabric what an access that is served changes of Stockpot. -/
def butAccess (s : State) : State := { butFabric s with pot := { s.pot with tracker := [], seen := [] } }

theorem renewHold_eq (s : State) (peer f : Nat) : renewHold s peer f = { s with pot := { s.pot with seen := (renewHold s peer f).pot.seen } } := by
  unfold renewHold
  split <;> rfl

/-- The holding is renewed and the tracker has counted: nothing else changes. -/
theorem served_eq (s : State) (p : IfpPacket) :
    ∃ tracker seen, served s p = { s with pot := { s.pot with tracker := tracker, seen := seen } } := by
  unfold served
  split
  · dsimp only
    rw [renewHold_eq, track_eq]
    exact ⟨_, _, rfl⟩
  · exact ⟨s.pot.tracker, s.pot.seen, rfl⟩

theorem samePaths_served (s : State) (p : IfpPacket) : SamePaths s (served s p) := by
  obtain ⟨tracker, seen, heq⟩ := served_eq s p
  rw [heq]
  exact samePaths_of_cw rfl rfl rfl rfl

theorem butAccess_served (s : State) (p : IfpPacket) : butAccess (served s p) = butAccess s := by
  obtain ⟨tracker, seen, heq⟩ := served_eq s p
  rw [heq]
  rfl

theorem butAccess_of_butFabric {s t : State} (h : butFabric t = butFabric s) : butAccess t = butAccess s :=
  congrArg (fun u : State => { u with pot := { u.pot with tracker := [], seen := [] } }) h

theorem butAccess_accessed (s : State) (port : Nat) (p : IfpPacket) : butAccess (accessed s port p) = butAccess s :=
  (butAccess_served ..).trans (butAccess_of_butFabric (butFabric_linkAcked s port))

theorem accessed_stackMem (s : State) (port : Nat) (p : IfpPacket) : (accessed s port p).stackMem = s.stackMem :=
  (congrArg State.stackMem (butAccess_accessed s port p) :)

theorem accessed_badLines (s : State) (port : Nat) (p : IfpPacket) : (accessed s port p).pot.badLines = s.pot.badLines :=
  (congrArg (fun u : State => u.pot.badLines) (butAccess_accessed s port p) :)

theorem replayRefuses_of_butAccess {s t : State} (h : butAccess t = butAccess s) (src : Nat) (a : W64) :
    replayRefuses t src a = replayRefuses s src a := (congrArg (replayRefuses · src a) h :)

theorem ifpAccess_of_badCrc {s : State} {port : Nat} {p : IfpPacket} (hcarries : portCarries s port = true) (hcrc : hcrcOk p = false)
    (type len : Nat) (eff : State → State) : ifpAccess s port p type len eff = incHold s (fpReg port 0x24) 16 1 :=
  ifpReceive_of_badCrc _ _ hcarries hcrc _

section Access

variable {s : State} {port type len : Nat} {p : IfpPacket} (h : Arrives s port p type) (hsteady : retraining s p = false)
  (hroom : stackHolds s p type len = false) (eff : State → State)
include h hsteady hroom

theorem ifpAccess_of_served (hcode : ifpCode s p len = none) : ifpAccess s port p type len eff = eff (accessed s port p) := by
  have hacked := butFabric_linkAcked s port
  rw [ifpAccess, ifpReceive_of_arrives _ _ h, retraining_of_butFabric hacked, stackHolds_of_butFabric hacked, ifpCode_of_butFabric hacked, hsteady,
    hroom, hcode]
  rfl

theorem ifpAccess_of_refused {c : Nat} (hcode : ifpCode s p len = some c) :
    ifpAccess s port p type len eff = ifpRefuse (linkAcked s port) p c := by
  have hacked := butFabric_linkAcked s port
  rw [ifpAccess, ifpReceive_of_arrives _ _ h, retraining_of_butFabric hacked, stackHolds_of_butFabric hacked, ifpCode_of_butFabric hacked, hsteady,
    hroom, hcode]
  rfl

end Access

/-! ### What serving leaves -/

/-- Core stores, the counts of shared frames and instances but for their recordings are as before. -/
structure KeepsData (s t : State) : Prop where
  store : t.store = s.store
  refs  : t.pot.refs = s.pot.refs
  insts : ∀ j, instView t j = instView s j

theorem KeepsData.trans {s t u : State} (h : KeepsData s t) (k : KeepsData t u) : KeepsData s u :=
  ⟨k.store.trans h.store, k.refs.trans h.refs, fun j => (k.insts j).trans (h.insts j)⟩

theorem keepsData_accessed (s : State) (port : Nat) (p : IfpPacket) : KeepsData s (accessed s port p) :=
  have hrest := butAccess_accessed s port p
  ⟨(congrArg State.store hrest :), (congrArg (fun u : State => u.pot.refs) hrest :), instView_of_insts (congrArg State.insts hrest :)⟩

theorem keepsData_ifpResp (s : State) (p : IfpPacket) (status : Nat) (data : Bytes) : KeepsData s (ifpResp s p status data) :=
  ⟨ifpResp_store .., congrArg Stockpot.refs (ifpResp_pot ..), instView_of_insts (ifpResp_insts ..)⟩

theorem keepsData_stackPut (s : State) (off : Nat) (bs : Bytes) : KeepsData s (stackPut s off bs) :=
  have hrest := butPut_stackPut s off bs
  ⟨(congrArg State.store hrest :), (congrArg (fun u : State => u.pot.refs) hrest :), instView_of_insts (congrArg State.insts hrest :)⟩

theorem samePaths_stackPut (s : State) (off : Nat) (bs : Bytes) : SamePaths s (stackPut s off bs) :=
  have hrest := butPut_stackPut s off bs
  samePaths_of_cw (congrArg State.fab hrest :) (congrArg State.ifpOut hrest :) (congrArg State.rackTime hrest :) (stackPut_cw ..)

theorem keepsData_of_recordOnly {s t : State} (h : RecordOnly s t) : KeepsData s t :=
  ⟨(congrArg State.store h.rest :), (congrArg (fun u : State => u.pot.refs) h.rest :), h.insts⟩

theorem samePaths_of_recordOnly {s t : State} (h : RecordOnly s t) : SamePaths s t :=
  samePaths_of_cw (congrArg State.fab h.rest :) (congrArg State.ifpOut h.rest :) (congrArg State.rackTime h.rest :) (congrArg State.cw h.rest :)

theorem recordOnly_recordFabricIn (s : State) (src : Nat) (a : W64) (p : IfpPacket) : RecordOnly s (recordFabricIn s src a p) := by
  unfold recordFabricIn
  split
  · exact recordOnly_recordAny ..
  · exact .refl s

theorem keepsData_readLines (s : State) (ls : List Nat) : KeepsData s (readLines s ls) :=
  have hrest := butRead_readLines s ls
  ⟨(congrArg State.store hrest :), (congrArg (fun u : State => u.pot.refs) hrest :), instView_of_insts (congrArg State.insts hrest :)⟩

/-- Reading lines that can be read changes no word but counters of single bad symbols. -/
theorem rd_readLines_of_good {s : State} {ls : List Nat} (h : ∀ l ∈ ls, l ∉ s.pot.badLines) {o : Nat} (ho : ∀ n, o ≠ skReg n 8) :
    rd (readLines s ls) o = rd s o := by
  induction ls generalizing s with
  | nil => rfl
  | cons l ls ih =>
    have hline : rd (readLine s l) o = rd s o := by
      rw [readLine, if_neg (by simpa using h l List.mem_cons_self)]
      split
      · exact rd_incHold_ne _ 16 1 (ho _)
      · rfl
    have hlines : rd (readLines (readLine s l) ls) o = rd (readLine s l) o := ih fun x hx => by
      rw [badLines_of_butRead (butRead_readLine s l)]
      exact h x (List.mem_cons_of_mem l hx)
    exact hlines.trans hline

theorem samePaths_readLines {s : State} {ls : List Nat} (h : ∀ l ∈ ls, l ∉ s.pot.badLines) : SamePaths s (readLines s ls) :=
  have hrest := butRead_readLines s ls
  ⟨(congrArg State.fab hrest :), (congrArg State.ifpOut hrest :), (congrArg State.rackTime hrest :),
    fun o ho => rd_readLines_of_good h fun n => by unfold skReg; obtain ⟨hlo, -⟩ := ho; omega⟩

/-! ### IFP_WRITE (10 R245) -/

/-- The bytes of a write stand in memory, and the write is recorded where it comes from outside all instances. -/
def writeStored (s : State) (p : IfpPacket) : State := stackPut (recordFabricIn s (hSrc p) (hGma p) p) (gmaOffset (hGma p)) p.payload

section Write

variable (s : State) {p : IfpPacket}

theorem ifpWriteAt_of_ack (hspace : gmaSpace (hGma p) = 0) (hack : hAck p = true) : ifpWriteAt s p = ifpResp (writeStored s p) p 0 [] := by
  rw [ifpWriteAt, if_pos hack, gmaWrite, if_pos hspace]
  rfl

theorem ifpWriteAt_of_noAck (hspace : gmaSpace (hGma p) = 0) (hack : hAck p = false) : ifpWriteAt s p = writeStored s p := by
  rw [ifpWriteAt, hack, if_neg (by decide), gmaWrite, if_pos hspace]
  rfl

variable (p)

theorem keepsData_writeStored : KeepsData s (writeStored s p) :=
  (keepsData_of_recordOnly (recordOnly_recordFabricIn ..)).trans (keepsData_stackPut ..)

theorem samePaths_writeStored : SamePaths s (writeStored s p) :=
  (samePaths_of_recordOnly (recordOnly_recordFabricIn ..)).trans (samePaths_stackPut ..)

theorem writeStored_cw : (writeStored s p).cw = s.cw :=
  (stackPut_cw ..).trans (congrArg State.cw (recordOnly_recordFabricIn s (hSrc p) (hGma p) p).rest :)

theorem writeStored_stackMem : (writeStored s p).stackMem = memWrite s.stackMem (gmaOffset (hGma p)) p.payload := by
  have hmem : (recordFabricIn s (hSrc p) (hGma p) p).stackMem = s.stackMem :=
    (congrArg State.stackMem (recordOnly_recordFabricIn s (hSrc p) (hGma p) p).rest :)
  rw [writeStored, stackPut_stackMem, hmem]

end Write

/-! ### IFP_READ -/

theorem ifpReadAt_of_good {s : State} {p : IfpPacket} (hspace : gmaSpace (hGma p) = 0)
    (hgood : ∀ l ∈ linesOf (gmaOffset (hGma p)) (hSpec p), l ∉ s.pot.badLines) :
    ifpReadAt s p = ifpResp (readLines s (linesOf (gmaOffset (hGma p)) (hSpec p))) p 0 (memRead s.stackMem (gmaOffset (hGma p)) (hSpec p)) := by
  rw [ifpReadAt, if_pos hspace]
  simp only [linesBad_of_good hgood]
  rfl

/-! ### IFP_ATOMIC (10 R246) -/

theorem lt_of_atomicOp {op : Nat} {old x y v : W64} (h : atomicOp op old x y = some v) : op < 8 := by
  by_contra hge
  obtain ⟨k, rfl⟩ := Nat.exists_eq_add_of_le' (Nat.le_of_not_lt hge)
  cases h

/-- The lines of an atomic are read, and the result of its operation stands in its word. -/
def atomicStored (s : State) (p : IfpPacket) (v : W64) : State :=
  stackPut (readLines s (linesOf (gmaOffset (hGma p)) 8)) (gmaOffset (hGma p)) (leBytes 8 v.toNat)

/-- And it is recorded where it comes from outside all instances. -/
def atomicRecorded (s : State) (p : IfpPacket) (v : W64) : State := recordFabricIn (atomicStored s p v) (hSrc p) (hGma p) p

/-- The word that an atomic finds. -/
def wordAt (s : State) (p : IfpPacket) : W64 := w64At (memRead s.stackMem (gmaOffset (hGma p)) 8) 0

section Atomic

variable {s : State} {p : IfpPacket} {v : W64} (hgood : ∀ l ∈ linesOf (gmaOffset (hGma p)) 8, l ∉ s.pot.badLines)
include hgood

theorem ifpAtomicAt_of_good (hspace : gmaSpace (hGma p) = 0) (hcode : atomicCode (hSpec p % 16) (gmaOffset (hGma p)) = none)
    (hv : atomicOp (hSpec p % 16) (wordAt s p) (w64At p.payload 0) (w64At p.payload 8) = some v) :
    ifpAtomicAt s p = ifpResp (atomicRecorded s p v) p 0 (leBytes 8 (wordAt s p).toNat) := by
  have hat : stackAtomicAt s (gmaOffset (hGma p)) (hSpec p % 16) (w64At p.payload 0) (w64At p.payload 8) =
      (.ok (wordAt s p), atomicStored s p v) := by
    simp only [stackAtomicAt, hcode, linesBad_of_good hgood, ← wordAt.eq_def, hv]
    rfl
  rw [ifpAtomicAt, hat, if_pos hspace]
  rfl

theorem samePaths_atomicRecorded : SamePaths s (atomicRecorded s p v) :=
  ((samePaths_readLines hgood).trans (samePaths_stackPut ..)).trans (samePaths_of_recordOnly (recordOnly_recordFabricIn ..))

omit hgood

theorem keepsData_atomicRecorded : KeepsData s (atomicRecorded s p v) :=
  ((keepsData_readLines ..).trans (keepsData_stackPut ..)).trans (keepsData_of_recordOnly (recordOnly_recordFabricIn ..))

theorem atomicRecorded_stackMem : (atomicRecorded s p v).stackMem = memWrite s.stackMem (gmaOffset (hGma p)) (leBytes 8 v.toNat) := by
  have hrecord : (atomicRecorded s p v).stackMem = (atomicStored s p v).stackMem :=
    (congrArg State.stackMem (recordOnly_recordFabricIn (atomicStored s p v) (hSrc p) (hGma p) p).rest :)
  have hread : (readLines s (linesOf (gmaOffset (hGma p)) 8)).stackMem = s.stackMem := (congrArg State.stackMem (butRead_readLines s _) :)
  rw [hrecord, atomicStored, stackPut_stackMem, hread]

end Atomic

/-! ### A refused access -/

theorem samePaths_countCode (s : State) (code : Nat) : SamePaths s (countCode s code) := by
  have hrest := countCode_butWords s code
  refine ⟨(congrArg State.fab hrest :), (congrArg State.ifpOut hrest :), (congrArg State.rackTime hrest :), fun o ho => ?_⟩
  obtain ⟨hlo, hhi⟩ := ho
  unfold countCode
  split_ifs
  · exact rd_incHold_ne s 32 1 (by unfold spReg; omega)
  · exact rd_incHold_ne s 32 1 (by unfold secReg; omega)
  · rfl

/-! ### The accesses in one piece -/

section Served

variable {s : State} {port : Nat} {p : IfpPacket}

/-- A write that is served. -/
theorem ifpWrite_of_served (harrives : Arrives s port p ifpWriteT) (hsteady : retraining s p = false)
    (hroom : stackHolds s p ifpWriteT p.payload.length = false) (hcode : ifpCode s p p.payload.length = none)
    (hreplay : replayRefuses s (hSrc p) (hGma p) = false) : ifpWrite s port p = ifpWriteAt (accessed s port p) p := by
  rw [ifpWrite, ifpAccess_of_served harrives hsteady hroom _ hcode, replayRefuses_of_butAccess (butAccess_accessed s port p), hreplay]
  rfl

theorem samePaths_writeStored_accessed : SamePaths (linkAcked s port) (writeStored (accessed s port p) p) :=
  (samePaths_served ..).trans (samePaths_writeStored ..)

theorem keepsData_writeStored_accessed : KeepsData s (writeStored (accessed s port p) p) := (keepsData_accessed s port p).trans (keepsData_writeStored ..)

theorem writeStored_accessed_cw : (writeStored (accessed s port p) p).cw = s.cw :=
  (writeStored_cw ..).trans (congrArg State.cw (butAccess_accessed s port p) :)

theorem memByte_writeStored (a : Nat) : memByte (writeStored (accessed s port p) p).stackMem a =
    if gmaOffset (hGma p) ≤ a ∧ a < gmaOffset (hGma p) + p.payload.length then byteAt p.payload (a - gmaOffset (hGma p))
    else memByte s.stackMem a := by
  rw [writeStored_stackMem, accessed_stackMem, memByte_memWrite]

/-- The lines that a read takes. -/
def linesTaken (s : State) (port : Nat) (p : IfpPacket) : State :=
  readLines (accessed s port p) (linesOf (gmaOffset (hGma p)) (hSpec p))

/-- A read that is served. -/
theorem ifpRead_of_served (harrives : Arrives s port p ifpReadT) (hsteady : retraining s p = false)
    (hroom : stackHolds s p ifpReadT (hSpec p) = false) (hcode : ifpCode s p (hSpec p) = none) (hspace : gmaSpace (hGma p) = 0)
    (hgood : ∀ l ∈ linesOf (gmaOffset (hGma p)) (hSpec p), l ∉ s.pot.badLines) :
    ifpRead s port p = ifpResp (linesTaken s port p) p 0 (memRead s.stackMem (gmaOffset (hGma p)) (hSpec p)) := by
  rw [← accessed_badLines s port p] at hgood
  rw [ifpRead, ifpAccess_of_served harrives hsteady hroom _ hcode, ifpReadAt_of_good hspace hgood, accessed_stackMem]
  rfl

theorem samePaths_linesTaken (hgood : ∀ l ∈ linesOf (gmaOffset (hGma p)) (hSpec p), l ∉ s.pot.badLines) :
    SamePaths (linkAcked s port) (linesTaken s port p) := by
  rw [← accessed_badLines s port p] at hgood
  exact (samePaths_served ..).trans (samePaths_readLines hgood)

theorem linesTaken_stackMem : (linesTaken s port p).stackMem = s.stackMem :=
  (congrArg State.stackMem (butRead_readLines (accessed s port p) _) :).trans (accessed_stackMem s port p)

theorem linesTaken_store : (linesTaken s port p).store = s.store :=
  (congrArg State.store (butRead_readLines (accessed s port p) _) :).trans (congrArg State.store (butAccess_accessed s port p) :)

theorem linesTaken_insts : (linesTaken s port p).insts = s.insts :=
  (congrArg State.insts (butRead_readLines (accessed s port p) _) :).trans (congrArg State.insts (butAccess_accessed s port p) :)

theorem linesTaken_objs : (linesTaken s port p).pot.objs = s.pot.objs :=
  (congrArg (fun u : State => u.pot.objs) (butRead_readLines (accessed s port p) _) :).trans
    (congrArg (fun u : State => u.pot.objs) (butAccess_accessed s port p) :)

/-- An atomic that is served. -/
theorem ifpAtomic_of_served {v : W64} (harrives : Arrives s port p ifpAtomicT) (hlen : p.payload.length = 16) (hsteady : retraining s p = false)
    (hroom : stackHolds s p ifpAtomicT 8 = false) (hcode : ifpCode s p 8 = none) (hreplay : replayRefuses s (hSrc p) (hGma p) = false)
    (hspace : gmaSpace (hGma p) = 0) (halign : gmaOffset (hGma p) % 8 = 0)
    (hgood : ∀ l ∈ linesOf (gmaOffset (hGma p)) 8, l ∉ s.pot.badLines)
    (hv : atomicOp (hSpec p % 16) (wordAt s p) (w64At p.payload 0) (w64At p.payload 8) = some v) :
    ifpAtomic s port p = ifpResp (atomicRecorded (accessed s port p) p v) p 0 (leBytes 8 (wordAt s p).toNat) := by
  have hop := lt_of_atomicOp hv
  have hatomic : atomicCode (hSpec p % 16) (gmaOffset (hGma p)) = none := if_neg (by omega)
  have hword : wordAt (accessed s port p) p = wordAt s p := by rw [wordAt, accessed_stackMem, wordAt]
  rw [← accessed_badLines s port p] at hgood
  rw [← hword] at hv ⊢
  rw [ifpAtomic, ifpAccess_of_served harrives hsteady hroom _ hcode, replayRefuses_of_butAccess (butAccess_accessed s port p), hreplay, hlen]
  exact ifpAtomicAt_of_good hgood hspace hatomic hv

theorem samePaths_atomicRecorded_accessed {v : W64} (hgood : ∀ l ∈ linesOf (gmaOffset (hGma p)) 8, l ∉ s.pot.badLines) :
    SamePaths (linkAcked s port) (atomicRecorded (accessed s port p) p v) := by
  rw [← accessed_badLines s port p] at hgood
  exact (samePaths_served ..).trans (samePaths_atomicRecorded hgood)

theorem atomicRecorded_accessed_stackMem (v : W64) :
    (atomicRecorded (accessed s port p) p v).stackMem = memWrite s.stackMem (gmaOffset (hGma p)) (leBytes 8 v.toNat) := by
  rw [atomicRecorded_stackMem, accessed_stackMem]

theorem wordAt_of_stackMem {t : State} {v : W64} (h : t.stackMem = memWrite s.stackMem (gmaOffset (hGma p)) (leBytes 8 v.toNat)) :
    w64At (memRead t.stackMem (gmaOffset (hGma p)) 8) 0 = v := by
  have hbytes := memRead_memWrite s.stackMem (gmaOffset (hGma p)) (leBytes 8 v.toNat)
  rw [length_leBytes] at hbytes
  rw [h, hbytes, w64At_leBytes]

/-- A read that a check refuses is counted by its code and answered with it. -/
theorem ifpRead_of_refused {c : Nat} (harrives : Arrives s port p ifpReadT) (hsteady : retraining s p = false)
    (hroom : stackHolds s p ifpReadT (hSpec p) = false) (hcode : ifpCode s p (hSpec p) = some c) :
    ifpRead s port p = ifpResp (countCode (linkAcked s port) c) p c [] := by
  obtain ⟨-, -, htype, -⟩ := id harrives
  have hread : ¬(hType p = ifpWriteT ∧ hAck p = false) := fun h => absurd (htype.symm.trans h.1) (by decide)
  rw [ifpRead, ifpAccess_of_refused harrives hsteady hroom _ hcode, ifpRefuse, if_neg hread]

theorem countCode_linkAcked_butWords (c : Nat) : butFabric (countCode (linkAcked s port) c).butWords = butFabric s.butWords := by
  rw [countCode_butWords]
  exact (congrArg State.butWords (butFabric_linkAcked s port) :)

end Served

/-- One counter has advanced, and nothing else has changed. -/
theorem incHold_only (s : State) (o n : Nat) : rd (incHold s o n 1) o = BitVec.ofNat 32 (Nat.min ((rd s o).toNat + 1) (2 ^ n - 1)) ∧
    SameWords [o] s (incHold s o n 1) ∧ incHold s o n 1 = { s with cw := (incHold s o n 1).cw } :=
  ⟨rd_incHold_same .., fun _ hp => rd_incHold_ne s n 1 fun h => hp (List.mem_singleton.mpr h), rfl⟩

/-- Settles O24, by what each of the three accesses becomes once it has arrived, and by what is counted of one that has not. -/
theorem accessesFromOtherParts : Obligations.AccessesFromOtherParts := by
  unfold Obligations.AccessesFromOtherParts
  refine ⟨?write, ?read, ?atomic, ?refused, ?badCrc, ?denied⟩
  case write =>
    intro s port p harrives hsteady hroom hcode hreplay hspace
    have hexec : exec (.ifpWrite port p) s = .next (ifpWrite s port p) := onUnit_of_true (decide_eq_true harrives.1) _
    rw [hexec, ifpWrite_of_served harrives hsteady hroom hcode hreplay]
    cases hack : hAck p with
    | true =>
      obtain ⟨hstore, hrefs, hinsts⟩ := (keepsData_writeStored_accessed (s := s) (port := port) (p := p)).trans (keepsData_ifpResp _ p 0 [])
      refine ⟨_, congrArg Host.Outcome.next (ifpWriteAt_of_ack _ hspace hack), fun a => ?_, ?_, hstore, ?_, hrefs, hinsts⟩
      · rw [ifpResp_stackMem]
        exact memByte_writeStored a
      · exact emits_ifpResp samePaths_writeStored_accessed p 0 []
      · rw [ifpResp_cw, writeStored_accessed_cw]
    | false =>
      obtain ⟨hstore, hrefs, hinsts⟩ := keepsData_writeStored_accessed (s := s) (port := port) (p := p)
      exact ⟨_, congrArg Host.Outcome.next (ifpWriteAt_of_noAck _ hspace hack), memByte_writeStored, samePaths_writeStored_accessed.ifpOut, hstore,
        writeStored_accessed_cw, hrefs, hinsts⟩
  case read =>
    intro s port p harrives hsteady hroom hcode hspace hgood
    have hexec : exec (.ifpRead port p) s = .next (ifpRead s port p) := onUnit_of_true (decide_eq_true harrives.1) _
    refine ⟨_, hexec.trans (congrArg Host.Outcome.next (ifpRead_of_served harrives hsteady hroom hcode hspace hgood)),
      emits_ifpResp (samePaths_linesTaken hgood) p 0 _, ?_, ?_, ?_, ?_⟩
    · rw [ifpResp_stackMem, linesTaken_stackMem]
    · rw [ifpResp_store, linesTaken_store]
    · rw [ifpResp_insts, linesTaken_insts]
    · rw [ifpResp_pot, linesTaken_objs]
  case atomic =>
    intro s port p v harrives hlen hsteady hroom hcode hreplay hspace halign hgood hv
    have hexec : exec (.ifpAtomic port p) s = .next (ifpAtomic s port p) := onUnit_of_true (decide_eq_true harrives.1) _
    have hmem := (ifpResp_stackMem (atomicRecorded (accessed s port p) p v) p 0 (leBytes 8 (wordAt s p).toNat)).trans
      (atomicRecorded_accessed_stackMem v)
    obtain ⟨hstore, hrefs, hinsts⟩ := ((keepsData_accessed s port p).trans (keepsData_atomicRecorded (v := v))).trans
      (keepsData_ifpResp _ p 0 (leBytes 8 (wordAt s p).toNat))
    refine ⟨_, hexec.trans (congrArg Host.Outcome.next
      (ifpAtomic_of_served harrives hlen hsteady hroom hcode hreplay hspace halign hgood hv)), wordAt_of_stackMem hmem, fun a ha => ?_, ?_,
      hstore, hrefs, hinsts⟩
    · rw [hmem]
      exact memByte_memWrite_out _ _ _ a (by rwa [length_leBytes])
    · refine emits_mono (emits_ifpResp (samePaths_atomicRecorded_accessed hgood) p 0 _) ?_
      rintro r ⟨htype, htag, hspec, hpayload⟩
      refine ⟨htype, htag, hspec, ?_⟩
      rw [hpayload, w64At_leBytes]
      rfl
  case refused =>
    intro s port c p harrives hsteady hroom hcode
    have hexec : exec (.ifpRead port p) s = .next (ifpRead s port p) := onUnit_of_true (decide_eq_true harrives.1) _
    have hrest := countCode_linkAcked_butWords (s := s) (port := port) c
    exact ⟨_, hexec.trans (congrArg Host.Outcome.next (ifpRead_of_refused harrives hsteady hroom hcode)),
      emits_ifpResp (samePaths_countCode _ c) p c [], (ifpResp_stackMem ..).trans (congrArg State.stackMem hrest :),
      (ifpResp_store ..).trans (congrArg State.store hrest :), (ifpResp_insts ..).trans (congrArg State.insts hrest :),
      (ifpResp_pot ..).trans (congrArg State.pot hrest :)⟩
  case badCrc =>
    intro s port p hport hcarries hcrc
    have hread : ifpRead s port p = incHold s (fpReg port 0x24) 16 1 := ifpAccess_of_badCrc hcarries hcrc ..
    have hwrite : ifpWrite s port p = incHold s (fpReg port 0x24) 16 1 := ifpAccess_of_badCrc hcarries hcrc ..
    have hatomic : ifpAtomic s port p = incHold s (fpReg port 0x24) 16 1 := ifpAccess_of_badCrc hcarries hcrc ..
    have hunit : ∀ u : State, onUnit (decide (port < 18)) u = .next u := onUnit_of_true (decide_eq_true hport)
    exact ⟨_, (hunit _).trans (congrArg Host.Outcome.next hread), (hunit _).trans (congrArg Host.Outcome.next hwrite),
      (hunit _).trans (congrArg Host.Outcome.next hatomic), incHold_only ..⟩
  case denied =>
    intro s port p hport hcarries htype hack hlen hbound hdest hcrc hworld
    have hdeny : ifpWrite s port p = incHold s (secReg 0x0C) 32 1 := by
      rw [ifpWrite, ifpAccess, ifpReceive_of_otherWorld _ _ hcarries hcrc htype hlen hbound hdest hworld]
      exact if_pos ⟨htype, hack⟩
    exact ⟨_, (onUnit_of_true (decide_eq_true hport) _).trans (congrArg Host.Outcome.next hdeny), incHold_only ..⟩

end Sys2Proof.Machine
end

section
/-! PROOF. O25: an answer releases the request it belongs to, and a request that is not answered is sent again once and then fails
(11 R273, R276); a peer whose pages are idle is read (09 R229). -/

namespace Sys2Proof.Machine

/-! ### READ_RESP (11 R273) -/

/-- The type of the mesh packet that answers a request. -/
def answerType : MeshType → MeshType
  | .read => .readResp
  | .write => .writeAck
  | _ => .atomicResp

/-- An answer without an error reaches the mesh request; that to a write, where the write asks for it. -/
theorem answerMesh_eq (s : State) {r : FabReq} {p : IfpPacket} {q : MeshPacket} (hsrc : r.src = some q) (hok : hSpec p % 256 = 0)
    (hack : q.type = .write → meshAck q = true) : ∃ k, Answers q k (answerType q.type) ∧ (q.type ≠ .write → k.payload = p.payload) ∧
      answerMesh s r p = { s with meshQ := s.meshQ ++ [k] } := by
  by_cases hwrite : q.type = .write
  · refine ⟨replyPacket s q (fabSrc r) .writeAck (zeros 40) [], ?_, fun h => absurd hwrite h, ?_⟩
    · rw [hwrite]
      exact answers_replyPacket ..
    · simp only [answerMesh, hsrc, hok, hwrite, meshWriteAck, hack hwrite]
      rfl
  · refine ⟨replyPacket s q (fabSrc r) (answerType q.type) (zeros 40) p.payload, answers_replyPacket .., fun _ => rfl, ?_⟩
    simp only [answerMesh, hsrc, hok]
    revert hwrite
    cases q.type <;> intro hwrite
    case write => exact absurd rfl hwrite
    all_goals rfl

theorem readResp_of_arrives {s : State} {port : Nat} {p : IfpPacket} {r : FabReq} (h : Arrives s port p ifpRespT)
    (hfind : (linkAcked s port).fab.reqs.find? (fun r => r.tag == hTag p && hDest r.pkt == hSrc p) = some r) :
    readResp s port p = answerMesh (dropReq (linkAcked s port) r.tag) r p := by
  rw [readResp, ifpReceive_of_arrives _ _ h, hfind]

theorem linkAcked_meshQ (s : State) (port : Nat) : (linkAcked s port).meshQ = s.meshQ :=
  (congrArg State.meshQ (butFabric_linkAcked s port) :)

/-! ### REQ_TMO_EXPIRY (11 R276) -/

section Expiry

variable {s : State} {tag : Nat} {r : FabReq} (hfind : s.fab.reqs.find? (fun r => r.tag == tag) = some r) (hsent : r.port.isSome = true)
include hfind

theorem tag_of_find : r.tag = tag := beq_iff_eq.mp (List.find?_some (p := fun r : FabReq => r.tag == tag) hfind)

include hsent

theorem reqTmo_of_first (hfirst : r.resent = false) : reqTmo s tag = resendReq s r (nextPort s r) true := by
  have hport : r.port.isNone = false := by rw [← Option.not_isSome, hsent]; rfl
  rw [reqTmo, hfind]
  dsimp only
  rw [hport, hfirst]
  rfl

theorem reqTmo_of_resent (hagain : r.resent = true) : reqTmo s tag = failReq (dropReq s tag) r 8 := by
  have hport : r.port.isNone = false := by rw [← Option.not_isSome, hsent]; rfl
  rw [reqTmo, hfind]
  dsimp only
  rw [hport, hagain]
  rfl

end Expiry

/-- A request fails: it is answered with the code, and nothing else changes. -/
theorem failReq_eq (s : State) {r : FabReq} {q : MeshPacket} (hsrc : r.src = some q) (code : Nat) :
    ∃ k, AnswersError q k code ∧ failReq s r code = { s with meshQ := s.meshQ ++ [k] } := by
  rw [failReq, hsrc]
  exact meshError_eq s q (fabSrc r) code

/-- The kept requests, of which those with a tag take another port. -/
def portMoved (s : State) (tag : Nat) (port : Option Nat) (again : Bool) : List FabReq :=
  s.fab.reqs.map (fun x => if x.tag = tag then { x with port := port, resent := again } else x)

theorem resendReq_of_some (s : State) (r : FabReq) (port : Nat) (again : Bool) :
    resendReq s r (some port) again = resent (flowSend (setReqs s (portMoved s r.tag (some port) again)) port r.pkt) 1 := rfl

theorem resendReq_of_none (s : State) (r : FabReq) (again : Bool) :
    resendReq s r none again = setReqs s (portMoved s r.tag none again) := rfl

/-! ### REMOTE_KEEPALIVE (09 R229) -/

/-- The peer's pages have been used, and two open choices taken. -/
def peerRead (s : State) (peer : Nat) : State := useFreeN 2 (peerUsed s peer)

/-- The read of 8 bytes of a page that the peer holds. -/
def keepaliveFields (s : State) (peer : Nat) : IfpFields :=
  { type := ifpReadT, vc := 3, dest := peer, gma := stackGma peer ((framesOn s peer).getD (Config.freeNat s.freeNo % (framesOn s peer).length) 0) 0
    stream := Config.freeNat (s.freeNo + 1) % 2 ^ 24, spec := 8 }

theorem keepalive_of_idle {s : State} {peer : Nat} {u : W64} (hread : mapFind s.pot.outReads peer = some u) (hpages : framesOn s peer ≠ [])
    (hidle : 100 * msCycles ≤ elapsed s u) (hroom : reqRoom s = true) :
    keepalive s peer = keepRequest (peerRead s peer) (keepaliveFields s peer) none := by
  have hempty : (framesOn s peer).isEmpty = false := List.isEmpty_eq_false_iff.mpr hpages
  rw [keepalive, hread]
  simp only [hempty, Nat.not_lt.mpr hidle, hroom]
  rfl

/-- The time of the peer's last access is now. -/
theorem peerUsed_of_some {s : State} {peer : Nat} {u : W64} (h : mapFind s.pot.outReads peer = some u) :
    peerUsed s peer = { s with pot := { s.pot with outReads := mapSet s.pot.outReads peer s.rackTime } } := by
  rw [peerUsed, h]
  rfl

theorem peerRead_eq {s : State} {peer : Nat} {u : W64} (h : mapFind s.pot.outReads peer = some u) :
    peerRead s peer = { s with freeNo := s.freeNo + 2, pot := { s.pot with outReads := mapSet s.pot.outReads peer s.rackTime } } := by
  rw [peerRead, peerUsed_of_some h]
  rfl

/-- What a request that is kept says, and what keeping it leaves. -/
theorem keepRequest_leaves (s : State) (f : IfpFields) (hdest : f.dest < 2 ^ 16) : ∃ r, (keepRequest s f none).fab.reqs = s.fab.reqs ++ [r] ∧
    hType r.pkt = f.type % 256 ∧ hDest r.pkt = f.dest ∧ hSpec r.pkt = f.spec % 65536 ∧ hVc r.pkt = f.vc % 4 ∧ r.src = none := by
  obtain ⟨r, hreqs, hsrc, hpkt⟩ := keepRequest_reqs s f none
  refine ⟨r, hreqs, ?_, ?_, ?_, ?_, hsrc⟩
  all_goals rw [hpkt]
  · exact hType_ifpPacket ..
  · exact hDest_keptPacket s f hdest
  · exact hSpec_ifpPacket ..
  · exact hVc_ifpPacket ..

/-- A peer whose pages are idle is read. -/
theorem keepalive_leaves {s : State} {peer : Nat} {u : W64} (hpeer : peer < 8192) (hread : mapFind s.pot.outReads peer = some u)
    (hpages : framesOn s peer ≠ []) (hidle : 100 * msCycles ≤ elapsed s u) (hroom : reqRoom s = true) :
    ∃ t r, exec (.remoteKeepalive peer) s = .next t ∧ t.fab.reqs = s.fab.reqs ++ [r] ∧ hType r.pkt = ifpReadT ∧ hDest r.pkt = peer ∧
      hSpec r.pkt = 8 ∧ hVc r.pkt = 3 ∧ r.src = none ∧ mapFind t.pot.outReads peer = some s.rackTime ∧ t.pot.objs = s.pot.objs ∧ t.cw = s.cw := by
  obtain ⟨r, hreqs, htype, hdest, hspec, hvc, hsrc⟩ := keepRequest_leaves (peerRead s peer) (keepaliveFields s peer)
    (show peer < 2 ^ 16 from hpeer.trans (by decide))
  have hrest := butFabric_keepRequest (peerRead s peer) (keepaliveFields s peer) none
  have hpot : (keepRequest (peerRead s peer) (keepaliveFields s peer) none).pot = (peerRead s peer).pot := (congrArg State.pot hrest :)
  have hcw : (keepRequest (peerRead s peer) (keepaliveFields s peer) none).cw = (peerRead s peer).cw := (congrArg State.cw hrest :)
  have heq := peerRead_eq hread
  refine ⟨_, r, congrArg Host.Outcome.next (keepalive_of_idle hread hpages hidle hroom), ?_, htype, hdest, hspec, hvc, hsrc, ?_, ?_, ?_⟩
  · rw [hreqs, heq]
  · rw [hpot, heq]
    exact mapFind_mapSet_same ..
  · rw [hpot, heq]
  · rw [hcw, heq]

/-! ### What an answer, and the lack of one, leave -/

/-- An answer releases its request and reaches the mesh request. -/
theorem readResp_leaves {s : State} {port : Nat} {p : IfpPacket} {r : FabReq} {q : MeshPacket} (h : Arrives s port p ifpRespT)
    (hfind : (linkAcked s port).fab.reqs.find? (fun r => r.tag == hTag p && hDest r.pkt == hSrc p) = some r) (hsrc : r.src = some q)
    (hok : hSpec p % 256 = 0) (hack : q.type = .write → meshAck q = true) :
    ∃ t k, exec (.readResp port p) s = .next t ∧ t.fab.reqs = (linkAcked s port).fab.reqs.filter (fun x => x.tag != r.tag) ∧
      t.meshQ = s.meshQ ++ [k] ∧ Answers q k (answerType q.type) ∧ (q.type ≠ .write → k.payload = p.payload) ∧
      t = { linkAcked s port with fab := { (linkAcked s port).fab with reqs := t.fab.reqs }, meshQ := t.meshQ } := by
  obtain ⟨k, hanswer, hpayload, heq⟩ := answerMesh_eq (dropReq (linkAcked s port) r.tag) (p := p) hsrc hok hack
  have hexec : exec (.readResp port p) s = .next (readResp s port p) := onUnit_of_true (decide_eq_true h.1) _
  rw [readResp_of_arrives h hfind, heq] at hexec
  exact ⟨_, k, hexec, rfl, congrArg (· ++ [k]) (linkAcked_meshQ s port), hanswer, hpayload, rfl⟩

/-- A request that no answer has come for is sent again. -/
theorem reqTmo_resends {s : State} {tag : Nat} {r : FabReq} (hfind : s.fab.reqs.find? (fun r => r.tag == tag) = some r)
    (hsent : r.port.isSome = true) (hfirst : r.resent = false) :
    ∃ t, exec (.reqTmoExpiry tag) s = .next t ∧ t.fab.reqs = portMoved s tag (nextPort s r) true ∧
      (∀ q, nextPort s r = some q → t.ifpOut = (q, r.pkt) :: s.ifpOut ∧
        rd t (ldReg 0x2C) = BitVec.ofNat 32 (Nat.min ((rd s (ldReg 0x2C)).toNat + 1) 0xFFFFFFFF)) ∧
      (nextPort s r = none → t.ifpOut = s.ifpOut) ∧ SameWords [ldReg 0x2C] s t := by
  have hexec : exec (.reqTmoExpiry tag) s = .next (reqTmo s tag) := rfl
  rw [reqTmo_of_first hfind hsent hfirst] at hexec
  cases hport : nextPort s r with
  | some q =>
    rw [hport, resendReq_of_some, tag_of_find hfind] at hexec
    refine ⟨_, hexec, rfl, fun q' hq' => ?_, nofun, fun o ho => ?_⟩
    · cases hq'
      exact ⟨rfl, rd_incHold_same ..⟩
    · exact rd_incHold_ne _ 32 1 fun h => ho (List.mem_singleton.mpr h)
  | none =>
    rw [hport, resendReq_of_none, tag_of_find hfind] at hexec
    exact ⟨_, hexec, rfl, nofun, fun _ => rfl, fun _ _ => rfl⟩

/-- One that has been sent again fails. -/
theorem reqTmo_fails {s : State} {tag : Nat} {r : FabReq} {q : MeshPacket} (hfind : s.fab.reqs.find? (fun r => r.tag == tag) = some r)
    (hsent : r.port.isSome = true) (hagain : r.resent = true) (hsrc : r.src = some q) :
    ∃ t k, exec (.reqTmoExpiry tag) s = .next t ∧ t.fab.reqs = s.fab.reqs.filter (fun x => x.tag != tag) ∧ t.meshQ = s.meshQ ++ [k] ∧
      k.type = .errorResp ∧ k.tag = q.tag ∧ leAt k.arg 0 1 = 8 ∧ t = { s with fab := { s.fab with reqs := t.fab.reqs }, meshQ := t.meshQ } := by
  obtain ⟨k, hanswer, heq⟩ := failReq_eq (dropReq s tag) hsrc 8
  have hexec : exec (.reqTmoExpiry tag) s = .next (reqTmo s tag) := rfl
  rw [reqTmo_of_resent hfind hsent hagain, heq] at hexec
  exact ⟨_, k, hexec, rfl, rfl, hanswer.type, hanswer.tag, hanswer.code, rfl⟩

end Sys2Proof.Machine
end

section
/-! PROOF. O25: where no plane is ACTIVE, what waits for a path fails (10 R239). -/

namespace Sys2Proof.Machine

/-! ### Requests that wait -/

/-- A request that waits fails with code 0x0A. -/
def failUnsent (s : State) (r : FabReq) : State := failReq (dropReq s r.tag) r 0x0A

/-- Blanks the kept requests and the packets of the mesh. -/
def butAsked (s : State) : State := { s with meshQ := [], fab := { s.fab with reqs := [] } }

/-- An answer to the mesh request of `r` with code 0x0A is among the packets of the mesh. -/
def NoPathAnswered (s : State) (r : FabReq) : Prop :=
  ∀ q, r.src = some q → ∃ k ∈ s.meshQ, k.type = .errorResp ∧ k.tag = q.tag ∧ leAt k.arg 0 1 = 0x0A

section FailUnsent

variable (s : State) (r : FabReq)

theorem butAsked_failUnsent : butAsked (failUnsent s r) = butAsked s := by
  unfold failUnsent failReq
  split <;> rfl

theorem failUnsent_reqs : (failUnsent s r).fab.reqs = s.fab.reqs.filter (fun x => x.tag != r.tag) := by
  unfold failUnsent failReq
  split <;> rfl

theorem meshQ_subset_failUnsent : s.meshQ ⊆ (failUnsent s r).meshQ := by
  unfold failUnsent failReq
  split
  · exact List.subset_append_left ..
  · exact List.Subset.refl _

theorem noPathAnswered_failUnsent : NoPathAnswered (failUnsent s r) r := by
  intro q hsrc
  obtain ⟨k, hanswer, heq⟩ := failReq_eq (dropReq s r.tag) hsrc 0x0A
  rw [failUnsent, heq]
  exact ⟨k, List.mem_append_right _ (List.mem_singleton_self k), hanswer.type, hanswer.tag, hanswer.code⟩

end FailUnsent

/-- Each of a list of waiting requests fails. -/
def failUnsents (s : State) (rs : List FabReq) : State := rs.foldl failUnsent s

section FailUnsents

variable {s : State} {rs : List FabReq}

theorem butAsked_failUnsents : butAsked (failUnsents s rs) = butAsked s := foldl_view (fun r _ u => butAsked_failUnsent u r) s

/-- Only requests with other tags are kept still. -/
theorem mem_reqs_failUnsents {x : FabReq} (h : x ∈ (failUnsents s rs).fab.reqs) : x ∈ s.fab.reqs ∧ ∀ r ∈ rs, x.tag ≠ r.tag := by
  induction rs generalizing s with
  | nil => exact ⟨h, nofun⟩
  | cons r rs ih =>
    obtain ⟨hmem, hothers⟩ := ih (s := failUnsent s r) h
    rw [failUnsent_reqs, List.mem_filter, bne_iff_ne] at hmem
    exact ⟨hmem.1, List.forall_mem_cons.mpr ⟨hmem.2, hothers⟩⟩

theorem meshQ_subset_failUnsents : s.meshQ ⊆ (failUnsents s rs).meshQ := by
  induction rs generalizing s with
  | nil => exact List.Subset.refl _
  | cons r rs ih => exact List.Subset.trans (meshQ_subset_failUnsent s r) ih

theorem noPathAnswered_failUnsents {r : FabReq} (hr : r ∈ rs) : NoPathAnswered (failUnsents s rs) r := by
  induction rs generalizing s with
  | nil => cases hr
  | cons r' rs ih =>
    rcases List.mem_cons.mp hr with rfl | hr
    · intro q hsrc
      obtain ⟨k, hk, hsays⟩ := noPathAnswered_failUnsent s r q hsrc
      exact ⟨k, meshQ_subset_failUnsents (s := failUnsent s r) hk, hsays⟩
    · exact ih hr

end FailUnsents

/-- The requests that wait for a path. -/
def unsent (s : State) : List FabReq := s.fab.reqs.filter (fun r => r.port.isNone)

theorem mem_unsent {s : State} {r : FabReq} : r ∈ unsent s ↔ r ∈ s.fab.reqs ∧ r.port = none := by
  rw [unsent, List.mem_filter, Option.isNone_iff_eq_none]

theorem port_ne_none_of_mem_failUnsents {s : State} {x : FabReq} (h : x ∈ (failUnsents s (unsent s)).fab.reqs) : x.port ≠ none := by
  obtain ⟨hmem, hothers⟩ := mem_reqs_failUnsents h
  exact fun hport => hothers x (mem_unsent.mpr ⟨hmem, hport⟩) rfl

/-- Packets that still have a path go on waiting. -/
def keepWaits (s : State) : State :=
  { s with fab := { s.fab with waits := s.fab.waits.filter (fun w => (flowPort s (hDest w) (hStream w)).isSome) } }

theorem flowPort_of_butAsked {s t : State} (h : butAsked t = butAsked s) (dest stream : Nat) : flowPort t dest stream = flowPort s dest stream :=
  (congrArg (flowPort · dest stream) h :)

theorem keepWaits_waits {s t : State} (h : butAsked t = butAsked s) :
    (keepWaits t).fab.waits = s.fab.waits.filter (fun w => (flowPort s (hDest w) (hStream w)).isSome) := by
  have hwaits : t.fab.waits = s.fab.waits := (congrArg (fun u : State => u.fab.waits) h :)
  have hport : flowPort t = flowPort s := funext₂ (flowPort_of_butAsked h)
  rw [← hwaits, ← hport]
  rfl

/-! ### Operations with segments that wait (11 R268) -/

/-- An operation in flight with segments that have no path fails. -/
def failStuck (s : State) (o : LOp) : State :=
  if o.done then s else
  match stuckRank s o with
  | some r => failOp s o r 6
  | none => s

/-- What says whether an operation is stuck, and the packets that wait. -/
def pathState (s : State) : Fabric × List MeshPacket × SMap Group × SMap W32 × W64 := (s.fab, s.meshQ, s.ladle.groups, s.cw, s.rackTime)

theorem pathState_failOp (s : State) (o : LOp) (rank cause : Nat) : pathState (failOp s o rank cause) = pathState s := by
  unfold failOp
  dsimp only
  split
  · unfold finishErr finish
    split
    · exact (congrArg pathState (post_butReply ..) :)
    · rfl
  · rfl

theorem failOp_ops (s : State) (o : LOp) (rank cause : Nat) :
    (failOp s o rank cause).ladle.ops = s.ladle.ops.filter (fun x => !(x.group == o.group && x.opId == o.opId)) := by
  unfold failOp
  dsimp only
  split
  · unfold finishErr finish
    split
    · rw [post_ladle]
      rfl
    · rfl
  · rfl

theorem stuckRank_of_pathState {s t : State} (h : pathState t = pathState s) (o : LOp) : stuckRank t o = stuckRank s o := by
  obtain ⟨hfab, -, hgroups, hcw, htime⟩ : t.fab = s.fab ∧ t.meshQ = s.meshQ ∧ t.ladle.groups = s.ladle.groups ∧ t.cw = s.cw ∧ t.rackTime = s.rackTime := by
    simpa [pathState] using h
  calc stuckRank t o
    _ = stuckRank { s with fab := t.fab, cw := t.cw, rackTime := t.rackTime, ladle := { s.ladle with groups := t.ladle.groups } } o := rfl
    _ = stuckRank s o := by rw [hfab, hcw, htime, hgroups]

theorem stuckRank_of_butAsked {s t : State} (h : butAsked t = butAsked s) (o : LOp) : stuckRank t o = stuckRank s o :=
  (congrArg (stuckRank · o) h :)

theorem stuckRank_keepWaits (s : State) (o : LOp) : stuckRank (keepWaits s) o = stuckRank s o := rfl

section FailStuck

variable (s : State) (o : LOp)

theorem pathState_failStuck : pathState (failStuck s o) = pathState s := by
  unfold failStuck
  split
  · rfl
  · split
    · exact pathState_failOp ..
    · rfl

theorem failStuck_ops_subset : (failStuck s o).ladle.ops ⊆ s.ladle.ops := by
  unfold failStuck
  split
  · exact List.Subset.refl _
  · split
    · rw [failOp_ops]
      exact List.filter_subset_self _
    · exact List.Subset.refl _

/-- An operation that is stuck is gone. -/
theorem gone_failStuck (hdone : o.done = false) (hstuck : stuckRank s o ≠ none) :
    ∀ x ∈ (failStuck s o).ladle.ops, ¬(x.group = o.group ∧ x.opId = o.opId) := by
  obtain ⟨r, hr⟩ := Option.ne_none_iff_exists'.mp hstuck
  intro x hx
  rw [failStuck, hdone, hr] at hx
  have hx : x ∈ (failOp s o r 6).ladle.ops := hx
  rw [failOp_ops, List.mem_filter] at hx
  rintro ⟨hgroup, hid⟩
  simp [hgroup, hid] at hx

end FailStuck

/-- Each of a list of operations that is stuck fails. -/
def failStucks (s : State) (os : List LOp) : State := os.foldl failStuck s

theorem pathState_failStucks (s : State) (os : List LOp) : pathState (failStucks s os) = pathState s :=
  foldl_view (fun o _ u => pathState_failStuck u o) s

theorem failStucks_ops_subset (s : State) (os : List LOp) : (failStucks s os).ladle.ops ⊆ s.ladle.ops := by
  induction os generalizing s with
  | nil => exact List.Subset.refl _
  | cons o os ih => exact List.Subset.trans (ih (failStuck s o)) (failStuck_ops_subset s o)

theorem gone_failStucks {s u : State} (h : pathState u = pathState s) {os : List LOp} {o : LOp} (ho : o ∈ os) (hdone : o.done = false)
    (hstuck : stuckRank s o ≠ none) : ∀ x ∈ (failStucks u os).ladle.ops, ¬(x.group = o.group ∧ x.opId = o.opId) := by
  induction os generalizing u with
  | nil => cases ho
  | cons o' os ih =>
    rcases List.mem_cons.mp ho with rfl | ho
    · intro x hx
      rw [← stuckRank_of_pathState h] at hstuck
      exact gone_failStuck u o hdone hstuck x (failStucks_ops_subset (failStuck u o) os hx)
    · exact ih ((pathState_failStuck u o').trans h) ho

/-! ### PLANE_WAIT_TIMEOUT (10 R239) -/

theorem planeWait_of_active {s : State} (h : planeList s ≠ []) : planeWait s = s := by
  have hempty : (planeList s).isEmpty = false := List.isEmpty_eq_false_iff.mpr h
  rw [planeWait, hempty]
  rfl

theorem planeWait_of_none {s : State} (h : planeList s = []) :
    planeWait s = failStucks (keepWaits (failUnsents s (unsent s))) s.ladle.ops := by
  have hops : (keepWaits (failUnsents s (unsent s))).ladle.ops = s.ladle.ops :=
    (congrArg (fun u : State => u.ladle.ops) (butAsked_failUnsents (s := s) (rs := unsent s)) :)
  rw [planeWait, h, ← hops]
  rfl

/-- What is left where no plane is ACTIVE. -/
theorem planeWait_leaves {s : State} (h : planeList s = []) : ∃ t, exec .planeWaitTimeout s = .next t ∧
    t.fab.waits = s.fab.waits.filter (fun w => (flowPort s (hDest w) (hStream w)).isSome) ∧ (∀ r ∈ t.fab.reqs, r.port ≠ none) ∧
    (∀ r ∈ s.fab.reqs, r.port = none → NoPathAnswered t r) ∧
    (∀ o ∈ s.ladle.ops, o.done = false → stuckRank s o ≠ none → ∀ x ∈ t.ladle.ops, ¬(x.group = o.group ∧ x.opId = o.opId)) := by
  have hasked := butAsked_failUnsents (s := s) (rs := unsent s)
  have hpath := pathState_failStucks (keepWaits (failUnsents s (unsent s))) s.ladle.ops
  have hfab := congrArg Prod.fst hpath
  have hmesh : (failStucks (keepWaits (failUnsents s (unsent s))) s.ladle.ops).meshQ = (failUnsents s (unsent s)).meshQ :=
    congrArg (fun x => x.2.1) hpath
  refine ⟨_, congrArg Host.Outcome.next (planeWait_of_none h), ?_, fun r hr => ?_, fun r hr hport q hsrc => ?_, fun o ho hdone hstuck => ?_⟩
  · exact (congrArg Fabric.waits hfab :).trans (keepWaits_waits hasked)
  · rw [show (failStucks _ _).fab.reqs = _ from (congrArg Fabric.reqs hfab :)] at hr
    exact port_ne_none_of_mem_failUnsents hr
  · rw [hmesh]
    exact noPathAnswered_failUnsents (mem_unsent.mpr ⟨hr, hport⟩) q hsrc
  · have hrank : stuckRank (keepWaits (failUnsents s (unsent s))) o ≠ none := by
      rwa [stuckRank_keepWaits, stuckRank_of_butAsked hasked]
    exact gone_failStucks rfl ho hdone hrank

end Sys2Proof.Machine
end

section
/-! PROOF. O25: a path that a notice names is excluded, and what it carried is moved (11 R274, R275); the whole statement. -/

namespace Sys2Proof.Machine

/-! ### What moving flows may change -/

/-- Blanks the words, what has gone out or waits to, and Ladle; of the fabric's state, only the excluded paths are kept. -/
def butMoved (s : State) : State := { s with cw := [], fab := { excluded := s.fab.excluded }, ifpOut := [], meshQ := [], ladle := {} }

/-- Nothing changes but that, and no word but `LD_TAKEOVERS` and `LD_RESENDS`. -/
structure MovesFlows (s t : State) : Prop where
  rest  : butMoved t = butMoved s
  words : ∀ o, o ≠ ldReg 0x28 → o ≠ ldReg 0x2C → rd t o = rd s o

theorem MovesFlows.refl (s : State) : MovesFlows s s := ⟨rfl, fun _ _ _ => rfl⟩

theorem MovesFlows.trans {s t u : State} (h : MovesFlows s t) (k : MovesFlows t u) : MovesFlows s u :=
  ⟨k.rest.trans h.rest, fun o ht hr => (k.words o ht hr).trans (h.words o ht hr)⟩

/-- A step that leaves the words as they are. -/
theorem movesFlows_of_cw {s t : State} (hrest : butMoved t = butMoved s) (hcw : t.cw = s.cw) : MovesFlows s t :=
  ⟨hrest, fun o _ _ => rd_of_cw hcw o⟩

theorem MovesFlows.foldl {α : Type} {f : State → α → State} (hstep : ∀ s a, MovesFlows s (f s a)) (l : List α) (s : State) :
    MovesFlows s (l.foldl f s) := by
  induction l generalizing s with
  | nil => exact .refl s
  | cons a l ih => exact (hstep s a).trans (ih (f s a))

section Steps

variable (s : State)

theorem movesFlows_resent (n : Nat) : MovesFlows s (resent s n) := ⟨rfl, fun _ _ hr => rd_incHold_ne s 32 n hr⟩
theorem movesFlows_flowSend (port : Nat) (p : IfpPacket) : MovesFlows s (flowSend s port p) := movesFlows_of_cw rfl rfl
theorem movesFlows_setReqs (l : List FabReq) : MovesFlows s (setReqs s l) := movesFlows_of_cw rfl rfl
theorem movesFlows_modSend (g : Nat) (id : W32) (phase block target : Nat) (f : Sending → Sending) :
    MovesFlows s (modSend s g id phase block target f) := movesFlows_of_cw rfl rfl

theorem movesFlows_ifpPost (f : IfpFields) : MovesFlows s (ifpPost s f) := by
  unfold ifpPost
  dsimp only
  split
  · exact movesFlows_flowSend s _ _
  · exact movesFlows_of_cw rfl rfl

theorem movesFlows_failReq (r : FabReq) (code : Nat) : MovesFlows s (failReq s r code) := by
  unfold failReq
  split
  · exact movesFlows_of_cw rfl rfl
  · exact .refl s

theorem movesFlows_resendReq (r : FabReq) (port : Option Nat) (again : Bool) : MovesFlows s (resendReq s r port again) := by
  cases port with
  | some p =>
    rw [resendReq_of_some]
    exact ((movesFlows_setReqs s _).trans (movesFlows_flowSend _ p r.pkt)).trans (movesFlows_resent _ 1)
  | none => exact movesFlows_setReqs s _

theorem movesFlows_moveReq (r : FabReq) : MovesFlows s (moveReq s r) := by
  unfold moveReq
  split
  · exact (movesFlows_setReqs s _).trans (movesFlows_failReq _ r 7)
  · exact movesFlows_resendReq ..

/-! ### What waits goes out -/

theorem movesFlows_sendWaiting (r : FabReq) : MovesFlows s (sendWaiting s r) := by
  unfold sendWaiting
  split
  · exact (movesFlows_setReqs s _).trans (movesFlows_flowSend ..)
  · exact .refl s

theorem movesFlows_sendWait (w : IfpPacket) : MovesFlows s (sendWait s w) := by
  unfold sendWait
  split
  · exact movesFlows_of_cw rfl rfl
  · exact .refl s

theorem movesFlows_flushWaits : MovesFlows s (flushWaits s) :=
  (MovesFlows.foldl movesFlows_sendWaiting _ s).trans (MovesFlows.foldl movesFlows_sendWait _ _)

/-! ### Ladle's flows -/

theorem movesFlows_sendSeg (o : LOp) (g : Group) (x : Sending) (seg : Nat) : MovesFlows s (sendSeg s o g x seg) := by
  unfold sendSeg
  split
  · exact movesFlows_ifpPost ..
  · exact .refl s

theorem movesFlows_resendSegs (o : LOp) (g : Group) (x : Sending) : MovesFlows s (resendSegs s o g x) := by
  refine .trans ?_ (movesFlows_resent _ _)
  split
  · exact movesFlows_ifpPost ..
  · exact MovesFlows.foldl (fun u i => movesFlows_sendSeg u o g x _) _ s

theorem movesFlows_moveSend (o : LOp) (g : Group) (x : Sending) : MovesFlows s (moveSend s o g x) := by
  unfold moveSend
  split
  · exact movesFlows_resendSegs ..
  · exact movesFlows_modSend ..

theorem movesFlows_moveLadle (lost : Nat → Nat → Bool) : MovesFlows s (moveLadle lost s) := by
  refine MovesFlows.foldl (fun u o => ?_) _ s
  dsimp only
  split
  · exact .refl u
  · rename_i g _
    have hsends : ∀ v : State, MovesFlows v (o.sends.foldl (fun s x =>
        if unanswered x && lost (g.ids.getD x.target 0) g.stream then moveSend s o g x else s) v) :=
      MovesFlows.foldl (fun v x => by
        split
        · exact movesFlows_moveSend ..
        · exact .refl v) _
    split
    · exact (hsends u).trans (movesFlows_ifpPost ..)
    · exact hsends u

theorem movesFlows_moveFlows (old : State) (lost : Nat → Nat → Bool) : MovesFlows s (moveFlows old lost s) := by
  have hcount : ∀ n, MovesFlows s (incHold s (ldReg 0x28) 32 n) := fun n => ⟨rfl, fun _ ht _ => rd_incHold_ne s 32 n ht⟩
  exact (((hcount _).trans (MovesFlows.foldl movesFlows_moveReq _ _)).trans (movesFlows_moveLadle _ _)).trans (movesFlows_flushWaits _)

end Steps

/-! ### FAULT_NOTICE_PATH (11 R275) -/

/-- The notice has come in, and `LD_NOTICES` has counted it. -/
def noticed (s : State) (port : Nat) : State := incHold (linkAcked s port) (ldReg 0x58) 32 1

/-- The path that a notice names is excluded in the current epoch. -/
def pathExcluded (s : State) (p : IfpPacket) : State :=
  { s with fab := { s.fab with
      excluded := ((pathDests p).1, (pathDests p).2, leAt p.payload 4 1, faultEpoch s) :: s.fab.excluded } }

theorem rd_noticed (s : State) (port : Nat) :
    rd (noticed s port) (ldReg 0x58) = BitVec.ofNat 32 (Nat.min ((rd s (ldReg 0x58)).toNat + 1) 0xFFFFFFFF) := by
  have hcw : (linkAcked s port).cw = s.cw := (congrArg State.cw (butFabric_linkAcked s port) :)
  rw [noticed, rd_incHold_same, rd_of_cw hcw]
  rfl

theorem rd_pathExcluded (s : State) (p : IfpPacket) (o : Nat) : rd (pathExcluded s p) o = rd s o := rfl

theorem movesFlows_pathNotice (s : State) (p : IfpPacket) : MovesFlows (pathExcluded s p) (pathNotice s p) := movesFlows_moveFlows ..

theorem faultNoticePath_of_arrives {s : State} {port : Nat} {p : IfpPacket} (h : Arrives s port p ifpNoticeT) (hlen : p.payload.length = 32)
    (hkind : leAt p.payload 0 1 = 1) (hcause : nCause p = 3) : faultNoticePath s port p = pathNotice (noticed s port) p := by
  rw [faultNoticePath, noticeIn, ifpReceive_of_arrives _ _ h, if_pos ⟨hkind, hlen⟩, if_pos hcause]
  rfl

theorem MovesFlows.faultEpoch {s t : State} (h : MovesFlows s t) : faultEpoch t = faultEpoch s := by
  have htime : t.rackTime = s.rackTime := (congrArg State.rackTime h.rest :)
  rw [Machine.faultEpoch, Machine.faultEpoch, epochCycles, epochCycles, htime, rdF, h.words _ (by decide) (by decide), rdF]

/-- An excluded path of the current epoch is one that no flow to its destinations takes. -/
theorem planeExcluded_of_mem {s : State} {lo hi dest plane : Nat} (h : (lo, hi, plane, faultEpoch s) ∈ s.fab.excluded) (hlo : lo ≤ dest)
    (hhi : dest ≤ hi) : planeExcluded s dest plane = true :=
  List.any_eq_true.mpr ⟨_, h, by simp [hlo, hhi]⟩

theorem pathDests_of_part {p : IfpPacket} (h : leAt p.payload 1 1 ≠ 3) :
    pathDests p = (leAt p.payload 2 2 % 0x2000, leAt p.payload 2 2 % 0x2000) := if_neg h

/-- The notice is counted, and its path excluded; instances and memory are as before. -/
theorem pathNotice_leaves {s : State} {port : Nat} {p : IfpPacket} (h : Arrives s port p ifpNoticeT) (hlen : p.payload.length = 32)
    (hkind : leAt p.payload 0 1 = 1) (hcause : nCause p = 3) (hpart : leAt p.payload 1 1 ≠ 3) :
    ∃ t, exec (.faultNoticePath port p) s = .next t ∧ planeExcluded t (leAt p.payload 2 2 % 0x2000) (leAt p.payload 4 1) = true ∧
      rd t (ldReg 0x58) = BitVec.ofNat 32 (Nat.min ((rd s (ldReg 0x58)).toNat + 1) 0xFFFFFFFF) ∧ t.insts = s.insts ∧
      t.stackMem = s.stackMem ∧ t.store = s.store := by
  have hexec : exec (.faultNoticePath port p) s = .next (faultNoticePath s port p) := onUnit_of_true (decide_eq_true h.1) _
  rw [faultNoticePath_of_arrives h hlen hkind hcause] at hexec
  have hmoves := movesFlows_pathNotice (noticed s port) p
  have hacked := butFabric_linkAcked s port
  refine ⟨_, hexec, planeExcluded_of_mem ?_ (Nat.le_refl _) (Nat.le_refl _), ?_, ?_, ?_, ?_⟩
  · rw [hmoves.faultEpoch, show (pathNotice (noticed s port) p).fab.excluded = (pathExcluded (noticed s port) p).fab.excluded from
      (congrArg (fun u : State => u.fab.excluded) hmoves.rest :), pathExcluded, pathDests_of_part hpart]
    exact List.mem_cons_self
  · rw [hmoves.words _ (by decide) (by decide), rd_pathExcluded, rd_noticed]
  · exact (congrArg State.insts hmoves.rest :).trans (congrArg State.insts hacked :)
  · exact (congrArg State.stackMem hmoves.rest :).trans (congrArg State.stackMem hacked :)
  · exact (congrArg State.store hmoves.rest :).trans (congrArg State.store hacked :)

/-- Settles O25, by what each of the five events leaves. -/
theorem keptRequests : Obligations.KeptRequests := by
  unfold Obligations.KeptRequests
  refine ⟨?answer, ?again, ?gone, ?noPlane, ?plane, ?idle, ?notice⟩
  case answer =>
    intro s port p r q harrives hfind hsrc hok hack
    obtain ⟨t, k, hexec, hreqs, hmesh, hanswer, hpayload, hrest⟩ := readResp_leaves harrives hfind hsrc hok hack
    refine ⟨t, k, hexec, hreqs, hmesh, hanswer.dest, hanswer.tag, hanswer.vc, hpayload, hanswer.type.trans ?_, hrest⟩
    cases q.type <;> rfl
  case again => exact fun s tag r hfind hsent hfirst => reqTmo_resends hfind hsent hfirst
  case gone => exact fun s tag r q hfind hsent hagain hsrc => reqTmo_fails hfind hsent hagain hsrc
  case noPlane => exact fun s hnone => planeWait_leaves hnone
  case plane => exact fun s hactive => congrArg Host.Outcome.next (planeWait_of_active hactive)
  case idle => exact fun s peer u hpeer hread hpages hidle hroom => keepalive_leaves hpeer hread hpages hidle hroom
  case notice => exact fun s port p harrives hlen hkind hcause hpart => pathNotice_leaves harrives hlen hkind hcause hpart

end Sys2Proof.Machine
end

section
/-! SUPPORT. Words that read the same, and the state of a fabric port: what a write of a port's word or of what the part holds beside it leaves
of that port and of the others (10 Table 10.7, Table 10.13). -/

namespace Sys2Proof

open Machine

/-! ### Words that read the same -/

section SameWords

variable {os ps : List Nat} {s t u : State}

theorem SameWords.refl (s : State) : SameWords os s s := fun _ _ => rfl

theorem SameWords.trans (h : SameWords os s t) (k : SameWords os t u) : SameWords os s u := fun p hp => (k p hp).trans (h p hp)

theorem SameWords.mono (h : SameWords os s t) (hsub : os ⊆ ps) : SameWords ps s t := fun p hp => h p (fun ho => hp (hsub ho))

theorem SameWords.of_cw (h : t.cw = s.cw) : SameWords os s t := fun p _ => rd_of_cw h p

theorem SameWords.rdF (h : SameWords os s t) {p : Nat} (hp : p ∉ os) (hi lo : Nat) : rdF t p hi lo = rdF s p hi lo :=
  congrArg (fld · hi lo) (h p hp)

theorem SameWords.rbit (h : SameWords os s t) {p : Nat} (hp : p ∉ os) (i : Nat) : rbit t p i = rbit s p i :=
  congrArg (· == 1) (h.rdF hp i i)

/-- A write of a listed word; a field, a flag and a counter are written so. -/
theorem sameWords_wr (s : State) {o : Nat} (v : W32) (h : o ∈ os) : SameWords os s (wr s o v) :=
  fun _ hp => rd_wr_ne s v (fun e => hp (e ▸ h))

end SameWords

namespace Machine

/-! ### The words of a port's block -/

@[simp] theorem fpReg_inj {p a b : Nat} : fpReg p a = fpReg p b ↔ a = b := by unfold fpReg; omega

@[simp] theorem fabReg_inj {a b : Nat} : fabReg a = fabReg b ↔ a = b := by unfold fabReg; omega

theorem fpReg_ne_fpReg {p q a b : Nat} (hp : p < 18) (hq : q < 18) (h : q ≠ p) (ha : a < 0x40) (hb : b < 0x40) : fpReg q a ≠ fpReg p b := by
  unfold fpReg; omega

theorem fabReg_ne_fpReg {p a b : Nat} (ha : a < 0x100000) : fabReg a ≠ fpReg p b := by unfold fabReg fpReg; omega

theorem fpReg_ne_fabReg {p a b : Nat} (hb : b < 0x100000) : fpReg p a ≠ fabReg b := (fabReg_ne_fpReg hb).symm

/-! ### What the part holds of a port -/

section Ports

variable (s : State) (p : Nat)

@[simp] theorem portAt_setPort_same (x : PortSt) : portAt (setPort s p x) p = x := mapGet_mapPut_same ..

@[simp] theorem portAt_modPort_same (f : PortSt → PortSt) : portAt (modPort s p f) p = f (portAt s p) := portAt_setPort_same ..

@[simp] theorem portState_modPort (f : PortSt → PortSt) (q : Nat) : portState (modPort s p f) q = portState s q := rfl

theorem portAt_of_fab {s t : State} (h : t.fab = s.fab) (p : Nat) : portAt t p = portAt s p := by unfold portAt; rw [h]

theorem portState_of_cw {s t : State} (h : t.cw = s.cw) (p : Nat) : portState t p = portState s p := rdF_of_cw h ..

/-- The state of a port is a field of its own, below REASON and PLANE. -/
theorem portState_setState_same {v : Nat} (hv : v < 8) : portState (setState s p v) p = v :=
  (rdF_wrF_same s _ v (by decide) (by decide)).trans (Nat.mod_eq_of_lt hv)

theorem portState_wrF_above {hi lo : Nat} (v : Nat) (hlo : 2 < lo) (hle : lo ≤ hi) (hhi : hi < 32) :
    portState (wrF s (fpReg p 0) hi lo v) p = portState s p := rdF_wrF_other s _ v hhi hle (by decide) (.inl hlo)

variable {s p}

/-- Words of one port's block leave the state of every other port. -/
theorem portState_of_sameWords {t : State} {os : List Nat} (h : SameWords os s t) (hp : p < 18) (hos : ∀ o ∈ os, ∃ a < 0x40, o = fpReg p a)
    {q : Nat} (hq : q < 18) (hne : q ≠ p) : portState t q = portState s q :=
  h.rdF (fun ho => by obtain ⟨a, ha, he⟩ := hos _ ho; exact fpReg_ne_fpReg hp hq hne (by decide) ha he) 2 0

theorem portState_of_sameWords_state {t : State} (h : SameWords [fpReg p 0] s t) (hp : p < 18) {q : Nat} (hq : q < 18) (hne : q ≠ p) :
    portState t q = portState s q :=
  portState_of_sameWords h hp (fun o ho => ⟨0, by decide, List.mem_singleton.mp ho⟩) hq hne

theorem partId_of_sameWords {t : State} {os : List Nat} (h : SameWords os s t) (hos : fabReg 4 ∉ os) : partId t = partId s := h.rdF hos 12 0

/-- A port that carries no traffic has no flow to move. -/
theorem leaveActive_of_not_carries (h : portCarries s p = false) (v : Nat) : leaveActive s p v = setState s p v :=
  if_neg (by rw [h]; exact Bool.false_ne_true)

theorem portCarries_of_state {v : Nat} (h : portState s p = v) : portCarries s p = (v == fpActive || v == fpDraining) := by
  rw [portCarries, h]

end Ports

/-! ### The fabric's state and the words -/

/-- Blanks the words and the fabric's state. -/
def butFabWords (s : State) : State := { s with cw := [], fab := {} }

/-- States that agree but in their words and in the fabric's state differ by these alone. -/
theorem eq_withFabWords {s t : State} (h : butFabWords t = butFabWords s) : t = { s with cw := t.cw, fab := t.fab } :=
  congrArg (fun u : State => { u with cw := t.cw, fab := t.fab }) h

@[simp] theorem butFabWords_modPort (s : State) (p : Nat) (f : PortSt → PortSt) : butFabWords (modPort s p f) = butFabWords s := rfl
@[simp] theorem butFabWords_incHold (s : State) (o n k : Nat) : butFabWords (incHold s o n k) = butFabWords s := rfl

end Machine

end Sys2Proof
end

section
/-! SUPPORT. What the fabric holds of its ports, and the words of the fabric and its ports: what goes out on a link, what waits for one and what
Ladle does about either leave both (10 R237-R239, 11 R260-R274). -/

namespace Sys2Proof.Machine

/-- A word of the fabric or of one of its ports (10 Tables 10.12, 10.13). -/
def IsLinkWord (o : Nat) : Prop := 0x0E800000 ≤ o ∧ o < 0x0EA00000

/-- Those words, and the fabric's state but for its packets: what is kept, what waits, and the ports that flows have taken. -/
def links (s : State) : Fabric × ({o // IsLinkWord o} → W32) :=
  ({ s.fab with reqs := [], waits := [], flows := [], nextTag := 0 }, fun o => rd s o.1)

section Views

variable {s t : State}

theorem links_of_words (hfab : (links t).1 = (links s).1) (hwords : ∀ o, IsLinkWord o → rd t o = rd s o) : links t = links s :=
  Prod.ext hfab (funext fun o => hwords o.1 o.2)

theorem links_of_butReply (h : t.butReply = s.butReply) : links t = links s := (congrArg links h :)

theorem rd_of_links (h : links t = links s) {o : Nat} (ho : IsLinkWord o) : rd t o = rd s o := congrFun (congrArg Prod.snd h) ⟨o, ho⟩

theorem isLinkWord_fpReg (p : Nat) {a : Nat} (h : a < 0x40) : IsLinkWord (fpReg p a) := by unfold IsLinkWord fpReg; omega
theorem isLinkWord_fabReg {a : Nat} (h : a < 0x100000) : IsLinkWord (fabReg a) := by unfold IsLinkWord fabReg; omega

theorem portState_of_links (h : links t = links s) (p : Nat) : portState t p = portState s p :=
  congrArg (fld · 2 0) (rd_of_links h (isLinkWord_fpReg p (by decide)))

theorem portAt_of_links (h : links t = links s) (p : Nat) : portAt t p = portAt s p :=
  (congrArg (fun x => mapGet {} x.1.ports p) h :)

theorem decided_of_links (h : links t = links s) : t.fab.decided = s.fab.decided := (congrArg (fun x => x.1.decided) h :)

end Views

variable (s : State)

/-! ### Setters and records -/

theorem links_wr {o : Nat} (v : W32) (h : ¬IsLinkWord o) : links (wr s o v) = links s :=
  links_of_words rfl fun _ ho => rd_wr_ne s v (fun e => h (e ▸ ho))

theorem links_incHold {o : Nat} (n b : Nat) (h : ¬IsLinkWord o) : links (incHold s o n b) = links s := links_wr s _ h

theorem not_isLinkWord_of_lt {o : Nat} (h : o < 0x0E800000) : ¬IsLinkWord o := fun hl => absurd hl.1 (by omega)
theorem not_isLinkWord_of_le {o : Nat} (h : 0x0EA00000 ≤ o) : ¬IsLinkWord o := fun hl => absurd hl.2 (by omega)
theorem not_isLinkWord_ldReg (o : Nat) : ¬IsLinkWord (ldReg o) := not_isLinkWord_of_le (Nat.le_add_right ..)
theorem not_isLinkWord_fltReg (o : Nat) : ¬IsLinkWord (fltReg o) := not_isLinkWord_of_le (by unfold fltReg; omega)
theorem not_isLinkWord_tileReg (k : Nat) {o : Nat} (h : o < 0x2000) : ¬IsLinkWord (tileReg k o) :=
  not_isLinkWord_of_lt ((tileReg_lt h).trans (by decide))

theorem links_signal (pf v : Nat) : links (signal s pf v) = links s := links_of_butReply (signal_butReply ..)

theorem links_finish (r : MbxRef) (st : Nat) (p : Bytes) : links (finish s r st p) = links s := by
  unfold finish
  split
  · exact links_of_butReply (post_butReply ..)
  · rfl

theorem links_finishErr (r : MbxRef) (e : Err) : links (finishErr s r e) = links s := links_finish ..

theorem links_faultRecord (f : FaultInfo) : links (faultRecord s f) = links s :=
  links_of_words (congrArg (fun u : State => (links u).1) (faultRecord_butFaults s f) :)
    (fun _ ho => rd_faultRecord_of_lt s f (ho.2.trans (by decide)))

/-! ### Packets and kept requests (10 R238, R239, 11 R273, R274) -/

theorem links_resent (n : Nat) : links (resent s n) = links s := links_incHold s 32 n (not_isLinkWord_ldReg _)
theorem links_flowSend (port : Nat) (p : IfpPacket) : links (flowSend s port p) = links s := rfl
theorem links_setReqs (l : List FabReq) : links (setReqs s l) = links s := rfl

theorem links_ifpPost (f : IfpFields) : links (ifpPost s f) = links s := by
  unfold ifpPost
  dsimp only
  split <;> rfl

theorem links_failReq (r : FabReq) (code : Nat) : links (failReq s r code) = links s := by
  unfold failReq
  split <;> rfl

theorem links_resendReq (r : FabReq) (port : Option Nat) (again : Bool) : links (resendReq s r port again) = links s := by
  cases port with
  | some p => rw [resendReq_of_some, links_resent, links_flowSend, links_setReqs]
  | none => rfl

theorem links_moveReq (r : FabReq) : links (moveReq s r) = links s := by
  unfold moveReq
  split
  · exact (links_failReq _ r 7).trans (links_setReqs ..)
  · exact links_resendReq ..

theorem links_sendWaiting (r : FabReq) : links (sendWaiting s r) = links s := by
  unfold sendWaiting
  split <;> rfl

theorem links_sendWait (w : IfpPacket) : links (sendWait s w) = links s := by
  unfold sendWait
  split <;> rfl

theorem links_flushWaits : links (flushWaits s) = links s :=
  (foldl_view (fun w _ u => links_sendWait u w) _).trans (foldl_view (fun r _ u => links_sendWaiting u r) s)

/-! ### Ladle's segments that are resent (11 R261, R274) -/

theorem links_sendSeg (o : LOp) (g : Group) (x : Sending) (seg : Nat) : links (sendSeg s o g x seg) = links s := by
  unfold sendSeg
  split
  · exact links_ifpPost ..
  · rfl

theorem links_resendSegs (o : LOp) (g : Group) (x : Sending) : links (resendSegs s o g x) = links s := by
  refine (links_resent _ _).trans ?_
  split
  · exact links_ifpPost ..
  · exact foldl_view (fun i _ u => links_sendSeg u o g x _) s

theorem links_moveSend (o : LOp) (g : Group) (x : Sending) : links (moveSend s o g x) = links s := by
  unfold moveSend
  split
  · exact links_resendSegs ..
  · rfl

theorem links_moveLadle (lost : Nat → Nat → Bool) : links (moveLadle lost s) = links s := by
  refine foldl_view (fun o _ u => ?_) s
  dsimp only
  split
  · rfl
  · rename_i g _
    have hsends : links (o.sends.foldl (fun s x =>
        if unanswered x && lost (g.ids.getD x.target 0) g.stream then moveSend s o g x else s) u) = links u :=
      foldl_view (fun x _ v => by
        split
        · exact links_moveSend ..
        · rfl) u
    split
    · exact (links_ifpPost ..).trans hsends
    · exact hsends

theorem links_moveFlows (old : State) (lost : Nat → Nat → Bool) : links (moveFlows old lost s) = links s :=
  (links_flushWaits _).trans ((links_moveLadle _ _).trans ((foldl_view (fun r _ u => links_moveReq u r) _).trans
    (links_incHold s 32 _ (not_isLinkWord_ldReg _))))

/-- A port that stops carrying traffic: its state changes, and flows move. -/
theorem links_leaveActive (p v : Nat) : links (leaveActive s p v) = links (setState s p v) := by
  unfold leaveActive
  split
  · exact links_moveFlows ..
  · rfl

theorem links_portSignal : links (portSignal s) = links s := (links_signal _ 1 10).trans (links_signal s 0 66)

end Sys2Proof.Machine
end

section
/-! SUPPORT. A path has come back (10 R239): Ladle sends what fell due, and the reads of this part's memory that this takes may find errors, and
a core may fail by them (09 R205, 05 R126, 20 R463). The fabric's ports and their words stay. -/

namespace Sys2Proof.Machine

variable (s : State)

theorem links_modTile (k : Nat) (f : TileSt → TileSt) : links (modTile s k f) = links s := rfl
theorem links_modCore (k : Nat) (f : CoreSt → CoreSt) : links (modCore s k f) = links s := rfl

theorem links_wbit {o : Nat} (i : Nat) (b : Bool) (h : ¬IsLinkWord o) : links (wbit s o i b) = links s := links_wr s _ h

/-! ### A core that fails -/

theorem links_setTileState (k v : Nat) : links (setTileState s k v) = links s := links_wr s _ (not_isLinkWord_tileReg k (by decide))

theorem links_setCalStatus (k hi lo v : Nat) : links (setCalStatus s k hi lo v) = links s :=
  links_wr s _ (not_isLinkWord_tileReg k (by decide))

theorem links_calAbandon (k : Nat) : links (calAbandon s k) = links s := by
  unfold calAbandon
  split
  · rfl
  · dsimp only
    split
    · rw [endCover, links_modCore, links_modTile, links_setCalStatus]
    · rw [links_modTile, links_setCalStatus]

theorem links_spareFreed (sp : Nat) : links (spareFreed s sp) = links s := by
  rw [spareFreed, links_modTile, links_setTileState, links_calAbandon]

theorem links_releaseSpare (m : Nat) : links (releaseSpare s m) = links s := by
  unfold releaseSpare
  dsimp only
  split
  · rw [links_modTile, links_spareFreed]
  · split
    · exact links_spareFreed s _
    · rfl

theorem links_calUnavailable (k : Nat) : links (calUnavailable s k) = links s :=
  foldl_view (fun m _ u => links_finishErr u m _) (modTile s k _)

theorem links_spoonGone (k : Nat) : links (spoonGone s k) = links s := by
  unfold spoonGone
  split
  · exact links_finishErr ..
  · rfl

theorem links_calClear (k : Nat) : links (calClear s k) = links s :=
  (links_setCalStatus ..).trans (links_setCalStatus ..)

theorem links_tileOff (k : Nat) : links (tileOff s k) = links s := by
  rw [tileOff, links_spoonGone, links_calUnavailable, links_calClear, links_setTileState, links_modTile, links_calAbandon, links_releaseSpare]

theorem links_captureGone (site : Nat) : links (captureGone s site) = links s := by
  unfold captureGone
  split
  · dsimp only
    split
    · exact links_finishErr ..
    · exact links_incHold _ 32 1 (not_isLinkWord_of_lt (by decide))
  · rfl

theorem links_coreDown (site : Nat) : links (coreDown s site) = links s := by
  have htiles : links ((List.range 16).foldl (fun s t => tileOff s (tkey site t)) s) = links s :=
    foldl_view (fun t _ u => links_tileOff u (tkey site t)) s
  rw [coreDown, links_incHold _ 16 1 (not_isLinkWord_fltReg _), links_wbit _ 1 true (not_isLinkWord_of_lt (by unfold routerReg; omega)),
    links_modCore, links_captureGone, htiles]

theorem links_assignStandins (site : Nat) : links (assignStandins s site) = links s := by
  refine foldl_view (fun t _ u => ?_) (modCore s site _)
  split
  · split <;> rfl
  · rfl

theorem links_replaceStandin (st : Option (Nat × Nat)) : links (replaceStandin s st) = links s := by
  unfold replaceStandin
  split
  · exact links_assignStandins ..
  · rfl

theorem links_moveProgs (site : Nat) : links (moveProgs s site) = links s := by
  refine foldl_view (fun p _ u => ?_) s
  unfold moveProg
  split <;> rfl

theorem links_rebuildBegin (site : Nat) : links (rebuildBegin s site) = links s := by
  unfold rebuildBegin
  split <;> rfl

theorem links_rebuildDropped (site : Nat) : links (rebuildDropped s site) = links s :=
  foldl_view (v := links) (f := fun s (r : Rebuild) => wr s (remapReg (r.site / 25)) 0)
    (fun _ _ u => links_wr u 0 (not_isLinkWord_of_lt (by unfold remapReg meshReg; omega))) s

theorem links_coreFail (site : Nat) : links (coreFail s site) = links s := by
  by_cases h : (coreAt s site).failed = true ∨ coreOff s site = true
  · rw [coreFail, if_pos h]
  · rw [coreFail_of_serving h]
    calc links (coreReplaced _ site _)
      _ = links (faultRecord (coreDown s site) (coreFault s site)) :=
        (links_rebuildBegin ..).trans ((links_moveProgs ..).trans ((links_replaceStandin ..).trans ((links_assignStandins ..).trans
          (links_rebuildDropped ..))))
      _ = links s := (links_faultRecord ..).trans (links_coreDown s site)

theorem links_declared : links (declared s) = links s :=
  foldl_view (fun c _ u => by
    split
    · exact links_coreFail u c.1
    · rfl) s

/-! ### Reads that find errors -/

theorem links_storeReload (site a : Nat) : links (storeReload s site a) = links s := by
  unfold storeReload
  split
  · rfl
  · split <;> rfl

theorem not_isLinkWord_engReg (site : Nat) {o : Nat} (h : o < 0x1000) : ¬IsLinkWord (engReg site o) :=
  not_isLinkWord_of_lt (by unfold engReg; omega)

theorem links_storeUe (site : Nat) (who : Option Nat) (w : Nat) : links (storeUe s site who w) = links s :=
  (links_storeReload (ueNoted s site who w) site (8 * w)).trans ((links_faultRecord ..).trans
    ((links_wr _ _ (not_isLinkWord_engReg site (by decide))).trans (links_incHold s 16 1 (not_isLinkWord_engReg site (by decide)))))

theorem links_checkWord (site : Nat) (who : Option Nat) (w : Nat) : links (checkWord site who s w) = links s := by
  unfold checkWord
  split
  · rfl
  · split
    · exact links_incHold _ 16 1 (not_isLinkWord_engReg site (by decide))
    · exact links_storeUe s site who w

theorem links_storeReadCheck (site : Nat) (rs : List (Nat × Nat)) : links (storeReadCheck s site rs).2 = links s := by
  refine (links_declared _).trans ?_
  change links (storeCheck ..) = _
  rw [storeCheck_eq_foldl]
  exact foldl_view (fun w _ u => links_checkWord u site none w) s

theorem not_isLinkWord_skReg (n : Nat) {o : Nat} (h : o < 0x1000) : ¬IsLinkWord (skReg n o) :=
  not_isLinkWord_of_lt (by unfold skReg; omega)

theorem links_badLine (l : Nat) : links (badLine s l) = links s := by
  have hcounted : ∀ f, links (faultRecord (wr (incHold s (skReg (stackOf (l / 32768)) 0x0C) 16 1) (skReg (stackOf (l / 32768)) 0x10)
      (BitVec.ofNat 32 (stackLine l + 0x80000000))) f) = links s := fun f =>
    (links_faultRecord ..).trans ((links_wr _ _ (not_isLinkWord_skReg _ (by decide))).trans
      (links_incHold s 16 1 (not_isLinkWord_skReg _ (by decide))))
  unfold badLine
  dsimp only
  split
  · exact hcounted _
  · exact hcounted _

theorem links_readLine (l : Nat) : links (readLine s l) = links s := by
  unfold readLine
  split
  · exact links_badLine s l
  · split
    · exact links_incHold _ 16 1 (not_isLinkWord_skReg _ (by decide))
    · rfl

theorem links_gmaCheck (a : W64) (n : Nat) : links (gmaCheck s a n).2 = links s := by
  unfold gmaCheck
  split
  · exact foldl_view (fun l _ u => links_readLine u l) s
  · exact links_storeReadCheck ..

/-! ### Segments that fall due (11 R259-R261) -/

theorem links_failOp (o : LOp) (rank cause : Nat) : links (failOp s o rank cause) = links s := by
  unfold failOp
  dsimp only
  split
  · exact links_finishErr ..
  · rfl

theorem links_readThen (o : LOp) (me : Nat) (r : W64 × Nat) {eff : State → State} (heff : ∀ u, links (eff u) = links u) :
    links (readThen s o me r eff) = links s := by
  unfold readThen
  dsimp only
  split
  · exact (links_failOp ..).trans (links_gmaCheck s r.1 r.2)
  · exact (heff _).trans (links_gmaCheck s r.1 r.2)

theorem links_sendFirst (o : LOp) (g : Group) (x : Sending) (seg : Nat) : links (sendFirst s o g x seg) = links s := by
  unfold sendFirst
  dsimp only
  split
  · exact links_sendSeg ..
  · exact links_readThen s o _ _ (fun u => links_sendSeg ..)

theorem links_sendNext (o : LOp) (g : Group) (x : Sending) : links (sendNext s o g x) = links s := by
  unfold sendNext
  dsimp only
  split
  · exact links_sendFirst ..
  · exact links_incHold s 32 1 (not_isLinkWord_ldReg _)

theorem links_pumpSend (n gi : Nat) (id : W32) (x : Sending) : links (pumpSend n gi id x s) = links s := by
  induction n generalizing s with
  | zero => rfl
  | succ n ih =>
    unfold pumpSend
    split
    · split
      · split
        · exact (ih _).trans (links_sendNext ..)
        · rfl
      · rfl
    · rfl

theorem links_pumpOp (gi : Nat) (id : W32) : links (pumpOp s gi id) = links s := by
  unfold pumpOp
  split
  · exact foldl_view (fun x _ u => links_pumpSend u _ gi id x) s
  · rfl

theorem links_pathBack : links (pathBack s) = links s := by
  refine (foldl_view (fun o _ u => ?_) _).trans (links_flushWaits s)
  dsimp only
  split
  · rfl
  · refine (links_pumpOp ..).trans (foldl_view (fun x _ v => ?_) u)
    split
    · exact links_resendSegs ..
    · rfl

end Sys2Proof.Machine
end

section
/-! SUPPORT. A suspicion is raised (11 R278-R281): the fabric's ports stay, and so does a fault record that is there, while the store has
room (20 R459, R460). -/

namespace Sys2Proof.Machine

/-- A fault record of a cause and a unit is there. -/
def Recorded (cause unit : Nat) (l : List FaultRec) : Prop := ∃ r, r ∈ l ∧ r.cause = cause ∧ r.unit = unit

theorem recorded_faultRecord_same (s : State) (f : FaultInfo) : Recorded f.cause f.unit (faultRecord s f).faults :=
  exists_mem_faultRecord s f

theorem Recorded.map {c u : Nat} {l : List FaultRec} (h : Recorded c u l) {f : FaultRec → FaultRec}
    (hf : ∀ r, (f r).cause = r.cause ∧ (f r).unit = r.unit) : Recorded c u (l.map f) := by
  obtain ⟨r, hr, hcause, hunit⟩ := h
  exact ⟨f r, List.mem_map_of_mem hr, (hf r).1.trans hcause, (hf r).2.trans hunit⟩

/-- A recurrence is counted in its record, and no record goes. -/
theorem coalesce_eq_modify (e : Nat) (f : FaultInfo) (l : List FaultRec) :
    ∃ n, coalesce e f l = l.modify n (fun r => { r with coalesced := true, count := r.count + 1 }) := by
  induction l with
  | nil => exact ⟨0, rfl⟩
  | cons r l ih =>
    unfold coalesce
    split
    · exact ⟨0, rfl⟩
    · obtain ⟨n, hn⟩ := ih
      exact ⟨n + 1, by rw [hn]; rfl⟩

theorem length_coalesce (e : Nat) (f : FaultInfo) (l : List FaultRec) : (coalesce e f l).length = l.length := by
  obtain ⟨n, hn⟩ := coalesce_eq_modify e f l
  rw [hn, List.length_modify]

theorem Recorded.coalesce {c u : Nat} {l : List FaultRec} (h : Recorded c u l) (e : Nat) (f : FaultInfo) :
    Recorded c u (coalesce e f l) := by
  obtain ⟨r, hr, hcause, hunit⟩ := h
  obtain ⟨n, hn⟩ := coalesce_eq_modify e f l
  obtain ⟨i, hi, rfl⟩ := List.mem_iff_getElem.mp hr
  have hlen : i < (Machine.coalesce e f l).length := by rwa [length_coalesce]
  refine ⟨(Machine.coalesce e f l)[i], List.getElem_mem hlen, ?_⟩
  simp only [hn, List.getElem_modify]
  split
  · exact ⟨hcause, hunit⟩
  · exact ⟨hcause, hunit⟩

section Room

variable {s : State} (f : FaultInfo) (hroom : s.faults.length < 4096)
include hroom

theorem faults_faultRecord_of_room : (faultRecord s f).faults = coalesce (faultEpoch s) f s.faults ∨
    (faultRecord s f).faults = s.faults ++ [newFault s f] := by
  rw [faultRecord_eq]
  split
  · exact .inl rfl
  · right
    rw [signal_faults, signal_faults]
    refine (congrArg State.faults (countFault_butWords ..) :).trans ?_
    rw [keepFault, if_pos hroom]
    rfl

theorem length_faultRecord_le : (faultRecord s f).faults.length ≤ s.faults.length + 1 := by
  rcases faults_faultRecord_of_room f hroom with h | h
  · rw [h, length_coalesce]
    exact Nat.le_succ _
  · rw [h, List.length_append]
    rfl

theorem Recorded.faultRecord {c u : Nat} (h : Recorded c u s.faults) : Recorded c u (faultRecord s f).faults := by
  rcases faults_faultRecord_of_room f hroom with hf | hf
  · rw [hf]
    exact h.coalesce ..
  · obtain ⟨r, hr, hrest⟩ := h
    rw [hf]
    exact ⟨r, List.mem_append_left _ hr, hrest⟩

end Room

/-! ### The collector and its ECHOs -/

section Collector

variable (s : State)

theorem links_modLadle (f : Ladle → Ladle) : links (modLadle s f) = links s := rfl
theorem links_useFree : links (useFree s) = links s := rfl

theorem links_sendEcho (g : Group) (root : Nat) (payload : Bytes) : links (sendEcho s g root payload) = links s :=
  foldl_view (fun _ _ u => links_ifpPost u _) s

theorem links_collectorEcho (x : Suspect) : links (collectorEcho s x) = links s := by
  unfold collectorEcho
  split
  · split
    · exact links_sendEcho ..
    · rfl
  · rfl

theorem ifpPost_faults (f : IfpFields) : (ifpPost s f).faults = s.faults := (congrArg State.faults (butFabric_ifpPost s f) :)

theorem collectorEcho_faults (x : Suspect) : (collectorEcho s x).faults = s.faults := by
  unfold collectorEcho
  split
  · split
    · exact foldl_view (v := State.faults) (fun _ _ u => ifpPost_faults u _) s
    · rfl
  · rfl

theorem links_collect (key cause epoch src : Nat) (time : W64) : links (collect s key cause epoch src time) = links s := by
  unfold collect
  split
  · dsimp only
    split <;> rfl
  · split
    · exact links_collectorEcho ..
    · exact (links_faultRecord ..).trans (links_incHold s 16 1 (not_isLinkWord_ldReg _))

theorem links_raiseSuspicion (type id port cause : Nat) : links (raiseSuspicion s type id port cause) = links s := by
  unfold raiseSuspicion
  dsimp only
  split
  · exact links_incHold s 32 1 (not_isLinkWord_ldReg _)
  · split
    · exact links_collect ..
    · rw [links_ifpPost, links_useFree, links_incHold _ 32 1 (not_isLinkWord_ldReg _), links_modLadle, links_modLadle]

variable {s} {c u : Nat} (h : Recorded c u s.faults) (hroom : s.faults.length < 4096)
include h hroom

theorem recorded_collect (key cause epoch src : Nat) (time : W64) : Recorded c u (collect s key cause epoch src time).faults := by
  unfold collect
  split
  · dsimp only
    split
    · refine Recorded.map h fun r => ?_
      split
      · exact ⟨rfl, rfl⟩
      · exact ⟨rfl, rfl⟩
    · exact h
  · split
    · rw [collectorEcho_faults]
      exact h
    · exact Recorded.faultRecord (s := incHold s (ldReg 0x60) 16 1) _ hroom h

theorem recorded_raiseSuspicion (type id port cause : Nat) : Recorded c u (raiseSuspicion s type id port cause).faults := by
  unfold raiseSuspicion
  dsimp only
  split
  · exact h
  · split
    · exact recorded_collect (s := modLadle s _) h hroom ..
    · rw [ifpPost_faults]
      exact h

end Collector

end Sys2Proof.Machine
end

section
/-! SUPPORT. The DISC exchange: what a HELLO and a CONFIRM say (10 R248, Table 10.9), and how an exchange starts (10 R242, R247). -/

namespace Sys2Proof.Machine

/-! ### Slices -/

theorem byteAt_slice (bs : Bytes) {i n j : Nat} (h : j < n) : byteAt (slice bs i n) j = byteAt bs (i + j) := by
  simp [slice, byteAt, h]

/-- A slice that lies in a slice from the start. -/
theorem slice_slice_zero (bs : Bytes) {i n m : Nat} (h : i + n ≤ m) : slice (slice bs 0 m) i n = slice bs i n := by
  refine List.map_congr_left fun j hj => ?_
  rw [byteAt_slice bs (by have := List.mem_range.mp hj; omega), Nat.zero_add]

theorem length_slice (bs : Bytes) (i n : Nat) : (slice bs i n).length = n := by rw [slice, List.length_map, List.length_range]

/-- A slice that stands between two others. -/
theorem slice_append_middle (as bs cs : Bytes) : slice (as ++ (bs ++ cs)) as.length bs.length = bs := by
  have hshift : slice (as ++ (bs ++ cs)) as.length bs.length = slice (bs ++ cs) 0 bs.length :=
    List.map_congr_left fun j _ => by simp [byteAt, List.getD_eq_getElem?_getD, List.getElem?_append_right (Nat.le_add_right ..)]
  rw [hshift, slice_append_left]

/-! ### Bytes 0-67 of a DISC payload -/

section Head

variable (s : State) (p sub : Nat) (nonce rest : Bytes)

theorem subtype_discHead : leAt (discHead s p sub nonce ++ rest) 0 1 = sub % 256 := by
  simp only [discHead, List.append_assoc]
  exact leAt_leBytes_append 1 sub _

theorem sender_discHead : leAt (discHead s p sub nonce ++ rest) 2 2 = partId s := by
  simp only [discHead, List.append_assoc]
  change leAt _ (1 + (1 + 0)) 2 = partId s
  rw [leAt_after, leAt_after, leAt_leBytes_append]
  exact Nat.mod_eq_of_lt ((partId_lt s).trans (by decide))

theorem length_discHead (h : nonce.length = 16) : (discHead s p sub nonce).length = 68 := by
  simp [discHead, length_leBytes, serialDigest, h]

end Head

/-! ### DISC packets go out -/

section Sends

variable (s : State) (p : Nat)

theorem sendsDisc_discSend {sub : Nat} {bs : Bytes} {ok : Bytes → Prop} (hsub : leAt bs 0 1 = sub) (hok : ok bs) :
    SendsDisc (discSend s p bs) p sub ok :=
  ⟨_, rfl, hType_ifpPacket .., hVc_ifpPacket .., hcrcOk_ifpPacket .., hsub, hok⟩

theorem discSend_cw (bs : Bytes) : (discSend s p bs).cw = s.cw := rfl
theorem portAt_discSend (q : Nat) (bs : Bytes) : portAt (discSend s p bs) q = portAt s q := rfl
theorem portAt_useFree : portAt (useFree s) p = portAt s p := rfl

/-- The NONCE of the next HELLO. -/
def nextNonce : Bytes := slice (Config.entropyBytes s.freeNo) 0 16

/-- A HELLO is counted, and its NONCE kept. -/
def helloSent (x : PortSt) : PortSt := { x with hellos := x.hellos + 1, nonce := nextNonce s }

theorem sendHello_eq : sendHello s p = discSend (modPort (useFree s) p (helloSent s)) p
    (discHead (modPort (useFree s) p (helloSent s)) p 1 (nextNonce s)) := rfl

@[simp] theorem rd_modPort (f : PortSt → PortSt) (o : Nat) : rd (modPort s p f) o = rd s o := rfl
theorem modPort_cw (f : PortSt → PortSt) : (modPort s p f).cw = s.cw := rfl

theorem sendHello_cw : (sendHello s p).cw = s.cw := by rw [sendHello_eq, discSend_cw, modPort_cw, useFree_cw]

theorem portAt_sendHello : portAt (sendHello s p) p = helloSent s (portAt s p) := by
  rw [sendHello_eq, portAt_discSend, portAt_modPort_same, portAt_useFree]

theorem sendsDisc_sendHello : SendsDisc (sendHello s p) p 1 (fun b => leAt b 2 2 = partId s) := by
  rw [sendHello_eq]
  refine sendsDisc_discSend _ p ?_ ?_
  · rw [← List.append_nil (discHead ..), subtype_discHead]
  · rw [← List.append_nil (discHead ..), sender_discHead]
    rfl

/-- The part's CONFIRM has gone out. -/
def confirmSent (x : PortSt) : PortSt := { x with confirmTx := true }

theorem append_second (a b c d e f g : Bytes) : a ++ b ++ c ++ d ++ e ++ f ++ g = a ++ (b ++ (c ++ d ++ e ++ f ++ g)) := by
  simp only [List.append_assoc]

/-- A CONFIRM carries the part's own NONCE in its head and the peer's after it. -/
theorem sendConfirm_eq (peer : Bytes) : ∃ rest, sendConfirm s p peer = discSend (modPort (useFree s) p confirmSent) p
    (discHead s p 2 (portAt s p).nonce ++ (slice peer 20 16 ++ rest)) :=
  ⟨_, congrArg (discSend (modPort (useFree s) p confirmSent) p) (append_second ..)⟩

theorem sendConfirm_cw (peer : Bytes) : (sendConfirm s p peer).cw = s.cw := by
  obtain ⟨rest, hsend⟩ := sendConfirm_eq s p peer
  rw [hsend, discSend_cw, modPort_cw, useFree_cw]

theorem portAt_sendConfirm (peer : Bytes) : portAt (sendConfirm s p peer) p = confirmSent (portAt s p) := by
  obtain ⟨rest, hsend⟩ := sendConfirm_eq s p peer
  rw [hsend, portAt_discSend, portAt_modPort_same, portAt_useFree]

theorem sendsDisc_sendConfirm (peer : Bytes) (h : (portAt s p).nonce.length = 16) :
    SendsDisc (sendConfirm s p peer) p 2 (fun b => slice b 68 16 = slice peer 20 16) := by
  obtain ⟨rest, hsend⟩ := sendConfirm_eq s p peer
  have hmiddle := slice_append_middle (discHead s p 2 (portAt s p).nonce) (slice peer 20 16) rest
  rw [length_discHead s p 2 _ h, length_slice] at hmiddle
  rw [hsend]
  exact sendsDisc_discSend _ p (subtype_discHead ..) hmiddle

end Sends

/-! ### A DISC packet comes in (10 R244) -/

theorem discIn_of_arrives {s : State} {port sub : Nat} {p : IfpPacket} (h : DiscArrives s port p sub) (eff : State → State) :
    discIn s port p sub eff = eff s := by
  obtain ⟨-, hcarries, hcrc, htype, hvc, hlen, hsub⟩ := h
  simp [discIn, hcarries, hcrc, htype, hvc, hlen, hsub]

theorem onUnit_discIn {s : State} {port sub : Nat} {p : IfpPacket} (h : DiscArrives s port p sub) (eff : State → State) :
    onUnit (decide (port < 18)) (discIn s port p sub eff) = .next (eff s) := by
  rw [discIn_of_arrives h, onUnit_of_true (decide_eq_true h.1)]

/-! ### An exchange starts (10 R242, R247) -/

section Start

variable (s : State) (p : Nat)

/-- The words of a port in DISCOVERY: its state, and no REASON. -/
def discWords : State := wrF (setState s p fpDiscovery) (fpReg p 0) 6 3 0

/-- A port whose exchange is fresh. -/
def discFresh : State := modPort (discWords s p) p freshExchange

theorem startDisc_eq : startDisc s p = if idValid (discFresh s p) then sendHello (discFresh s p) p else discFresh s p := rfl

theorem sameWords_discWords : SameWords [fpReg p 0] s (discWords s p) :=
  (sameWords_wr s _ (List.mem_singleton_self _)).trans (sameWords_wr _ _ (List.mem_singleton_self _))

theorem idValid_discFresh : idValid (discFresh s p) = idValid s :=
  (sameWords_discWords s p).rbit (fun h => fabReg_ne_fpReg (by decide) (List.mem_singleton.mp h)) 13

theorem partId_discFresh : partId (discFresh s p) = partId s :=
  partId_of_sameWords (sameWords_discWords s p) (fun h => fabReg_ne_fpReg (by decide) (List.mem_singleton.mp h))

theorem portAt_discFresh : portAt (discFresh s p) p = freshExchange (portAt s p) := portAt_modPort_same ..

theorem startDisc_of_id (h : idValid s = true) : startDisc s p = sendHello (discFresh s p) p := by
  rw [startDisc_eq, idValid_discFresh, if_pos h]

theorem startDisc_of_no_id (h : idValid s = false) : startDisc s p = discFresh s p := by
  rw [startDisc_eq, idValid_discFresh, if_neg (by rw [h]; exact Bool.false_ne_true)]

theorem startDisc_cw : (startDisc s p).cw = (discWords s p).cw := by
  rw [startDisc_eq]
  split
  · rw [sendHello_cw, discFresh, modPort_cw]
  · rw [discFresh, modPort_cw]

theorem sameWords_startDisc : SameWords [fpReg p 0] s (startDisc s p) :=
  (sameWords_discWords s p).trans (.of_cw (startDisc_cw s p))

theorem portState_startDisc : portState (startDisc s p) p = fpDiscovery := by
  rw [portState_of_cw (startDisc_cw s p), discWords, portState_wrF_above _ _ _ (by decide) (by decide) (by decide),
    portState_setState_same _ _ (by decide)]

theorem reason_startDisc : rdF (startDisc s p) (fpReg p 0) 6 3 = 0 := by
  rw [rdF_of_cw (startDisc_cw s p), discWords, rdF_wrF_same _ _ _ (by decide) (by decide), Nat.zero_mod]

/-- The exchange is fresh, but for the HELLO that goes out once the part has its ID. -/
theorem portAt_startDisc : portAt (startDisc s p) p =
    if idValid s then helloSent (discFresh s p) (freshExchange (portAt s p)) else freshExchange (portAt s p) := by
  rw [startDisc_eq, idValid_discFresh]
  split
  · rw [portAt_sendHello, portAt_discFresh]
  · rw [portAt_discFresh]

theorem sendsDisc_startDisc (h : idValid s = true) : SendsDisc (startDisc s p) p 1 (fun b => leAt b 2 2 = partId s) := by
  rw [startDisc_of_id s p h, ← partId_discFresh s p]
  exact sendsDisc_sendHello ..

end Start

/-! ### The signal of a port (10 R247) -/

section Signal

variable (s : State)

theorem rd_portSignal (o : Nat) : rd (portSignal s) o = rd s o := (rd_signal ..).trans (rd_signal ..)
theorem sameWords_portSignal {os : List Nat} : SameWords os s (portSignal s) := fun o _ => rd_portSignal s o
theorem portSignal_insts : (portSignal s).insts = s.insts := (signal_insts ..).trans (signal_insts ..)
theorem portSignal_ladle : (portSignal s).ladle = s.ladle := (signal_ladle ..).trans (signal_ladle ..)
theorem portState_portSignal (p : Nat) : portState (portSignal s) p = portState s p := portState_of_links (links_portSignal s) p
theorem portAt_portSignal (p : Nat) : portAt (portSignal s) p = portAt s p := portAt_of_links (links_portSignal s) p

end Signal

end Sys2Proof.Machine
end

section
/-! PROOF. O20: the ports' training, their replays and their links' death (10 R247, R248, R256, 11 R272, R280). -/

namespace Sys2Proof.Machine

section Training

variable {s : State} {p : Nat}

/-! ### Signal, and the end of a training -/

theorem signalDetect_trains (h : portState s p = fpDown) (hon : portDisabled s p = false) (hlive : portsLive s = true)
    (htest : portTested s p = false) : signalDetect s p = setState s p fpTraining := if_pos ⟨h, hon, hlive, htest⟩

theorem lossOfSignal_of_training (h : portState s p = fpTraining) : lossOfSignal s p = setState s p fpDown := if_pos h

/-- The failed trainings in a row start at none. -/
def failsCleared (x : PortSt) : PortSt := { x with fails := 0 }

/-- One more failed training. -/
def failsCounted (x : PortSt) : PortSt := { x with fails := x.fails + 1 }

theorem trainingDone_ok (h : portState s p = fpTraining) : trainingDone s p true = startDisc (modPort s p failsCleared) p := by
  rw [trainingDone, if_neg (not_not_intro h)]
  rfl

theorem trainingDone_failed (h : portState s p = fpTraining) : trainingDone s p false = if 4 ≤ (portAt s p).fails + 1
    then portSignal (setState (modPort s p failsCounted) p fpFailed) else modPort s p failsCounted := by
  rw [trainingDone, if_neg (not_not_intro h), if_neg Bool.false_ne_true]
  dsimp only
  rw [portAt_modPort_same]
  rfl

theorem trained_discovers (s : State) (p : Nat) :
    let t := startDisc (modPort s p failsCleared) p
    portState t p = fpDiscovery ∧ (portAt t p).fails = 0 ∧ (portAt t p).helloRx = none ∧ (portAt t p).passed = false ∧
      (idValid s = true → (portAt t p).hellos = 1 ∧ SendsDisc t p 1 (fun b => leAt b 2 2 = partId s)) ∧
      (idValid s = false → (portAt t p).hellos = 0 ∧ t.ifpOut = s.ifpOut) ∧ SameWords [fpReg p 0] s t := by
  have hport := portAt_startDisc (modPort s p failsCleared) p
  rw [portAt_modPort_same] at hport
  refine ⟨portState_startDisc .., ?_, ?_, ?_, fun hid => ⟨?_, sendsDisc_startDisc _ _ hid⟩, fun hid => ⟨?_, ?_⟩, sameWords_startDisc (modPort s p failsCleared) p⟩
  · rw [hport]; split <;> rfl
  · rw [hport]; split <;> rfl
  · rw [hport]; split <;> rfl
  · rw [hport, if_pos (show idValid (modPort s p failsCleared) = true from hid)]; rfl
  · rw [hport, if_neg (Bool.eq_false_iff.mp hid : ¬idValid (modPort s p failsCleared) = true)]; rfl
  · rw [startDisc_of_no_id (modPort s p failsCleared) p hid]; rfl

theorem training_fails (h : portState s p = fpTraining) :
    let t := trainingDone s p false
    (portAt t p).fails = (portAt s p).fails + 1 ∧ portState t p = (if 4 ≤ (portAt s p).fails + 1 then fpFailed else fpTraining) ∧
      SameWords [fpReg p 0] s t ∧ t.insts = s.insts := by
  rw [trainingDone_failed h]
  split
  · refine ⟨?_, ?_, ?_, ?_⟩
    · rw [portAt_portSignal]
      exact congrArg PortSt.fails (portAt_modPort_same s p failsCounted)
    · rw [portState_portSignal, portState_setState_same _ _ (by decide)]
    · exact (sameWords_wr (modPort s p failsCounted) _ (List.mem_singleton_self _)).trans (sameWords_portSignal _)
    · rw [portSignal_insts]; rfl
  · exact ⟨congrArg PortSt.fails (portAt_modPort_same s p failsCounted), h, .refl s, rfl⟩

/-! ### A replay is counted -/

theorem portReplays (h : portState s p = fpActive ∨ portState s p = fpDraining ∨ portState s p = fpDiscovery ∨ portState s p = fpQuarantine) :
    (portCarries s p || portState s p == fpDiscovery || portState s p == fpQuarantine) = true := by
  rw [portCarries]
  rcases h with h | h | h | h <;> rw [h] <;> rfl

/-- A failed replay in a row, or none. -/
def replayNoted (failed : Bool) (x : PortSt) : PortSt := { x with replayFails := if failed then x.replayFails + 1 else 0 }

/-- The four counters of a CRC error. -/
def replayCounted (s : State) (p ce ue : Nat) : State :=
  incHold (incHold (incHold (incHold s (fpReg p 0x10) 32 ce) (fpReg p 0x14) 32 ue) (fpReg p 0x18) 16 1) (fpReg p 0x1C) 16 1

theorem replayCounted_fab (s : State) (p ce ue : Nat) : (replayCounted s p ce ue).fab = s.fab := by simp [replayCounted]

theorem fabReplay_eq {failed : Bool} {ce ue : Nat}
    (h : portState s p = fpActive ∨ portState s p = fpDraining ∨ portState s p = fpDiscovery ∨ portState s p = fpQuarantine) :
    fabReplay s p failed ce ue = modPort (replayCounted s p ce ue) p (replayNoted failed) := by
  rw [fabReplay, if_pos (portReplays h)]
  rfl

theorem sameWords_replayCounted (s : State) (p ce ue : Nat) :
    SameWords [fpReg p 0x10, fpReg p 0x14, fpReg p 0x18, fpReg p 0x1C] s (replayCounted s p ce ue) :=
  (((sameWords_wr s _ (by simp)).trans (sameWords_wr _ _ (by simp))).trans (sameWords_wr _ _ (by simp))).trans
    (sameWords_wr _ _ (by simp))

theorem replayCounted_words (s : State) (p ce ue : Nat) (f : PortSt → PortSt) :
    let t := modPort (replayCounted s p ce ue) p f
    rd t (fpReg p 0x18) = BitVec.ofNat 32 (Nat.min ((rd s (fpReg p 0x18)).toNat + 1) 0xFFFF) ∧
      rd t (fpReg p 0x1C) = BitVec.ofNat 32 (Nat.min ((rd s (fpReg p 0x1C)).toNat + 1) 0xFFFF) ∧
      rd t (fpReg p 0x10) = BitVec.ofNat 32 (Nat.min ((rd s (fpReg p 0x10)).toNat + ce) 0xFFFFFFFF) ∧
      rd t (fpReg p 0x14) = BitVec.ofNat 32 (Nat.min ((rd s (fpReg p 0x14)).toNat + ue) 0xFFFFFFFF) ∧
      SameWords [fpReg p 0x10, fpReg p 0x14, fpReg p 0x18, fpReg p 0x1C] s t := by
  refine ⟨?_, ?_, ?_, ?_, ?_⟩
  · rw [rd_modPort, replayCounted, rd_incHold_ne _ _ _ (by simp), rd_incHold_same, rd_incHold_ne _ _ _ (by simp), rd_incHold_ne _ _ _ (by simp)]; rfl
  · rw [rd_modPort, replayCounted, rd_incHold_same, rd_incHold_ne _ _ _ (by simp), rd_incHold_ne _ _ _ (by simp), rd_incHold_ne _ _ _ (by simp)]; rfl
  · rw [rd_modPort, replayCounted, rd_incHold_ne _ _ _ (by simp), rd_incHold_ne _ _ _ (by simp), rd_incHold_ne _ _ _ (by simp), rd_incHold_same]; rfl
  · rw [rd_modPort, replayCounted, rd_incHold_ne _ _ _ (by simp), rd_incHold_ne _ _ _ (by simp), rd_incHold_same, rd_incHold_ne _ _ _ (by simp)]; rfl
  · exact (sameWords_replayCounted s p ce ue).trans (.of_cw (modPort_cw ..))

/-! ### A link dies -/

/-- The port trains again, with nothing left of its link. -/
def linkForgotten (x : PortSt) : PortSt := { freshExchange x with fails := 0, replayFails := 0 }

/-- A dead link's port: it trains, and FP_RETRAIN counts. -/
def linkDown (s : State) (p : Nat) : State := modPort (incHold (leaveActive s p fpTraining) (fpReg p 0x20) 16 1) p linkForgotten

/-- What the death of a link that carried traffic records. -/
def linkFault (p : Nat) : FaultInfo := { cls := 1, cause := 12, unit := p }

theorem linkDeath_of_discovery (h : portState s p = fpDiscovery) : linkDeath s p = linkDown s p := by
  have hidle : portCarries s p = false := portCarries_of_state h
  rw [linkDeath, if_pos (by rw [h]; simp), linkDie, hidle]
  rfl

theorem linkDeath_of_carries (h : portCarries s p = true) :
    linkDeath s p = raiseSuspicion (faultRecord (linkDown s p) (linkFault p)) 2 (partId (linkDown s p)) p 2 := by
  rw [linkDeath, if_pos (by rw [h]; rfl), linkDie, h]
  rfl

theorem portState_linkDown (s : State) (p q : Nat) : portState (linkDown s p) q = portState (setState s p fpTraining) q := by
  rw [linkDown, portState_modPort, ← portState_of_links (links_leaveActive s p fpTraining)]
  exact congrArg (fld · 2 0) (rd_incHold_ne _ 16 1 (by unfold fpReg; omega))

theorem portAt_linkDown (s : State) (p : Nat) : portAt (linkDown s p) p = linkForgotten (portAt (leaveActive s p fpTraining) p) := by
  rw [linkDown, portAt_modPort_same]
  exact congrArg linkForgotten (portAt_of_fab (incHold_fab ..) p)

theorem linkDown_faults (s : State) (p : Nat) : (linkDown s p).faults = s.faults := by
  change (leaveActive s p fpTraining).faults = s.faults
  unfold leaveActive
  split
  · exact (congrArg State.faults (movesFlows_moveFlows ..).rest :)
  · rfl

/-- A port that was in DISCOVERY: its state and FP_RETRAIN alone change. -/
theorem linkDown_of_discovery (h : portState s p = fpDiscovery) :
    linkDown s p = modPort (incHold (setState s p fpTraining) (fpReg p 0x20) 16 1) p linkForgotten := by
  rw [linkDown, leaveActive_of_not_carries (portCarries_of_state h)]

theorem discovery_dies (h : portState s p = fpDiscovery) :
    let t := linkDown s p
    portState t p = fpTraining ∧ (portAt t p).fails = 0 ∧ (portAt t p).helloRx = none ∧
      rd t (fpReg p 0x20) = BitVec.ofNat 32 (Nat.min ((rd s (fpReg p 0x20)).toNat + 1) 0xFFFF) ∧
      SameWords [fpReg p 0, fpReg p 0x20] s t ∧ t.faults = s.faults := by
  refine ⟨?_, ?_, ?_, ?_, ?_, linkDown_faults s p⟩
  · rw [portState_linkDown, portState_setState_same _ _ (by decide)]
  · rw [portAt_linkDown]; rfl
  · rw [portAt_linkDown]; rfl
  · rw [linkDown_of_discovery h]
    rw [rd_modPort, rd_incHold_same, setState, rd_wrF_ne _ _ _ _ (by simp)]
    rfl
  · rw [linkDown_of_discovery h]
    exact (sameWords_wr s _ (by simp)).trans (sameWords_wr (setState s p fpTraining) _ (by simp))

theorem traffic_dies (hp : p < 18) (h : portCarries s p = true) (hroom : s.faults.length < 4000) :
    let t := linkDeath s p
    portState t p = fpTraining ∧ (∀ q, q < 18 → q ≠ p → portState t q = portState s q) ∧ Recorded 12 p t.faults := by
  have hlinks : links (linkDeath s p) = links (linkDown s p) := by
    rw [linkDeath_of_carries h, links_raiseSuspicion, links_faultRecord]
  have hstate (q : Nat) : portState (linkDeath s p) q = portState (setState s p fpTraining) q := by
    rw [portState_of_links hlinks, portState_linkDown]
  refine ⟨?_, fun q hq hne => ?_, ?_⟩
  · rw [hstate, portState_setState_same _ _ (by decide)]
  · rw [hstate]
    exact portState_of_sameWords_state (sameWords_wr s _ (List.mem_singleton_self _)) hp hq hne
  · have hdown : (linkDown s p).faults.length < 4000 := by rwa [linkDown_faults]
    have hlen := length_faultRecord_le (s := linkDown s p) (linkFault p) (by omega)
    rw [linkDeath_of_carries h]
    exact recorded_raiseSuspicion (s := faultRecord (linkDown s p) (linkFault p)) (recorded_faultRecord_same _ (linkFault p)) (by omega) ..

end Training

/-- Settles O20, each command by what it does to its port: the fresh exchange of DISCOVERY, the counters of a replay, and the
record of a link that carried traffic, which no later suspicion removes. -/
theorem portsTrain : Obligations.PortsTrain := by
  unfold Obligations.PortsTrain
  refine ⟨fun s p hp h hon hlive htest => ?_, fun s p hp h => ?_, fun s p hp h => ?_, fun s p hp h => ?_,
    fun s p ce ue failed hp h => ?_, fun s p hp h => ?_, fun s p hp h hroom => ?_⟩
  · refine ⟨setState s p fpTraining, ?_, portState_setState_same _ _ (by decide), sameWords_wr s _ (List.mem_singleton_self _), rfl⟩
    exact (onUnit_of_true (decide_eq_true hp) _).trans (congrArg _ (signalDetect_trains h hon hlive htest))
  · refine ⟨_, ?_, trained_discovers s p⟩
    exact (onUnit_of_true (decide_eq_true hp) _).trans (congrArg _ (trainingDone_ok h))
  · exact ⟨_, onUnit_of_true (decide_eq_true hp) _, training_fails h⟩
  · refine ⟨setState s p fpDown, ?_, portState_setState_same _ _ (by decide), sameWords_wr s _ (List.mem_singleton_self _), rfl⟩
    exact (onUnit_of_true (decide_eq_true hp) _).trans (congrArg _ (lossOfSignal_of_training h))
  · obtain ⟨hreplay, hretry, hce, hue, hwords⟩ := replayCounted_words s p ce ue (replayNoted failed)
    refine ⟨modPort (replayCounted s p ce ue) p (replayNoted failed), ?_, hreplay, hretry, hce, hue, hwords, ?_, eq_withFabWords ?_⟩
    · exact (onUnit_of_true (decide_eq_true hp) _).trans (congrArg _ (fabReplay_eq h))
    · rw [portAt_modPort_same, portAt_of_fab (replayCounted_fab s p ce ue)]
      rfl
    · simp [replayCounted]
  · refine ⟨linkDown s p, ?_, discovery_dies h⟩
    exact (onUnit_of_true (decide_eq_true hp) _).trans (congrArg _ (linkDeath_of_discovery h))
  · have hcarries : portCarries s p = true := by rcases h with h | h <;> rw [portCarries_of_state h] <;> rfl
    exact ⟨_, onUnit_of_true (decide_eq_true hp) _, traffic_dies hp hcarries hroom⟩

end Sys2Proof.Machine
end

section
/-! SUPPORT. A port stops carrying traffic, or is quarantined (10 R247, R252), and what a CONFIRM says of the peer is kept (10 Table 10.13). -/

namespace Sys2Proof.Machine

/-! ### A port leaves ACTIVE -/

section Leave

variable (s : State) (p : Nat)

theorem portState_leaveActive {v : Nat} (hv : v < 8) : portState (leaveActive s p v) p = v := by
  rw [portState_of_links (links_leaveActive ..), portState_setState_same _ _ hv]

theorem portAt_leaveActive (v q : Nat) : portAt (leaveActive s p v) q = portAt s q := portAt_of_links (links_leaveActive ..) q

variable {p}

theorem rd_leaveActive_ne (v : Nat) {o : Nat} (hlink : IsLinkWord o) (h : o ≠ fpReg p 0) : rd (leaveActive s p v) o = rd s o := by
  rw [rd_of_links (links_leaveActive ..) hlink]
  exact rd_wrF_ne s 2 0 v h

end Leave

/-! ### Quarantine -/

/-- No CONFIRM of the port is held, and none has passed. -/
def confirmDropped (x : PortSt) : PortSt := { x with held := false, passed := false }

section Quarantine

variable (s : State) (p reason : Nat)

theorem quarantine_eq : quarantine s p reason =
    portSignal (modPort (wrF (leaveActive s p fpQuarantine) (fpReg p 0) 6 3 reason) p confirmDropped) := rfl

theorem rd_quarantine (o : Nat) : rd (quarantine s p reason) o = rd (wrF (leaveActive s p fpQuarantine) (fpReg p 0) 6 3 reason) o := by
  rw [quarantine_eq, rd_portSignal, rd_modPort]

theorem portState_quarantine : portState (quarantine s p reason) p = fpQuarantine := by
  rw [quarantine_eq, portState_portSignal, portState_modPort, portState_wrF_above _ _ _ (by decide) (by decide) (by decide),
    portState_leaveActive _ _ (by decide)]

theorem portAt_quarantine : portAt (quarantine s p reason) p = confirmDropped (portAt s p) := by
  rw [quarantine_eq, portAt_portSignal, portAt_modPort_same]
  exact congrArg confirmDropped (portAt_leaveActive s p fpQuarantine p)

variable {p reason}

theorem reason_quarantine (h : reason < 16) : rdF (quarantine s p reason) (fpReg p 0) 6 3 = reason := by
  have hword : rdF (quarantine s p reason) (fpReg p 0) 6 3 = rdF (wrF (leaveActive s p fpQuarantine) (fpReg p 0) 6 3 reason) (fpReg p 0) 6 3 :=
    congrArg (fld · 6 3) (rd_quarantine ..)
  rw [hword, rdF_wrF_same _ _ _ (by decide) (by decide)]
  exact Nat.mod_eq_of_lt h

theorem rd_quarantine_ne {o : Nat} (hlink : IsLinkWord o) (h : o ≠ fpReg p 0) : rd (quarantine s p reason) o = rd s o := by
  rw [rd_quarantine, rd_wrF_ne _ _ _ _ h, rd_leaveActive_ne _ _ hlink h]

theorem portState_quarantine_ne (hp : p < 18) {q : Nat} (hq : q < 18) (hne : q ≠ p) : portState (quarantine s p reason) q = portState s q :=
  congrArg (fld · 2 0) (rd_quarantine_ne s (isLinkWord_fpReg q (by decide)) (fpReg_ne_fpReg hp hq hne (by decide) (by decide)))

variable {s}

/-- A port that carries no traffic has no sending moved. -/
theorem quarantine_ladle (h : portCarries s p = false) : (quarantine s p reason).ladle = s.ladle := by
  rw [quarantine_eq, portSignal_ladle, leaveActive_of_not_carries h]
  rfl

end Quarantine

/-! ### What a CONFIRM says of the peer -/

section Peer

variable (s : State) (p : Nat) (c : Bytes)

/-- It writes FP_PEER and FP_PEER_FW, and of FP_STATUS fields above the state and REASON. -/
theorem notePeer_view {β : Type} {v : State → β} (hpeer : ∀ u w, v (wr u (fpReg p 4) w) = v u) (hfw : ∀ u w, v (wr u (fpReg p 8) w) = v u)
    (hstatus : ∀ u hi lo w, 2 < lo → lo ≤ hi → hi < 32 → v (wrF u (fpReg p 0) hi lo w) = v u) (hsignal : ∀ u, v (portSignal u) = v u) :
    v (notePeer s p c) = v s := by
  have hwords (w w' : W32) : v (wr (wr s (fpReg p 4) w) (fpReg p 8) w') = v s := (hfw ..).trans (hpeer ..)
  have hmix (u : State) (b : Bool) : v (if rbit u (fpReg p 0) 7 == b then u else portSignal (wbit u (fpReg p 0) 7 b)) = v u := by
    split
    · rfl
    · exact (hsignal _).trans (hstatus u 7 7 _ (by decide) (by decide) (by decide))
  unfold notePeer
  dsimp only
  split
  · exact (hstatus _ 11 8 _ (by decide) (by decide) (by decide)).trans ((hmix ..).trans (hwords ..))
  · exact (hmix ..).trans (hwords ..)

theorem sameWords_notePeer : SameWords [fpReg p 0, fpReg p 4, fpReg p 8] s (notePeer s p c) := fun o ho => by
  simp only [List.mem_cons, List.not_mem_nil, or_false, not_or] at ho
  obtain ⟨hstatus, hpeer, hfw⟩ := ho
  exact notePeer_view (v := fun u => rd u o) s p c (fun u w => rd_wr_ne u w hpeer) (fun u w => rd_wr_ne u w hfw)
    (fun u _ _ _ _ _ _ => rd_wrF_ne u _ _ _ hstatus) (fun u => rd_portSignal u o)

theorem portState_notePeer : portState (notePeer s p c) p = portState s p :=
  notePeer_view (v := fun u => portState u p) s p c
    (fun u w => congrArg (fld · 2 0) (rd_wr_ne u w (by simp))) (fun u w => congrArg (fld · 2 0) (rd_wr_ne u w (by simp)))
    (fun u _ _ w hlo hle hhi => portState_wrF_above u p w hlo hle hhi) (fun u => portState_portSignal u p)

theorem notePeer_fab : (notePeer s p c).fab = s.fab :=
  notePeer_view (v := State.fab) s p c (fun _ _ => rfl) (fun _ _ => rfl) (fun _ _ _ _ _ _ _ => rfl)
    (fun _ => (signal_fab ..).trans (signal_fab ..))

theorem notePeer_ladle : (notePeer s p c).ladle = s.ladle :=
  notePeer_view (v := State.ladle) s p c (fun _ _ => rfl) (fun _ _ => rfl) (fun _ _ _ _ _ _ _ => rfl) portSignal_ladle

theorem portAt_notePeer (q : Nat) : portAt (notePeer s p c) q = portAt s q := portAt_of_fab (notePeer_fab s p c) q

theorem rd_notePeer_fabReg {a : Nat} (ha : a < 0x100000) : rd (notePeer s p c) (fabReg a) = rd s (fabReg a) :=
  sameWords_notePeer s p c _ (by simp [fabReg_ne_fpReg ha])

theorem mapPlane_notePeer (q : Nat) : mapPlane (notePeer s p c) q = mapPlane s q :=
  congrArg (fld · (q % 8 * 4 + 3) (q % 8 * 4)) (rd_notePeer_fabReg s p c (by split <;> decide))

theorem remapAllowed_notePeer : remapAllowed (notePeer s p c) = remapAllowed s :=
  congrArg (fld · 0 0 == 1) (rd_notePeer_fabReg s p c (by decide))

variable {p}

theorem portState_notePeer_ne (hp : p < 18) {q : Nat} (hq : q < 18) (hne : q ≠ p) : portState (notePeer s p c) q = portState s q :=
  portState_of_sameWords (sameWords_notePeer s p c) hp (by simp [fpReg]) hq hne

end Peer

end Sys2Proof.Machine
end

section
/-! PROOF. O21: HELLO, its timeout, CONFIRM and LEAVE (10 R247-R252, Table 10.10). -/

namespace Sys2Proof.Machine

section Hello

variable {s : State} {p : Nat}

/-! ### HELLO (10 R248) -/

/-- The peer's HELLO is kept. -/
def helloKept (frame : Bytes) (x : PortSt) : PortSt := { x with helloRx := some (slice frame 0 68) }

theorem activateIf_of_not_passed (h : (portAt s p).passed = false) : activateIf s p = s := by simp [activateIf, h]

theorem helloIn_of_no_id (h : portState s p = fpDiscovery) (hid : idValid s = false) (frame : Bytes) :
    helloIn s p frame = modPort s p (helloKept frame) := by
  rw [helloIn, if_pos h]
  exact if_neg (Bool.eq_false_iff.mp hid : ¬idValid (modPort s p (helloKept frame)) = true)

/-- The part's HELLO, where none has gone out yet. -/
def helloOnce (s : State) (p : Nat) : State := if (portAt s p).hellos = 0 then sendHello s p else s

theorem helloIn_of_id (h : portState s p = fpDiscovery) (hid : idValid s = true) (frame : Bytes) : helloIn s p frame =
    activateIf (sendConfirm (helloOnce (modPort s p (helloKept frame)) p) p (slice frame 0 68)) p := by
  rw [helloIn, if_pos h]
  exact if_pos (hid : idValid (modPort s p (helloKept frame)) = true)

theorem helloOnce_cw (s : State) (p : Nat) : (helloOnce s p).cw = s.cw := by
  unfold helloOnce
  split
  · exact sendHello_cw ..
  · rfl

/-- Before the CONFIRM goes out the part has a NONCE of its own, and holds of the exchange what it held. -/
theorem portAt_helloOnce (h : (portAt s p).hellos = 0 ∨ (portAt s p).nonce.length = 16) :
    (portAt (helloOnce s p) p).nonce.length = 16 ∧ (portAt (helloOnce s p) p).helloRx = (portAt s p).helloRx ∧
      (portAt (helloOnce s p) p).passed = (portAt s p).passed := by
  unfold helloOnce
  split
  · rw [portAt_sendHello]
    exact ⟨length_slice .., rfl, rfl⟩
  · rename_i hsent
    exact ⟨h.resolve_left hsent, rfl, rfl⟩

theorem hello_answered (h : portState s p = fpDiscovery) (hid : idValid s = true) (hpass : (portAt s p).passed = false)
    (hnonce : (portAt s p).hellos = 0 ∨ (portAt s p).nonce.length = 16) (frame : Bytes) :
    let t := helloIn s p frame
    portState t p = fpDiscovery ∧ (portAt t p).helloRx = some (slice frame 0 68) ∧ (portAt t p).confirmTx = true ∧
      SendsDisc t p 2 (fun b => slice b 68 16 = slice frame 20 16) ∧ t.cw = s.cw := by
  have hkept : portAt (modPort s p (helloKept frame)) p = helloKept frame (portAt s p) := portAt_modPort_same ..
  obtain ⟨hlen, hrx, hpassed⟩ := portAt_helloOnce (s := modPort s p (helloKept frame)) (p := p) (by rw [hkept]; exact hnonce)
  rw [hkept] at hrx hpassed
  have hport := portAt_sendConfirm (helloOnce (modPort s p (helloKept frame)) p) p (slice frame 0 68)
  have hsame : helloIn s p frame = sendConfirm (helloOnce (modPort s p (helloKept frame)) p) p (slice frame 0 68) := by
    rw [helloIn_of_id h hid, activateIf_of_not_passed]
    rw [hport]
    exact hpassed.trans hpass
  have hcw : (helloIn s p frame).cw = s.cw := by rw [hsame, sendConfirm_cw, helloOnce_cw, modPort_cw]
  refine ⟨(portState_of_cw hcw p).trans h, ?_, ?_, ?_, hcw⟩
  · rw [hsame, hport]
    exact hrx
  · rw [hsame, hport]
    rfl
  · rw [hsame, ← slice_slice_zero frame (m := 68) (by decide)]
    exact sendsDisc_sendConfirm _ p _ hlen

/-! ### HELLO_TIMEOUT (10 R247) -/

theorem helloTimeout_eq (h : portState s p = fpDiscovery) (hsent : 1 ≤ (portAt s p).hellos) (hpass : (portAt s p).passed = false) :
    helloTimeout s p = if 3 ≤ (portAt s p).hellos then setState s p fpTraining else sendHello s p := by
  refine if_neg ?_
  rw [h, hpass]
  simp only [ne_eq, not_true_eq_false, Bool.false_eq_true, false_or, or_false]
  omega

theorem hello_times_out (h : portState s p = fpDiscovery) (hsent : 1 ≤ (portAt s p).hellos) (hpass : (portAt s p).passed = false) :
    let t := helloTimeout s p
    portState t p = (if 3 ≤ (portAt s p).hellos then fpTraining else fpDiscovery) ∧
      ((portAt s p).hellos < 3 → (portAt t p).hellos = (portAt s p).hellos + 1 ∧ SendsDisc t p 1 (fun b => leAt b 2 2 = partId s)) ∧
      SameWords [fpReg p 0] s t := by
  rw [helloTimeout_eq h hsent hpass]
  split
  · rename_i hthird
    exact ⟨portState_setState_same _ _ (by decide), fun hless => absurd hthird (by omega), sameWords_wr s _ (List.mem_singleton_self _)⟩
  · refine ⟨(portState_of_cw (sendHello_cw s p) p).trans h, fun _ => ⟨?_, sendsDisc_sendHello s p⟩, .of_cw (sendHello_cw s p)⟩
    rw [portAt_sendHello]
    rfl

end Hello

/-! ### CONFIRM (10 R249, R252) -/

section Confirm

variable {s : State} {p : Nat} {c : Bytes}

theorem confirmIn_of_reason {k : Nat} (h : portState s p = fpDiscovery) (hid : idValid s = true) (hr : confirmReason s p c = some k) :
    confirmIn s p c = quarantine (notePeer s p c) p k := by
  rw [confirmIn, if_neg (by rw [h, hid]; simp), hr]

theorem portCarries_notePeer (h : portState s p = fpDiscovery) : portCarries (notePeer s p c) p = false :=
  portCarries_of_state ((portState_notePeer s p c).trans h)

theorem confirm_fails {k : Nat} (hp : p < 18) (h : portState s p = fpDiscovery) (hid : idValid s = true)
    (hr : confirmReason s p c = some k) (hk : k < 16) :
    let t := confirmIn s p c
    portState t p = fpQuarantine ∧ rdF t (fpReg p 0) 6 3 = k ∧ (portAt t p).passed = false ∧
      (∀ q, q < 18 → q ≠ p → portState t q = portState s q) ∧ t.ladle = s.ladle := by
  rw [confirmIn_of_reason h hid hr]
  refine ⟨portState_quarantine .., reason_quarantine _ hk, ?_, fun q hq hne => ?_, ?_⟩
  · rw [portAt_quarantine]
    rfl
  · rw [portState_quarantine_ne _ hp hq hne, portState_notePeer_ne s c hp hq hne]
  · rw [quarantine_ladle (portCarries_notePeer h), notePeer_ladle]

/-- The peer's CONFIRM has passed. -/
def confirmPassed (x : PortSt) : PortSt := { x with passed := true, held := false }

theorem decideIf_of_not_allowed (h : remapAllowed s = false) : decideIf s = s := by simp [decideIf, h]

/-- A plane port whose CONFIRM names its plane: the plane is noted, and the port may become ACTIVE. -/
def planeTaken (s : State) (p plane : Nat) : State := wrF (modPort s p confirmPassed) (fpReg p 0) 15 12 plane

theorem confirmIn_of_plane (h : portState s p = fpDiscovery) (hid : idValid s = true) (hr : confirmReason s p c = none) (hplane : p < 16)
    (hok : planeOk (notePeer s p c) p (leAt c 4 1) = true) :
    confirmIn s p c = decideIf (activateIf (planeTaken (notePeer s p c) p (leAt c 4 1)) p) := by
  rw [confirmIn, if_neg (by rw [h, hid]; simp), hr]
  simp only [hok, Bool.true_eq_false, and_false, if_false, if_pos hplane]
  rfl

theorem confirmIn_of_other_plane (h : portState s p = fpDiscovery) (hid : idValid s = true) (hr : confirmReason s p c = none)
    (hplane : p < 16) (hbad : planeOk (notePeer s p c) p (leAt c 4 1) = false) (hremap : remapAllowed s = false) :
    confirmIn s p c = quarantine (notePeer s p c) p 7 := by
  have hfirm : (remapAllowed (notePeer s p c) && !(notePeer s p c).fab.decided) = false := by rw [remapAllowed_notePeer, hremap]; rfl
  rw [confirmIn, if_neg (by rw [h, hid]; simp), hr]
  simp only [hfirm, hplane, hbad, true_and, if_true, Bool.false_eq_true, if_false]

theorem planeOk_own (h : mapPlane s p = p) : planeOk s p p = true := by
  unfold planeOk
  split
  · exact beq_iff_eq.mpr h.symm
  · exact beq_self_eq_true p

theorem planeOk_of_not_decided (h : s.fab.decided = false) {plane : Nat} (hne : plane ≠ p) : planeOk s p plane = false := by
  rw [planeOk, if_neg (Bool.eq_false_iff.mp h)]
  exact beq_eq_false_iff_ne.mpr hne

/-! ### A port becomes ACTIVE -/

/-- The link carries traffic, and says whether its exchange was signed. -/
def linkUp (secured : Bool) (x : PortSt) : PortSt := { x with held := false, secured := secured }

/-- The port's words when it becomes ACTIVE. -/
def activeWords (s : State) (p : Nat) : State := wrF (setState s p fpActive) (fpReg p 0) 6 3 0

theorem activate_eq (s : State) (p : Nat) : activate s p = pathBack (modPort (activeWords s p) p (linkUp (secureDisc s))) := rfl

theorem links_activate (s : State) (p : Nat) : links (activate s p) = links (modPort (activeWords s p) p (linkUp (secureDisc s))) := by
  rw [activate_eq, links_pathBack]

theorem sameWords_activeWords (s : State) (p : Nat) : SameWords [fpReg p 0] s (activeWords s p) :=
  (sameWords_wr s _ (List.mem_singleton_self _)).trans (sameWords_wr _ _ (List.mem_singleton_self _))

theorem activeWords_fields (s : State) (p : Nat) : portState (activeWords s p) p = fpActive ∧ rdF (activeWords s p) (fpReg p 0) 6 3 = 0 ∧
    portPlane (activeWords s p) p = portPlane s p := by
  refine ⟨?_, ?_, ?_⟩
  · rw [activeWords, portState_wrF_above _ _ _ (by decide) (by decide) (by decide), portState_setState_same _ _ (by decide)]
  · rw [activeWords, rdF_wrF_same _ _ _ (by decide) (by decide), Nat.zero_mod]
  · exact (rdF_wrF_other _ _ 0 (by decide) (by decide) (by decide) (.inr (by decide))).trans
      (rdF_wrF_other s _ fpActive (by decide) (by decide) (by decide) (.inr (by decide)))

theorem portAt_activate (s : State) (p : Nat) : portAt (activate s p) p = linkUp (secureDisc s) (portAt s p) := by
  rw [portAt_of_links (links_activate ..), portAt_modPort_same]
  rfl

theorem rd_activate (s : State) (p : Nat) {o : Nat} (ho : IsLinkWord o) : rd (activate s p) o = rd (activeWords s p) o := by
  rw [rd_of_links (links_activate ..) ho, rd_modPort]

theorem sameWords_planeTaken (s : State) (p plane : Nat) : SameWords [fpReg p 0] s (planeTaken s p plane) :=
  sameWords_wr (modPort s p confirmPassed) _ (List.mem_singleton_self _)

theorem portAt_planeTaken (s : State) (p plane : Nat) : portAt (planeTaken s p plane) p = confirmPassed (portAt s p) := portAt_modPort_same s p confirmPassed

theorem portState_planeTaken (s : State) (p plane : Nat) : portState (planeTaken s p plane) p = portState s p :=
  portState_wrF_above (modPort s p confirmPassed) p plane (by decide) (by decide) (by decide)

theorem activateIf_planeTaken {plane : Nat} (h : portState s p = fpDiscovery) (htx : (portAt s p).confirmTx = true) :
    activateIf (planeTaken s p plane) p = activate (planeTaken s p plane) p := by
  have hport := portAt_planeTaken s p plane
  refine if_pos ⟨(portState_planeTaken ..).trans h, ?_, ?_, ?_⟩
  · rw [hport]; rfl
  · rw [hport]; rfl
  · rw [hport]; exact htx

/-- What stands of the port when it has become ACTIVE on its own plane. -/
theorem plane_activates (s : State) (hp : p < 16) :
    let t := activate (planeTaken s p p) p
    portState t p = fpActive ∧ portPlane t p = p ∧ rdF t (fpReg p 0) 6 3 = 0 ∧ (portAt t p).passed = true ∧
      (∀ q, q < 18 → q ≠ p → portState t q = portState s q) ∧ remapAllowed t = remapAllowed s := by
  obtain ⟨hstate, hreason, hplane⟩ := activeWords_fields (planeTaken s p p) p
  have hstatus := rd_activate (planeTaken s p p) p (isLinkWord_fpReg p (a := 0) (by decide))
  have hwords : SameWords [fpReg p 0] s (activeWords (planeTaken s p p) p) := (sameWords_planeTaken s p p).trans (sameWords_activeWords _ p)
  refine ⟨(congrArg (fld · 2 0) hstatus).trans hstate, ?_, (congrArg (fld · 6 3) hstatus).trans hreason, ?_, fun q hq hne => ?_, ?_⟩
  · refine ((congrArg (fld · 15 12) hstatus).trans hplane).trans ?_
    exact (rdF_wrF_same (modPort s p confirmPassed) (fpReg p 0) p (by decide) (by decide)).trans (Nat.mod_eq_of_lt hp)
  · rw [portAt_activate, portAt_planeTaken]
    rfl
  · exact (congrArg (fld · 2 0) (rd_activate (planeTaken s p p) p (isLinkWord_fpReg q (by decide)))).trans
      (portState_of_sameWords_state hwords (by omega) hq hne)
  · exact congrArg (fld · 0 0 == 1) ((rd_activate (planeTaken s p p) p (isLinkWord_fabReg (by decide))).trans
      (hwords _ (by simp [fabReg_ne_fpReg])))

theorem confirm_passes (hp : p < 16) (h : portState s p = fpDiscovery) (hid : idValid s = true) (hr : confirmReason s p c = none)
    (hown : leAt c 4 1 = p) (hmap : mapPlane s p = p) (htx : (portAt s p).confirmTx = true) (hremap : remapAllowed s = false) :
    let t := confirmIn s p c
    portState t p = fpActive ∧ portPlane t p = p ∧ rdF t (fpReg p 0) 6 3 = 0 ∧ (portAt t p).passed = true ∧
      (∀ q, q < 18 → q ≠ p → portState t q = portState s q) := by
  have hok : planeOk (notePeer s p c) p (leAt c 4 1) = true := by
    rw [hown]
    exact planeOk_own ((mapPlane_notePeer s p c p).trans hmap)
  obtain ⟨hstate, hplane, hreason, hpassed, hothers, hallow⟩ := plane_activates (notePeer s p c) hp
  have hrun : confirmIn s p c = activate (planeTaken (notePeer s p c) p p) p := by
    rw [confirmIn_of_plane h hid hr hp hok, hown, activateIf_planeTaken ((portState_notePeer s p c).trans h) (by rwa [portAt_notePeer]),
      decideIf_of_not_allowed]
    rw [hallow, remapAllowed_notePeer, hremap]
  rw [hrun]
  exact ⟨hstate, hplane, hreason, hpassed, fun q hq hne => (hothers q hq hne).trans (portState_notePeer_ne s c (by omega) hq hne)⟩

/-! ### The checks of a CONFIRM, in their order (10 R249, Table 10.10) -/

theorem confirmReason_auth (h : authBad s p c = true) : confirmReason s p c = some 1 := if_pos h

section Authentic

variable (hauth : authBad s p c = false)
include hauth

theorem confirmReason_own_digest (h : slice c 36 32 = serialDigest) : confirmReason s p c = some 2 := by
  rw [confirmReason, if_neg (Bool.eq_false_iff.mp hauth), if_pos (beq_iff_eq.mpr h)]

variable (hdigest : slice c 36 32 ≠ serialDigest)
include hdigest

/-- A CONFIRM that passes checks 1 and 2. -/
theorem confirmReason_of_authentic : confirmReason s p c =
    if (settledMinor (leAt c 6 1) (leAt c 7 1)).isNone then some 3
    else if leAt c 1 1 ≠ (if p < 16 then 1 else 0) then some 4
    else if p < 16 then
      if leAt c 2 2 / 64 % 128 ≠ partId s / 64 then some 5
      else if leAt c 5 1 ≠ 4 * (partId s / 4 % 16) + partId s % 4 then some 6
      else none
    else if leAt c 2 2 ≠ (partId s ^^^ (if p = 16 then 1 else 2)) ∨ leAt c 4 1 ≠ p then some 8
    else none := by
  rw [confirmReason, if_neg (Bool.eq_false_iff.mp hauth), if_neg (fun h => hdigest (beq_iff_eq.mp h))]

theorem confirmReason_version (h : leAt c 6 1 / 16 ≠ 4 ∨ leAt c 7 1 / 16 ≠ 4 ∨ Nat.min 3 (leAt c 7 1 % 16) < leAt c 6 1 % 16) :
    confirmReason s p c = some 3 := by
  have hnone : settledMinor (leAt c 6 1) (leAt c 7 1) = none := if_neg (fun hall => by
    obtain ⟨hmin, hmax, hle⟩ := hall
    omega)
  rw [confirmReason_of_authentic hauth hdigest, hnone]
  rfl

variable (hversion : settledMinor (leAt c 6 1) (leAt c 7 1) ≠ none)
include hversion

theorem confirmReason_of_version : confirmReason s p c =
    if leAt c 1 1 ≠ (if p < 16 then 1 else 0) then some 4
    else if p < 16 then
      if leAt c 2 2 / 64 % 128 ≠ partId s / 64 then some 5
      else if leAt c 5 1 ≠ 4 * (partId s / 4 % 16) + partId s % 4 then some 6
      else none
    else if leAt c 2 2 ≠ (partId s ^^^ (if p = 16 then 1 else 2)) ∨ leAt c 4 1 ≠ p then some 8
    else none := by
  rw [confirmReason_of_authentic hauth hdigest, if_neg (fun h => hversion (Option.isNone_iff_eq_none.mp h))]

theorem confirmReason_kind (h : leAt c 1 1 ≠ (if p < 16 then 1 else 0)) : confirmReason s p c = some 4 := by
  rw [confirmReason_of_version hauth hdigest hversion, if_pos h]

theorem confirmReason_plane_port (hp : p < 16) (hkind : leAt c 1 1 = 1) : confirmReason s p c =
    if leAt c 2 2 / 64 % 128 ≠ partId s / 64 then some 5
    else if leAt c 5 1 ≠ 4 * (partId s / 4 % 16) + partId s % 4 then some 6 else none := by
  rw [confirmReason_of_version hauth hdigest hversion, if_neg (by rw [if_pos hp]; exact not_not_intro hkind), if_pos hp]

theorem confirmReason_sled_port (hp : 16 ≤ p) (hkind : leAt c 1 1 = 0) : confirmReason s p c =
    if leAt c 2 2 ≠ (partId s ^^^ (if p = 16 then 1 else 2)) ∨ leAt c 4 1 ≠ p then some 8 else none := by
  have hnot : ¬p < 16 := by omega
  rw [confirmReason_of_version hauth hdigest hversion, if_neg (by rw [if_neg hnot]; exact not_not_intro hkind), if_neg hnot]

theorem confirmReason_neighbour (hp : 16 ≤ p) (hkind : leAt c 1 1 = 0) :
    (confirmReason s p c = none ↔ leAt c 2 2 = (partId s ^^^ (if p = 16 then 1 else 2)) ∧ leAt c 4 1 = p) ∧
      (confirmReason s p c ≠ none → confirmReason s p c = some 8) := by
  rw [confirmReason_sled_port hauth hdigest hversion hp hkind]
  generalize (partId s ^^^ if p = 16 then 1 else 2) = neighbour
  split
  · rename_i hbad
    exact ⟨⟨fun h => absurd h (by simp), fun ⟨hid, hport⟩ => absurd hbad (by simp [hid, hport])⟩, fun _ => rfl⟩
  · rename_i hgood
    rw [not_or, not_not, not_not] at hgood
    exact ⟨⟨fun _ => hgood, fun _ => rfl⟩, fun h => absurd rfl h⟩

end Authentic

end Confirm

/-! ### LEAVE -/

theorem leaveIn_quarantines {s : State} {p : Nat} (h : portState s p = fpDiscovery ∨ portState s p = fpActive) :
    leaveIn s p 9 = quarantine s p 9 := if_pos ⟨rfl, h⟩

/-- Settles O21: a DISC packet that comes in by 10 R244 is one of HELLO, CONFIRM and LEAVE, and the checks of a CONFIRM are taken one
after the other. -/
theorem portsDiscover : Obligations.PortsDiscover := by
  unfold Obligations.PortsDiscover
  refine ⟨fun s p k hin h hid hpass hnonce => ⟨_, onUnit_discIn hin _, hello_answered h hid hpass hnonce _⟩, fun s p k hin h hid => ?_,
    fun s p hp h hsent hpass => ⟨_, onUnit_of_true (decide_eq_true hp) _, hello_times_out h hsent hpass⟩,
    fun s p k f hin h hid hr hk => ⟨_, onUnit_discIn hin _, confirm_fails hin.1 h hid hr hk⟩,
    fun s p f hin h hid hr hp hown hmap htx hremap => ⟨_, onUnit_discIn hin _, confirm_passes hp h hid hr hown hmap htx hremap⟩,
    fun s p f hin h hid hr hp hother hdecided hremap => ?_, fun s p f hin hreason h => ?_,
    fun s p c h => confirmReason_auth h, fun s p c hauth h => confirmReason_own_digest hauth h,
    fun s p c hauth hdigest h => confirmReason_version hauth hdigest h,
    fun s p c hauth hdigest hversion h => confirmReason_kind hauth hdigest hversion h,
    fun s p c hp hauth hdigest hversion hkind => confirmReason_plane_port hauth hdigest hversion hp hkind,
    fun s p c hp hauth hdigest hversion hkind => confirmReason_neighbour hauth hdigest hversion hp hkind⟩
  · refine ⟨modPort s p (helloKept k.payload), ?_, ?_, rfl, rfl⟩
    · exact (onUnit_discIn hin _).trans (congrArg _ (helloIn_of_no_id h hid k.payload))
    · rw [portAt_modPort_same]
      rfl
  · have hbad : planeOk (notePeer s p f.payload) p (leAt f.payload 4 1) = false :=
      planeOk_of_not_decided (by rwa [notePeer_fab]) hother
    refine ⟨quarantine (notePeer s p f.payload) p 7, ?_, portState_quarantine .., reason_quarantine _ (by decide)⟩
    exact (onUnit_discIn hin _).trans (congrArg _ (confirmIn_of_other_plane h hid hr hp hbad hremap))
  · refine ⟨quarantine s p 9, ?_, portState_quarantine .., reason_quarantine _ (by decide), fun q hq hne => portState_quarantine_ne s hin.1 hq hne⟩
    refine (onUnit_discIn hin _).trans (congrArg _ ?_)
    rw [hreason]
    exact leaveIn_quarantines h

end Sys2Proof.Machine
end

section
/-! SUPPORT. A port is reset, disabled or drained (10 Table 10.7, R247), and fields of a word that is written through a mask. -/

namespace Sys2Proof.Machine

/-! ### Fields that share their bits -/

theorem fld_congr {w w' : W32} {hi lo : Nat} (h : hi < 32) (hbits : ∀ i, lo ≤ i → i ≤ hi → w.getLsbD i = w'.getLsbD i) :
    fld w hi lo = fld w' hi lo := Nat.eq_of_testBit_eq fun i => by
  rw [fld_testBit w _ _ _ h, fld_testBit w' _ _ _ h]
  by_cases hi' : i < hi + 1 - lo
  · rw [hbits (lo + i) (by omega) (by omega)]
  · simp [hi']

/-- A write through a mask: a bit of the mask takes the new value, any other keeps its own. -/
def masked (mask old new : W32) : W32 := (old &&& ~~~ mask) ||| (new &&& mask)

theorem getLsbD_masked (mask old new : W32) {i : Nat} (h : i < 32) :
    (masked mask old new).getLsbD i = if mask.getLsbD i then new.getLsbD i else old.getLsbD i := by
  rw [masked, BitVec.getLsbD_or, BitVec.getLsbD_and, BitVec.getLsbD_and, BitVec.getLsbD_not, decide_eq_true h]
  cases mask.getLsbD i <;> simp

theorem fld_masked (mask old new : W32) {i : Nat} (h : i < 32) :
    fld (masked mask old new) i i = if mask.getLsbD i then fld new i i else fld old i i := by
  split
  · rename_i hbit
    refine fld_congr h fun j hlo hhi => ?_
    rw [getLsbD_masked _ _ _ (by omega), le_antisymm hhi hlo, if_pos hbit]
  · rename_i hbit
    refine fld_congr h fun j hlo hhi => ?_
    rw [getLsbD_masked _ _ _ (by omega), le_antisymm hhi hlo, if_neg hbit]

/-! ### A list of steps that change nothing -/

theorem foldl_of_fixed {α : Type} {f : State → α → State} {l : List α} {s : State} (h : ∀ a ∈ l, f s a = s) : l.foldl f s = s := by
  induction l with
  | nil => rfl
  | cons a l ih => rw [List.foldl_cons, h a List.mem_cons_self, ih fun b hb => h b (List.mem_cons_of_mem a hb)]

/-! ### Words that stay -/

theorem insts_startDisc (s : State) (p : Nat) : (startDisc s p).insts = s.insts := by
  rw [startDisc_eq]
  split
  · rw [sendHello_eq]
    rfl
  · rfl

theorem ladle_startDisc (s : State) (p : Nat) : (startDisc s p).ladle = s.ladle := by
  rw [startDisc_eq]
  split
  · rw [sendHello_eq]
    rfl
  · rfl

/-- A port's words do not say whether the ports train. -/
theorem portsLive_of_life {s t : State} (h : t.life = s.life) : portsLive t = portsLive s := by rw [portsLive, h, portsLive]

theorem portDisabled_of_sameWords {s t : State} {p : Nat} (h : SameWords [fpReg p 0] s t) (q : Nat) :
    portDisabled t q = portDisabled s q := h.rbit (by
  rw [List.mem_singleton]
  unfold fpReg
  omega) 2

/-! ### All sixteen plane ports have been reset (10 R252) -/

section Noted

variable (s : State) (p : Nat)

/-- A port reset bears on the plane decision alone. -/
theorem noteReset_eq : ∃ b l, noteReset s p = { s with fab := { s.fab with decided := b, resets := l } } := by
  unfold noteReset
  split
  · exact ⟨s.fab.decided, s.fab.resets, rfl⟩
  · dsimp only
    split
    · exact ⟨false, [], rfl⟩
    · exact ⟨s.fab.decided, _, rfl⟩

theorem noteReset_cw : (noteReset s p).cw = s.cw := by obtain ⟨b, l, h⟩ := noteReset_eq s p; rw [h]
theorem noteReset_life : (noteReset s p).life = s.life := by obtain ⟨b, l, h⟩ := noteReset_eq s p; rw [h]
theorem noteReset_insts : (noteReset s p).insts = s.insts := by obtain ⟨b, l, h⟩ := noteReset_eq s p; rw [h]
theorem noteReset_ladle : (noteReset s p).ladle = s.ladle := by obtain ⟨b, l, h⟩ := noteReset_eq s p; rw [h]
theorem portAt_noteReset (q : Nat) : portAt (noteReset s p) q = portAt s q := by obtain ⟨b, l, h⟩ := noteReset_eq s p; rw [h]; rfl

end Noted

/-! ### A port is reset -/

section Reset

variable {s : State} {p : Nat}

theorem portReset_of_quarantine (h : portState s p = fpQuarantine) : portReset s p = noteReset (startDisc s p) p := if_pos h

/-- A quarantined port discovers again. -/
theorem quarantine_resets (h : portState s p = fpQuarantine) :
    let t := portReset s p
    portState t p = fpDiscovery ∧ rdF t (fpReg p 0) 6 3 = 0 ∧ (portAt t p).passed = false ∧ SameWords [fpReg p 0] s t ∧
      t.insts = s.insts ∧ t.ladle = s.ladle := by
  rw [portReset_of_quarantine h]
  have hcw := noteReset_cw (startDisc s p) p
  refine ⟨(portState_of_cw hcw p).trans (portState_startDisc ..), (rdF_of_cw hcw ..).trans (reason_startDisc ..), ?_,
    (sameWords_startDisc s p).trans (.of_cw hcw), ?_, ?_⟩
  · rw [portAt_noteReset, portAt_startDisc]
    split <;> rfl
  · rw [noteReset_insts, insts_startDisc]
  · rw [noteReset_ladle, ladle_startDisc]

/-- A port that stands as after a cold reset; its link may still be mixed. -/
def portCleared (s : State) (p : Nat) : State := modPort (wr (setState s p fpDown) (fpReg p 0) (regReset (fpReg p 0))) p (fun _ => {})

/-- The same, with a vector where FW_MIX was set, and noted for the plane decision. -/
def portRestarted (s : State) (p : Nat) : State := noteReset (if rbit s (fpReg p 0) 7 then portSignal (portCleared s p) else portCleared s p) p

theorem portReset_of_idle (hidle : portCarries s p = false) (h : portState s p ≠ fpQuarantine) : portReset s p =
    if portsLive (portRestarted s p) && !portDisabled (portRestarted s p) p then setState (portRestarted s p) p fpTraining
    else portRestarted s p := by
  rw [portReset, if_neg h, leaveActive_of_not_carries hidle]
  rfl

theorem portRestarted_view {β : Type} (v : State → β) (hnote : ∀ u, v (noteReset u p) = v u) (hsignal : ∀ u, v (portSignal u) = v u) :
    v (portRestarted s p) = v (portCleared s p) := by
  rw [portRestarted, hnote]
  split
  · exact hsignal _
  · rfl

theorem rd_portRestarted (o : Nat) : rd (portRestarted s p) o = rd (portCleared s p) o :=
  portRestarted_view (fun u => rd u o) (fun u => rd_of_cw (noteReset_cw u p) o) (fun u => rd_portSignal u o)

theorem sameWords_portRestarted : SameWords [fpReg p 0] s (portRestarted s p) := fun o ho => by
  have hne : o ≠ fpReg p 0 := fun h => ho (List.mem_singleton.mpr h)
  rw [rd_portRestarted, portCleared, rd_modPort, rd_wr_ne _ _ hne]
  exact rd_wrF_ne s 2 0 fpDown hne

theorem status_portRestarted : rd (portRestarted s p) (fpReg p 0) = regReset (fpReg p 0) := by
  rw [rd_portRestarted, portCleared, rd_modPort, rd_wr_same]

theorem portAt_portRestarted : portAt (portRestarted s p) p = {} := by
  rw [portRestarted_view (fun u => portAt u p) (fun u => portAt_noteReset u p p) (fun u => portAt_portSignal u p)]
  exact portAt_modPort_same ..

theorem life_portRestarted : (portRestarted s p).life = s.life :=
  portRestarted_view State.life (fun u => noteReset_life u p) (fun _ => (signal_life ..).trans (signal_life ..))

theorem insts_portRestarted : (portRestarted s p).insts = s.insts :=
  portRestarted_view State.insts (fun u => noteReset_insts u p) portSignal_insts

theorem ladle_portRestarted : (portRestarted s p).ladle = s.ladle :=
  portRestarted_view State.ladle (fun u => noteReset_ladle u p) portSignal_ladle

/-- A port that carries no traffic and is not quarantined restarts, and trains where it may. -/
theorem idle_resets (hidle : portCarries s p = false) (h : portState s p ≠ fpQuarantine) :
    let t := portReset s p
    rd t (fpReg p 0) = (if portsLive s && !portDisabled s p then setFld (regReset (fpReg p 0)) 2 0 fpTraining else regReset (fpReg p 0)) ∧
      portAt t p = {} ∧ SameWords [fpReg p 0] s t ∧ t.insts = s.insts ∧ t.ladle = s.ladle := by
  rw [portReset_of_idle hidle h, portsLive_of_life life_portRestarted, portDisabled_of_sameWords sameWords_portRestarted]
  split
  · refine ⟨?_, portAt_portRestarted, sameWords_portRestarted.trans (sameWords_wr _ _ (List.mem_singleton_self _)),
      insts_portRestarted, ladle_portRestarted⟩
    rw [setState, wrF, rd_wr_same, status_portRestarted]
  · exact ⟨status_portRestarted, portAt_portRestarted, sameWords_portRestarted, insts_portRestarted, ladle_portRestarted⟩

end Reset

end Sys2Proof.Machine
end

section
/-! PROOF. O22: drains, resets and the control of a port, and the decision about planes (10 R247, R252, 18 R436). -/

namespace Sys2Proof.Machine

/-! ### DRAIN_COMPLETE, FP_DRAIN -/

section Drain

variable {s : State} {p : Nat}

/-- A port that has drained. -/
def portDrained (s : State) (p : Nat) : State := modPort (setState s p fpDown) p freshExchange

theorem drainDone_of_draining (h : portState s p = fpDraining) : drainDone s p = flushWaits (portDrained s p) := if_pos h

/-- What waits may go out; nothing else changes. -/
theorem flushWaits_cw (s : State) : (flushWaits s).cw = s.cw := (congrArg State.cw (butFabric_flushWaits s) :)

/-- States that agree but in their words and in what the fabric holds and sends. -/
theorem eq_withFabric {s t : State} (h : butFabric { t with cw := [] } = butFabric { s with cw := [] }) :
    t = { s with cw := t.cw, fab := t.fab, ifpOut := t.ifpOut } :=
  congrArg (fun u : State => { u with cw := t.cw, fab := t.fab, ifpOut := t.ifpOut }) h

theorem port_drained (s : State) (p : Nat) :
    let t := flushWaits (portDrained s p)
    portState t p = fpDown ∧ SameWords [fpReg p 0] s t ∧ t = { s with cw := t.cw, fab := t.fab, ifpOut := t.ifpOut } := by
  refine ⟨?_, fun o ho => ?_, eq_withFabric ?_⟩
  · rw [portState_of_links (links_flushWaits _), portDrained, portState_modPort, portState_setState_same _ _ (by decide)]
  · rw [rd_of_cw (flushWaits_cw _), portDrained, rd_modPort]
    exact rd_wrF_ne s 2 0 fpDown (fun h => ho (List.mem_singleton.mpr h))
  · exact (congrArg (fun u : State => { u with cw := [] }) (butFabric_flushWaits (portDrained s p)) :)

end Drain

/-! ### FP_DISABLE -/

section Disable

variable {s : State} {p : Nat}

theorem portState_wbit_ctrl (s : State) (p i : Nat) (b : Bool) : portState (wbit s (fpReg p 0x0C) i b) p = portState s p :=
  congrArg (fld · 2 0) (rd_wbit_ne s i b (by simp))

/-- A port that is held DOWN. -/
def portOff (s : State) (p : Nat) : State := modPort (wrF (setState s p fpDown) (fpReg p 0) 6 3 0) p freshExchange

theorem portDisable_on (h : portCarries s p = false) : portDisable s p true = portOff (wbit s (fpReg p 0x0C) 2 true) p := by
  have hidle : portCarries (wbit s (fpReg p 0x0C) 2 true) p = false := by rw [portCarries, portState_wbit_ctrl]; exact h
  rw [portDisable, if_pos rfl, leaveActive_of_not_carries hidle]
  rfl

theorem portState_portOff (s : State) (p : Nat) : portState (portOff s p) p = fpDown := by
  rw [portOff, portState_modPort, portState_wrF_above _ _ _ (by decide) (by decide) (by decide), portState_setState_same _ _ (by decide)]

theorem sameWords_portOff (s : State) (p : Nat) : SameWords [fpReg p 0] s (portOff s p) := fun o ho => by
  have hne : o ≠ fpReg p 0 := fun h => ho (List.mem_singleton.mpr h)
  rw [portOff, rd_modPort, rd_wrF_ne _ _ _ _ hne, setState, rd_wrF_ne _ _ _ _ hne]

theorem port_disabled (h : portCarries s p = false) :
    let t := portDisable s p true
    portState t p = fpDown ∧ portDisabled t p = true ∧ SameWords [fpReg p 0, fpReg p 0x0C] s t := by
  rw [portDisable_on h]
  have hoff := sameWords_portOff (wbit s (fpReg p 0x0C) 2 true) p
  refine ⟨portState_portOff .., ?_, ?_⟩
  · exact (portDisabled_of_sameWords hoff p).trans (rbit_wbit_same s (fpReg p 0x0C) true (by decide))
  · exact (sameWords_wr s _ (by simp)).trans (hoff.mono (by simp))

theorem signalDetect_of_disabled (h : portDisabled s p = true) : signalDetect s p = s :=
  if_neg fun hall => by rw [h] at hall; exact Bool.false_ne_true hall.2.1.symm

end Disable

/-! ### PORT_POLICY_WRITE -/

section Policy

variable {s : State} (v : W32)

/-- The bits of PORT_POLICY that a write takes: SECURE only while it is not locked (18 R436). -/
def policyMask (s : State) : W32 := if rbit s (secReg 0) 10 then 5 else 7

/-- PORT_POLICY is written, and a new decision may be made. -/
def policyKept (s : State) (v : W32) : State :=
  let u := wr s (fabReg 0) (masked (policyMask s) (rd s (fabReg 0)) v)
  { u with fab := { u.fab with decided := false, resets := [] } }

/-- Quarantined ports discover again. -/
def rediscovered (s : State) : State := (List.range 18).foldl (fun s p => if portState s p = fpQuarantine then startDisc s p else s) s

/-- The planes are judged again, or no CONFIRM is held any more. -/
def planesRejudged (s : State) : State :=
  if remapAllowed s then decideIf s else planePorts.foldl (fun s p => if (portAt s p).held then quarantine s p 7 else s) s

theorem policyWrite_eq (s : State) : policyWrite s v = planesRejudged (rediscovered (policyKept s v)) := rfl

theorem rediscovered_of_none (h : ∀ p, p < 18 → portState s p ≠ fpQuarantine) : rediscovered (policyKept s v) = policyKept s v :=
  foldl_of_fixed fun p hp => if_neg (by
    have hstate : portState (policyKept s v) p = portState s p := congrArg (fld · 2 0) (rd_wr_ne s _ (fpReg_ne_fabReg (by decide)))
    rw [hstate]
    exact h p (List.mem_range.mp hp))

theorem allPassed_eq_false {s : State} {p : Nat} (hp : p < 16) (h : (portAt s p).passed = false) : allPassed s = false :=
  List.all_eq_false.mpr ⟨p, List.mem_range.mpr hp, by rw [h]; exact Bool.false_ne_true⟩

theorem planesRejudged_of_none (h : ∀ p, p < 16 → (portAt s p).passed = false ∧ (portAt s p).held = false) : planesRejudged s = s := by
  have hpassed : allPassed s = false := allPassed_eq_false (p := 0) (by decide) (h 0 (by decide)).1
  unfold planesRejudged
  split
  · rw [decideIf, if_neg (by rw [hpassed, Bool.and_false]; exact Bool.false_ne_true)]
  · exact foldl_of_fixed fun p hp => if_neg (by rw [(h p (List.mem_range.mp hp)).2]; exact Bool.false_ne_true)

theorem rdF_policyKept {i : Nat} (h : i < 32) :
    rdF (policyKept s v) (fabReg 0) i i = if (policyMask s).getLsbD i then fld v i i else rdF s (fabReg 0) i i :=
  (congrArg (fld · i i) (rd_wr_same s ..)).trans (fld_masked _ _ _ h)

theorem policy_kept (s : State) (v : W32) :
    let t := policyKept s v
    rdF t (fabReg 0) 0 0 = fld v 0 0 ∧ rdF t (fabReg 0) 2 2 = fld v 2 2 ∧
      rdF t (fabReg 0) 1 1 = (if rbit s (secReg 0) 10 then rdF s (fabReg 0) 1 1 else fld v 1 1) ∧ t.fab.decided = false ∧
      SameWords [fabReg 0] s t ∧ t = { s with cw := t.cw, fab := t.fab } := by
  refine ⟨?_, ?_, ?_, rfl, sameWords_wr s _ (List.mem_singleton_self _), rfl⟩
  · exact (rdF_policyKept v (by decide)).trans (if_pos (by unfold policyMask; split <;> decide))
  · exact (rdF_policyKept v (by decide)).trans (if_pos (by unfold policyMask; split <;> decide))
  · refine (rdF_policyKept v (by decide)).trans ?_
    unfold policyMask
    split
    · exact if_neg (by decide)
    · exact if_pos (by decide)

end Policy

/-! ### PLANE_REMAP_DECISION (10 R252) -/

section Planes

variable {s : State}

/-- The decision is taken. -/
def planesDecided (s : State) : State := { s with fab := { s.fab with decided := true, resets := [] } }

/-- The map is the identity. -/
def planesAsIs (s : State) : State := planePorts.foldl (fun t p => setMapPlane t p p) (planesDecided s)

/-- The ports whose CONFIRM is held. -/
def heldPorts (s : State) : List Nat := planePorts.filter fun p => (portAt s p).held

theorem decidePlanes_refused (h : (allPassed s && isPermutation s) = false) :
    decidePlanes s = (heldPorts s).foldl (fun t p => quarantine t p 7) (planesAsIs s) := by
  unfold decidePlanes
  exact if_neg (Bool.eq_false_iff.mp h)

theorem planeDecision_decides {p : Nat} (hallow : remapAllowed s = true) (hdecided : s.fab.decided = false) (hp : p < 16)
    (hpassed : (portAt s p).passed = true) : planeDecision s = decidePlanes s := by
  have hany : planePorts.any (fun p => (portAt s p).passed) = true := List.any_eq_true.mpr ⟨p, List.mem_range.mpr hp, hpassed⟩
  exact if_pos (by rw [hallow, hdecided, hany]; rfl)

theorem nodup_heldPorts (s : State) : (heldPorts s).Nodup := List.nodup_range.filter _

theorem lt_of_mem_heldPorts {p : Nat} (h : p ∈ heldPorts s) : p < 16 := List.mem_range.mp (List.mem_filter.mp h).1

theorem decided_quarantine (s : State) (p reason : Nat) : (quarantine s p reason).fab.decided = s.fab.decided := by
  have hleave := decided_of_links (links_leaveActive s p fpQuarantine)
  rw [quarantine_eq, decided_of_links (links_portSignal _)]
  exact hleave

theorem mapPlane_quarantine (s : State) (p reason q : Nat) : mapPlane (quarantine s p reason) q = mapPlane s q := by
  have hmap : IsLinkWord (fabReg (if q < 8 then 8 else 0x0C)) := isLinkWord_fabReg (by split <;> decide)
  have hne : fabReg (if q < 8 then 8 else 0x0C) ≠ fpReg p 0 := fabReg_ne_fpReg (by split <;> decide)
  exact congrArg (fld · (q % 8 * 4 + 3) (q % 8 * 4)) (rd_quarantine_ne s hmap hne)

/-- Each plane of the map has a field of its own. -/
theorem mapPlane_setMapPlane_ne (s : State) {p q : Nat} (v : Nat) (hp : p < 16) (hq : q < 16) (h : p ≠ q) :
    mapPlane (setMapPlane s p v) q = mapPlane s q := by
  by_cases hword : fabReg (if q < 8 then 8 else 0x0C) = fabReg (if p < 8 then 8 else 0x0C)
  · rw [mapPlane, mapPlane, setMapPlane, hword]
    refine rdF_wrF_other s _ v (by omega) (by omega) (by omega) ?_
    simp only [fabReg_inj] at hword
    split at hword <;> split at hword <;> omega
  · exact rdF_wrF_ne s _ _ v _ _ hword

theorem mapPlane_setMapPlane_same (s : State) {p : Nat} (hp : p < 16) : mapPlane (setMapPlane s p p) p = p := by
  have hwidth : p % 8 * 4 + 3 + 1 - p % 8 * 4 = 4 := by omega
  exact (rdF_wrF_same s _ p (by omega) (by omega)).trans (by rw [hwidth]; exact Nat.mod_eq_of_lt hp)

theorem decided_setMapPlane (s : State) (p v : Nat) : (setMapPlane s p v).fab.decided = s.fab.decided := rfl

theorem decided_planesAsIs (s : State) : (planesAsIs s).fab.decided = true := by
  rw [planesAsIs, foldl_view (v := fun u => u.fab.decided) (fun p _ u => decided_setMapPlane u p p)]
  rfl

theorem mapPlane_planesAsIs (s : State) {q : Nat} (hq : q < 16) : mapPlane (planesAsIs s) q = q := by
  obtain ⟨u, -, hmap⟩ := foldl_view_at (v := fun u => mapPlane u q) (f := fun t p => setMapPlane t p p) (l := planePorts) (a := q)
    List.nodup_range (List.mem_range.mpr hq) (fun p hp hne u => mapPlane_setMapPlane_ne u p (List.mem_range.mp hp) hq hne) (planesDecided s)
  exact hmap.trans (mapPlane_setMapPlane_same u hq)

theorem planes_refused {p : Nat} (hp : p < 16) (hheld : (portAt s p).held = true) (h : (allPassed s && isPermutation s) = false) :
    let t := decidePlanes s
    portState t p = fpQuarantine ∧ rdF t (fpReg p 0) 6 3 = 7 ∧ t.fab.decided = true ∧ (∀ q, q < 16 → mapPlane t q = q) := by
  have hmem : p ∈ heldPorts s := List.mem_filter.mpr ⟨List.mem_range.mpr hp, hheld⟩
  rw [decidePlanes_refused h]
  obtain ⟨u, -, hword⟩ := foldl_view_at (v := fun u => rd u (fpReg p 0)) (f := fun t p => quarantine t p 7) (nodup_heldPorts s) hmem
    (fun q hq hne u => rd_quarantine_ne u (isLinkWord_fpReg p (by decide))
      (fpReg_ne_fpReg (by have := lt_of_mem_heldPorts hq; omega) (by omega) hne.symm (by decide) (by decide))) (planesAsIs s)
  refine ⟨?_, ?_, ?_, fun q hq => ?_⟩
  · exact (congrArg (fld · 2 0) hword).trans (portState_quarantine u p 7)
  · exact (congrArg (fld · 6 3) hword).trans (reason_quarantine u (by decide))
  · refine (foldl_view (v := fun u => u.fab.decided) (fun p _ u => decided_quarantine u p 7) _).trans ?_
    exact decided_planesAsIs s
  · exact (foldl_view (v := fun u => mapPlane u q) (fun p _ u => mapPlane_quarantine u p 7 q) _).trans (mapPlane_planesAsIs s hq)

end Planes

/-- Settles O22: what each control of a port writes, and the plane decision by the last step that bears on a port or a plane. -/
theorem portControl : Obligations.PortControl := by
  unfold Obligations.PortControl
  refine ⟨fun s p hp h => ?_, fun s p hp h => ?_, fun s p hp h => ?_, fun s p hp hidle h => ?_, fun s p hp hidle => ?_, fun s p hp => ?_,
    fun s v hquar hports => ?_, fun s p hallow hdecided hp hpassed hheld hno _ => ?_⟩
  · refine ⟨flushWaits (portDrained s p), ?_, port_drained s p⟩
    exact (onUnit_of_true (decide_eq_true hp) _).trans (congrArg _ (drainDone_of_draining h))
  · refine ⟨setState s p fpDraining, ?_, portState_setState_same _ _ (by decide), sameWords_wr s _ (List.mem_singleton_self _), rfl⟩
    exact (onUnit_of_true (decide_eq_true hp) _).trans (congrArg _ (if_pos h))
  · exact ⟨portReset s p, onUnit_of_true (decide_eq_true hp) _, quarantine_resets h⟩
  · obtain ⟨hstatus, -, hrest⟩ := idle_resets hidle h
    exact ⟨portReset s p, onUnit_of_true (decide_eq_true hp) _, hstatus, hrest⟩
  · obtain ⟨hdown, hoff, hwords⟩ := port_disabled hidle
    refine ⟨portDisable s p true, onUnit_of_true (decide_eq_true hp) _, hdown, hoff, hwords, ?_⟩
    exact (onUnit_of_true (decide_eq_true hp) _).trans (congrArg _ (signalDetect_of_disabled hoff))
  · exact ⟨wbit s (fpReg p 0x0C) 2 false, onUnit_of_true (decide_eq_true hp) _, rbit_wbit_same s _ false (by decide),
      portState_wbit_ctrl .., sameWords_wr s _ (List.mem_singleton_self _), rfl⟩
  · have hrun : policyWrite s v = policyKept s v := by
      rw [policyWrite_eq, rediscovered_of_none v hquar]
      exact planesRejudged_of_none (s := policyKept s v) hports
    exact ⟨policyKept s v, (rfl : exec (.portPolicyWrite v) s = .next (policyWrite s v)).trans (congrArg _ hrun), policy_kept s v⟩
  · exact ⟨decidePlanes s, (rfl : exec .planeRemapDecision s = .next (planeDecision s)).trans
      (congrArg _ (planeDecision_decides hallow hdecided hp hpassed)), planes_refused hp hheld hno⟩

end Sys2Proof.Machine
end

section
/-! PROOF. O23: part IDs, coordinates and rack time (10 R241-R243, R253, R254). -/

namespace Sys2Proof.Machine

/-! ### The part's ID -/

section Id

variable (s : State) (takeover : Bool)

theorem sameWords_takeId : SameWords [fabReg 4] s (takeId s takeover) :=
  ((sameWords_wr s _ (List.mem_singleton_self _)).trans (sameWords_wr _ _ (List.mem_singleton_self _))).trans
    (sameWords_wr _ _ (List.mem_singleton_self _))

theorem takeId_fab : (takeId s takeover).fab = s.fab := rfl
theorem takeId_insts : (takeId s takeover).insts = s.insts := rfl

theorem butFabWords_takeId : butFabWords (takeId s takeover) = butFabWords s := rfl

theorem partId_takeId : partId (takeId s takeover) = s.fab.coord.toNat := by
  refine (rdF_wrF_other _ _ _ (by decide) (by decide) (by decide) (.inl (by decide))).trans
    ((rdF_wrF_other _ _ _ (by decide) (by decide) (by decide) (.inl (by decide))).trans
      ((rdF_wrF_same s (fabReg 4) s.fab.coord.toNat (by decide) (by decide)).trans (Nat.mod_eq_of_lt s.fab.coord.isLt)))

theorem idValid_takeId : idValid (takeId s takeover) = true :=
  (congrArg (· == 1) (rdF_wrF_other _ (fabReg 4) _ (by decide) (by decide) (by decide) (.inl (by decide)))).trans
    (rbit_wbit_same (wrF s (fabReg 4) 12 0 s.fab.coord.toNat) (fabReg 4) true (by decide))

theorem takenOver_takeId : rbit (takeId s takeover) (fabReg 4) 14 = takeover :=
  rbit_wbit_same (wbit (wrF s (fabReg 4) 12 0 s.fab.coord.toNat) (fabReg 4) 13 true) (fabReg 4) takeover (by decide)

theorem portState_takeId (p : Nat) : portState (takeId s takeover) p = portState s p :=
  (sameWords_takeId s takeover).rdF (fun h => fpReg_ne_fabReg (by decide) (List.mem_singleton.mp h)) 2 0

end Id

/-! ### COORD_COMMIT (10 R241, R242) -/

section Commit

variable {s : State} {c : Nat}

/-- COORD as the controller has written it. -/
def coordWritten (s : State) (c : Nat) : State :=
  let u := i3cAssigned s
  { u with fab := { u.fab with coord := BitVec.ofNat 13 c } }

/-- The offer is accepted. -/
def coordAccepted (s : State) : State :=
  { s with fab := { s.fab with accepted := true, idCoord := s.fab.coord, waiting := false, mismatch := false } }

/-- The offer is refused: POSITION is not the slot's. -/
def coordRefused (s : State) : State := { s with fab := { s.fab with mismatch := true } }

/-- An offer to a part that has no ID. -/
theorem coordCommit_of_new (h : s.fab.accepted = false) : coordCommit s c = if strapBad (coordWritten s c)
    then coordRefused (coordWritten s c) else (List.range 18).foldl discNow (takeId (coordAccepted (coordWritten s c)) false) :=
  if_neg (Bool.eq_false_iff.mp h : ¬(coordWritten s c).fab.accepted = true)

theorem coordCommit_of_accepted (h : s.fab.accepted = true) : coordCommit s c = coordWritten s c := if_pos h

theorem coord_coordWritten (s : State) (c : Nat) : (coordWritten s c).fab.coord.toNat = c % 8192 := BitVec.toNat_ofNat ..

theorem strapBad_of_coord {u : State} (h : u.fab.coord.toNat = c % 8192) : strapBad u = decide (c % 4 ≠ u.life.strap) := by
  rw [strapBad, h, show c % 8192 % 4 = c % 4 by omega]

theorem discNow_of_not_discovery {p : Nat} (h : portState s p ≠ fpDiscovery) : discNow s p = s := if_neg h

theorem coord_committed (hnew : s.fab.accepted = false) (hstrap : c % 4 = s.life.strap) (hports : ∀ p, p < 18 → portState s p ≠ fpDiscovery) :
    coordCommit s c = takeId (coordAccepted (coordWritten s c)) false := by
  rw [coordCommit_of_new hnew, strapBad_of_coord (coord_coordWritten s c), if_neg (by rw [decide_eq_true_eq]; exact not_not_intro hstrap)]
  refine foldl_of_fixed fun p hp => discNow_of_not_discovery ?_
  rw [portState_takeId]
  exact hports p (List.mem_range.mp hp)

theorem butFabWords_coordWritten (s : State) (c : Nat) : butFabWords (coordWritten s c) = butFabWords s := by
  rw [coordWritten, i3cAssigned]
  rfl

theorem butFabWords_coordAccepted (s : State) : butFabWords (coordAccepted s) = butFabWords s := rfl

/-- What the fabric holds once it has its ID. -/
theorem fab_coordAccepted (s : State) (c : Nat) :
    let f := (takeId (coordAccepted (coordWritten s c)) false).fab
    f.accepted = true ∧ f.mismatch = false ∧ f.i3cAddr ≠ none ∧ f.waiting = false := by
  rw [takeId_fab]
  exact ⟨rfl, rfl, Option.some_ne_none _, rfl⟩

theorem coord_refused (hnew : s.fab.accepted = false) (hstrap : c % 4 ≠ s.life.strap) :
    coordCommit s c = coordRefused (coordWritten s c) := by
  rw [coordCommit_of_new hnew, strapBad_of_coord (coord_coordWritten s c), if_pos (by rw [decide_eq_true_eq]; exact hstrap)]

end Commit

/-! ### COORD_TAKEOVER (10 R243) -/

section Takeover

variable {s : State} {c : Nat}

/-- COORD as a takeover writes it: what was refused before is forgotten. -/
def takeoverWritten (s : State) (c : Nat) : State :=
  let u := i3cAssigned s
  { u with fab := { u.fab with coord := BitVec.ofNat 13 c, mismatch := false, busy := false } }

/-- The part is busy: a model is placed. -/
def takeoverBusy (s : State) : State := { s with fab := { s.fab with busy := true } }

/-- The ID that the offer gives is the part's own. -/
def idOffered (s : State) : State := { s with fab := { s.fab with idCoord := s.fab.coord } }

/-- The ACTIVE ports drain. -/
def portsDrain (s : State) : State := (List.range 18).foldl portDrain s

/-- Every port in DISCOVERY or QUARANTINE discovers again. -/
def portsDiscoverAgain (s : State) : State :=
  (List.range 18).foldl (fun s p => if portState s p = fpDiscovery ∨ portState s p = fpQuarantine then startDisc s p else s) s

theorem coordTakeover_eq (h : s.fab.accepted = true) : coordTakeover s c =
    if strapBad (takeoverWritten s c) then coordRefused (takeoverWritten s c)
    else if (takeoverWritten s c).insts.any (fun p => p.2.placed) then takeoverBusy (takeoverWritten s c)
    else portsDiscoverAgain (takeId (portsDrain (idOffered (takeoverWritten s c))) true) :=
  if_neg (by rw [h]; exact Bool.false_ne_true)

theorem strapBad_takeoverWritten (h : c % 4 = s.life.strap) : ¬strapBad (takeoverWritten s c) = true := by
  rw [strapBad_of_coord (c := c) (BitVec.toNat_ofNat ..), decide_eq_true_eq]
  exact not_not_intro h

theorem fab_portDrain (s : State) (p : Nat) : (portDrain s p).fab = s.fab := by
  unfold portDrain
  split <;> rfl

theorem insts_portDrain (s : State) (p : Nat) : (portDrain s p).insts = s.insts := by
  unfold portDrain
  split <;> rfl

theorem sameWords_portDrain (s : State) (p : Nat) : SameWords [fpReg p 0] s (portDrain s p) := by
  unfold portDrain
  split
  · exact sameWords_wr s _ (List.mem_singleton_self _)
  · exact .refl s

theorem portState_portDrain (s : State) (p : Nat) : portState (portDrain s p) p = if portState s p = fpActive then fpDraining else portState s p := by
  unfold portDrain
  split
  · exact portState_setState_same _ _ (by decide)
  · rfl

theorem fab_portsDrain (s : State) : (portsDrain s).fab = s.fab := foldl_view (v := State.fab) (fun p _ u => fab_portDrain u p) s
theorem insts_portsDrain (s : State) : (portsDrain s).insts = s.insts := foldl_view (v := State.insts) (fun p _ u => insts_portDrain u p) s

theorem portState_portsDrain (s : State) {p : Nat} (hp : p < 18) :
    portState (portsDrain s) p = if portState s p = fpActive then fpDraining else portState s p := by
  obtain ⟨u, hu, hv⟩ := foldl_view_at (v := fun u => portState u p) (f := portDrain) (l := List.range 18) List.nodup_range (List.mem_range.mpr hp)
    (fun q hq hne u => portState_of_sameWords_state (sameWords_portDrain u q) (List.mem_range.mp hq) hp hne.symm) s
  exact hv.trans ((portState_portDrain u p).trans (by rw [show portState u p = portState s p from hu]))

theorem portsDiscoverAgain_of_none (h : ∀ p, p < 18 → portState s p ≠ fpDiscovery ∧ portState s p ≠ fpQuarantine) : portsDiscoverAgain s = s :=
  foldl_of_fixed fun p hp => if_neg fun hs => hs.elim (h p (List.mem_range.mp hp)).1 (h p (List.mem_range.mp hp)).2

theorem coord_taken_over (hid : s.fab.accepted = true) (hstrap : c % 4 = s.life.strap) (hinsts : ∀ e ∈ s.insts, e.2.placed = false)
    (hports : ∀ p, p < 18 → portState s p ≠ fpDiscovery ∧ portState s p ≠ fpQuarantine) :
    let t := coordTakeover s c
    partId t = c % 8192 ∧ idValid t = true ∧ rbit t (fabReg 4) 14 = true ∧
      (∀ p, p < 18 → portState t p = (if portState s p = fpActive then fpDraining else portState s p)) ∧ t.insts = s.insts := by
  have hplaced : ¬(takeoverWritten s c).insts.any (fun p => p.2.placed) = true := fun h => by
    obtain ⟨e, he, hplaced⟩ := List.any_eq_true.mp h
    exact Bool.false_ne_true ((hinsts e he).symm.trans hplaced)
  have hstate (p : Nat) (hp : p < 18) : portState (takeId (portsDrain (idOffered (takeoverWritten s c))) true) p =
      if portState s p = fpActive then fpDraining else portState s p :=
    (portState_takeId ..).trans (portState_portsDrain _ hp)
  have hrun : coordTakeover s c = takeId (portsDrain (idOffered (takeoverWritten s c))) true := by
    rw [coordTakeover_eq hid, if_neg (strapBad_takeoverWritten hstrap), if_neg hplaced]
    refine portsDiscoverAgain_of_none fun p hp => ?_
    rw [hstate p hp]
    split
    · exact ⟨by decide, by decide⟩
    · exact hports p hp
  rw [hrun]
  refine ⟨?_, idValid_takeId .., takenOver_takeId .., hstate, ?_⟩
  · rw [partId_takeId, fab_portsDrain]
    exact BitVec.toNat_ofNat ..
  · rw [takeId_insts, insts_portsDrain]
    rfl

theorem takeover_busy (hid : s.fab.accepted = true) (hstrap : c % 4 = s.life.strap) (hinsts : ∃ e ∈ s.insts, e.2.placed = true) :
    coordTakeover s c = takeoverBusy (takeoverWritten s c) := by
  have hplaced : (takeoverWritten s c).insts.any (fun p => p.2.placed) = true := List.any_eq_true.mpr hinsts
  rw [coordTakeover_eq hid, if_neg (strapBad_takeoverWritten hstrap), if_pos hplaced]

end Takeover

/-! ### Ticks (10 R253) -/

section Ticks

variable {s : State}

/-- A good tick that no TIME frame has announced. -/
def ticked (s : State) (time : W64) (dev : Int) : State :=
  let u := wrF s (fabReg 0x14) 15 8 (unsgn 8 dev)
  { u with rackTime := time, fab := { u.fab with goodTicks := u.fab.goodTicks + 1, running := true } }

theorem goodTick_eq (h : s.fab.nextTick = none) (time : W64) (dev : Int) : goodTick s time dev =
    if 3 ≤ s.fab.goodTicks + 1 then wbit (ticked s time dev) (fabReg 0x14) 1 false else ticked s time dev := by
  unfold goodTick
  dsimp only
  split
  · rename_i hsome
    exact nomatch hsome.symm.trans h
  · rfl

theorem rdF_ticked (s : State) (time : W64) (dev : Int) : rdF (ticked s time dev) (fabReg 0x14) 15 8 = unsgn 8 dev :=
  (rdF_wrF_same s _ _ (by decide) (by decide)).trans (Nat.mod_eq_of_lt (unsgn_lt 8 dev))

theorem sameWords_ticked (s : State) (time : W64) (dev : Int) : SameWords [fabReg 0x14] s (ticked s time dev) :=
  sameWords_wr s _ (List.mem_singleton_self _)

/-- What a good tick leaves: the time, one more in the row, its deviation, and no error after three. -/
theorem good_tick (h : s.fab.nextTick = none) (time : W64) (dev : Int) :
    let t := goodTick s time dev
    t.rackTime = time ∧ t.fab.running = true ∧ t.fab.goodTicks = s.fab.goodTicks + 1 ∧ rdF t (fabReg 0x14) 15 8 = unsgn 8 dev ∧
      (3 ≤ s.fab.goodTicks + 1 → rbit t (fabReg 0x14) 1 = false) ∧ SameWords [fabReg 0x14] s t := by
  rw [goodTick_eq h]
  split
  · refine ⟨rfl, rfl, rfl, ?_, fun _ => rbit_wbit_same (ticked s time dev) _ false (by decide), ?_⟩
    · exact (rdF_wrF_other _ _ _ (by decide) (by decide) (by decide) (.inr (by decide))).trans (rdF_ticked s time dev)
    · exact (sameWords_ticked s time dev).trans (sameWords_wr _ _ (List.mem_singleton_self _))
  · rename_i hfew
    exact ⟨rfl, rfl, rfl, rdF_ticked s time dev, fun hmany => absurd hmany hfew, sameWords_ticked s time dev⟩

theorem rackTick_first (h : s.fab.running = false) : rackTick s = goodTick s 0 0 := if_pos (by rw [h]; rfl)

theorem rackTick_running (h : s.fab.running = true) : rackTick s =
    if (tickDev s.rackTime).natAbs ≤ 2 then goodTick s (s.rackTime - BitVec.ofInt 64 (tickDev s.rackTime)) (tickDev s.rackTime)
    else tickError s := if_neg (by rw [h]; exact Bool.false_ne_true)

/-- The counter's distance from the multiple of 65,536 that it is near. -/
theorem tickDev_ofInt {d : Int} (k : Nat) (hlo : -2 ≤ d) (hhi : d ≤ 2) : tickDev (BitVec.ofInt 64 (65536 * (k : Int) + d)) = d := by
  have hmod : ((BitVec.ofInt 64 (65536 * (k : Int) + d)).toNat % 65536 : Int) = d % 65536 := by
    rw [BitVec.toNat_ofInt]
    omega
  unfold tickDev sgn
  split <;> omega

theorem sub_tickDev (d : Int) (k : Nat) : BitVec.ofInt 64 (65536 * (k : Int) + d) - BitVec.ofInt 64 d = BitVec.ofNat 64 (65536 * k) := by
  rw [BitVec.ofInt_add, BitVec.add_sub_cancel, ← BitVec.ofInt_natCast]
  push_cast
  rfl

theorem near_tick {d : Int} {k : Nat} (hrun : s.fab.running = true) (hlo : -2 ≤ d) (hhi : d ≤ 2)
    (htime : s.rackTime = BitVec.ofInt 64 (65536 * (k : Int) + d)) : rackTick s = goodTick s (BitVec.ofNat 64 (65536 * k)) d := by
  have hdev : tickDev s.rackTime = d := by rw [htime, tickDev_ofInt k hlo hhi]
  rw [rackTick_running hrun, hdev, if_pos (by omega), htime, sub_tickDev]

theorem off_tick (hrun : s.fab.running = true) (hlo : 2 < s.rackTime.toNat % 65536) (hhi : s.rackTime.toNat % 65536 < 65534) :
    rackTick s = tickError s := by
  rw [rackTick_running hrun, if_neg]
  unfold tickDev sgn
  split <;> omega

/-- A tick that is off, or missing, is counted. -/
theorem tick_error (s : State) :
    let t := tickError s
    t.rackTime = s.rackTime ∧ rbit t (fabReg 0x14) 1 = true ∧ t.fab.goodTicks = 0 ∧
      rd t (fabReg 0x24) = BitVec.ofNat 32 (Nat.min ((rd s (fabReg 0x24)).toNat + 1) 0xFFFF) ∧
      SameWords [fabReg 0x14, fabReg 0x24] s t := by
  have hcount (o : Nat) : rd (tickError s) o = rd (incHold (wbit s (fabReg 0x14) 1 true) (fabReg 0x24) 16 1) o := rfl
  refine ⟨rfl, ?_, rfl, ?_, fun o ho => ?_⟩
  · rw [rbit, rdF, hcount, rd_incHold_ne _ _ _ (by simp)]
    exact rbit_wbit_same s _ true (by decide)
  · rw [hcount, rd_incHold_same, rd_wbit_ne _ _ _ (by simp)]
    rfl
  · simp only [List.mem_cons, List.not_mem_nil, or_false, not_or] at ho
    rw [hcount, rd_incHold_ne _ _ _ ho.2, rd_wbit_ne _ _ _ ho.1]

theorem insts_faultRecord (s : State) (f : FaultInfo) : (faultRecord s f).insts = s.insts := by
  rw [faultRecord_eq]
  split
  · rfl
  · rw [signal_insts, signal_insts]
    refine (congrArg State.insts (countFault_butWords ..) :).trans ?_
    unfold keepFault
    split <;> rfl

/-- A fault of rack time leaves the fabric's words, and the state but for its records. -/
theorem tick_fault (s : State) :
    let t := tickFault s
    (∀ o, o < 0x0F000000 → rd t o = rd s o) ∧ t.rackTime = s.rackTime ∧ (∃ r, r ∈ t.faults ∧ r.cause = 19) ∧ t.fab = s.fab ∧
      t.insts = s.insts ∧ t.pot = s.pot := by
  have hrest := faultRecord_butFaults s { cls := 1, cause := 19, unit := Config.noUnit }
  obtain ⟨r, hr, hcause, -⟩ := exists_mem_faultRecord s { cls := 1, cause := 19, unit := Config.noUnit }
  exact ⟨fun o ho => rd_faultRecord_of_lt s _ ho, (congrArg State.rackTime hrest :), ⟨r, hr, hcause⟩, (congrArg State.fab hrest :),
    insts_faultRecord s _, (congrArg State.pot hrest :)⟩

end Ticks

/-! ### TIME (10 R254) -/

section Time

variable {s : State} {p : Nat}

/-- The time of the next tick has been announced. -/
def timeAnnounced (s : State) (u : W64) : State := { s with fab := { s.fab with nextTick := some u } }

theorem head?_filter_of_first {f : Nat → Bool} {n p : Nat} (hp : p < n) (h : f p = true) (hfirst : ∀ q, q < p → f q = false) :
    ((List.range n).filter f).head? = some p := by
  rw [List.head?_filter, List.find?_range_eq_some]
  exact ⟨h, List.mem_range.mpr hp, fun q hq => by rw [hfirst q hq]; rfl⟩

theorem first_active (hp : p < 16) (h : portState s p = fpActive) (hfirst : ∀ q, q < p → portState s q ≠ fpActive) :
    (planePorts.filter (fun q => portState s q == fpActive)).head? = some p :=
  head?_filter_of_first hp (beq_iff_eq.mpr h) fun q hq => beq_eq_false_iff_ne.mpr (hfirst q hq)

variable (hp : p < 16) (h : portState s p = fpActive) (hfirst : ∀ q, q < p → portState s q ≠ fpActive)
include hp h hfirst

theorem discTime_of_not_aligned (t : W64) (halign : rbit s (fabReg 0x14) 0 = false) :
    discTime s p t = timeAnnounced s (BitVec.ofNat 64 (t.toNat / 65536 * 65536)) := by
  rw [discTime, if_neg (not_not_intro (first_active hp h hfirst)), if_neg (Bool.eq_false_iff.mp halign)]
  rfl

theorem discTime_of_aligned (t : W64) (halign : rbit s (fabReg 0x14) 0 = true) (hmove : t.toNat ≠ (s.rackTime.toNat / 65536 + 1) * 65536) :
    discTime s p t = incHold s (fabReg 0x24) 16 1 := by
  rw [discTime, if_neg (not_not_intro (first_active hp h hfirst)), if_pos halign, if_neg hmove]

end Time

section Announced

variable (s : State) (u : W64)

/-- The counter takes the time that was announced. -/
def tickAligned (s : State) (u : W64) : State :=
  let t := wrF s (fabReg 0x14) 15 8 (unsgn 8 0)
  let t := wbit { t with rackTime := u, fab := { t.fab with nextTick := none } } (fabReg 0x14) 0 true
  { t with fab := { t.fab with goodTicks := t.fab.goodTicks + 1, running := true } }

theorem goodTick_announced : goodTick (timeAnnounced s u) 0 0 =
    if 3 ≤ s.fab.goodTicks + 1 then wbit (tickAligned (timeAnnounced s u) u) (fabReg 0x14) 1 false else tickAligned (timeAnnounced s u) u := rfl

theorem rbit_tickAligned : rbit (tickAligned s u) (fabReg 0x14) 0 = true := rbit_wbit_same _ (fabReg 0x14) true (by decide)

theorem announced_tick (h : s.fab.running = false) :
    let w := rackTick (timeAnnounced s u)
    w.rackTime = u ∧ rbit w (fabReg 0x14) 0 = true ∧ w.fab.nextTick = none := by
  rw [rackTick_first (s := timeAnnounced s u) h, goodTick_announced]
  split
  · refine ⟨rfl, ?_, rfl⟩
    exact (congrArg (· == 1) (rdF_wrF_other _ _ _ (by decide) (by decide) (by decide) (.inl (by decide)))).trans (rbit_tickAligned ..)
  · exact ⟨rfl, rbit_tickAligned .., rfl⟩

end Announced

/-- The time a TIME frame names is a word of 64 bits. -/
theorem toNat_discTime (bs : Bytes) : (BitVec.ofNat 64 (leAt bs 2 8)).toNat = leAt bs 2 8 :=
  (BitVec.toNat_ofNat ..).trans (Nat.mod_eq_of_lt ((leAt_lt bs 2 8).trans_le (by decide)))

/-- Settles O23: the ID is taken in one write of its word, and rack time by the tick, which is good, off or announced. -/
theorem coordinatesAndRackTime : Obligations.CoordinatesAndRackTime := by
  unfold Obligations.CoordinatesAndRackTime
  refine ⟨fun s c hnew hstrap hports => ?_, fun s c hnew hstrap => ?_, fun s c hid => ?_, fun s c hid hstrap hinsts hports => ?_,
    fun s c hid hstrap hinsts => ?_, fun s hrun hnext => ?_, fun s d k hrun hnext hlo hhi htime => ?_, fun s hrun hlo hhi => ?_,
    fun s => ?_, fun s => ?_, fun s p k hin hp h hfirst halign => ?_, fun s p k hin hp h hfirst halign hmove => ?_⟩
  · obtain ⟨hheld, hmatch, haddr, hwait⟩ := fab_coordAccepted s c
    refine ⟨takeId (coordAccepted (coordWritten s c)) false, congrArg _ (coord_committed hnew hstrap hports), ?_,
      idValid_takeId .., hheld, hmatch, haddr, hwait, ?_, eq_withFabWords ?_⟩
    · exact (partId_takeId ..).trans (coord_coordWritten s c)
    · exact fun o ho => sameWords_takeId (coordAccepted (coordWritten s c)) false o ho
    · rw [butFabWords_takeId, butFabWords_coordAccepted, butFabWords_coordWritten]
  · exact ⟨coordRefused (coordWritten s c), congrArg _ (coord_refused hnew hstrap), rfl, hnew, rfl⟩
  · exact ⟨coordWritten s c, congrArg _ (coordCommit_of_accepted hid), rfl, rfl⟩
  · exact ⟨coordTakeover s c, rfl, coord_taken_over hid hstrap hinsts hports⟩
  · exact ⟨takeoverBusy (takeoverWritten s c), congrArg _ (takeover_busy hid hstrap hinsts), rfl, rfl, rfl⟩
  · obtain ⟨htime, hruns, hgood, -, -, hwords⟩ := good_tick hnext 0 0
    exact ⟨goodTick s 0 0, congrArg _ (rackTick_first hrun), htime, hruns, hgood, hwords⟩
  · obtain ⟨hset, -, hgood, hdev, herr, hwords⟩ := good_tick hnext (BitVec.ofNat 64 (65536 * k)) d
    exact ⟨goodTick s (BitVec.ofNat 64 (65536 * k)) d, congrArg _ (near_tick hrun hlo hhi htime), hset, hgood, hdev, herr, hwords⟩
  · exact ⟨tickError s, congrArg _ (off_tick hrun hlo hhi), tick_error s⟩
  · obtain ⟨htime, hbit, hgood, -, -⟩ := tick_error s
    obtain ⟨hword, hkeeps, hrecord, hfab, hinsts, hpot⟩ := tick_fault (tickError s)
    refine ⟨tickFault (tickError s), rfl, ?_, hkeeps.trans htime, hrecord, ?_, hinsts, hpot⟩
    · exact (congrArg (fld · 1 1 == 1) (hword _ (by decide))).trans hbit
    · rw [hfab]
      exact hgood
  · obtain ⟨hword, hkeeps, hrecord, -, hinsts, hpot⟩ := tick_fault (wbit s (fabReg 0x14) 2 true)
    refine ⟨tickFault (wbit s (fabReg 0x14) 2 true), rfl, ?_, hkeeps, hrecord, hinsts, hpot⟩
    exact (congrArg (fld · 2 2 == 1) (hword _ (by decide))).trans (rbit_wbit_same s _ true (by decide))
  · have hrun := discTime_of_not_aligned hp h hfirst (BitVec.ofNat 64 (leAt k.payload 2 8)) halign
    rw [toNat_discTime] at hrun
    exact ⟨_, (onUnit_discIn hin _).trans (congrArg _ hrun), rfl, fun hstop => ⟨_, rfl, announced_tick s _ hstop⟩⟩
  · have hrun := discTime_of_aligned hp h hfirst (BitVec.ofNat 64 (leAt k.payload 2 8)) halign (by rwa [toNat_discTime])
    exact ⟨incHold s (fabReg 0x24) 16 1, (onUnit_discIn hin _).trans (congrArg _ hrun), rfl, rfl,
      sameWords_wr s _ (List.mem_singleton_self _), rd_incHold_same ..⟩

end Sys2Proof.Machine
end

section
/-! SUPPORT. What a reset of the part keeps and loses, word by word and field by field (19 R445-R448, Table 19.5). -/

namespace Sys2Proof.Machine

/-! ### Words under a key -/

theorem rd_filter_words (s : State) (keep : Nat → Bool) (o : Nat) :
    rd { s with cw := s.cw.filter fun w => keep w.1 } o = if keep o then rd s o else regReset o := by
  unfold rd mapGet
  dsimp only
  rw [mapFind_filter_key]
  split <;> rfl

/-! ### The state before the firmware's words are shown again -/

/-- A word that a reset keeps: of the VHK domain, or a count since cold reset. -/
def keptWord (cold vhk : Bool) (o : Nat) : Bool := (vhk && vhkWord o) || (!cold && warmWord o)

/-- The state after a reset, before the certificate, the broken sensors and what only a cold reset clears are shown. -/
def resetCore (s : State) (cold vhk : Bool) (rails : Nat) : State :=
  { State.reset with
    grade := s.grade
    cw := s.cw.filter fun w => keptWord cold vhk w.1
    hostMem := s.hostMem
    msixSent := s.msixSent
    ifpOut := s.ifpOut
    arrays := s.arrays
    remapNow := s.remapNow
    retiredTiles := s.retiredTiles
    ledger := s.ledger
    ledgerSeq := s.ledgerSeq
    fab := if cold then {} else { coord := s.fab.coord, idCoord := s.fab.idCoord, i3cAddr := s.fab.i3cAddr, accepted := s.fab.accepted, waiting := s.fab.waiting }
    hk := if vhk then hkKept s.hk else { vinOn := s.hk.vinOn }
    sec := secKept s.sec
    life := lifeKept s.life rails
    freeNo := s.freeNo
    pending := s.pending }

/-- The state with the certificate of the ledger and the broken sensors. -/
def resetShown (s : State) (cold vhk : Bool) (rails : Nat) : State := showBroken (loadCert (resetCore s cold vhk rails))

theorem resetPart_cold (s : State) (vhk : Bool) (rails : Nat) : resetPart s true vhk rails = resetShown s true vhk rails := rfl

theorem resetPart_warm (s : State) (vhk : Bool) (rails : Nat) :
    resetPart s false vhk rails = keepId (keepLock s (keepDown s (resetShown s false vhk rails))) := rfl

theorem rd_resetCore (s : State) (cold vhk : Bool) (rails o : Nat) :
    rd (resetCore s cold vhk rails) o = if keptWord cold vhk o then rd s o else regReset o :=
  rd_filter_words s (keptWord cold vhk) o

/-! ### The certificate, and the broken sensors -/

theorem loadCert_butWords (s : State) : (loadCert s).butWords = s.butWords :=
  foldl_view (v := State.butWords) (f := fun s (w : Nat × W32) => wr s w.1 w.2) (fun w _ u => wr_butWords u w.1 w.2) s

theorem rd_loadCert (s : State) {o : Nat} (h : certWord o = false) : rd (loadCert s) o = rd s o :=
  foldl_view (v := fun u => rd u o) (fun w hw u => rd_wr_ne u w.2 fun he => by
    have hcert : certWord w.1 = true := (List.mem_filter.mp hw).2
    rw [← he, h] at hcert
    exact Bool.false_ne_true hcert) s

theorem showBroken_butWords (s : State) : (showBroken s).butWords = s.butWords :=
  foldl_view (v := State.butWords) (fun c _ u => wbit_butWords u (hkReg (0x100 + 4 * c)) 16 true) (wrF s (hkReg 4) 15 8 (brokenSensors s).length)

/-- Broken sensors show in HK_STATUS and in the words of their channels. -/
theorem rd_showBroken (s : State) {o : Nat} (hstatus : o ≠ hkReg 4) (hchan : ∀ c, c < 128 → o ≠ hkReg (0x100 + 4 * c)) :
    rd (showBroken s) o = rd s o := by
  refine (foldl_view (v := fun u => rd u o) (fun c hc u => rd_wbit_ne u 16 true (hchan c ?_)) _).trans (rd_wrF_ne s 15 8 _ hstatus)
  exact List.mem_range.mp (List.mem_filter.mp hc).1

theorem showBroken_of_none {s : State} (h : brokenSensors s = []) : showBroken s = wrF s (hkReg 4) 15 8 0 := by
  unfold showBroken
  rw [h]
  rfl

/-! ### What only a cold reset clears -/

theorem keepDown_butWords (old s : State) : (keepDown old s).butWords = s.butWords :=
  foldl_view (v := State.butWords) (fun n _ u => wrF_butWords u (skReg n 0) 1 0 2) s

theorem rd_keepDown (old s : State) {o : Nat} (h : ∀ n, n < 24 → o ≠ skReg n 0) : rd (keepDown old s) o = rd s o :=
  foldl_view (v := fun u => rd u o) (fun n hn u => rd_wrF_ne u 1 0 2 (h n (List.mem_range.mp (List.mem_filter.mp hn).1))) s

theorem skReg_ne_skReg {n m : Nat} (hn : n < 24) (hm : m < 24) (h : n ≠ m) : skReg n 0 ≠ skReg m 0 := by unfold skReg; omega

theorem skDown_mark (s : State) (n : Nat) : skDown (wrF s (skReg n 0) 1 0 2) n = true := by
  have hstate := rdF_wrF_same s (skReg n 0) (hi := 1) (lo := 0) 2 (by decide) (by decide)
  unfold rdF fld nbits at hstate
  unfold skDown rbit rdF fld nbits
  rw [beq_iff_eq]
  omega

/-- A stack that is DOWN stays so; no other does. -/
theorem skDown_keepDown (old s : State) {n : Nat} (hn : n < 24) : skDown (keepDown old s) n = (skDown old n || skDown s n) := by
  have hother : ∀ m ∈ (List.range 24).filter (skDown old), m ≠ n → ∀ u, skDown (wrF u (skReg m 0) 1 0 2) n = skDown u n := fun m hm hne u =>
    congrArg (fld · 1 1 == 1) (rd_wrF_ne u 1 0 2 (skReg_ne_skReg hn (List.mem_range.mp (List.mem_filter.mp hm).1) hne.symm))
  by_cases hdown : skDown old n = true
  · have hmem : n ∈ (List.range 24).filter (skDown old) := List.mem_filter.mpr ⟨List.mem_range.mpr hn, hdown⟩
    obtain ⟨u, -, hfold⟩ := foldl_view_at (v := fun u => skDown u n) (f := fun s n => wrF s (skReg n 0) 1 0 2)
      (List.nodup_range.filter _) hmem hother s
    rw [hdown, Bool.true_or]
    exact hfold.trans (skDown_mark u n)
  · have hmem : ∀ m ∈ (List.range 24).filter (skDown old), m ≠ n := fun m hm he => hdown (he ▸ (List.mem_filter.mp hm).2)
    rw [Bool.eq_false_iff.mpr hdown, Bool.false_or]
    exact foldl_view (v := fun u => skDown u n) (fun m hm u => hother m hm (hmem m hm) u) s

theorem keepLock_butWords (old s : State) : (keepLock old s).butWords = s.butWords := by
  unfold keepLock
  split <;> rfl

theorem rd_keepLock (old s : State) {o : Nat} (h : o ≠ secReg 0) : rd (keepLock old s) o = rd s o := by
  unfold keepLock
  split
  · exact rd_wbit_ne s 10 true h
  · rfl

theorem rbit_keepLock (old s : State) : rbit (keepLock old s) (secReg 0) 10 = (rbit old (secReg 0) 10 || rbit s (secReg 0) 10) := by
  unfold keepLock
  split
  · rename_i hlock
    rw [hlock, Bool.true_or]
    exact rbit_wbit_same s (secReg 0) true (by decide)
  · rename_i hlock
    rw [Bool.eq_false_iff.mpr hlock, Bool.false_or]

theorem keepId_butWords (s : State) : (keepId s).butWords = s.butWords := by
  unfold keepId
  split <;> rfl

theorem rd_keepId (s : State) {o : Nat} (h : o ≠ fabReg 4) : rd (keepId s) o = rd s o := by
  unfold keepId
  split
  · rw [rd_wbit_ne _ _ _ h, rd_wrF_ne _ _ _ _ h]
  · rfl

theorem id_keepId {s : State} (h : s.fab.accepted = true) : partId (keepId s) = s.fab.idCoord.toNat ∧ idValid (keepId s) = true := by
  rw [keepId, if_pos h]
  refine ⟨?_, rbit_wbit_same (wrF s (fabReg 4) 12 0 s.fab.idCoord.toNat) (fabReg 4) true (by decide)⟩
  exact (rdF_wrF_other _ _ _ (by decide) (by decide) (by decide) (.inl (by decide))).trans
    ((rdF_wrF_same s (fabReg 4) _ (by decide) (by decide)).trans (Nat.mod_eq_of_lt s.fab.idCoord.isLt))

/-! ### A reset of the part -/

section Reset

variable (s : State) (cold vhk : Bool) (rails : Nat)

theorem resetShown_butWords : (resetShown s cold vhk rails).butWords = (resetCore s cold vhk rails).butWords :=
  (showBroken_butWords _).trans (loadCert_butWords _)

/-- Its words apart, a reset leaves what Table 19.5 keeps. -/
theorem resetPart_butWords : (resetPart s cold vhk rails).butWords = (resetCore s cold vhk rails).butWords := by
  cases cold with
  | true => exact resetShown_butWords s true vhk rails
  | false =>
    rw [resetPart_warm, keepId_butWords, keepLock_butWords, keepDown_butWords]
    exact resetShown_butWords s false vhk rails

/-- A word that neither the certificate nor a broken sensor shows in. -/
theorem rd_resetShown {o : Nat} (hcert : certWord o = false) (hstatus : o ≠ hkReg 4) (hchan : ∀ c, c < 128 → o ≠ hkReg (0x100 + 4 * c)) :
    rd (resetShown s cold vhk rails) o = if keptWord cold vhk o then rd s o else regReset o := by
  rw [resetShown, rd_showBroken _ hstatus hchan, rd_loadCert _ hcert, rd_resetCore]

end Reset

/-- No sensor is broken in the words that a start of the part finds. -/
theorem brokenSensors_start (s : State) (rails : Nat) : brokenSensors (loadCert (resetCore s true false rails)) = [] := by
  refine List.filter_eq_nil_iff.mpr fun c hc => ?_
  have hword : rd (loadCert (resetCore s true false rails)) (hkReg (0x60 + 4 * (c / 32))) = regReset (hkReg (0x60 + 4 * (c / 32))) := by
    have hc : c < 128 := List.mem_range.mp hc
    have hcert : certWord (hkReg (0x60 + 4 * (c / 32))) = false := by
      unfold certWord hkReg secReg
      simp only [Bool.and_eq_false_iff, decide_eq_false_iff_not]
      omega
    rw [rd_loadCert _ hcert, rd_resetCore]
    rfl
  have hzero : ∀ k, k < 4 → regReset (hkReg (0x60 + 4 * k)) = 0 := by decide
  rw [sensorBroken, rbit, rdF, hword, hzero (c / 32) (by have := List.mem_range.mp hc; omega)]
  simp [fld, nbits]

/-- A start of the part leaves every register but SEC_CERT at its reset value. -/
theorem rd_start (s : State) (rails : Nat) {o : Nat} (h : certWord o = false) : rd (resetPart s true false rails) o = regReset o := by
  have hword (o : Nat) (h : certWord o = false) : rd (loadCert (resetCore s true false rails)) o = regReset o := by
    rw [rd_loadCert _ h, rd_resetCore]
    rfl
  rw [resetPart_cold, resetShown, showBroken_of_none (brokenSensors_start s rails)]
  by_cases hstatus : o = hkReg 4
  · rw [hstatus, wrF, rd_wr_same, hword _ (by decide)]
    decide
  · rw [rd_wrF_ne _ _ _ _ hstatus, hword o h]

end Sys2Proof.Machine
end

section
/-! SUPPORT. A cold start, PERST_N, RESET and a function-level reset, each by what it keeps (19 R441-R448, Table 19.5, 15 R371). -/

namespace Sys2Proof.Machine

/-! ### The fields of a part that has been reset (19 Table 19.5) -/

section Fields

variable (s : State) (cold vhk : Bool) (rails : Nat)

theorem resetPart_life : (resetPart s cold vhk rails).life = lifeKept s.life rails := (congrArg State.life (resetPart_butWords s cold vhk rails) :)
theorem resetPart_sec : (resetPart s cold vhk rails).sec = secKept s.sec := (congrArg State.sec (resetPart_butWords s cold vhk rails) :)
theorem resetPart_hk : (resetPart s cold vhk rails).hk = if vhk then hkKept s.hk else { vinOn := s.hk.vinOn } :=
  (congrArg State.hk (resetPart_butWords s cold vhk rails) :)
theorem resetPart_fab : (resetPart s cold vhk rails).fab = if cold then {} else
    { coord := s.fab.coord, idCoord := s.fab.idCoord, i3cAddr := s.fab.i3cAddr, accepted := s.fab.accepted, waiting := s.fab.waiting } :=
  (congrArg State.fab (resetPart_butWords s cold vhk rails) :)
theorem resetPart_insts : (resetPart s cold vhk rails).insts = [] := (congrArg State.insts (resetPart_butWords s cold vhk rails) :)
theorem resetPart_pot : (resetPart s cold vhk rails).pot = {} := (congrArg State.pot (resetPart_butWords s cold vhk rails) :)
theorem resetPart_arrays : (resetPart s cold vhk rails).arrays = s.arrays := (congrArg State.arrays (resetPart_butWords s cold vhk rails) :)
theorem resetPart_ledger : (resetPart s cold vhk rails).ledger = s.ledger := (congrArg State.ledger (resetPart_butWords s cold vhk rails) :)
theorem resetPart_grade : (resetPart s cold vhk rails).grade = s.grade := (congrArg State.grade (resetPart_butWords s cold vhk rails) :)

/-- Cores, mailboxes, Ladle and the fault records start empty. -/
theorem resetPart_empties : let t := resetPart s cold vhk rails
    t.tiles = [] ∧ t.cores = [] ∧ t.mbx = [] ∧ t.order = [] ∧ t.ladle = {} ∧ t.faults = [] ∧ t.rackTime = 0 :=
  have h := resetPart_butWords s cold vhk rails
  ⟨(congrArg State.tiles h :), (congrArg State.cores h :), (congrArg State.mbx h :), (congrArg State.order h :), (congrArg State.ladle h :),
    (congrArg State.faults h :), (congrArg State.rackTime h :)⟩

end Fields

/-! ### A cold start -/

/-- VIN is there. -/
def vinSeen (s : State) : State := modHk s (fun h => { h with vinOn := true })

theorem coldStart_of_vin_off {s : State} (h : s.hk.vinOn = false) : coldStart s = resetPart (vinSeen s) true false 0 := if_pos (by rw [h]; rfl)

theorem coldStart_of_vin_on {s : State} (h : s.hk.vinOn = true) : coldStart s = if s.life.lcReset then coldReset s else s :=
  if_neg (by rw [h]; exact Bool.false_ne_true)

/-- POLICY_LOCK is clear after a cold reset. -/
theorem policyLock_coldReset (s : State) : rbit (coldReset s) (secReg 0) 10 = false := by
  have hword : rd (coldReset s) (secReg 0) = regReset (secReg 0) := by
    rw [coldReset, resetPart_cold, rd_resetShown _ _ _ _ (by decide) (by decide) (fun c hc => by unfold secReg hkReg; omega)]
    exact if_neg (by decide)
  rw [rbit, rdF, hword]
  decide

/-! ### A warm reset -/

section Warm

variable (s : State)

/-- The part after a warm reset, before it takes again what such a reset does not clear. -/
def warmShown : State := resetShown s false true (Nat.min 4 s.life.rails)

/-- The same with its stacks that are DOWN, and POLICY_LOCK. -/
def warmKept : State := keepLock s (keepDown s (warmShown s))

theorem warmReset_eq : warmReset s = keepId (warmKept s) := rfl

theorem rd_warmShown {o : Nat} (hcert : certWord o = false) (hstatus : o ≠ hkReg 4) (hchan : ∀ c, c < 128 → o ≠ hkReg (0x100 + 4 * c)) :
    rd (warmShown s) o = if keptWord false true o then rd s o else regReset o := rd_resetShown _ _ _ _ hcert hstatus hchan

/-- The counts since cold reset, and the words of the VHK domain. -/
theorem rd_warmReset_kept {o : Nat} (hkept : keptWord false true o = true) (hfab : o < 0x0E700000 ∨ 0x0E900000 ≤ o) (hsec : o ≠ secReg 0)
    (hcert : certWord o = false) (hchan : o < hkReg 0 ∨ hkReg 0x10 ≤ o ∧ o < hkReg 0x100 ∨ hkReg 0x300 ≤ o) : rd (warmReset s) o = rd s o := by
  rw [warmReset_eq, rd_keepId _ (by unfold fabReg; omega), warmKept, rd_keepLock _ _ hsec,
    rd_keepDown _ _ (fun n hn => by unfold skReg; omega),
    rd_warmShown _ hcert (by unfold hkReg at *; omega) (fun c hc => by unfold hkReg at *; omega), if_pos hkept]

theorem skDown_warmShown {n : Nat} (hn : n < 24) : skDown (warmShown s) n = false := by
  have hlost : ∀ n, n < 24 → keptWord false true (skReg n 0) = false := by decide
  have hup : ∀ n, n < 24 → (fld (regReset (skReg n 0)) 1 1 == 1) = false := by decide
  have hcert : certWord (skReg n 0) = false := by
    unfold certWord skReg secReg
    simp only [Bool.and_eq_false_iff, decide_eq_false_iff_not]
    omega
  rw [skDown, rbit, rdF, rd_warmShown _ hcert (by unfold skReg hkReg; omega) (fun c hc => by unfold skReg hkReg; omega), hlost n hn]
  exact hup n hn

theorem skDown_warmReset {n : Nat} (hn : n < 24) : skDown (warmReset s) n = skDown s n := by
  have hword : rd (warmReset s) (skReg n 0) = rd (keepDown s (warmShown s)) (skReg n 0) := by
    rw [warmReset_eq, rd_keepId _ (by unfold skReg fabReg; omega), warmKept, rd_keepLock _ _ (by unfold skReg secReg; omega)]
  calc skDown (warmReset s) n = skDown (keepDown s (warmShown s)) n := congrArg (fld · 1 1 == 1) hword
    _ = skDown s n := by rw [skDown_keepDown _ _ hn, skDown_warmShown s hn, Bool.or_false]

theorem policyLock_warmReset : rbit (warmReset s) (secReg 0) 10 = rbit s (secReg 0) 10 := by
  have hword : rd (keepDown s (warmShown s)) (secReg 0) = regReset (secReg 0) := by
    rw [rd_keepDown _ _ (fun n hn => by unfold skReg secReg; omega),
      rd_warmShown _ (by decide) (by decide) (fun c hc => by unfold secReg hkReg; omega)]
    exact if_neg (by decide)
  have hclear : rbit (keepDown s (warmShown s)) (secReg 0) 10 = false := (congrArg (fld · 10 10 == 1) hword).trans (by decide)
  calc rbit (warmReset s) (secReg 0) 10 = rbit (warmKept s) (secReg 0) 10 := congrArg (fld · 10 10 == 1) (rd_keepId _ (by decide))
    _ = rbit s (secReg 0) 10 := by rw [warmKept, rbit_keepLock, hclear, Bool.or_false]

theorem warmKept_butWords : (warmKept s).butWords = (resetCore s false true (Nat.min 4 s.life.rails)).butWords :=
  (keepLock_butWords ..).trans ((keepDown_butWords ..).trans (resetShown_butWords ..))

theorem warmKept_idCoord : (warmKept s).fab.idCoord = s.fab.idCoord := (congrArg (fun u : State => u.fab.idCoord) (warmKept_butWords s) :)

theorem id_warmReset (h : s.fab.accepted = true) : partId (warmReset s) = s.fab.idCoord.toNat ∧ idValid (warmReset s) = true := by
  have hid := id_keepId (s := warmKept s) ((congrArg (fun u : State => u.fab.accepted) (warmKept_butWords s)).trans h)
  rwa [warmKept_idCoord, ← warmReset_eq] at hid

end Warm

/-! ### PERST_N -/

section Perst

variable {s : State}

/-- PERST_N is asserted. -/
def perstLow (s : State) : State := modLife s (fun l => { l with perst := true })

theorem perstAssert_eq : perstAssert s = if vhkOn s && !s.hk.tripped then warmReset (perstLow s) else perstLow s := rfl

theorem perstAssert_powered (hvhk : vhkOn s = true) (htrip : s.hk.tripped = false) : perstAssert s = warmReset (perstLow s) := by
  rw [perstAssert_eq, hvhk, htrip]
  rfl

theorem perstAssert_unpowered (h : vhkOn s = false ∨ s.hk.tripped = true) : perstAssert s = perstLow s := by
  refine if_neg ?_
  rcases h with h | h
  · rw [show vhkOn (modLife s fun l => { l with perst := true }) = false from h]
    exact Bool.false_ne_true
  · rw [show (modLife s fun l => { l with perst := true }).hk.tripped = true from h, Bool.not_true, Bool.and_false]
    exact Bool.false_ne_true

/-- What a warm reset keeps, whatever asks for it. -/
theorem warmReset_keeps (s : State) :
    let t := warmReset s
    t.life = lifeKept s.life (Nat.min 4 s.life.rails) ∧ t.insts = [] ∧ t.pot = {} ∧ t.arrays = s.arrays ∧ t.ledger = s.ledger ∧
      t.fab.coord = s.fab.coord ∧ t.fab.accepted = s.fab.accepted := by
  have hfab := resetPart_fab s false true (Nat.min 4 s.life.rails)
  exact ⟨resetPart_life .., resetPart_insts .., resetPart_pot .., resetPart_arrays .., resetPart_ledger .., (congrArg Fabric.coord hfab :),
    (congrArg Fabric.accepted hfab :)⟩

end Perst

/-! ### The rails (19 R441) -/

/-- The next rail in order is up. -/
def railRisen (s : State) (r : Nat) : State :=
  modLife s (fun l => { l with rails := r + 1, strap := if r = 0 then Config.slotStrap % 4 else l.strap })

theorem railUp_next {s : State} {r : Nat} (hvin : s.hk.vinOn = true) (htrip : s.hk.tripped = false) (h : r = s.life.rails) :
    railUp s r = railRisen s r := if_pos ⟨hvin, htrip, h⟩

theorem railUp_other {s : State} {r : Nat} (h : r ≠ s.life.rails) : railUp s r = s := if_neg fun hall => h hall.2.2

/-! ### RESET (19 R445, R448) -/

section Request

variable {s : State} {m : MbxId}

/-- What a response rests on, and what the instances of models hold. -/
def answers (s : State) : SMap Mailbox × List MbxId × SMap Instance := (s.mbx, s.order, s.insts)

theorem answers_portSignal (s : State) : answers (portSignal s) = answers s := by
  have hsig (u : State) (pf v : Nat) : answers (signal u pf v) = answers u := by simp [answers]
  exact (hsig _ 1 10).trans (hsig s 0 66)

theorem answers_noteReset (s : State) (p : Nat) : answers (noteReset s p) = answers s := by obtain ⟨b, l, h⟩ := noteReset_eq s p; rw [h]; rfl

theorem answers_startDisc (s : State) (p : Nat) : answers (startDisc s p) = answers s := by
  rw [startDisc_eq]
  split
  · rw [sendHello_eq]
    rfl
  · rfl

theorem answers_portReset {p : Nat} (h : portState s p = fpQuarantine ∨ portCarries s p = false) : answers (portReset s p) = answers s := by
  by_cases hquar : portState s p = fpQuarantine
  · rw [portReset_of_quarantine hquar, answers_noteReset, answers_startDisc]
  · have hrestart : answers (portRestarted s p) = answers s :=
      portRestarted_view answers (fun u => answers_noteReset u p) answers_portSignal
    rw [portReset_of_idle (h.resolve_left hquar) hquar]
    split
    · exact hrestart
    · exact hrestart

theorem answers_portsDrain (s : State) : answers (portsDrain s) = answers s :=
  foldl_view (v := answers) (fun p _ u => by
    unfold portDrain
    split <;> rfl) s

theorem responds_of_answers {t u : State} {st : Nat} {ps : Bytes} {f : Bool} (h : answers t = answers u) (hu : Responds s u m st ps f) :
    Responds s t m st ps f := responds_congr hu (congrArg Prod.fst h) (congrArg (fun x => x.2.1) h)

/-- The response to a RESET stands once the reset has gone on, and the models that are placed stay. -/
theorem reset_answered {t : State} (h : answers t = answers (reply s m [])) :
    Responds s t m stOk [] true ∧ (∀ j, instView t j = instView s j) :=
  ⟨responds_of_answers h (post_responds s m stOk [] true),
    fun j => (instView_of_insts (congrArg (fun x => x.2.2) h) j).trans (post_instView s m stOk (reqOp s m) [] true j)⟩

theorem reply_cw (s : State) (m : MbxId) : (reply s m []).cw = s.cw := post_cw ..
theorem reply_life (s : State) (m : MbxId) : (reply s m []).life = s.life := post_life ..

/-- KIND 1: the answer, then the drain of the ACTIVE ports. -/
theorem execResetWarm_ready (h : Ready s m 0x0005 8) (hkind : reqN s m 8 1 = 1) (hzero : ZeroAt s m 10 6) :
    exec (.resetWarm m) s = .next (resetBegin (reply s m [])) := by
  have hchk : resetFields s m = none := by
    rw [resetFields, fieldCheck_ready h, hkind]
    simp [fieldsOk, reqZero, show reqN s m 10 6 = 0 from hzero]
  change onMbx m (if reqN s m 8 1 = 2 then s else _) = _
  rw [if_neg (by rw [hkind]; decide)]
  exact runCmd_ready h hchk _

theorem resetWarm_drains (s : State) (m : MbxId) :
    let t := resetBegin (reply s m [])
    Responds s t m stOk [] true ∧ t.life.drainReset = true ∧
      (∀ p, p < 18 → portState t p = (if portState s p = fpActive then fpDraining else portState s p)) ∧ (∀ j, instView t j = instView s j) := by
  have hanswers : answers (resetBegin (reply s m [])) = answers (reply s m []) := answers_portsDrain (reply s m [])
  obtain ⟨hresp, hinsts⟩ := reset_answered hanswers
  refine ⟨hresp, rfl, fun p hp => ?_, hinsts⟩
  have hdrain := portState_portsDrain (reply s m []) hp
  rw [portState_of_cw (reply_cw s m)] at hdrain
  exact hdrain

/-- KIND 2: the answer, then the reset of the port. -/
theorem execResetFabricPort_ready (h : Ready s m 0x0005 8) (hkind : reqN s m 8 1 = 2) (hport : reqN s m 9 1 < 18) (hzero : ZeroAt s m 10 6) :
    exec (.resetFabricPort m) s = .next (portReset (reply s m []) (reqN s m 9 1)) := by
  have hchk : resetFields s m = none := by
    rw [resetFields, fieldCheck_ready h, hkind]
    simp [fieldsOk, reqZero, show reqN s m 10 6 = 0 from hzero, hport]
  change onMbx m (if reqN s m 8 1 = 2 then _ else s) = _
  rw [if_pos hkind]
  exact runCmd_ready h hchk _

/-- FP_STATUS at its reset value is DOWN, and training is set above it. -/
theorem state_regReset {p : Nat} (hp : p < 18) (b : Bool) :
    fld (if b then setFld (regReset (fpReg p 0)) 2 0 fpTraining else regReset (fpReg p 0)) 2 0 = if b then fpTraining else fpDown := by
  have hdown : ∀ p, p < 18 → fld (regReset (fpReg p 0)) 2 0 = fpDown := by decide
  cases b with
  | true => exact fld_setFld_same _ fpTraining (by decide) (by decide)
  | false => exact hdown p hp

theorem sameWords_reply {os : List Nat} {t : State} (h : SameWords os (reply s m []) t) : SameWords os s t :=
  (SameWords.of_cw (reply_cw s m)).trans h

theorem resetFabricPort_idle {p : Nat} (hp : p < 18) (hquar : portState s p ≠ fpQuarantine) (hidle : portCarries s p = false) :
    let t := portReset (reply s m []) p
    Responds s t m stOk [] true ∧ portAt t p = {} ∧
      portState t p = (if portsLive s && !portDisabled s p then fpTraining else fpDown) ∧
      SameWords [fpReg p 0] s t ∧ (∀ j, instView t j = instView s j) := by
  have hstate := portState_of_cw (reply_cw s m) p
  have hidle' : portCarries (reply s m []) p = false := by rw [portCarries, hstate]; exact hidle
  obtain ⟨hstatus, hport, hwords, -, -⟩ := idle_resets hidle' (by rwa [hstate])
  obtain ⟨hresp, hinsts⟩ := reset_answered (answers_portReset (.inr hidle'))
  rw [portsLive_of_life (reply_life s m), portDisabled_of_sameWords (p := p) (.of_cw (reply_cw s m))] at hstatus
  exact ⟨hresp, hport, (congrArg (fld · 2 0) hstatus).trans (state_regReset hp _), sameWords_reply hwords, hinsts⟩

theorem resetFabricPort_quarantined {p : Nat} (hquar : portState s p = fpQuarantine) :
    let t := portReset (reply s m []) p
    Responds s t m stOk [] true ∧ portState t p = fpDiscovery ∧ SameWords [fpReg p 0] s t ∧ (∀ j, instView t j = instView s j) := by
  have hquar' : portState (reply s m []) p = fpQuarantine := (portState_of_cw (reply_cw s m) p).trans hquar
  obtain ⟨hstate, -, -, hwords, -, -⟩ := quarantine_resets hquar'
  obtain ⟨hresp, hinsts⟩ := reset_answered (answers_portReset (.inl hquar'))
  exact ⟨hresp, hstate, sameWords_reply hwords, hinsts⟩

end Request

/-! ### FUNCTION_LEVEL_RESET (15 R371) -/

section Function

variable {s : State} {pf : Nat}

/-- What a function-level reset leaves, but for the endpoint of PF1. -/
def functionCleared (s : State) (pf : Nat) : State :=
  { s with
    mbx := s.mbx.map (fun e => if e.1 / 64 = pf then (e.1, mbxReset e.2) else e)
    order := s.order.filter (fun m => m.pf != pf)
    bme0 := s.bme0 && pf != 0
    bme1 := s.bme1 && pf != 1
    unmasked := s.unmasked.filter (fun k => k / 128 != pf)
    msixPend := s.msixPend.filter (fun k => k / 128 != pf) }

/-- The DOE mailbox and its session are PF1's. -/
def doeCleared (s : State) : State := { s with sec := { s.sec with spdm := false, doeOut := [] } }

theorem functionReset_eq (h : s.life.linkUp = true) :
    functionReset s pf = if pf = 1 then doeCleared (functionCleared s pf) else functionCleared s pf := if_pos h

theorem functionReset_of_link_down (h : s.life.linkUp = false) : functionReset s pf = s := if_neg (by rw [h]; exact Bool.false_ne_true)

/-- But for SEC's DOE, both functions are reset alike. -/
theorem functionReset_view {β : Type} (v : State → β) (hdoe : ∀ u, v (doeCleared u) = v u) (h : s.life.linkUp = true) :
    v (functionReset s pf) = v (functionCleared s pf) := by
  rw [functionReset_eq h]
  split
  · exact hdoe _
  · rfl

theorem mapFind_reset_mailboxes (l : SMap Mailbox) (pf k : Nat) :
    mapFind (l.map (fun e => if e.1 / 64 = pf then (e.1, mbxReset e.2) else e)) k =
      if k / 64 = pf then (mapFind l k).map mbxReset else mapFind l k := by
  induction l with
  | nil => simp [mapFind]
  | cons e l ih =>
    obtain ⟨i, b⟩ := e
    by_cases hi : k = i
    · subst hi
      by_cases hk : k / 64 = pf <;> simp [mapFind, hk]
    · by_cases hk : i / 64 = pf <;> simp [mapFind, hk, hi, ih]

theorem mbxKey_div {m : MbxId} (h : mbxWf m = true) : mbxKey m / 64 = m.pf := by
  simp only [mbxWf, Bool.or_eq_true, Bool.and_eq_true, beq_iff_eq, decide_eq_true_eq] at h
  unfold mbxKey
  omega

theorem mbxAt_functionCleared {m : MbxId} (h : mbxWf m = true) :
    (m.pf = pf → mbxAt (functionCleared s pf) m = { epoch := (mbxAt (functionCleared s pf) m).epoch }) ∧
      (m.pf ≠ pf → mbxAt (functionCleared s pf) m = mbxAt s m) := by
  have hfind := mapFind_reset_mailboxes s.mbx pf (mbxKey m)
  rw [mbxKey_div h] at hfind
  have hat : mbxAt (functionCleared s pf) m = (mapFind (functionCleared s pf).mbx (mbxKey m)).getD {} := rfl
  refine ⟨fun hpf => ?_, fun hpf => ?_⟩
  · rw [if_pos hpf] at hfind
    rw [hat, show mapFind (functionCleared s pf).mbx (mbxKey m) = _ from hfind]
    cases mapFind s.mbx (mbxKey m) with
    | none => rfl
    | some b => rfl
  · rw [if_neg hpf] at hfind
    rw [hat, show mapFind (functionCleared s pf).mbx (mbxKey m) = _ from hfind]
    rfl

theorem busMaster_functionCleared (hpf : pf < 2) :
    busMaster (functionCleared s pf) pf = false ∧ busMaster (functionCleared s pf) (1 - pf) = busMaster s (1 - pf) := by
  have hcase : pf = 0 ∨ pf = 1 := by omega
  rcases hcase with rfl | rfl
  · exact ⟨Bool.and_false _, Bool.and_true _⟩
  · exact ⟨Bool.and_false _, Bool.and_true _⟩

theorem mem_other_function {l : List Nat} {k : Nat} : k ∈ l.filter (fun k => k / 128 != pf) ↔ k ∈ l ∧ k / 128 ≠ pf := by
  rw [List.mem_filter, bne_iff_ne]

/-- What a function-level reset leaves as it is. -/
theorem functionReset_keeps (h : s.life.linkUp = true) :
    let t := functionReset s pf
    t.insts = s.insts ∧ t.cw = s.cw ∧ t.pot = s.pot ∧ t.heldDma = s.heldDma ∧ t.hostMem = s.hostMem ∧ t.dmaWait = s.dmaWait ∧
      t.ladle = s.ladle ∧ t.fab = s.fab ∧ t.vecCount = s.vecCount ∧ (pf = 0 → t.sec = s.sec) ∧
      (pf = 1 → t.sec = { s.sec with spdm := false, doeOut := [] }) := by
  rw [functionReset_eq h]
  split
  · rename_i hpf
    exact ⟨rfl, rfl, rfl, rfl, rfl, rfl, rfl, rfl, rfl, fun h0 => absurd (h0.symm.trans hpf) (by decide), fun _ => rfl⟩
  · rename_i hpf
    exact ⟨rfl, rfl, rfl, rfl, rfl, rfl, rfl, rfl, rfl, fun _ => rfl, fun h1 => absurd h1 hpf⟩

theorem function_reset (hpf : pf < 2) (h : s.life.linkUp = true) :
    let t := functionReset s pf
    (∀ m, mbxWf m = true → m.pf = pf → mbxAt t m = { epoch := (mbxAt t m).epoch }) ∧
      (∀ m, mbxWf m = true → m.pf ≠ pf → mbxAt t m = mbxAt s m) ∧
      t.order = s.order.filter (fun m => m.pf != pf) ∧ busMaster t pf = false ∧ busMaster t (1 - pf) = busMaster s (1 - pf) ∧
      (∀ k, k ∈ t.unmasked ↔ k ∈ s.unmasked ∧ k / 128 ≠ pf) ∧ (∀ k, k ∈ t.msixPend ↔ k ∈ s.msixPend ∧ k / 128 ≠ pf) := by
  have hmbx (m : MbxId) : mbxAt (functionReset s pf) m = mbxAt (functionCleared s pf) m :=
    functionReset_view (fun u => mbxAt u m) (fun _ => rfl) h
  have hbme (k : Nat) : busMaster (functionReset s pf) k = busMaster (functionCleared s pf) k :=
    functionReset_view (fun u => busMaster u k) (fun _ => rfl) h
  have hunmasked := functionReset_view (pf := pf) State.unmasked (fun _ => rfl) h
  have hpend := functionReset_view (pf := pf) State.msixPend (fun _ => rfl) h
  obtain ⟨hoff, hother⟩ := busMaster_functionCleared (s := s) hpf
  refine ⟨fun m hm hfn => ?_, fun m hm hfn => ?_, functionReset_view (pf := pf) State.order (fun _ => rfl) h, ?_, ?_, fun k => ?_, fun k => ?_⟩
  · rw [hmbx]
    exact (mbxAt_functionCleared hm).1 hfn
  · rw [hmbx]
    exact (mbxAt_functionCleared hm).2 hfn
  · rw [hbme, hoff]
  · rw [hbme, hother]
  · rw [hunmasked]
    exact mem_other_function
  · rw [hpend]
    exact mem_other_function

end Function

end Sys2Proof.Machine
end

section
/-! PROOF. O39: what each reset keeps and loses (10 R241, R247, 15 R371, 19 R441-R448). -/

namespace Sys2Proof.Machine

theorem cold_started {s : State} (h : s.hk.vinOn = false) :
    let t := coldStart s
    t.hk.vinOn = true ∧ t.life.rails = 0 ∧ t.life.stage = 0 ∧ t.life.partState = psBoot ∧ t.life.fw = none ∧
      t.insts = [] ∧ t.tiles = [] ∧ t.cores = [] ∧ t.mbx = [] ∧ t.order = [] ∧ t.pot = {} ∧ t.ladle = {} ∧ t.faults = [] ∧ t.rackTime = 0 ∧
      t.fab = {} ∧ t.arrays = s.arrays ∧ t.ledger = s.ledger ∧ t.sec.cores = s.sec.cores ∧ t.sec.regions = s.sec.regions ∧
      t.sec.keys = s.sec.keys ∧ t.life.lcState = s.life.lcState ∧ t.life.secMin = s.life.secMin ∧ t.grade = s.grade ∧
      (∀ o, certWord o = false → rd t o = regReset o) := by
  rw [coldStart_of_vin_off h]
  obtain ⟨htiles, hcores, hmbx, horder, hladle, hfaults, htime⟩ := resetPart_empties (vinSeen s) true false 0
  have hlife := resetPart_life (vinSeen s) true false 0
  have hsec := resetPart_sec (vinSeen s) true false 0
  exact ⟨(congrArg Hk.vinOn (resetPart_hk (vinSeen s) true false 0) :), (congrArg Life.rails hlife :), (congrArg Life.stage hlife :),
    (congrArg Life.partState hlife :), (congrArg Life.fw hlife :), resetPart_insts .., htiles, hcores, hmbx, horder, resetPart_pot .., hladle,
    hfaults, htime, (resetPart_fab (vinSeen s) true false 0 :), resetPart_arrays (vinSeen s) true false 0, resetPart_ledger (vinSeen s) true false 0,
    (congrArg Sec.cores hsec :), (congrArg Sec.regions hsec :), (congrArg Sec.keys hsec :), (congrArg Life.lcState hlife :),
    (congrArg Life.secMin hlife :), resetPart_grade (vinSeen s) true false 0, fun o ho => rd_start (vinSeen s) 0 ho⟩

theorem lifecycle_cold_reset {s : State} (hvin : s.hk.vinOn = true) (hdue : s.life.lcReset = true) :
    let t := coldStart s
    t.life.lcReset = false ∧ t.life.rails = 1 ∧ t.life.stage = 0 ∧ t.insts = [] ∧ t.fab = {} ∧
      t.arrays = s.arrays ∧ t.ledger = s.ledger ∧ t.life.lcState = s.life.lcState ∧ rbit t (secReg 0) 10 = false := by
  have hrun : coldStart s = coldReset s := (coldStart_of_vin_on hvin).trans (if_pos hdue)
  rw [hrun]
  have hlife := resetPart_life s true true 1
  exact ⟨(congrArg Life.lcReset hlife :), (congrArg Life.rails hlife :), (congrArg Life.stage hlife :), resetPart_insts s true true 1,
    (resetPart_fab s true true 1 :), resetPart_arrays s true true 1, resetPart_ledger s true true 1, (congrArg Life.lcState hlife :),
    policyLock_coldReset s⟩

theorem perst_resets {s : State} (hvhk : vhkOn s = true) (htrip : s.hk.tripped = false) :
    let t := perstAssert s
    t.life.perst = true ∧ t.life.linkUp = false ∧ t.life.rails = Nat.min 4 s.life.rails ∧
      t.life.stage = 0 ∧ t.life.fw = none ∧ t.insts = [] ∧ t.pot = {} ∧ t.arrays = s.arrays ∧ t.ledger = s.ledger ∧
      t.fab.coord = s.fab.coord ∧ t.fab.accepted = s.fab.accepted ∧ (s.fab.accepted = true → partId t = s.fab.idCoord.toNat ∧ idValid t = true) ∧
      (∀ n, n < 24 → skDown t n = skDown s n) ∧ rbit t (secReg 0) 10 = rbit s (secReg 0) 10 ∧
      rd t (chReg 0x28) = rd s (chReg 0x28) ∧ rd t (fltReg 0x18) = rd s (fltReg 0x18) ∧ rd t (hkReg 0x50) = rd s (hkReg 0x50) := by
  rw [perstAssert_powered hvhk htrip]
  obtain ⟨hlife, hinsts, hpot, harrays, hledger, hcoord, haccepted⟩ := warmReset_keeps (perstLow s)
  exact ⟨(congrArg Life.perst hlife :), (congrArg Life.linkUp hlife :), (congrArg Life.rails hlife :), (congrArg Life.stage hlife :),
    (congrArg Life.fw hlife :), hinsts, hpot, harrays, hledger, hcoord, haccepted, id_warmReset (perstLow s),
    fun n hn => skDown_warmReset (perstLow s) hn, policyLock_warmReset (perstLow s),
    rd_warmReset_kept (perstLow s) (by decide) (by decide) (by decide) (by decide) (by decide),
    rd_warmReset_kept (perstLow s) (by decide) (by decide) (by decide) (by decide) (by decide),
    rd_warmReset_kept (perstLow s) (by decide) (by decide) (by decide) (by decide) (by decide)⟩

theorem perst_released (s : State) :
    let t := perstDeassert s
    t.life.perst = false ∧ (1 ≤ s.life.stage → s.life.perst = true → t.life.linkUp = true) ∧
      t = { s with life := { s.life with perst := false, linkUp := t.life.linkUp } } := by
  refine ⟨rfl, fun hstage hlow => ?_, rfl⟩
  change (s.life.linkUp || (decide (1 ≤ s.life.stage) && s.life.perst)) = true
  rw [hlow, decide_eq_true hstage, Bool.and_true, Bool.or_true]

theorem drain_ends {s : State} (h : s.life.drainReset = true) :
    let t := warmReset s
    exec .resetDrainEnd s = .next t ∧ t.life.drainReset = false ∧ t.life.stage = 0 ∧ t.life.fw = none ∧ t.insts = [] ∧
      t.life.rails = Nat.min 4 s.life.rails ∧ t.arrays = s.arrays ∧ t.ledger = s.ledger ∧ t.fab.coord = s.fab.coord := by
  obtain ⟨hlife, hinsts, -, harrays, hledger, hcoord, -⟩ := warmReset_keeps s
  have hrun : (if s.life.drainReset then warmReset s else s) = warmReset s := if_pos h
  exact ⟨(rfl : exec .resetDrainEnd s = .next (if s.life.drainReset then warmReset s else s)).trans (congrArg _ hrun),
    (congrArg Life.drainReset hlife :), (congrArg Life.stage hlife :), (congrArg Life.fw hlife :), hinsts, (congrArg Life.rails hlife :),
    harrays, hledger, hcoord⟩

theorem rail_rises {s : State} {r : Nat} : let t := railRisen s r
    t.life.rails = r + 1 ∧ (r = 0 → t.life.strap = Config.slotStrap % 4) ∧ (r ≠ 0 → t.life.strap = s.life.strap) ∧
      t = { s with life := { s.life with rails := t.life.rails, strap := t.life.strap } } :=
  ⟨rfl, fun h => if_pos h, fun h => if_neg h, rfl⟩

/-- Settles O39: each reset by the words it keeps, which neither the certificate nor a broken sensor shows in, and the fields of
Table 19.5; RESET by its response and what its KIND then does to the ports. -/
theorem resetsKeepAndLose : Obligations.ResetsKeepAndLose := by
  unfold Obligations.ResetsKeepAndLose
  refine ⟨fun s h => ⟨coldStart s, rfl, cold_started h⟩, fun s hvin hdue => ?_, fun s hvin hdue => ⟨coldStart s, rfl, lifecycle_cold_reset hvin hdue⟩,
    fun s hvhk htrip => ⟨perstAssert s, rfl, perst_resets hvhk htrip⟩, fun s h => ?_, fun s => ⟨perstDeassert s, rfl, perst_released s⟩,
    fun s r hr hvin htrip hnext => ?_, fun s r hr hother => ?_,
    fun s m h hkind hzero => ⟨_, execResetWarm_ready h hkind hzero, resetWarm_drains s m⟩,
    fun s m h hkind hport hzero hquar hidle => ⟨_, execResetFabricPort_ready h hkind hport hzero, resetFabricPort_idle hport hquar hidle⟩,
    fun s m h hkind hport hzero hquar => ⟨_, execResetFabricPort_ready h hkind hport hzero, resetFabricPort_quarantined hquar⟩,
    fun s m hm hkind => ?_, fun s m hm hkind => ?_, fun s h => ⟨warmReset s, drain_ends h⟩, fun s h => ?_, fun s pf hpf h => ?_,
    fun s pf hpf h => ?_⟩
  · have hrun : coldStart s = s := (coldStart_of_vin_on hvin).trans (if_neg (by rw [hdue]; exact Bool.false_ne_true))
    exact (rfl : exec .coldReset s = .next (coldStart s)).trans (congrArg _ hrun)
  · exact (rfl : exec .perstNAssert s = .next (perstAssert s)).trans (congrArg _ (perstAssert_unpowered h))
  · exact ⟨railRisen s r, (onUnit_of_true (decide_eq_true hr) _).trans (congrArg _ (railUp_next hvin htrip hnext)), rail_rises⟩
  · exact (onUnit_of_true (decide_eq_true hr) _).trans (congrArg _ (railUp_other hother))
  · exact (onUnit_of_true hm _).trans (congrArg _ (if_pos hkind))
  · exact (onUnit_of_true hm _).trans (congrArg _ (if_neg hkind))
  · have hrun : (if s.life.drainReset then warmReset s else s) = s := if_neg (by rw [h]; exact Bool.false_ne_true)
    exact (rfl : exec .resetDrainEnd s = .next (if s.life.drainReset then warmReset s else s)).trans (congrArg _ hrun)
  · obtain ⟨hmine, hothers, horder, hoff, hother, hunmasked, hpend⟩ := function_reset hpf h
    exact ⟨functionReset s pf, onUnit_of_true (decide_eq_true hpf) _, hmine, hothers, horder, hoff, hother, hunmasked, hpend, functionReset_keeps h⟩
  · exact (onUnit_of_true (decide_eq_true hpf) _).trans (congrArg _ (functionReset_of_link_down h))

end Sys2Proof.Machine
end
